-- ==== Sys2Proof/Word.lean ====
section
/-! DEFINITION. The words of the machine: the widths the manual has (R2, R48, R82). -/

namespace Sys2Proof

/-- One byte of memory (R3). -/
abbrev Byte := BitVec 8
/-- One 32-bit container: the contents of a register of R119. -/
abbrev Word := BitVec 32
/-- One 64-bit instruction word or clause header (R48). -/
abbrev Dword := BitVec 64
/-- A 5-bit format code (R82). -/
abbrev Fmt := BitVec 5
/-- A 16-bit tile tag (R103). -/
abbrev TileTag := BitVec 16

end Sys2Proof
end

