-- ==== Sys2Proof/Syntax.lean ====
section
/-! DEFINITION. The instructions and events of the opcode table: operands (R54 to R57), the enumerated
modifiers of each entry, and the ONE inductive with a constructor for every row of the table. -/

namespace Sys2Proof

/-- Operating format of the integer family (R149). -/
inductive IFmt where
  | s32 | n32 | s16 | n16
  deriving DecidableEq, Repr

/-- Conditions of `icmp` (R153). -/
inductive ICmp where
  | eq | ne | lt | le | gt | ge
  deriving DecidableEq, Repr

/-- Operations of `plop` (R159). -/
inductive PlopOp where
  | and | or | xor | andn | nand | nor | xnor | orn
  deriving DecidableEq, Repr

/-- Forms of `pmov` (R160). -/
inductive PmovKind where
  | r2p | p2r | m2p
  deriving DecidableEq, Repr

/-- Rounding modes (R89); `rs` is stochastic (R90). -/
inductive Rnd where
  | rne | rtz | rdn | rup | rs
  deriving DecidableEq, Repr

/-- Conditions of `fcmp` (R163). -/
inductive FCmp where
  | eq | ne | lt | le | gt | ge | num | nan
  deriving DecidableEq, Repr

/-- Source formats of `fclass` (R164). -/
inductive SrcFmt where
  | f32 | f16 | bf16
  deriving DecidableEq, Repr

/-- Segment sizes of the cross-lane instructions (R172). -/
inductive Seg where
  | whole | s8 | s16 | s32 | s64
  deriving DecidableEq, Repr

/-- Modes of `shfl` (R172). -/
inductive ShflMode where
  | idx | add | xor | rev
  deriving DecidableEq, Repr

/-- Modes of `vote` (R173). -/
inductive VoteMode where
  | all | any | eq | cnt
  deriving DecidableEq, Repr

/-- Operations of `sred` and `lred` (R136). -/
inductive RedOp where
  | add | min | max | and | or | xor | argmax
  deriving DecidableEq, Repr

/-- Formats of `sred`, `lred` and `scan` (R136). -/
inductive RedFmt where
  | s32 | n32 | f32 | raw32
  deriving DecidableEq, Repr

/-- Operations of `scan` (R175). -/
inductive ScanOp where
  | add | min | max | and | or | xor | addx
  deriving DecidableEq, Repr

/-- Operations of `atom` and `red` (R223). -/
inductive AtomOp where
  | addS32 | addN32 | addF32 | minS32 | minN32 | minF32 | maxS32 | maxN32 | maxF32 | and | or | xor | xchg | cas | argmax
  deriving DecidableEq, Repr

/-- Operations of `cpyr` and of RRS (R226, R346). -/
inductive CpyOp where
  | add | min | max | and | or | xor
  deriving DecidableEq, Repr

/-- Formats of `cpyr` and of RRS (R226, R346). -/
inductive RelFmt where
  | f32 | bf16 | s32 | n32
  deriving DecidableEq, Repr

/-- Phase that `rpop` wants (R320). -/
inductive RingWant where
  | any | ph0 | ph1
  deriving DecidableEq, Repr

/-- What `qstat` reads (R279). -/
inductive QSel where
  | free | ready | task | armed | drop
  deriving DecidableEq, Repr

/-- Fields that `nmk` writes (R370). -/
inductive NmkField where
  | clr | tensor | t0 | t1 | t2 | iter | var
  deriving DecidableEq, Repr

/-- An operand specifier: the seven classes of R54 and the specials of R55. -/
inductive Spec where
  | v (i : BitVec 7)
  | x (i : BitVec 4)
  | w (i : BitVec 5)
  | b (i : BitVec 5)
  | c (i : BitVec 4)
  | g (i : BitVec 4)
  | p (i : BitVec 3)
  | z (i : BitVec 3)
  | h (i : BitVec 4)
  | a (i : BitVec 5)
  | m (i : BitVec 4)
  | l (i : BitVec 3)
  | tg | laneid | warpid | blockid | clusterid | stageid | width | zero
  | imm (i : BitVec 7)
  deriving DecidableEq, Repr

/-- A source: its specifier, L (last use) and T (trap on empty) (R56). -/
structure Src where
  spec : Spec
  last : Bool
  trap : Bool
  deriving DecidableEq, Repr

/-- An absent source is the zero special without markers (R57). -/
def Src.absent : Src := ⟨.zero, false, false⟩

/-- A destination: its specifier and X (transient) (R56). -/
structure Dst where
  spec : Spec
  byp : Bool
  deriving DecidableEq, Repr

/-- The guard: a predicate index and its negation (R58). -/
structure Guard where
  pred : BitVec 3
  neg : Bool
  deriving DecidableEq, Repr

/-- S2 of a V/I instruction: a source, or IMM24 (R61). -/
inductive SrcI where
  | src (s : Src)
  | imm (i : BitVec 24)
  deriving DecidableEq, Repr

/-- The two forms of `ldh` (R221): memory, or a register quad. -/
inductive LdhSrc where
  | mem (h : BitVec 4) (i o : Src)
  | quad (q : Src)
  deriving DecidableEq, Repr

/-- The two sources of `ppost` (R383): memory, or a register group. -/
inductive PostSrc where
  | mem (h : BitVec 4)
  | reg (a : Src)
  deriving DecidableEq, Repr

/-- The format of `tagw` (R170): in MOD, or read from S2. -/
inductive TagwFmt where
  | fmt (f : Fmt)
  | reg
  deriving DecidableEq, Repr

/-- A source byte of a pair half: lane or warp class, and an index (R64). -/
structure HalfSrc where
  warp : Bool
  idx : BitVec 7
  deriving DecidableEq, Repr

/-- One half of a pair word (R64): its compact op, destination lane register and two sources. -/
structure Half where
  op : BitVec 5
  dst : BitVec 7
  a : HalfSrc
  b : HalfSrc
  deriving DecidableEq, Repr

/-- A flit, opened (R340): its lane group, its header, its payload, and whether its integrity tag holds under a fabric key of
the paddock; in a replay buffer of this package also the key slot that sealed it (R397). DESIGN CHOICE: log entry 160. -/
structure Flit where
  group : Nat
  sq : Nat
  kind : Nat
  len : Nat
  chan : Nat
  pad : Nat
  dnode : Nat
  snode : Nat
  msg : Nat
  moff : Nat
  payload : List Byte
  ok : Bool
  sealKey : Option Nat
  deriving DecidableEq, Repr

/-- A message (R340, R342): its paddock, its source and destination nodes, channel and number, and whether it is one of
the relays' own (R347). -/
structure MsgKey where
  pad : Nat
  src : Nat
  dst : Nat
  chan : Nat
  num : Nat
  relay : Bool
  deriving DecidableEq, Repr

/-- What a port is told of flits that this package has sent (R341, R343): the next port has taken those up to a SEQ of a group,
or asks for those from a SEQ on again; or a message's acknowledgement flit arrives, of that group and SEQ. -/
inductive AckForm where
  | upTo
  | again
  | flit (f : Flit)
  deriving DecidableEq, Repr

/-- A returned tile (R361): its bytes, and the context that announced it when that is one of this package. -/
structure TileBack where
  tile : List Byte
  origin : Option Nat
  deriving DecidableEq, Repr

/-- A host write to a launch or a push window (R421, R422): the link that carries it, and the number of the context or queue. -/
structure WinWrite where
  link : Bool
  no : Nat
  deriving DecidableEq, Repr

/-- A write of the read-back window's address (R424), by a link. -/
structure AddrWrite where
  link : Bool
  addr : Dword
  deriving DecidableEq, Repr

/-- The descriptor a paddock is created from, and the tenant key registered with it (R388, R430). -/
structure PadOrder where
  desc : BitVec 512
  tenant : List Byte
  deriving DecidableEq, Repr

/-- The descriptor a paddock is resized to, and the clusters that the command names to leave (R393). -/
structure PadChange where
  desc : BitVec 512
  drop : BitVec 24
  deriving DecidableEq, Repr

/-- A key under encapsulation, and the tenant's signature of the command (R430). -/
structure KeyOrder where
  wrapped : List Byte
  sig : List Byte
  deriving DecidableEq, Repr

/-- A place behind a link's BAR (R421), and what is written there (R423). -/
structure BarWrite where
  off : Nat
  data : BitVec 512
  deriving DecidableEq, Repr

/-- A link's BAR (R421). -/
structure LinkBar where
  link : Bool
  bar : Nat
  deriving DecidableEq, Repr

/-- The head of a command written to the configuration window (R423): its link, context, paddock, and the bits that
must be zero. -/
structure CmdHead where
  link : Bool
  ctx : BitVec 12
  pad : BitVec 3
  rsv : BitVec 41
  deriving DecidableEq, Repr

/-- A post that reaches a pen (R375): one of this package's operations, or one from another node: the paddock, pen,
SEQ, expert, elements, and the source's order. -/
inductive PostIn where
  | op (id : Nat)
  | far (pad pen : Nat) (sq : Word) (expert : Nat) (data : List Word)
  deriving DecidableEq, Repr

/-- What command 0x13 adds (R329): an extent (its 16-byte record), or P or W set in the extents of a range. -/
inductive ExtAdd where
  | add (e : BitVec 128)
  | setP (off : Nat)
  | setW (off : Nat)
  deriving DecidableEq, Repr

/-- What command 0x16 takes away (R329): P or W of the extent at an offset, the extent, or its place. -/
inductive ExtCut where
  | clearP (off : Nat)
  | clearW (off : Nat)
  | remove (off : Nat)
  | move (off pa : Nat)
  deriving DecidableEq, Repr

/-- A page that leaves a retired channel (R394): its address, and where it is moved, if it can be; in 64 KiB units. -/
structure PageMove where
  pa : Nat
  dst : Option Nat
  deriving DecidableEq, Repr

/-- A boot image (R428, R429): its bytes and version, the Falcon-1024 public key that comes with it, and its signature. -/
structure BootImage where
  text : List Byte
  version : Nat
  key : List Byte
  sig : List Byte
  deriving DecidableEq, Repr

/-- The rows of the opcode table: the instructions, in the order of R68, then the relay steps, events and
commands, each a whole step of the part. -/
inductive Instr where
  | iadd (f : IFmt) (sat : Bool) (g : Guard) (d : Dst) (a : Src) (b : SrcI)
  | isub (f : IFmt) (sat : Bool) (g : Guard) (d : Dst) (a : Src) (b : SrcI)
  | imul (f : IFmt) (sat : Bool) (g : Guard) (d : Dst) (a : Src) (b : SrcI)
  | imad (f : IFmt) (sat : Bool) (g : Guard) (d : Dst) (a : Src) (b : Src) (c : Src)
  | imulhi (f : IFmt) (g : Guard) (d : Dst) (a : Src) (b : Src)
  | imin (f : IFmt) (g : Guard) (d : Dst) (a : Src) (b : SrcI)
  | imax (f : IFmt) (g : Guard) (d : Dst) (a : Src) (b : SrcI)
  | iabs (f : IFmt) (sat : Bool) (g : Guard) (d : Dst) (a : Src)
  | ineg (f : IFmt) (sat : Bool) (g : Guard) (d : Dst) (a : Src)
  | and (g : Guard) (d : Dst) (a : Src) (b : SrcI)
  | or (g : Guard) (d : Dst) (a : Src) (b : SrcI)
  | xor (g : Guard) (d : Dst) (a : Src) (b : SrcI)
  | andn (g : Guard) (d : Dst) (a : Src) (b : SrcI)
  | shl (g : Guard) (d : Dst) (a : Src) (b : SrcI)
  | shr (g : Guard) (d : Dst) (a : Src) (b : SrcI)
  | sar (g : Guard) (d : Dst) (a : Src) (b : SrcI)
  | rot (g : Guard) (d : Dst) (a : Src) (b : SrcI)
  | popc (g : Guard) (d : Dst) (a : Src)
  | clz (g : Guard) (d : Dst) (a : Src)
  | brev (g : Guard) (d : Dst) (a : Src)
  | bfx (sg : Bool) (g : Guard) (d : Dst) (a : Src) (b : Src) (c : Src)
  | bfi (g : Guard) (d : Dst) (a : Src) (b : Src) (c : Src)
  | icmp (cc : ICmp) (uns : Bool) (g : Guard) (d : Dst) (a : Src) (b : SrcI)
  | sel (g : Guard) (d : Dst) (a : Src) (b : Src) (c : Src)
  | mov (g : Guard) (d : Dst) (a : Src)
  | movk (f : Fmt) (g : Guard) (d : Dst) (k : Word)
  | lea (sh : BitVec 3) (x64 : Bool) (g : Guard) (d : Dst) (a : Src) (b : SrcI)
  | dp4 (ua : Bool) (ub : Bool) (sat : Bool) (g : Guard) (d : Dst) (a : Src) (b : Src) (c : Src)
  | dp8 (ua : Bool) (ub : Bool) (sat : Bool) (g : Guard) (d : Dst) (a : Src) (b : Src) (c : Src)
  | plop (op : PlopOp) (g : Guard) (d : BitVec 3) (a : BitVec 3) (b : BitVec 3)
  | pmov (k : PmovKind) (g : Guard) (d : Dst) (a : Src)
  | fadd (f16 : Bool) (ftz : Bool) (r : Rnd) (g : Guard) (d : Dst) (a : Src) (b : Src) (c : Src)
  | fsub (f16 : Bool) (ftz : Bool) (r : Rnd) (g : Guard) (d : Dst) (a : Src) (b : Src) (c : Src)
  | fmul (f16 : Bool) (ftz : Bool) (r : Rnd) (g : Guard) (d : Dst) (a : Src) (b : Src) (c : Src)
  | ffma (f16 : Bool) (ftz : Bool) (r : Rnd) (g : Guard) (d : Dst) (a : Src) (b : Src) (c : Src)
  | fmin (f16 : Bool) (ftz : Bool) (prop : Bool) (g : Guard) (d : Dst) (a : Src) (b : Src)
  | fmax (f16 : Bool) (ftz : Bool) (prop : Bool) (g : Guard) (d : Dst) (a : Src) (b : Src)
  | fcmp (cc : FCmp) (ftz : Bool) (g : Guard) (d : Dst) (a : Src) (b : Src)
  | fclass (sf : SrcFmt) (e1 : Bool) (g : Guard) (d : Dst) (a : Src)
  | frcp (f16 : Bool) (ftz : Bool) (r : Rnd) (g : Guard) (d : Dst) (a : Src)
  | frsq (f16 : Bool) (ftz : Bool) (r : Rnd) (g : Guard) (d : Dst) (a : Src)
  | fsqrt (f16 : Bool) (ftz : Bool) (r : Rnd) (g : Guard) (d : Dst) (a : Src)
  | fex2 (f16 : Bool) (ftz : Bool) (r : Rnd) (g : Guard) (d : Dst) (a : Src)
  | flg2 (f16 : Bool) (ftz : Bool) (r : Rnd) (g : Guard) (d : Dst) (a : Src)
  | fsin (f16 : Bool) (ftz : Bool) (r : Rnd) (g : Guard) (d : Dst) (a : Src)
  | fcos (f16 : Bool) (ftz : Bool) (r : Rnd) (g : Guard) (d : Dst) (a : Src)
  | ftanh (f16 : Bool) (ftz : Bool) (r : Rnd) (g : Guard) (d : Dst) (a : Src)
  | frnd (f16 : Bool) (ftz : Bool) (r : Rnd) (g : Guard) (d : Dst) (a : Src)
  | cvt (f : Fmt) (elem : BitVec 3) (r : Rnd) (g : Guard) (d : Dst) (a : Src) (c : Src)
  | qnt (f : Fmt) (rs : Bool) (g : Guard) (d : Dst) (a : Src) (b : Src) (c : Src)
  | dqt (f : Fmt) (g : Guard) (d : Dst) (a : Src) (b : Src) (c : Src)
  | pack (g : Guard) (d : Dst) (a : Src) (b : Src) (c : Src)
  | unpk (wide : Bool) (g : Guard) (d : Dst) (a : Src) (b : Src)
  | tagr (g : Guard) (d : Dst) (a : Src)
  | tagw (f : TagwFmt) (g : Guard) (d : Dst) (a : Src) (b : Src)
  | shfl (mode : ShflMode) (seg : Seg) (g : Guard) (d : Dst) (a : Src) (b : Src) (c : Src)
  | vote (mode : VoteMode) (seg : Seg) (g : Guard) (d : Dst) (a : Src)
  | ballot (q : BitVec 2) (g : Guard) (d : Dst) (a : Src)
  | lred (op : RedOp) (f : RedFmt) (g : Guard) (d : Dst) (a : Src)
  | scan (op : ScanOp) (f : RedFmt) (g : Guard) (d : Dst) (a : Src)
  | matchq (q : BitVec 2) (g : Guard) (d : Dst) (a : Src)
  | elect (hi : Bool) (seg : Seg) (g : Guard) (d : Dst)
  | sup (f : Fmt) (g : Guard) (d : Dst) (a : Src)
  | sred (op : RedOp) (f : RedFmt) (g : Guard) (d : Dst) (a : Src)
  | rgive (g : Guard) (n : Src)
  | rclaim (g : Guard) (p : Option (BitVec 3)) (n : Src)
  | rpool (which : BitVec 2) (g : Guard) (d : Dst)
  | ldh (g : Guard) (d : Dst) (a : LdhSrc)
  | ld (f : Fmt) (g : Guard) (d : Dst) (hs : BitVec 4) (i : Src) (o : Src)
  | st (f : Fmt) (g : Guard) (v : Spec) (hs : BitVec 4) (i : Src) (o : Src)
  | atom (op : AtomOp) (sys : Bool) (g : Guard) (d : Dst) (hs : BitVec 4) (i : Src) (v : Src)
  | red (op : AtomOp) (sys : Bool) (g : Guard) (hs : BitVec 4) (i : Src) (v : Src)
  | fence (sc : BitVec 2) (g : Guard)
  | pfh (l2 : Bool) (g : Guard) (hs : BitVec 4) (i : Src) (o : Src)
  | res (kind : BitVec 2) (g : Guard) (hs : BitVec 4) (i : Src) (n : Src)
  | cpy (g : Guard) (hd : BitVec 4) (hs : BitVec 4) (q : Src)
  | cpyr (op : CpyOp) (rf : RelFmt) (g : Guard) (hd : BitVec 4) (hs : BitVec 4) (q : Src)
  | waitt (hi : Bool) (g : Guard) (p : Option (BitVec 3)) (m : Src)
  | waita (hi : Bool) (g : Guard) (p : Option (BitVec 3)) (m : Src)
  | tfind (kind : BitVec 2) (hi : Bool) (g : Guard) (d : Dst) (m : Src)
  | smap (n : BitVec 3) (g : Guard) (q : Src) (hs : BitVec 4) (x : Src)
  | smapOff (n : BitVec 3) (g : Guard)
  | sflush (n : BitVec 3) (g : Guard) (t : Src)
  | sinv (n : BitVec 3) (g : Guard)
  | send (g : Guard) (hs : BitVec 4) (q : Src)
  | recv (g : Guard) (hd : BitVec 4) (q : Src)
  | relay (g : Guard) (d : Dst) (hp : BitVec 4) (x : Src) (q : Src)
  | rlwait (g : Guard) (p : Option (BitVec 3)) (t : Src)
  | lload (g : Guard) (l : BitVec 3) (hs : BitVec 4) (x : Src) (q : Src)
  | mfence (g : Guard)
  | mma (g : Guard) (p : Src)
  | mwait (prev : Bool) (g : Guard) (a : Src)
  | azero (n : BitVec 4) (new : Bool) (g : Guard) (a : BitVec 5)
  | amov (comp : BitVec 3) (prev : Bool) (g : Guard) (d : Dst) (a : Src) (i : Src)
  | ast (r : Rnd) (prev : Bool) (g : Guard) (md : BitVec 4) (a : Src) (t : Src)
  | ald (new : Bool) (g : Guard) (a : BitVec 5) (ms : BitVec 4) (t : Src)
  | arel (prev : Bool) (g : Guard) (a : Src)
  | alg (n : BitVec 4) (g : Guard) (p : Src)
  | conj (n : BitVec 4) (g : Guard) (d : Dst) (a : Src)
  | norm (n : BitVec 4) (g : Guard) (d : Dst) (a : Src)
  | amul (n : BitVec 4) (rev : Bool) (g : Guard) (d : Dst) (a : Src) (b : Src)
  | barB (idem : Bool) (g : Guard) (b : Src) (n : Src)
  | barC (g : Guard)
  | barG (g : Guard)
  | carrive (g : Guard) (b : Src) (k : Src)
  | cwait (g : Guard) (b : Src) (n : Src)
  | rpush (g : Guard) (r : Src) (v : Src)
  | rpop (want : RingWant) (g : Guard) (d : Dst) (r : Src)
  | enq (g : Guard) (hs : BitVec 4) (i : Src)
  | enqAt (g : Guard) (hs : BitVec 4) (i : Src)
  | enqRetry (g : Guard) (q : Src) (t : Src)
  | enqCancel (g : Guard) (q : Src) (t : Src)
  | tdone (g : Guard)
  | qstat (what : QSel) (g : Guard) (d : Dst) (q : Src) (t : Src)
  | ask (g : Guard) (hd : BitVec 4) (q : Src) (p : Src)
  | annc (g : Guard) (hs : BitVec 4) (q : Src) (p : Src)
  | wdrw (g : Guard) (q : Src) (t : Src)
  | nmk (fld : NmkField) (g : Guard) (d : Dst) (v : Src)
  | pslot (g : Guard) (p : Option (BitVec 3)) (hs : BitVec 4) (t : Src) (w : Src)
  | ppost (g : Guard) (a : PostSrc) (q : Src) (p : Src)
  | pwait (n : BitVec 2) (g : Guard) (d : Dst) (q : Src)
  | prel (n : BitVec 2) (g : Guard) (q : Src)
  /-- R64: the two halves issue together. -/
  | pair (gp : BitVec 3) (ha hb : Half)
  | bra (g : Guard) (off : BitVec 36)
  | brx (call : Bool) (g : Guard) (a : Src)
  | call (g : Guard) (off : BitVec 36)
  | ret (g : Guard)
  | exit (g : Guard)
  | yield (g : Guard)
  | join (g : Guard)
  | sysr (g : Guard) (d : Dst) (n : BitVec 12)
  | sysw (g : Guard) (a : Src) (n : BitVec 12)
  | trap (g : Guard) (k : BitVec 16)
  | tret (next : Bool) (g : Guard)
  | brk (g : Guard) (k : BitVec 16)
  | evf (g : Guard)
  | nop (g : Guard)
  | packetFormation (core : Nat)
  | fillLands (core : Nat) (id : Nat)
  | handleFillLands (core : Nat) (id : Nat)
  | claimServed (pos : Nat)
  | regDeadlock (pos : Nat)
  | copyComplete (id : Nat)
  | lloadComplete (id : Nat)
  | chainComplete (id : Nat)
  | aldComplete (id : Nat)
  | astComplete (id : Nat)
  | sflushComplete (id : Nat)
  | windowLineFill (pos : Nat) (win : Nat) (line : Nat)
  | windowSnoop (ctx : Nat) (obj : Nat) (off : Nat) (wr : Bool)
  | faultServiceTimeout (ctx : Nat) (fid : Nat)
  | progressWatchdog (pos : Nat) (stage : Nat)
  | localityPeriod (core : Nat)
  | taskStart (ctx : Nat)
  | starterRelease
  | instancePlacement (ctx : Nat) (grid : Nat)
  | revocationDrainExpiry (cluster : Nat)
  | saveDrainExpiry (ctx : Nat)
  | stopDrainExpiry (pad : Nat)
  | coreRemovalDrainExpiry (core : Nat)
  | finaliseComplete (ctx : Nat) (obj : Nat)
  | gridIdSweepDone (ctx : Nat) (grid : Nat)
  | dataFlit (port : Nat) (f : Flit)
  | creditFlit (port : Nat) (f : Flit)
  | acknowledgementFlit (port : Nat) (group : Nat) (sq : Nat) (a : AckForm)
  | relayDataFlit (port : Nat) (f : Flit)
  | messageLocalComplete (id : Nat)
  | snd (pa : BitVec 16) (pb : BitVec 16) (ca : BitVec 16) (cb : BitVec 16)
  | rcv (pa : BitVec 16) (pb : BitVec 16) (ca : BitVec 16) (cb : BitVec 16)
  | rrs (op : CpyOp) (rf : RelFmt) (ns : Bool) (pa : BitVec 16) (pb : BitVec 16) (ca : BitVec 16) (cb : BitVec 16)
  | cpys (ca : BitVec 16) (cb : BitVec 16)
  | wat
  | loop (cnt : BitVec 16) (tgt : BitVec 16)
  | endr
  | relayIssueTimeout (eng : Nat) (sq : Nat)
  | interestArrival (pad : Nat) (face : Nat) (name : BitVec 128) (expiry : Nat)
  | tileReturn (pad : Nat) (face : Nat) (name : BitVec 128) (t : TileBack)
  | announcementDecision (id : Nat)
  | nameDeliveryComplete (id : Nat)
  | askLifetimeExpiry (id : Nat)
  | penPostArrival (p : PostIn)
  | penSlotTimeout (pen : Nat) (slot : Nat)
  | penRelease (pen : Nat) (slot : Nat)
  | penReleaseWritten (pen : Nat) (slot : Nat)
  | push (w : WinWrite) (whole : Bool) (r : BitVec 512)
  | taskRetry (w : WinWrite) (tid : Word)
  | taskCancel (w : WinWrite) (tid : Word)
  | queueStop (w : WinWrite)
  | queueStart (w : WinWrite)
  | launch (w : WinWrite) (r : BitVec 1024)
  | readbackAddress (a : AddrWrite)
  | signalBitmapRead (w : Nat)
  | windowWriteOther (b : LinkBar) (w : BarWrite)
  | createContext (h : CmdHead)
  | destroyContext (h : CmdHead)
  | saveContext (h : CmdHead)
  | restoreContext (h : CmdHead)
  | writeContextRegister (h : CmdHead) (n : BitVec 12) (v : Dword)
  | loadContainer (h : CmdHead) (image : List Byte)
  | removeObject (h : CmdHead) (obj : Nat)
  | objectCreate (h : CmdHead) (paged : Bool) (wr : Bool)
  | addExtent (h : CmdHead) (obj : Nat) (c : ExtAdd)
  | split (h : CmdHead) (obj : Nat) (off : Nat)
  | merge (h : CmdHead) (obj : Nat) (off : Nat) (psz : Nat)
  | narrow (h : CmdHead) (obj : Nat) (c : ExtCut)
  | objectRemove (h : CmdHead) (obj : Nat)
  | resolveFault (h : CmdHead) (fid : Nat) (fatal : Bool)
  | writeObject (link : Bool) (cmd : BitVec 512) (host : List Byte)
  | readObject (link : Bool) (cmd : BitVec 512) (upto : Nat)
  | createQueue (h : CmdHead) (q : Nat) (desc : Dword)
  | destroyQueue (h : CmdHead) (q : Nat)
  | writeFilterEntry (h : CmdHead) (idx : Nat) (ent : Dword)
  | writeRouteEntry (h : CmdHead) (idx : Nat) (ent : BitVec 128)
  | paddockCreate (h : CmdHead) (d : PadOrder)
  | paddockResize (h : CmdHead) (d : PadChange)
  | paddockStop (h : CmdHead)
  | paddockStart (h : CmdHead)
  | paddockDestroy (h : CmdHead)
  | removeCore (h : CmdHead) (core : Nat)
  | keyInstall (h : CmdHead) (slot : Nat) (dom : Nat) (k : KeyOrder)
  | keyRewrap (h : CmdHead) (slot : Nat)
  | rewrapDone (pad : Nat) (slot : Nat)
  | keyRevoke (h : CmdHead) (slot : Nat)
  | preEmptPosition (h : CmdHead) (grid : Nat) (blk : Nat)
  | attest (h : CmdHead) (addr : Nat) (nonce : BitVec 256)
  | setPowerCap (h : CmdHead) (watts : Nat)
  | coldReset (images : List BootImage)
  | ptpMessage (time : Nat)
  | thermalThrottle
  | thermalTrip
  | portEnable (p : Nat)
  | trainingComplete (p : Nat) (good : BitVec 8)
  | trainingTimeout (p : Nat)
  | trainingRetry (p : Nat)
  | laneFailure (p : Nat) (lane : Nat)
  | replayThreshold (p : Nat)
  | quarantineRelease (p : Nat)
  | portDisable (p : Nat)
  | dieFailure (d : Nat)
  | clusterRetire (cluster : Nat)
  | channelRetire (die : Nat) (base : Nat) (len : Nat) (moves : List PageMove)
  | cxlPortDown (p : Nat)
  | scrubberError (pa : Nat)
  | correctedError (pad : Nat) (src : Nat) (synd : Nat)
  | accessPerformed (id : Nat) (lvl : Nat)
  | scrubComplete (cluster : Nat)
  | commandComplete (link : Bool)
  | filterBucketRefill (idx : Nat)
  deriving DecidableEq, Repr

end Sys2Proof
end

