-- ==== Sys2Proof/Machine/Cause.lean ====
section
/-! DEFINITION. The trap causes and their codes (R408), and the causes that are fatal whatever the handler (R406). -/

namespace Sys2Proof.Machine

/-- The assigned cause codes of R408. -/
inductive Cause where
  | illegalOpc | callDepth | retEmpty | softTrap | breakpoint
  | emptyRead | regUndeclared | regDeadlock | scopeDisagree | scopeDiverged | lentWrite | claimRange
  | joinBroken | accUnbound | loftVoid
  | formatMismatch | tagIllformed | algebraMismatch | algRecordBad | paramBlockBad | elementRange | algOperand
  | bounds | objectInvalid | permission | misaligned | mmRace | ownership | detViolation | ueRead | keyRevoked
  | stashUndeclared | tagUndeclared | recordBad | copyBad | windowBad | epochExhausted
  | barrierUndeclared | barrierCount | ringPhase | progressWatchdog | relayTimeout
  | nameNeverProduced | nameRealm | nameBad | nameSize | nameWithdrawn
  | penBad | penPostBad | penAbandoned | penSlotsExhausted | penState | penTimeout
  | nameConflict | linkDown | relayBad | msgSize | msgBad
  | taskBad | queueFull | filterDenied | taskDup | queueInvalid | taskState
  | pageFaultFatal | sysregBad | doubleTrap | tretState | machineCheck
  deriving DecidableEq, Repr

/-- The code of a cause (R408). -/
def Cause.code : Cause → BitVec 7
  | .illegalOpc => 0x01
  | .callDepth => 0x02
  | .retEmpty => 0x03
  | .softTrap => 0x04
  | .breakpoint => 0x05
  | .emptyRead => 0x10
  | .regUndeclared => 0x11
  | .regDeadlock => 0x12
  | .scopeDisagree => 0x13
  | .scopeDiverged => 0x14
  | .lentWrite => 0x15
  | .claimRange => 0x16
  | .joinBroken => 0x17
  | .accUnbound => 0x18
  | .loftVoid => 0x19
  | .formatMismatch => 0x20
  | .tagIllformed => 0x21
  | .algebraMismatch => 0x22
  | .algRecordBad => 0x23
  | .paramBlockBad => 0x24
  | .elementRange => 0x25
  | .algOperand => 0x26
  | .bounds => 0x30
  | .objectInvalid => 0x31
  | .permission => 0x32
  | .misaligned => 0x33
  | .mmRace => 0x34
  | .ownership => 0x35
  | .detViolation => 0x36
  | .ueRead => 0x37
  | .keyRevoked => 0x38
  | .stashUndeclared => 0x39
  | .tagUndeclared => 0x3A
  | .recordBad => 0x3B
  | .copyBad => 0x3C
  | .windowBad => 0x3D
  | .epochExhausted => 0x3E
  | .barrierUndeclared => 0x40
  | .barrierCount => 0x41
  | .ringPhase => 0x42
  | .progressWatchdog => 0x43
  | .relayTimeout => 0x44
  | .nameNeverProduced => 0x50
  | .nameRealm => 0x51
  | .nameBad => 0x52
  | .nameSize => 0x53
  | .nameWithdrawn => 0x54
  | .penBad => 0x55
  | .penPostBad => 0x56
  | .penAbandoned => 0x57
  | .penSlotsExhausted => 0x58
  | .penState => 0x59
  | .penTimeout => 0x5A
  | .nameConflict => 0x5B
  | .linkDown => 0x5C
  | .relayBad => 0x5D
  | .msgSize => 0x5E
  | .msgBad => 0x5F
  | .taskBad => 0x60
  | .queueFull => 0x61
  | .filterDenied => 0x62
  | .taskDup => 0x63
  | .queueInvalid => 0x64
  | .taskState => 0x65
  | .pageFaultFatal => 0x70
  | .sysregBad => 0x71
  | .doubleTrap => 0x72
  | .tretState => 0x73
  | .machineCheck => 0x7F

/-- The causes of R406 that are fatal whatever the stage's handler; `det` is deterministic mode. JOIN_BROKEN
under R404 is decided where the record would open. -/
def Cause.fatal (det : Bool) : Cause → Bool
  | .epochExhausted | .pageFaultFatal | .doubleTrap | .machineCheck => true
  | .nameNeverProduced | .penTimeout | .relayTimeout => det
  | _ => false

/-- A trap about to be taken: its cause, and the words of TINFO0 to TINFO3 (R402). -/
structure Trap where
  cause : Cause
  info0 : Word := 0
  info1 : Word := 0
  info2 : Word := 0
  info3 : Word := 0
  /-- The cause came from half B of a pair (TSTATE.HALFB). -/
  halfB : Bool := false
  /-- The cause is a stored tag cause (TSTATE.TAGC). -/
  tagc : Bool := false
  deriving DecidableEq, Repr

end Sys2Proof.Machine
end

