-- ==== Sys2Proof/Machine/CoreState.lean ====
section
/-! DEFINITION. The state of the compute dies: threads, warps, blocks, positions, cluster instances, grids, and
what a core holds. All of it is plain data; lists stand for tables, keyed by an identifier field. -/

namespace Sys2Proof.Machine

/-- A value with its format tag (R99): a register of classes 1 to 5, a full baton, a ring entry. -/
structure TV where
  val : Word
  tag : Fmt
  deriving DecidableEq, Repr, Inhabited

/-- 0x0000_0000 with tag raw32 (R120). -/
def TV.zero : TV := ⟨0, 0⟩

/-- The states of a lane register of a held granule (R122). -/
inductive RegSt where
  | full | empty | freed
  deriving DecidableEq, Repr, Inhabited

/-- A lane register (R119). -/
structure Reg where
  st : RegSt
  v : TV
  deriving DecidableEq, Repr, Inhabited

/-- A register of a granule that a thread comes to hold (R120). -/
def Reg.init : Reg := ⟨.full, .zero⟩

/-- Which warp: its position, its stage and its index within the block. -/
structure WKey where
  pos : Nat
  stage : Nat
  warp : Nat
  deriving DecidableEq, Repr, Inhabited

/-- A party (R232): a warp of a grid, by the model's own number of its run, and its arm tag; its package in the drove.
`Compute.homes` says where the warp stands. -/
structure Party where
  pkg : Nat
  wid : Nat
  arm : Nat
  deriving DecidableEq, Repr, Inhabited

/-- The 26 bits of a party (R237), from the core and the slot of its warp. DESIGN CHOICE: log entry 39. -/
def Party.bits (p : Party) (core slot : Nat) : BitVec 26 :=
  BitVec.ofNat 26 (p.pkg % 8 + 8 * (core % 256) + 2048 * (slot % 128) + 262144 * (p.arm % 256))

/-- The latest epochs of other parties that happen before a point (R233). -/
abbrev Frontier := List (Party × Nat)

/-- What a Parked thread waits for, or why a packet is Stalled (R294). DEDUCED: log entry 26. -/
inductive Wait where
  /-- An empty baton to fill (R125). -/
  | batonFull (z : Nat)
  /-- A full baton to be emptied. -/
  | batonEmpty (z : Nat)
  /-- A queued `rclaim` (R139). -/
  | claim
  /-- n granules to give with an empty register (R139). -/
  | give (n : Nat)
  /-- Arrived at a block barrier resource (R315). -/
  | barB (k : Nat)
  | barC
  | barG
  /-- A counted wait on a resource for a target (R318). -/
  | count (k : Nat) (target : Word)
  /-- A full ring to empty, an empty ring to fill (R320). -/
  | ringEmpty (r : Nat)
  | ringFull (r : Nat)
  /-- Named tags: all done, or any (R227). -/
  | tagsAll (mask : List Nat)
  | tagsAny (mask : List Nat)
  /-- A relay ticket (R354). -/
  | ticket (t : Word)
  /-- Arrived at the join of its record (R137). -/
  | join
  /-- Other threads of its arm to reach the instruction that acts for the arm as a whole (R127, R171). -/
  | arm
  /-- One of the warp's view slots to be given up (R133). -/
  | view
  /-- The clause of a trap record finished (R403). -/
  | trapRecord
  /-- A pen slot to be Free, and to be Released (R382, R384). -/
  | penFree (pen : Nat) (slot : Nat)
  | penReleased (pen : Nat) (seq : Word)
  /-- Every operation of the party (R419). -/
  | evf
  /-- A Loft slot that is loading, or in flight, or a busy Loft for `mfence` (R184, R199). -/
  | loft (l : Nat)
  /-- An accumulator name to become full, or a previous tile to be released (R186). -/
  | acc (a : Nat)
  /-- `mwait` on an accumulator name: its current or its previous tile. -/
  | tile (a : Nat) (prev : Bool)
  /-- A busy handle or m-handle (R206). -/
  | handle (h : Nat)
  /-- An engine or a Stile unit that refuses for back-pressure (R191, R226, R311, R348, R352, R368). -/
  | backPressure
  /-- A stash window's write-backs, fills or lent lines (R213, R228). -/
  | window (n : Nat)
  /-- The service of a page fault: the operand log entry (R335). -/
  | pageFault (e : Nat)
  /-- The service of a fault met outside the operand log (`pslot`, `smap`), at an offset of its object. -/
  | service (fid off : Nat)
  /-- Until every earlier access and engine operation has been performed (`fence`). -/
  | fence
  deriving DecidableEq, Repr

/-- The waits that R294 does not name as parking: the issuing instruction stalls in its slot (R184, R186, R191, R206,
R213, R224). DEDUCED: log entry 27. -/
def Wait.stalls : Wait → Bool
  | .loft _ | .acc _ | .handle _ | .backPressure | .window _ | .fence => true
  | _ => false

/-- The states of a thread (R294). -/
inductive ThreadSt where
  | ready | packed
  /-- Its packet holds its slot; the wait, where it is not for a register to fill. -/
  | stalled (w : Option Wait)
  | parked (w : Wait)
  | exited
  deriving DecidableEq, Repr

/-- One entry of a packet's bypass as one lane holds it (R124). -/
structure Byp where
  dst : Spec
  v : Option TV
  deriving DecidableEq, Repr

/-- A thread (R119, R179, R294, R401). -/
structure Thread where
  st : ThreadSt
  /-- Byte offset of a clause header from the start of the stage's code (R49). -/
  pc : Nat
  /-- Where the thread resumes in that clause; `mid` when its header waits are not tested again (R294). -/
  idx : Nat
  mid : Bool
  regs : List Reg
  preds : List Bool
  calls : List Nat
  tstate : Word
  tpc : Word
  tinfo0 : Word
  tinfo1 : Word
  tinfo2 : Word
  tinfo3 : Word
  byp : List Byp
  /-- The count of packet slots filled on the core when the thread last became eligible (R299), and whether it was
  eligible after the last step. -/
  since : Nat
  elig : Bool
  /-- The operand log entries whose service it must await (R335), each with the lane registers it left empty; 128 + h stands for
  handle or m-handle h. -/
  fault : List (Nat × List Nat)
  /-- The watchdog took the thread at a clause header: `tret` forms the header's packet again (R306). -/
  redo : Bool
  /-- System registers that another thread has written in this clause: number, the value from before, the value written
  (R416). -/
  stale : List (Nat × Word × Word)
  /-- Its last `mfence` (R194): the next identifier then, and what happened before it. -/
  mfence : Nat × Frontier
  deriving DecidableEq, Repr

/-- One register held by a view (R128): its class and index, its subgroup for x, its value. -/
structure ViewEnt where
  reg : Spec
  sub : Nat
  v : TV
  deriving DecidableEq, Repr

/-- An arm of a warp (R127): its tag, the record it belongs to (none for the root), its threads, where it arrived,
and its view (R133). -/
structure Arm where
  tag : Nat
  inRec : Option Nat
  lanes : List Nat
  /-- The header address of the join it arrived at. -/
  arrived : Option Nat
  view : List ViewEnt
  /-- It holds one of the warp's 8 view slots (R133). -/
  slot : Bool
  epoch : Nat
  front : Frontier
  deriving DecidableEq, Repr

/-- An open divergence record (R127), or the record of a trap (R403). -/
structure Rec where
  id : Nat
  /-- Tag of the arm that diverged. -/
  parent : Nat
  /-- R403: the record of a trapped clause, with the arm of the threads that did not trap. -/
  trap : Bool
  deriving DecidableEq, Repr

/-- A read of an accumulator tile with L=1 that some lanes of its arm have completed (R197): the clause and instruction, the
name, whether its previous tile, and the lanes that are still to complete it. -/
structure TileUse where
  hdr : Nat
  idx : Nat
  acc : Nat
  prev : Bool
  lanes : List Nat
  deriving DecidableEq, Repr

/-- A cross-lane instruction that some lanes of an arm have issued and others have still to reach (R171): where it stands, the
lanes that have issued it, and what the present ones held then: the thread, and the scope registers and batons it read. -/
structure Early where
  hdr : Nat
  idx : Nat
  word : Instr
  arm : Nat
  passed : List Nat
  present : List (Nat × Thread × List (Spec × TV))
  deriving DecidableEq, Repr

/-- A warp (R119 to R133, R206). -/
structure Warp where
  idx : Nat
  /-- The model's own number of this run of the warp (`Party`). -/
  wid : Nat
  /-- Warp slot on its core, and placement order (R299). -/
  slot : Nat
  order : Nat
  threads : List Thread
  arms : List Arm
  recs : List Rec
  nextTag : Nat
  nextRec : Nat
  /-- Committed w registers; committed x registers of each subgroup. -/
  w : List TV
  x : List (List TV)
  z : List (Option TV)
  /-- Frontier and filler of each baton's value. -/
  zfront : List Frontier
  fstat : Word
  /-- The warp's view of b, c and g registers (R128). -/
  view : List ViewEnt
  h : List (BitVec 128)
  m : List (BitVec 128)
  /-- Handles (0–15) and m-handles (16–31) an `ldh` is filling (R206). -/
  busy : List Nat
  epoch : Nat
  /-- Granules of 8 lane registers that each thread holds (R121). -/
  gran : Nat
  /-- Last uses of tiles that wait for lanes of their arm (R197). -/
  uses : List TileUse
  /-- Cross-lane instructions under way. -/
  early : List Early
  deriving DecidableEq, Repr

/-- A barrier resource of a block (R312), with the warps that arrived and the frontier that each brought. -/
structure BarRes where
  count : Word
  arrived : List Nat
  fill : Bool
  idm : Bool
  exp : Nat
  dfl : Bool
  fronts : List (Nat × Frontier)
  cfront : Frontier
  deriving DecidableEq, Repr

def BarRes.idle : BarRes := ⟨0, [], false, false, 0, false, [], []⟩

/-- A write range of a block, resolved at launch (R251): object, first byte, bytes. -/
structure OwnRange where
  obj : Nat
  first : Nat
  len : Nat
  deriving DecidableEq, Repr

/-- A block: one stage's warps at a position. -/
structure Block where
  stage : Nat
  warps : List Warp
  b : List TV
  /-- The block's view of c and g registers (R128). -/
  view : List ViewEnt
  bars : List BarRes
  /-- Region index (R308). -/
  region : Nat
  /-- Watchdog counter (R306), and its period as the block was placed (R307). -/
  dog : Nat
  wd : Nat
  mstat : Word
  own : List OwnRange
  /-- Warps that have executed `bar.c` and `bar.g` in the filling generation. -/
  atC : List Nat
  atG : List Nat
  /-- FSTAT of its warps while its position is discarded (R310). -/
  fstats : List (Nat × Word)
  ended : Bool
  deriving DecidableEq, Repr

/-- A reader mark (R235): the party, its epoch, and whether an engine read for it. -/
structure ReadMark where
  party : Party
  epoch : Nat
  eng : Bool
  deriving DecidableEq, Repr

/-- A copy tag (R214). -/
structure CTag where
  count : Nat
  tge : Bool
  cause : Option Cause
  front : Frontier
  /-- How often an operation was issued on the tag (R354). -/
  gen : Nat
  deriving DecidableEq, Repr

def CTag.init : CTag := ⟨0, false, none, [], 0⟩

/-- One accumulator tile: its tile tag, its cells (bank by bank, element 32r + n), and the chains and loads that
are still to write it. -/
structure Tile where
  /-- The model's own name of the tile, by which the operations in flight find it. -/
  id : Nat
  tag : TileTag
  cells : List Word
  pending : Nat
  /-- Stored cause of the last operation that wrote it, with its copy tag (R199). -/
  cause : Option (Cause × Nat)
  front : Frontier
  /-- Race metadata of the tile (R195): writer and readers. -/
  writer : Option (Party × Nat)
  readers : List ReadMark
  deriving DecidableEq, Repr

/-- An accumulator name: its current and its previous binding (R186). -/
structure AccName where
  cur : Option Tile
  prev : Option Tile
  deriving DecidableEq, Repr

/-- The states of a Loft slot (R184). -/
inductive LoftSt where
  | void | loading | full
  deriving DecidableEq, Repr

/-- A Loft slot: the record of R184 and the bytes of its columns, column by column. -/
structure LoftSlot where
  ttag : TileTag
  rows : Nat
  cols : Nat
  st : LoftSt
  data : List (List Byte)
  front : Frontier
  writer : Option (Party × Nat)
  readers : List ReadMark
  deriving DecidableEq, Repr

/-- At reset: void, ROWS and COLS fields zero (R184). -/
def LoftSlot.init : LoftSlot := ⟨0, 1, 1, .void, [], [], none, []⟩

/-- A stage ring (R319). DESIGN CHOICE: log entry 120. -/
structure Ring where
  /-- VAL and TAG: the last entry pushed. -/
  val : TV
  full : Bool
  ph : Bool
  prod : Option (Nat × Nat)
  cons : Option (Nat × Nat)
  front : Frontier
  deriving DecidableEq, Repr

def Ring.init : Ring := ⟨⟨0, 0⟩, false, false, none, none, []⟩

/-- The entry a ring holds. -/
def Ring.entry (r : Ring) : Option TV := if r.full then some r.val else none

/-- The states of a 64-byte line of a stash window (R213); Invalid lines are not listed. -/
inductive LineSt where
  | clean | dirty
  deriving DecidableEq, Repr

/-- A mapped stash window (R213, R228). DEDUCED: log entry 47. -/
structure Window where
  soff : Nat
  len : Nat
  /-- The record it was mapped through, and the global offset of its first byte. -/
  obj : Nat
  goff : Nat
  ro : Bool
  lines : List (Nat × LineSt)
  /-- Lines whose fill has been asked for: for which party, and whether by an engine of its own. -/
  want : List (Nat × Party × Bool)
  /-- Lines whose fill met a page fault that was resolved as fatal. -/
  failed : List Nat
  deriving DecidableEq, Repr

/-- A queued `rclaim` (R138): its warp, the count, and the operand the count came from. -/
structure Claim where
  stage : Nat
  warp : Nat
  n : Nat
  src : Src
  deriving DecidableEq, Repr

/-- The states of a position (R295); an Ended position is removed. -/
inductive PosSt where
  | pending | resident | stopping | held | discarded
  deriving DecidableEq, Repr

/-- A write of a stash byte that the copy engine sees only after a `fence`, and the matrix engine only after an
`mfence` (R194, R224, R230): the byte's value before it, and whether a `fence` of its
party has followed. -/
structure Unfenced where
  id : Nat
  party : Party
  epoch : Nat
  at' : Nat
  old : Byte
  fence : Bool
  deriving DecidableEq, Repr

/-- A position: the stage siblings of one block coordinate on one core (R289). -/
structure Position where
  id : Nat
  ctx : Nat
  grid : Nat
  /-- Cluster linear id of its instance, and local id (R288). -/
  inst : Nat
  loc : Nat
  st : PosSt
  /-- Hardware core while Resident. -/
  core : Nat
  blocks : List Block
  /-- Pool units of its launch, its lent pool, drawn units (R138, R142), and the draw limit it started with. -/
  units : Nat
  lent : Nat
  drawn : Nat
  limit : Nat
  claims : List Claim
  stashBase : Nat
  stashSize : Nat
  stash : List Host.Cell
  /-- Stash writes that an engine may not have seen. -/
  unfenced : List Unfenced
  tags : List CTag
  /-- Physical Loft slots, with their Loft slot of the core. -/
  loft : List LoftSlot
  acc : List AccName
  rings : List Ring
  wins : List (Option Window)
  /-- What its discarded run did before (R309): it happens before a restart. -/
  past : Frontier
  deriving DecidableEq, Repr

/-- A cluster instance on a hardware cluster: its hub's registers and barrier (R16, R289). DEDUCED: log entry 118. -/
structure Inst where
  ctx : Nat
  grid : Nat
  lin : Nat
  hw : Nat
  c : List TV
  view : List ViewEnt
  /-- Blocks arrived at `bar.c` (local id, stage), and the frontier of each warp there (local id, stage, warp). -/
  arrC : List (Nat × Nat)
  fronts : List ((Nat × Nat × Nat) × Frontier)
  /-- Views of blocks whose positions are gone: local id, stage, view (R128, R131). -/
  gone : List (Nat × Nat × List ViewEnt)
  deriving DecidableEq, Repr

/-- An entry of the retire map (R292): an instance's placement, each block's region index, whether it ended. -/
structure Retire where
  lin : Nat
  hw : Option Nat
  blocks : List (Nat × Nat × Nat × Bool)
  deriving DecidableEq, Repr

/-- A grid (R284 to R292). -/
structure Grid where
  ctx : Nat
  id : Nat
  code : Nat
  /-- Byte offset of the kernel descriptor in KERN. -/
  kern : Nat
  gx : Nat
  gy : Nat
  gz : Nat
  cx : Nat
  cy : Nat
  cz : Nat
  nwarp : List Nat
  hmask : BitVec 16
  /-- Records of h0 to h15, initial values of b and c registers (R285). -/
  hinit : List (BitVec 128)
  binit : List TV
  cinit : List TV
  g : List TV
  /-- The next cluster linear id the Bellwether hands out; its die and its mirror (R292). -/
  next : Nat
  bell : Nat
  mirror : Option Nat
  retire : List Retire
  /-- Blocks arrived at `bar.g` (instance, local id, stage), and the frontier of each warp there. -/
  arrG : List (Nat × Nat × Nat)
  fronts : List ((Nat × Nat × Nat × Nat) × Frontier)
  /-- What its start acquires: the releases that its task's record gathered (R270). -/
  start : Frontier
  /-- Members of the drove in package order: node, context (R293). -/
  drove : List (Nat × Nat)
  /-- Instances placed on other members, by node; those whose member is lost, to be placed anew; and the member that holds the
  Bellwether once no die of this package does (R292, R293). -/
  away : List (Nat × Nat)
  lost : List Nat
  far : Option Nat
  /-- REGDRAW as its launch found it (R142). -/
  draw : Nat
  /-- The task it runs: package queue, slot (R288). -/
  task : Option (Nat × Nat)
  /-- Coordinates of a task's one block (R288). -/
  t0 : Nat
  t1 : Nat
  t2 : Nat
  live : Bool
  deriving DecidableEq, Repr

/-- The threads of one arm in a packet. -/
structure PArm where
  wk : WKey
  arm : Nat
  lanes : List Nat
  deriving DecidableEq, Repr

/-- A packet in an issue slot (R296, R297). -/
structure Packet where
  ctx : Nat
  code : Nat
  kern : Nat
  stage : Nat
  /-- Header offset, the index of the next instruction, CNT + 1, and whether the clause is scalar. -/
  hdr : Nat
  idx : Nat
  cnt : Nat
  scl : Bool
  arms : List PArm
  born : Nat
  deriving DecidableEq, Repr

/-- An entry of a core's operand log (R334): one lane's access that waits on a fault. -/
structure LogEnt where
  id : Nat
  word : Instr
  pc : Nat
  idx : Nat
  ctx : Nat
  wk : WKey
  arm : Nat
  party : Party
  epoch : Nat
  bufRec : BitVec 128
  /-- Every executing lane: its number, element index, byte offset, operand values, and the fault it waits on, or `noFid`. -/
  lanes : List (Nat × Word × Word × List TV × Nat)
  /-- Lanes that have performed their access. -/
  complete : List Nat
  /-- A lane that was performed again has to wait: the entry is replayed once more. -/
  retry : Bool
  deriving DecidableEq, Repr

/-- A lane of an operand log entry that waits on no fault. -/
def noFid : Nat := 4096

/-- A lane whose fault was resolved as fatal: it traps where its arm parks (R335). -/
def deadFid : Nat := 4097

/-- The FAULT mask: the lanes of an entry that wait (R334). -/
def LogEnt.waiting (e : LogEnt) : List (Nat × Word × Word × List TV × Nat) := e.lanes.filter fun l => l.2.2.2.2 != noFid

/-- A fill in flight (R122): what lands in a lane register of a thread. -/
structure Fill where
  id : Nat
  wk : WKey
  lane : Nat
  reg : Nat
  v : TV
  party : Party
  deriving DecidableEq, Repr

/-- A handle fill in flight (R206): index 0–15 a handle, 16–31 an m-handle. -/
structure HFill where
  id : Nat
  wk : WKey
  h : Nat
  v : BitVec 128
  party : Party
  deriving DecidableEq, Repr

/-- A TLB entry (R328). -/
structure TlbEnt where
  ctx : Nat
  obj : Nat
  /-- Object offset of the page in 64 KiB units, page size code, physical address in 64 KiB units, W, GEN. -/
  off : Nat
  psz : Nat
  pa : Nat
  w : Bool
  gen : Nat
  deriving DecidableEq, Repr

/-- A core (R13, R296, R301, R328). -/
structure CoreSt where
  id : Nat
  /-- Removed or retired cores place nothing. -/
  usable : Bool
  slots : List (Option Packet)
  /-- Packet slots filled so far (R299). -/
  filled : Nat
  /-- The warp holding each deterministic grid's turn (R303): context, grid, warp; and the warps that switched at YLD and
  have not had the turn since (R304). -/
  turns : List (Nat × Nat × WKey × List WKey)
  /-- Holders of a turn that have reached a switch point since their last packet. -/
  switched : List WKey
  /-- Locality throttle (R301): scores by warp slot, the limit N once it has started, and the victim tags, newest first: a line,
  and the slot of the warp that brought it in. -/
  scores : List (Nat × Nat)
  limit : Option Nat
  victims : List (Nat × Nat)
  log : List LogEnt
  fills : List Fill
  hfills : List HFill
  /-- L1 TLB, at most 64 entries (R328). -/
  tlb : List TlbEnt
  deriving DecidableEq, Repr

/-- A store or `red` that not every observer sees yet (R244 to R249). -/
structure PStore where
  id : Nat
  owner : Party
  epoch : Nat
  ctx : Nat
  /-- Position, stage and warp of the issuing party; hardware cluster of its core. -/
  wk : WKey
  hw : Nat
  pa : Nat
  bytes : List Byte
  /-- A `red` not yet performed: its operation, its operand and whether its scope is `.sys`. -/
  red : Option (AtomOp × Word × Bool)
  /-- Who sees it: 1 its block, 2 its cluster, 3 the grid, 4 the system. -/
  lvl : Nat
  /-- Further hardware clusters that see it. -/
  clus : List Nat
  /-- Parties that have read from it (R244, cumulativity). -/
  seen : List Party
  /-- The widest fence after it, as 1 + SC (R224); 0 for none. -/
  fence : Nat
  /-- A `red` is a release on its word (R233): the word, as `AtomRel` names it, and what it carries. -/
  rel : Option (Nat × Nat × Frontier)
  deriving DecidableEq, Repr

/-- What release atomics on a word left for later ones (R233): the word, as race detection places it (R242: a position's
stash, or memory; a byte address), their scope and cluster, their frontier. -/
structure AtomRel where
  ctx : Nat
  pos : Nat
  at' : Nat
  sys : Bool
  hw : Nat
  front : Frontier
  deriving DecidableEq, Repr

/-- The race record of a 32-byte sector (R237): of device memory by address ÷ 32, of the stash of position `pos` (0 for
memory), or of a page that is not mapped (`unmappedAt`). -/
structure Sector where
  pos : Nat
  sec : Nat
  ctx : Nat
  grid : Nat
  writer : Option (Party × Nat)
  /-- The writer was an engine operation. -/
  weng : Bool
  /-- An atomic writer: whether its scope was `.sys` (R231). -/
  watom : Option Bool
  /-- The current readers with their latest read epochs: RMARK with RPARTY, or the read table (R238). -/
  readers : List ReadMark
  /-- RCODE: the code of the reductions since the last ordering write; and those reductions, by party and epoch. -/
  rcode : Option AtomOp
  reds : List (Party × Nat)
  deriving DecidableEq, Repr

end Sys2Proof.Machine
end

