-- ==== Sys2Proof/Machine/Number.lean ====
section
/-! DEFINITION. The number formats (R82 to R98): elements of containers, exact values of the floating
and logarithmic formats, and the ONE rounding of an exact value that every arithmetic instruction uses. -/

namespace Sys2Proof.Machine

/-! ## Format codes (R82) -/

namespace F
/-- Untyped bits. -/
abbrev raw32 : Fmt := 0x00
abbrev f32 : Fmt := 0x01
abbrev f16 : Fmt := 0x02
abbrev bf16 : Fmt := 0x03
abbrev l8 : Fmt := 0x04
abbrev l6 : Fmt := 0x05
abbrev s32 : Fmt := 0x06
abbrev n32 : Fmt := 0x07
abbrev s16 : Fmt := 0x08
abbrev n16 : Fmt := 0x09
abbrev s8 : Fmt := 0x0A
abbrev n8 : Fmt := 0x0B
abbrev s4 : Fmt := 0x0C
abbrev n4 : Fmt := 0x0D
end F

/-- Element width in bits (R82); reserved codes never stand in a register and are given 32. -/
def elemBits (f : Fmt) : Nat :=
  match f.toNat with
  | 2 | 3 | 8 | 9 => 16
  | 4 | 10 | 11 => 8
  | 5 => 6
  | 12 | 13 => 4
  | _ => 32

/-- Elements per 32-bit container (R82). -/
def elemCount (f : Fmt) : Nat :=
  match f.toNat with
  | 2 | 3 | 8 | 9 => 2
  | 4 | 10 | 11 => 4
  | 5 => 5
  | 12 | 13 => 8
  | _ => 1

def isSigned (f : Fmt) : Bool := f == F.s32 || f == F.s16 || f == F.s8 || f == F.s4
def isUnsigned (f : Fmt) : Bool := f == F.n32 || f == F.n16 || f == F.n8 || f == F.n4
def isInteger (f : Fmt) : Bool := isSigned f || isUnsigned f
def isIeee (f : Fmt) : Bool := f == F.f32 || f == F.f16 || f == F.bf16
def isLog (f : Fmt) : Bool := f == F.l8 || f == F.l6

/-- Element `i` of a container of elements `w` bits wide, as a natural number (R83). -/
def elemAt (w : Nat) (c : Word) (i : Nat) : Nat := (c.toNat >>> (w * i)) % 2 ^ w

/-- The container with element `i` replaced (R83). -/
def setElem (w : Nat) (c : Word) (i : Nat) (v : Nat) : Word :=
  let m := ((2 ^ w - 1) <<< (w * i)) % 2 ^ 32
  BitVec.ofNat 32 ((c.toNat &&& (2 ^ 32 - 1 - m)) ||| (((v % 2 ^ w) <<< (w * i)) % 2 ^ 32))

/-- A container that an instruction produces: bits 31:30 of an l6 container are written as zero (R83). DEDUCED: log entry 19. -/
def trimL6 (f : Fmt) (v : Word) : Word := if f == F.l6 then v &&& 0x3FFFFFFF else v

/-- Two's complement reading of the low `w` bits (R85). -/
def toSigned (w : Nat) (n : Nat) : Int := if 2 * n < 2 ^ w then (n : Int) else (n : Int) - 2 ^ w

/-- The integer an element of an integer format stands for (R85). -/
def elemInt (f : Fmt) (bits : Nat) : Int :=
  if isSigned f then toSigned (elemBits f) bits else (bits : Int)

/-- Wrapping modulo 2^w (R85). -/
def wrapTo (w : Nat) (t : Int) : Nat := (t % (2 ^ w : Int)).toNat

/-- The least and the greatest value of an integer format (R85). -/
def intMin (f : Fmt) : Int := if isSigned f then -(2 ^ (elemBits f - 1) : Int) else 0
def intMax (f : Fmt) : Int :=
  if isSigned f then (2 ^ (elemBits f - 1) : Int) - 1 else (2 ^ elemBits f : Int) - 1

/-- The nearest value of an integer format, and whether it clamped (R85). -/
def clampTo (f : Fmt) (t : Int) : Int × Bool :=
  if t < intMin f then (intMin f, true) else if intMax f < t then (intMax f, true) else (t, false)

/-! ## FSTAT flags (R93) -/

/-- The flags one operation raises, in the order of FSTAT's bits (R93). -/
structure Flags where
  iv : Bool := false
  dz : Bool := false
  of : Bool := false
  uf : Bool := false
  nx : Bool := false
  nanLost : Bool := false
  sat : Bool := false
  deriving DecidableEq, Repr, Inhabited

def Flags.none : Flags := {}

/-- Flags only accumulate (R93). -/
def Flags.join (a b : Flags) : Flags :=
  ⟨a.iv || b.iv, a.dz || b.dz, a.of || b.of, a.uf || b.uf, a.nx || b.nx, a.nanLost || b.nanLost,
   a.sat || b.sat⟩

/-- The bits of FSTAT that these flags set (R93). -/
def Flags.toBits (a : Flags) : Word :=
  BitVec.ofNat 32 (a.iv.toNat + 2 * a.dz.toNat + 4 * a.of.toNat + 8 * a.uf.toNat + 16 * a.nx.toNat
    + 32 * a.nanLost.toNat + 64 * a.sat.toNat)

/-! ## Exact values -/

/-- An exact value: a NaN, an infinity, or a signed fraction num/den times a power of two. -/
inductive Exact where
  /-- A NaN; `sig` when it signals (R87). -/
  | nan (sig : Bool)
  | inf (neg : Bool)
  /-- (-1)^neg · (num / den) · 2^exp; num = 0 is a zero of that sign; den is never 0. -/
  | fin (neg : Bool) (num den : Nat) (exp : Int)
  deriving DecidableEq, Repr

namespace Exact
def zero (neg : Bool) : Exact := .fin neg 0 1 0
def ofInt (i : Int) : Exact := .fin (decide (i < 0)) i.natAbs 1 0
def isNaN : Exact → Bool | .nan _ => true | _ => false
def isSNaN : Exact → Bool | .nan s => s | _ => false
def isZero : Exact → Bool | .fin _ n _ _ => n == 0 | _ => false
def isInf : Exact → Bool | .inf _ => true | _ => false
def sign : Exact → Bool | .nan _ => false | .inf n => n | .fin n _ _ _ => n
def neg : Exact → Exact | .nan s => .nan s | .inf n => .inf (!n) | .fin n a b e => .fin (!n) a b e
end Exact

/-- Precision, least normal exponent and greatest exponent of an IEEE format (R86). -/
structure IeeeParam where
  prec : Nat
  emin : Int
  emax : Int
  deriving DecidableEq, Repr

def ieeeParam (f : Fmt) : IeeeParam :=
  if f == F.f16 then ⟨11, -14, 15⟩ else if f == F.bf16 then ⟨8, -126, 127⟩ else ⟨24, -126, 127⟩

/-- Total width of an IEEE format's element. -/
def ieeeBits (f : Fmt) : Nat := if f == F.f32 then 32 else 16

/-- The exact value of the bits of an IEEE element, subnormals included (R86). -/
def ieeeVal (f : Fmt) (bits : Nat) : Exact :=
  let p := ieeeParam f
  let frac := p.prec - 1
  let neg := decide (bits / 2 ^ (ieeeBits f - 1) % 2 = 1)
  let e := bits / 2 ^ frac % 2 ^ (ieeeBits f - 1 - frac)
  let m := bits % 2 ^ frac
  if e = 2 ^ (ieeeBits f - 1 - frac) - 1 then
    if m = 0 then .inf neg else .nan (decide (m / 2 ^ (frac - 1) = 0))
  else if e = 0 then .fin neg m 1 (p.emin - frac)
  else .fin neg (m + 2 ^ frac) 1 (p.emin - frac + (e - 1 : Nat))

/-- Whether the bits are a subnormal of the format (R92). -/
def ieeeSubnormal (f : Fmt) (bits : Nat) : Bool :=
  let frac := (ieeeParam f).prec - 1
  decide (bits / 2 ^ frac % 2 ^ (ieeeBits f - 1 - frac) = 0) && decide (bits % 2 ^ frac ≠ 0)

/-- The canonical NaN of each IEEE format (R87). -/
def canonNaN (f : Fmt) : Nat := if f == F.f32 then 0x7FC00000 else if f == F.f16 then 0x7E00 else 0x7FC0

def ieeeSignBit (f : Fmt) (neg : Bool) : Nat := if neg then 2 ^ (ieeeBits f - 1) else 0

def ieeeZero (f : Fmt) (neg : Bool) : Nat := ieeeSignBit f neg

def ieeeInf (f : Fmt) (neg : Bool) : Nat :=
  ieeeSignBit f neg + (2 ^ (ieeeBits f - 1 - ((ieeeParam f).prec - 1)) - 1) * 2 ^ ((ieeeParam f).prec - 1)

/-- The largest finite value of a sign. -/
def ieeeMaxFinite (f : Fmt) (neg : Bool) : Nat := ieeeInf f neg - 1

/-! ## The fraction table of the logarithmic formats (R95) -/

def lTable (k : Nat) : Nat :=
  match k with
  | 0 => 0x800000
  | 1 => 0x8B95C2
  | 2 => 0x9837F0
  | 3 => 0xA5FED7
  | 4 => 0xB504F3
  | 5 => 0xC5672A
  | 6 => 0xD744FD
  | _ => 0xEAC0C7

/-- L of an l code on the grid of 1/8 (R94). -/
def lField8 (f : Fmt) (bits : Nat) : Int :=
  if f == F.l6 then 2 * toSigned 5 (bits % 32) else toSigned 7 (bits % 128)

def lSign (f : Fmt) (bits : Nat) : Bool := if f == F.l6 then decide (bits / 32 % 2 = 1) else decide (bits / 128 % 2 = 1)

/-- The codes that read as +0: the code of +0 and the reserved one (R94, R98). -/
def lReadsZero (f : Fmt) (bits : Nat) : Bool :=
  if f == F.l6 then decide (bits % 32 = 16) else decide (bits % 128 = 64)

/-- (-1)^s · T[k] · 2^(n−23) with L8 = 8n + k (R95, R97). -/
def lLinear (neg : Bool) (l8 : Int) : Exact := .fin neg (lTable (l8 % 8).toNat) 1 (l8 / 8 - 23)

/-- The linear value of an l element (R95, R98). -/
def lVal (f : Fmt) (bits : Nat) : Exact :=
  if lReadsZero f bits then .zero false else lLinear (lSign f bits) (lField8 f bits)

/-- The exact value of one element of any typed format. -/
def elemVal (f : Fmt) (bits : Nat) : Exact :=
  if isInteger f then .ofInt (elemInt f bits) else if isLog f then lVal f bits else ieeeVal f bits

/-! ## Rounding (R89 to R91) -/

/-- floor(log2(num/den)) for num, den > 0. -/
def floorLog2 (num den : Nat) : Int :=
  let e : Int := (num.log2 : Int) - (den.log2 : Int)
  let lt : Bool := if 0 ≤ e then decide (num < den * 2 ^ e.toNat) else decide (num * 2 ^ (-e).toNat < den)
  if lt then e - 1 else e

/-- num/den · 2^sh as a quotient and a fraction rem/den' in [0, 1). -/
def scaleQuot (num den : Nat) (sh : Int) : Nat × Nat × Nat :=
  let n := if 0 ≤ sh then num * 2 ^ sh.toNat else num
  let d := if 0 ≤ sh then den else den * 2 ^ (-sh).toNat
  (n / d, n % d, d)

/-- Whether a magnitude with quotient `q` and fraction rem/d is rounded up (R89, R90). -/
def roundsUp (m : Rnd) (rnd : Word) (neg : Bool) (q rem d : Nat) : Bool :=
  if rem = 0 then false else
  match m with
  | .rne => decide (d < 2 * rem) || (decide (2 * rem = d) && decide (q % 2 = 1))
  | .rtz => false
  | .rdn => neg
  | .rup => !neg
  | .rs => decide (2 ^ 32 ≤ rem * 2 ^ 32 / d + rnd.toNat)

/-- A magnitude rounded to a multiple of 2^q: the multiple and whether it is inexact. -/
def roundMag (m : Rnd) (rnd : Word) (neg : Bool) (num den : Nat) (exp q : Int) : Nat × Bool :=
  let (k, rem, d) := scaleQuot num den (exp - q)
  (if roundsUp m rnd neg k rem d then k + 1 else k, decide (rem ≠ 0))

/-- An exact nonzero magnitude rounded once to an IEEE format: its bits and the flags of R91. -/
def roundFin (f : Fmt) (m : Rnd) (rnd : Word) (neg : Bool) (num den : Nat) (exp : Int) : Nat × Flags :=
  let p := ieeeParam f
  let frac : Nat := p.prec - 1
  let e := floorLog2 num den + exp
  let qmin := p.emin - frac
  let q := if e - frac < qmin then qmin else e - frac
  let (k, nx) := roundMag m rnd neg num den exp q
  let (ku, _) := roundMag m rnd neg num den exp (e - frac)
  -- tiny: the value rounded with an unbounded exponent lies below 2^emin (R91)
  let tiny := decide (floorLog2 ku 1 + (e - frac) < p.emin)
  let mag := k + (q - qmin).toNat * 2 ^ frac
  let top := ieeeInf f false
  if top ≤ mag then
    let toInf := match m with
      | .rne => true
      | .rtz => false
      | .rdn => neg
      | .rup => !neg
      | .rs => true
    (if toInf then ieeeInf f neg else ieeeMaxFinite f neg, { of := true, nx := true })
  else
    (ieeeSignBit f neg + mag, { uf := tiny && nx, nx := nx })

/-- An exact value rounded once to an IEEE format (R86, R87, R91). -/
def roundTo (f : Fmt) (m : Rnd) (rnd : Word) (x : Exact) : Nat × Flags :=
  match x with
  | .nan s => (canonNaN f, { iv := s })
  | .inf n => (ieeeInf f n, {})
  | .fin n num den e => if num = 0 then (ieeeZero f n, {}) else roundFin f m rnd n num den e

/-- RoundRNE (R29, R107). -/
def roundRNE (f : Fmt) (x : Exact) : Nat × Flags := roundTo f .rne 0 x

/-- `.ftz` on a delivered result: a subnormal becomes a zero of its sign, with UF and NX (R92). -/
def ftzResult (ftz : Bool) (f : Fmt) (r : Nat × Flags) : Nat × Flags :=
  if ftz && ieeeSubnormal f r.1 then
    (ieeeSignBit f (decide (r.1 / 2 ^ (ieeeBits f - 1) % 2 = 1)), { r.2 with uf := true, nx := true })
  else r

/-- Whether a finite value is a subnormal of the format, judged by its magnitude (R92). -/
def exactSubnormal (f : Fmt) (x : Exact) : Bool :=
  match x with
  | .fin _ num den e => decide (num ≠ 0) && decide (floorLog2 num den + e < (ieeeParam f).emin)
  | _ => false

/-- `.ftz` on a source: a subnormal of the operating format becomes a zero of its sign (R92). DEDUCED: log entry 14. -/
def ftzSource (ftz : Bool) (f : Fmt) (x : Exact) : Exact :=
  if ftz && exactSubnormal f x then .zero x.sign else x

/-! ## Exact arithmetic -/

/-- Sign of an exact zero sum: minus only under `.rdn`, or when both terms are minus (IEEE 754, R86). -/
def zeroSumSign (m : Rnd) (n1 n2 : Bool) : Bool := if n1 == n2 then n1 else m == .rdn

/-- num/den · 2^exp as a fraction without a power of two. -/
def flatFrac (num den : Nat) (exp : Int) : Nat × Nat :=
  if 0 ≤ exp then (num * 2 ^ exp.toNat, den) else (num, den * 2 ^ (-exp).toNat)

/-- x + y, exact; the flag is IV of ∞ − ∞ or of a signalling NaN (R87). -/
def exactAdd (m : Rnd) (x y : Exact) : Exact × Bool :=
  match x, y with
  | .nan a, .nan b => (.nan false, a || b)
  | .nan a, _ => (.nan false, a)
  | _, .nan b => (.nan false, b)
  | .inf a, .inf b => if a == b then (.inf a, false) else (.nan false, true)
  | .inf a, _ => (.inf a, false)
  | _, .inf b => (.inf b, false)
  | .fin s1 n1 d1 e1, .fin s2 n2 d2 e2 =>
    let e := min e1 e2
    let a : Int := (n1 * d2 * 2 ^ (e1 - e).toNat : Nat)
    let b : Int := (n2 * d1 * 2 ^ (e2 - e).toNat : Nat)
    let t := (if s1 then -a else a) + (if s2 then -b else b)
    if t = 0 then (.zero (zeroSumSign m s1 s2), false)
    else (.fin (decide (t < 0)) t.natAbs (d1 * d2) e, false)

/-- x · y, exact; the flag is IV of 0 · ∞ or of a signalling NaN (R87). -/
def exactMul (x y : Exact) : Exact × Bool :=
  match x, y with
  | .nan a, .nan b => (.nan false, a || b)
  | .nan a, _ => (.nan false, a)
  | _, .nan b => (.nan false, b)
  | .inf a, .inf b => (.inf (a != b), false)
  | .inf a, .fin s n _ _ => if n = 0 then (.nan false, true) else (.inf (a != s), false)
  | .fin s n _ _, .inf b => if n = 0 then (.nan false, true) else (.inf (s != b), false)
  | .fin s1 n1 d1 e1, .fin s2 n2 d2 e2 => (.fin (s1 != s2) (n1 * n2) (d1 * d2) (e1 + e2), false)

/-- x ÷ y for a y that is finite and not zero; ±∞ stays infinite, a NaN stays a NaN (R167). -/
def exactDiv (x y : Exact) : Exact :=
  match x, y with
  | .fin s1 n1 d1 e1, .fin s2 n2 d2 e2 => .fin (s1 != s2) (n1 * d2) (d1 * n2) (e1 - e2)
  | .inf a, y => .inf (a != y.sign)
  | x, _ => x

/-- Whether x < y of two exact numbers, −0 and +0 equal. -/
def exactLt (x y : Exact) : Bool :=
  match x, y with
  | .nan _, _ => false
  | _, .nan _ => false
  | .inf a, .inf b => a && !b
  | .inf a, _ => a
  | _, .inf b => !b
  | .fin s1 n1 d1 e1, .fin s2 n2 d2 e2 =>
    let e := min e1 e2
    let a : Int := (n1 * d2 * 2 ^ (e1 - e).toNat : Nat)
    let b : Int := (n2 * d1 * 2 ^ (e2 - e).toNat : Nat)
    decide ((if s1 then -a else a) < (if s2 then -b else b))

/-- Whether x = y of two exact numbers, −0 and +0 equal. -/
def exactEq (x y : Exact) : Bool :=
  !x.isNaN && !y.isNaN && !exactLt x y && !exactLt y x

/-- The bits of a value that is exact in the format. -/
def exactBits (f : Fmt) (x : Exact) : Nat := (roundRNE f x).1

/-- The lesser of two exact numbers, −0 below +0 (R88). -/
def lesser (x y : Exact) : Exact :=
  if exactLt x y then x else if exactLt y x then y else if x.sign then x else y

def greater (x y : Exact) : Exact :=
  if exactLt x y then y else if exactLt y x then x else if x.sign then y else x

/-- fmin and fmax on exact values (R88): the result and IV. -/
def minMax (isMax prop : Bool) (x y : Exact) : Exact × Bool :=
  let iv := x.isSNaN || y.isSNaN
  if x.isNaN then
    if y.isNaN || prop then (.nan false, iv) else (y, iv)
  else if y.isNaN then
    if prop then (.nan false, iv) else (x, iv)
  else (if isMax then greater x y else lesser x y, false)

/-! ## Rounding to integers (R85, R162) -/

/-- An exact finite value rounded to an integer in a mode, and whether that changed it. -/
def roundInt (m : Rnd) (rnd : Word) (neg : Bool) (num den : Nat) (exp : Int) : Int × Bool :=
  let (k, nx) := roundMag m rnd neg num den exp 0
  (if neg then -(k : Int) else k, nx)

/-- A floating value converted to an integer format (R85): the value, and the flags. -/
def toIntFmt (f : Fmt) (m : Rnd) (rnd : Word) (x : Exact) : Int × Flags :=
  match x with
  | .nan _ => (0, { iv := true })
  | .inf n => (if n then intMin f else intMax f, { sat := true })
  | .fin n num den e =>
    let (t, nx) := roundInt m rnd n num den e
    let (c, sat) := clampTo f t
    (c, if sat then { sat := true } else { nx := nx })

/-! ## Conversion to the logarithmic formats (R96) -/

/-- Whether num/den · 2^exp lies below 2^(j/16): the value's 16th power against 2^j. -/
def below16 (num den : Nat) (exp : Int) (j : Int) : Bool :=
  let l := num ^ 16
  let r := den ^ 16
  let k := 16 * exp - j
  if 0 ≤ k then decide (l * 2 ^ k.toNat < r) else decide (l < r * 2 ^ (-k).toNat)

/-- The L on the grid of `step`/8 nearest to log2 of a magnitude, between its neighbours (R96): the
thresholds are the irrational midpoints of R96, on the grid of sixteenths. -/
def nearestL8 (step : Int) (num den : Nat) (exp : Int) : Int :=
  let e := floorLog2 num den + exp
  -- candidates from 2^e upward; the last whose lower midpoint is not above the value
  let n := (8 / step).toNat + 1
  (List.range n).foldl (fun (acc : Int) (i : Nat) =>
    let l := 8 * e + step * (i : Int)
    if below16 num den exp (2 * l - step) then acc else l) (8 * e)

/-- The code of a sign and an L on the grid of 1/8. -/
def lCode (f : Fmt) (neg : Bool) (l8 : Int) : Nat :=
  if f == F.l6 then (if neg then 32 else 0) + wrapTo 5 (l8 / 2) else (if neg then 128 else 0) + wrapTo 7 l8

def lZero (f : Fmt) : Nat := if f == F.l6 then 0x10 else 0x40

/-- Largest L and smallest L of a nonzero code, on the grid of 1/8 (R94, R96). -/
def lMax8 (f : Fmt) : Int := if f == F.l6 then 30 else 63
def lMin8 (f : Fmt) : Int := if f == F.l6 then -30 else -63
def lStep8 (f : Fmt) : Int := if f == F.l6 then 2 else 1

/-- A value converted to an l format (R96). -/
def toLog (f : Fmt) (x : Exact) : Nat × Flags :=
  match x with
  | .nan _ => (lZero f, { nanLost := true })
  | .inf n => (lCode f n (lMax8 f), { sat := true })
  | .fin n num den e =>
    if num = 0 then (lZero f, {})
    else if below16 num den e (2 * lMin8 f - lStep8 f) then (lZero f, { uf := true, nx := true })
    else if !below16 num den e (2 * lMax8 f + lStep8 f) then (lCode f n (lMax8 f), { sat := true })
    else
      let l := nearestL8 (lStep8 f) num den e
      let c := lCode f n l
      (c, { nx := !exactEq (lVal f c) x })

/-- An exact value converted to any typed format but raw32: the element's bits and the flags (R166). -/
def convertTo (f : Fmt) (m : Rnd) (rnd : Word) (x : Exact) : Nat × Flags :=
  if isLog f then toLog f x
  else if isInteger f then
    let (t, fl) := toIntFmt f m rnd x
    (wrapTo (elemBits f) t, fl)
  else roundTo f m rnd x

end Sys2Proof.Machine
end

