-- ==== Sys2Proof/Machine/Flags.lean ====
section
/-! DEFINITION. Raising the status flags: FSTAT of a warp (R93) and MSTAT of a block (R193). -/

namespace Sys2Proof.Machine

/-- FSTAT with further flags: an event sets its flag and none clears one (R93). -/
def raiseFstat (fstat : Word) (f : Flags) : Word := fstat ||| f.toBits

/-- The flags of MSTAT that a chain or an `ast` raises: DZ has no place there (R193). -/
def mstatBits (f : Flags) : Word := (Flags.toBits { f with dz := false })

/-- COUNT of MSTAT, which stops at 0xFFFF (R193). -/
def mstatCount (m : Word) : Nat := m.toNat / 65536

/-- MSTAT after an engine operation that raised `f` (R193). DEDUCED: log entry 51. -/
def raiseMstat (m : Word) (f : Flags) : Word :=
  if mstatBits f = 0 then m
  else
    let n := if mstatCount m < 65535 then mstatCount m + 1 else mstatCount m
    BitVec.ofNat 32 (65536 * n + m.toNat % 65536) ||| mstatBits f

/-- The writable bits of FSTAT; the others are reserved (R93, R6). -/
def fstatMask : Word := 0x7F

/-- The writable bits of MSTAT (R193, R6). -/
def mstatMask : Word := 0xFFFF007D

end Sys2Proof.Machine
end

