-- ==== Sys2Proof/Machine/Frontier.lean ====
section
/-! DEFINITION. Frontiers: what happens before a point (R232, R233), and the releases and acquires of an arm. -/

namespace Sys2Proof.Machine

def frontGet (f : Frontier) (p : Party) : Nat := (f.lookup p).getD 0

/-- Whether an access of party Y at epoch e happens before a point with frontier f. -/
def before (f : Frontier) (y : Party) (e : Nat) : Bool := (f.lookup y).any fun k => decide (e ≤ k)

def frontPut (f : Frontier) (p : Party) (e : Nat) : Frontier :=
  match f.lookup p with
  | some k => if k < e then (p, e) :: f.filter (·.1 != p) else f
  | none => (p, e) :: f

def frontJoin (f g : Frontier) : Frontier := g.foldl (fun f x => frontPut f x.1 x.2) f

/-- The frontiers of several releases together. -/
def joinFronts {α : Type} (l : List (α × Frontier)) : Frontier := l.foldl (fun f x => frontJoin f x.2) []

/-- What a release by an arm carries: its own accesses so far, and all that happens before them. -/
def Arm.release (a : Arm) (p : Party) : Frontier := frontPut a.front p a.epoch

/-- An arm's new epoch (R232); every release and acquire takes one. -/
def Warp.tick (w : Warp) (arm : Nat) : Warp :=
  { w with epoch := w.epoch + 1, arms := w.arms.map fun a => if a.tag == arm then { a with epoch := w.epoch + 1 } else a }

/-- The last epoch has been passed (R240). -/
def Warp.overspent (w : Warp) : Bool := decide (2 ^ 48 ≤ w.epoch)

/-- An acquire by an arm: what happens before the release now happens before the arm. -/
def Warp.acquire (w : Warp) (arm : Nat) (f : Frontier) : Warp :=
  Warp.tick { w with arms := w.arms.map fun a => if a.tag == arm then { a with front := frontJoin a.front f } else a } arm

end Sys2Proof.Machine
end

