-- ==== Sys2Proof/Config.lean ====
section
/-! DEFINITION. What GW-FG04-A fixes (R13, R14, R296), and the free values: constants without a body that stand
for what the manual leaves open. Nothing can be proved of a free value but that it is one. -/

namespace Sys2Proof.Config

/-- LANES: the issue width of one packet (R14). -/
abbrev lanes : Nat := 128
/-- Issue slots of a core (R296). -/
abbrev issueSlots : Nat := 4
/-- Cores, and cores of a hardware cluster (R10). -/
abbrev cores : Nat := 192
abbrev coresPerCluster : Nat := 8
abbrev clusters : Nat := 24
/-- Pool units (granules of one thread) of a core: 131,072 lane registers of 8 (R13). -/
abbrev poolUnits : Nat := 16384
/-- Accumulator banks, copy tags, Loft slots, stash bytes of a core (R13). -/
abbrev accBanks : Nat := 128
abbrev copyTags : Nat := 64
abbrev loftSlots : Nat := 8
abbrev stashBytes : Nat := 786432
/-- Threads, warps and blocks resident on a core (R13). -/
abbrev coreThreads : Nat := 4096
abbrev coreWarps : Nat := 128
abbrev coreBlocks : Nat := 32

/-! ## Free values

Each use applies the constant to the counter `State.free`, which the step advances, or to the operands it
depends on. -/

/-- A 32-bit value the manual leaves open. DESIGN CHOICE: log entry 10. -/
opaque freeWord : Nat → Word
/-- A byte the manual leaves open. DESIGN CHOICE: log entry 10. -/
opaque freeByte : Nat → Byte
/-- A choice the manual leaves open ("may be seen or not"). -/
opaque freeBit : Nat → Bool
/-- Whether the network beyond a fabric port leads to a node: the routes of R338 outside this package. DESIGN CHOICE: log entry 11. -/
opaque leads : (port node : Nat) → Bool
/-- Whether the other end of a fabric port is a node: its direct link (R293). DESIGN CHOICE: log entry 11. -/
opaque linked : (port node : Nat) → Bool
/-- The f32 (or f16) a floating operating format reads from an untagged integer that the format does not hold
exactly, which R101 takes not to arise (log entry 12). -/
opaque inexactIndex : Word → Word

/-- Where the management processor keeps the extent list of an object (R324), in units of 64 bytes. -/
opaque extentList : (ctx obj : Nat) → BitVec 58

/-- The key stream under which a flit is encrypted from DNODE upward, and its integrity tag (R340): by paddock, key slot, KGEN
and the plain header word. DESIGN CHOICE: log entry 160. -/
opaque flitMask : (pad slot kgen head i : Nat) → Byte
opaque flitTag : (pad slot kgen : Nat) → List Byte → (i : Nat) → Byte

/-- Whether a Falcon-1024 signature of some bytes holds under a public key (R428, R430). DESIGN CHOICE: log entry 73. -/
opaque falcon : (key sig text : List Byte) → Bool
/-- The vendor's public key digest, and the lowest version that boots: both stand in fuses (R428). DESIGN CHOICE: log entry 73. -/
opaque vendorDigest : BitVec 512
opaque fusedVersion : Nat
/-- Whether bytes are a recovery image that the vendor has signed (R428). DESIGN CHOICE: log entry 73. -/
opaque recoverySigned : List Byte → Bool
/-- The device's ML-KEM-1024 public key, its identity key and the vendor's certificate of it (R430), and whether an encapsulation opens
under the first. DESIGN CHOICE: log entry 73. -/
opaque kemKey : List Byte
opaque identityKey : List Byte
opaque identityCert : List Byte
opaque kemOpens : (key wrapped : List Byte) → Bool

/-- The Falcon-1024 signature by the identity key of some bytes (R430, R431). DESIGN CHOICE: log entry 11. -/
opaque signature : List Byte → List Byte

end Sys2Proof.Config
end

