-- ==== Sys2Proof/Machine/Operands.lean ====
section
/-! DEFINITION. Reading operands (R54, R55, R99 to R102, R122 to R125, R129, R130, R145 to R148): what one lane of
an arm reads, waits on or traps at, and the typed reading of a value in an operating format. -/

namespace Sys2Proof.Machine

/-- The outcome of one lane's part of an instruction: a value, a trap, the packet's stall on an empty register
(R122), or the arm's parking (R294). -/
inductive LaneStep (α : Type) where
  | ok (a : α)
  | trap (t : Trap)
  | stall
  | park (w : Wait)
  deriving DecidableEq, Repr

namespace LaneStep

def bind {α β : Type} (x : LaneStep α) (f : α → LaneStep β) : LaneStep β :=
  match x with
  | .ok a => f a
  | .trap t => .trap t
  | .stall => .stall
  | .park w => .park w

def map {α β : Type} (f : α → β) (x : LaneStep α) : LaneStep β := x.bind fun a => .ok (f a)

/-- A step that waits under another name. -/
def parks {α : Type} (x : LaneStep α) (w : Wait) : LaneStep α :=
  match x with
  | .park _ => .park w
  | y => y

/-- A check: the trap when it fails. -/
def require (c : Bool) (t : Trap) : LaneStep Unit := if c then .ok () else .trap t

/-- The results of a list of steps, in order; the first that is no value decides. -/
def all {α : Type} : List (LaneStep α) → LaneStep (List α)
  | [] => .ok []
  | x :: xs => x.bind fun a => (all xs).bind fun as => .ok (a :: as)

end LaneStep

/-- What a source carries beside its bits: a format tag, no tag, or the zero special (R101). -/
inductive OTag where
  | tag (f : Fmt)
  | untagged
  | zeroSp
  deriving DecidableEq, Repr

/-- A source as read: its bits, its tag, and which operand it was (TINFO0 of R402). -/
structure RV where
  bits : Word
  tag : OTag
  opnd : Word
  deriving DecidableEq, Repr

/-- The tag written when a source's value is written together with its tag (R101). -/
def RV.outTag (r : RV) : Fmt :=
  match r.tag with
  | .tag f => f
  | .untagged => F.s32
  | .zeroSp => F.raw32

def RV.tv (r : RV) : TV := ⟨r.bits, r.outTag⟩

/-- The specifier bits of an operand, as TINFO0 reports them (R402). -/
def specBits : Spec → Nat
  | .v i => i.toNat
  | .x i => 128 + i.toNat
  | .w i => 256 + i.toNat
  | .b i => 384 + i.toNat
  | .c i => 512 + i.toNat
  | .g i => 640 + i.toNat
  | .p i => 768 + i.toNat
  | .z i => 776 + i.toNat
  | .h i => 784 + i.toNat
  | .a i => 800 + i.toNat
  | .m i => 832 + i.toNat
  | .l i => 848 + i.toNat
  | .tg => 888
  | .laneid => 889
  | .warpid => 890
  | .blockid => 891
  | .clusterid => 892
  | .stageid => 893
  | .width => 894
  | .zero => 895
  | .imm i => 896 + i.toNat

/-- TINFO0 of a cause 0x10–0x26: the specifier, and the field in [11:10] (0 D, 1 S1, 2 S2, 3 S3). -/
def opndInfo (field : Nat) (s : Spec) : Word := BitVec.ofNat 32 (specBits s + 1024 * field)

/-- A trap whose detail names an operand. DEDUCED: log entry 29. -/
def opTrap (c : Cause) (field : Nat) (s : Spec) : Trap := { cause := c, info0 := opndInfo field s }

/-- What a lane, or a scalar clause's arm, reads its operands from. -/
structure RCtx where
  /-- The thread; none in a scalar clause (R53). -/
  thread : Option Thread
  lane : Nat
  width : Nat
  warp : Warp
  arm : Nat
  block : Block
  pos : Position
  inst : Inst
  grid : Grid
  deriving DecidableEq, Repr

/-! ## Scope registers (R129, R130) -/

/-- The value a view holds for a register (of a subgroup, for x). -/
def viewGet (v : List ViewEnt) (r : Spec) (sub : Nat) : Option TV :=
  (v.find? fun e => e.reg == r && e.sub == sub).map (·.v)

/-- The view with a register written. -/
def viewPut (v : List ViewEnt) (r : Spec) (sub : Nat) (x : TV) : List ViewEnt :=
  (v.filter fun e => !(e.reg == r && e.sub == sub)) ++ [⟨r, sub, x⟩]

/-- The arm of a tag. -/
def Warp.armOf (w : Warp) (tag : Nat) : Option Arm := w.arms.find? (·.tag == tag)

/-- The record of an id. -/
def Warp.recOf (w : Warp) (id : Nat) : Option Rec := w.recs.find? (·.id == id)

/-- An arm and its ancestors, nearest first (at most 17 deep, R127). -/
def Warp.chain (w : Warp) : Nat → Nat → List Arm
  | 0, _ => []
  | fuel + 1, tag =>
    match w.armOf tag with
    | none => []
    | some a =>
      match a.inRec.bind w.recOf with
      | none => [a]
      | some r => a :: w.chain fuel r.parent

/-- The first value found along a chain of arms. -/
def chainGet : List Arm → Spec → Nat → Option TV
  | [], _, _ => none
  | a :: as, r, sub =>
    match viewGet a.view r sub with
    | some v => some v
    | none => chainGet as r sub

/-- The subgroup of a lane (R119). -/
def subgroup (lane : Nat) : Nat := lane / 8

/-- A committed value. -/
def nth (l : List TV) (i : Nat) : TV := (l[i]?).getD .zero

/-- A scope register as an arm reads it, by the order of R130. -/
def readScope (c : RCtx) (s : Spec) : TV :=
  match s with
  | .w i => (chainGet (c.warp.chain 18 c.arm) s 0).getD (nth c.warp.w i.toNat)
  | .x i =>
    let sub := subgroup c.lane
    (chainGet (c.warp.chain 18 c.arm) s sub).getD (nth ((c.warp.x[sub]?).getD []) i.toNat)
  | .b i => (viewGet c.warp.view s 0).getD (nth c.block.b i.toNat)
  | .c i => ((viewGet c.warp.view s 0).or (viewGet c.block.view s 0)).getD (nth c.inst.c i.toNat)
  | .g i =>
    (((viewGet c.warp.view s 0).or (viewGet c.block.view s 0)).or (viewGet c.inst.view s 0)).getD
      (nth c.grid.g i.toNat)
  | _ => .zero

/-! ## Reading a source -/

/-- Blocks per cluster instance (R284). -/
def Grid.cn (g : Grid) : Nat := g.cx * g.cy * g.cz

/-- The block linear id (R288); a task's block is 0. -/
def blockLinear (g : Grid) (p : Position) : Nat := p.inst * g.cn + p.loc

/-- The done bits of tags 0 to 31 (R215). -/
def tagWord (tags : List CTag) : Word :=
  BitVec.ofNat 32 ((List.range 32).foldl (fun acc i =>
    match tags[i]? with
    | some t => if t.count = 0 then acc + 2 ^ i else acc
    | none => acc + 2 ^ i) 0)

/-- The newest bypass entry with a result for a register (R124). DEDUCED: log entry 17. -/
def bypGet (b : List Byp) (s : Spec) : Option TV := (b.find? fun e => e.dst == s && e.v.isSome).bind (·.v)

/-- The logged access of the thread that has left a register, or a handle, to be filled. -/
def Thread.logOf (t : Thread) (i : Nat) : Option Nat := (t.fault.find? (·.2.contains i)).map (·.1)

/-- Waiting for a fill: the packet's slot stalls (R122); a thread parks instead for a register that its logged access has left
empty (R335). -/
def Thread.awaitFill {α : Type} (t : Thread) (i : Nat) : LaneStep α :=
  match t.logOf i with
  | some e => .park (.pageFault e)
  | none => .stall

/-- A lane register as a thread reads it: it must be held (R121); then the bypass, then the file (R122, R124). -/
def readLane (field : Nat) (src : Src) (t : Thread) (i : Nat) : LaneStep TV :=
  match t.regs[i]? with
  | none => .trap (opTrap .regUndeclared field src.spec)
  | some r =>
    match bypGet t.byp src.spec with
    | some v => .ok v
    | none =>
      match r.st with
      | .full => .ok r.v
      | .freed => .ok .zero
      | .empty => if src.trap then .trap (opTrap .emptyRead field src.spec) else t.awaitFill i

def ofTV (field : Nat) (s : Spec) (v : TV) : RV := ⟨v.val, .tag v.tag, opndInfo field s⟩

/-- DEDUCED: log entry 23. -/
def plain (field : Nat) (s : Spec) (n : Nat) : RV := ⟨BitVec.ofNat 32 n, .untagged, opndInfo field s⟩

/-- One source of an instruction as a lane reads it; `field` is 0 for D and 1 to 3 for S1 to S3. -/
def rd (c : RCtx) (field : Nat) (src : Src) : LaneStep RV :=
  match src.spec with
  | .v i =>
    match c.thread with
    | none => .trap (opTrap .regUndeclared field src.spec)
    | some t => (readLane field src t i.toNat).map (ofTV field src.spec)
  | .x _ | .w _ | .b _ | .c _ | .g _ => .ok (ofTV field src.spec (readScope c src.spec))
  | .p i =>
    .ok (plain field src.spec
      (if i == 7 then 1 else match c.thread with
        | none => 0
        | some t => ((t.preds[i.toNat]?).getD false).toNat))
  | .z i =>
    match (c.warp.z[i.toNat]?).getD none with
    | some v => .ok (ofTV field src.spec v)
    | none => if src.trap then .trap (opTrap .emptyRead field src.spec) else .park (.batonFull i.toNat)
  | .tg => .ok ⟨tagWord c.pos.tags, .tag F.n32, opndInfo field src.spec⟩
  | .laneid => .ok (plain field src.spec c.lane)
  | .warpid => .ok (plain field src.spec c.warp.idx)
  | .blockid => .ok (plain field src.spec (blockLinear c.grid c.pos))
  | .clusterid => .ok (plain field src.spec c.pos.inst)
  | .stageid => .ok (plain field src.spec c.block.stage)
  | .width => .ok (plain field src.spec c.width)
  | .zero => .ok ⟨0, .zeroSp, opndInfo field src.spec⟩
  | .imm i => .ok ⟨i.signExtend 32, .untagged, opndInfo field src.spec⟩
  | .h _ | .a _ | .m _ | .l _ => .ok (plain field src.spec 0)

/-- S2 of a V/I instruction (R61, R148). -/
def rdI (c : RCtx) (b : SrcI) : LaneStep RV :=
  match b with
  | .src s => rd c 2 s
  | .imm i => .ok ⟨i.signExtend 32, .untagged, 0⟩

/-- The guard of a lane (R58). -/
def guardOf (g : Guard) (preds : List Bool) : Bool :=
  (if g.pred == 7 then true else (preds[g.pred.toNat]?).getD false) != g.neg

/-! ## Reading in an operating format (R101, R102, R148) -/

def mismatch (r : RV) : Trap := { cause := .formatMismatch, info0 := r.opnd }

/-- Whether a source tag is accepted by an operating format (R102). DEDUCED: log entry 16. -/
def accepts (op tag : Fmt) : Bool :=
  op == F.raw32 || op == tag ||
  (if op == F.f32 then tag == F.f16 || tag == F.bf16 || isLog tag
   else if op == F.s32 then isInteger tag && tag != F.s32 && tag != F.n32
   else if op == F.n32 then isUnsigned tag && tag != F.n32
   else false)

/-- Bits under raw32: every source is accepted (R102). -/
def RV.raw (r : RV) : Word := r.bits

/-- An integer source in a 32-bit format: element 0, extended (R102, R148). -/
def RV.int32 (r : RV) (op : Fmt) : LaneStep Int :=
  match r.tag with
  | .tag t =>
    if accepts op t then .ok (elemInt t (elemAt (elemBits t) r.bits 0)) else .trap (mismatch r)
  | .untagged | .zeroSp => .ok (elemInt op r.bits.toNat)

/-- An unsigned 32-bit value of any integer tag (R219, R276): the bits, or element 0 of an unsigned format. -/
def RV.nat32 (r : RV) : LaneStep Nat :=
  match r.tag with
  | .tag t =>
    if isInteger t then .ok (wrapTo 32 (elemInt t (elemAt (elemBits t) r.bits 0))) else .trap (mismatch r)
  | .untagged | .zeroSp => .ok r.bits.toNat

/-- The elements of a source under a 16-bit integer format (R148, R149): its tag is that format or none. -/
def RV.int16 (r : RV) (op : Fmt) : LaneStep (List Int) :=
  match r.tag with
  | .tag t =>
    if t == op then .ok [elemInt op (elemAt 16 r.bits 0), elemInt op (elemAt 16 r.bits 1)] else .trap (mismatch r)
  | .untagged | .zeroSp =>
    .ok [elemInt op (elemAt 16 r.bits 0), elemInt op (elemAt 16 r.bits 0)]

/-- The integer an untagged source stands for (R101). -/
def RV.untaggedInt (r : RV) : Int := toSigned 32 r.bits.toNat

/-- The number an untagged source is in a floating format, exact or free (R101, log entry 12). -/
def untaggedVal (f : Fmt) (r : RV) : Exact :=
  let x := Exact.ofInt r.untaggedInt
  let (b, fl) := roundRNE f x
  if fl.nx then ieeeVal f ((Config.inexactIndex r.bits).toNat % 2 ^ ieeeBits f) else ieeeVal f b

/-- A floating source read as f32: element 0 widened exactly (R102). -/
def RV.f32 (r : RV) : LaneStep Exact :=
  match r.tag with
  | .tag t =>
    if t == F.f32 || accepts F.f32 t then .ok (elemVal t (elemAt (elemBits t) r.bits 0)) else .trap (mismatch r)
  | .zeroSp => .ok (.zero false)
  | .untagged => .ok (untaggedVal F.f32 r)

/-- The two elements of a source under `.f16` (R161): its tag is f16 or none. -/
def RV.f16 (r : RV) : LaneStep (List Exact) :=
  match r.tag with
  | .tag t =>
    if t == F.f16 then .ok [ieeeVal F.f16 (elemAt 16 r.bits 0), ieeeVal F.f16 (elemAt 16 r.bits 1)]
    else .trap (mismatch r)
  | .zeroSp => .ok [.zero false, .zero false]
  | .untagged => .ok [untaggedVal F.f16 r, untaggedVal F.f16 r]

/-- The f32 bits of a source accepted by f32: widened exactly; a NaN keeps sign, quietness and payload as R169
states, because moving it computes nothing (R87). -/
def widenF32Bits (t : Fmt) (e : Nat) : Nat :=
  if t == F.f32 then e
  else if isLog t then exactBits F.f32 (lVal t e)
  else
    let frac := (ieeeParam t).prec - 1
    match ieeeVal t e with
    | .nan _ => e / 2 ^ 15 % 2 * 2 ^ 31 + 255 * 2 ^ 23 + (e % 2 ^ frac) * 2 ^ (23 - frac)
    | x => exactBits F.f32 x

/-- Widen(S, FMT): the container of a source read by R102 in a format, as `sup`, `st` and the reductions take it. DEDUCED: log entry 16. -/
def RV.widen (r : RV) (op : Fmt) : LaneStep Word :=
  match r.tag with
  | .tag t =>
    if op == F.raw32 || t == op then .ok r.bits
    else if accepts op t then
      let e := elemAt (elemBits t) r.bits 0
      .ok (BitVec.ofNat 32 (if op == F.f32 then widenF32Bits t e else wrapTo 32 (elemInt t e)))
    else .trap (mismatch r)
  | .untagged | .zeroSp =>
    if op == F.raw32 || op == F.s32 || op == F.n32 then .ok r.bits
    else
      -- the value it has in the format, in every element of the container (R101, R222)
      let e : Nat :=
        if isInteger op then r.bits.toNat % 2 ^ elemBits op
        else if isLog op then (toLog op (.ofInt r.untaggedInt)).1
        else exactBits op (match r.tag with
          | .zeroSp => .zero false
          | _ => untaggedVal op r)
      .ok ((List.range (elemCount op)).foldl (fun acc i => setElem (elemBits op) acc i e) 0)

end Sys2Proof.Machine
end

