-- ==== Sys2Proof/Machine/Lane.lean ====
section
/-! DEFINITION. What an instruction does in the lanes of one arm (R144 to R146): the result of a lane, writing
registers and the bypass, freeing by last use, and the commit of an arm's results to its warp. -/

namespace Sys2Proof.Machine

/-- One lane's result: values for destinations, the sources it frees by L=1, and the flags it raises. -/
structure LaneOut where
  writes : List (Dst × TV) := []
  /-- Lane registers a long-latency producer marks empty (R122). -/
  empties : List Nat := []
  frees : List Src := []
  flags : Flags := {}
  /-- Clause header that the thread leaves for, and its new call stack (R177, R179). -/
  leave : Option Nat := none
  calls : Option (List Nat) := none
  deriving DecidableEq, Repr

/-- A lane traps, parks on its own, or has a result. -/
inductive LaneEnd where
  | trap (t : Trap)
  | park (w : Wait)
  | out (o : LaneOut)
  deriving DecidableEq, Repr

/-- The results of an arm: each executing lane's end, and upward writes (R128). -/
structure ArmOut where
  lanes : List (Nat × LaneEnd)
  scope : List ViewEnt := []
  flags : Flags := {}
  deriving DecidableEq, Repr

/-- What an arm does with an instruction: its packet stalls, it parks, or it is done. -/
inductive ArmRes where
  | stall
  | park (w : Wait)
  | done (o : ArmOut)
  deriving DecidableEq, Repr

/-! ## Threads -/

/-- A list with element i replaced, where it has one. -/
def setAt {α : Type} (l : List α) (i : Nat) (a : α) : List α := l.set i a

def Thread.putReg (t : Thread) (i : Nat) (v : TV) : Thread := { t with regs := t.regs.set i ⟨.full, v⟩ }

/-- The bypass entries for the registers that meet a test hold no result any more (log entry 17). -/
def Thread.dropByp (t : Thread) (q : Nat → Bool) : Thread :=
  { t with byp := t.byp.map fun e => match e.dst with
      | .v j => if q j.toNat then { e with v := none } else e
      | _ => e }

/-- A freed register holds zero with tag raw32 (R123); a bypass entry for it is gone too (log entry 17). -/
def Thread.freeReg (t : Thread) (i : Nat) : Thread :=
  { t.dropByp (· == i) with
    regs := match t.regs[i]? with
      | some _ => t.regs.set i ⟨.freed, .zero⟩
      | none => t.regs }

/-- A fill lands: the register is full, with value and tag together (R122, R99). -/
def Thread.land (t : Thread) (i : Nat) (v : TV) : Thread :=
  match t.regs[i]? with
  | some r => if r.st == .empty then { t with regs := t.regs.set i ⟨.full, v⟩ } else t
  | none => t

/-- A register that waits for a fill holds again what it held before: nothing will be written. -/
def Thread.unempty (t : Thread) (i : Nat) : Thread := (t.regs[i]?).elim t fun r => t.land i r.v

/-- Issue of a long-latency producer (R122): the register is empty until the fill lands. -/
def Thread.emptyReg (t : Thread) (i : Nat) : Thread :=
  { t.dropByp (· == i) with
    regs := match t.regs[i]? with
      | some r => t.regs.set i ⟨.empty, r.v⟩
      | none => t.regs }

def Thread.putPred (t : Thread) (i : Nat) (b : Bool) : Thread := { t with preds := t.preds.set i b }

/-- One bypass entry pushed; three are kept (R124). DEDUCED: log entry 17. -/
def Thread.push (t : Thread) (d : Spec) (v : Option TV) : Thread := { t with byp := (⟨d, v⟩ :: t.byp).take 3 }

/-- A write to one destination of the thread: class 0 (transient or not) or a predicate. -/
def Thread.write (t : Thread) (d : Dst) (v : TV) : Thread :=
  match d.spec with
  | .v i => (if d.byp then t else t.putReg i.toNat v).push d.spec (some v)
  | .p i => (t.putPred i.toNat (v.val != 0)).push d.spec none
  | s => t.push s none

/-- The lane registers that a result frees in the thread. -/
def Thread.frees (t : Thread) (l : List Src) : Thread :=
  l.foldl (fun t s => match s.spec with
    | .v i => if s.last then t.freeReg i.toNat else t
    | _ => t) t

/-- A thread at a clause header, its bypass emptied (R124). -/
def Thread.enterClause (t : Thread) (hdr : Nat) : Thread :=
  { t with st := .ready, pc := hdr, idx := 0, mid := false, byp := [], stale := [] }

/-- The whole effect of a lane's result on its thread: frees, then writes (R123), then the clause it leaves for.
A destination it gives no result for leaves an entry without one (R124). -/
def Thread.apply (t : Thread) (dsts : List Spec) (o : LaneOut) : Thread :=
  let t := t.frees o.frees
  let t := if o.writes.isEmpty then dsts.foldl (fun t d => t.push d none) t
           else o.writes.foldl (fun t w => t.write w.1 w.2) t
  let t := o.empties.foldl (fun t i => t.emptyReg i) t
  let t := { t with calls := o.calls.getD t.calls }
  match o.leave with
  | some h => t.enterClause h
  | none => t

/-! ## Destinations -/

/-- The lane register that a long-latency producer marks empty. -/
def emptied (d : Spec) : List Nat :=
  match d with
  | .v i => [i.toNat]
  | _ => []

/-- R133: an arm below a record takes a view slot at its first upward write; it waits while 8 are held. -/
def Warp.slotFree (w : Warp) (arm : Nat) : Bool :=
  match w.armOf arm with
  | none => true
  | some a => a.inRec.isNone || a.slot || (w.arms.filter (·.slot)).length < 8

/-- Whether a lane may write a destination now: an index it holds, no fill in flight, no full baton, a view slot (R72,
R122, R125, R133). A transient result leaves the register file alone and waits for nothing. -/
def wrOk (c : RCtx) (d : Dst) (srcs : List Src := []) : LaneStep Unit :=
  match d.spec with
  | .v i =>
    match c.thread with
    | none => .ok ()
    | some t =>
      match t.regs[i.toNat]? with
      | none => .trap (opTrap .regUndeclared 0 d.spec)
      | some r => if r.st == .empty && !d.byp then t.awaitFill i.toNat else .ok ()
  | .z i =>
    match (c.warp.z[i.toNat]?).getD none with
    | some _ =>
      -- a last-use read by the same instruction empties the baton first (R123)
      if srcs.any (fun s => s.last && s.spec == d.spec) then .ok () else .park (.batonEmpty i.toNat)
    | none => .ok ()
  | .w _ | .x _ => if c.warp.slotFree c.arm then .ok () else .park .view
  | _ => .ok ()

/-- A lane's result that writes one destination. -/
def outD (c : RCtx) (d : Dst) (v : TV) (srcs : List Src) (fl : Flags := {}) : LaneStep LaneOut :=
  (wrOk c d srcs).bind fun _ => .ok { writes := [(d, v)], frees := srcs, flags := fl }

/-! ## Arms -/

/-- The value a result writes to a baton. -/
def batonWrite (o : LaneOut) : Option (Nat × TV) :=
  o.writes.findSome? fun w => match w.1.spec with
    | .z i => some (i.toNat, w.2)
    | _ => none

/-- The batons written by the lanes that have a result. DEDUCED: log entry 40. -/
def batonWrites (ls : List (Nat × LaneEnd)) : List (Nat × TV) :=
  ls.filterMap fun l => match l.2 with
    | .out o => batonWrite o
    | _ => none

def allEqual {α : Type} [DecidableEq α] : List α → Bool
  | [] => true
  | a :: l => l.all fun b => decide (b = a)

/-- Baton writes of the active lanes are compared; when they differ, every active lane traps (R125). -/
def settleBaton (ls : List (Nat × LaneEnd)) : List (Nat × LaneEnd) :=
  let ws := batonWrites ls
  if allEqual ws then ls
  else
    let sp : Spec := match ws with
      | (i, _) :: _ => .z (BitVec.ofNat 3 i)
      | [] => .zero
    ls.map fun l => match l.2 with
      | .out _ => (l.1, .trap (opTrap .scopeDisagree 0 sp))
      | e => (l.1, e)

/-- Sorting the lanes' steps: any stall stalls the packet, a wait parks the arm, otherwise each lane ends. -/
def laneEnds : List (Nat × LaneStep LaneOut) → ArmRes
  | [] => .done { lanes := [] }
  | (l, r) :: rest =>
    match r, laneEnds rest with
    | .stall, _ => .stall
    | _, .stall => .stall
    | .park w, _ => .park w
    | _, .park w => .park w
    | .trap t, .done o => .done { o with lanes := (l, .trap t) :: o.lanes }
    | .ok x, .done o => .done { o with lanes := (l, .out x) :: o.lanes }

/-- An arm's results with the baton writes of its lanes compared (R125); lanes that trap raise no flag (R146). -/
def ArmRes.settle : ArmRes → ArmRes
  | .done o => if allEqual (batonWrites o.lanes) then .done o else .done { o with lanes := settleBaton o.lanes, flags := {} }
  | r => r

/-- An instruction that acts in each executing lane on its own (R144). -/
def laneWise (f : RCtx → LaneStep LaneOut) (cs : List RCtx) : ArmRes := (laneEnds (cs.map fun c => (c.lane, f c))).settle

/-! ## The warp -/

/-- Registers of classes 3 to 5 that the lanes' last uses free. -/
def wideFrees (ls : List (Nat × LaneEnd)) : List Spec :=
  ls.flatMap fun l => match l.2 with
    | .out o => o.frees.filterMap fun s => match s.spec with
        | .b _ | .c _ | .g _ => if s.last then some s.spec else none
        | _ => none
    | _ => []

/-- Freeing a w or x register by L=1 (R123): the value the reader read, in its view or committed. -/
def Warp.freeScope (w : Warp) (arm lane : Nat) (s : Spec) : Warp :=
  let sub := match s with
    | .x _ => subgroup lane
    | _ => 0
  match (w.chain 18 arm).find? fun a => (viewGet a.view s sub).isSome with
  | some a => { w with arms := w.arms.map fun b => if b.tag == a.tag then { b with view := viewPut b.view s sub .zero } else b }
  | none =>
    match s with
    | .w i => { w with w := w.w.set i.toNat .zero }
    | .x i => { w with x := w.x.set sub (((w.x[sub]?).getD []).set i.toNat .zero) }
    | _ => w

/-- Frees of a lane's sources outside its thread, within the warp: batons, w and x registers. -/
def Warp.frees (w : Warp) (arm lane : Nat) (l : List Src) : Warp :=
  l.foldl (fun w s =>
    if s.last then
      match s.spec with
      | .z i => { w with z := w.z.set i.toNat none }
      | .w _ | .x _ => w.freeScope arm lane s.spec
      | _ => w
    else w) w

/-- Writing a w or x register into the view of an arm, or committed at once by the root (R128). -/
def Warp.putScope (w : Warp) (arm : Nat) (e : ViewEnt) : Warp :=
  match w.armOf arm with
  | none => w
  | some a =>
    if a.inRec.isNone then
      match e.reg with
      | .w i => { w with w := w.w.set i.toNat e.v }
      | .x i => { w with x := w.x.set e.sub (((w.x[e.sub]?).getD []).set i.toNat e.v) }
      | _ => { w with view := viewPut w.view e.reg 0 e.v }
    else
      match e.reg with
      | .w _ | .x _ =>
        { w with arms := w.arms.map fun b =>
            if b.tag == arm then { b with view := viewPut b.view e.reg e.sub e.v, slot := true } else b }
      | _ => { w with view := viewPut w.view e.reg 0 e.v }

/-- Filling a baton, which is a release (R233). -/
def Warp.putBaton (w : Warp) (i : Nat) (v : TV) (f : Frontier) : Warp :=
  { w with z := w.z.set i (some v), zfront := w.zfront.set i f }

/-- The batons whose value the lanes of an arm took. -/
def batonReads (ls : List (Nat × LaneEnd)) : List Nat :=
  (ls.flatMap fun l => match l.2 with
    | .out o => o.frees.filterMap fun s => match s.spec with
        | .z i => some i.toNat
        | _ => none
    | _ => []).eraseDups

/-- The batons among operands. -/
def batonsOf (l : List Spec) : List Nat :=
  (l.filterMap fun s => match s with
    | .z i => some i.toNat
    | _ => none).eraseDups

/-- Reading batons is an acquire of what their writers released (R233). -/
def Warp.takeBatons (w : Warp) (arm : Nat) (l : List Nat) : Warp :=
  if l.isEmpty then w else w.acquire arm (l.foldl (fun f i => frontJoin f ((w.zfront[i]?).getD [])) [])

/-- Writing batons: each takes what the arm releases. -/
def Warp.fillBatons (w : Warp) (arm : Nat) (p : Party) (l : List (Nat × TV)) : Warp :=
  if l.isEmpty then w
  else
    let f := ((w.armOf arm).map (·.release p)).getD []
    (l.foldl (fun w b => w.putBaton b.1 b.2 f) w).tick arm

/-- The scalar results: w registers that lane results write. -/
def scalarWrites (ls : List (Nat × LaneEnd)) : List ViewEnt :=
  ls.flatMap fun l => match l.2 with
    | .out o => o.writes.filterMap fun w => match w.1.spec with
        | .w i => some ⟨.w i, 0, w.2⟩
        | _ => none
    | _ => []

/-- The flags the lanes of an arm raise. -/
def armFlags (o : ArmOut) : Flags :=
  o.lanes.foldl (fun f l => match l.2 with
    | .out x => f.join x.flags
    | _ => f) o.flags

/-- The threads of the arm after its results: executing lanes apply theirs, the packet's other lanes push entries
that hold no result (R124). -/
def applyThreads (ts : List Thread) (lanes : List Nat) (dsts : List Spec) (ls : List (Nat × LaneEnd)) : List Thread :=
  ts.mapIdx fun i t =>
    match ls.lookup i with
    | some (.out o) => t.apply dsts o
    | some _ => t
    | none => if lanes.contains i then dsts.foldl (fun t d => t.push d none) t else t

/-- The warp after an arm's results; `scl` when they are those of a scalar clause. The batons among `early` have been
acquired before the instruction acted. -/
def Warp.commit (w : Warp) (arm : Nat) (p : Party) (lanes : List Nat) (scl : Bool) (dsts early : List Spec) (o : ArmOut) :
    Warp :=
  let w0 := w.takeBatons arm ((batonReads o.lanes).filter fun i => !(batonsOf early).contains i)
  let w1 := if scl then w0 else { w0 with threads := applyThreads w0.threads lanes dsts o.lanes }
  let w2 := o.lanes.foldl (fun w l => match l.2 with
    | .out x => w.frees arm l.1 x.frees
    | _ => w) w1
  let w3 := w2.fillBatons arm p (batonWrites o.lanes)
  let w4 := ((if scl then scalarWrites o.lanes else []) ++ o.scope).foldl (fun w e => w.putScope arm e) w3
  { w4 with fstat := raiseFstat w4.fstat (armFlags o) }

/-- The lanes of an arm's results that trap. -/
def trapsOf (o : ArmOut) : List (Nat × Trap) :=
  o.lanes.filterMap fun l => match l.2 with
    | .trap t => some (l.1, t)
    | _ => none

/-- The lanes that park on their own. -/
def parksOf (o : ArmOut) : List (Nat × Wait) :=
  o.lanes.filterMap fun l => match l.2 with
    | .park w => some (l.1, w)
    | _ => none

end Sys2Proof.Machine
end

