-- ==== Sys2Proof/Machine/IntLane.lean ====
section
/-! DEFINITION. What one lane computes in the integer, logic, compare, select, move, dot-product and predicate
instructions (R149 to R160), and in the compact integer ops of a pair (R65). -/

namespace Sys2Proof.Machine

/-- The format code of an operating format of R149. -/
def ifmtCode : IFmt → Fmt
  | .s32 => F.s32
  | .n32 => F.n32
  | .s16 => F.s16
  | .n16 => F.n16

/-- The elements of a source in an operating format of R149. -/
def RV.ints (r : RV) (f : IFmt) : LaneStep (List Int) :=
  match f with
  | .s32 => (r.int32 F.s32).map fun i => [i]
  | .n32 => (r.int32 F.n32).map fun i => [i]
  | .s16 => r.int16 F.s16
  | .n16 => r.int16 F.n16

/-- One exact element brought into the format: clamped with SAT, or wrapped (R149). -/
def narrow (f : Fmt) (sat : Bool) (t : Int) : Nat × Bool :=
  if sat then
    let (c, s) := clampTo f t
    (wrapTo (elemBits f) c, s)
  else (wrapTo (elemBits f) t, false)

/-- A container of elements `w` bits wide, element 0 first. -/
def packElems (w : Nat) (es : List Nat) : Word :=
  (es.zipIdx).foldl (fun acc e => setElem w acc e.2 e.1) 0

/-- IntArith (R149) on the exact results of its elements. -/
def intResult (f : IFmt) (sat : Bool) (ts : List Int) : TV × Flags :=
  let rs := ts.map (narrow (ifmtCode f) sat)
  (⟨packElems (elemBits (ifmtCode f)) (rs.map (·.1)), ifmtCode f⟩, { sat := rs.any (·.2) })

/-- ReadInt (R149): a source read and brought into the format, before the next source is read. -/
def rdInts (c : RCtx) (field : Nat) (s : Src) (f : IFmt) : LaneStep (List Int) := (rd c field s).bind (·.ints f)

/-- The same of a second source that may be an immediate. -/
def rdIInts (c : RCtx) (b : SrcI) (f : IFmt) : LaneStep (List Int) := (rdI c b).bind (·.ints f)

/-- Operations of two sources, each on exact elements (R149). -/
def intOp2 (c : RCtx) (f : IFmt) (sat : Bool) (op : Int → Int → Int) (d : Dst) (a : Src) (b : SrcI) :
    LaneStep LaneOut :=
  (rdInts c 1 a f).bind fun x => (rdIInts c b f).bind fun y =>
  let (v, fl) := intResult f sat (List.zipWith op x y)
  outD c d v (a :: (match b with
    | .src s => [s]
    | .imm _ => [])) fl

def laneIadd (f : IFmt) (sat : Bool) (d : Dst) (a : Src) (b : SrcI) (c : RCtx) : LaneStep LaneOut :=
  intOp2 c f sat (· + ·) d a b
def laneIsub (f : IFmt) (sat : Bool) (d : Dst) (a : Src) (b : SrcI) (c : RCtx) : LaneStep LaneOut :=
  intOp2 c f sat (· - ·) d a b
def laneImul (f : IFmt) (sat : Bool) (d : Dst) (a : Src) (b : SrcI) (c : RCtx) : LaneStep LaneOut :=
  intOp2 c f sat (· * ·) d a b
def laneImin (f : IFmt) (d : Dst) (a : Src) (b : SrcI) (c : RCtx) : LaneStep LaneOut :=
  intOp2 c f false min d a b
def laneImax (f : IFmt) (d : Dst) (a : Src) (b : SrcI) (c : RCtx) : LaneStep LaneOut :=
  intOp2 c f false max d a b
/-- The high half of the full product (R149). -/
def laneImulhi (f : IFmt) (d : Dst) (a b : Src) (c : RCtx) : LaneStep LaneOut :=
  intOp2 c f false (fun x y => (x * y) / (2 ^ elemBits (ifmtCode f) : Int)) d a (.src b)
def laneImad (f : IFmt) (sat : Bool) (d : Dst) (a b e : Src) (c : RCtx) : LaneStep LaneOut :=
  (rdInts c 1 a f).bind fun x => (rdInts c 2 b f).bind fun y => (rdInts c 3 e f).bind fun z =>
  let (v, fl) := intResult f sat (List.zipWith (· + ·) (List.zipWith (· * ·) x y) z)
  outD c d v [a, b, e] fl
/-- Operations of one source (R149). -/
def intOp1 (c : RCtx) (f : IFmt) (sat : Bool) (op : Int → Int) (d : Dst) (a : Src) : LaneStep LaneOut :=
  (rdInts c 1 a f).bind fun x =>
  let (v, fl) := intResult f sat (x.map op)
  outD c d v [a] fl
def laneIabs (f : IFmt) (sat : Bool) (d : Dst) (a : Src) (c : RCtx) : LaneStep LaneOut :=
  intOp1 c f sat (fun x => (x.natAbs : Int)) d a
def laneIneg (f : IFmt) (sat : Bool) (d : Dst) (a : Src) (c : RCtx) : LaneStep LaneOut :=
  intOp1 c f sat (fun x => -x) d a

/-! ## Logic, shifts and bit fields (R150 to R152) -/

/-- The tag of a logic result: that of S1, or raw32 (R150). -/
def logicTag (r : RV) : Fmt :=
  match r.tag with
  | .tag f => f
  | .untagged | .zeroSp => F.raw32

def srcsI (a : Src) (b : SrcI) : List Src :=
  a :: match b with
    | .src s => [s]
    | .imm _ => []

def logicOp (c : RCtx) (op : Word → Word → Word) (d : Dst) (a : Src) (b : SrcI) : LaneStep LaneOut :=
  (rd c 1 a).bind fun ra => (rdI c b).bind fun rb =>
  outD c d ⟨op ra.bits rb.bits, logicTag ra⟩ (srcsI a b)

def shlW (x y : Word) : Word := if y.toNat < 32 then x <<< y.toNat else 0
def shrW (x y : Word) : Word := if y.toNat < 32 then x >>> y.toNat else 0
def sarW (x y : Word) : Word := if y.toNat < 32 then x.sshiftRight y.toNat else x.sshiftRight 31
def rotW (x y : Word) : Word := x.rotateLeft (y.toNat % 32)
def andnW (x y : Word) : Word := x &&& ~~~ y

/-- Set bits, leading zeros and the bit reversal of a word (R151). -/
def popcW (x : Word) : Nat := (List.range 32).countP fun i => x.getLsbD i
def clzW (x : Word) : Nat := if x = 0 then 32 else 31 - x.toNat.log2
def brevW (x : Word) : Word :=
  BitVec.ofNat 32 ((List.range 32).foldl (fun acc i => 2 * acc + (x.getLsbD i).toNat) 0)

def lanePopc (d : Dst) (a : Src) (c : RCtx) : LaneStep LaneOut :=
  (rd c 1 a).bind fun r => outD c d ⟨BitVec.ofNat 32 (popcW r.bits), F.n32⟩ [a]
def laneClz (d : Dst) (a : Src) (c : RCtx) : LaneStep LaneOut :=
  (rd c 1 a).bind fun r => outD c d ⟨BitVec.ofNat 32 (clzW r.bits), F.n32⟩ [a]
def laneBrev (d : Dst) (a : Src) (c : RCtx) : LaneStep LaneOut :=
  (rd c 1 a).bind fun r => outD c d ⟨brevW r.bits, logicTag r⟩ [a]

/-- Position and length of a bit field (R152). -/
def fieldPN (s2 s3 : Word) : Nat × Nat :=
  let p := s2.toNat % 32
  (p, min (s3.toNat % 64) (32 - p))

/-- bfx: the field, zero- or sign-extended (R152). -/
def bfxW (sg : Bool) (x : Word) (p n : Nat) : Word :=
  let f := (x.toNat >>> p) % 2 ^ n
  if n = 0 then 0 else if sg then BitVec.ofNat 32 (wrapTo 32 (toSigned n f)) else BitVec.ofNat 32 f

/-- bfi: old with bits [p+n−1 : p] replaced (R152). -/
def bfiW (old x : Word) (p n : Nat) : Word :=
  let m := (2 ^ n - 1) <<< p
  BitVec.ofNat 32 ((old.toNat &&& (2 ^ 32 - 1 - m)) ||| ((x.toNat % 2 ^ n) <<< p))

def laneBfx (sg : Bool) (d : Dst) (a b e : Src) (c : RCtx) : LaneStep LaneOut :=
  (rd c 1 a).bind fun ra => (rd c 2 b).bind fun rb => (rd c 3 e).bind fun re =>
  let (p, n) := fieldPN rb.bits re.bits
  outD c d ⟨bfxW sg ra.bits p n, if sg then F.s32 else F.n32⟩ [a, b, e]

/-- Reading a destination as a further source before S1 (R145): waits on empty as T = 0 does. -/
def rdDst (c : RCtx) (d : Dst) : LaneStep RV := rd c 0 ⟨d.spec, false, false⟩

def laneBfi (d : Dst) (a b e : Src) (c : RCtx) : LaneStep LaneOut :=
  (rdDst c d).bind fun old =>
  (rd c 1 a).bind fun ra => (rd c 2 b).bind fun rb => (rd c 3 e).bind fun re =>
  let (p, n) := fieldPN rb.bits re.bits
  outD c d ⟨bfiW old.bits ra.bits p n, old.outTag⟩ [a, b, e]

/-! ## Compare, select, move (R153 to R157) -/

def icmpOf (cc : ICmp) (x y : Int) : Bool :=
  match cc with
  | .eq => decide (x = y)
  | .ne => decide (x ≠ y)
  | .lt => decide (x < y)
  | .le => decide (x ≤ y)
  | .gt => decide (y < x)
  | .ge => decide (y ≤ x)

/-- 1 or 0 tagged n32. -/
def boolTV (b : Bool) : TV := ⟨if b then 1 else 0, F.n32⟩

def laneIcmp (cc : ICmp) (uns : Bool) (d : Dst) (a : Src) (b : SrcI) (c : RCtx) : LaneStep LaneOut :=
  let f := if uns then F.n32 else F.s32
  (rd c 1 a).bind fun ra => (ra.int32 f).bind fun x => (rdI c b).bind fun rb => (rb.int32 f).bind fun y =>
  outD c d (boolTV (icmpOf cc x y)) (srcsI a b)

/-- S3 is read first, then only the chosen source (R154). DEDUCED: log entry 22. -/
def laneSel (d : Dst) (a b e : Src) (c : RCtx) : LaneStep LaneOut :=
  (rd c 3 e).bind fun re =>
  if re.bits != 0 then (rd c 1 a).bind fun r => outD c d r.tv [e, a]
  else (rd c 2 b).bind fun r => outD c d r.tv [e, b]

def laneMov (d : Dst) (a : Src) (c : RCtx) : LaneStep LaneOut :=
  (rd c 1 a).bind fun r => outD c d r.tv [a]

def laneMovk (f : Fmt) (d : Dst) (k : Word) (c : RCtx) : LaneStep LaneOut := outD c d ⟨k, f⟩ []

/-- The register above a register, of the same class (R26). -/
def specSucc : Spec → Spec
  | .v i => .v (i + 1)
  | .x i => .x (i + 1)
  | .w i => .w (i + 1)
  | .b i => .b (i + 1)
  | .c i => .c (i + 1)
  | .g i => .g (i + 1)
  | s => s

def srcSucc (s : Src) : Src := { s with spec := specSucc s.spec }
def dstSucc (d : Dst) : Dst := { d with spec := specSucc d.spec }

/-- An address computed in 32 or in 64 bits (R157). DEDUCED: log entry 18. -/
def laneLea (sh : BitVec 3) (x64 : Bool) (d : Dst) (a : Src) (b : SrcI) (c : RCtx) : LaneStep LaneOut :=
  if x64 then
    (rd c 1 a).bind fun lo => (rd c 1 (srcSucc a)).bind fun hi => (rdI c b).bind fun rb =>
    let t : Dword := (hi.bits ++ lo.bits : BitVec 64) + ((rb.bits.signExtend 64) <<< sh.toNat)
    (wrOk c d).bind fun _ => (wrOk c (dstSucc d)).bind fun _ =>
    .ok { writes := [(d, ⟨t.extractLsb' 0 32, F.n32⟩), ((dstSucc d), ⟨t.extractLsb' 32 32, F.n32⟩)],
          frees := a :: (srcSucc a) :: srcsI ⟨.zero, false, false⟩ b }
  else
    (rd c 1 a).bind fun ra => (rdI c b).bind fun rb =>
    outD c d ⟨ra.bits + (rb.bits <<< sh.toNat), F.n32⟩ (srcsI a b)

/-! ## Dot products (R158) -/

/-- The packed elements of a source whose tag equals the format, or of an untagged container. -/
def RV.packed (r : RV) (f : Fmt) : LaneStep (List Int) :=
  let es := (List.range (elemCount f)).map fun i => elemInt f (elemAt (elemBits f) r.bits i)
  match r.tag with
  | .tag t => if t == f then .ok es else .trap (mismatch r)
  | .untagged | .zeroSp => .ok es

def laneDot (fa fb : Fmt) (sat : Bool) (d : Dst) (a b e : Src) (c : RCtx) : LaneStep LaneOut :=
  let fr := if isUnsigned fa && isUnsigned fb then F.n32 else F.s32
  (rd c 1 a).bind fun ra => (ra.packed fa).bind fun x => (rd c 2 b).bind fun rb => (rb.packed fb).bind fun y =>
  (rd c 3 e).bind fun re => (re.int32 fr).bind fun z =>
  let t := z + (List.zipWith (· * ·) x y).foldl (· + ·) 0
  let (v, s) := narrow fr sat t
  outD c d ⟨BitVec.ofNat 32 v, fr⟩ [a, b, e] { sat := s }

def laneDp4 (ua ub sat : Bool) (d : Dst) (a b e : Src) (c : RCtx) : LaneStep LaneOut :=
  laneDot (if ua then F.n8 else F.s8) (if ub then F.n8 else F.s8) sat d a b e c
def laneDp8 (ua ub sat : Bool) (d : Dst) (a b e : Src) (c : RCtx) : LaneStep LaneOut :=
  laneDot (if ua then F.n4 else F.s4) (if ub then F.n4 else F.s4) sat d a b e c

/-! ## Predicates (R159, R160) -/

def plopOf (op : PlopOp) (a b : Bool) : Bool :=
  match op with
  | .and => a && b
  | .or => a || b
  | .xor => a != b
  | .andn => a && !b
  | .nand => !(a && b)
  | .nor => !(a || b)
  | .xnor => a == b
  | .orn => a || !b

def lanePlop (op : PlopOp) (d a b : BitVec 3) (c : RCtx) : LaneStep LaneOut :=
  (rd c 1 ⟨.p a, false, false⟩).bind fun ra => (rd c 2 ⟨.p b, false, false⟩).bind fun rb =>
  outD c ⟨.p d, false⟩ (boolTV (plopOf op (ra.bits != 0) (rb.bits != 0))) []

def lanePmov (k : PmovKind) (d : Dst) (a : Src) (c : RCtx) : LaneStep LaneOut :=
  (rd c 1 a).bind fun r =>
  match k with
  | .r2p | .p2r => outD c d (boolTV (r.bits != 0)) [a]
  | .m2p => outD c d (boolTV (r.bits.getLsbD (c.lane % 32))) [a]

end Sys2Proof.Machine
end

