-- ==== Sys2Proof/Machine/Real.lean ====
section
/-! DEFINITION. The functions of R162: reciprocals and roots by integer arithmetic, and 2^x, log2, sin πx,
cos πx and tanh by fixed-point series of `P` fraction bits. An irrational result is handed to the rounding
with a sticky last bit, so it is rounded once from a value far finer than any format (log entry 24). -/

namespace Sys2Proof.Machine.Real

open Sys2Proof.Machine

/-- Fraction bits of the fixed-point series. -/
abbrev P : Nat := 560

abbrev one : Nat := 2 ^ 560

/-- Integer square root, bit by bit from bit `k`. -/
def isqrtGo (n : Nat) : Nat → Nat → Nat
  | 0, r => if (r + 1) * (r + 1) ≤ n then r + 1 else r
  | k + 1, r => isqrtGo n k (if (r + 2 ^ (k + 1)) * (r + 2 ^ (k + 1)) ≤ n then r + 2 ^ (k + 1) else r)

/-- floor(√n). -/
def isqrt (n : Nat) : Nat := isqrtGo n (n.log2 / 2 + 1) 0

/-- √x for x > 0: exact, or with a sticky last bit. -/
def sqrtFin (num : Nat) (exp : Int) : Exact :=
  -- an even exponent, then 2·K more fraction bits
  let num1 := if exp % 2 = 0 then num else 2 * num
  let exp1 := if exp % 2 = 0 then exp else exp - 1
  let n := num1 * 2 ^ 200
  let r := isqrt n
  .fin false (2 * r + (if r * r = n then 0 else 1)) 1 (exp1 / 2 - 101)

/-- 1/√x for x > 0. -/
def rsqrtFin (num : Nat) (exp : Int) : Exact :=
  let num1 := if exp % 2 = 0 then num else 2 * num
  let exp1 := if exp % 2 = 0 then exp else exp - 1
  let r := isqrt (2 ^ 400 / num1)
  .fin false (2 * r + (if r * r * num1 = 2 ^ 400 then 0 else 1)) 1 (-(exp1 / 2) - 201)

/-- Σ t/k for t, t·x, t·x², …: the exponential series, fixed point. -/
def expSeries (x : Nat) : Nat → Nat → Nat → Nat → Nat
  | 0, _, _, acc => acc
  | fuel + 1, k, t, acc => expSeries x fuel (k + 1) (t * x / one / k) (acc + t)

/-- e^x for 0 ≤ x < 1, fixed point. -/
def expFix (x : Nat) : Nat := expSeries x 130 1 one 0

/-- Σ z^(2j+1)/(2j+1). -/
def atanhSeries (z2 : Nat) : Nat → Nat → Nat → Nat → Nat
  | 0, _, _, acc => acc
  | fuel + 1, k, t, acc => atanhSeries z2 fuel (k + 2) (t * z2 / one) (acc + t / k)

/-- ln m for 1 ≤ m ≤ 2, fixed point: 2·atanh((m−1)/(m+1)). -/
def lnFix (m : Nat) : Nat :=
  let z := (m - one) * one / (m + one)
  2 * atanhSeries (z * z / one) 180 1 z 0

def ln2 : Nat := lnFix (2 * one)

/-- arctan(1/n) = Σ (−1)^j / ((2j+1) n^(2j+1)), fixed point. -/
def atanInv (n : Nat) : Nat → Nat → Nat → Int → Bool → Int
  | 0, _, _, acc, _ => acc
  | fuel + 1, k, t, acc, neg =>
    atanInv n fuel (k + 2) (t / (n * n)) (if neg then acc - (t / k : Nat) else acc + (t / k : Nat)) (!neg)

/-- π = 16·arctan(1/5) − 4·arctan(1/239), fixed point. -/
def pi : Nat :=
  (16 * atanInv 5 130 1 (one / 5) 0 false - 4 * atanInv 239 40 1 (one / 239) 0 false).toNat

/-- x − x³/3! + …, or 1 − x²/2! + …: the terms t, t·x²/(k(k+1)), …, fixed point. -/
def altSeries (x2 : Nat) : Nat → Nat → Nat → Int → Bool → Int
  | 0, _, _, acc, _ => acc
  | fuel + 1, k, t, acc, neg =>
    altSeries x2 fuel (k + 2) (t * x2 / one / (k * (k + 1))) (if neg then acc - (t : Int) else acc + (t : Int)) (!neg)

/-- sin(π·t) for 0 < t ≤ 1/2, t in fixed point. -/
def sinPi (t : Nat) : Nat :=
  let y := t * pi / one
  (altSeries (y * y / one) 80 2 y 0 false).toNat

/-- cos(π·t) for 0 ≤ t < 1/2. -/
def cosPi (t : Nat) : Nat :=
  let y := t * pi / one
  (altSeries (y * y / one) 80 1 one 0 false).toNat

/-- An irrational magnitude given in fixed point: its leading bits with a sticky last bit. -/
def sticky (neg : Bool) (v : Nat) (exp : Int) : Exact :=
  .fin neg (2 * (v / 2 ^ 16) + 1) 1 (exp + 16 - 1 - (P : Int))

/-- |x| of a dyadic num·2^exp in fixed point (no bits are lost above 2^−P). DEDUCED: log entry 24. -/
def toFix (num : Nat) (exp : Int) : Nat :=
  let s := exp + (P : Int)
  if 0 ≤ s then num * 2 ^ s.toNat else num / 2 ^ (-s).toNat

/-- 2^x (R162). -/
def ex2 (neg : Bool) (num : Nat) (exp : Int) : Exact :=
  if num = 0 then .ofInt 1
  else if 1100 * one ≤ toFix num exp ∧ 0 ≤ exp + num.log2 then
    -- far beyond every format's range, and never exact there within it
    if neg then .fin false 1 1 (-2000) else .fin false 1 1 2000
  else
    let x : Int := if neg then -(toFix num exp : Int) else (toFix num exp : Int)
    let n := x / (one : Int)
    let f := (x % (one : Int)).toNat
    if f = 0 then .fin false 1 1 n
    else sticky false (expFix (f * ln2 / one)) n

/-- log2 x for x > 0 (R162). -/
def lg2 (num : Nat) (exp : Int) : Exact :=
  let k := num.log2
  let e : Int := exp + (k : Int)
  if num = 2 ^ k then .ofInt e
  else
    let m := num * one / 2 ^ k
    let l := lnFix m * one / ln2
    let t : Int := e * (one : Int) + (l : Int)
    sticky (decide (t < 0)) t.natAbs 0

/-- x mod 2 of a dyadic, in fixed point. -/
def mod2 (num : Nat) (exp : Int) : Nat := toFix (if 1 ≤ exp then 0 else num) exp % (2 * one)

/-- sin(π·x) for a finite x (R162). -/
def sin (neg : Bool) (num : Nat) (exp : Int) : Exact :=
  let r := mod2 num exp
  let s := if one ≤ r then !neg else neg
  let r1 := r % one
  if r1 = 0 then .zero neg
  else
    let r2 := if one < 2 * r1 then one - r1 else r1
    if 2 * r2 = one then .fin s 1 1 0 else sticky s (sinPi r2) 0

/-- cos(π·x) for a finite x (R162). -/
def cos (num : Nat) (exp : Int) : Exact :=
  let r := mod2 num exp
  let r1 := if one < r then 2 * one - r else r        -- cos is even about 1
  if r1 = 0 then .ofInt 1
  else if r1 = one then .ofInt (-1)
  else if 2 * r1 = one then .zero false
  else if 2 * r1 < one then sticky false (cosPi r1) 0
  else sticky true (cosPi (one - r1)) 0

/-- tanh x for a finite x ≠ 0: (E − 1)/(E + 1), E = e^(2x) (R162). -/
def tanh (neg : Bool) (num : Nat) (exp : Int) : Exact :=
  let x2 := 2 * toFix num exp
  if 256 * one ≤ x2 then sticky neg (one - 1) 0
  else
    let n := x2 / ln2
    let r := x2 - n * ln2
    -- E = 2^n·e^r; numerator and denominator in fixed point
    let e := expFix r * 2 ^ n
    sticky neg ((e - one) * one / (e + one)) 0

/-- The single-source functions of R161 that R162 tables. -/
inductive Fn where
  | rcp | rsq | sqrt | ex2 | lg2 | sin | cos | tanh
  deriving DecidableEq, Repr

/-- The exact result of a function with IV and DZ, special operands by the table of R162. DEDUCED: log entry 24. -/
def apply (fn : Fn) (x : Exact) : Exact × Flags :=
  match x with
  | .nan s => (.nan false, { iv := s })
  | .inf n =>
    match fn with
    | .rcp => (.zero n, {})
    | .rsq => if n then (.nan false, { iv := true }) else (.zero false, {})
    | .sqrt => if n then (.nan false, { iv := true }) else (.inf false, {})
    | .ex2 => if n then (.zero false, {}) else (.inf false, {})
    | .lg2 => if n then (.nan false, { iv := true }) else (.inf false, {})
    | .sin => (.nan false, { iv := true })
    | .cos => (.nan false, { iv := true })
    | .tanh => (.fin n 1 1 0, {})
  | .fin n num den e =>
    if num = 0 then
      match fn with
      | .rcp => (.inf n, { dz := true })
      | .rsq => (.inf n, { dz := true })
      | .sqrt => (.zero n, {})
      | .ex2 => (.ofInt 1, {})
      | .lg2 => (.inf true, { dz := true })
      | .sin => (.zero n, {})
      | .cos => (.ofInt 1, {})
      | .tanh => (.zero n, {})
    else
      match fn with
      | .rcp => (.fin n den num (-e), {})
      | .rsq => if n then (.nan false, { iv := true }) else (rsqrtFin num e, {})
      | .sqrt => if n then (.nan false, { iv := true }) else (sqrtFin num e, {})
      | .ex2 => (ex2 n num e, {})
      | .lg2 => if n then (.nan false, { iv := true }) else (lg2 num e, {})
      | .sin => (sin n num e, {})
      | .cos => (cos num e, {})
      | .tanh => (tanh n num e, {})

end Sys2Proof.Machine.Real
end

