-- ==== Sys2Proof/Machine/FloatLane.lean ====
section
/-! DEFINITION. What one lane computes in the floating-point, conversion and element instructions (R161 to R170),
and in the pair word (R64 to R67). -/

namespace Sys2Proof.Machine

def ffmt (f16 : Bool) : Fmt := if f16 then F.f16 else F.f32

/-- The elements of a floating source in the operating format, subnormals flushed under `.ftz` (R92, R161). -/
def RV.floats (r : RV) (f16 ftz : Bool) : LaneStep (List Exact) :=
  if f16 then r.f16.map fun l => l.map (ftzSource ftz F.f16) else r.f32.map fun x => [ftzSource ftz F.f32 x]

/-- A floating source read and checked, before the next source is read (R102, R146). -/
def rdFloats (c : RCtx) (field : Nat) (s : Src) (f16 ftz : Bool) : LaneStep (List Exact) :=
  (rd c field s).bind (·.floats f16 ftz)

/-- A source read as f32 (R102). -/
def rdF32 (c : RCtx) (field : Nat) (s : Src) : LaneStep Exact := (rd c field s).bind (·.f32)

/-- The result of elements already rounded. -/
def floatTV (f16 : Bool) (es : List Nat) : TV :=
  ⟨if f16 then packElems 16 es else BitVec.ofNat 32 (es.headD 0), ffmt f16⟩

/-- An exact result with IV, rounded once and flushed (R86, R91, R92). -/
def deliver (f16 ftz : Bool) (m : Rnd) (rnd : Word) (x : Exact × Flags) : Nat × Flags :=
  let r := ftzResult ftz (ffmt f16) (roundTo (ffmt f16) m rnd x.1)
  (r.1, r.2.join x.2)

def joinAll (l : List Flags) : Flags := l.foldl Flags.join {}

def floatOut (c : RCtx) (f16 : Bool) (d : Dst) (rs : List (Nat × Flags)) (srcs : List Src) : LaneStep LaneOut :=
  outD c d (floatTV f16 (rs.map (·.1))) srcs (joinAll (rs.map (·.2)))

/-- The random operand of `.rs` (R90, R165); zero elsewhere. -/
def rndOf (c : RCtx) (m : Rnd) (s : Src) : LaneStep Word :=
  if m == .rs then (rd c 3 s).map (·.bits) else .ok 0

def ivFlag (x : Exact × Bool) : Exact × Flags := (x.1, { iv := x.2 })

/-- fadd, fsub and fmul (R161). DEDUCED: log entry 14. -/
def floatOp2 (op : Exact → Exact → Exact × Bool) (f16 ftz : Bool) (m : Rnd) (d : Dst) (a b e : Src) (c : RCtx) :
    LaneStep LaneOut :=
  (rdFloats c 1 a f16 ftz).bind fun x => (rdFloats c 2 b f16 ftz).bind fun y => (rndOf c m e).bind fun rnd =>
  floatOut c f16 d ((List.zipWith op x y).map fun r => deliver f16 ftz m rnd (ivFlag r)) [a, b, e]

def laneFadd (f16 ftz : Bool) (m : Rnd) (d : Dst) (a b e : Src) (c : RCtx) : LaneStep LaneOut :=
  floatOp2 (exactAdd m) f16 ftz m d a b e c
def laneFsub (f16 ftz : Bool) (m : Rnd) (d : Dst) (a b e : Src) (c : RCtx) : LaneStep LaneOut :=
  floatOp2 (fun x y => exactAdd m x y.neg) f16 ftz m d a b e c
def laneFmul (f16 ftz : Bool) (m : Rnd) (d : Dst) (a b e : Src) (c : RCtx) : LaneStep LaneOut :=
  floatOp2 exactMul f16 ftz m d a b e c

/-- x·y + z exact: the product is not rounded before the add (R86). A quiet NaN addend of 0 × ∞ still sets IV
(log entry 13). -/
def exactFma (m : Rnd) (x y z : Exact) : Exact × Bool :=
  let (p, iv) := exactMul x y
  let (s, iv2) := exactAdd m p z
  (s, iv || iv2)

/-- DEDUCED: log entry 13. -/
def laneFfma (f16 ftz : Bool) (m : Rnd) (d : Dst) (a b e : Src) (c : RCtx) : LaneStep LaneOut :=
  (rdFloats c 1 a f16 ftz).bind fun x => (rdFloats c 2 b f16 ftz).bind fun y => (rdFloats c 3 e f16 ftz).bind fun z =>
  floatOut c f16 d
    ((List.zipWith (fun p z => exactFma m p.1 p.2 z) (x.zip y) z).map fun r => deliver f16 ftz m 0 (ivFlag r))
    [a, b, e]

def laneFminmax (isMax f16 ftz prop : Bool) (d : Dst) (a b : Src) (c : RCtx) : LaneStep LaneOut :=
  (rdFloats c 1 a f16 ftz).bind fun x => (rdFloats c 2 b f16 ftz).bind fun y =>
  floatOut c f16 d ((List.zipWith (minMax isMax prop) x y).map fun r => deliver f16 ftz .rne 0 (ivFlag r)) [a, b]

/-- The functions of R162. -/
def laneFn (fn : Real.Fn) (f16 ftz : Bool) (m : Rnd) (d : Dst) (a : Src) (c : RCtx) : LaneStep LaneOut :=
  (rdFloats c 1 a f16 ftz).bind fun x =>
  floatOut c f16 d (x.map fun v => deliver f16 ftz m 0 (Real.apply fn v)) [a]

/-- An exact value rounded to an integral value of its sign; NX is not raised (R162). -/
def integral (m : Rnd) (x : Exact) : Exact × Flags :=
  match x with
  | .nan s => (.nan false, { iv := s })
  | .inf n => (.inf n, {})
  | .fin n num den e => (.fin n (roundMag m 0 n num den e 0).1 1 0, {})

def laneFrnd (f16 ftz : Bool) (m : Rnd) (d : Dst) (a : Src) (c : RCtx) : LaneStep LaneOut :=
  (rdFloats c 1 a f16 ftz).bind fun x =>
  floatOut c f16 d (x.map fun v => deliver f16 false m 0 (integral m v)) [a]

/-- The relation of R163, and IV. -/
def fcmpOf (cc : FCmp) (x y : Exact) : Bool × Bool :=
  let un := x.isNaN || y.isNaN
  let sn := x.isSNaN || y.isSNaN
  match cc with
  | .eq => (exactEq x y, sn)
  | .ne => (!exactEq x y, sn)
  | .lt => (exactLt x y, un)
  | .le => (exactLt x y || exactEq x y, un)
  | .gt => (exactLt y x, un)
  | .ge => (exactLt y x || exactEq x y, un)
  | .num => (!un, sn)
  | .nan => (un, sn)

def laneFcmp (cc : FCmp) (ftz : Bool) (d : Dst) (a b : Src) (c : RCtx) : LaneStep LaneOut :=
  (rdF32 c 1 a).bind fun x => (rdF32 c 2 b).bind fun y =>
  let (r, iv) := fcmpOf cc (ftzSource ftz F.f32 x) (ftzSource ftz F.f32 y)
  outD c d (boolTV r) [a, b] { iv := iv }

/-- The class mask of R164. -/
def classMask (f : Fmt) (x : Exact) : Nat :=
  match x with
  | .nan s => if s then 1 else 2
  | .inf n => if n then 4 else 512
  | .fin n num _ _ =>
    if num = 0 then (if n then 32 else 64)
    else if exactSubnormal f x then (if n then 16 else 128)
    else (if n then 8 else 256)

def srcFmtCode : SrcFmt → Fmt
  | .f32 => F.f32
  | .f16 => F.f16
  | .bf16 => F.bf16

def laneFclass (sf : SrcFmt) (e1 : Bool) (d : Dst) (a : Src) (c : RCtx) : LaneStep LaneOut :=
  let f := srcFmtCode sf
  (rd c 1 a).bind fun r =>
  (match r.tag with
    | .tag t => if t == f then LaneStep.ok (ieeeVal f (elemAt (elemBits f) r.bits e1.toNat)) else .trap (mismatch r)
    | .zeroSp => .ok (.zero false)
    | .untagged => .ok (untaggedVal f r)).bind fun x =>
  outD c d ⟨BitVec.ofNat 32 (classMask f x), F.n32⟩ [a]

/-! ## Conversion and quantisation (R166 to R168) -/

/-- A trap that names an operand already read. -/
def rvTrap (cz : Cause) (r : RV) : Trap := { cause := cz, info0 := r.opnd }

/-- R166: the random operand is read before S1 is checked; the elements above the first are zero bits in every format.
DESIGN CHOICE: log entry 153. -/
def laneCvt (f : Fmt) (elem : BitVec 3) (m : Rnd) (d : Dst) (a e : Src) (c : RCtx) : LaneStep LaneOut :=
  (rd c 1 a).bind fun r => (rndOf c m e).bind fun rnd =>
  (match r.tag with
    | .tag t =>
      if t == F.raw32 then LaneStep.trap (mismatch r)
      else if elemCount t ≤ elem.toNat then .trap { cause := .elementRange, info0 := opndInfo 2 (.imm 0) }
      else .ok (elemVal t (elemAt (elemBits t) r.bits elem.toNat))
    | .untagged | .zeroSp =>
      if elem.toNat = 0 then .ok (.ofInt r.untaggedInt)
      else .trap { cause := .elementRange, info0 := opndInfo 2 (.imm 0) }).bind fun x =>
  let (v, fl) := convertTo f m rnd x
  outD c d ⟨BitVec.ofNat 32 v, f⟩ [a, e] fl

/-- The bits of the largest finite value of a sign: for an integer format, the end of its range. -/
def finiteEnd (f : Fmt) (neg : Bool) : Nat :=
  if isLog f then lCode f neg (lMax8 f)
  else if isInteger f then wrapTo (elemBits f) (if neg then intMin f else intMax f)
  else ieeeMaxFinite f neg

/-- q of R167: x ÷ s rounded to FMT, with the flags; t itself beyond the finite range gives its end, with SAT alone.
DEDUCED: log entry 15. -/
def quantize (f : Fmt) (m : Rnd) (rnd : Word) (x s : Exact) : Nat × Flags :=
  if s.isNaN || s.isInf || s.isZero then
    (if isLog f then lZero f else 0, { iv := true })
  else if x.isNaN then
    if isInteger f then (0, { iv := true }) else if isLog f then (lZero f, { nanLost := true })
    else (canonNaN f, { iv := x.isSNaN })
  else
    let t := exactDiv x s
    if exactLt (elemVal f (finiteEnd f false)) t || exactLt t (elemVal f (finiteEnd f true)) then
      (finiteEnd f t.sign, { sat := true })
    else convertTo f m rnd t

/-- An element index read as an unsigned 32-bit value. -/
def elemIndex (f : Fmt) (r : RV) : LaneStep Nat :=
  if r.bits.toNat < elemCount f then .ok r.bits.toNat else .trap (rvTrap .elementRange r)

/-- DEDUCED: log entry 15. -/
def laneQnt (f : Fmt) (rs : Bool) (d : Dst) (a b e : Src) (c : RCtx) : LaneStep LaneOut :=
  (rdDst c d).bind fun old =>
  (rdF32 c 1 a).bind fun x => (rdF32 c 2 b).bind fun s => (rd c 3 e).bind fun re =>
  (if rs then LaneStep.ok 0 else elemIndex f re).bind fun i =>
  let (q, fl) := quantize f (if rs then .rs else .rne) re.bits x s
  let base : Word := if old.tag == .tag f then old.bits else 0
  let v := setElem (elemBits f) base i q
  outD c d ⟨trimL6 f v, f⟩ [a, b, e] fl

def laneDqt (f : Fmt) (d : Dst) (a b e : Src) (c : RCtx) : LaneStep LaneOut :=
  (rd c 1 a).bind fun ra => (LaneStep.require (ra.tag == .tag f) (mismatch ra)).bind fun _ =>
  (rdF32 c 2 b).bind fun s => (rd c 3 e).bind fun re => (elemIndex f re).bind fun i =>
  let (p, iv) := exactMul (elemVal f (elemAt (elemBits f) ra.bits i)) s
  let (v, fl) := roundRNE F.f32 p
  outD c d ⟨BitVec.ofNat 32 v, F.f32⟩ [a, b, e] (fl.join { iv := iv })

/-! ## Element moves and tags (R169, R170) -/

/-- The formats of `pack` and `unpk`: those of several elements. -/
def packFmt (f : Fmt) : Bool := 1 < elemCount f

/-- R169: all sources are read before their formats are checked; an untagged S1 has no element format. DESIGN CHOICE: log entry
152. DEDUCED: log entry 19. -/
def lanePack (d : Dst) (a b e : Src) (c : RCtx) : LaneStep LaneOut :=
  (rd c 1 a).bind fun ra => (rd c 2 b).bind fun rb => (rd c 3 e).bind fun re =>
  match ra.tag with
  | .tag f =>
    (LaneStep.require (packFmt f) (mismatch ra)).bind fun _ =>
    (LaneStep.require (rb.tag == .tag f || rb.tag == .zeroSp) (mismatch rb)).bind fun _ =>
    (elemIndex f re).bind fun i =>
    outD c d ⟨trimL6 f (setElem (elemBits f) rb.bits i (elemAt (elemBits f) ra.bits 0)), f⟩ [a, b, e]
  | .untagged | .zeroSp => .trap (mismatch ra)

/-- The widened format of an element format (R169). -/
def wideOf (f : Fmt) : Fmt := if isSigned f then F.s32 else if isUnsigned f then F.n32 else F.f32

def wideBits (f : Fmt) (e : Nat) : Word :=
  if isInteger f then BitVec.ofNat 32 (wrapTo 32 (elemInt f e)) else BitVec.ofNat 32 (widenF32Bits f e)

/-- DESIGN CHOICE: log entry 152. -/
def laneUnpk (wide : Bool) (d : Dst) (a b : Src) (c : RCtx) : LaneStep LaneOut :=
  (rd c 1 a).bind fun ra => (rd c 2 b).bind fun rb =>
  match ra.tag with
  | .tag f =>
    (LaneStep.require (packFmt f) (mismatch ra)).bind fun _ =>
    (elemIndex f rb).bind fun i =>
    let e := elemAt (elemBits f) ra.bits i
    outD c d (if wide then ⟨wideBits f e, wideOf f⟩ else ⟨BitVec.ofNat 32 e, f⟩) [a, b]
  | .untagged | .zeroSp => .trap (mismatch ra)

/-- The tag of a source, as `tagr` writes it (R170): a freed register yields 0x00. -/
def tagOf (c : RCtx) (a : Src) : LaneStep Nat :=
  match a.spec with
  | .m i =>
    if c.warp.busy.contains (16 + i.toNat) then .park (.handle (16 + i.toNat))
    else .ok ((((c.warp.m[i.toNat]?).getD 0).extractLsb' 80 16).toNat)
  | .l i => .ok ((c.pos.loft[i.toNat]?).getD LoftSlot.init).ttag.toNat
  | .a i =>
    match ((c.pos.acc[i.toNat]?).getD ⟨none, none⟩).cur with
    | none => .trap (opTrap .accUnbound 1 a.spec)
    | some t =>
      if t.pending = 0 then .ok t.tag.toNat
      else if a.trap then .trap (opTrap .emptyRead 1 a.spec) else .park (.acc i.toNat)
  | _ => (rd c 1 a).map fun r => r.outTag.toNat

def laneTagr (d : Dst) (a : Src) (c : RCtx) : LaneStep LaneOut :=
  (tagOf c a).bind fun n => outD c d ⟨BitVec.ofNat 32 n, F.n32⟩ [a]

def laneTagw (f : TagwFmt) (d : Dst) (a b : Src) (c : RCtx) : LaneStep LaneOut :=
  (rd c 1 a).bind fun ra =>
  match f with
  | .fmt f => outD c d ⟨ra.bits, f⟩ [a]
  | .reg =>
    (rd c 2 b).bind fun rb =>
    (LaneStep.require (decide (rb.bits.toNat < 14)) (rvTrap .tagIllformed rb)).bind fun _ =>
    outD c d ⟨ra.bits, rb.bits.extractLsb' 0 5⟩ [a, b]

/-! ## Pair words (R64 to R67) -/

def halfSrc (h : HalfSrc) : Src :=
  ⟨if h.warp then .w (h.idx.extractLsb' 0 5) else .v h.idx, false, false⟩

/-- What a half computes from its two sources: its value, or a trap. -/
def evalHalf (op : BitVec 5) (ra rb : RV) : LaneStep (TV × Flags) :=
  let fl (o : Exact → Exact → Exact × Bool) (m : Rnd) : LaneStep (TV × Flags) :=
    (ra.f32).bind fun x => (rb.f32).bind fun y =>
    let (v, f) := deliver false false m 0 (ivFlag (o x y))
    .ok (⟨BitVec.ofNat 32 v, F.f32⟩, f)
  let it (f : IFmt) (o : Int → Int → Int) : LaneStep (TV × Flags) :=
    (ra.ints f).bind fun x => (rb.ints f).bind fun y => .ok (intResult f false (List.zipWith o x y))
  let lg (o : Word → Word → Word) : LaneStep (TV × Flags) := .ok (⟨o ra.bits rb.bits, logicTag ra⟩, {})
  match op.toNat with
  | 0 => fl (exactAdd .rne) .rne
  | 1 => fl (fun x y => exactAdd .rne x y.neg) .rne
  | 2 => fl exactMul .rne
  | 3 => fl (minMax false false) .rne
  | 4 => fl (minMax true false) .rne
  | 5 => fl (minMax false true) .rne
  | 6 => fl (minMax true true) .rne
  | 7 => fl (exactAdd .rtz) .rtz
  | 8 => fl (fun x y => exactAdd .rtz x y.neg) .rtz
  | 9 => fl exactMul .rtz
  | 10 => fl (exactAdd .rdn) .rdn
  | 11 => fl (exactAdd .rup) .rup
  | 16 => it .s32 (· + ·)
  | 17 => it .s32 (· - ·)
  | 18 => it .s32 (· * ·)
  | 19 => it .s32 min
  | 20 => it .s32 max
  | 21 => it .n32 min
  | 22 => it .n32 max
  | 23 => lg (· &&& ·)
  | 24 => lg (· ||| ·)
  | 25 => lg (· ^^^ ·)
  | 26 => lg andnW
  | 27 => lg shlW
  | 28 => lg shrW
  | 29 => lg sarW
  | 30 => lg rotW
  | _ => .trap { cause := .illegalOpc }

def halfDst (h : Half) : Dst := ⟨.v h.dst, false⟩

/-- One half: its two sources read, its operation evaluated, its destination checked. -/
def laneHalf (h : Half) (c : RCtx) : LaneStep (TV × Flags) :=
  (rd c 1 (halfSrc h.a)).bind fun a => (rd c 2 (halfSrc h.b)).bind fun b =>
  (evalHalf h.op a b).bind fun v => (wrOk c (halfDst h)).map fun _ => v

/-- Both halves together (R67): a pair waits while either half does; of two failing halves A's cause is reported, and a
trap of half B alone is marked so (TSTATE.HALFB). -/
def bothHalves {α β : Type} (x : LaneStep α) (y : LaneStep β) : LaneStep (α × β) :=
  match x, y with
  | .stall, _ | _, .stall => .stall
  | .park w, _ | _, .park w => .park w
  | .trap t, _ => .trap t
  | .ok _, .trap t => .trap { t with halfB := true }
  | .ok a, .ok b => .ok (a, b)

/-- R67: neither half writes before both have read and checked. -/
def lanePair (ha hb : Half) (c : RCtx) : LaneStep LaneOut :=
  (bothHalves (laneHalf ha c) (laneHalf hb c)).map fun v =>
    { writes := [(halfDst ha, v.1.1), (halfDst hb, v.2.1)], flags := v.1.2.join v.2.2 }

end Sys2Proof.Machine
end

