-- ==== Sys2Proof/Machine/CrossLane.lean ====
section
/-! DEFINITION. Cross-lane instructions (R171 to R176), the upward writes `sup` and `sred` (R135, R136), and the
reduction steps they share with merges (R109 to R111, R131). They act on the executing lanes of one arm together. -/

namespace Sys2Proof.Machine

/-- What the executing lanes of an arm read together: every lane that did not trap is present (R171). -/
inductive Gathered (α : Type) where
  | stall
  | park (w : Wait)
  | got (vals : List (RCtx × α)) (traps : List (Nat × Trap))

/-- Reading in every executing lane, before any lane is written (R145). -/
def gather {α : Type} (f : RCtx → LaneStep α) : List RCtx → Gathered α
  | [] => .got [] []
  | c :: rest =>
    match f c, gather f rest with
    | .stall, _ => .stall
    | _, .stall => .stall
    | .park w, _ => .park w
    | _, .park w => .park w
    | .trap t, .got vs ts => .got vs ((c.lane, t) :: ts)
    | .ok a, .got vs ts => .got ((c, a) :: vs) ts

/-- DEDUCED: log entry 25. -/
def trapEnds (ts : List (Nat × Trap)) : List (Nat × LaneEnd) := ts.map fun t => (t.1, .trap t.2)

/-- Continuing with what was gathered. -/
def Gathered.arm {α : Type} (g : Gathered α) (k : List (RCtx × α) → List (Nat × Trap) → ArmRes) : ArmRes :=
  match g with
  | .stall => .stall
  | .park w => .park w
  | .got vs ts => k vs ts

/-- The value of a present lane. -/
def laneVal {α : Type} (vs : List (RCtx × α)) (lane : Nat) : Option α := (vs.find? fun v => v.1.lane == lane).map (·.2)

/-- The size of a segment in a warp of width W (R172). -/
def segSize (s : Seg) (w : Nat) : Nat :=
  match s with
  | .whole => w
  | .s8 => min 8 w
  | .s16 => min 16 w
  | .s32 => min 32 w
  | .s64 => min 64 w

/-- The present lanes of a lane's segment. -/
def inSeg {α : Type} (n lane : Nat) (vs : List (RCtx × α)) : List (RCtx × α) :=
  vs.filter fun v => v.1.lane / n == lane / n

/-- One lane's result that writes its destination. -/
def endD (d : Dst) (v : TV) (srcs : List Src) : LaneEnd := .out { writes := [(d, v)], frees := srcs }

/-- The source lane of `shfl` in a segment of n lanes, or none where the fill is read (R172). -/
def shflFrom (mode : ShflMode) (n lane : Nat) (k : Word) : Option Nat :=
  let base := n * (lane / n)
  let o := lane - base
  let t : Int := match mode with
    | .idx => k.toNat
    | .add => o + toSigned 32 k.toNat
    | .xor => ((BitVec.ofNat 32 o) ^^^ k).toNat
    | .rev => (n : Int) - 1 - o
  if 0 ≤ t ∧ t < n then some (base + t.toNat) else none

def armShfl (mode : ShflMode) (seg : Seg) (d : Dst) (a b e : Src) (cs : List RCtx) : ArmRes :=
  (gather (fun c => (rd c 1 a).bind fun ra => (rd c 2 b).bind fun rb => (rd c 3 e).bind fun re =>
    (wrOk c d [a, b, e]).map fun _ => (ra, rb, re)) cs).arm fun vs ts =>
  .done { lanes := trapEnds ts ++ vs.map fun v =>
    let n := segSize seg v.1.width
    let r := match (shflFrom mode n v.1.lane v.2.2.1.bits).bind (laneVal vs) with
      | some x => x.1
      | none => v.2.2.2
    (v.1.lane, endD d r.tv [a, b, e]) }

/-- Equality in bits and tag (R173). -/
def sameTV (x y : RV) : Bool := x.bits == y.bits && x.tag == y.tag

def voteOf (mode : VoteMode) (vs : List RV) : Word :=
  let b (p : Bool) : Word := if p then 1 else 0
  match mode with
  | .all => b (vs.all (·.bits != 0))
  | .any => b (vs.any (·.bits != 0))
  | .eq => b (match vs with
      | [] => true
      | x :: l => l.all (sameTV x))
  | .cnt => BitVec.ofNat 32 (vs.countP (·.bits != 0))

/-- Reading S1 in every executing lane. -/
def gather1 (d : Dst) (a : Src) (cs : List RCtx) : Gathered RV :=
  gather (fun c => (rd c 1 a).bind fun ra => (wrOk c d [a]).map fun _ => ra) cs

def armVote (mode : VoteMode) (seg : Seg) (d : Dst) (a : Src) (cs : List RCtx) : ArmRes :=
  (gather1 d a cs).arm fun vs ts =>
  .done { lanes := trapEnds ts ++ vs.map fun v =>
    (v.1.lane, endD d ⟨voteOf mode ((inSeg (segSize seg v.1.width) v.1.lane vs).map (·.2)), F.n32⟩ [a]) }

/-- The 32 lanes of a quarter as a mask (R173). -/
def quarterMask (q : BitVec 2) (vs : List (RCtx × RV)) (p : RV → Bool) : Word :=
  BitVec.ofNat 32 ((List.range 32).foldl (fun acc j =>
    match laneVal vs (32 * q.toNat + j) with
    | some r => if p r then acc + 2 ^ j else acc
    | none => acc) 0)

def armBallot (q : BitVec 2) (d : Dst) (a : Src) (cs : List RCtx) : ArmRes :=
  (gather1 d a cs).arm fun vs ts => ArmRes.settle <|
  .done { lanes := trapEnds ts ++ vs.map fun v =>
    (v.1.lane, endD d ⟨quarterMask q vs (·.bits != 0), F.n32⟩ [a]) }

def armMatch (q : BitVec 2) (d : Dst) (a : Src) (cs : List RCtx) : ArmRes :=
  (gather1 d a cs).arm fun vs ts => ArmRes.settle <|
  .done { lanes := trapEnds ts ++ vs.map fun v => (v.1.lane, endD d ⟨quarterMask q vs (sameTV v.2), F.n32⟩ [a]) }

/-! ## Reductions (R109, R110, R136) -/

def redFmtCode : RedFmt → Fmt
  | .s32 => F.s32
  | .n32 => F.n32
  | .f32 => F.f32
  | .raw32 => F.raw32

/-- One step of an add, minimum or maximum in f32 (R91, R136). -/
def f32Step (op : Exact → Exact → Exact × Bool) (x y : Word) : Word × Flags :=
  let r := deliver false false .rne 0 (ivFlag (op (ieeeVal F.f32 x.toNat) (ieeeVal F.f32 y.toNat)))
  (BitVec.ofNat 32 r.1, r.2)

def signedLe (x y : Word) : Bool := decide (toSigned 32 x.toNat ≤ toSigned 32 y.toNat)
def unsignedLe (x y : Word) : Bool := decide (x.toNat ≤ y.toNat)

/-- One step of a reduction (R136); x is the left operand. -/
def redStep (op : RedOp) (f : RedFmt) (x y : Word) : Word × Flags :=
  match op, f with
  | .add, .f32 => f32Step (exactAdd .rne) x y
  | .min, .f32 => f32Step (minMax false false) x y
  | .max, .f32 => f32Step (minMax true false) x y
  | .add, _ => (x + y, {})
  | .min, .s32 => (if signedLe x y then x else y, {})
  | .min, _ => (if unsignedLe x y then x else y, {})
  | .max, .s32 => (if signedLe y x then x else y, {})
  | .max, _ => (if unsignedLe y x then x else y, {})
  | .and, _ => (x &&& y, {})
  | .or, _ => (x ||| y, {})
  | .xor, _ => (x ^^^ y, {})
  | .argmax, _ => (if unsignedLe y x then x else y, {})

/-- Combining two lanes of which each may be absent; the left operand is the lower lane. -/
def combine (op : Word → Word → Word × Flags) (x y : Option Word) : Option Word × Flags :=
  match x, y with
  | some a, some b => let r := op a b; (some r.1, r.2)
  | some a, none => (some a, {})
  | none, r => (r, {})

/-- ReduceTree of R109 on 2^k lanes: one step folds the upper half onto the lower. -/
def reduceTree (op : Word → Word → Word × Flags) : Nat → List (Option Word) → Option Word × Flags
  | 0, l => (l.headD none, {})
  | k + 1, l =>
    let s := 2 ^ k
    let rs := List.zipWith (combine op) (l.take s) (l.drop s)
    let (r, fl) := reduceTree op k (rs.map (·.1))
    (r, (joinAll (rs.map (·.2))).join fl)

/-- One doubling step of R110 with distance d. The flags of every step count, also of one at a lane that is absent.
DESIGN CHOICE: log entry 138. -/
def scanStep (op : Word → Word → Word × Flags) (d : Nat) (l : List (Option Word)) : List (Option Word) × Flags :=
  let rs := l.zipIdx.map fun x => if x.2 < d then (x.1, {}) else combine op ((l[x.2 - d]?).getD none) x.1
  (rs.map (·.1), joinAll (rs.map (·.2)))

/-- ScanSteps of R110 on 2^k lanes, from distance d. -/
def scanSteps (op : Word → Word → Word × Flags) : Nat → Nat → List (Option Word) → List (Option Word) × Flags
  | 0, _, l => (l, {})
  | k + 1, d, l =>
    let (l1, f1) := scanStep op d l
    let (l2, f2) := scanSteps op k (2 * d) l1
    (l2, f1.join f2)

/-- The lanes of an instance as a list of W options, from its first lane. -/
def lanesList (first w : Nat) (vs : List (RCtx × Word)) : List (Option Word) :=
  (List.range w).map fun i => laneVal vs (first + i)

def widthOf (cs : List RCtx) : Nat := (cs.head?.map (·.width)).getD 8

/-- Lane results of a reduction when every lane could read; when one trapped, no lane is written, and the others complete
(R136, R146, R174). DEDUCED: log entry 25. -/
def armLred (op : RedOp) (f : RedFmt) (d : Dst) (a : Src) (cs : List RCtx) : ArmRes :=
  let w := widthOf cs
  (gather (fun c => (rd c 1 a).bind fun ra => (ra.widen (redFmtCode f)).bind fun x => (wrOk c d [a]).map fun _ => x)
    cs).arm fun vs ts =>
  let (r, fl) := reduceTree (redStep op f) w.log2 (lanesList 0 w vs)
  match ts, r with
  | [], some x =>
    .done { lanes := vs.map fun v => (v.1.lane, endD d ⟨x, redFmtCode f⟩ [a]), flags := fl }
  | _, _ => .done { lanes := trapEnds ts ++ vs.map fun v => (v.1.lane, .out { frees := [a] }) }

/-- The step of a scan; `.addx` adds (R175). -/
def scanOpStep (op : ScanOp) (f : RedFmt) : Word → Word → Word × Flags :=
  redStep (match op with
    | .add | .addx => .add
    | .min => .min
    | .max => .max
    | .and => .and
    | .or => .or
    | .xor => .xor) f

/-- The result of a present lane: its own prefix, or the prefix below it (R110, R175). -/
def scanResult (op : ScanOp) (l : List (Option Word)) (lane : Nat) : Word :=
  let at' (i : Nat) : Word := ((l[i]?).getD none).getD 0
  match op with
  | .addx => if lane = 0 then 0 else at' (lane - 1)
  | _ => at' lane

def armScan (op : ScanOp) (f : RedFmt) (d : Dst) (a : Src) (cs : List RCtx) : ArmRes :=
  let w := widthOf cs
  (gather (fun c => (rd c 1 a).bind fun ra => (ra.widen (redFmtCode f)).bind fun x => (wrOk c d [a]).map fun _ => x)
    cs).arm fun vs ts =>
  let (l, fl) := scanSteps (scanOpStep op f) w.log2 1 (lanesList 0 w vs)
  ArmRes.settle <| .done
    { lanes := trapEnds ts ++ vs.map fun v => (v.1.lane, endD d ⟨scanResult op l v.1.lane, redFmtCode f⟩ [a])
      flags := fl }

/-- The elected lane of a segment: the lowest present one, or the highest (R176). -/
def electedOf (hi : Bool) (lanes : List Nat) : Option Nat := if hi then lanes.max? else lanes.min?

def armElect (hi : Bool) (seg : Seg) (d : Dst) (cs : List RCtx) : ArmRes :=
  (gather (fun c => wrOk c d) cs).arm fun vs ts =>
  .done { lanes := trapEnds ts ++ vs.map fun v =>
    let seglanes := (inSeg (segSize seg v.1.width) v.1.lane vs).map (·.1.lane)
    (v.1.lane, endD d (boolTV (electedOf hi seglanes == some v.1.lane)) []) }

/-! ## Upward writes (R135, R136) -/

def isUp (s : Spec) : Bool :=
  match s with
  | .b _ | .c _ | .g _ => true
  | _ => false

/-- The instances of D's scope that hold lanes of the arm: subgroups for x, otherwise one. -/
def instances {α : Type} (s : Spec) (vs : List (RCtx × α)) (ts : List (Nat × Trap)) : List Nat :=
  match s with
  | .x _ => (List.range 16).filter fun i => vs.any (fun v => subgroup v.1.lane == i) || ts.any fun t => subgroup t.1 == i
  | _ => [0]

def inInst (s : Spec) (i lane : Nat) : Bool :=
  match s with
  | .x _ => subgroup lane == i
  | _ => true

/-- The write of one instance: lane ends, and the view entry. -/
structure UpOut where
  lanes : List (Nat × LaneEnd)
  scope : List ViewEnt
  flags : Flags

/-- What `sup` and `sred` share: `pick` gives the value an instance writes, or a trap of all its writers. -/
def upInst (d : Dst) (f : Fmt) (a : Src) (diverged : Bool) (pick : List (RCtx × Word) → Except Trap (Word × Flags))
    (vs : List (RCtx × Word)) (ts : List (Nat × Trap)) (i : Nat) : UpOut :=
  let mine := vs.filter fun v => inInst d.spec i v.1.lane
  let bad := ts.filter fun t => inInst d.spec i t.1
  let plainEnds := mine.map fun v => (v.1.lane, LaneEnd.out { frees := [a] })
  if !bad.isEmpty then ⟨trapEnds bad ++ plainEnds, [], {}⟩
  else match mine with
    | [] => ⟨[], [], {}⟩
    | m :: _ =>
      match pick mine with
      | .error t => ⟨mine.map fun v => (v.1.lane, .trap t), [], {}⟩
      | .ok (x, fl) =>
        if diverged && isUp d.spec then
          ⟨mine.map fun v => (v.1.lane, .trap (opTrap .scopeDiverged 0 d.spec)), [], {}⟩
        else
          match d.spec with
          | .z _ =>
            ⟨mine.map fun v => (v.1.lane, .out { writes := if v.1.lane == m.1.lane then [(d, ⟨x, f⟩)] else [], frees := [a] }),
              [], fl⟩
          | s => ⟨plainEnds, [⟨s, i, ⟨x, f⟩⟩], fl⟩

/-- An upward write of an arm (R128). -/
def armUp (d : Dst) (f : Fmt) (a : Src) (pick : Nat → List (RCtx × Word) → Except Trap (Word × Flags)) (cs : List RCtx) :
    ArmRes :=
  (gather (fun c => (rd c 1 a).bind fun ra => (ra.widen f).bind fun x => (wrOk c d [a]).map fun _ => x) cs).arm fun vs ts =>
  let div := cs.any fun c => !c.warp.recs.isEmpty
  let os := (instances d.spec vs ts).map fun i => upInst d f a div (pick i) vs ts i
  .done { lanes := os.flatMap (·.lanes), scope := os.flatMap (·.scope), flags := joinAll (os.map (·.flags)) }

/-- DEDUCED: log entry 29. -/
def armSup (f : Fmt) (d : Dst) (a : Src) (cs : List RCtx) : ArmRes :=
  armUp d f a (fun _ vs =>
    if allEqual (vs.map (·.2)) then .ok ((vs.head?.map (·.2)).getD 0, {})
    else .error (opTrap .scopeDisagree 1 a.spec)) cs

def armSred (op : RedOp) (f : RedFmt) (d : Dst) (a : Src) (cs : List RCtx) : ArmRes :=
  let w := match d.spec with
    | .x _ => 8
    | _ => widthOf cs
  armUp d (redFmtCode f) a (fun i vs =>
    let (r, fl) := reduceTree (redStep op f) w.log2 (lanesList (8 * i) w vs)
    .ok (r.getD 0, fl)) cs

/-- `rpool` (R140). -/
def laneRpool (which : BitVec 2) (d : Dst) (c : RCtx) : LaneStep LaneOut :=
  let n := match which.toNat with
    | 0 => c.warp.gran
    | 1 => c.pos.lent
    | 2 => c.pos.limit - c.pos.drawn
    | _ => c.pos.claims.length
  outD c d ⟨BitVec.ofNat 32 n, F.n32⟩ []

end Sys2Proof.Machine
end

