-- ==== Sys2Proof/Machine/StileState.lean ====
section
/-! DEFINITION. The state of the contexts, objects, code, queues and engines, of the Stile (messages, relays, names,
pens, ports), of paddocks and keys, and of the host windows. Lists stand for tables; what a table does not list
holds its reset value. -/

namespace Sys2Proof.Machine

/-! ## Objects and contexts -/

/-- An extent (R326): page size code, P, W, object offset in 64 KiB units, pages, address in 64 KiB units. -/
structure Extent where
  psz : Nat
  p : Bool
  w : Bool
  off : Nat
  npg : Nat
  pa : Nat
  deriving DecidableEq, Repr

/-- A valid object (R324, R325) with its extent list (R326). -/
structure Obj where
  id : Nat
  paged : Bool
  wr : Bool
  exo : Bool
  gen : Nat
  ext : List Extent
  /-- Bytes the object was created with (R283, R261); 2^40 where only its extents bound it. -/
  size : Nat
  deriving DecidableEq, Repr

/-- What an algebra slot held before an `alg`, and who executed it: a use that is not ordered after it may still see
this (R202). -/
structure AlgOld where
  slot : Nat
  old : Option (BitVec 512)
  party : Party
  epoch : Nat
  grid : Nat
  deriving DecidableEq, Repr

/-- States of a context (R255). -/
inductive CtxSt where
  | free | live | saving | saved | restoring | ending
  deriving DecidableEq, Repr

/-- An unresolved fault record (R333). -/
structure FaultRec where
  fid : Nat
  obj : Nat
  page : Nat
  wrf : Bool
  eng : Bool
  src : Nat
  core : Nat
  party : Nat
  /-- Written to the ring; one that meets a full ring waits (R332). -/
  posted : Bool
  due : Nat
  deriving DecidableEq, Repr

/-- A context (R254). -/
structure Ctx where
  id : Nat
  st : CtxSt
  pad : Nat
  objs : List Obj
  /-- Algebra slots 0 to 15 (R114, R117); none is empty. -/
  alg : List (Option (BitVec 512))
  algOld : List AlgOld
  regdraw : Word
  hintdrop : Word
  penlim : Word
  penlate : Word
  loccfg : Word
  locthr : Word
  wdcfg : Word
  trapcfg : Word
  evcfg : Word
  evw : Nat
  evr : Nat
  evlost : Nat
  /-- Events posted so far by each source (R259). -/
  evseq : List (Nat × Nat)
  fltcfg : Dword
  fltw : Nat
  fltr : Nat
  faults : List FaultRec
  /-- Reply to the last launch (R286): status, cause, grid id. -/
  lstat : Nat
  lcause : Nat
  lgrid : Nat
  /-- Launches held until Live (R255), and those that wait for a grid id (R287). -/
  heldL : List (BitVec 1024)
  waitL : List (BitVec 1024)
  /-- Grid ids not swept yet after their grid's end (R287). -/
  swept : List Nat
  /-- Requests served later (R255). -/
  wantSave : Bool
  wantRestore : Bool
  wantEnd : Bool
  /-- End of the save drain (R256). -/
  drain : Option Nat
  /-- The context signal bitmap's bit (R425). -/
  signal : Bool
  /-- Ids of removed objects that live grids still withhold (R325). -/
  gone : List (Nat × List Nat)
  deriving DecidableEq, Repr

/-! ## Code objects -/

/-- A `%blk` fixup of a stage (R77): the `.own` range it completes, whether its count or its first element, the
postfix expression, and the record of R71 that reports a value that does not fit. -/
structure BlkFix where
  own : Nat
  count : Bool
  expr : List Byte
  err : BitVec 128
  deriving DecidableEq, Repr

/-- A stage of an installed kernel (R76 to R79): its words with their headers, and its declarations. -/
structure StageCode where
  stage : Nat
  role : Nat
  regs : Nat
  bars : Nat
  stash : Nat
  tags : Nat
  loft : Nat
  acc : Nat
  /-- Byte offset of its first clause in the code object (R76). -/
  base : Nat
  words : List Dword
  /-- Clause header offset of the stage's trap handler. -/
  handler : Option Nat
  xdecl : BitVec 16
  wdecl : BitVec 32
  bdecl : BitVec 32
  /-- Declared reductions: 3 bits a register (R131). -/
  xred : BitVec 48
  wred : BitVec 96
  bred : BitVec 96
  own : List (BitVec 128)
  /-- `%blk` fixups of the stage (R77). -/
  fix : List BlkFix
  deriving DecidableEq, Repr

/-- A kernel of a code object (R75). -/
structure Kernel where
  eoff : Nat
  ww : Nat
  det : Bool
  cohab : Bool
  rings : Nat
  cdecl : BitVec 16
  gdecl : BitVec 16
  cred : BitVec 48
  gred : BitVec 48
  stages : List StageCode
  deriving DecidableEq, Repr

/-- States of a code object (R282). -/
inductive CodeSt where
  | checking | installed | retiring
  deriving DecidableEq, Repr

/-- A code object (R81, R282): its context, object id, digest, kernels, and the data objects that came with it. -/
structure Code where
  ctx : Nat
  id : Nat
  st : CodeSt
  digest : List Byte
  kernels : List Kernel
  data : List Nat
  /-- Container bytes while Checking. -/
  image : List Byte
  /-- A removal was requested while Checking. -/
  removeReq : Bool
  deriving DecidableEq, Repr

/-! ## Engine operations -/

/-- One matrix chain as issued (R187 to R192). -/
structure ChainOp where
  /-- The 64-byte parameter block. -/
  block : BitVec 512
  /-- The tile it writes, bound at issue. -/
  tid : Nat
  /-- The algebra record its slot held at issue (R117, R189). -/
  algRec : BitVec 512
  /-- Its m-handles: A, and the scale arrays of A and B. -/
  hA : BitVec 128
  hSA : BitVec 128
  hSB : BitVec 128
  /-- Stash lines it has lent (R190). -/
  lent : List Nat
  deriving DecidableEq, Repr

/-- What an engine operation does when it completes. -/
inductive OpKind where
  /-- `cpy`, `cpyr` (R226): destination and source records, and the quad. -/
  | copy (hd hs q : BitVec 128) (red : Option (CpyOp × RelFmt))
  /-- `lload` (R198): Loft slot, source record, first element, descriptor words, and the components of its algebra. -/
  | lload (l : Nat) (hs : BitVec 128) (first : Nat) (desc : BitVec 64) (k : Nat)
  | chain (c : ChainOp)
  /-- `ald` (R200): the name, the tile, and its m-handle with the components of its algebra. -/
  | ald (acc : Nat) (tid : Nat) (md : BitVec 128) (k : Nat)
  /-- `ast` (R200): the m-handle, the rounding, and the tile's cells as it read them. -/
  | ast (md : BitVec 128) (r : Rnd) (k : Nat) (cells : List Word)
  /-- `sflush` of a window (R228): the lines it writes back. -/
  | sflush (w : Nat) (lines : List Nat)
  /-- `ask`, `annc` (R367): record, stamped name, first element, capacity or length, absolute expiry. -/
  | ask (hd name : BitVec 128) (first cap expiry : Nat)
  | annc (hs name : BitVec 128) (first len : Nat)
  /-- `send`, `recv` (R352). -/
  | send (hs q : BitVec 128)
  | recv (hd q : BitVec 128)
  /-- `relay` (R353): its engine, sequence number and relay record. -/
  | relay (eng seq : Nat)
  /-- `ppost` (R383): destination node (none: this package), pen, SEQ, expert; from memory, or staged elements. -/
  | post (node : Option Nat) (pen : Nat) (seq : Word) (expert : Nat) (hs : BitVec 128) (first len : Nat)
      (regs : Option (List Word))
  /-- An open pen slot (R382) whose release completes CTAG. -/
  | slot (pen : Nat) (slot : Nat)
  deriving DecidableEq, Repr

/-- Where an operation stands. -/
inductive OpSt where
  | issued
  /-- An ask that the Stile accepted, or the delivery under way; a message that moves; a post staged. -/
  | accepted | moving | localDone
  /-- It waits on a page fault (R333). -/
  | faulted (fid : Nat)
  deriving DecidableEq, Repr

/-- An engine operation in flight: who issued it, when in that party's order, and the tags it completes. -/
structure EngOp where
  id : Nat
  ctx : Nat
  pos : Nat
  stage : Nat
  warp : Nat
  lane : Nat
  core : Nat
  party : Party
  epoch : Nat
  front : Frontier
  grid : Nat
  det : Bool
  /-- Copy tags it still completes: LTAG and RTAG of a send are two. -/
  tags : List Nat
  kind : OpKind
  st : OpSt
  /-- Issue order on its unit. -/
  seq : Nat
  /-- Stores that it sees whatever happens later: identifiers of those the issuing thread had fenced or seen. -/
  sees : List Nat
  deriving DecidableEq, Repr

/-! ## Queues and tasks -/

/-- A slot of a queue: the 64-byte record, its state (R266), when it became Ready, and what its start acquires. -/
structure QSlot where
  idx : Nat
  word : BitVec 512
  state : Nat
  armed : Nat
  tdn : Bool
  ndone : Nat
  readyAt : Nat
  front : Frontier
  deriving DecidableEq, Repr

/-- A hardware queue that is not Free (R261, R262). -/
structure Queue where
  id : Nat
  ctx : Nat
  store : Nat
  logn : Nat
  stopped : Bool
  /-- Destroyed, with records still Running. -/
  dying : Bool
  slots : List QSlot
  deriving DecidableEq, Repr

/-- An implicit `tdone` whose list waits for a page (R278, R331): its record, what it releases, and the fault id. -/
structure LateDone where
  q : Nat
  slot : Nat
  front : Frontier
  fid : Option Nat
  deriving DecidableEq, Repr

/-- What a read of an argument block or a drove table that met a page fault waits for: a fault id, a free one, nothing any
more, or its failure (R331). -/
inductive ReadWait where
  | fid (n : Nat)
  | noId
  | again
  | fatal
  deriving DecidableEq, Repr

/-- A launch, or the start of a task, whose argument block or drove table lies on a page that faults (R285, R293, R331, R448):
the launch record, or the task's queue and slot; the status with which the launch fails. DESIGN CHOICE: log entry 163. -/
structure LateRead where
  ctx : Nat
  launch : BitVec 1024
  task : Option (Nat × Nat)
  status : Nat
  wait : ReadWait
  deriving DecidableEq, Repr

/-- What the push window of a queue keeps (R272). -/
structure PushWin where
  q : Nat
  dropped : Nat
  reply : Nat
  deriving DecidableEq, Repr

/-- A valid filter entry with its bucket (R274, R275). -/
structure FilterEnt where
  idx : Nat
  ent : Dword
  bucket : Nat
  deriving DecidableEq, Repr

/-! ## Messages and relays -/

/-- A stream (R342): paddock, source node, destination node, channel; relay streams apart (R347). The counts of
sends and receives issued, by which the n-th meets the n-th. -/
structure Stream where
  pad : Nat
  src : Nat
  dst : Nat
  chan : Nat
  relay : Bool
  sends : Nat
  recvs : Nat
  deriving DecidableEq, Repr

/-- A send (R343) that is under way, of an operation or of a relay step. -/
structure SendMsg where
  id : Nat
  /-- Its operation, or that of the relay's first member, and the chunk that a relay sends. -/
  op : Nat
  key : MsgKey
  len : Nat
  chunk : Nat
  /-- The matching credit has come. -/
  credit : Bool
  /-- Bytes entered into flits. -/
  sent : Nat
  deriving DecidableEq, Repr

/-- A receive (R343) of an operation or of a relay step. -/
structure RecvMsg where
  op : Nat
  key : MsgKey
  len : Nat
  chunk : Nat
  /-- Ranges of the message that have come: offset and bytes. -/
  got : List (Nat × List Byte)
  /-- Its credit has been sent; a send has taken it. -/
  told : Bool
  taken : Bool
  deriving DecidableEq, Repr

/-- What a relay waits for before its next step (R347). -/
inductive RelayWait where
  | none
  /-- A chunk to arrive: RCV, or RRS with its reduction and the node it sends on to. -/
  | recv (red : Option (CpyOp × RelFmt)) (peer : Option Nat) (chunk : Nat)
  deriving DecidableEq, Repr

/-- A thread's part in a relay (R349, R353): its die, its operation, and the handles as copied at issue. -/
structure RelayMem where
  die : Nat
  op : Nat
  ctx : Nat
  pos : Nat
  tag : Nat
  /-- The tag's count of issues, this one among them (R354). -/
  gen : Nat
  hin : BitVec 128
  hout : BitVec 128
  hgrp : BitVec 128
  deriving DecidableEq, Repr

/-- A relay (R347 to R353). -/
structure Relay where
  eng : Nat
  seq : Nat
  pad : Nat
  rank : Nat
  size : Nat
  ch : Nat
  chan : Nat
  dmask : Nat
  hp : BitVec 128
  first : Nat
  /-- Its threads; one of them unless dies join. -/
  mems : List RelayMem
  /-- Its program up to the first END, once it has been read and checked; empty until then. -/
  prog : List (BitVec 128)
  pc : Nat
  iter : Nat
  wait : RelayWait
  /-- Its sends that have not completed remotely. -/
  out : List Nat
  /-- When a relay that waits for dies times out (R349). -/
  due : Nat
  deriving DecidableEq, Repr

/-- A member of a relay that ended (R354): its ticket, context, position and tag, what the tag counted, the cause. -/
structure RelayEnd where
  eng : Nat
  seq : Nat
  ctx : Nat
  pos : Nat
  tag : Nat
  gen : Nat
  cause : Option Cause
  deriving DecidableEq, Repr

/-- States of a fabric port (R339). -/
inductive PortSt where
  | down | training | up | degraded | quarantined
  deriving DecidableEq, Repr

/-- A fabric port: its state, its good lanes, and for each lane group the flits not acknowledged yet (R341). -/
structure Port where
  id : Nat
  st : PortSt
  lanes : BitVec 8
  replay : List (Nat × Flit)
  /-- What it has transmitted and nobody has acknowledged yet, in order: group, SEQ, and the 256 bytes (R340, R341). -/
  line : List (Nat × Nat × List Byte)
  /-- Lane groups whose next expected flit has been requested again (R341). -/
  asked : List Bool
  /-- Next SEQ to send and next SEQ expected, by lane group. -/
  txseq : List Nat
  rxseq : List Nat
  /-- When training began, or when a retry is due. -/
  since : Nat
  deriving DecidableEq, Repr

/-! ## Named tiles -/

/-- A requester of an interest (R358, R363): an ask's operation, or a face (a neighbouring node). -/
structure Requester where
  ask : Option Nat
  face : Nat
  expiry : Nat
  deriving DecidableEq, Repr

/-- A delivery under way (R363): its ask's operation, and the tile, which the fold keeps until it ends (R364). -/
structure Delivery where
  op : Nat
  pad : Nat
  name : BitVec 128
  data : List Byte
  deriving DecidableEq, Repr

/-- An interest entry (R358). -/
structure Interest where
  pad : Nat
  name : BitVec 128
  reqs : List Requester
  /-- The expiry last forwarded, when it was forwarded (R359). -/
  fwd : Option Nat
  deriving DecidableEq, Repr

/-- A tile held in a fold (R361, R362). -/
structure FoldTile where
  pad : Nat
  name : BitVec 128
  digest : Dword
  data : List Byte
  used : Nat
  /-- The key slot of the memory domain that its lines stand under (R362, R396). -/
  key : Option Nat
  /-- The 4 KiB blocks of the fold that it occupies (R362). -/
  blocks : List Nat
  deriving DecidableEq, Repr

/-- An interest, or a tile, that the Stile sends to a face: node, name, expiry, or the tile's bytes. -/
structure NameFlit where
  pad : Nat
  /-- The port and lane group that it goes by, and the fabric key slot that seals it (R338, R360). -/
  port : Nat
  group : Nat
  key : Nat
  node : Nat
  name : BitVec 128
  expiry : Nat
  tile : Option (List Byte)
  /-- It tells the package that a tile came from of a conflict (R361). -/
  conflict : Bool
  deriving DecidableEq, Repr

/-- The interest of a face that is held for want of an entry (R358): when it came, as an operation's number. -/
structure HeldFace where
  id : Nat
  pad : Nat
  name : BitVec 128
  face : Nat
  expiry : Nat
  deriving DecidableEq, Repr

/-- A returned tile that waits for room in a fold (R362). -/
structure HeldTile where
  pad : Nat
  face : Nat
  name : BitVec 128
  tile : List Byte
  origin : Option Nat
  deriving DecidableEq, Repr

/-! ## Pens -/

/-- States of a pen slot (R374). -/
inductive SlotSt where
  | free | opened | releasing
  /-- Releasing, its sum formed and on its way. -/
  | formed
  | released
  deriving DecidableEq, Repr

/-- A pen slot that is not as at reset (R372 to R374). -/
structure PenSlot where
  pen : Nat
  idx : Nat
  st : SlotSt
  seq : Word
  /-- The record, with the token offset added and the weights used. -/
  word : BitVec 512
  hd : BitVec 128
  dfirst : Nat
  ctx : Nat
  /-- Owner: its position, none when orphaned, and the party that issued it. -/
  pos : Option Nat
  party : Party
  op : Nat
  /-- Contributions staged, by position. -/
  staged : List (Nat × List Word)
  /-- The key slots of the memory domain that they stand under (R372, R396). -/
  keys : List Nat
  det : Bool
  /-- It stands Releasing by its time-out. -/
  timed : Bool
  /-- The cycle in which its release became possible (R378). -/
  since : Option Nat
  due : Nat
  cause : Option Cause
  front : Frontier
  deriving DecidableEq, Repr

/-- A post held at a pen (R375). -/
structure HeldPost where
  pen : Nat
  seq : Word
  expert : Nat
  data : List Word
  /-- The local operation, or none for a remote poster. -/
  op : Option Nat
  ctx : Nat
  front : Frontier
  /-- Where it comes from (R377): its SRC, and its core and lane. -/
  src : Nat
  core : Nat
  lane : Nat
  deriving DecidableEq, Repr

/-! ## Paddocks and keys -/

/-- States of a paddock (R390); an Absent one is not listed. -/
inductive PadSt where
  | live | stopping | stopped | ending
  deriving DecidableEq, Repr

/-- States of a key slot (R396). -/
inductive KeySt where
  | empty | active | old | revoked
  deriving DecidableEq, Repr

/-- A key slot (R396): state, domain, installs counted. -/
structure KeySlot where
  st : KeySt
  dom : Nat
  kgen : Nat
  deriving DecidableEq, Repr

/-- A paddock (R387). -/
structure Paddock where
  id : Nat
  st : PadSt
  imp : Bool
  borrow : Bool
  dbg : Bool
  rank : Nat
  realm : Nat
  gcnt : Nat
  mcnt : Nat
  gset : BitVec 24
  slices : BitVec 32
  pens : BitVec 4
  relays : BitVec 4
  lgrp : BitVec 72
  ishare : Nat
  fold : Nat
  qblk : BitVec 16
  dgib : List Nat
  cxl : Nat
  dwt : Nat
  keys : List KeySlot
  /-- The guarantee the host last gave (R395). -/
  hgcnt : Nat
  hdgib : List Nat
  /-- End of the drain of a stop (R391), and a Start that came while Stopping. -/
  drain : Option Nat
  wantLive : Bool
  /-- Old slots that are being rewrapped (R397). -/
  rewrap : List Nat
  /-- Where its fold and, after it, its pen objects lie in DRAM, in units of 64 KiB (R388). -/
  carve : Nat
  /-- The tenant's Falcon-1024 public key, registered at creation (R430). -/
  tenant : List Byte
  deriving DecidableEq, Repr

/-- A cluster that its user has to leave (R392, R393), and the end of its drain; one that is being scrubbed has
none. -/
structure Revoke where
  cluster : Nat
  user : Nat
  drain : Option Nat
  deriving DecidableEq, Repr

/-! ## Host windows and the package -/

/-- A link's half of the configuration window (R423). -/
structure Link where
  status : Nat
  cause : Nat
  result : Nat
  done : Nat
  /-- A command in progress, and the reply it will give. -/
  busy : Option (Nat × Nat × Nat)
  deriving DecidableEq, Repr

/-- The read-back window (R424). -/
structure ReadBack where
  addr : Dword
  status : Nat
  data : List Byte
  deriving DecidableEq, Repr

/-- Where the package stands in its boot (R428, R433). -/
inductive BootSt where
  | booting | running | recovery | held
  deriving DecidableEq, Repr

end Sys2Proof.Machine
end

