-- ==== Sys2Proof/Machine/State.lean ====
section
/-! DEFINITION. The state of the package, its state at reset, and the machine's faults and refusals. -/

namespace Sys2Proof.Machine

/-- What the next step does: an event of the opcode table, or the next instruction of a packet or relay engine. DESIGN CHOICE: log entry 2. -/
inductive Act where
  | event (i : Instr)
  /-- The packet in an issue slot issues its next instruction (R296). -/
  | issue (core : Nat) (slot : Nat)
  /-- A relay engine runs its next step (R347). -/
  | relay (eng : Nat)
  deriving DecidableEq, Repr

/-- Whose instruction the step runs: no one's, a packet's, or a relay engine's. -/
inductive Who where
  | none
  | packet (core : Nat) (slot : Nat)
  | engine (eng : Nat)
  deriving DecidableEq, Repr

/-- The compute dies and memory: cores, positions, instances, grids, and what is in flight. -/
structure Compute where
  cores : List CoreSt
  positions : List Position
  /-- Positions that have ended while operations of theirs are in flight: the operations go on with them. -/
  past : List Position
  insts : List Inst
  grids : List Grid
  /-- Operations in flight, in issue order. -/
  ops : List EngOp
  /-- Device memory by physical address: canonical, no entry zero. -/
  mem : List Host.Cell
  /-- Stores and reductions that some observer does not see yet, oldest first. -/
  pend : List PStore
  /-- The race record of each sector, and the read table (R237, R238). -/
  sectors : List Sector
  /-- The frontiers that release atomics left at words (R233). -/
  atomFront : List AtomRel
  /-- Where the warp of each party stands or last stood: its number, core and warp slot (R237). -/
  homes : List (Nat × Nat × Nat)
  /-- Sectors with an uncorrectable error, by address ÷ 32 (R410). -/
  bad : List Nat
  /-- The key slot that encrypted each 64-byte line, by address ÷ 64: paddock and slot (R396). -/
  lineKey : List (Nat × Nat × Nat)
  /-- L2 TLBs by hardware cluster (R328). -/
  l2tlb : List (Nat × List TlbEnt)
  deriving DecidableEq, Repr

/-- The Stile: contexts, code, queues, messages, names, pens, ports. -/
structure Stile where
  ctxs : List Ctx
  codes : List Code
  queues : List Queue
  /-- Implicit notifications that wait for a page (R331), and the moments at which records have become Ready (R270). -/
  late : List LateDone
  /-- Launches and task starts that wait for a page (R331). -/
  reads : List LateRead
  moment : Nat
  pushes : List PushWin
  filter : List FilterEnt
  streams : List Stream
  sends : List SendMsg
  recvs : List RecvMsg
  /-- Credits that came before their send issued, with the receive's length. -/
  credits : List (MsgKey × Nat)
  relays : List Relay
  relayEnds : List RelayEnd
  /-- Sequence number of the next relay of each engine (R353). -/
  relaySeq : List Nat
  ports : List Port
  /-- Credit and acknowledgement flits that wait for room in a replay buffer (R341). -/
  ctl : List Flit
  interests : List Interest
  deliveries : List Delivery
  folds : List FoldTile
  routes : List (Nat × BitVec 128)
  nameOut : List NameFlit
  heldFaces : List HeldFace
  heldTiles : List HeldTile
  pens : List PenSlot
  heldPosts : List HeldPost
  deriving DecidableEq, Repr

/-- Partition, keys, host links and bring-up. -/
structure Mgmt where
  paddocks : List Paddock
  revokes : List Revoke
  /-- Commons clusters borrowed now: cluster, borrower (R392). -/
  borrowed : List (Nat × Nat)
  /-- Clusters, cores and dies taken out; channels retired as address ranges in 64 KiB units (R393, R394, R292). -/
  retired : List Nat
  coresOut : List Nat
  diesOut : List Nat
  chansOut : List (Nat × Nat × Nat)
  /-- Drains of removed cores: core, end (R393). -/
  coreDrain : List (Nat × Nat)
  /-- DRAM in GiB lost on each die with its channels; CXL ports down (R427). -/
  cxlDown : List Nat
  links : List Link
  /-- Commands that wait behind the other link's (R423). -/
  cmdq : List Instr
  readback : ReadBack
  /-- Vectors signalled since reset: 0 for the paddock interrupt and management events, and those of contexts (R395, R425). -/
  vectors : List Nat
  /-- What the last read of the signal bitmap returned (R423). -/
  bitmapRead : Dword
  boot : BootSt
  /-- Measurement register M (R429). -/
  measure : BitVec 512
  /-- PTP time minus `now`, and whether the first message has come (R432). -/
  ptp : Int
  synced : Bool
  /-- A correction that is being slewed: how much, since when, and at how many ppm. -/
  slew : Int
  slewFrom : Nat
  slewPpm : Nat
  /-- What the last command wrote to host memory: link, bus address, bytes (R431, R454). -/
  hostOut : Option (Bool × Nat × List Byte)
  cap : Nat
  /-- 100 MHz steps by which the clocks are slowed (R433). -/
  slow : Nat
  /-- What the management processor logs for the host alone: the source of an error and its class (R398). -/
  hostLog : List (Nat × Nat)
  /-- The time to which the last forward step set the clock: records it passed become Ready at the next tick (R432). -/
  stepTo : Nat
  /-- The signed image that a load took in recovery (R428). -/
  recovery : Option (List Byte)
  deriving DecidableEq, Repr

/-- The state of the package. -/
structure State where
  /-- Nanoseconds since reset, and cycles of the core clock. -/
  now : Nat
  cyc : Nat
  /-- What the next steps do; with nothing listed, time passes. -/
  agenda : List Act
  cur : Who
  /-- The model's own counter of free values drawn (log entry 10). -/
  free : Nat
  /-- Next identifier of operations, stores, fills and positions. -/
  nextId : Nat
  /-- This package's node (R340). -/
  node : Nat
  c : Compute
  t : Stile
  m : Mgmt
  deriving DecidableEq, Repr

/-- Stops of the step. Both are safe: the machine stops where no run of an installed stage gets. DESIGN CHOICE: log entry 126. -/
inductive Fault where
  /-- Raised by the step: the next instruction of a packet lies outside its stage's code (R50 and R78 rule it out), or
  the next step of a relay outside its program (R348). Safe. -/
  | noWord
  /-- Raised by the step: the next word is no instruction (R70 and R348 rule it out). Safe. -/
  | badWord
  deriving DecidableEq, Repr

/-- What the model turns away. -/
inductive Refusal where
  /-- Raised by `exec` for an instruction without a meaning, by its mnemonic. Safe: the run stops. -/
  | notModelled (mnemonic : String)
  deriving DecidableEq, Repr

/-! ## Reset (R7, R428) -/

def CoreSt.reset (i : Nat) : CoreSt :=
  { id := i, usable := true, slots := List.replicate Config.issueSlots none, filled := 0, turns := [],
    switched := [], scores := [], limit := none, victims := [], log := [],
    fills := [], hfills := [], tlb := [] }

def Port.reset (i : Nat) : Port :=
  { id := i, st := .down, lanes := 0, replay := [], line := [], asked := [false, false, false, false], txseq := [0, 0, 0, 0], rxseq := [0, 0, 0, 0], since := 0 }

/-- A link at reset: reply DONE, no command completed. DESIGN CHOICE: log entry 4. -/
def Link.reset : Link := ⟨0, 0, 0, 0, none⟩

/-- The package right after cold reset (R7, R428): the boot chain has not run, no context, no paddock, memory empty. DESIGN CHOICE: log entry 4. DEDUCED: log entry 5. DEDUCED: log entry 31. -/
def State.reset : State where
  now := 0
  cyc := 0
  agenda := []
  cur := .none
  free := 0
  nextId := 1
  node := 0
  c := { cores := (List.range Config.cores).map CoreSt.reset, positions := [], past := [], insts := [], grids := [], ops := [],
         mem := [], pend := [], sectors := [], atomFront := [], homes := [], bad := [], lineKey := [], l2tlb := [] }
  t := { ctxs := [], codes := [], queues := [], late := [], reads := [], moment := 0, pushes := [], filter := [], streams := [], sends := [], recvs := [],
         credits := [], relays := [], relayEnds := [], relaySeq := [0, 0, 0, 0],
         ports := (List.range 18).map Port.reset, ctl := [], interests := [], deliveries := [], folds := [], routes := [],
         nameOut := [], heldFaces := [], heldTiles := [], pens := [], heldPosts := [] }
  m := { paddocks := [], revokes := [], borrowed := [], retired := [], coresOut := [], diesOut := [],
         chansOut := [], coreDrain := [], cxlDown := [], links := [.reset, .reset], cmdq := [],
         readback := ⟨0, 0, List.replicate 64 0⟩, vectors := [], bitmapRead := 0, boot := .booting, measure := 0,
         ptp := 0, synced := false, slew := 0, slewFrom := 0, slewPpm := 100, hostOut := none, cap := 2600, slow := 0, hostLog := [], stepTo := 0, recovery := none }

end Sys2Proof.Machine
end

