-- ==== Sys2Proof/Machine/Tables.lean ====
section
/-! DEFINITION. Looking up and changing the entries of the state's tables, by key. -/

namespace Sys2Proof.Machine

/-- Every entry that meets `p` changed by `f`. -/
def upd {α : Type} (p : α → Bool) (f : α → α) (l : List α) : List α := l.map fun a => if p a then f a else a

/-- The entry of a key replaced, or added at the end. -/
def put {α : Type} (p : α → Bool) (a : α) (l : List α) : List α := if l.any p then upd p (fun _ => a) l else l ++ [a]

/-- Insertion into a list in order, after its equals. -/
def insertBy {α : Type} (le : α → α → Bool) (a : α) : List α → List α
  | [] => [a]
  | b :: l => if le b a then b :: insertBy le a l else a :: b :: l

/-- A list put in order; equals keep their order. -/
def sortBy {α : Type} (le : α → α → Bool) (l : List α) : List α := l.foldl (fun acc a => insertBy le a acc) []

def State.posOf (s : State) (id : Nat) : Option Position := s.c.positions.find? (·.id == id)
/-- The position that an operation acts for, ended or not. DESIGN CHOICE: log entry 159. -/
def State.placeOf (s : State) (id : Nat) : Option Position := (s.posOf id).or (s.c.past.find? (·.id == id))
def Position.blockOf (p : Position) (stage : Nat) : Option Block := p.blocks.find? (·.stage == stage)
def Block.warpOf (b : Block) (i : Nat) : Option Warp := b.warps.find? (·.idx == i)

def State.warpOf (s : State) (k : WKey) : Option Warp :=
  ((s.posOf k.pos).bind (·.blockOf k.stage)).bind (·.warpOf k.warp)

def State.coreOf (s : State) (id : Nat) : Option CoreSt := s.c.cores.find? (·.id == id)
def State.ctxOf (s : State) (id : Nat) : Option Ctx := s.t.ctxs.find? (·.id == id)
def State.gridOf (s : State) (ctx id : Nat) : Option Grid := s.c.grids.find? fun g => g.ctx == ctx && g.id == id
def State.instOf (s : State) (ctx grid lin : Nat) : Option Inst :=
  s.c.insts.find? fun i => i.ctx == ctx && i.grid == grid && i.lin == lin
def State.codeOf (s : State) (ctx id : Nat) : Option Code := s.t.codes.find? fun c => c.ctx == ctx && c.id == id
def State.opOf (s : State) (id : Nat) : Option EngOp := s.c.ops.find? (·.id == id)
def State.queueOf (s : State) (id : Nat) : Option Queue := s.t.queues.find? (·.id == id)
def State.padOf (s : State) (id : Nat) : Option Paddock := s.m.paddocks.find? (·.id == id)
def State.portOf (s : State) (id : Nat) : Option Port := s.t.ports.find? (·.id == id)
def Code.kernelOf (c : Code) (eoff : Nat) : Option Kernel := c.kernels.find? (·.eoff == eoff)
def Kernel.stageOf (k : Kernel) (i : Nat) : Option StageCode := k.stages.find? (·.stage == i)

def State.grid? (s : State) (p : Position) : Option Grid := s.gridOf p.ctx p.grid
def State.inst? (s : State) (p : Position) : Option Inst := s.instOf p.ctx p.grid p.inst
def State.kernel? (s : State) (g : Grid) : Option Kernel := (s.codeOf g.ctx g.code).bind (·.kernelOf g.kern)
def State.stage? (s : State) (p : Position) (stage : Nat) : Option StageCode :=
  ((s.grid? p).bind s.kernel?).bind (·.stageOf stage)

/-- Deterministic mode of a position's grid. -/
def State.det? (s : State) (p : Position) : Bool := (((s.grid? p).bind s.kernel?).map (·.det)).getD false
/-- The warp width of a position's kernel. -/
def State.width? (s : State) (p : Position) : Nat := (((s.grid? p).bind s.kernel?).map (·.ww)).getD 8

/-! ## Changing an entry -/

def State.modC (s : State) (f : Compute → Compute) : State := { s with c := f s.c }
def State.modT (s : State) (f : Stile → Stile) : State := { s with t := f s.t }
def State.modM (s : State) (f : Mgmt → Mgmt) : State := { s with m := f s.m }

def State.modPos (s : State) (id : Nat) (f : Position → Position) : State :=
  s.modC fun c => { c with positions := upd (·.id == id) f c.positions, past := upd (·.id == id) f c.past }
def Position.modBlock (p : Position) (stage : Nat) (f : Block → Block) : Position :=
  { p with blocks := upd (·.stage == stage) f p.blocks }
def Block.modWarp (b : Block) (i : Nat) (f : Warp → Warp) : Block := { b with warps := upd (·.idx == i) f b.warps }
def State.modBlock (s : State) (pos stage : Nat) (f : Block → Block) : State := s.modPos pos (·.modBlock stage f)
def State.modWarp (s : State) (k : WKey) (f : Warp → Warp) : State :=
  s.modBlock k.pos k.stage (·.modWarp k.warp f)
def Warp.modThread (w : Warp) (lane : Nat) (f : Thread → Thread) : Warp :=
  { w with threads := w.threads.mapIdx fun i t => if i = lane then f t else t }
def Warp.modThreads (w : Warp) (lanes : List Nat) (f : Thread → Thread) : Warp :=
  { w with threads := w.threads.mapIdx fun i t => if lanes.contains i then f t else t }
def Warp.modArm (w : Warp) (tag : Nat) (f : Arm → Arm) : Warp := { w with arms := upd (·.tag == tag) f w.arms }
def State.modCore (s : State) (id : Nat) (f : CoreSt → CoreSt) : State :=
  s.modC fun c => { c with cores := upd (·.id == id) f c.cores }
def State.modGrid (s : State) (ctx id : Nat) (f : Grid → Grid) : State :=
  s.modC fun c => { c with grids := upd (fun g => g.ctx == ctx && g.id == id) f c.grids }
def State.modInst (s : State) (ctx grid lin : Nat) (f : Inst → Inst) : State :=
  s.modC fun c => { c with insts := upd (fun i => i.ctx == ctx && i.grid == grid && i.lin == lin) f c.insts }
def State.modOp (s : State) (id : Nat) (f : EngOp → EngOp) : State :=
  s.modC fun c => { c with ops := upd (·.id == id) f c.ops }
def State.dropOp (s : State) (id : Nat) : State := s.modC fun c => { c with ops := c.ops.filter (·.id != id) }
def State.modCtx (s : State) (id : Nat) (f : Ctx → Ctx) : State :=
  s.modT fun t => { t with ctxs := upd (·.id == id) f t.ctxs }
def State.modCode (s : State) (ctx id : Nat) (f : Code → Code) : State :=
  s.modT fun t => { t with codes := upd (fun c => c.ctx == ctx && c.id == id) f t.codes }
def State.modQueue (s : State) (id : Nat) (f : Queue → Queue) : State :=
  s.modT fun t => { t with queues := upd (·.id == id) f t.queues }
def State.modPort (s : State) (id : Nat) (f : Port → Port) : State :=
  s.modT fun t => { t with ports := upd (·.id == id) f t.ports }
def State.modPad (s : State) (id : Nat) (f : Paddock → Paddock) : State :=
  s.modM fun m => { m with paddocks := upd (·.id == id) f m.paddocks }

/-- A fresh identifier. -/
def State.fresh (s : State) : Nat × State := (s.nextId, { s with nextId := s.nextId + 1 })

/-- Free values (log entry 10): each draw advances the counter. -/
def State.drawWord (s : State) : Word × State := (Config.freeWord s.free, { s with free := s.free + 1 })
def State.drawByte (s : State) : Byte × State := (Config.freeByte s.free, { s with free := s.free + 1 })
def State.drawBit (s : State) : Bool × State := (Config.freeBit s.free, { s with free := s.free + 1 })

/-- What of a correction has been slewed by now: a step aside of at most so many parts in a million (R432). DESIGN CHOICE: log entry 34. -/
def State.slewed (s : State) : Int :=
  let most : Int := (s.now - s.m.slewFrom) * s.m.slewPpm / 1000000
  if 0 ≤ s.m.slew then min s.m.slew most else max s.m.slew (-most)

/-- PTP time (R432). -/
def State.time (s : State) : Nat := ((s.now : Int) + s.m.ptp + s.slewed).toNat

/-- Time moved on to a moment that an event states: it never goes back. -/
def State.at (s : State) (t : Nat) : State := { s with now := max s.now t }

/-- Microseconds in nanoseconds. -/
def us (n : Nat) : Nat := 1000 * n

/-- The hardware cluster of a core (R10). -/
def clusterOf (core : Nat) : Nat := core / Config.coresPerCluster

/-- The party of an arm of a warp (R232, R237): this package is index 0 of its drove. DESIGN CHOICE: log entry 39. -/
def partyOf (w : Warp) (arm : Nat) : Party := ⟨0, w.wid, arm % 256⟩

/-- Where the warp of a party stands: its core and warp slot. -/
def Compute.homeOf (c : Compute) (p : Party) : Nat × Nat := (c.homes.lookup p.wid).getD (0, 0)

/-- The hardware cluster of a party. -/
def Compute.clusterOf (c : Compute) (p : Party) : Nat := Machine.clusterOf (c.homeOf p).1

/-- A party as records, traps and events name it (R237). -/
def State.partyBits (s : State) (p : Party) : Nat := (p.bits (s.c.homeOf p).1 (s.c.homeOf p).2).toNat

/-- Cores whose hardware cluster a paddock may use: its own, less those lent, and those it borrows (R392). -/
def State.padOfCtx (s : State) (ctx : Nat) : Nat := ((s.ctxOf ctx).map (·.pad)).getD 0

end Sys2Proof.Machine
end

