-- ==== Sys2Proof/Machine/Memory.lean ====
section
/-! DEFINITION. Memory: cells in canonical form, little-endian values (R3), translation (R326, R327), and buffer
records (R207). -/

namespace Sys2Proof.Machine

/-! ## Cells -/

/-- What an address that is not listed reads as: 0 (log entry 3). -/
def unlisted : Byte := 0

/-- The byte at an address. DESIGN CHOICE: log entry 3. -/
def memGet : List Host.Cell → Nat → Byte
  | [], _ => unlisted
  | (k, v) :: r, a => if k = a then v else memGet r a

/-- A list of cells without the entries of an address. -/
def memDel : List Host.Cell → Nat → List Host.Cell
  | [], _ => []
  | c :: r, a => if c.1 = a then memDel r a else c :: memDel r a

/-- A list of cells with one more entry, before the first of a higher address. -/
def memIns : List Host.Cell → Nat → Byte → List Host.Cell
  | [], a, v => [(a, v)]
  | c :: r, a, v => if a < c.1 then (a, v) :: c :: r else c :: memIns r a v

/-- A write that keeps the canonical form: writing what an unlisted address reads as removes the entry. -/
def memSet (m : List Host.Cell) (a : Nat) (v : Byte) : List Host.Cell :=
  if v = unlisted then memDel m a else memIns (memDel m a) a v

/-- Addresses strictly rising above `lo`, no entry that reads as unlisted. -/
def memWfFrom : Nat → List Host.Cell → Bool
  | _, [] => true
  | lo, (k, v) :: r => decide (lo ≤ k) && v != unlisted && memWfFrom (k + 1) r

/-- The canonical form of memory. -/
def Memory.wf (m : List Host.Cell) : Bool := memWfFrom 0 m

def memWrite : List Host.Cell → Nat → List Byte → List Host.Cell
  | m, _, [] => m
  | m, a, b :: bs => memWrite (memSet m a b) (a + 1) bs

def memRead (m : List Host.Cell) (a : Nat) : Nat → List Byte
  | 0 => []
  | n + 1 => memGet m a :: memRead m (a + 1) n

/-- A little-endian number of bytes, and the bytes of a number (R3). -/
def leNat : List Byte → Nat
  | [] => 0
  | b :: bs => b.toNat + 256 * leNat bs

/-- Byte `i` of a value laid out little-endian. -/
def nthByte (v i : Nat) : Byte := BitVec.ofNat 8 (v / 256 ^ i)

def leBytes : Nat → Nat → List Byte
  | 0, _ => []
  | n + 1, v => BitVec.ofNat 8 v :: leBytes n (v / 256)

/-! ## Objects and translation -/

/-- Bytes of a page of an extent (R326). -/
def pageBytes (psz : Nat) : Nat :=
  match psz with
  | 0 => 2 ^ 16
  | 1 => 2 ^ 21
  | _ => 2 ^ 30

def Extent.first (e : Extent) : Nat := e.off * 2 ^ 16
def Extent.bytes (e : Extent) : Nat := e.npg * pageBytes e.psz
def Extent.covers (e : Extent) (off : Nat) : Bool := decide (e.first ≤ off) && decide (off < e.first + e.bytes)

def Ctx.objOf (c : Ctx) (id : Nat) : Option Obj := c.objs.find? (·.id == id)

/-- The extent that maps an offset (R326: at most one). -/
def Obj.extentAt (o : Obj) (off : Nat) : Option Extent := o.ext.find? (·.covers off)

/-- The device physical address of a byte, where it translates (R327). -/
def Obj.translate (o : Obj) (off : Nat) (wr : Bool) : Option Nat :=
  match o.extentAt off with
  | some e => if e.p && (!wr || e.w) then some (e.pa * 2 ^ 16 + (off - e.first)) else none
  | none => none

/-- The address of a byte whatever W says: for the management processor (R454). -/
def Obj.place (o : Obj) (off : Nat) : Option Nat :=
  match o.extentAt off with
  | some e => if e.p then some (e.pa * 2 ^ 16 + (off - e.first)) else none
  | none => none

/-- The address that the extent of a byte names, present or not: where its sector and the sector's race record lie (R237). -/
def Obj.seat (o : Obj) (off : Nat) : Option Nat := (o.extentAt off).map fun e => e.pa * 2 ^ 16 + (off - e.first)

/-- Whether every byte of a range translates. -/
def Obj.translates (o : Obj) (off len : Nat) (wr : Bool) : Bool :=
  (List.range len).all fun i => (o.translate (off + i) wr).isSome

end Sys2Proof.Machine
end

