-- ==== Sys2Proof/Machine/Access.lean ====
section
/-! DEFINITION. Accesses (R205 to R210, R220, R231 to R249): buffer records, the checks of a lane, visibility of
stores, race records, and reading and writing memory and the stash. -/

namespace Sys2Proof.Machine

/-! ## Buffer records (R207, R208) -/

def recObj (r : BitVec 128) : Nat := (r.extractLsb' 0 24).toNat
def recBase (r : BitVec 128) : Nat := (r.extractLsb' 24 40).toNat
def recEs (r : BitVec 128) : Nat := (r.extractLsb' 116 4).toNat
def recStride (r : BitVec 128) : Nat :=
  let s := (r.extractLsb' 64 20).toNat
  if s = 0 then 2 ^ recEs r else s
def recExtent (r : BitVec 128) : Nat := (r.extractLsb' 84 32).toNat
def recSwz (r : BitVec 128) : Nat := (r.extractLsb' 120 4).toNat
def recRo (r : BitVec 128) : Bool := r.getLsbD 124
def recUntr (r : BitVec 128) : Bool := r.getLsbD 125
def recOob (r : BitVec 128) : Bool := r.getLsbD 126
def recStash (r : BitVec 128) : Bool := r.getLsbD 127

/-- A(i, o) of R208. -/
def recAddr (r : BitVec 128) (i o : Nat) : Nat :=
  let z := if recSwz r = 0 then o else o ^^^ ((i % 2 ^ recSwz r) * 8)
  recBase r + i * recStride r + z

/-- R209. -/
def recInBounds (r : BitVec 128) (i o n : Nat) : Bool :=
  decide (i < recExtent r) && decide (o + n ≤ recStride r) && decide (recBase r + i * recStride r + recStride r ≤ 2 ^ 40)

/-- Reserved values, a broken swizzle, or an object with STASH (R207, R208, R221). -/
def recBad (r : BitVec 128) : Bool :=
  decide (12 < recEs r) || decide (6 < recSwz r) || (recStash r && recObj r != 0)
    || (recSwz r != 0 && recStride r % 2 ^ (recSwz r + 3) != 0)

/-! ## Who makes an access -/

/-- The issuer of an access: its party, epoch and frontier, and where it runs. -/
structure Viewer where
  party : Party
  epoch : Nat
  front : Frontier
  ctx : Nat
  grid : Nat
  wk : WKey
  hw : Nat
  det : Bool
  deriving DecidableEq, Repr

/-- An issuer that has acquired what a release carries (R233). -/
def Viewer.after (v : Viewer) (f : Frontier) : Viewer := { v with front := frontJoin v.front f }

/-- The issuer for an arm of a warp. -/
def State.viewer (s : State) (wk : WKey) (arm : Nat) : Option Viewer :=
  match s.posOf wk.pos, s.warpOf wk with
  | some p, some w =>
    match w.armOf arm with
    | some a =>
      some { party := partyOf w arm, epoch := a.epoch, front := a.front, ctx := p.ctx, grid := p.grid, wk := wk,
             hw := clusterOf p.core, det := s.det? p }
    | none => none
  | _, _ => none

/-! ## Visibility (R244 to R248) -/

/-- The scope that a store must have reached for a viewer to see it. -/
def PStore.needs (e : PStore) (v : Viewer) : Nat :=
  if e.owner == v.party then 0
  else if e.wk.pos == v.wk.pos && e.wk.stage == v.wk.stage then 1
  else if e.hw == v.hw then 2 else 3

/-- DESIGN CHOICE: log entry 62. -/
def PStore.visible (e : PStore) (v : Viewer) : Bool :=
  e.red.isNone && (decide (e.needs v ≤ e.lvl) || e.clus.contains v.hw)

/-- Offset of a byte in a store, where it covers it. -/
def PStore.byteAt (e : PStore) (pa : Nat) : Option Byte := if e.pa ≤ pa then e.bytes[pa - e.pa]? else none

def PStore.overlaps (e : PStore) (pa n : Nat) : Bool := decide (e.pa < pa + n) && decide (pa < e.pa + e.bytes.length)

/-- The byte a viewer reads: the last visible store in the order of its byte, else memory. -/
def Compute.byteFor (c : Compute) (v : Viewer) (pa : Nat) : Byte :=
  c.pend.foldl (fun acc e => if e.visible v then (e.byteAt pa).getD acc else acc) (memGet c.mem pa)

def Compute.readFor (c : Compute) (v : Viewer) (pa n : Nat) : List Byte := (List.range n).map fun i => c.byteFor v (pa + i)

/-- Reading marks the stores it saw (R244, cumulativity). -/
def Compute.markSeen (c : Compute) (v : Viewer) (pa n : Nat) : Compute :=
  { c with pend := c.pend.map fun e =>
      if e.overlaps pa n && e.visible v && e.owner != v.party && !e.seen.contains v.party then
        { e with seen := v.party :: e.seen } else e }

/-- Every store raised to a level where `p` holds. -/
def Compute.raise (c : Compute) (p : PStore → Bool) (lvl : Nat) : Compute :=
  { c with pend := c.pend.map fun e => if p e && decide (e.lvl < lvl) then { e with lvl := lvl } else e }

/-- An earlier access of the same party. -/
def PStore.older (q e : PStore) : Bool := q.owner == e.owner && decide (q.id < e.id)

/-- A store becomes visible at a scope, and with it the earlier stores of its party: to the cluster all of them (R247), beyond
it those that share a byte (R248). -/
def Compute.expose (c : Compute) (lvl : Nat) (e : PStore) : Compute :=
  (c.raise (fun q => q.red.isNone && q.older e) (min lvl 2)).raise
    (fun q => q.id == e.id || (q.red.isNone && q.older e && q.overlaps e.pa e.bytes.length)) lvl

/-- The stores that meet a test become visible at a scope. -/
def Compute.exposeAll (c : Compute) (p : PStore → Bool) (lvl : Nat) : Compute :=
  (c.pend.filter fun e => e.red.isNone && p e).foldl (fun c e => c.expose lvl e) c

/-- A party that reads stores of its block sees them no sooner than the cluster does: a store becomes visible there to every
party at once (R244). -/
def Compute.observe (c : Compute) (v : Viewer) (pa n : Nat) : Compute :=
  (c.markSeen v pa n).exposeAll (fun e => e.overlaps pa n && e.visible v && e.owner != v.party) 2

/-- Stores that every observer sees, with no older one at their bytes, are memory. -/
def retireList : List PStore → List PStore → List Host.Cell → List PStore × List Host.Cell
  | keep, [], m => (keep, m)
  | keep, e :: es, m =>
    if e.lvl ≥ 4 && e.red.isNone && !keep.any (·.overlaps e.pa e.bytes.length) then retireList keep es (memWrite m e.pa e.bytes)
    else retireList (keep ++ [e]) es m

def Compute.retire (c : Compute) : Compute :=
  let r := retireList [] c.pend c.mem
  { c with pend := r.1, mem := r.2 }

/-- The new word of an atomic (R223), and its flags. -/
def atomStep (op : AtomOp) (old x y : Word) : Word × Flags :=
  match op with
  | .addS32 | .addN32 => (old + x, {})
  | .addF32 => redStep .add .f32 old x
  | .minS32 => redStep .min .s32 old x
  | .minN32 => redStep .min .n32 old x
  | .minF32 => redStep .min .f32 old x
  | .maxS32 => redStep .max .s32 old x
  | .maxN32 => redStep .max .n32 old x
  | .maxF32 => redStep .max .f32 old x
  | .and => (old &&& x, {})
  | .or => (old ||| x, {})
  | .xor => (old ^^^ x, {})
  | .xchg => (x, {})
  | .cas => (if old = x then y else old, {})
  | .argmax => redStep .argmax .raw32 old x

/-- The format of an atomic (R223). -/
def atomFmt (op : AtomOp) : Fmt :=
  match op with
  | .addS32 | .minS32 | .maxS32 => F.s32
  | .addN32 | .minN32 | .maxN32 => F.n32
  | .addF32 | .minF32 | .maxF32 => F.f32
  | _ => F.raw32

def wordOf (bs : List Byte) : Word := BitVec.ofNat 32 (leNat bs)
def bytesOf (w : Word) : List Byte := leBytes 4 w.toNat

/-- The word as the coherence point has it, once older stores at its bytes have reached it. -/
def Compute.latest (c : Compute) (pa n : Nat) : List Byte :=
  (List.range n).map fun i =>
    c.pend.foldl (fun acc e => if e.red.isNone then (e.byteAt (pa + i)).getD acc else acc) (memGet c.mem (pa + i))

/-- The scope an atomic reaches: its cluster, or the system (R216). -/
def atomLvl (sys : Bool) : Nat := if sys then 4 else 2

/-- The release that an atomic leaves at its word (R233), which `w` names as race detection does (R242). -/
def Compute.leave (c : Compute) (ctx : Nat) (w : Nat × Nat) (sys : Bool) (hw : Nat) (f : Frontier) : Compute :=
  let same (r : AtomRel) : Bool := r.ctx == ctx && r.pos == w.1 && r.at' == w.2 && r.sys == sys && r.hw == hw
  let old := ((c.atomFront.find? same).map (·.front)).getD []
  { c with atomFront := put same ⟨ctx, w.1, w.2, sys, hw, frontJoin old f⟩ c.atomFront }

/-- What an atomic acquires from the earlier ones of its word, where both scopes hold both parties (R216, R233). -/
def Compute.taken (c : Compute) (ctx : Nat) (w : Nat × Nat) (sys : Bool) (hw : Nat) : Frontier :=
  c.atomFront.foldl (fun f r =>
    if r.ctx == ctx && r.pos == w.1 && r.at' == w.2 && ((sys && r.sys) || r.hw == hw) then frontJoin f r.front else f) []

/-- Performing a reduction: at its scope's coherence point, after the older stores of its word, and not ahead of an earlier
store of its party (R247, R248: st→red is kept). -/
def Compute.performRed (c : Compute) (id : Nat) : Compute × Option (WKey × Flags) :=
  match c.pend.find? (·.id == id) with
  | some e =>
    match e.red with
    | some (op, x, sys) =>
      let c1 := c.exposeAll (fun q => q.overlaps e.pa 4 || q.older e) (atomLvl sys)
      let r := atomStep op (wordOf (c1.latest e.pa 4)) x 0
      let e' := { e with bytes := bytesOf r.1, red := none, lvl := max e.lvl (atomLvl sys), rel := none }
      let c2 := match e.rel with
        | some (pos, a, f) => c1.leave e.ctx (pos, a) sys e.hw f
        | none => c1
      ({ c2 with pend := c2.pend.filter (·.id != id) ++ [e'] }, some (e.wk, r.2))
    | none => (c, none)
  | none => (c, none)

/-- FSTAT flags raised in a warp (R93). -/
def State.raiseIn (s : State) (k : WKey) (f : Flags) : State := s.modWarp k fun w => { w with fstat := raiseFstat w.fstat f }

def State.performRed (s : State) (id : Nat) : State :=
  match s.c.performRed id with
  | (c, some (k, f)) => ({ s with c := c } : State).raiseIn k f
  | (c, none) => { s with c := c }

/-- Performing every reduction that meets a test, oldest first. -/
def State.performReds (s : State) (p : PStore → Bool) : State :=
  ((s.c.pend.filter fun e => e.red.isSome && p e).map (·.id)).foldl State.performRed s

/-- Every access at some bytes performed for the whole system (an engine's write, the host's access). -/
def State.settle (s : State) (pa n : Nat) : State :=
  (s.performReds (·.overlaps pa n)).modC fun c => (c.exposeAll (·.overlaps pa n) 4).retire

/-- A write by the device itself or an engine: performed everywhere. A whole sector repairs an error (R410). -/
def State.devWrite (s : State) (pa : Nat) (bs : List Byte) : State :=
  (s.settle pa bs.length).modC fun c =>
    { c with mem := memWrite c.mem pa bs
             bad := c.bad.filter fun k => !(decide (pa ≤ 32 * k) && decide (32 * k + 32 ≤ pa + bs.length)) }

/-- Reading as the management processor and the host do: what the whole system sees. -/
def State.devRead (s : State) (pa n : Nat) : List Byte := memRead s.c.mem pa n

/-- What a release to a scope carries to it: the party's own stores, those it has seen, and those that happen
before it (R234, R244). -/
def Viewer.carries (v : Viewer) (e : PStore) : Bool :=
  e.owner == v.party || e.seen.contains v.party || before v.front e.owner e.epoch

/-- A release, fence or atomic of a scope performs at it what the party must make visible. DEDUCED: log entry 65. -/
def State.publish (s : State) (v : Viewer) (lvl : Nat) : State :=
  (s.performReds v.carries).modC fun c => (c.exposeAll v.carries lvl).retire

/-- What happens before a release that an atomic of a scope acquires is visible there (R234). -/
def State.reveal (s : State) (f : Frontier) (lvl : Nat) : State :=
  let q (e : PStore) : Bool := before f e.owner e.epoch
  (s.performReds q).modC fun c => (c.exposeAll q lvl).retire

/-! ## Race records (R235 to R240) -/

/-- A recorded access is current for X when it does not happen before X's access. -/
def Viewer.current (v : Viewer) (r : Party × Nat) : Bool := r.1 != v.party && !before v.front r.1 r.2

/-- Both parties lie in the scope of an atomic (R216, R231). -/
def scopeHolds (cl : Party → Nat) (sys : Bool) (x y : Party) : Bool := sys || (x.pkg == y.pkg && cl x == cl y)

/-- How an access counts: a read, a write, an atomic with its scope, a reduction with its scope. -/
inductive AccKind where
  | read | write
  | atom (sys : Bool)
  | red (sys : Bool) (op : AtomOp)
  deriving DecidableEq, Repr

def AccKind.writes : AccKind → Bool
  | .read => false
  | _ => true

def AccKind.reads : AccKind → Bool
  | .read | .atom _ => true
  | _ => false

def AccKind.scope : AccKind → Option Bool
  | .atom b | .red b _ => some b
  | _ => none

def Sector.fresh (pos sec ctx grid : Nat) : Sector :=
  { pos := pos, sec := sec, ctx := ctx, grid := grid, writer := none, weng := false, watom := none, readers := [],
    rcode := none, reds := [] }

/-- The record an access meets: a record of another context, or of a grid that has ended, counts as empty. -/
def State.sectorFor (s : State) (v : Viewer) (pos sec : Nat) : Sector :=
  match s.c.sectors.find? fun x => x.pos == pos && x.sec == sec with
  | some x => if x.ctx == v.ctx && (s.gridOf x.ctx x.grid).any (·.live) then x else .fresh pos sec v.ctx v.grid
  | none => .fresh pos sec v.ctx v.grid

/-- The writer conflicts: current, of another party, and not an atomic pair whose scopes hold both; `cl` is the cluster of a
party. -/
def Sector.writerClash (x : Sector) (cl : Party → Nat) (v : Viewer) (k : AccKind) : Option Party :=
  match x.writer with
  | some w =>
    if !v.current w then none
    else match x.watom, k.scope with
      | some a, some b => if scopeHolds cl (a && b) w.1 v.party then none else some w.1
      | _, _ => some w.1
  | none => none

/-- A reader mark that is current. -/
def Viewer.currentMark (v : Viewer) (r : ReadMark) : Bool := v.current (r.party, r.epoch)

/-- A conflict that race detection finds: the other party, whether it wrote, whether it was an engine's (R236). -/
def Sector.clash (x : Sector) (cl : Party → Nat) (v : Viewer) (k : AccKind) : Option (Party × Bool × Bool) :=
  match x.writerClash cl v k with
  | some p => some (p, true, x.weng)
  | none => if k.writes then (x.readers.find? v.currentMark).map fun r => (r.party, false, r.eng) else none

/-- RCODE and its reductions after a write that passes: any write but a reduction ends it, once it is ordered after every
reduction of the sector (R250). -/
def Sector.reduce (x : Sector) (v : Viewer) (k : AccKind) : Sector :=
  match k with
  | .red _ op => { x with rcode := some op, reds := put (·.1 == v.party) (v.party, v.epoch) x.reds }
  | _ => if x.reds.any v.current then x else { x with rcode := none, reds := [] }

/-- The record after an access that passes (R235). -/
def Sector.record (x : Sector) (v : Viewer) (k : AccKind) (eng : Bool) : Sector :=
  if k.writes then
    { x.reduce v k with ctx := v.ctx, grid := v.grid, writer := some (v.party, v.epoch), weng := eng, watom := k.scope,
                        readers := [] }
  else
    { x with ctx := v.ctx, grid := v.grid,
             readers := (x.readers.filter v.currentMark) ++ [⟨v.party, v.epoch, eng⟩] }

/-- The sectors of a range of bytes. -/
def sectorsOf (a n : Nat) : List Nat := if n = 0 then [] else (List.range ((a + n - 1) / 32 - a / 32 + 1)).map (a / 32 + ·)

def State.raceClash (s : State) (v : Viewer) (pos a n : Nat) (k : AccKind) : Option (Party × Bool × Bool) :=
  (sectorsOf a n).findSome? fun i => (s.sectorFor v pos i).clash s.c.clusterOf v k

def State.raceRecord (s : State) (v : Viewer) (pos a n : Nat) (k : AccKind) (eng : Bool) : State :=
  (sectorsOf a n).foldl (fun s i =>
    let x := (s.sectorFor v pos i).record v k eng
    s.modC fun c => { c with sectors := put (fun y => y.pos == pos && y.sec == i) x c.sectors }) s

/-- The entries of the read table that a sector takes: one for each party, where there are several (R238). -/
def Sector.entries (x : Sector) : Nat := if 2 ≤ x.readers.length then x.readers.length else 0

/-- The entries of a context's read table (R238). -/
def State.readTable (s : State) (ctx : Nat) : Nat := ((s.c.sectors.filter (·.ctx == ctx)).map (·.entries)).sum

/-- R238: reads of some sectors that need more entries than the context's table has left wait. -/
def State.tableFull (s : State) (v : Viewer) (secs : List (Nat × Nat)) : Bool :=
  let need (k : Nat × Nat) : Nat := let x := s.sectorFor v k.1 k.2; (x.record v .read false).entries - x.entries
  let more := (secs.eraseDups.map need).sum
  more != 0 && decide (2 ^ 20 < s.readTable v.ctx + more)

end Sys2Proof.Machine
end

