-- ==== Sys2Proof/Machine/Check.lean ====
section
/-! DEFINITION. The ordered checks of a lane's access (R220), stash windows (R213), and reading and writing by
threads. -/

namespace Sys2Proof.Machine

/-- Where a checked access lands: a stash byte of the position, or a byte of an object. -/
inductive Loc where
  | stash (b : Nat)
  | glob (obj off : Nat)
  deriving DecidableEq, Repr

/-- The outcome of the checks of a lane (R220). -/
inductive Checked where
  | trap (t : Trap)
  /-- Out of bounds under OOB = 1 (R209). -/
  | oob
  /-- A page fault on a paged object (R331). -/
  | fault (obj page : Nat)
  | wait (w : Wait)
  | ok (l : Loc)
  deriving DecidableEq, Repr

/-- TINFO of the causes 0x30–0x3D and 0x70 (R402). DEDUCED: log entry 30. -/
def memTrap (c : Cause) (obj off : Nat) : Trap :=
  { cause := c, info0 := BitVec.ofNat 32 (obj % 2 ^ 24), info1 := BitVec.ofNat 32 off,
    info2 := BitVec.ofNat 32 (off / 2 ^ 32 % 256) }

/-- MM_RACE with the other party, as read-back names it, and what its access was (R236, R402). -/
def State.raceTrap (s : State) (obj off : Nat) (x : Party × Bool × Bool) : Trap :=
  { memTrap .mmRace obj off with
    info3 := BitVec.ofNat 32 (s.partyBits x.1 + (if x.2.1 then 2 ^ 26 else 0) + (if x.2.2 then 2 ^ 27 else 0)) }

/-! ## Keys and errors -/

/-- The key domain of a physical address (R396): CXL memory stands from 2^43 up (log entry 20). -/
def domainOf (pa : Nat) : Nat := if 2 ^ 43 ≤ pa then 1 else 0

/-- DESIGN CHOICE: log entry 20. -/
def cxlPortOf (pa : Nat) : Nat := (pa - 2 ^ 43) / 2 ^ 41

/-- The Active slot of a domain of a paddock. -/
def Paddock.activeKey (p : Paddock) (dom : Nat) : Option Nat :=
  (p.keys.zipIdx.find? fun k => k.1.st == .active && k.1.dom == dom).map (·.2)

/-- A write needs an Active key of its domain (R397). -/
def State.keyWrite (s : State) (pad pa : Nat) : Bool := (s.padOf pad).any fun p => (p.activeKey (domainOf pa)).isSome

/-- A key slot of a paddock is Revoked. -/
def State.revoked (s : State) (pad slot : Nat) : Bool := ((s.padOf pad).bind (·.keys[slot]?)).any (·.st == .revoked)

/-- A read under a Revoked slot (R397). -/
def State.keyRead (s : State) (pa : Nat) : Bool :=
  match s.c.lineKey.find? fun k => k.1 == pa / 64 with
  | some k => !s.revoked k.2.1 k.2.2
  | none => true

/-- A line under a Revoked slot that is written in part: the bytes that the write leaves cannot be deciphered any more, and are
free. DESIGN CHOICE: log entry 161. -/
def State.loseRest (s : State) (line pa n : Nat) : State :=
  if s.keyRead (64 * line) then s
  else (List.range 64).foldl (fun s i =>
    if pa ≤ 64 * line + i && 64 * line + i < pa + n then s
    else let (b, s1) := s.drawByte; s1.devWrite (64 * line + i) [b]) s

/-- Lines written take the Active slot of their domain (R396). -/
def State.stampKey (s : State) (pad pa n : Nat) : State :=
  match (s.padOf pad).bind (·.activeKey (domainOf pa)) with
  | some slot =>
    let lines := (List.range ((pa + n - 1) / 64 - pa / 64 + 1)).map (pa / 64 + ·)
    (lines.foldl (fun s l => s.loseRest l pa n) s).modC fun c =>
      { c with lineKey := lines.foldl (fun l i => put (fun k => k.1 == i) (i, pad, slot) l) c.lineKey }
  | none => s

/-- A byte range without an uncorrectable error, on a CXL port that is up (R410, R427). -/
def State.sound (s : State) (pa n : Nat) : Bool :=
  !(s.c.bad.any fun k => decide (32 * k < pa + n) && decide (pa < 32 * k + 32))
    && (domainOf pa == 0 || !s.m.cxlDown.contains (cxlPortOf pa))

/-- The model's own addresses for errors of stash bytes and of Loft contents, beyond device memory (R410). DESIGN CHOICE: log
entry 145. -/
def stashAt (pos b : Nat) : Nat := 2 ^ 64 + 2 ^ 20 * pos + b

/-- DESIGN CHOICE: log entry 145. -/
def loftAt (pos slot col b : Nat) : Nat := 2 ^ 128 + 2 ^ 14 * (256 * (8 * pos + slot) + col) + b

/-- A stash byte range without an uncorrectable error. -/
def State.stashSound (s : State) (p : Position) (b n : Nat) : Checked :=
  if s.sound (stashAt p.id b) n then .ok (.stash b) else .trap (memTrap .ueRead 0 b)

/-! ## Stash windows (R213) -/

/-- The window of a position that holds a stash byte, with its number. -/
def Position.windowAt (p : Position) (b : Nat) : Option (Nat × Window) :=
  p.wins.zipIdx.findSome? fun w => match w.1 with
    | some x => if x.soff ≤ b ∧ b < x.soff + x.len then some (w.2, x) else none
    | none => none

def Window.lineOf (w : Window) (b : Nat) : Nat := (b - w.soff) / 64

def Window.st (w : Window) (line : Nat) : Option LineSt := w.lines.lookup line

def Window.setLine (w : Window) (line : Nat) (st : Option LineSt) : Window :=
  { w with lines := match st with
      | some x => (line, x) :: w.lines.filter (·.1 != line)
      | none => w.lines.filter (·.1 != line) }

/-- A fill of a line has been asked for. -/
def Window.wants (w : Window) (line : Nat) : Bool := w.want.any (·.1 == line)

def Position.modWin (p : Position) (n : Nat) (f : Window → Window) : Position :=
  { p with wins := p.wins.mapIdx fun i w => if i = n then w.map f else w }

/-- Where a window line lies in device memory. -/
def State.winPa (s : State) (p : Position) (w : Window) (line : Nat) (wr : Bool) : Option Nat :=
  ((s.ctxOf p.ctx).bind (·.objOf w.obj)).bind fun o => o.translate (w.goff + 64 * line) wr

/-- A Dirty line written back (R213): it becomes Clean. -/
def State.writeBack (s : State) (pos n line : Nat) : State :=
  match s.placeOf pos with
  | some p =>
    match (p.wins[n]?).getD none with
    | some w =>
      if w.st line == some .dirty then
        match s.winPa p w line true with
        | some pa =>
          ((s.devWrite pa (memRead p.stash (w.soff + 64 * line) 64)).stampKey (s.padOfCtx p.ctx) pa 64).modPos pos
            (·.modWin n (·.setLine line (some .clean)))
        | none => s.modPos pos (·.modWin n (·.setLine line (some .clean)))
      else s
    | none => s
  | none => s

/-- The 64-byte lines of device memory that a range of an object meets, by address ÷ 64. -/
def State.globalLines (s : State) (ctx obj off n : Nat) : List Nat :=
  match (s.ctxOf ctx).bind (·.objOf obj) with
  | none => []
  | some o =>
    if n = 0 then []
    else (List.range ((off + n - 1) / 64 - off / 64 + 1)).filterMap fun i => (o.place (64 * (off / 64 + i))).map (· / 64)

/-- Window lines that map some lines of device memory, through whatever object: position, window, line. -/
def State.linesAt (s : State) (gs : List Nat) : List (Nat × Nat × Nat) :=
  (s.c.positions ++ s.c.past).flatMap fun p =>
    p.wins.zipIdx.flatMap fun w => match w.1 with
      | some x => (x.lines.filter fun l => (s.winPa p x l.1 false).any fun pa => gs.contains (pa / 64)).map
          fun l => (p.id, w.2, l.1)
      | none => []

/-- Window lines that a global range meets. -/
def State.linesMet (s : State) (ctx obj off n : Nat) : List (Nat × Nat × Nat) := s.linesAt (s.globalLines ctx obj off n)

/-- An agent reads or writes what some window lines map (R213): Dirty lines are written back, and a write makes lines
Invalid. -/
def State.snoopLines (s : State) (wr : Bool) (ls : List (Nat × Nat × Nat)) : State :=
  ls.foldl (fun s l =>
    let s1 := s.writeBack l.1 l.2.1 l.2.2
    if wr then s1.modPos l.1 (·.modWin l.2.1 (·.setLine l.2.2 none)) else s1) s

/-- Another agent reads or writes global bytes (R213). -/
def State.snoop (s : State) (ctx obj off n : Nat) (wr : Bool) : State := s.snoopLines wr (s.linesMet ctx obj off n)

/-- A write of a stash byte on a window line is a write of its global line, to every other window (R213, R242). -/
def State.snoopOthers (s : State) (p : Position) (b : Nat) : State :=
  match p.windowAt b with
  | none => s
  | some (k, w) =>
    match s.winPa p w (w.lineOf b) false with
    | none => s
    | some pa => s.snoopLines true ((s.linesAt [pa / 64]).filter (· != (p.id, k, w.lineOf b)))

/-! ## Lent lines (R190) -/

/-- Stash lines of a position that chains in flight hold. -/
def State.lentLines (s : State) (pos : Nat) : List Nat :=
  s.c.ops.flatMap fun o => match o.kind with
    | .chain c => if o.pos == pos then c.lent else []
    | _ => []

/-! ## The checks (R220) -/

/-- A write range of the block covers a byte (R251). -/
def Block.owns (b : Block) (obj off n : Nat) : Bool :=
  b.own.any fun r => r.obj == obj && decide (r.first ≤ off) && decide (off + n ≤ r.first + r.len)

/-- What an access is, for its checks. -/
structure AccReq where
  handle : BitVec 128
  i : Nat
  o : Nat
  n : Nat
  align : Nat
  wr : Bool
  /-- Check 8: the deterministic mode's own refusal. -/
  ban : Bool := false
  /-- A write that reads what it changes. -/
  rmw : Bool := false
  deriving DecidableEq, Repr

/-- Checks 1 and 2, on a record as a whole. -/
def State.checkRec (s : State) (ctx : Nat) (r : BitVec 128) (off : Nat) (wr : Bool) : Option Trap :=
  if recStash r then (if wr && recRo r then some (memTrap .permission 0 off) else none)
  else
    match (s.ctxOf ctx).bind (·.objOf (recObj r)) with
    | none => some (memTrap .objectInvalid (recObj r) off)
    | some o =>
      if o.exo || (wr && (recRo r || !o.wr)) then some (memTrap .permission (recObj r) off) else none

/-- The global offset that a stash byte of a window maps. -/
def Window.globalOff (w : Window) (b : Nat) : Nat := w.goff + (b - w.soff)

/-- Check 2 for a write into a window mapped read-only. -/
def Position.roWindow (p : Position) (b : Nat) : Option Trap :=
  (p.windowAt b).bind fun w => if w.2.ro then some (memTrap .permission w.2.obj (w.2.globalOff b)) else none

/-- Checks 5 and 6: the stage's allocation, and lent lines. -/
def State.checkAlloc (s : State) (p : Position) (limit b n : Nat) (wr : Bool) : Option Trap :=
  if limit < b + n then some (memTrap .stashUndeclared 0 b)
  else if wr && (s.lentLines p.id).contains (b / 64) then some (memTrap .lentWrite 0 b)
  else none

/-- Checks 9 to 11 of a stash range: a line of a window that is Invalid is filled first (R213), and its fill may fail. -/
def State.checkLine (s : State) (p : Position) (b n : Nat) : Checked :=
  match p.windowAt b with
  | none => s.stashSound p b n
  | some (k, w) =>
    match w.st (w.lineOf b) with
    | some _ => s.stashSound p b n
    | none =>
      match s.winPa p w (w.lineOf b) false with
      | none =>
        if ((s.ctxOf p.ctx).bind (·.objOf w.obj)).any (·.paged) && !w.failed.contains (w.lineOf b) then .wait (.window k)
        else .trap (memTrap .pageFaultFatal w.obj (w.globalOff b))
      | some pa =>
        if !s.keyRead pa then .trap (memTrap .keyRevoked w.obj (w.globalOff b))
        else if !s.sound pa 64 then .trap (memTrap .ueRead w.obj (w.globalOff b))
        else .wait (.window k)

/-- The stash check of a byte range: read-only windows, allocation, lent lines, fills. -/
def State.checkStash (s : State) (p : Position) (limit b n : Nat) (wr : Bool) : Checked :=
  match (if wr then p.roWindow b else none).or (s.checkAlloc p limit b n wr) with
  | some t => .trap t
  | none => s.checkLine p b n

/-- Where an error in the state that a position holds is marked, and one in a table of the Stile: 0 interests, 1 routes, 2 filter,
3 pen slots (R410). DESIGN CHOICE: log entry 162. -/
def heldAt (pos : Nat) : Nat := 2 ^ 192 + 32 * pos
def stileAt (table : Nat) : Nat := 2 ^ 224 + 32 * table

/-- Checks 9 to 11 on bytes of an object; a write under a Revoked slot takes the Active key, unless it reads as well (R397). -/
def State.checkMem (s : State) (ctx : Nat) (obj off n : Nat) (wr rmw : Bool) : Checked :=
  match (s.ctxOf ctx).bind (·.objOf obj) with
  | none => .trap (memTrap .objectInvalid obj off)
  | some o =>
    match o.translate off wr with
    | none =>
      if o.paged then .fault obj (off / 2 ^ 16) else .trap (memTrap .pageFaultFatal obj off)
    | some pa =>
      if (wr && !s.keyWrite (s.padOfCtx ctx) pa) || ((!wr || rmw) && !s.keyRead pa) then .trap (memTrap .keyRevoked obj off)
      else if !s.sound pa n then .trap (memTrap .ueRead obj off)
      else .ok (.glob obj off)

/-- Checks 1 to 11 of a lane, in order. `limit` is the stage's stash allocation in bytes. -/
def State.checkLane (s : State) (p : Position) (b : Block) (det : Bool) (limit : Nat) (q : AccReq) : Checked :=
  let r := q.handle
  let off := recAddr r q.i q.o
  match (s.checkRec p.ctx r off q.wr).or (if recStash r && q.wr then p.roWindow off else none) with
  | some t => .trap t
  | none =>
    if !recInBounds r q.i q.o q.n then (if recOob r then .oob else .trap (memTrap .bounds (recObj r) off))
    else if off % q.align != 0 then .trap (memTrap .misaligned (recObj r) off)
    else if recStash r then
      match s.checkAlloc p limit off q.n q.wr with
      | some t => .trap t
      | none => if q.ban then .trap (memTrap .detViolation 0 off) else s.checkLine p off q.n
    else if det && q.wr && !b.owns (recObj r) off q.n then .trap (memTrap .ownership (recObj r) off)
    else if q.ban then .trap (memTrap .detViolation (recObj r) off)
    else s.checkMem p.ctx (recObj r) off q.n q.wr q.rmw

/-- Where the records of an object's bytes stand that no extent covers: an engine operation may issue before its page has
come (R241). They go to the page once an extent covers it (`State.seatRaces`). -/
def unmappedAt (ctx obj : Nat) : Nat := 2 ^ 64 + 2 ^ 24 * ctx + obj

def State.globalAt (s : State) (ctx obj off : Nat) : Nat × Nat :=
  match ((s.ctxOf ctx).bind (·.objOf obj)).bind (·.seat off) with
  | some pa => (0, pa)
  | none => (unmappedAt ctx obj, off)

/-- Where a location counts for race detection (R242): device address, or stash byte of the position. -/
def State.raceAt (s : State) (p : Position) (l : Loc) : Nat × Nat :=
  match l with
  | .glob obj off => s.globalAt p.ctx obj off
  | .stash b =>
    match p.windowAt b with
    | some (_, w) => s.globalAt p.ctx w.obj (w.globalOff b)
    | none => (p.id, b)

/-- A record that comes to a sector, over the one that stands there: its writer is the later one, and the readers of both
are kept. -/
def Sector.atop (x y : Sector) : Sector :=
  { x with writer := x.writer.or y.writer
           weng := if x.writer.isSome then x.weng else y.weng
           watom := if x.writer.isSome then x.watom else y.watom
           readers := x.readers ++ y.readers.filter fun r => !x.readers.any (·.party == r.party)
           rcode := x.rcode.or y.rcode
           reds := x.reds ++ y.reds.filter fun r => !x.reds.any (·.1 == r.1) }

/-- One record moved to its page. -/
def seatRace (o : Obj) (l : List Sector) (x : Sector) : List Sector :=
  match o.seat (32 * x.sec) with
  | none => l
  | some pa =>
    let y : Sector := { x with pos := 0, sec := pa / 32 }
    let there (z : Sector) : Bool := z.pos == 0 && z.sec == pa / 32
    put there (((l.find? there).map y.atop).getD y) (l.filter (· != x))

/-- Records of bytes that an extent covers by now move to it. -/
def State.seatRaces (s : State) (ctx obj : Nat) : State :=
  match (s.ctxOf ctx).bind (·.objOf obj) with
  | none => s
  | some o => s.modC fun c =>
      { c with sectors := (c.sectors.filter fun x => x.pos == unmappedAt ctx obj).foldl (seatRace o) c.sectors }

/-- The object and offset that a race at a location is reported at: its sector's (R236, R242). -/
def Position.racePlace (p : Position) (l : Loc) : Nat × Nat :=
  match l with
  | .glob obj off => (obj, off / 32 * 32)
  | .stash b =>
    match p.windowAt b with
    | some (_, w) => (w.obj, w.globalOff b / 32 * 32)
    | none => (0, b / 32 * 32)

/-- Check 12: race detection, unless the record is untracked in ordinary mode (R239, R250). -/
def State.checkRace (s : State) (v : Viewer) (p : Position) (r : BitVec 128) (l : Loc) (n : Nat) (k : AccKind) :
    Option Trap :=
  if recUntr r && !v.det then none
  else
    let (pos, a) := s.raceAt p l
    (s.raceClash v pos a n k).map fun x => s.raceTrap (p.racePlace l).1 (p.racePlace l).2 x

def State.recordRace (s : State) (v : Viewer) (p : Position) (r : BitVec 128) (l : Loc) (n : Nat) (k : AccKind)
    (eng : Bool) : State :=
  if recUntr r && !v.det then s
  else
    let (pos, a) := s.raceAt p l
    s.raceRecord v pos a n k eng

/-! ## TLBs (R328, R330) -/

def TlbEnt.covers (e : TlbEnt) (ctx obj off : Nat) : Bool :=
  e.ctx == ctx && e.obj == obj && decide (e.off * 2 ^ 16 ≤ off) && decide (off < e.off * 2 ^ 16 + pageBytes e.psz)

/-- The entry of the page that holds an offset, as a walk finds it. -/
def Obj.entry (o : Obj) (ctx off : Nat) : Option TlbEnt :=
  (o.extentAt off).map fun e =>
    let page := (off - e.first) / pageBytes e.psz * (pageBytes e.psz / 2 ^ 16)
    { ctx := ctx, obj := o.id, off := e.off + page, psz := e.psz, pa := e.pa + page, w := e.w, gen := o.gen }

/-- Of two generations, a is newer than b (R329). -/
def genNewer (a b : Nat) : Bool := a != b && decide ((a + 2 ^ 32 - b) % 2 ^ 32 < 2 ^ 31)

/-- What a lookup in one TLB finds: the entry it uses, whether two of one generation were hit, and what the TLB keeps (R330). -/
structure TlbHit where
  ent : Option TlbEnt
  twice : Bool
  rest : List TlbEnt
  deriving DecidableEq, Repr

/-- R330: of the entries hit the newest is used, and the others leave; two of one generation both leave. -/
def tlbLook (ctx obj off : Nat) (l : List TlbEnt) : TlbHit :=
  let hits := l.filter fun e => e.covers ctx obj off
  let best := hits.filter fun e => !hits.any fun x => genNewer x.gen e.gen
  match best with
  | [e] => ⟨some e, false, l.filter fun x => x == e || !x.covers ctx obj off⟩
  | [] => ⟨none, false, l⟩
  | _ => ⟨none, true, l.filter fun x => !x.covers ctx obj off⟩

/-- An entry taken into a TLB of `n` entries. DESIGN CHOICE: log entry 9. -/
def tlbTake (n : Nat) (e : TlbEnt) (l : List TlbEnt) : List TlbEnt := (e :: l).take n

/-- Both levels looked up for an offset, and filled by the walk where both miss (R328): the core's TLB, the cluster's, and how
often two entries of one generation were hit. DESIGN CHOICE: log entry 9. -/
def tlbStep (o : Obj) (ctx off : Nat) (l1 l2 : List TlbEnt) : List TlbEnt × List TlbEnt × Nat :=
  let a := tlbLook ctx o.id off l1
  match a.ent with
  | some _ => (a.rest, l2, 0)
  | none =>
    let b := tlbLook ctx o.id off l2
    let n := a.twice.toNat + b.twice.toNat
    match b.ent.or (o.entry ctx off) with
    | some e => (tlbTake 64 e a.rest, if b.ent.isSome then b.rest else tlbTake 4096 e b.rest, n)
    | none => (a.rest, b.rest, n)

/-- A thread's access translates: both levels hold its page from then on. Which entries are kept affects only time. The second
part is the count of corrected errors that the lookup met. DESIGN CHOICE: log entry 9. -/
def State.useTlb (s : State) (p : Position) : Loc → State × Nat
  | .stash _ => (s, 0)
  | .glob obj off =>
    match (s.ctxOf p.ctx).bind (·.objOf obj), s.coreOf p.core with
    | some o, some k =>
      let cl := clusterOf p.core
      let (l1, l2, n) := tlbStep o p.ctx off k.tlb ((s.c.l2tlb.lookup cl).getD [])
      ((s.modCore p.core fun c => { c with tlb := l1 }).modC fun c => { c with l2tlb := put (·.1 == cl) (cl, l2) c.l2tlb }, n)
    | _, _ => (s, 0)

/-- Entries that meet a test leave every TLB. -/
def State.dropTlb (s : State) (q : TlbEnt → Bool) : State :=
  s.modC fun c => { c with cores := c.cores.map fun k => { k with tlb := k.tlb.filter fun e => !q e }
                           l2tlb := c.l2tlb.map fun x => (x.1, x.2.filter fun e => !q e) }

/-- A hardware cluster that passes to another paddock: its TLBs are cleared. -/
def State.clearTlb (s : State) (cluster : Nat) : State :=
  s.modC fun c => { c with cores := c.cores.map fun k => if clusterOf k.id == cluster then { k with tlb := [], victims := [] } else k
                           l2tlb := c.l2tlb.filter (·.1 != cluster) }

/-! ## Reading and writing by a thread -/

/-- An access that comes before a viewer's: its own party's (R245, same-address), or one that happens before it (R234). -/
def Viewer.follows (v : Viewer) (e : PStore) : Bool := e.owner == v.party || before v.front e.owner e.epoch

/-- The accesses at some bytes that come before a viewer's are performed for it: reductions, and stores as far as its cluster
or the grid (R234). -/
def State.gather (s : State) (v : Viewer) (pa n : Nat) : State :=
  let q (e : PStore) : Bool := e.overlaps pa n && before v.front e.owner e.epoch
  (s.performReds fun e => e.overlaps pa n && v.follows e).modC fun c =>
    (c.exposeAll (fun e => q e && e.hw == v.hw) 2).exposeAll (fun e => q e && e.hw != v.hw) 3

/-- Reading at a checked location: what comes before the read has reached it first. -/
def State.readLoc (s : State) (v : Viewer) (p : Position) (l : Loc) (n : Nat) : List Byte × State :=
  match l with
  | .stash b => (((s.posOf p.id).map fun q => memRead q.stash b n).getD [], s)
  | .glob obj off =>
    match ((s.ctxOf p.ctx).bind (·.objOf obj)).bind (·.translate off false) with
    | some pa =>
      let s1 := (s.snoop p.ctx obj off n false).gather v pa n
      (s1.c.readFor v pa n, s1.modC fun c => c.observe v pa n)
    | none => ([], s)

/-- Writing into a position's stash: a mapped line becomes Dirty, and engines may not see it yet (R194, R230). -/
def State.writeStash (s : State) (v : Viewer) (pos b : Nat) (bs : List Byte) : State :=
  let (id, s0) := s.fresh
  let s1 := match s0.posOf pos with
    | some p => s0.snoopOthers p b
    | none => s0
  s1.modPos pos fun p =>
    let old := memRead p.stash b bs.length
    let p1 := { p with
      stash := memWrite p.stash b bs
      unfenced := p.unfenced ++ old.zipIdx.map fun (x : Byte × Nat) => (⟨id, v.party, v.epoch, b + x.2, x.1, false⟩ : Unfenced) }
    match p1.windowAt b with
    | some (k, w) => p1.modWin k (·.setLine (w.lineOf b) (some .dirty))
    | none => p1

/-- Writing at a checked location: a store to memory is visible to its block at once (R246). -/
def State.writeLoc (s : State) (v : Viewer) (p : Position) (l : Loc) (bs : List Byte) : State :=
  match l with
  | .stash b => s.writeStash v p.id b bs
  | .glob obj off =>
    match ((s.ctxOf p.ctx).bind (·.objOf obj)).bind (·.translate off true) with
    | some pa =>
      let s1 := (s.snoop p.ctx obj off bs.length true).performReds fun e => e.overlaps pa bs.length && v.follows e
      let (id, s2) := s1.fresh
      (s2.stampKey (s.padOfCtx p.ctx) pa bs.length).modC fun c => { c with pend := c.pend ++ [
        { id := id, owner := v.party, epoch := v.epoch, ctx := v.ctx, wk := v.wk, hw := v.hw, pa := pa, bytes := bs,
          red := none, lvl := 1, clus := [], seen := [], fence := 0, rel := none }] }
    | none => s

end Sys2Proof.Machine
end

