-- ==== Sys2Proof/Machine/Views.lean ====
section
/-! DEFINITION. Views and merges (R127 to R134): declared reductions, merging children's views, and opening and
closing divergence records within a warp. -/

namespace Sys2Proof.Machine

/-! ## Merges (R131) -/

/-- The tags a declared `add`, `min` or `max` accepts. -/
def redTag (f : Fmt) : Option RedFmt :=
  if f == F.f32 then some .f32 else if f == F.s32 then some .s32 else if f == F.n32 then some .n32 else none

def stepTV (op : RedOp) (x y : TV) : Option (TV × Flags) :=
  if x.tag == y.tag then
    (redTag x.tag).map fun f => let r := redStep op f x.val y.val; (⟨r.1, x.tag⟩, r.2)
  else none

def bitTV (op : Word → Word → Word) (x y : TV) : TV := ⟨op x.val y.val, if x.tag == y.tag then x.tag else F.raw32⟩

/-- One step of a declared reduction, by its code (R75): none where the values count as disagreeing. -/
def declStep (code : Nat) (x y : TV) : Option (TV × Flags) :=
  match code with
  | 1 => stepTV .add x y
  | 2 => stepTV .min x y
  | 3 => stepTV .max x y
  | 4 => some (bitTV (· &&& ·) x y, {})
  | 5 => some (bitTV (· ||| ·) x y, {})
  | 6 => some (bitTV (· ^^^ ·) x y, {})
  | 7 => some (if unsignedLe y.val x.val then x else y, {})
  | _ => none

/-- The left fold of R111. -/
def foldDecl (code : Nat) (x : TV) (fl : Flags) : List TV → Option (TV × Flags)
  | [] => some (x, fl)
  | y :: ys =>
    match declStep code x y with
    | some (r, g) => foldDecl code r (fl.join g) ys
    | none => none

/-- The result of the children that wrote a register, in order; none when they disagree (R131). -/
def mergeVals (code : Nat) : List TV → Option (TV × Flags)
  | [] => none
  | x :: xs => if xs.all (fun y => decide (y = x)) then some (x, {}) else foldDecl code x {} xs

/-- The registers that some view holds, each once. -/
def keysOf (vs : List (List ViewEnt)) : List (Spec × Nat) :=
  (vs.flatten.map fun e => (e.reg, e.sub)).eraseDups

/-- What a merge gives: the entries that pass to the parent, the flags of its f32 steps, and whether some register
disagreed. -/
structure Merged where
  ents : List ViewEnt
  flags : Flags
  bad : Bool
  deriving DecidableEq, Repr

def mergeViews (red : Spec → Nat) (children : List (List ViewEnt)) : Merged :=
  (keysOf children).foldl (fun m k =>
    match mergeVals (red k.1) (children.filterMap fun v => viewGet v k.1 k.2) with
    | some (x, fl) => { m with ents := m.ents ++ [⟨k.1, k.2, x⟩], flags := m.flags.join fl }
    | none => { m with bad := true }) ⟨[], {}, false⟩

/-- The declared reduction of a register (R75, R76). -/
def redCode (k : Kernel) (sc : StageCode) (s : Spec) : Nat :=
  let f (n : Nat) (b : BitVec n) (i : Nat) : Nat := (b.extractLsb' (3 * i) 3).toNat
  match s with
  | .x i => f 48 sc.xred i.toNat
  | .w i => f 96 sc.wred i.toNat
  | .b i => f 96 sc.bred i.toNat
  | .c i => f 48 k.cred i.toNat
  | .g i => f 48 k.gred i.toNat
  | _ => 0

/-! ## Arms and records (R127) -/

/-- Lowest lane of a list; arms are ordered by it. -/
def lowest (l : List Nat) : Nat := l.min?.getD 128

def Warp.live (w : Warp) (lane : Nat) : Bool := (w.threads[lane]?).any fun t => t.st != .exited

/-- A thread that runs or waits in its arm: it is not done with the clause of a trap record (R403). -/
def Warp.going (w : Warp) (lane : Nat) : Bool :=
  (w.threads[lane]?).any fun t => t.st != .exited && t.st != .parked .trapRecord

/-- An arm that no open record suspends. -/
def Warp.leaf (w : Warp) (tag : Nat) : Bool := !w.recs.any (·.parent == tag)

/-- The leaf arm of a lane. -/
def Warp.armOfLane (w : Warp) (lane : Nat) : Option Arm := w.arms.find? fun a => w.leaf a.tag && a.lanes.contains lane

/-- The arms of a record, in arm order: by the lowest thread that is left. An arm whose threads have all exited stands
last. DESIGN CHOICE: log entry 140. -/
def Warp.childrenOf (w : Warp) (r : Nat) : List Arm :=
  sortBy (fun a b => decide (lowest a.lanes ≤ lowest b.lanes)) (w.arms.filter (·.inRec == some r))

/-- An arm tag that no live arm of the warp has. -/
def Warp.freeTag (w : Warp) : Nat :=
  (((List.range 256).map fun i => (w.nextTag + i) % 256).find? fun t => !w.arms.any (·.tag == t)).getD 0

/-- One child arm of a new record: a fresh tag and a fresh epoch, after the fork (R232, R233). -/
def Warp.addArm (w : Warp) (r : Nat) (f : Frontier) (lanes : List Nat) : Warp :=
  let t := w.freeTag
  { w with
    arms := w.arms ++ [⟨t, some r, lanes, none, [], false, w.epoch + 1, f⟩]
    nextTag := t + 1
    epoch := w.epoch + 1 }

/-- A record opened under an arm, with one child for each group of lanes; the branch is the arm's release (R233). -/
def Warp.openRec (w : Warp) (arm : Nat) (groups : List (List Nat)) (trap : Bool) : Warp :=
  match w.armOf arm with
  | none => w
  | some a =>
    let f := a.release (partyOf w arm)
    let w0 := w.tick arm
    let w1 := { w0 with
      recs := w.recs ++ [⟨w.nextRec, arm, trap⟩]
      nextRec := w.nextRec + 1
      arms := upd (·.tag == arm) (fun a => { a with slot := false }) w0.arms }
    (sortBy (fun x y => decide (lowest x ≤ lowest y)) groups).foldl (fun u g => u.addArm w.nextRec f g) w1

/-- Lanes grouped by where they stand. -/
def groupByPc (w : Warp) (lanes : List Nat) : List (List Nat) :=
  let pc (l : Nat) : Nat := ((w.threads[l]?).map (·.pc)).getD 0
  ((lanes.map pc).eraseDups).map fun k => lanes.filter fun l => pc l == k

/-- The views of a record's arms merged into its parent (R128, R131), and the record closed. The parent follows every
arm's end (R233) under a fresh epoch. -/
def Warp.closeRec (w : Warp) (red : Spec → Nat) (r : Rec) : Warp × Merged :=
  let kids := w.childrenOf r.id
  let m := mergeViews red (kids.map (·.view))
  let f := kids.foldl (fun f a => frontJoin f (a.release (partyOf w a.tag))) []
  let w1 := { w with arms := w.arms.filter (·.inRec != some r.id), recs := w.recs.filter (·.id != r.id) }
  let w2 := w1.acquire r.parent f
  let w3 := m.ents.foldl (fun u e => u.putScope r.parent e) w2
  let w4 := w3.modArm r.parent fun a => { a with lanes := a.lanes.filter w.live, slot := false, arrived := none }
  ({ w4 with fstat := raiseFstat w4.fstat m.flags }, m)

/-- Records below an arm, innermost first. -/
def Warp.recsBelow (w : Warp) : Nat → Nat → List Rec
  | 0, _ => []
  | fuel + 1, tag =>
    (w.recs.filter (·.parent == tag)).flatMap fun r =>
      ((w.childrenOf r.id).flatMap fun a => w.recsBelow fuel a.tag) ++ [r]

/-- A trap record above an arm or over it: the arm, or an ancestor, is a child of one. -/
def Warp.inTrap (w : Warp) (tag : Nat) : Bool :=
  (w.chain 18 tag).any fun a => (a.inRec.bind w.recOf).any (·.trap)

def Thread.inHandler (t : Thread) : Bool := t.tstate.getLsbD 7

end Sys2Proof.Machine
end

