-- ==== Sys2Proof/Machine/Events.lean ====
section
/-! DEFINITION. The event log (R258, R259), the fault ring (R331 to R333), copy tags (R214), and reading and writing
an object's bytes as the device does. -/

namespace Sys2Proof.Machine

/-! ## Bytes of an object -/

/-- The bytes of a range, each at its own page; none where one does not translate. -/
def State.objRead (s : State) (ctx obj off n : Nat) : Option (List Byte) :=
  match (s.ctxOf ctx).bind (·.objOf obj) with
  | none => none
  | some o =>
    let ps := (List.range n).map fun i => o.translate (off + i) false
    if ps.all (·.isSome) then some (ps.map fun p => memGet s.c.mem (p.getD 0)) else none

/-- A sector written whole holds good data (R410). DEDUCED: log entry 67. -/
def State.repair (s : State) (pa : Nat) : State := s.modC fun c => { c with bad := c.bad.filter (· != pa / 32) }

/-- The sectors of a span, written whole. -/
def State.repairSpan (s : State) (pa n : Nat) : State := (List.range (n / 32)).foldl (fun s k => s.repair (pa + 32 * k)) s

/-- The sectors of a range of an object that lie wholly within it are repaired. DEDUCED: log entry 67. -/
def State.repairRange (s : State) (place : Nat → Option Nat) (off n : Nat) : State :=
  (List.range n).foldl (fun s i =>
    if (off + i) % 32 == 0 && decide (i + 32 ≤ n) then
      match place (off + i) with
      | some pa => s.repair pa
      | none => s
    else s) s

/-- The device's own write of a range of an object, performed everywhere. -/
def State.objWrite (s : State) (ctx obj off : Nat) (bs : List Byte) : State :=
  match (s.ctxOf ctx).bind (·.objOf obj) with
  | none => s
  | some o =>
    (bs.zipIdx.foldl (fun s b => match o.translate (off + b.2) true with
      | some pa => (s.devWrite pa [b.1]).stampKey (s.padOfCtx ctx) pa 1
      | none => s) (s.snoop ctx obj off bs.length true)).repairRange (o.translate · true) off bs.length

/-- Every store at a range of an object performed: an engine or the device is about to read it. -/
def State.objSettle (s : State) (ctx obj off n : Nat) : State :=
  match (s.ctxOf ctx).bind (·.objOf obj) with
  | none => s
  | some o => (List.range n).foldl (fun s i => match o.translate (off + i) false with
      | some pa => s.settle pa 1
      | none => s) (s.snoop ctx obj off n false)

/-! ## The event log -/

/-- What an event record states (R259). -/
structure Event where
  src : Nat
  kind : Nat
  cause : Nat := 0
  object : Nat := 0
  offset : Nat := 0
  synd : Nat := 0
  party : Nat := 0
  detail : Nat := 0
  deriving DecidableEq, Repr

/-- The syndrome class of a record: an event whose cause is UE_READ is of an error met by a read (R398). -/
def Event.errClass (e : Event) : Nat := if e.cause == Cause.ueRead.code.toNat then 3 else e.synd

/-- The 64 bytes of a record. -/
def Event.bytes (e : Event) (sq pad : Nat) : List Byte :=
  leBytes 64 (e.src + e.kind * 2 ^ 8 + e.cause * 2 ^ 16 + (sq % 2 ^ 32) * 2 ^ 32 + (e.object % 2 ^ 24) * 2 ^ 64
    + (e.offset % 2 ^ 40) * 2 ^ 88 + e.errClass * 2 ^ 128 + pad * 2 ^ 136 + e.party * 2 ^ 144 + e.detail * 2 ^ 192)

/-- log2 of the records of a log: values outside lo to hi read as `dflt`. -/
def logSize (n lo hi dflt : Nat) : Nat := if lo ≤ n ∧ n ≤ hi then n else dflt

def Ctx.evObj (c : Ctx) : Nat := (c.evcfg.extractLsb' 0 24).toNat
def Ctx.evLogn (c : Ctx) : Nat := logSize (c.evcfg.extractLsb' 24 5).toNat 6 20 6

/-- The bytes of an object: what it was created with, or what its extents span. -/
def Obj.bytes (o : Obj) : Nat := min o.size (o.ext.foldl (fun m e => max m (e.first + e.bytes)) 0)

/-- An object a log or ring may use: one of the context, large enough (R258, R332), and no installed code, which is never
written (R81). -/
def Ctx.ringObj (c : Ctx) (id bytes : Nat) : Option Obj :=
  if id = 0 then none else (c.objOf id).bind fun o => if !o.exo && decide (bytes ≤ o.bytes) then some o else none

/-- The next SEQ of a source. -/
def Ctx.evSeqOf (c : Ctx) (src : Nat) : Nat := (c.evseq.lookup src).getD 0

def Ctx.bumpSeq (c : Ctx) (src : Nat) : Ctx :=
  { c with evseq := put (·.1 == src) (src, c.evSeqOf src + 1) c.evseq }

/-- An event dropped: LOST counts it and stops at its maximum (R258). -/
def Ctx.loseEvent (c : Ctx) : Ctx := { c with evlost := min (c.evlost + 1) (2 ^ 21 - 1) }

/-- The signal of a context that gained a record (R425). -/
def State.signal (s : State) (ctx : Nat) : State :=
  if (s.ctxOf ctx).any (·.signal) then s
  else (s.modCtx ctx fun c => { c with signal := true }).modM fun m =>
    { m with vectors := m.vectors ++ [1 + ctx % 2047] }

/-- Vector 0: the paddock interrupt, and what the management processor has to tell (R425). DEDUCED: log entry 167. -/
def State.interrupt (s : State) : State := s.modM fun m => { m with vectors := m.vectors ++ [0] }

/-- An event posted to a context's log, or dropped and counted (R258, R259); one of the management processor raises vector 0. -/
def State.post (s : State) (ctx : Nat) (e : Event) : State :=
  let s := if e.src = 58 then s.interrupt else s
  match s.ctxOf ctx with
  | none => s
  | some c =>
    let size := 2 ^ c.evLogn
    let s1 := s.modCtx ctx (·.bumpSeq e.src)
    let off := 64 * (c.evw % size)
    match c.ringObj c.evObj (64 * size) with
    | none => s1.modCtx ctx (·.loseEvent)
    | some o =>
      if size ≤ (c.evw + 2 ^ 21 - c.evr) % 2 ^ 21 || !o.translates off 64 true then s1.modCtx ctx (·.loseEvent)
      else
        ((s1.objWrite ctx o.id off (e.bytes (c.evSeqOf e.src) c.pad)).modCtx ctx fun c =>
          { c with evw := (c.evw + 1) % 2 ^ 21 }).signal ctx

/-- An event to every context of a paddock that is not Free. -/
def State.postPad (s : State) (pad : Nat) (e : Event) : State :=
  ((s.t.ctxs.filter fun c => c.pad == pad && c.st != .free).map (·.id)).foldl (fun s c => s.post c e) s

/-- An error in a unit that no paddock holds, or in the Stile's own logic, is logged for the host alone (R398). -/
def State.tellHost (s : State) (src synd : Nat) : State :=
  s.interrupt.modM fun m => { m with hostLog := m.hostLog ++ [(src, synd)] }

/-- An error is told to the contexts of the paddocks that hold what is in error; with none, to the host (R398). -/
def State.tellPads (s : State) (pads : List Nat) (src synd : Nat) : State :=
  if pads.isEmpty then s.tellHost src synd else pads.foldl (fun s q => s.postPad q { src := src, kind := 7, synd := synd }) s

/-- The die dispatcher of a core (R259): 48 cores a die (R10). DEDUCED: log entry 117. -/
def dieSrc (core : Nat) : Nat := 1 + core / 48

/-- The cluster of a core as a source. DEDUCED: log entry 117. -/
def clusterSrc (core : Nat) : Nat := 33 + clusterOf core

/-! ## The fault ring (R332, R333) -/

def Ctx.fltObj (c : Ctx) : Nat := (c.fltcfg.extractLsb' 0 24).toNat
def Ctx.fltLogn (c : Ctx) : Nat := logSize (c.fltcfg.extractLsb' 24 5).toNat 4 16 4
def Ctx.fltTmo (c : Ctx) : Nat := logSize (c.fltcfg.extractLsb' 32 5).toNat 10 30 30

def FaultRec.bytes (f : FaultRec) : List Byte :=
  leBytes 32 (f.fid + (if f.wrf then 2 ^ 12 else 0) + (if f.eng then 2 ^ 13 else 0) + f.obj * 2 ^ 16
    + (f.page % 2 ^ 24) * 2 ^ 40 + f.src * 2 ^ 64 + f.core * 2 ^ 72 + f.party * 2 ^ 80)

/-- Writing the oldest record that waits, while the ring has room and its page translates: a fault is never dropped
(R332). -/
def State.flushFaults (s : State) (ctx : Nat) : State :=
  match s.ctxOf ctx with
  | none => s
  | some c =>
    let size := 2 ^ c.fltLogn
    match c.ringObj c.fltObj (32 * size), c.faults.find? fun f => !f.posted with
    | some o, some f =>
      if size ≤ (c.fltw + 2 ^ 17 - c.fltr) % 2 ^ 17 || !o.translates (32 * (c.fltw % size)) 32 true then s
      else
        ((s.objWrite ctx o.id (32 * (c.fltw % size)) f.bytes).modCtx ctx fun c =>
          { c with fltw := (c.fltw + 1) % 2 ^ 17,
                   faults := upd (·.fid == f.fid) (fun f => { f with posted := true }) c.faults }).signal ctx
    | _, _ => s

/-- Fault records written while the ring has room (R332). -/
def State.flushAll (s : State) (ctx : Nat) : Nat → State
  | 0 => s
  | n + 1 => (s.flushFaults ctx).flushAll ctx n

/-- Every fault record that waits, as far as the ring takes them now. -/
def State.flushWaiting (s : State) (ctx : Nat) : State := s.flushAll ctx (((s.ctxOf ctx).map (·.faults.length)).getD 0)

/-- Who met a fault, as its record says: SRC, CORE and PARTY (R333). -/
structure FaultBy where
  eng : Bool
  src : Nat
  core : Nat
  party : Nat
  deriving DecidableEq, Repr

/-- A fault that a core meets, for a thread or for an engine of its own. -/
def State.byCore (s : State) (eng : Bool) (core : Nat) (p : Party) : FaultBy := ⟨eng, clusterSrc core, core, s.partyBits p⟩

/-- A fault that a unit of the Stile meets: it names no core. -/
def State.byUnit (s : State) (src : Nat) (p : Party) : FaultBy := ⟨true, src, 0, s.partyBits p⟩

/-- What becomes of a fault on a paged object: a fault id to wait for, fatal at once, or a wait for a free id. -/
inductive Faulted where
  | fid (n : Nat)
  | fatal
  | noId
  deriving DecidableEq, Repr

/-- The unresolved record that a fault joins. -/
def Ctx.faultFor (c : Ctx) (obj page : Nat) (wr : Bool) : Option FaultRec :=
  c.faults.find? fun f => f.obj == obj && f.page == page && f.wrf == wr

/-- Posting a fault (R331 to R333). -/
def State.postFault (s : State) (ctx obj page : Nat) (wr : Bool) (b : FaultBy) : Faulted × State :=
  match s.ctxOf ctx with
  | none => (.fatal, s)
  | some c =>
    if (c.ringObj c.fltObj (32 * 2 ^ c.fltLogn)).isNone then (.fatal, s)
    else match c.faultFor obj page wr with
      | some f => (.fid f.fid, s)
      | none =>
        match (List.range 4096).find? fun n => !c.faults.any (·.fid == n) with
        | none => (.noId, s)
        | some n =>
          let f : FaultRec := { fid := n, obj := obj, page := page, wrf := wr, eng := b.eng, src := b.src,
                                core := b.core, party := b.party, posted := false, due := s.now + us (2 ^ c.fltTmo) }
          (.fid n, (s.modCtx ctx fun c => { c with faults := c.faults ++ [f] }).flushFaults ctx)

/-! ## Copy tags (R214) -/

def Position.modTag (p : Position) (i : Nat) (f : CTag → CTag) : Position :=
  { p with tags := p.tags.mapIdx fun j t => if j = i then f t else t }

/-- Issue of an operation on a tag, which is a release (R233). DEDUCED: log entry 121. -/
def CTag.issue (t : CTag) (f : Frontier) : CTag :=
  if t.count = 0 then ⟨1, false, none, frontJoin t.front f, t.gen + 1⟩
  else { t with count := t.count + 1, front := frontJoin t.front f, gen := t.gen + 1 }

/-- Completion of an operation, with a cause or without. -/
def CTag.complete (t : CTag) (c : Option Cause) : CTag :=
  match c with
  | none => { t with count := t.count - 1 }
  | some x => if t.tge then { t with count := t.count - 1 } else { t with count := t.count - 1, tge := true, cause := some x }

/-- The discard of a position leaves every tag done, TGE clear. -/
def CTag.cut (t : CTag) : CTag := { t with count := 0, tge := false, cause := none }

/-- Further releases that the completion of an operation carries to whoever acquires its tag. -/
def CTag.bring (t : CTag) (f : Frontier) : CTag := { t with front := frontJoin t.front f }

def State.completeTag (s : State) (pos tag : Nat) (c : Option Cause) : State := s.modPos pos (·.modTag tag (·.complete c))

/-- A frontier joined to the tags of an operation. -/
def State.bringOp (s : State) (o : EngOp) (f : Frontier) : State :=
  o.tags.foldl (fun s t => s.modPos o.pos (·.modTag t (·.bring f))) s

/-- Completing one tag of an operation, once. -/
def State.finishTag (s : State) (o : EngOp) (tag : Nat) (c : Option Cause) : State :=
  if o.tags.contains tag then
    (s.completeTag o.pos tag c).modOp o.id fun o => { o with tags := o.tags.erase tag }
  else s

/-- Completing every tag an operation still holds, and the operation. -/
def State.finishOp (s : State) (o : EngOp) (c : Option Cause) : State :=
  (o.tags.foldl (fun s t => s.completeTag o.pos t c) s).dropOp o.id

end Sys2Proof.Machine
end

