-- ==== Sys2Proof/Machine/Tasks.lean ====
section
/-! DEFINITION. Queues and tasks (R261 to R270): the records of a queue, entering it, notification, faulting and
cancelling. -/

namespace Sys2Proof.Machine

/-! ## The task record (R263) -/

def taskEobj (r : BitVec 512) : Nat := (r.extractLsb' 0 24).toNat
def taskEoff (r : BitVec 512) : Nat := (r.extractLsb' 32 32).toNat
def taskArg (r : BitVec 512) : Nat := (r.extractLsb' 64 64).toNat
def taskT0 (r : BitVec 512) : Nat := (r.extractLsb' 128 16).toNat
def taskT1 (r : BitVec 512) : Nat := (r.extractLsb' 144 16).toNat
def taskT2 (r : BitVec 512) : Nat := (r.extractLsb' 160 16).toNat
def taskSucc (r : BitVec 512) : Nat := (r.extractLsb' 192 64).toNat
def taskNsucc (r : BitVec 512) : Nat := (r.extractLsb' 256 8).toNat
def taskArmed (r : BitVec 512) : Nat := (r.extractLsb' 264 8).toNat
def taskState (r : BitVec 512) : Nat := (r.extractLsb' 276 4).toNat
def taskTdn (r : BitVec 512) : Bool := r.getLsbD 280
def taskNdone (r : BitVec 512) : Nat := (r.extractLsb' 405 8).toNat
def taskPrio (r : BitVec 512) : Nat := (r.extractLsb' 272 3).toNat
def taskTid (r : BitVec 512) : Word := r.extractLsb' 288 32
def taskRtime (r : BitVec 512) : Nat := (r.extractLsb' 320 64).toNat
def taskQueue (r : BitVec 512) : Nat := (r.extractLsb' 384 10).toNat
def taskType (r : BitVec 512) : Nat := (r.extractLsb' 400 4).toNat
def taskTimed (r : BitVec 512) : Bool := r.getLsbD 404

/-- A reserved bit of a record that enters is set (R263). -/
def taskReserved (r : BitVec 512) : Bool :=
  r.extractLsb' 24 8 != 0 || r.extractLsb' 176 16 != 0 || r.getLsbD 275 || r.extractLsb' 281 7 != 0
    || r.extractLsb' 394 6 != 0 || r.extractLsb' 413 99 != 0

/-- A field of a record replaced. -/
def putField (r : BitVec 512) (lo w v : Nat) : BitVec 512 :=
  let m : BitVec 512 := BitVec.ofNat 512 ((2 ^ w - 1) * 2 ^ lo)
  (r &&& ~~~ m) ||| BitVec.ofNat 512 ((v % 2 ^ w) * 2 ^ lo)

/-- TIMED as an `enq` sets it (R277). -/
def putTimed (r : BitVec 512) (b : Bool) : BitVec 512 := putField r 404 1 b.toNat

/-! ## States of a record (R266) -/

def tsArmed : Nat := 1
def tsTimed : Nat := 2
def tsReady : Nat := 3
def tsRunning : Nat := 4
def tsDone : Nat := 5
def tsFaulted : Nat := 6
def tsCancelled : Nat := 7
def tsCredit : Nat := 8

/-- Void, Done and Cancelled slots count as free. -/
def QSlot.free (q : QSlot) : Bool := q.state == 0 || q.state == tsDone || q.state == tsCancelled

/-- The record as its store holds it: the fields that hardware writes brought up to date. -/
def QSlot.image (q : QSlot) : BitVec 512 :=
  putField (putField (putField (putField q.word 264 8 q.armed) 276 4 q.state) 280 1 q.tdn.toNat) 405 8 q.ndone

/-- A record as its store holds it now (R261); a STATE that is never held leaves the one the Drover gave it. DEDUCED: log entry 147. -/
def QSlot.reload (q : QSlot) (r : BitVec 512) : QSlot :=
  { q with word := r, armed := taskArmed r, state := if taskState r ≤ tsCredit then taskState r else q.state,
           tdn := taskTdn r, ndone := taskNdone r }

/-- The 64 bytes of a slot, where its store can be written and read. -/
def State.recordBytes (s : State) (q : Queue) (i : Nat) : Option (List Byte) :=
  if ((s.ctxOf q.ctx).bind (·.objOf q.store)).any fun o => o.translates (64 * i) 64 true then s.objRead q.ctx q.store (64 * i) 64
  else none

/-- A slot of which the Drover has written nothing yet: a record that stands in the store there is one of the queue's. -/
def State.strangeSlot (s : State) (q : Queue) (i : Nat) : Option QSlot :=
  (s.recordBytes q i).bind fun bs =>
    let r := BitVec.ofNat 512 (leNat bs)
    if taskState r = 0 || tsCredit < taskState r then none
    else some (({ idx := i, word := 0, state := 0, armed := 0, tdn := false, ndone := 0, readyAt := 0, front := [] } : QSlot).reload r)

/-- The records of a queue live in its store (R261); one whose store does not translate stands as it was written. DEDUCED: log entry 147. -/
def State.reload (s : State) (q : Queue) : Queue :=
  { q with slots := (q.slots.map fun x => match s.recordBytes q x.idx with
        | some bs => x.reload (BitVec.ofNat 512 (leNat bs))
        | none => x)
      ++ ((List.range (2 ^ q.logn)).filter fun i => !q.slots.any (·.idx == i)).filterMap (s.strangeSlot q) }

/-- A queue with its records as its store holds them. -/
def State.liveQueue (s : State) (id : Nat) : Option Queue := (s.queueOf id).map s.reload
def State.liveQueues (s : State) : List Queue := s.t.queues.map s.reload

def Queue.slotAt (q : Queue) (i : Nat) : Option QSlot := q.slots.find? (·.idx == i)

/-- The lowest free slot. -/
def Queue.freeSlot (q : Queue) : Option Nat :=
  (List.range (2 ^ q.logn)).find? fun i => match q.slotAt i with
    | some x => x.free
    | none => true

def Queue.freeCount (q : Queue) : Nat := 2 ^ q.logn - (q.slots.filter fun x => !x.free).length

/-- The record a queue holds for a task id, other than Done, Cancelled and Credit ones. -/
def Queue.held (q : Queue) (tid : Word) : Option QSlot :=
  q.slots.find? fun x => taskTid x.word == tid && !x.free && x.state != tsCredit

/-- The record of a task id in any state but Credit: a held one first, else the one kept in the lowest slot. -/
def Queue.known (q : Queue) (tid : Word) : Option QSlot :=
  (q.held tid).or (q.slots.find? fun x => taskTid x.word == tid && x.state != 0 && x.state != tsCredit)

/-- Writing a slot, and its image into the store (R261). -/
def State.putSlot (s : State) (q : Nat) (x : QSlot) : State :=
  match s.queueOf q with
  | none => s
  | some qu =>
    let s1 := s.modQueue q fun qu => { qu with slots := put (·.idx == x.idx) x qu.slots }
    s1.objWrite qu.ctx qu.store (64 * x.idx) (leBytes 64 x.image.toNat)

/-- The moment at which records become Ready passes: those of one moment stand at the same count. -/
def State.tickReady (s : State) : State := s.modT fun t => { t with moment := t.moment + 1 }

/-- A record at ARMED 0: to the Starter, unless its time has come, or Ready (R267, R271). -/
def State.ripe (s : State) (x : QSlot) : QSlot :=
  if taskTimed x.word && decide (s.time < taskRtime x.word) then { x with state := tsTimed }
  else { x with state := tsReady, readyAt := s.t.moment }

/-! ## The ready order (R270) -/

/-- The kernel of an installed code object. -/
def State.kernelAt (s : State) (ctx obj eoff : Nat) : Option Kernel :=
  (s.codeOf ctx obj).bind fun c => if c.st == .installed then c.kernelOf eoff else none

/-- R270's order of the Ready records of a context. -/
def readyBefore (a b : Nat × QSlot) : Bool :=
  let x := a.2
  let y := b.2
  if taskPrio x.word != taskPrio y.word then decide (taskPrio y.word < taskPrio x.word)
  else if x.readyAt != y.readyAt then decide (x.readyAt < y.readyAt)
  else if taskTid x.word != taskTid y.word then decide ((taskTid x.word).toNat < (taskTid y.word).toNat)
  else decide (a.1 ≤ b.1)

/-- The Ready records of the queues that are not Stopped, in order. -/
def State.readySlots (s : State) (ctx : Nat) : List (Nat × QSlot) :=
  sortBy readyBefore ((s.liveQueues.filter fun q => q.ctx == ctx && !q.stopped && !q.dying).flatMap fun q =>
    (q.slots.filter fun x => x.state == tsReady).map fun x => (q.id, x))

/-! ## Entering a queue (R265) -/

/-- EOBJ is an installed code object of the context with a kernel at EOFF. -/
def State.namesKernel (s : State) (ctx obj eoff : Nat) : Bool :=
  (s.codeOf ctx obj).any fun c => c.st == .installed && (c.kernelOf eoff).isSome

/-- The checks of R265, in order: the slot a record may take, or the cause that refuses it. -/
def State.accept (s : State) (q : Queue) (r : BitVec 512) : Except Cause Nat :=
  if taskReserved r || taskTid r == 0xFFFFFFFF#32 || !s.namesKernel q.ctx (taskEobj r) (taskEoff r)
      || (taskNsucc r != 0 && taskSucc r % 8 != 0) || taskArg r % 64 != 0 then .error .taskBad
  else if (q.held (taskTid r)).isSome then .error .taskDup
  else
    -- a credit for the record is consumed first, and its slot is free then (R268)
    match q.slots.find? fun x => x.state == tsCredit && taskTid x.word == taskTid r with
    | some c => .ok (match q.freeSlot with
        | some i => min i c.idx
        | none => c.idx)
    | none =>
      match q.freeSlot with
      | some i => .ok i
      | none => .error .queueFull

/-- A record entering its queue: credits lower ARMED, and at 0 it is Timed or Ready (R267, R268). -/
def State.enter (s : State) (q : Queue) (r : BitVec 512) (slot : Nat) (f : Frontier) : State :=
  let credits := q.slots.filter fun x => x.state == tsCredit && taskTid x.word == taskTid r
  let s1 := credits.foldl (fun s x => s.putSlot q.id { x with state := 0 }) s
  let armed := taskArmed r - credits.length
  let f1 := credits.foldl (fun f x => frontJoin f x.front) f
  let x : QSlot := { idx := slot, word := r, state := tsArmed, armed := armed, tdn := false, ndone := 0, readyAt := 0,
                     front := f1 }
  s1.putSlot q.id (if armed = 0 then s1.ripe x else x)

/-! ## Notification (R268, R278) -/

/-- A decrement of one entry of a successor list: none when a credit finds no slot. -/
def State.decrement (s : State) (q : Nat) (tid : Word) (f : Frontier) : Option State :=
  match s.liveQueue q with
  | none => some s
  | some qu =>
    match qu.held tid with
    | some x =>
      if x.state == tsArmed then
        let y := { x with armed := x.armed - 1, front := frontJoin x.front f }
        some (s.putSlot q (if y.armed = 0 then s.ripe y else y))
      else some s
    | none =>
      if (qu.known tid).isSome then some s
      else match qu.freeSlot with
        | some i =>
          some (s.putSlot q { idx := i, word := putField 0 288 32 tid.toNat, state := tsCredit, armed := 0, tdn := false,
                              ndone := 0, readyAt := 0, front := f })
        | none => none

/-- The page of a paged object that the successor list of a task needs and cannot reach (R331). -/
def State.succFault (s : State) (ctx : Nat) (r : BitVec 512) : Option (Nat × Nat) :=
  let obj := taskSucc r / 2 ^ 40
  let off := taskSucc r % 2 ^ 40
  match (s.ctxOf ctx).bind (·.objOf obj) with
  | none => none
  | some o =>
    if o.exo || !o.paged || decide (2 ^ 40 < off + 8 * taskNsucc r) then none
    else ((List.range (8 * taskNsucc r)).find? fun i => (o.translate (off + i) false).isNone).map fun i =>
      (obj, (off + i) / 2 ^ 16)

/-- Entries of a successor list: task id and queue (R264). -/
def succEntries (bs : List Byte) : Nat → List (Word × Nat × Bool)
  | 0 => []
  | n + 1 =>
    let e := leNat (bs.take 8)
    (BitVec.ofNat 32 e, e / 2 ^ 32 % 2 ^ 10, decide (e / 2 ^ 42 = 0)) :: succEntries (bs.drop 8) n

/-- The whole list read and checked before any decrement (R278); `clash` is check 12 of R220 for a lane that reads. -/
def State.succList (s : State) (ctx : Nat) (r : BitVec 512) (clash : Nat → Nat → Option Trap) : Except Trap (List (Word × Nat)) :=
  let n := taskNsucc r
  let obj := taskSucc r / 2 ^ 40
  let off := taskSucc r % 2 ^ 40
  if n = 0 then .ok []
  else
    match (s.ctxOf ctx).bind (·.objOf obj) with
    | none => .error (memTrap .objectInvalid obj off)
    | some o =>
      if o.exo then .error (memTrap .permission obj off)
      else if 2 ^ 40 < off + 8 * n then .error (memTrap .bounds obj off)
      else
        match (List.range (8 * n)).find? fun i => (o.translate (off + i) false).isNone with
        | some i => .error (memTrap .pageFaultFatal obj (off + i))
        | none =>
          let s1 := s.objSettle ctx obj off (8 * n)
          match (List.range n).find? fun i => !((o.translate (off + 8 * i) false).any s1.keyRead) with
          | some i => .error (memTrap .keyRevoked obj (off + 8 * i))
          | none =>
            match (List.range n).find? fun i => !((o.translate (off + 8 * i) false).any fun pa => s1.sound pa 8) with
            | some i => .error (memTrap .ueRead obj (off + 8 * i))
            | none =>
            match (List.range n).findSome? fun i => clash obj (off + 8 * i) with
            | some t => .error t
            | none =>
              let es := succEntries ((s1.objRead ctx obj off (8 * n)).getD []) n
              if es.any fun e => !e.2.2 then .error { cause := .taskBad }
              else if es.any fun e => !((s.queueOf e.2.1).any (·.ctx == ctx)) then .error { cause := .queueInvalid }
              else .ok (es.map fun e => (e.1, e.2.1))

/-- Decrements from an entry on: how many stand, and whether all did. -/
def State.decrements (s : State) (f : Frontier) : List (Word × Nat) → Nat → State × Nat × Bool
  | [], n => (s, n, true)
  | (tid, q) :: rest, n =>
    match s.decrement q tid f with
    | some s1 => s1.decrements f rest (n + 1)
    | none => (s, n, false)

/-- The notification of a task from entry NDONE on (R268): its new state, or the cause that failed it, with the
decrements that stand. -/
def State.notify (s : State) (q slot : Nat) (f : Frontier) (clash : Nat → Nat → Option Trap) : State × Option Trap :=
  match s.liveQueue q with
  | none => (s, none)
  | some qu =>
    match qu.slotAt slot with
    | none => (s, none)
    | some x =>
      if x.tdn then (s, none)
      else
        match s.succList qu.ctx x.word clash with
        | .error t => (s, some t)
        | .ok es =>
          let (s1, n, all) := s.decrements f (es.drop x.ndone) x.ndone
          let cur := ((s1.liveQueue q).bind (·.slotAt slot)).getD x
          ((s1.putSlot q { cur with ndone := n, tdn := all }).tickReady, if all then none else some { cause := .queueFull })

/-! ## Faulting and cancelling (R267, R269) -/

def taskDetail (q : Nat) (r : BitVec 512) : Nat := (taskTid r).toNat + q * 2 ^ 32

/-- A task becomes Faulted, with its event of KIND 3. -/
def State.faultTask (s : State) (q slot : Nat) (c : Cause) : State :=
  match s.liveQueue q with
  | none => s
  | some qu =>
    match qu.slotAt slot with
    | none => s
    | some x =>
      (s.putSlot q { x with state := tsFaulted }).post qu.ctx
        { src := 5, kind := 3, cause := c.code.toNat, detail := taskDetail q x.word }

/-- Successors of a record that a cancellation reaches, when its list can be read. -/
def State.succOf (s : State) (ctx : Nat) (r : BitVec 512) : List (Word × Nat) :=
  match s.succList ctx r (fun _ _ => none) with
  | .ok es => es
  | .error _ => []

/-- Propagation of a cancellation, depth first, in list order; a record reached twice is cancelled once. -/
def State.cancelList (s : State) (ctx : Nat) : Nat → List (Word × Nat) → State
  | 0, _ => s
  | _, [] => s
  | fuel + 1, (tid, q) :: rest =>
    match (s.liveQueue q).bind (·.held tid) with
    | some x =>
      if x.state == tsArmed || x.state == tsTimed || x.state == tsReady then
        (s.putSlot q { x with state := tsCancelled }).cancelList ctx fuel (s.succOf ctx x.word ++ rest)
      else s.cancelList ctx fuel rest
    | none => s.cancelList ctx fuel rest

/-- Every record of the context may be cancelled once, each adding at most 255 entries. -/
def State.cancelFuel (s : State) (ctx : Nat) : Nat :=
  256 * (1 + ((s.t.queues.filter (·.ctx == ctx)).map fun q => q.slots.length).sum)

/-- Retry (R269) of a Faulted task: Ready as of now. None when the task is not Faulted. -/
def State.retryTask (s : State) (q : Nat) (tid : Word) : Option State :=
  match (s.liveQueue q).bind (·.held tid) with
  | some x => if x.state == tsFaulted then some ((s.putSlot q { x with state := tsReady, readyAt := s.t.moment }).tickReady) else none
  | none => none

/-- Cancel (R269) of a Faulted task. -/
def State.cancelTask (s : State) (q : Nat) (tid : Word) : Option State :=
  match s.liveQueue q with
  | none => none
  | some qu =>
    match qu.held tid with
    | some x =>
      if x.state == tsFaulted then
        some ((s.putSlot q { x with state := tsCancelled }).cancelList qu.ctx (s.cancelFuel qu.ctx)
          (s.succOf qu.ctx x.word))
      else none
    | none => none

end Sys2Proof.Machine
end

