-- ==== Sys2Proof/Machine/Ops.lean ====
section
/-! DEFINITION. The shared operations of the machine: discarding a position (R309) and ending a grid (R287, R407),
TAKING A TRAP (R399 to R407) and returning from one (R418), joins and trap records (R137, R403), barriers (R315,
R316), and the exit of threads (R180). -/

namespace Sys2Proof.Machine

/-! ## Code and clauses (R49, R51) -/

def StageCode.wordAt (c : StageCode) (off : Nat) : Option Dword := c.words[off / 8]?

/-- CNT + 1 of the header at an offset. -/
def StageCode.count (c : StageCode) (hdr : Nat) : Nat := ((c.wordAt hdr).map fun w => (w.extractLsb' 52 4).toNat + 1).getD 1

/-- The header after a clause (R49). -/
def StageCode.nextHeader (c : StageCode) (hdr : Nat) : Nat := hdr + 8 * (c.count hdr + 1)

def StageCode.isHeader (c : StageCode) (off : Nat) : Bool :=
  (c.wordAt off).any fun w => w.extractLsb' 56 8 == 0xFF#8

/-- Region entries: the first clause and every IDEM clause, in ascending offset (R308). -/
def StageCode.regions (c : StageCode) : List Nat :=
  0 :: (c.words.zipIdx.filterMap fun w =>
    if w.2 != 0 && w.1.extractLsb' 56 8 == 0xFF#8 && w.1.getLsbD 48 then some (8 * w.2) else none)

/-- A thread released from the instruction it waits on goes on after it (R294). -/
def Thread.stepPast (sc : StageCode) (t : Thread) : Thread :=
  if t.idx + 1 < sc.count t.pc then { t with st := .ready, idx := t.idx + 1, mid := true }
  else t.enterClause (sc.nextHeader t.pc)

/-! ## Packets -/

/-- Threads of a warp that wait go on past their instruction; a clause that so ends clears the block's watchdog (R306). -/
def State.goOn (s : State) (wk : WKey) (sc : StageCode) (q : Thread → Bool) : State :=
  let ends := (s.warpOf wk).any fun w => w.threads.any fun t => q t && decide (sc.count t.pc ≤ t.idx + 1)
  let s1 := s.modWarp wk fun w => { w with threads := w.threads.map fun t => if q t then t.stepPast sc else t }
  if ends then s1.modBlock wk.pos wk.stage fun b => { b with dog := 0 } else s1

/-- Lanes taken out of the packets of a core; a packet without arms leaves its slot. -/
def CoreSt.dropLanes (c : CoreSt) (wk : WKey) (lanes : List Nat) : CoreSt :=
  { c with slots := c.slots.map fun p => p.bind fun p =>
      let arms := (p.arms.map fun a =>
        if a.wk == wk then { a with lanes := a.lanes.filter fun l => !lanes.contains l } else a).filter fun a =>
          !a.lanes.isEmpty
      if arms.isEmpty then none else some { p with arms := arms } }

/-- An arm of a packet takes a new tag. -/
def CoreSt.renameArm (c : CoreSt) (wk : WKey) (old new : Nat) : CoreSt :=
  { c with slots := c.slots.map fun p => p.map fun p =>
      { p with arms := p.arms.map fun a => if a.wk == wk && a.arm == old then { a with arm := new } else a } }

/-- A position's threads taken out of every packet. -/
def CoreSt.dropPos (c : CoreSt) (pos : Nat) : CoreSt :=
  { c with
    slots := c.slots.map fun p => p.bind fun p =>
      let arms := p.arms.filter (·.wk.pos != pos)
      if arms.isEmpty then none else some { p with arms := arms }
    turns := c.turns.map fun t => (t.1, t.2.1, t.2.2.1, t.2.2.2.filter (·.pos != pos))
    switched := c.switched.filter (·.pos != pos)
    log := c.log.filter (·.wk.pos != pos)
    fills := c.fills.filter (·.wk.pos != pos)
    hfills := c.hfills.filter (·.wk.pos != pos) }

/-! ## Discard of a position (R309) -/

/-- What becomes of a cancelled operation outside its core: an ask that waits is removed (R363), a message and a relay are
given up. -/
def State.cancelOp (s : State) (o : EngOp) : State :=
  let s1 := s.dropOp o.id
  match o.kind with
  | .ask .. => s1.modT fun t =>
      { t with interests := (t.interests.map fun i =>
                 { i with reqs := i.reqs.filter fun r => r.ask != some o.id }).filter fun i => !i.reqs.isEmpty }
  | .send .. | .recv .. => s1.modT fun t =>
      { t with sends := t.sends.filter (·.op != o.id), recvs := t.recvs.filter (·.op != o.id) }
  | .relay eng sq => s1.modT fun t =>
      { t with relays := (t.relays.map fun r =>
                 if r.eng == eng && r.seq == sq then { r with mems := r.mems.filter (·.op != o.id) } else r).filter fun r =>
                   !r.mems.isEmpty
               sends := t.sends.filter (·.op != o.id)
               recvs := t.recvs.filter (·.op != o.id) }
  | _ => s1

/-- An operation whose effect a discard does not cancel: the delivery of an ask goes on, and so does an open pen
slot's release (R363, R374). -/
def EngOp.outlives (o : EngOp) (t : Stile) : Bool :=
  match o.kind with
  | .ask .. => t.deliveries.any (·.op == o.id)
  | _ => false

def State.cancelOps (s : State) (pos : Nat) : State :=
  (s.c.ops.filter fun o => o.pos == pos).foldl (fun s o =>
    if o.outlives s.t then s.modOp o.id fun o => { o with tags := [] } else s.cancelOp o) s

/-- An operation that met a Stile table in error completes with TGE and MACHINE_CHECK (R410). -/
def State.breakOp (s : State) (o : EngOp) : State :=
  o.tags.foldl (fun s t => s.completeTag o.pos t (some .machineCheck)) (s.cancelOp o)

/-- Dirty lines of every window of a position written back (R213). -/
def State.writeBackAll (s : State) (pos : Nat) : State :=
  match s.placeOf pos with
  | none => s
  | some p =>
    (p.wins.zipIdx.flatMap fun w => match w.1 with
      | some x => x.lines.map fun l => (w.2, l.1)
      | none => []).foldl (fun s l => s.writeBack pos l.1 l.2) s

/-- The retire map's entry of an instance changed. -/
def Grid.modRetire (g : Grid) (lin : Nat) (f : Retire → Retire) : Grid :=
  { g with retire := upd (·.lin == lin) f g.retire }

/-- A block's region index, or its end, in the retire map (R292, R308). -/
def Retire.putBlock (r : Retire) (loc stage region : Nat) (ended : Bool) : Retire :=
  { r with blocks := put (fun b => b.1 == loc && b.2.1 == stage) (loc, stage, region, ended) r.blocks }

/-- Steps 1 and 2 of R309: issue stops, accesses issued complete, operations are cancelled, windows write back. -/
def State.stopPos (s : State) (p : Position) : State :=
  let s1 := s.modC fun c => { c with cores := c.cores.map (·.dropPos p.id) }
  let s2 := (s1.performReds fun e => e.wk.pos == p.id).writeBackAll p.id
  -- pen slots that the position owns are orphaned, Released ones too (R374)
  ((s2.modC fun c => (c.raise (fun e => e.wk.pos == p.id) 4).retire).cancelOps p.id).modT fun t =>
    { t with pens := t.pens.map fun x => if x.pos == some p.id then { x with pos := none } else x }

/-- Arrivals at `bar.c` and `bar.g` withdrawn, with what they released (R309, R316). -/
def State.withdraw (s : State) (p : Position) : State :=
  (s.modInst p.ctx p.grid p.inst fun i =>
    { i with arrC := i.arrC.filter fun a => a.1 != p.loc, fronts := i.fronts.filter fun a => a.1.1 != p.loc }).modGrid p.ctx
    p.grid fun g =>
      { g with arrG := g.arrG.filter fun a => !(a.1 == p.inst && a.2.1 == p.loc)
               fronts := g.fronts.filter fun a => !(a.1.1 == p.inst && a.1.2.1 == p.loc) }

/-- A block as its discard leaves it: FSTAT is kept for its restart (R310). -/
def Block.discarded (b : Block) : Block :=
  { b with fstats := b.warps.map fun w => (w.idx, w.fstat), warps := [], view := [], atC := [], atG := [],
           bars := b.bars.map fun _ => BarRes.idle }

/-- All that the arms of a position have done, and what happens before them. -/
def Position.whole (p : Position) : Frontier :=
  p.blocks.foldl (fun f b => b.warps.foldl (fun f w => w.arms.foldl (fun f a =>
    frontJoin f (a.release (partyOf w a.tag))) f) f) p.past

/-- Core pre-emption discards a position (R309): its resources are freed; grid position and region indices stay. -/
def State.discard (s : State) (pos : Nat) : State :=
  match s.posOf pos with
  | none => s
  | some p =>
    if p.st == .resident || p.st == .stopping then
      let s1 := (s.stopPos p).withdraw p
      let s2 := p.blocks.foldl (fun s b => s.modGrid p.ctx p.grid fun g =>
        g.modRetire p.inst fun r => r.putBlock p.loc b.stage b.region b.ended) s1
      s2.modPos pos fun p =>
        { p with st := .discarded, units := 0, lent := 0, drawn := 0, claims := [], stash := [], unfenced := [],
                 loft := [], acc := [], wins := [], tags := p.tags.map CTag.cut, rings := p.rings.map fun _ => Ring.init,
                 past := p.whole, blocks := p.blocks.map (·.discarded) }
    else s

/-! ## The end of a grid (R287, R407) -/

/-- Ids of removed objects that a live grid of the context may still name are not given out again (R325). -/
def State.withholdIds (s : State) (ctx : Nat) (ids : List Nat) : State :=
  let live := (s.c.grids.filter fun g => g.ctx == ctx && g.live).map (·.id)
  if live.isEmpty then s else s.modCtx ctx fun c => { c with gone := c.gone ++ ids.map fun i => (i, live) }

/-- A code object whose last grid has ended and whose removal was requested becomes Absent, with its data (R81,
R282). -/
def State.retireCode (s : State) (ctx code : Nat) : State :=
  match s.codeOf ctx code with
  | some c =>
    if c.st == .retiring && !(s.c.grids.any fun g => g.ctx == ctx && g.code == code && g.live) then
      let dead := c.id :: c.data
      ((s.modT fun t => { t with codes := t.codes.filter fun x => !(x.ctx == ctx && x.id == code) }).modCtx ctx fun x =>
        { x with objs := x.objs.filter fun o => !dead.contains o.id }).withholdIds ctx dead
    else s
  | none => s

/-- An Ending context whose last grid has ended and last object is gone becomes Free (R255); its queues, which belong
to it for their whole life (R261), go with it. -/
def State.retireCtx (s : State) (ctx : Nat) : State :=
  match s.ctxOf ctx with
  | some c =>
    if c.st == .ending && c.objs.isEmpty && !(s.c.grids.any fun g => g.ctx == ctx && g.live) then
      (s.modCtx ctx fun c => { c with st := .free }).modT fun t =>
        { t with queues := t.queues.filter (·.ctx != ctx), late := t.late.filter fun l => !(s.queueOf l.q).any (·.ctx == ctx) }
    else s
  | none => s

/-- A position that ends with operations in flight is kept for them. DESIGN CHOICE: log entry 159. -/
def Compute.keepPast (c : Compute) (p : Position) : Compute :=
  if c.ops.any (·.pos == p.id) then { c with past := c.past ++ [{ p with blocks := [] }] } else c

/-- The bit of a grid in the live bitmap clears; its id awaits the sweep; its accesses precede all later ones. -/
def State.closeGrid (s : State) (ctx grid : Nat) : State :=
  match s.gridOf ctx grid with
  | none => s
  | some g =>
    let s1 := (s.performReds fun e => e.ctx == ctx).modC fun c => (c.raise (fun e => e.ctx == ctx) 4).retire
    let mine (p : Position) : Bool := p.ctx == ctx && p.grid == grid
    let s2 := s1.modC fun c => let c := (c.positions.filter mine).foldl Compute.keepPast c
      { c with positions := c.positions.filter fun p => !mine p
               insts := c.insts.filter fun i => !(i.ctx == ctx && i.grid == grid)
               cores := c.cores.map fun k => { k with turns := k.turns.filter fun t => !(t.1 == ctx && t.2.1 == grid) } }
    let s3 := s2.modGrid ctx grid fun g => { g with live := false }
    let s4 := s3.modCtx ctx fun c =>
      { c with swept := c.swept ++ [grid]
               gone := (c.gone.map fun x => (x.1, x.2.filter (· != grid))).filter fun x => !x.2.isEmpty }
    (s4.retireCode ctx g.code).retireCtx ctx

/-- Where a fatal cause arose: for the KIND 0 event (R407). -/
structure Site where
  src : Nat
  party : Nat
  object : Nat
  offset : Nat
  deriving DecidableEq, Repr

/-- A queue that was destroyed is Free once no record is Running (R262). -/
def State.retireQueues (s : State) : State :=
  s.modT fun t => { t with queues := t.queues.filter fun q => !(q.dying && !((s.reload q).slots.any fun x => x.state == tsRunning)) }

/-- A grid ends on a fatal cause (R407). DEDUCED: log entry 128. -/
def State.endFatal (s : State) (ctx grid : Nat) (c : Cause) (w : Site) : State :=
  match s.gridOf ctx grid with
  | none => s
  | some g =>
    if !g.live then s
    else
      let ps := s.c.positions.filter fun p => p.ctx == ctx && p.grid == grid
      let s1 := ps.foldl (fun s p => if p.st == .resident || p.st == .stopping then s.stopPos p else s) s
      let told (s : State) : State := s.post ctx { src := w.src, kind := 0, cause := c.code.toNat, object := w.object,
                                                   offset := w.offset, party := w.party }
      let s3 := match g.task with
        | some (q, i) =>
          -- the events of KIND 0 and KIND 3 stand in the log in either order (R449)
          let (first, s2) := s1.drawWord
          if first.getLsbD 0 then told (s2.faultTask q i c) else (told s2).faultTask q i c
        | none => told s1
      (s3.closeGrid ctx grid).retireQueues

/-- A warp that has passed its last epoch, through whatever release or acquire (R240). -/
def State.spentWarp (s : State) : Option (Position × Warp) :=
  s.c.positions.findSome? fun p => p.blocks.findSome? fun b => (b.warps.find? (·.overspent)).map fun w => (p, w)

/-- The grid of such a warp ends: every thread of the warp traps, its lowest first (R240, R407). -/
def State.endSpent (s : State) (p : Position) (w : Warp) : State :=
  let arm := ((List.range w.threads.length).find? w.live).bind w.armOfLane
  s.endFatal p.ctx p.grid .epochExhausted ⟨clusterSrc p.core, s.partyBits (partyOf w (arm.elim 0 (·.tag))), 0, 0⟩

/-- A step whose release or acquire passes the last epoch of some warp does not take place: the grid ends on it (R240).
DEDUCED: log entry 40. -/
def State.unlessSpent (s after : State) : State :=
  match after.spentWarp with
  | some (p, w) => s.endSpent p w
  | none => after

/-! ## Taking a trap (R399 to R404) -/

/-- TSTATE of a trap at an instruction of a clause (R401). -/
def tstateOf (t : Trap) (idx : Nat) : Word :=
  BitVec.ofNat 32 (t.cause.code.toNat + 2 ^ 7 + (idx % 16) * 2 ^ 8 + t.halfB.toNat * 2 ^ 12 + t.tagc.toNat * 2 ^ 13)

/-- A thread stands at a clause header, its waits not yet tested. -/
def Thread.atHeader (t : Thread) : Bool := t.st == .ready && !t.mid

/-- A thread enters its handler: the trap state saved, IN set, Ready at the handler's first clause (R400). -/
def Thread.trapTo (t : Thread) (x : Trap) (handler : Nat) : Thread :=
  { t with st := .ready, pc := handler, idx := 0, mid := false, byp := [], tstate := tstateOf x t.idx,
           tpc := BitVec.ofNat 32 t.pc, tinfo0 := x.info0, tinfo1 := x.info1, tinfo2 := x.info2, tinfo3 := x.info3,
           stale := [], redo := x.cause == .progressWatchdog && t.atHeader }

/-- `tret` (R418): IN cleared, the thread back at its clause and instruction, or after it. The waits of the clause's header are
not tested again, but where the watchdog took the thread at the header (R306). -/
def Thread.trapReturn (t : Thread) (sc : StageCode) (next : Bool) : Thread :=
  let u := { t with st := .ready, pc := t.tpc.toNat, idx := (t.tstate.extractLsb' 8 4).toNat, mid := !t.redo, byp := [],
                    redo := false, tstate := t.tstate &&& ~~~(0x80 : Word) }
  if next then u.stepPast sc else u

/-- The threads of a warp that trap enter the handler. -/
def Warp.trapThreads (w : Warp) (ts : List (Nat × Trap)) (handler : Nat) : Warp :=
  { w with
    threads := w.threads.mapIdx fun i t =>
      match ts.lookup i with
      | some x => t.trapTo x handler
      | none => t }

/-- The cause a trap ends its grid on, if it does: a fatal cause, one without a handler, one inside a handler. DEDUCED: log entry 106. -/
def fatalCause (det : Bool) (handler : Option Nat) (t : Thread) (x : Trap) : Option Cause :=
  if t.inHandler then some .doubleTrap
  else if x.cause.fatal det || handler.isNone then some x.cause
  else none

/-- The object and offset that a trap of 0x30–0x3D or 0x70 names. -/
def Trap.place (x : Trap) : Nat × Nat :=
  let c := x.cause.code.toNat
  if (0x30 ≤ c && c ≤ 0x3D) || c == 0x70 then
    if x.tagc then (0, 0) else (x.info0.toNat, x.info1.toNat + 2 ^ 32 * x.info2.toNat)
  else (0, 0)

/-- The lanes of an arm that trap, split from those that go on: a record with two arms (R403). -/
def State.splitTrap (s : State) (wk : WKey) (p : Position) (arm : Arm) (ts : List Nat) (hdr : Nat) : State :=
  match s.warpOf wk with
  | none => s
  | some w =>
    let rest := arm.lanes.filter fun l => w.live l && !ts.contains l
    if rest.isEmpty then s
    else
      let w1 := w.openRec arm.tag [rest, arm.lanes.filter fun l => ts.contains l] true
      let restTag := ((w1.arms.find? fun a => a.inRec == some w.nextRec && a.lanes == rest).map (·.tag)).getD arm.tag
      -- lanes that have left the trapped clause already have completed it
      let done := rest.filter fun l => (w1.threads[l]?).any fun t => t.st == .ready && t.pc != hdr
      let w2 := w1.modThreads done fun t => { t with st := .parked .trapRecord }
      (s.modWarp wk fun _ => w2).modCore p.core (·.renameArm wk arm.tag restTag)

/-- THE trap entry, for lanes of one warp that trap at the instruction where each stands (R400): fatal causes end
the grid; otherwise each lane enters the handler, and an arm of which only some lanes trap splits. DEDUCED: log entry 128. -/
def State.takeTraps (s : State) (wk : WKey) (ts : List (Nat × Trap)) : State :=
  match s.posOf wk.pos, s.warpOf wk with
  | some p, some w =>
    let handler := (s.stage? p wk.stage).bind (·.handler)
    let det := s.det? p
    -- the object and offset belong to the cause reported: a nested trap's DOUBLE_TRAP has none (R407)
    let site (l : Nat) (c : Cause) (x : Trap) : Site :=
      let at' := if c == x.cause then x.place else (0, 0)
      { src := clusterSrc p.core, party := s.partyBits (partyOf w ((w.armOfLane l).elim 0 (·.tag))),
        object := at'.1, offset := at'.2 }
    let ordered := sortBy (fun a b => decide (a.1 ≤ b.1)) ts
    let dead : Option (Cause × Nat × Trap) := ordered.findSome? fun x =>
      (w.threads[x.1]?).bind fun t => (fatalCause det handler t x.2).map fun c => (c, x)
    match dead with
    | some (c, x) => s.endFatal p.ctx p.grid c (site x.1 c x.2)
    | none =>
      let lanes := ts.map (·.1)
      let hdr := ((lanes.head?.bind (w.threads[·]?)).map (·.pc)).getD 0
      let arms := w.arms.filter fun a => w.leaf a.tag && a.lanes.any fun l => lanes.contains l
      let splits := arms.any fun a => a.lanes.any fun l => w.live l && !lanes.contains l
      if splits && 16 ≤ w.recs.length then
        match ordered with
        | x :: _ => s.endFatal p.ctx p.grid .joinBroken (site x.1 .joinBroken x.2)
        | [] => s
      else
        let s1 := s.modCore p.core (·.dropLanes wk lanes)
        let s2 := s1.modWarp wk (·.trapThreads ts (handler.getD 0))
        arms.foldl (fun s a => s.splitTrap wk p a lanes hdr) s2
  | _, _ => s

/-- A trap of every live lane of a warp that meets a test, with one cause and no operand. -/
def State.trapLanes (s : State) (wk : WKey) (c : Cause) (q : Nat → Thread → Bool) : State :=
  match s.warpOf wk with
  | none => s
  | some w =>
    let ls := (List.range w.threads.length).filter fun l => (w.threads[l]?).any fun t => t.st != .exited && q l t
    if ls.isEmpty then s else s.takeTraps wk (ls.map fun l => (l, { cause := c }))

/-! ## Joins and trap records (R137, R403) -/

def State.redOf (s : State) (wk : WKey) : Spec → Nat :=
  match (s.posOf wk.pos).bind s.grid? with
  | some g =>
    match s.kernel? g with
    | some k =>
      match k.stageOf wk.stage with
      | some sc => redCode k sc
      | none => fun _ => 0
    | none => fun _ => 0
  | none => fun _ => 0

/-- Threads of an arm that stand at several headers form the arms of a new record (R127); a seventeenth record traps
JOIN_BROKEN in the arm. Threads that have completed the clause of a trap record hold their PCs until it closes (R403). -/
def State.diverge (s : State) (wk : WKey) (tag : Nat) : State :=
  match s.warpOf wk with
  | some w =>
    match w.armOf tag with
    | none => s
    | some a =>
      let gs := groupByPc w (a.lanes.filter w.going)
      if gs.length ≤ 1 then s
      else if 16 ≤ w.recs.length then s.trapLanes wk .joinBroken fun l _ => a.lanes.contains l
      else s.modWarp wk fun w => w.openRec tag gs false
  | none => s

/-- A record whose every arm has arrived at its join, or has no thread left. -/
def Warp.joinable (w : Warp) (r : Rec) : Bool :=
  !r.trap && (w.childrenOf r.id).all fun a => w.leaf a.tag && (a.arrived.isSome || !a.lanes.any w.live)

/-- A trap record whose every thread has completed the trapped clause, or has exited (R403). -/
def Warp.closable (w : Warp) (r : Rec) : Bool :=
  r.trap && ((w.armOf r.parent).any fun a =>
    a.lanes.all fun l => (w.threads[l]?).all fun t => t.st == .exited || t.st == .parked .trapRecord)

/-- The record of a trap closes: threads go on from their PCs as one arm, or diverge (R403). DEDUCED: log entry 119. -/
def State.closeTrap (s : State) (wk : WKey) (w : Warp) (r : Rec) : State :=
  let red := s.redOf wk
  let step (x : Warp × Bool) (r : Rec) : Warp × Bool := let y := x.1.closeRec red r; (y.1, x.2 || y.2.bad)
  let (w1, bad) := (w.recsBelow 18 r.parent).foldl step (w, false)
  let lanes := ((w1.armOf r.parent).map (·.lanes)).getD []
  -- under an outer trap record its clause is completed too, and its threads wait for that record
  let w2 := w1.modThreads lanes fun t =>
    { t with st := if w1.inTrap r.parent && !bad then .parked .trapRecord else .ready }
  let s1 := s.modWarp wk fun _ => w2
  if bad then s1.trapLanes wk .scopeDisagree fun l _ => lanes.contains l else s1.diverge wk r.parent

/-- Every arm has arrived at one join: the views merge and the parent goes on after it (R137). Where registers disagree the
record is closed as well, and its threads trap at the join. DESIGN CHOICE: log entry 141. -/
def State.closeJoin (s : State) (wk : WKey) (p : Position) (w : Warp) (r : Rec) : State :=
  let kids := w.childrenOf r.id
  let addrs := (kids.filterMap (·.arrived)).eraseDups
  let lanes := (kids.flatMap (·.lanes)).filter w.live
  if 1 < addrs.length then
    let w1 := kids.foldl (fun w a => w.modArm a.tag fun a => { a with arrived := none }) w
    (s.modWarp wk fun _ => w1).trapLanes wk .joinBroken fun l _ => lanes.contains l
  else
    match s.stage? p wk.stage with
    | none => s
    | some sc =>
      let (w1, m) := w.closeRec (s.redOf wk) r
      if m.bad then
        (s.modWarp wk fun _ => w1).trapLanes wk .scopeDisagree fun l _ => lanes.contains l
      else (s.modWarp wk fun _ => w1.modThreads lanes (·.stepPast sc)).modBlock wk.pos wk.stage fun b => { b with dog := 0 }

/-- Records of a warp that may close do so, innermost first. -/
def State.settleWarp (s : State) (wk : WKey) : Nat → State
  | 0 => s
  | fuel + 1 =>
    match s.posOf wk.pos, s.warpOf wk with
    | some p, some w =>
      match w.recs.find? w.closable with
      | some r => (s.closeTrap wk w r).settleWarp wk fuel
      | none =>
        match w.recs.find? w.joinable with
        | some r => (s.closeJoin wk p w r).settleWarp wk fuel
        | none => s
    | _, _ => s

/-! ## Merges of wider scopes (R128, R131, R132) -/

def isB (s : Spec) : Bool :=
  match s with
  | .b _ => true
  | _ => false

def isC (s : Spec) : Bool :=
  match s with
  | .c _ => true
  | _ => false

/-- The warps' views merged into their block: b registers are committed, c and g pass to the block's view. The views of all
its warps merge, also of those that take no part in the barrier. DESIGN CHOICE: log entry 139. -/
def Block.merge (b : Block) (red : Spec → Nat) : Block × Merged :=
  let m := mergeViews red ((sortBy (fun x y => decide (x.idx ≤ y.idx)) b.warps).map (·.view))
  ({ b with
     warps := b.warps.map fun w => { w with view := [] }
     b := m.ents.foldl (fun l e => match e.reg with
       | .b i => l.set i.toNat e.v
       | _ => l) b.b
     view := (m.ents.filter fun e => !isB e.reg).foldl (fun v e => viewPut v e.reg 0 e.v) b.view }, m)

/-- Blocks' views merged into their instance: c registers are committed, g pass to the cluster's view. DEDUCED: log entry 118. -/
def Inst.merge (i : Inst) (red : Spec → Nat) (views : List (List ViewEnt)) : Inst × Merged :=
  let m := mergeViews red views
  ({ i with
     c := m.ents.foldl (fun l e => match e.reg with
       | .c k => l.set k.toNat e.v
       | _ => l) i.c
     view := (m.ents.filter fun e => !isC e.reg).foldl (fun v e => viewPut v e.reg 0 e.v) i.view }, m)

/-- Instances' views merged into the committed g registers. -/
def Grid.merge (g : Grid) (red : Spec → Nat) (views : List (List ViewEnt)) : Grid × Merged :=
  let m := mergeViews red views
  ({ g with g := m.ents.foldl (fun l e => match e.reg with
      | .g k => l.set k.toNat e.v
      | _ => l) g.g }, m)

/-- Blocks of an instance, by local id and stage. -/
def State.instBlocks (s : State) (ctx grid lin : Nat) : List (Position × Block) :=
  (sortBy (fun (a b : Position) => decide (a.loc ≤ b.loc))
    (s.c.positions.filter fun p => p.ctx == ctx && p.grid == grid && p.inst == lin)).flatMap fun p =>
      (sortBy (fun (a b : Block) => decide (a.stage ≤ b.stage)) p.blocks).map fun b => (p, b)

/-- The merge of one block of a position; the disagreement, if any, is answered by the caller. -/
def State.mergeBlock (s : State) (pos stage : Nat) : State × Merged :=
  match (s.posOf pos).bind (·.blockOf stage) with
  | none => (s, ⟨[], {}, false⟩)
  | some b =>
    let (b', m) := b.merge (s.redOf ⟨pos, stage, 0⟩)
    (s.modBlock pos stage fun _ => b', m)

/-- The declared reductions of a grid's c and g registers. -/
def State.gridRed (s : State) (g : Grid) : Spec → Nat :=
  match s.kernel? g with
  | some k => match k.stages with
    | sc :: _ => redCode k sc
    | [] => fun _ => 0
  | none => fun _ => 0

/-- The block views of an instance merged into it, those of blocks whose positions are gone among them. -/
def State.mergeInst (s : State) (ctx grid lin : Nat) : State × Merged :=
  match s.instOf ctx grid lin, s.gridOf ctx grid with
  | some i, some g =>
    let bs := s.instBlocks ctx grid lin
    let kids := sortBy (fun x y => decide (x.1 < y.1 ∨ (x.1 = y.1 ∧ x.2.1 ≤ y.2.1)))
      (i.gone ++ bs.map fun x => (x.1.loc, x.2.stage, x.2.view))
    let (i', m) := i.merge (s.gridRed g) (kids.map (·.2.2))
    (bs.foldl (fun s x => s.modBlock x.1.id x.2.stage fun b => { b with view := [] })
      (s.modInst ctx grid lin fun _ => { i' with gone := [] }), m)
  | _, _ => (s, ⟨[], {}, false⟩)

/-- The cluster views of a grid merged into its committed registers. -/
def State.mergeGrid (s : State) (ctx grid : Nat) : State × Merged :=
  match s.gridOf ctx grid with
  | none => (s, ⟨[], {}, false⟩)
  | some g =>
    let is := sortBy (fun (a b : Inst) => decide (a.lin ≤ b.lin)) (s.c.insts.filter fun i => i.ctx == ctx && i.grid == grid)
    let (g', m) := g.merge (s.gridRed g) (is.map (·.view))
    ((s.modGrid ctx grid fun _ => g').modC fun c =>
      { c with insts := c.insts.map fun i => if i.ctx == ctx && i.grid == grid then { i with view := [] } else i }, m)

/-! ## Barriers (R315, R316) -/

/-- Threads of a block that wait at a barrier. -/
def Thread.waits (t : Thread) (w : Wait) : Bool := t.st == .parked w

def Block.modBar (b : Block) (k : Nat) (f : BarRes → BarRes) : Block :=
  { b with bars := b.bars.mapIdx fun i r => if i = k then f r else r }

def Warp.exited (w : Warp) : Bool := w.threads.all fun t => t.st == .exited

/-- Warps of a block that have not exited. -/
def Block.liveWarps (b : Block) : List Warp := b.warps.filter fun w => !w.exited

/-- The root arm of a warp. -/
def Warp.root (w : Warp) : Nat := ((w.arms.find? (·.inRec.isNone)).map (·.tag)).getD 0

/-- The threads of a warp that wait on `wt` go on, after an acquire of `f`; the merge's flags are raised (R316). -/
def State.depart (s : State) (wk : WKey) (wt : Wait) (f : Frontier) (fl : Flags) (sc : StageCode) : State :=
  (s.goOn wk sc (·.waits wt)).modWarp wk fun w => Warp.acquire { w with fstat := raiseFstat w.fstat fl } w.root f

/-- Threads that depart from a barrier at which registers of their scope disagree: the barrier has completed for them, and
they trap (R131, R316). -/
def State.departBad (s : State) (wk : WKey) (wt : Wait) (f : Frontier) (fl : Flags) : State :=
  (s.modWarp wk fun w => { (w.acquire w.root f) with fstat := raiseFstat w.fstat fl }).trapLanes wk .scopeDisagree
    fun _ t => t.waits wt

/-- Warps with a thread that waits on `wt`. -/
def Block.waiters (b : Block) (wt : Wait) : List Nat :=
  (b.warps.filter fun w => w.threads.any (·.waits wt)).map (·.idx)

/-- A block's barrier completes (R316): the merge, the edge, the region index, and its warps go on. -/
def State.completeB (s : State) (pos stage k : Nat) : State :=
  match (s.posOf pos).bind (·.blockOf stage), (s.posOf pos).bind (s.stage? · stage) with
  | some b, some sc =>
    match b.bars[k]? with
    | none => s
    | some r =>
      let (s1, m) := s.mergeBlock pos stage
      let ws := b.waiters (.barB k)
      -- the entry of the region: the clause after the `bar` (R308, R317)
      let hdr := (ws.head?.bind b.warpOf).bind fun w => (w.threads.find? (·.waits (.barB k))).map (·.pc)
      let region := if r.idm then
          (hdr.bind fun h => sc.regions.findIdx? (· == sc.nextHeader h)).getD b.region
        else b.region
      let s2 := s1.modBlock pos stage fun b =>
        ({ b with region := region } : Block).modBar k fun r => { r with arrived := [], fill := false, idm := false, fronts := [] }
      let s2 := match s2.posOf pos with
        | some p => s2.modGrid p.ctx p.grid fun g => g.modRetire p.inst fun x => x.putBlock p.loc stage region false
        | none => s2
      if m.bad then
        ws.foldl (fun s i => s.departBad ⟨pos, stage, i⟩ (.barB k) (joinFronts r.fronts) m.flags) s2
      else ws.foldl (fun s i => s.depart ⟨pos, stage, i⟩ (.barB k) (joinFronts r.fronts) m.flags sc) s2
  | _, _ => s

/-- Whether a block has arrived at its cluster barrier, or has ended. -/
def Inst.hasC (i : Inst) (p : Position) (b : Block) : Bool := b.ended || i.arrC.contains (p.loc, b.stage)

/-- The merges of a set of blocks, each of its warps' views: the flags, and the blocks in which some register disagreed. -/
def State.mergeAll (s : State) (bs : List (Position × Block)) : State × Flags × List (Nat × Nat) :=
  bs.foldl (fun x pb =>
    let (s1, m) := x.1.mergeBlock pb.1.id pb.2.stage
    (s1, x.2.1.join m.flags, if m.bad then x.2.2 ++ [(pb.1.id, pb.2.stage)] else x.2.2)) (s, {}, [])

/-- Every waiting warp of some blocks departs, or traps where registers of its block, instance or grid disagreed. -/
def State.departAll (s : State) (bs : List (Position × Block)) (wt : Wait) (f : Frontier) (fl : Flags)
    (bad : Position → Block → Bool) : State :=
  bs.foldl (fun s pb =>
    match s.stage? pb.1 pb.2.stage with
    | none => s
    | some sc =>
      (pb.2.waiters wt).foldl (fun s i =>
        let wk : WKey := ⟨pb.1.id, pb.2.stage, i⟩
        if bad pb.1 pb.2 then s.departBad wk wt f fl else s.depart wk wt f fl sc) s) s

/-- `bar.c` of an instance completes when every block has arrived (R313, R316). -/
def State.tryC (s : State) (ctx grid lin : Nat) : State :=
  match s.instOf ctx grid lin with
  | none => s
  | some i =>
    let bs := s.instBlocks ctx grid lin
    if bs.any (fun pb => i.arrC.contains (pb.1.loc, pb.2.stage)) && bs.all fun pb => i.hasC pb.1 pb.2 then
      let (s1, f1, b1) := s.mergeAll bs
      let (s2, m) := s1.mergeInst ctx grid lin
      let s3 := s2.modInst ctx grid lin fun i => { i with arrC := [], fronts := [] }
      let s4 := bs.foldl (fun s pb => s.modBlock pb.1.id pb.2.stage fun b => { b with atC := [] }) s3
      s4.departAll bs .barC (joinFronts i.fronts) (f1.join m.flags) fun p b => m.bad || b1.contains (p.id, b.stage)
    else s

/-- Every instance of a grid has been placed. -/
def Grid.allPlaced (g : Grid) : Bool := g.next == g.gx * g.gy * g.gz && g.lost.isEmpty

/-- The blocks of a grid on other members of its drove have arrived at `bar.g`: their doing is not this package's state. DESIGN
CHOICE: log entry 89. -/
def State.awayArrived (s : State) (g : Grid) : Bool × State :=
  if g.away.isEmpty then (true, s) else let (w, s1) := s.drawWord; (w.getLsbD 0, s1)

/-- `bar.g` of a grid completes when every block of every instance has arrived. -/
def State.tryG (s : State) (ctx grid : Nat) : State :=
  match s.gridOf ctx grid with
  | none => s
  | some g =>
    let (rest, s) := s.awayArrived g
    let is := (s.c.insts.filter fun i => i.ctx == ctx && i.grid == grid).map (·.lin)
    let bs := is.flatMap fun l => s.instBlocks ctx grid l
    if !g.arrG.isEmpty && g.allPlaced && rest
        && bs.all fun pb => pb.2.ended || g.arrG.contains (pb.1.inst, pb.1.loc, pb.2.stage) then
      let (s1, f1, b1) := s.mergeAll bs
      let (s2, f2, b2) := is.foldl (fun x l =>
        let (y, m) := x.1.mergeInst ctx grid l
        (y, x.2.1.join m.flags, if m.bad then x.2.2 ++ [l] else x.2.2)) (s1, f1, ([] : List Nat))
      let (s3, m) := s2.mergeGrid ctx grid
      let s4 := s3.modGrid ctx grid fun g => { g with arrG := [], fronts := [] }
      let s5 := bs.foldl (fun s pb => s.modBlock pb.1.id pb.2.stage fun b => { b with atG := [] }) s4
      s5.departAll bs .barG (joinFronts g.fronts) (f2.join m.flags) fun p b =>
        m.bad || b2.contains p.inst || b1.contains (p.id, b.stage)
    else s

/-! ## The exit of threads (R180), and the ends it brings about -/

/-- The disagreement of a merge that has no thread left to trap (R132). -/
def State.endDisagree (s : State) (ctx src : Nat) (bad : Bool) : State :=
  if bad then s.post ctx { src := src, kind := 2, cause := Cause.scopeDisagree.code.toNat } else s

/-- The last block of a grid has ended: the g merge, and the end of the grid (R132, R287). -/
def State.endGrid (s : State) (ctx grid : Nat) : State :=
  match s.gridOf ctx grid with
  | none => s
  | some g =>
    if g.live && g.allPlaced && g.away.isEmpty && !(s.c.positions.any fun p => p.ctx == ctx && p.grid == grid) then
      s.closeGrid ctx grid
    else s

/-- The last block of a grid has ended: the g merge of its instances' views (R132), and the end. -/
def State.endInst (s : State) (ctx grid : Nat) : State :=
  let last := !(s.c.positions.any fun p => p.ctx == ctx && p.grid == grid)
    && (s.gridOf ctx grid).any fun g => g.allPlaced && g.away.isEmpty
  if last then
    let (s1, m) := s.mergeGrid ctx grid
    (s1.endDisagree ctx (1 + ((s.gridOf ctx grid).elim 0 (·.bell))) m.bad).endGrid ctx grid
  else s

/-- A grid with instances on other members of its drove: they may have ended, or arrived at its barrier. DESIGN CHOICE: log entry 89. -/
def State.droveNews (s : State) (g : Grid) : State :=
  let (w, s1) := s.drawWord
  if w.getLsbD 0 then (s1.modGrid g.ctx g.id fun g => { g with away := [] }).endInst g.ctx g.id else s1.tryG g.ctx g.id

/-- What other members of droves report, after a step. -/
def State.reports (s : State) : State := (s.c.grids.filter fun g => g.live && !g.away.isEmpty).foldl State.droveNews s

/-- A position whose last operation is over is gone, its windows written back. -/
def State.closePast (s : State) : State :=
  (s.c.past.filter fun p => !s.c.ops.any (·.pos == p.id)).foldl (fun s p =>
    (s.writeBackAll p.id).modC fun c => { c with past := c.past.filter (·.id != p.id) }) s

/-- A position whose every sibling has ended frees its resources (R289, R295). -/
def State.endPos (s : State) (pos : Nat) : State :=
  match s.posOf pos with
  | none => s
  | some p =>
    if !p.blocks.all (·.ended) then s
    else
      let s1 := s.modInst p.ctx p.grid p.inst fun i =>
        { i with gone := i.gone ++ p.blocks.map fun b => (p.loc, b.stage, b.view) }
      let s2 := ((s1.writeBackAll pos).modC fun c => c.keepPast ((s1.posOf pos).getD p)).modC fun c =>
        { c with positions := c.positions.filter (·.id != pos), cores := c.cores.map (·.dropPos pos) }
      let s3 :=
        if (s2.instBlocks p.ctx p.grid p.inst).isEmpty then
          let (s4, m) := s2.mergeInst p.ctx p.grid p.inst
          s4.endDisagree p.ctx (clusterSrc p.core) m.bad
        else s2
      s3.endInst p.ctx p.grid

/-- The record of a task whose block has ended is Done, after its implicit `tdone`; it is Faulted when that fails (R267, R278).
DEDUCED: log entry 59. -/
def State.endRecord (s : State) (q i : Nat) (f : Frontier) : State :=
  let (s1, bad) := s.notify q i f fun _ _ => none
  match bad with
  | some t => s1.faultTask q i t.cause
  | none =>
    match (s1.liveQueue q).bind (·.slotAt i) with
    | some x => s1.putSlot q { x with state := tsDone }
    | none => s1

/-- An implicit `tdone` whose successor list lies on a page that faults waits for its service; the record stays Running
(R331). DEDUCED: log entry 59. -/
def State.endTask (s : State) (ctx q i : Nat) (f : Frontier) : State :=
  let x := (s.liveQueue q).bind (·.slotAt i)
  match x.bind fun x => if x.tdn then none else s.succFault ctx x.word with
  | none => s.endRecord q i f
  | some (obj, page) =>
    let wait (s : State) (n : Option Nat) : State := s.modT fun t => { t with late := t.late ++ [⟨q, i, f, n⟩] }
    match s.postFault ctx obj page false (s.byUnit 5 ⟨0, 0, 0⟩) with
    | (.fatal, s1) => s1.faultTask q i .pageFaultFatal
    | (.noId, s1) => wait s1 none
    | (.fid n, s1) => wait s1 (some n)

/-- Implicit notifications that a resolved fault id, or an id that is free again, lets go on (R333). -/
def State.endLate (s : State) (ctx fid : Nat) (fatal : Bool) : State :=
  let mine (l : LateDone) : Bool := (l.fid == some fid || l.fid.isNone) && (s.queueOf l.q).any (·.ctx == ctx)
  let go (s : State) (l : LateDone) : State :=
    if fatal && l.fid == some fid then s.faultTask l.q l.slot .pageFaultFatal else s.endTask ctx l.q l.slot l.front
  ((s.t.late.filter mine).foldl go (s.modT fun t => { t with late := t.late.filter fun l => !mine l })).retireQueues

/-- A block whose threads have all exited ends (R180). -/
def State.endBlock (s : State) (pos stage : Nat) : State :=
  match s.posOf pos, (s.posOf pos).bind (·.blockOf stage) with
  | some p, some b =>
    if b.ended || !b.warps.all (·.exited) then s
    else
      let (s1, m) := s.mergeBlock pos stage
      let s2 := (s1.endDisagree p.ctx (clusterSrc p.core) m.bad).modBlock pos stage fun b => { b with ended := true }
      let s3 := s2.modGrid p.ctx p.grid fun g => g.modRetire p.inst fun r => r.putBlock p.loc stage b.region true
      let f := p.whole
      let s4 := ((s3.tryC p.ctx p.grid p.inst).tryG p.ctx p.grid)
      let last := (s4.posOf pos).any fun p => p.blocks.all (·.ended)
      let s5 := match s4.gridOf p.ctx p.grid with
        | some g => match g.task with
          | some t => if last then s4.endTask p.ctx t.1 t.2 f else s4
          | none => s4
        | none => s4
      (s5.endPos pos).retireQueues
  | _, _ => s

/-- A warp's last exit while a barrier fills (R315). -/
def State.exitBar (s : State) (pos stage k : Nat) : State :=
  match (s.posOf pos).bind (·.blockOf stage) with
  | none => s
  | some b =>
    match b.bars[k]? with
    | none => s
    | some r =>
      if !r.fill then s
      else if r.dfl then
        let s1 := s.modBlock pos stage (·.modBar k fun r => { r with exp := r.exp - 1 })
        if r.arrived.length == r.exp - 1 then s1.completeB pos stage k else s1
      else
        let free := (b.liveWarps.filter fun w => !r.arrived.contains w.idx).length
        if free < r.exp - r.arrived.length then
          let s1 := s.modBlock pos stage (·.modBar k fun r => { r with arrived := [], fill := false, idm := false, fronts := [] })
          (b.waiters (.barB k)).foldl (fun s i => s.trapLanes ⟨pos, stage, i⟩ .barrierCount fun _ t => t.waits (.barB k)) s1
        else s

/-- A block that waits at a wider barrier arrives once every warp of it that has not exited has (R313). -/
def State.arriveC (s : State) (p : Position) (stage : Nat) : State :=
  match (s.posOf p.id).bind (·.blockOf stage) with
  | none => s
  | some b =>
    if !b.atC.isEmpty && b.liveWarps.all fun w => b.atC.contains w.idx then
      (s.modInst p.ctx p.grid p.inst fun i =>
        { i with arrC := if i.arrC.contains (p.loc, stage) then i.arrC else i.arrC ++ [(p.loc, stage)] }).tryC p.ctx p.grid p.inst
    else s

def State.arriveG (s : State) (p : Position) (stage : Nat) : State :=
  match (s.posOf p.id).bind (·.blockOf stage) with
  | none => s
  | some b =>
    if !b.atG.isEmpty && b.liveWarps.all fun w => b.atG.contains w.idx then
      (s.modGrid p.ctx p.grid fun g =>
        { g with arrG := if g.arrG.contains (p.inst, p.loc, stage) then g.arrG else g.arrG ++ [(p.inst, p.loc, stage)] }).tryG p.ctx p.grid
    else s

/-- A warp whose threads have all exited: its granules go to the lent pool, and barriers take note (R138, R315). -/
def State.endWarp (s : State) (wk : WKey) : State :=
  match s.posOf wk.pos, s.warpOf wk, (s.posOf wk.pos).bind (·.blockOf wk.stage) with
  | some p, some w, some b =>
    if !w.exited then s
    else
      let s1 := (s.modPos wk.pos fun p => { p with lent := p.lent + w.gran * w.threads.length }).modWarp wk fun w =>
        { w with gran := 0 }
      let s2 := (List.range b.bars.length).foldl (fun s k => s.exitBar wk.pos wk.stage k) s1
      ((s2.arriveC p wk.stage).arriveG p wk.stage).endBlock wk.pos wk.stage
  | _, _, _ => s

/-! ## Last uses of accumulator tiles (R197) -/

def Position.modAcc (p : Position) (a : Nat) (f : AccName → AccName) : Position :=
  { p with acc := p.acc.mapIdx fun i n => if i = a then f n else n }

/-- A name unbound from its current or its previous tile: its banks are free. -/
def State.dropTile (s : State) (pos a : Nat) (prev : Bool) : State :=
  s.modPos pos (·.modAcc a fun n => if prev then { n with prev := none } else { n with cur := none })

/-- Lanes that complete an instruction, or exit, are not waited for at the last uses that meet a test. -/
def TileUse.past (u : TileUse) (p : TileUse → Bool) (lanes : List Nat) : TileUse :=
  if p u then { u with lanes := u.lanes.filter fun l => !lanes.contains l } else u

/-- A tile is released once every lane of the arm has completed its last use. -/
def State.passUses (s : State) (wk : WKey) (p : TileUse → Bool) (lanes : List Nat) : State :=
  match s.warpOf wk with
  | none => s
  | some w =>
    if w.uses.isEmpty then s
    else
      let us := w.uses.map (·.past p lanes)
      (us.filter (·.lanes.isEmpty)).foldl (fun s u => s.dropTile wk.pos u.acc u.prev)
        (s.modWarp wk fun w => { w with uses := us.filter (!·.lanes.isEmpty) })

/-- Threads leave an arm as they exit (R127); an arm that has none left gives up its view slot (R133). -/
def Arm.leave (a : Arm) (lanes : List Nat) : Arm :=
  let l := a.lanes.filter fun l => !lanes.contains l
  { a with lanes := l, slot := a.slot && !l.isEmpty }

/-- The exit of threads is a release of their arms (R233). -/
def Warp.tickExits (w : Warp) (lanes : List Nat) : Warp :=
  ((w.arms.filter fun a => w.leaf a.tag && a.lanes.any lanes.contains).map (·.tag)).foldl Warp.tick w

/-- Threads of a warp end (R180): each is a release to the end of the grid; they complete their clause (R306). -/
def State.exitLanes (s : State) (wk : WKey) (lanes : List Nat) : State :=
  let s1 := s.modWarp wk fun w =>
    let u := w.tickExits lanes
    { (u.modThreads lanes fun t => { t with st := .exited, byp := [] }) with arms := u.arms.map (·.leave lanes) }
  (((s1.passUses wk (fun _ => true) lanes).modBlock wk.pos wk.stage fun b => { b with dog := 0 }).settleWarp wk 40).endWarp wk

end Sys2Proof.Machine
end

