-- ==== Sys2Proof/Machine/Issue.lean ====
section
/-! DEFINITION. How an instruction acts through its packet (R144 to R146, R296): the lanes that execute, stalling
and parking, committing an arm's results, and the end of a clause (R49, R403). -/

namespace Sys2Proof.Machine

/-- The packet whose instruction the step runs. -/
def State.packet? (s : State) (core slot : Nat) : Option Packet := ((s.coreOf core).bind (·.slots[slot]?)).join

def State.onPacket (s : State) (f : Nat → Nat → Packet → State) : State :=
  match s.cur with
  | .packet core slot => match s.packet? core slot with
    | some p => f core slot p
    | none => s
  | _ => s

def CoreSt.putSlot (c : CoreSt) (slot : Nat) (p : Option Packet) : CoreSt := { c with slots := c.slots.set slot p }

/-- What the lanes of a warp share when they read operands. -/
def State.scene (s : State) (wk : WKey) : Option RCtx :=
  match s.posOf wk.pos with
  | none => none
  | some p =>
    match p.blockOf wk.stage, s.inst? p, s.grid? p with
    | some b, some i, some g =>
      (b.warpOf wk.warp).map fun w =>
        { thread := none, lane := 0, width := s.width? p, warp := w, arm := 0, block := b, pos := p, inst := i, grid := g }
    | _, _, _ => none

/-- A thread that a packet holds. -/
def Thread.held (t : Thread) : Bool :=
  match t.st with
  | .packed | .stalled _ => true
  | _ => false

/-- The lanes of an arm that execute, in ascending order (R144); in a scalar clause the arm stands for them. -/
def RCtx.executing (c : RCtx) (scl : Bool) (g : Guard) (a : PArm) : List RCtx :=
  if scl then
    if guardOf g [] && !a.lanes.isEmpty then [{ c with arm := a.arm, lane := lowest a.lanes }] else []
  else
    a.lanes.filterMap fun l =>
      match c.warp.threads[l]? with
      | some t => if t.held && guardOf g t.preds then some { c with thread := some t, lane := l, arm := a.arm } else none
      | none => none

/-- What an instruction does in the executing lanes of one arm: their ends, and its other effects. -/
abbrev ArmFn := State → List RCtx → ArmRes × State

/-- An arm function without other effects. -/
def pureArm (k : List RCtx → ArmRes) : ArmFn := fun s cs => (k cs, s)

/-- The warp that a lane belongs to. -/
def RCtx.wk (c : RCtx) : WKey := ⟨c.pos.id, c.block.stage, c.warp.idx⟩

/-- A warp has passed its last epoch. -/
def State.overspent (s : State) (wk : WKey) : Bool := (s.warpOf wk).any (·.overspent)

/-- R240: a release or an acquire that would pass the last epoch traps in every executing lane. DEDUCED: log entry 40. -/
def epochGuard (f : ArmFn) : ArmFn := fun s cs =>
  if cs.any fun c => decide (2 ^ 48 - 1 ≤ c.warp.epoch) then
    (.done { lanes := cs.map fun c => (c.lane, .trap { cause := .epochExhausted }) }, s)
  else f s cs

/-- Lanes that act in turn; once one stalls, the lanes after it wait with it. A lane whose release or acquire would pass the
last epoch does nothing, and traps (R240). -/
def actLanes {α : Type} (act : State → RCtx → α → LaneEnd × State) (held : Option Wait) :
    List (RCtx × α) → State → List (Nat × LaneEnd) × State
  | [], s => ([], s)
  | (c, x) :: rest, s =>
    match held with
    | some w => let r := actLanes act held rest s; ((c.lane, .park w) :: r.1, r.2)
    | none =>
      let z := act s c x
      let y := if z.2.overspent c.wk then (.trap { cause := .epochExhausted }, s) else z
      let stop := match y.1 with
        | .park w => if w.stalls then some w else none
        | _ => none
      let r := actLanes act stop rest y.2
      ((c.lane, y.1) :: r.1, r.2)

/-- An instruction that reads in every executing lane, then acts lane by lane in ascending order. DEDUCED: log entry 124. -/
def perLane {α : Type} (read : State → RCtx → LaneStep α) (act : State → RCtx → α → LaneEnd × State) : ArmFn :=
  fun s cs =>
    match gather (read s) cs with
    | .stall => (.stall, s)
    | .park w => (.park w, s)
    | .got vs ts =>
      let r := actLanes act none vs s
      (.done { lanes := trapEnds ts ++ r.1 }, r.2)

/-- How an instruction issues. -/
structure How where
  g : Guard
  /-- Its destinations, for the bypass (R124). -/
  dsts : List Spec := []
  /-- It acts for the arm as a whole: every thread of the arm must have reached it (R127, R171). -/
  whole : Bool := false
  /-- It acts in each thread even in a scalar clause (control flow, R177). -/
  threads : Bool := false
  /-- Operands whose batons it acquires before it acts: it accesses memory or releases (R233). -/
  early : List Spec := []
  /-- Arms that issue it in one cycle act in ascending warp id (R138), not in ascending warp slot (R315, R318, R320). -/
  byId : Bool := false
  /-- A cross-lane instruction to a lane register or a predicate, with its sources: the lanes of an arm may issue it in
  several packets (R171). -/
  span : Option (Instr × List Src) := none

/-- Threads parked at the instruction where they stand, out of their packet. -/
def State.parkLanes (s : State) (core : Nat) (wk : WKey) (lanes : List Nat) (wt : Wait) : State :=
  (s.modWarp wk (·.modThreads lanes fun t => { t with st := .parked wt, mid := true })).modCore core
    (·.dropLanes wk lanes)

/-- Every thread of the arm that has not exited, or completed the clause of a trap record, is in the packet. DEDUCED: log
entry 26. -/
def PArm.entire (a : PArm) (w : Warp) : Bool :=
  (w.armOf a.arm).any fun x => x.lanes.all fun l => !w.going l || a.lanes.contains l

/-- The lanes of an arm that have not yet executed the packet's instruction: a stall may come part way through. -/
def PArm.pending (a : PArm) (w : Warp) (idx : Nat) : PArm :=
  { a with lanes := a.lanes.filter fun l => (w.threads[l]?).any fun t => t.idx == idx }

/-- The full batons among operands are acquired by an arm that executes (R233); the others make it wait or trap. -/
def State.takesBatons (s : State) (wk : WKey) (arm : Nat) (cs : List RCtx) (l : List Spec) : State :=
  let zs := batonsOf l
  if zs.isEmpty || cs.isEmpty then s
  else if (s.warpOf wk).any fun w => zs.all fun i => ((w.z[i]?).getD none).isSome then s.modWarp wk (·.takeBatons arm zs)
  else s

/-- What an instruction does in the executing lanes of an arm, once it has acquired the batons it reads. -/
def How.act (h : How) (f : ArmFn) (wk : WKey) (arm : Nat) : ArmFn := fun s cs => f (s.takesBatons wk arm cs h.early) cs

/-- Whether the packet stalls on an arm (R122, R133), and what for. -/
def State.armStalls (s : State) (p : Packet) (h : How) (f : ArmFn) (a : PArm) : Option (Option Wait) :=
  match s.scene a.wk with
  | none => none
  | some c =>
    if h.whole && h.span.isNone && !a.entire c.warp then none
    else match (h.act f a.wk a.arm s (c.executing (p.scl && !h.threads) h.g (a.pending c.warp p.idx))).1 with
      | .stall => some none
      | .park w => if w.stalls then some (some w) else none
      | .done _ => none

/-- The lanes that park or trap in an arm: those named, or every lane of the arm in a scalar clause. -/
def spread {α : Type} (scl : Bool) (lanes : List Nat) (l : List (Nat × α)) : List (Nat × α) :=
  if scl then l.flatMap fun x => lanes.map fun i => (i, x.2) else l

def State.modLanes (s : State) (wk : WKey) (lanes : List Nat) (f : Thread → Thread) : State :=
  s.modWarp wk (·.modThreads lanes f)

/-- A packet that stalls for a register or a handle of a lane tries its instruction again (R294). -/
def State.resume (s : State) (core : Nat) (wk : WKey) (q : ThreadSt → Bool) (lane : Nat → Bool) : State :=
  let has (p : Packet) : Bool := p.arms.any fun a => a.wk == wk && a.lanes.any fun l => lane l &&
    ((s.warpOf wk).bind (·.threads[l]?)).any fun t => q t.st
  ((((s.coreOf core).map (·.slots)).getD []).filterMap id).foldl (fun s p =>
    if has p then p.arms.foldl (fun s a => s.modLanes a.wk a.lanes fun t => match t.st with
        | .stalled _ => { t with st := .packed }
        | _ => t) s
    else s) s

/-- Lanes that have executed the instruction at `idx` and stay in the packet. -/
def State.passLanes (s : State) (wk : WKey) (lanes : List Nat) (idx : Nat) : State :=
  s.modLanes wk lanes fun t => if t.held && t.idx == idx then { t with idx := idx + 1 } else t

/-- A last use of a b, c or g register (R123): it frees the view that the reader read, or the committed value (R130). -/
def State.freeWide (s : State) (wk : WKey) (r : Spec) : State :=
  match s.posOf wk.pos, (s.posOf wk.pos).bind (·.blockOf wk.stage), s.warpOf wk with
  | some p, some b, some w =>
    let inBlock : State := s.modBlock wk.pos wk.stage fun b => { b with view := viewPut b.view r 0 .zero }
    if (viewGet w.view r 0).isSome then s.modWarp wk fun w => { w with view := viewPut w.view r 0 .zero }
    else match r with
      | .b i => s.modBlock wk.pos wk.stage fun b => { b with b := b.b.set i.toNat .zero }
      | .c i => if (viewGet b.view r 0).isSome then inBlock
                else s.modInst p.ctx p.grid p.inst fun x => { x with c := x.c.set i.toNat .zero }
      | .g i => if (viewGet b.view r 0).isSome then inBlock
                else if (s.inst? p).any fun x => (viewGet x.view r 0).isSome then
                  s.modInst p.ctx p.grid p.inst fun x => { x with view := viewPut x.view r 0 .zero }
                else s.modGrid p.ctx p.grid fun x => { x with g := x.g.set i.toNat .zero }
      | _ => s
  | _, _, _ => s

/-- The last uses of an arm's results that lie outside its warp. -/
def State.freeWides (s : State) (wk : WKey) (ls : List (Nat × LaneEnd)) : State :=
  (wideFrees ls).foldl (fun s r => s.freeWide wk r) s

/-- A thread whose clause has ended: at its header, or parked there while a trap record is open (R403). -/
def Thread.clauseDone (t : Thread) (inTrap : Bool) (next : Nat) : Thread :=
  let u := if t.held then t.enterClause next else t
  if u.st == .ready && !u.mid && inTrap && !u.inHandler then { u with st := .parked .trapRecord } else u

/-- In deterministic mode the arms of a trap record run in arm order (R134, R403): the lanes that have not trapped wait for a
lower one that has, where they stand in the clause. -/
def State.holdRest (s : State) (core : Nat) (wk : WKey) (ts : List Nat) : State :=
  match s.posOf wk.pos, s.warpOf wk, (s.posOf wk.pos).bind (s.stage? · wk.stage) with
  | some p, some w, some sc =>
    let rest := (List.range w.threads.length).filter fun l => (w.threads[l]?).any (·.held)
    if s.det? p && !rest.isEmpty && decide (lowest ts < lowest rest) then
      let past (t : Thread) : Bool := decide (sc.count t.pc ≤ t.idx)
      let s1 := s.modLanes wk rest fun t =>
        if past t then t.clauseDone true (sc.nextHeader t.pc) else { t with st := .ready, mid := true }
      let s2 := if rest.any fun l => (w.threads[l]?).any past then s1.modBlock wk.pos wk.stage fun b => { b with dog := 0 } else s1
      (s2.modCore core (·.dropLanes wk rest)).settleWarp wk 40
    else s
  | _, _, _ => s

/-- What one arm does, in its lanes that execute `on` and those of the packet `all`. -/
def State.armEnds (s : State) (core idx : Nat) (scl : Bool) (h : How) (wk : WKey) (arm : Nat) (pt : Party)
    (on all : List Nat) (o : ArmOut) : State :=
  let parks := spread scl on (parksOf o)
  let held := parks.filter (·.2.stalls)
  let past := all.filter fun l => !held.any (·.1 == l)
  let s1 := (s.freeWides wk o.lanes).modWarp wk (·.commit arm pt past scl h.dsts h.early o)
  let s2 := (parks.filter (!·.2.stalls)).foldl (fun s x => s.parkLanes core wk [x.1] x.2) s1
  let s3 := held.foldl (fun s x => s.modLanes wk [x.1] fun t => { t with st := .stalled (some x.2) }) s2
  let ts := spread scl on (trapsOf o)
  if ts.isEmpty then s3.passLanes wk past idx
  else ((s3.takeTraps wk ts).passLanes wk past idx).holdRest core wk (ts.map (·.1))

/-- The instruction waits in an arm. R125 and R127 have all the threads of the arm wait with it; where it waits for a baton the
worked example of R297 has a guarded lane wait alone while the others go on: either may be. DESIGN CHOICE: log entry 142. -/
def State.waitArm (s : State) (core idx : Nat) (scl : Bool) (h : How) (wk : WKey) (arm : Nat) (pt : Party) (on all : List Nat)
    (w : Wait) : State :=
  let (alone, s1) := match w with
    | .batonFull _ | .batonEmpty _ => if scl then (false, s) else s.drawBit
    | _ => (false, s)
  if alone then
    (s1.armEnds core idx scl h wk arm pt on all { lanes := on.map fun l => (l, .park w) }).settleWarp wk 40
  else (s1.parkLanes core wk all w).settleWarp wk 40

/-! ## Cross-lane instructions whose arm stands in several packets (R171) -/

/-- The scope registers and batons among some sources, as a lane reads them. -/
def RCtx.scoped (c : RCtx) (l : List Src) : List (Spec × TV) :=
  l.filterMap fun r => match r.spec with
    | .x _ | .w _ | .b _ | .c _ | .g _ => some (r.spec, readScope c r.spec)
    | .z i => ((c.warp.z[i.toNat]?).getD none).map fun v => (r.spec, v)
    | _ => none

/-- An instruction under way at a place in an arm's clause. -/
def Early.meets (e : Early) (a : Arm) (hdr idx : Nat) : Bool := e.hdr == hdr && e.idx == idx && e.passed.any a.lanes.contains

/-- More lanes have issued an instruction under way. -/
def Warp.addEarly (w : Warp) (a : Arm) (e : Early) : Warp :=
  match w.early.find? fun x => x.meets a e.hdr e.idx with
  | some x =>
    let y : Early := { x with arm := e.arm, passed := x.passed ++ e.passed, present := x.present ++ e.present }
    { w with early := w.early.map fun z => if z == x then y else z }
  | none => { w with early := w.early ++ [e] }

/-- A lane that has issued a cross-lane instruction under way does not begin its next clause (R171). -/
def Warp.tied (w : Warp) (lane : Nat) (t : Thread) : Bool := t.atHeader && w.early.any fun e => e.passed.contains lane

/-- Lanes of an arm issue a cross-lane instruction that other threads of the arm have still to reach (R171): each frees what it
reads, and a lane register is empty until the instruction completes. -/
def State.issueEarly (s : State) (core : Nat) (p : Packet) (h : How) (f : ArmFn) (a : PArm) (c : RCtx) (i : Instr)
    (srcs : List Src) : State :=
  let b := a.pending c.warp p.idx
  let cs := c.executing false h.g b
  let pt := partyOf c.warp a.arm
  match h.act f a.wk a.arm s cs with
  | (.stall, _) => s.modLanes a.wk b.lanes fun t => { t with st := .stalled none }
  | (.park w, _) => s.waitArm core p.idx false h a.wk a.arm pt (cs.map (·.lane)) b.lanes w
  | (.done o, _) =>
    let ts := trapsOf o
    let e : Early :=
      { hdr := p.hdr, idx := p.idx, word := i, arm := a.arm, passed := b.lanes.filter fun l => !ts.any (·.1 == l),
        present := cs.filterMap fun k => k.thread.map fun t => (k.lane, t, k.scoped srcs) }
    let o1 : ArmOut := { lanes := o.lanes.map fun x => (x.1, match x.2 with
      | .out y => .out { frees := y.frees, empties := h.dsts.flatMap emptied }
      | z => z) }
    (s.modWarp a.wk fun w => (w.armOf a.arm).elim w fun x => w.addEarly x e).armEnds core p.idx false h a.wk a.arm pt
      (cs.map (·.lane)) b.lanes o1

/-- The instruction in one arm. -/
def State.runArm (s : State) (core : Nat) (p : Packet) (h : How) (f : ArmFn) (a : PArm) : State :=
  match s.scene a.wk with
  | none => s
  | some c =>
    let scl := p.scl && !h.threads
    let b := a.pending c.warp p.idx
    if h.whole && !a.entire c.warp then
      match h.span with
      | some x => s.issueEarly core p h f a c x.1 x.2
      | none => s.parkLanes core a.wk a.lanes .arm
    else
      let cs := c.executing scl h.g b
      let on := if scl then b.lanes else cs.map (·.lane)
      match h.act f a.wk a.arm s cs with
      | (.stall, _) => s.modLanes a.wk b.lanes fun t => { t with st := .stalled none }
      | (.park w, _) =>
        if w.stalls then s.modLanes a.wk b.lanes fun t => { t with st := .stalled (some w) }
        else s.waitArm core p.idx scl h a.wk a.arm (partyOf c.warp a.arm) on b.lanes w
      | (.done o, s1) =>
        let out := (spread scl on (parksOf o)).map (·.1) ++ (spread scl on (trapsOf o)).map (·.1)
        (s1.armEnds core p.idx scl h a.wk a.arm (partyOf c.warp a.arm) on b.lanes o).passUses a.wk
          (fun u => u.hdr == p.hdr && u.idx == p.idx) (b.lanes.filter fun l => !out.contains l)

/-! ## The end of an instruction and of a clause -/

/-- One arm at the end of a clause: its threads, its block's watchdog, and its divergence (R127, R306). -/
def State.armDone (s : State) (sc : Option StageCode) (hdr : Nat) (a : PArm) : State :=
  match s.warpOf a.wk with
  | none => s
  | some w =>
    let next := (sc.map (·.nextHeader hdr)).getD hdr
    let s1 := (s.modLanes a.wk a.lanes (·.clauseDone (w.inTrap a.arm) next)).modBlock a.wk.pos a.wk.stage
      fun b => { b with dog := 0 }
    let s2 := if a.entire w then s1.diverge a.wk a.arm else s1
    s2.settleWarp a.wk 40

def State.stageOf (s : State) (ctx code kern stage : Nat) : Option StageCode :=
  ((s.codeOf ctx code).bind (·.kernelOf kern)).bind (·.stageOf stage)

/-- The packet goes on to its next instruction, or ends its clause and frees its slot (R296). -/
def State.advance (s : State) (core slot : Nat) : State :=
  match s.packet? core slot with
  | none => s
  | some p =>
    if p.idx + 1 < p.cnt then
      (p.arms.foldl (fun s a => s.modLanes a.wk a.lanes fun t => { t with st := .packed, idx := p.idx + 1 }) s).modCore core
        (·.putSlot slot (some { p with idx := p.idx + 1 }))
    else
      p.arms.foldl (fun s a => s.armDone (s.stageOf p.ctx p.code p.kern p.stage) p.hdr a)
        (s.modCore core (·.putSlot slot none))

/-- Threads of a packet marked Stalled with it (R294). DEDUCED: log entry 27. -/
def State.stallPacket (s : State) (p : Packet) (w : Option Wait) : State :=
  p.arms.foldl (fun s a => s.modLanes a.wk a.lanes fun t => if t.st == .packed then { t with st := .stalled w } else t) s

/-- Some thread of the packet has still to execute its instruction. -/
def State.unfinished (s : State) (p : Packet) : Bool :=
  p.arms.any fun a => (s.warpOf a.wk).any fun w =>
    a.lanes.any fun l => (w.threads[l]?).any fun t => t.idx == p.idx && match t.st with
      | .stalled _ => true
      | _ => false

/-- The packet after its arms have acted: it goes on, unless some thread stalls in it. -/
def State.settlePacket (s : State) (core slot : Nat) : State :=
  match s.packet? core slot with
  | none => s
  | some p => if s.unfinished p then s.stallPacket p none else s.advance core slot

/-- The arms of a packet in the order they act in: ascending warp slot or warp id, then arm order (R138, R315, R318). -/
def State.inOrder (s : State) (byId : Bool) (l : List PArm) : List PArm :=
  let key (a : PArm) : Nat := if byId then a.wk.warp else ((s.warpOf a.wk).map (·.slot)).getD 0
  sortBy (fun x y => decide (key x < key y ∨ (key x = key y ∧ lowest x.lanes ≤ lowest y.lanes))) l

/-- AN INSTRUCTION IN ITS PACKET: the packet stalls as a whole when some arm does; otherwise each arm executes, in
turn, and the packet goes on. -/
def State.runArms (s : State) (h : How) (f : ArmFn) : State :=
  s.onPacket fun core slot p =>
    match p.arms.findSome? (s.armStalls p h f) with
    | some w => s.stallPacket p w
    | none => ((s.inOrder h.byId p.arms).foldl (fun s a => s.runArm core p h f a) s).settlePacket core slot

end Sys2Proof.Machine
end

