-- ==== Sys2Proof/Machine/Flow.lean ====
section
/-! DEFINITION. Control flow (R177 to R180), `join` (R137), `yield` (R321), and the trap instructions (R417, R418). -/

namespace Sys2Proof.Machine

/-- The code of the stage that a lane runs. -/
def State.codeOfLane (s : State) (c : RCtx) : Option StageCode := s.stage? c.pos c.block.stage

/-- R63: a clause header of the stage that is not a region entry, or its first clause. -/
def StageCode.enters (sc : StageCode) (off : Nat) : Bool :=
  off % 8 == 0 && sc.isHeader off && (off == 0 || !((sc.wordAt off).any (·.getLsbD 48)))

/-- The header of the clause that follows the one a thread runs. -/
def State.nextOf (s : State) (c : RCtx) (t : Thread) : Nat :=
  match s.codeOfLane c with
  | some sc => sc.nextHeader t.pc
  | none => t.pc

/-- R62: the target of a branch of format B. -/
def branchTarget (pc : Nat) (off : BitVec 36) : Nat := ((pc : Int) + 8 * off.toInt).toNat

/-- A lane's way out of its clause: the header it leaves for, and its call stack. -/
structure Way where
  pc : Nat
  calls : List Nat
  frees : List Src
  deriving DecidableEq, Repr

/-- The live lanes of the arm a lane belongs to. -/
def RCtx.armLive (c : RCtx) : List Nat := ((c.warp.armOf c.arm).map fun a => a.lanes.filter c.warp.going).getD []

/-- Control flow of an arm (R127, R177): each executing lane leaves for its target. A branch that would open a
seventeenth record traps in every thread of the arm. -/
def flowArm (target : State → RCtx → Thread → LaneStep Way) : ArmFn := fun s cs =>
  match gather (fun c => match c.thread with
      | some t => target s c t
      | none => .trap { cause := .illegalOpc }) cs with
  | .stall => (.stall, s)
  | .park w => (.park w, s)
  | .got vs ts =>
    match cs with
    | [] => (.done { lanes := [] }, s)
    | c :: _ =>
      let rest := c.armLive.filter fun l => !cs.any (·.lane == l)
      let fall := rest.filterMap fun l => (c.warp.threads[l]?).map (s.nextOf c)
      let heads := (vs.map (·.2.pc) ++ fall).eraseDups
      if 1 < heads.length && 16 ≤ c.warp.recs.length then
        (.done { lanes := c.armLive.map fun l => (l, .trap { cause := .joinBroken }) }, s)
      else if 1 < heads.length && decide (2 ^ 48 ≤ c.warp.epoch + 1 + heads.length) then
        -- the fork is the parent's release, and gives each child a fresh epoch (R232)
        (.done { lanes := c.armLive.map fun l => (l, .trap { cause := .epochExhausted }) }, s)
      else
        (.done { lanes := trapEnds ts ++ vs.map fun v =>
          (v.1.lane, .out { leave := some v.2.pc, calls := some v.2.calls, frees := v.2.frees }) }, s)

def flowHow (g : Guard) : How := { g := g, whole := true, threads := true }

/-- A call (R179): its return point is the next clause header. -/
def callWay (s : State) (c : RCtx) (t : Thread) (pc : Nat) (frees : List Src) : LaneStep Way :=
  if 32 ≤ t.calls.length then .trap { cause := .callDepth } else .ok ⟨pc, s.nextOf c t :: t.calls, frees⟩

/-- R63 on a computed target. -/
def State.entersAt (s : State) (c : RCtx) (pc : Nat) : LaneStep Unit :=
  LaneStep.require ((s.codeOfLane c).any (·.enters pc)) { cause := .illegalOpc }

/-- R178: branch. -/
def execBra (g : Guard) (off : BitVec 36) (s : State) : Host.Outcome State Fault Refusal :=
  .next (s.runArms (flowHow g) (flowArm fun _ _ t => .ok ⟨branchTarget t.pc off, t.calls, []⟩))

/-- R178, R63: branch or call to a computed target. -/
def execBrx (call : Bool) (g : Guard) (a : Src) (s : State) : Host.Outcome State Fault Refusal :=
  .next (s.runArms (flowHow g) (flowArm fun s c t =>
    (rd c 1 a).bind fun r => (s.entersAt c r.bits.toNat).bind fun _ =>
      if call then callWay s c t r.bits.toNat [a] else .ok ⟨r.bits.toNat, t.calls, [a]⟩))

/-- R178, R179: call. -/
def execCall (g : Guard) (off : BitVec 36) (s : State) : Host.Outcome State Fault Refusal :=
  .next (s.runArms (flowHow g) (flowArm fun s c t => callWay s c t (branchTarget t.pc off) []))

/-- R179: return to the point on top of the call stack. -/
def execRet (g : Guard) (s : State) : Host.Outcome State Fault Refusal :=
  .next (s.runArms (flowHow g) (flowArm fun s c t =>
    match t.calls with
    | [] => .trap { cause := .retEmpty }
    | p :: rest => (s.entersAt c p).bind fun _ => .ok ⟨p, rest, []⟩))

/-- R180: the executing threads end. -/
def execExit (g : Guard) (s : State) : Host.Outcome State Fault Refusal :=
  .next (s.runArms { g := g, threads := true } (epochGuard fun s cs =>
    match cs with
    | [] => (.done { lanes := [] }, s)
    | c :: _ =>
      let lanes := cs.map (·.lane)
      (.done { lanes := [] }, (s.modCore c.pos.core (·.dropLanes c.wk lanes)).exitLanes c.wk lanes)))

/-- R321: a switch point in deterministic mode; in ordinary mode the arm's wait count restarts. -/
def execYield (g : Guard) (s : State) : Host.Outcome State Fault Refusal :=
  .next (s.runArms { g := g, threads := true } fun s cs =>
    match cs with
    | [] => (.done { lanes := [] }, s)
    | c :: _ =>
      (.done { lanes := [] },
        if s.det? c.pos then
          s.modCore c.pos.core fun k => { k with
            turns := upd (fun t => t.1 == c.pos.ctx && t.2.1 == c.pos.grid)
              (fun t => (t.1, t.2.1, t.2.2.1, (t.2.2.2 ++ [c.wk]).eraseDups)) k.turns }
        else s))

/-! ## join -/

/-- The innermost record of an arm. -/
def Warp.innermost (w : Warp) (arm : Nat) : Option Rec := ((w.armOf arm).bind (·.inRec)).bind w.recOf

/-- Lanes of an arm arrive at a join whose clause stands at `hdr` (R137): they wait, the arm gives up its slot, and its
arrival is a release (R233). -/
def State.arriveJoin (s : State) (c : RCtx) (lanes : List Nat) (hdr : Nat) : State :=
  let s1 := s.parkLanes c.pos.core c.wk lanes .join
  s1.modWarp c.wk fun w => match lanes.head?.bind w.armOfLane with
    | some a => (w.modArm a.tag fun a => { a with arrived := some hdr, slot := false }).tick a.tag
    | none => w

/-- A warp that holds a turn reaches a switch point as threads of it park at `join`, though another of its arms is next
(R304). -/
def State.joinSwitch (s : State) (core : Nat) (wk : WKey) (lanes : List Nat) : State :=
  if (s.warpOf wk).any fun w => lanes.any fun l => (w.threads[l]?).any fun t => t.st == .parked .join then
    s.modCore core fun c =>
      if c.turns.any fun t => t.2.2.1 == wk then { c with switched := c.switched.filter (· != wk) ++ [wk] } else c
  else s

/-- An arm that stands at `join`: the executing lanes are all its threads. -/
def joinArm : ArmFn := fun s cs =>
  match cs with
  | [] => (.done { lanes := [] }, s)
  | c :: _ =>
    match c.warp.innermost c.arm, c.thread with
    | some r, some t =>
      if r.trap then
        -- a handler goes on; the trapped clause is completed by the whole arm once the record has closed (R403)
        if t.inHandler then (.done { lanes := [] }, s) else (.park .trapRecord, s)
      else (.done { lanes := [] }, ((s.arriveJoin c (cs.map (·.lane)) t.pc).settleWarp c.wk 40).joinSwitch c.pos.core c.wk
        (cs.map (·.lane)))
    | _, _ => (.done { lanes := [] }, s)

/-- The guard `?p7`, which reads true. -/
def guardAlways : Guard := ⟨7, false⟩

/-- R137: the arms of a record meet. A thread whose guard is false takes the instruction as arrived, so the guard decides
nothing. -/
def execJoin (g : Guard) (s : State) : Host.Outcome State Fault Refusal :=
  let _ := g
  .next (s.runArms (flowHow guardAlways) (epochGuard joinArm))

/-! ## Traps -/

/-- A system register's value as a thread sees it: until its next clause, as it was before another thread wrote it. Flags raised
and events counted since are seen; a scalar clause sees what its lane sees. DESIGN CHOICE: log entry 148. -/
def RCtx.seen (c : RCtx) (n : Nat) (now : Word) : Word :=
  match (c.thread.or c.warp.threads[c.lane]?).bind (·.stale.lookup n) with
  | none => now
  | some (old, new) =>
    if n = 0x001 || n = 0x002 then old ||| (now &&& ~~~new)
    else if n = 0x021 || n = 0x023 then old + (now - new)
    else old

/-- R417: SOFT_TRAP with the given code in each executing lane. -/
def execTrap (g : Guard) (k : BitVec 16) (s : State) : Host.Outcome State Fault Refusal :=
  .next (s.runArms { g := g } (pureArm (laneWise fun _ => .trap { cause := .softTrap, info0 := k.setWidth 32 })))

/-- R417: BREAKPOINT while TRAPCFG.BRK is 1; otherwise nothing. -/
def execBrk (g : Guard) (k : BitVec 16) (s : State) : Host.Outcome State Fault Refusal :=
  .next (s.runArms { g := g } fun s cs =>
    (laneWise (fun c =>
      if (c.seen 0x027 (((s.ctxOf c.pos.ctx).map (·.trapcfg)).getD 0)).getLsbD 0 then .trap { cause := .breakpoint, info0 := k.setWidth 32 }
      else .ok {}) cs, s))

/-- R418: return from the handler, to the trapped instruction or after it. -/
def execTret (next : Bool) (g : Guard) (s : State) : Host.Outcome State Fault Refusal :=
  .next (s.runArms (flowHow g) (perLane
    (fun _ c => match c.thread with
      | some t => LaneStep.require t.inHandler { cause := .tretState }
      | none => .ok ())
    (fun s c _ => match s.codeOfLane c with
      | some sc =>
        let s1 := s.modLanes c.wk [c.lane] (·.trapReturn sc next)
        -- a lane that goes on after its trapped instruction is not waited for at a last use there (R197)
        (.out {}, if next then s1.passUses c.wk (fun u => c.thread.any fun t =>
          u.hdr == t.tpc.toNat && u.idx == (t.tstate.extractLsb' 8 4).toNat) [c.lane] else s1)
      | none => (.out {}, s))))

/-- R420: no effect. -/
def execNop (g : Guard) (s : State) : Host.Outcome State Fault Refusal :=
  .next (s.runArms { g := g } (pureArm (laneWise fun _ => .ok {})))

end Sys2Proof.Machine
end

