-- ==== Sys2Proof/Machine/Claims.lean ====
section
/-! DEFINITION. Header waits (R49, R51, R52), and giving, claiming and counting registers (R138 to R141). -/

namespace Sys2Proof.Machine

/-! ## Header waits -/

/-- The fields of a clause header (R51). -/
def hdrEng (w : Dword) : Nat := (w.extractLsb' 49 3).toNat
def hdrTags (w : Dword) : List Nat :=
  ((List.range 16).filter fun i => w.getLsbD (30 + i)).map fun i => 16 * (w.extractLsb' 46 2).toNat + i
def hdrRing (w : Dword) : Option (Nat × Bool) :=
  if w.getLsbD 29 then some ((w.extractLsb' 26 3).toNat, w.getLsbD 25) else none
def hdrYld (w : Dword) : Bool := w.getLsbD 24

/-- A copy tag is done (R214). -/
def Position.tagDone (p : Position) (i : Nat) : Bool := (p.tags[i]?).all (·.count == 0)

/-- A ring stands at a phase: it is full, and the held entry has it (R319). -/
def Ring.standsAt (r : Ring) (ph : Bool) : Bool := r.entry.isSome && (!r.ph) == ph

def Position.ringMet (p : Position) : Option (Nat × Bool) → Bool
  | none => true
  | some (i, ph) => (p.rings[i]?).any (·.standsAt ph)

/-- The waits of a header are met for a thread of a position (R52). -/
def Position.headerMet (p : Position) (w : Dword) : Bool := (hdrTags w).all p.tagDone && p.ringMet (hdrRing w)

/-- The lowest selected tag with TGE set (R52). -/
def Position.headerTge (p : Position) (w : Dword) : Option (Nat × Cause) :=
  (hdrTags w).findSome? fun i => (p.tags[i]?).bind fun t => if t.tge then t.cause.map fun c => (i, c) else none

/-! ## The pool (R138, R142) -/

/-- Pool units free on a core: what no position of it holds. -/
def State.coreFree (s : State) (core : Nat) : Nat :=
  Config.poolUnits - ((s.c.positions.filter fun p => p.core == core && (p.st == .resident || p.st == .stopping)).map
    fun p => p.units + p.drawn).sum

/-- Units a claim may still draw beyond its launch allocation. DESIGN CHOICE: log entry 57. -/
def Position.allowance (p : Position) : Nat := p.limit - p.drawn

/-- The claim can be met now: from the lent pool, then from the core against the allowance. DESIGN CHOICE: log entry 57. -/
def State.claimFits (s : State) (p : Position) (units : Nat) : Bool :=
  decide (units ≤ p.lent + min p.allowance (s.coreFree p.core))

/-- A warp gains n granules: the registers read 0, raw32 (R120, R139). -/
def Warp.grow (w : Warp) (n : Nat) : Warp :=
  { w with gran := w.gran + n
           threads := w.threads.map fun t => { t with regs := t.regs ++ List.replicate (8 * n) Reg.init } }

/-- A warp gives its top n granules up: their registers are unheld, in the bypass too (R121, R139). -/
def Warp.shrink (w : Warp) (n : Nat) : Warp :=
  let k := 8 * (w.gran - n)
  { w with gran := w.gran - n
           threads := w.threads.map fun t => { t.dropByp (fun i => decide (k ≤ i)) with regs := t.regs.take k } }

/-- Units taken from a position: the lent pool first. -/
def Position.take (p : Position) (units : Nat) : Position :=
  { p with lent := p.lent - units, drawn := p.drawn + (units - p.lent) }

def State.grant (s : State) (wk : WKey) (n : Nat) : State :=
  let units := n * ((s.warpOf wk).map (·.threads.length)).getD 0
  (s.modPos wk.pos (·.take units)).modWarp wk (·.grow n)

/-- Registers of the top n granules that a fill is still to land in. -/
def Warp.topEmpty (w : Warp) (n : Nat) : Bool :=
  w.threads.any fun t => (t.regs.drop (8 * (w.gran - n))).any (·.st == .empty)

/-- S1, read as n32 (R102, R139). -/
def rdCount (c : RCtx) (n : Src) : LaneStep Nat := (rd c 1 n).bind fun r => (r.int32 F.n32).map Int.toNat

/-- What `rgive` and `rclaim` share: the whole warp acts, on the count that any executing lane reads. -/
def warpCount (n : Src) (act : State → RCtx → List Nat → Nat → ArmRes × State) : ArmFn := fun s cs =>
  match cs with
  | [] => (.done { lanes := [] }, s)
  | c :: _ =>
    let on := cs.map (·.lane)
    let all (t : Trap) : ArmRes × State := (.done { lanes := on.map fun l => (l, .trap t) }, s)
    if !c.warp.recs.isEmpty then all { cause := .scopeDiverged }
    else match rdCount c n with
      | .stall => (.stall, s)
      | .park w => (.park w, s)
      | .trap t => all t
      | .ok k => act s c on k

/-- R250: a form that deterministic mode forbids traps before any other check. -/
def detBan (form : Bool) (f : ArmFn) : ArmFn := fun s cs =>
  if form && cs.any fun c => s.det? c.pos then
    (.done { lanes := cs.map fun c => (c.lane, .trap { cause := .detViolation }) }, s)
  else f s cs

/-- R139: the warp's top n granules go to the lent pool. -/
def execRgive (g : Guard) (n : Src) (s : State) : Host.Outcome State Fault Refusal :=
  .next (s.runArms { g := g, whole := true } (warpCount n fun s c on k =>
    if k = 0 then (.done { lanes := on.map fun l => (l, .out { frees := [n] }) }, s)
    else if c.warp.gran < k then (.done { lanes := on.map fun l => (l, .trap (opTrap .claimRange 1 n.spec)) }, s)
    else if c.warp.topEmpty k then (.done { lanes := c.armLive.map fun l => (l, .park (.give k)) }, s)
    else
      (.done { lanes := on.map fun l => (l, .out { frees := [n] }) },
        (s.modPos c.pos.id fun p => { p with lent := p.lent + k * c.warp.threads.length }).modWarp c.wk (·.shrink k))))

/-- The lanes that have executed, with Pd where the form writes it. -/
def claimEnds (p : Option (BitVec 3)) (b : Bool) (n : Src) (on : List Nat) : ArmRes :=
  .done { lanes := on.map fun l => (l, .out
    { writes := match p with
        | some i => [(⟨.p i, false⟩, boolTV b)]
        | none => []
      frees := [n] }) }

/-- R139: the claim of n granules; `.try` never waits. DEDUCED: log entry 28. -/
def execRclaim (g : Guard) (p : Option (BitVec 3)) (n : Src) (s : State) : Host.Outcome State Fault Refusal :=
  .next (s.runArms { g := g, whole := true, byId := true, dsts := p.toList.map .p } (detBan p.isSome (warpCount n fun s c on k =>
    if k = 0 then (claimEnds p true n on, s)
    else if 16 < c.warp.gran + k then (.done { lanes := on.map fun l => (l, .trap (opTrap .claimRange 1 n.spec)) }, s)
    else if c.pos.claims.isEmpty && s.claimFits c.pos (k * c.warp.threads.length) then
      (claimEnds p true n on, s.grant c.wk k)
    else if p.isSome then (claimEnds p false n on, s)
    else
      (.done { lanes := c.armLive.map fun l => (l, .park .claim) },
        s.modPos c.pos.id fun q => { q with claims := q.claims ++ [⟨c.block.stage, c.warp.idx, k, n⟩] }))))

/-- R140: a count of the pool. -/
def execRpool (which : BitVec 2) (g : Guard) (d : Dst) (s : State) : Host.Outcome State Fault Refusal :=
  .next (s.runArms { g := g, dsts := [d.spec] } (pureArm (laneWise (laneRpool which d))))

/-! ## Events -/

/-- The last use of a count by its warp, which has no record open (R123, R139). -/
def State.freeCount (s : State) (wk : WKey) (n : Src) : State :=
  (s.freeWides wk [(0, .out { frees := [n] })]).modWarp wk fun w => w.frees w.root 0 [n]

/-- A claim that waited takes effect, and its warp goes on after it. -/
def State.releaseClaim (s : State) (p : Position) (k : Claim) : State :=
  let wk : WKey := ⟨p.id, k.stage, k.warp⟩
  match s.stage? p k.stage with
  | some sc => ((s.freeCount wk k.src).grant wk k.n).goOn wk sc (·.waits .claim)
  | none => s

def State.claimUnits (s : State) (p : Position) (k : Claim) : Nat :=
  k.n * ((s.warpOf ⟨p.id, k.stage, k.warp⟩).map (·.threads.length)).getD 0

/-- R138: the claim at the head of a position's queue is served, once it can be met. -/
def execClaimServed (pos : Nat) (s : State) : Host.Outcome State Fault Refusal :=
  .next <|
    match s.posOf pos with
    | none => s
    | some p =>
      match p.claims with
      | [] => s
      | k :: rest =>
        if s.claimFits p (s.claimUnits p k) then
          (s.modPos pos fun p => { p with claims := rest }).releaseClaim p k
        else s

/-- (COUNT − target) mod 2^32 is below 2^31 (R318). -/
def countReached (count target : Word) : Bool := decide ((count - target).toNat < 2 ^ 31)

/-- Waits that are not met, and that only a warp of the siblings can end (R141). -/
def siblingWait (p : Position) (b : Block) : Wait → Bool
  | .claim | .barB _ | .join | .arm => true
  | .count k target => !(b.bars[k]?).any fun r => countReached r.count target
  | .ringEmpty r => (p.rings[r]?).any (·.entry.isSome)
  | .ringFull r => (p.rings[r]?).any (·.entry.isNone)
  | _ => false

/-- A thread that R141 counts as unable to go on. -/
def Thread.stuck (t : Thread) (sc : StageCode) (p : Position) (b : Block) : Bool :=
  match t.st with
  | .exited => true
  | .parked w => siblingWait p b w
  | .ready => !t.mid && (sc.wordAt t.pc).any fun w => !p.ringMet (hdrRing w)
  | _ => false

/-- R141: every warp of the siblings has exited or waits on the others, and the head claim cannot be met. -/
def State.claimDeadlock (s : State) (p : Position) : Bool :=
  (match p.claims with
    | [] => false
    | k :: _ => decide (p.lent + p.allowance < s.claimUnits p k))
  && p.blocks.all fun b => match s.stage? p b.stage with
    | some sc => b.warps.all fun w => w.threads.all fun t => t.stuck sc p b
    | none => false

/-- R141: REG_DEADLOCK in every thread of every warp that waits in `rclaim`; the claims take no effect. -/
def execRegDeadlock (pos : Nat) (s : State) : Host.Outcome State Fault Refusal :=
  .next <|
    match s.posOf pos with
    | none => s
    | some p =>
      if s.claimDeadlock p then
        p.claims.foldl (fun s k => s.trapLanes ⟨pos, k.stage, k.warp⟩ .regDeadlock fun _ t => t.waits .claim)
          (s.modPos pos fun p => { p with claims := [] })
      else s

end Sys2Proof.Machine
end

