-- ==== Sys2Proof/Machine/Mem.lean ====
section
/-! DEFINITION. Thread accesses to memory and stash (R206 to R210, R219 to R225): handles, loads, stores, atomics,
fences and hints, and the operand log of accesses that wait on a page fault (R334 to R336). -/

namespace Sys2Proof.Machine

/-! ## Reading operands -/

/-- A busy handle, or m-handle: the instruction stalls (R206), or the arm parks where its own logged `ldh` fills it (R335). -/
def awaitHandle {α : Type} (c : RCtx) (h : Nat) : LaneStep α :=
  match (c.thread.or c.warp.threads[c.lane]?).bind (·.logOf (128 + h)) with
  | some e => .park (.pageFault e)
  | none => .park (.handle h)

/-- A handle, once no `ldh` is filling it (R206). -/
def handleOf (c : RCtx) (h : BitVec 4) : LaneStep (BitVec 128) :=
  if c.warp.busy.contains h.toNat then awaitHandle c h.toNat else .ok ((c.warp.h[h.toNat]?).getD 0)

def mhandleOf (c : RCtx) (m : BitVec 4) : LaneStep (BitVec 128) :=
  if c.warp.busy.contains (16 + m.toNat) then awaitHandle c (16 + m.toNat) else .ok ((c.warp.m[m.toNat]?).getD 0)

/-- An index, offset or count: an unsigned 32-bit value of any integer tag (R219). -/
def rdNat (c : RCtx) (field : Nat) (src : Src) : LaneStep Nat := (rd c field src).bind (·.nat32)

/-- Consecutive registers of a quad or pair, lowest first, as raw32 (R226). -/
def rdRaws (c : RCtx) (field : Nat) (src : Src) : Nat → LaneStep (List Word)
  | 0 => .ok []
  | n + 1 => (rd c field src).bind fun r => (rdRaws c field (srcSucc src) n).map fun l => r.bits :: l

/-- The registers of a quad or pair, for freeing. -/
def srcRun (src : Src) : Nat → List Src
  | 0 => []
  | n + 1 => src :: srcRun (srcSucc src) n

/-- 128 bits of a quad, the lowest register in the low bits. -/
def quadBits (l : List Word) : BitVec 128 :=
  BitVec.ofNat 128 (l.foldr (fun w acc => w.toNat + 2 ^ 32 * acc) 0)

def rdQuad (c : RCtx) (field : Nat) (src : Src) : LaneStep (BitVec 128) := (rdRaws c field src 4).map quadBits

/-- The party of a lane's arm. -/
def RCtx.party (c : RCtx) : Party := partyOf c.warp c.arm

/-- The stash bytes that a lane's stage may reach (R211). -/
def State.stashLimit (s : State) (c : RCtx) : Nat := 64 * ((s.codeOfLane c).map (·.stash)).getD 0

/-! ## One access -/

/-- An access of one lane and the values it uses (R334). -/
structure Acc where
  r : BitVec 128
  i : Nat
  o : Nat
  vals : List TV
  deriving DecidableEq, Repr

/-- Check 12, race detection, at a place that has passed the others. -/
def State.raceCheck (s : State) (v : Viewer) (p : Position) (q : AccReq) (k : AccKind) (x : Checked) : Checked :=
  match x with
  | .ok l =>
    let (rp, a) := s.raceAt p l
    if k == .read && !(recUntr q.handle && !v.det) && s.tableFull v ((sectorsOf a q.n).map (rp, ·)) then .wait .backPressure
    else match s.checkRace v p q.handle l q.n k with
      | some t => .trap t
      | none => .ok l
  | x => x

/-- All the checks of R220, race detection last. -/
def State.reach (s : State) (v : Viewer) (p : Position) (b : Block) (limit : Nat) (q : AccReq) (k : AccKind) : Checked :=
  s.raceCheck v p q k (s.checkLane p b v.det limit q)

/-- Checks 9 to 12, as a replay makes them of an access to an object (R336). -/
def State.reachAgain (s : State) (v : Viewer) (p : Position) (q : AccReq) (k : AccKind) : Checked :=
  s.raceCheck v p q k (s.checkMem p.ctx (recObj q.handle) (recAddr q.handle q.i q.o) q.n q.wr q.rmw)

/-- The operand that a LENT_WRITE names (R402): the handle. DEDUCED: log entry 30. -/
def Trap.atHandle (t : Trap) (hs : BitVec 4) : Trap :=
  if t.cause == .lentWrite then opTrap .lentWrite 1 (.h hs) else t

/-- The fill of a window line asked for. -/
def State.wantLine (s : State) (p : Position) (b : Nat) (who : Party) (eng : Bool) : State :=
  match p.windowAt b with
  | some (k, w) => s.modPos p.id (·.modWin k fun x =>
      if x.wants (w.lineOf b) then x else { x with want := x.want ++ [(w.lineOf b, who, eng)] })
  | none => s

/-- A fill sent on its way to a lane register (R122). -/
def State.addFill (s : State) (core : Nat) (wk : WKey) (lane : Nat) (d : Spec) (v : TV) (p : Party) : State :=
  match d with
  | .v i =>
    let (id, s1) := s.fresh
    s1.modCore core fun c => { c with fills := c.fills ++ [⟨id, wk, lane, i.toNat, v, p⟩] }
  | _ => s

/-! ## What the accesses do at their location -/

/-- A thread's access translates; two TLB entries of one generation are a corrected soft error (R330). -/
def State.fillTlb (s : State) (p : Position) (l : Loc) : State :=
  let (s1, n) := s.useTlb p l
  (List.range n).foldl (fun s _ => s.postPad (s.padOfCtx p.ctx) { src := 57, kind := 7 }) s1

/-- DESIGN CHOICE: log entry 61. -/
def State.loadAt (s : State) (v : Viewer) (p : Position) (r : BitVec 128) (l : Loc) (n : Nat) : List Byte × State :=
  let x := s.readLoc v p l n
  (x.1, (x.2.recordRace v p r l n .read false).fillTlb p l)

def State.storeAt (s : State) (v : Viewer) (p : Position) (r : BitVec 128) (l : Loc) (w : Word) : State :=
  ((s.writeLoc v p l (bytesOf w)).recordRace v p r l 4 .write false).fillTlb p l

/-- The frontier that an arm's release carries. -/
def State.releaseOf (s : State) (wk : WKey) (arm : Nat) (v : Viewer) : Frontier :=
  (((s.warpOf wk).bind (·.armOf arm)).map (·.release v.party)).getD (frontPut v.front v.party v.epoch)

/-- The word of an atomic at its coherence point: the old word, the flags, and the state with the new one (R216,
R223). -/
def State.atomWord (s : State) (v : Viewer) (p : Position) (l : Loc) (op : AtomOp) (sys : Bool) (x y : Word) :
    Word × Flags × State :=
  match l with
  | .stash b =>
    let old := wordOf (((s.posOf p.id).map fun q => memRead q.stash b 4).getD [])
    let r := atomStep op old x y
    (old, r.2, s.writeStash v p.id b (bytesOf r.1))
  | .glob obj off =>
    match ((s.ctxOf p.ctx).bind (·.objOf obj)).bind (·.translate off true) with
    | none => (0, {}, s)
    | some pa =>
      let s1 := ((s.snoop p.ctx obj off 4 true).publish v (atomLvl sys)).performReds fun e =>
        e.owner == v.party && e.overlaps pa 4
      let s2 := s1.modC fun c => c.exposeAll (fun q => q.overlaps pa 4) (atomLvl sys)
      let old := wordOf (s2.c.latest pa 4)
      let r := atomStep op old x y
      let (id, s3) := s2.fresh
      (old, r.2, (s3.stampKey (s.padOfCtx p.ctx) pa 4).modC fun c => ({ c with pend := c.pend ++ [
        { id := id, owner := v.party, epoch := v.epoch, ctx := v.ctx, wk := v.wk, hw := v.hw, pa := pa,
          bytes := bytesOf r.1, red := none, lvl := atomLvl sys, clus := [], seen := [], fence := 0, rel := none }] } :
        Compute).retire)

/-- An `atom` at a location, with its edges (R233): it acquires what earlier atomics of the word released, which is visible
from then on (R234). -/
def State.atomAt (s : State) (v : Viewer) (arm : Nat) (p : Position) (r : BitVec 128) (l : Loc) (k : AccKind)
    (op : AtomOp) (sys : Bool) (x y : Word) : Word × Flags × State :=
  let (old, fl, s1) := s.atomWord v p l op sys x y
  let w := s.raceAt p l
  let s2 := (s1.recordRace v p r l 4 k false).fillTlb p l
  let f := s2.c.taken p.ctx w sys v.hw
  let s3 := (s2.reveal f (atomLvl sys)).modC fun c => c.leave p.ctx w sys v.hw (frontJoin (s2.releaseOf v.wk arm v) f)
  (old, fl, s3.modWarp v.wk (·.acquire arm f))

/-- A `red` at a location: it is a release, and is performed later (R245 to R248); in the stash, at once. -/
def State.redAt (s : State) (v : Viewer) (arm : Nat) (p : Position) (r : BitVec 128) (l : Loc) (k : AccKind)
    (op : AtomOp) (sys : Bool) (x : Word) : Flags × State :=
  let w := s.raceAt p l
  let f := s.releaseOf v.wk arm v
  let s0 := (s.recordRace v p r l 4 k false).fillTlb p l
  match l with
  | .stash _ =>
    let (_, fl, s1) := s0.atomWord v p l op sys x 0
    (fl, (s1.modC fun c => c.leave p.ctx w sys v.hw f).modWarp v.wk (·.tick arm))
  | .glob obj off =>
    match ((s.ctxOf p.ctx).bind (·.objOf obj)).bind (·.translate off true) with
    | none => ({}, s)
    | some pa =>
      let (id, s1) := ((s0.snoop p.ctx obj off 4 true).performReds fun e =>
        e.overlaps pa 4 && before v.front e.owner e.epoch).fresh
      ({}, ((s1.stampKey (s.padOfCtx p.ctx) pa 4).modC fun c => { c with pend := c.pend ++ [
        { id := id, owner := v.party, epoch := v.epoch, ctx := v.ctx, wk := v.wk, hw := v.hw, pa := pa,
          bytes := [0, 0, 0, 0], red := some (op, x, sys), lvl := 1, clus := [], seen := [], fence := 0,
          rel := some (w.1, w.2, f) }] }).modWarp v.wk (·.tick arm))

/-! ## The operand log (R334) -/

/-- The lane registers that a logged instruction leaves empty; 128 + h for handle or m-handle h. -/
def logRegs (i : Instr) : List Nat :=
  match i with
  | .ld _ _ d .. => emptied d.spec
  | .atom _ _ _ d .. => emptied d.spec
  | .ldh _ d _ => match d.spec with
    | .h k => [128 + k.toNat]
    | .m k => [144 + k.toNat]
    | _ => []
  | _ => []

/-- An entry for an arm with lanes that wait on faults; it keeps what every executing lane read, and the arm waits for its
service (R335). -/
def State.addLog (s : State) (c : RCtx) (v : Viewer) (i : Instr) (lanes : List (Nat × Acc × Nat)) (complete : List Nat) :
    State :=
  match lanes, lanes.any fun l => l.2.2 != noFid with
  | l :: _, true =>
    let (id, s1) := s.fresh
    let e : LogEnt :=
      { id := id, word := i, pc := (c.thread.map (·.pc)).getD 0, idx := (c.thread.map (·.idx)).getD 0, ctx := c.pos.ctx,
        wk := c.wk, arm := c.arm, party := v.party, epoch := v.epoch, bufRec := l.2.1.r,
        lanes := lanes.map fun x => (x.1, BitVec.ofNat 32 x.2.1.i, BitVec.ofNat 32 x.2.1.o, x.2.1.vals, x.2.2),
        complete := complete, retry := false }
    (s1.modCore c.pos.core fun k => { k with log := k.log ++ [e] }).modWarp c.wk fun w =>
      w.modThreads c.armLive fun t => { t with fault := t.fault ++ [(id, logRegs i)] }
  | _, _ => s

def State.logFull (s : State) (core : Nat) : Bool := (s.coreOf core).any fun c => decide (32 ≤ c.log.length)

/-- The part of a memory instruction that its kind decides. -/
structure MemOp where
  /-- For the log. -/
  instr : Instr
  hs : BitVec 4
  read : RCtx → LaneStep Acc
  req : State → RCtx → Acc → AccReq
  kind : AccKind
  oob : State → Viewer → RCtx → Acc → LaneEnd × State
  perform : State → Viewer → RCtx → Acc → Loc → LaneEnd × State
  /-- The lane's result while its access waits on a fault. -/
  waits : Acc → LaneOut

/-- One lane's end, with the fault that it waits on. -/
def State.memLane (s : State) (m : MemOp) (c : RCtx) (a : Acc) : LaneEnd × Option Nat × State :=
  match s.viewer c.wk c.arm with
  | none => (.out {}, none, s)
  | some v =>
    let q := m.req s c a
    match s.reach v c.pos c.block (s.stashLimit c) q m.kind with
    | .trap t => (.trap (t.atHandle m.hs), none, s)
    | .oob => let (e, s1) := m.oob s v c a; (e, none, s1)
    | .wait w => (.park w, none, s.wantLine c.pos (recAddr a.r a.i a.o) c.party false)
    | .fault obj page =>
      if s.logFull c.pos.core then (.park .backPressure, none, s)
      else match s.postFault c.pos.ctx obj page q.wr (s.byCore false c.pos.core v.party) with
        | (.fatal, s1) => (.trap (memTrap .pageFaultFatal obj (recAddr a.r a.i a.o)), none, s1)
        | (.noId, s1) => (.park .backPressure, none, s1)
        | (.fid n, s1) => (.out (m.waits a), some n, s1)
    | .ok l => let (e, s1) := m.perform s v c a l; (e, none, s1)

/-- One more lane of an arm: the ends so far, what each lane read with the fault it waits on, and the state. -/
def memTurn (m : MemOp) (x : List (Nat × LaneEnd) × List (Nat × Acc × Nat) × State) (v : RCtx × Acc) :
    List (Nat × LaneEnd) × List (Nat × Acc × Nat) × State :=
  let (e, f, s) := x.2.2.memLane m v.1 v.2
  let r := if s.overspent v.1.wk then (.trap { cause := .epochExhausted }, none, x.2.2) else (e, f, s)
  (x.1 ++ [(v.1.lane, r.1)], x.2.1 ++ [(v.1.lane, v.2, r.2.1.getD noFid)], r.2.2)

/-- The lanes that have performed their access: they have a result, and wait on no fault (R334). -/
def performed (ends : List (Nat × LaneEnd)) (lanes : List (Nat × Acc × Nat)) : List Nat :=
  ends.filterMap fun e => match e.2 with
    | .out _ => if lanes.any fun l => l.1 == e.1 && l.2.2 != noFid then none else some e.1
    | _ => none

/-- The lanes of an arm access memory, in ascending order; those that fault share a log entry. -/
def memArm (m : MemOp) : ArmFn := fun s cs =>
  match gather m.read cs with
  | .stall => (.stall, s)
  | .park w => (.park w, s)
  | .got vs ts =>
    let r := vs.foldl (memTurn m) ([], [], s)
    let done : ArmRes := .done { lanes := trapEnds ts ++ r.1 }
    match cs.head?, cs.head?.bind fun c => s.viewer c.wk c.arm with
    | some c, some v =>
      (done, r.2.2.addLog c v m.instr r.2.1 (performed r.1 r.2.1))
    | _, _ => (done, r.2.2)

/-! ## ld and st (R222) -/

/-- A load's destination is written to the file whatever X says (R124). -/
def fileDst (d : Dst) : Dst := { d with byp := false }

def rdAcc (c : RCtx) (hs : BitVec 4) (i o : Src) (vals : List TV) : LaneStep Acc :=
  (handleOf c hs).bind fun r => (rdNat c 2 i).bind fun x => (rdNat c 3 o).map fun y => ⟨r, x, y, vals⟩

/-- A value on its way to the destination, or dropped with it. -/
def State.deliver (s : State) (v : Viewer) (c : RCtx) (d : Dst) (x : TV) (srcs : List Src) : LaneOut × State :=
  ({ empties := emptied d.spec, frees := srcs }, s.addFill c.pos.core c.wk c.lane d.spec x v.party)

/-- `deliver`, as a lane's end. -/
def State.deliverEnd (s : State) (v : Viewer) (c : RCtx) (d : Dst) (x : TV) (srcs : List Src) : LaneEnd × State :=
  let (o, s1) := s.deliver v c d x srcs
  (.out o, s1)

def ldOp (f : Fmt) (g : Guard) (d : Dst) (hs : BitVec 4) (i o : Src) : MemOp where
  instr := .ld f g d hs i o
  hs := hs
  read c := (rdAcc c hs i o []).bind fun a => (wrOk c (fileDst d)).map fun _ => a
  req _ _ a := { handle := a.r, i := a.i, o := a.o, n := 4, align := 4, wr := false }
  kind := .read
  oob s v c _ := s.deliverEnd v c d ⟨0, f⟩ [i, o]
  perform s v c a l :=
    let (bs, s1) := s.loadAt v c.pos a.r l 4
    s1.deliverEnd v c d ⟨wordOf bs, f⟩ [i, o]
  waits _ := { empties := emptied d.spec, frees := [i, o] }

/-- R222: load of a container. -/
def execLd (f : Fmt) (g : Guard) (d : Dst) (hs : BitVec 4) (i : Src) (o : Src) (s : State) : Host.Outcome State Fault Refusal :=
  .next (s.runArms { g := g, dsts := [d.spec], early := [i.spec, o.spec] } (memArm (ldOp f g d hs i o)))

def valOf (a : Acc) (n : Nat) : Word := ((a.vals[n]?).getD .zero).val

def stOp (f : Fmt) (g : Guard) (v : Spec) (hs : BitVec 4) (i o : Src) : MemOp where
  instr := .st f g v hs i o
  hs := hs
  read c := (rd c 0 ⟨v, false, false⟩).bind fun r => (r.widen f).bind fun x => rdAcc c hs i o [⟨x, f⟩]
  req _ _ a := { handle := a.r, i := a.i, o := a.o, n := 4, align := 4, wr := true }
  kind := .write
  oob s _ _ _ := (.out { frees := [i, o] }, s)
  perform s v c a l := (.out { frees := [i, o] }, s.storeAt v c.pos a.r l (valOf a 0))
  waits _ := { frees := [i, o] }

/-- R222: store of a container. -/
def execSt (f : Fmt) (g : Guard) (v : Spec) (hs : BitVec 4) (i : Src) (o : Src) (s : State) : Host.Outcome State Fault Refusal :=
  .next (s.runArms { g := g, early := [v, i.spec, o.spec] } (memArm (stOp f g v hs i o)))

/-! ## atom and red (R223) -/

/-- The operations that deterministic mode forbids (R220, check 8). -/
def detBans (op : AtomOp) : Bool := op == .addF32 || op == .xchg || op == .cas

/-- R250: the sector's current reductions have another code. -/
def State.rcodeClash (s : State) (v : Viewer) (p : Position) (r : BitVec 128) (i : Nat) (op : AtomOp) : Bool :=
  let off := recAddr r i 0
  let (pos, a) := s.raceAt p (if recStash r then .stash off else .glob (recObj r) off)
  ((s.sectorFor v pos (a / 32)).rcode).any (· != op)

/-- Check 8 for an atomic; `ret` when it returns the old word. -/
def State.atomBan (s : State) (c : RCtx) (op : AtomOp) (ret : Bool) (a : Acc) : Bool :=
  s.det? c.pos && (detBans op || ret ||
    match s.viewer c.wk c.arm with
    | some v => s.rcodeClash v c.pos a.r a.i op
    | none => false)

/-- The operand of an atomic: one value, or the pair of `.cas`. -/
def rdOperand (c : RCtx) (op : AtomOp) (v : Src) : LaneStep (List TV) :=
  (rd c 3 v).bind fun r => (r.widen (atomFmt op)).bind fun x =>
    if op == .cas then (rd c 3 (srcSucc v)).map fun q => [⟨x, atomFmt op⟩, ⟨q.bits, F.raw32⟩]
    else .ok [⟨x, atomFmt op⟩]

def operandSrcs (op : AtomOp) (v : Src) : List Src := if op == .cas then srcRun v 2 else [v]

def atomReq (s : State) (c : RCtx) (op : AtomOp) (ret : Bool) (a : Acc) : AccReq :=
  { handle := a.r, i := a.i, o := 0, n := 4, align := 4, wr := true, ban := s.atomBan c op ret a, rmw := true }

def rdAtom (c : RCtx) (op : AtomOp) (hs : BitVec 4) (i v : Src) : LaneStep Acc :=
  (handleOf c hs).bind fun r => (rdNat c 2 i).bind fun x => (rdOperand c op v).map fun vs => ⟨r, x, 0, vs⟩

/-- In deterministic mode an `atom` returns nothing and counts as a reduction (R250). -/
def atomKind (det sys : Bool) (op : AtomOp) : AccKind := if det then .red sys op else .atom sys

def atomOp (op : AtomOp) (sys : Bool) (g : Guard) (d : Dst) (hs : BitVec 4) (i v : Src) (det : Bool) : MemOp where
  instr := .atom op sys g d hs i v
  hs := hs
  read c := (rdAtom c op hs i v).bind fun a => (wrOk c (fileDst d)).map fun _ => a
  req s c a := atomReq s c op (d.spec != .zero) a
  kind := atomKind det sys op
  oob s w c _ := s.deliverEnd w c d ⟨0, atomFmt op⟩ (i :: operandSrcs op v)
  perform s w c a l :=
    let (old, fl, s1) := s.atomAt w c.arm c.pos a.r l (atomKind det sys op) op sys (valOf a 0) (valOf a 1)
    let (o, s2) := s1.deliver w c d ⟨old, atomFmt op⟩ (i :: operandSrcs op v)
    (.out { o with flags := fl }, s2)
  waits _ := { empties := emptied d.spec, frees := i :: operandSrcs op v }

/-- Whether the packet's arm runs in deterministic mode. -/
def detArm (f : Bool → ArmFn) : ArmFn := fun s cs => f (cs.any fun c => s.det? c.pos) s cs

/-- R223: an atomic that returns the old word. -/
def execAtom (op : AtomOp) (sys : Bool) (g : Guard) (d : Dst) (hs : BitVec 4) (i : Src) (v : Src) (s : State) : Host.Outcome State Fault Refusal :=
  .next (s.runArms { g := g, dsts := [d.spec], early := [i.spec, v.spec] } (epochGuard (detArm fun det => memArm (atomOp op sys g d hs i v det))))

def redOp (op : AtomOp) (sys : Bool) (g : Guard) (hs : BitVec 4) (i v : Src) : MemOp where
  instr := .red op sys g hs i v
  hs := hs
  read c := rdAtom c op hs i v
  req s c a := atomReq s c op false a
  kind := .red sys op
  oob s _ _ _ := (.out { frees := [i, v] }, s)
  perform s w c a l :=
    let (fl, s1) := s.redAt w c.arm c.pos a.r l (.red sys op) op sys (valOf a 0)
    (.out { frees := [i, v], flags := fl }, s1)
  waits _ := { frees := [i, v] }

/-- R223: a reduction, which returns nothing. -/
def execRed (op : AtomOp) (sys : Bool) (g : Guard) (hs : BitVec 4) (i : Src) (v : Src) (s : State) : Host.Outcome State Fault Refusal :=
  .next (s.runArms { g := g, early := [i.spec, v.spec] } (epochGuard (memArm (redOp op sys g hs i v))))

/-! ## fence (R224) -/

/-- Stash writes of a party marked as followed by its `fence`. -/
def Position.markStash (p : Position) (party : Party) : Position :=
  { p with unfenced := p.unfenced.map fun u => if u.party == party then { u with fence := true } else u }

def Compute.markFence (c : Compute) (party : Party) (sc : Nat) : Compute :=
  { c with pend := c.pend.map fun e => if e.owner == party then { e with fence := max e.fence (sc + 1) } else e }

/-- A fence of scope SC: everything the party must make visible is performed there, and engines issued later see it. -/
def State.fenceBy (s : State) (v : Viewer) (sc : Nat) : State :=
  ((s.publish v (sc + 1)).modC (·.markFence v.party sc)).modPos v.wk.pos (·.markStash v.party)

/-- R224: the thread goes on once its earlier accesses have been performed at the scope. -/
def execFence (sc : BitVec 2) (g : Guard) (s : State) : Host.Outcome State Fault Refusal :=
  .next (s.runArms { g := g } fun s cs =>
    match cs with
    | [] => (.done { lanes := [] }, s)
    | c :: _ =>
      match s.viewer c.wk c.arm with
      | some v => (.done { lanes := [] }, s.fenceBy v sc.toNat)
      | none => (.done { lanes := [] }, s))

/-! ## Hints (R217, R225) -/

def Ctx.dropHint (c : Ctx) : Ctx := { c with hintdrop := if c.hintdrop = 0xFFFFFFFF then c.hintdrop else c.hintdrop + 1 }

/-- A stash byte that a hint may name: its window line has been filled, or can be without a fault or a revoked key. -/
def State.hintLine (s : State) (p : Position) (b : Nat) : Bool :=
  match p.windowAt b with
  | none => true
  | some (_, w) => (w.st (w.lineOf b)).isSome || (s.winPa p w (w.lineOf b) false).any s.keyRead

/-- A byte range that a hint may name: no fault, no forbidden page, no revoked key. DEDUCED: log entry 48. -/
def State.hintBytes (s : State) (c : RCtx) (r : BitVec 128) (off n : Nat) : Bool :=
  if recStash r then decide (off + n ≤ s.stashLimit c) && (List.range n).all fun i => s.hintLine c.pos (off + i)
  else
    match (s.ctxOf c.pos.ctx).bind (·.objOf (recObj r)) with
    | none => false
    | some o => o.translates off n false && (List.range n).all fun i => (o.translate (off + i) false).any s.keyRead

/-- A hint lane is dropped (R217), or does what it does. DEDUCED: log entry 48. -/
def hintArm (read : RCtx → LaneStep (BitVec 128 × Nat × Nat)) (ok : State → RCtx → BitVec 128 → Nat → Nat → Bool)
    (act : State → RCtx → BitVec 128 → Nat → Nat → State) (srcs : List Src) : ArmFn :=
  perLane (fun _ c => read c) fun s c a =>
    let bad := (s.checkRec c.pos.ctx a.1 0 false).isSome || !ok s c a.1 a.2.1 a.2.2
    (.out { frees := srcs }, if bad then s.modCtx c.pos.ctx (·.dropHint) else act s c a.1 a.2.1 a.2.2)

/-- R225: a line asked for ahead of its use. -/
def execPfh (l2 : Bool) (g : Guard) (hs : BitVec 4) (i : Src) (o : Src) (s : State) : Host.Outcome State Fault Refusal :=
  let _ := l2
  .next (s.runArms { g := g } (hintArm
    (fun c => (handleOf c hs).bind fun r => (rdNat c 2 i).bind fun x => (rdNat c 3 o).map fun y => (r, x, y))
    (fun s c r x y => recInBounds r x y 1 && s.hintBytes c r (recAddr r x y) 1)
    (fun s c r x y => if recStash r then
        (match c.pos.windowAt (recAddr r x y) with
          | some (_, w) => if (w.st (w.lineOf (recAddr r x y))).isSome then s else s.wantLine c.pos (recAddr r x y) c.party false
          | none => s)
      else s)
    [i, o]))

/-- R225: lines marked for keeping, normal use or early eviction; a hint without an architectural effect. -/
def execRes (kind : BitVec 2) (g : Guard) (hs : BitVec 4) (i : Src) (n : Src) (s : State) : Host.Outcome State Fault Refusal :=
  let _ := kind
  .next (s.runArms { g := g } (perLane
    (fun _ c => (handleOf c hs).bind fun r => (rdNat c 2 i).bind fun x => (rdNat c 3 n).map fun y => (r, x, y))
    (fun s c a =>
      let (r, x, k) := a
      let bad := (s.checkRec c.pos.ctx r 0 false).isSome ||
        (List.range k).any fun e => !(recInBounds r (x + e) 0 (recStride r) &&
          s.hintBytes c r (recBase r + (x + e) * recStride r) (recStride r))
      (.out { frees := [i, n] }, if k != 0 && bad then s.modCtx c.pos.ctx (·.dropHint) else s))))

end Sys2Proof.Machine
end

