-- ==== Sys2Proof/Machine/Handles.lean ====
section
/-! DEFINITION. `ldh` (R221), the landing of fills (R122, R206), the replay of logged accesses (R336) and what a fatal
resolution does to them (R335), and the progress of accesses (R244 to R248). -/

namespace Sys2Proof.Machine

/-! ## ldh -/

/-- A reserved value of an m-handle (R185). DEDUCED: log entry 49. -/
def mrecBad (r : BitVec 128) : Bool :=
  r.extractLsb' 20 4 != 0 || r.extractLsb' 53 11 != 0 || r.extractLsb' 77 3 != 0 || r.extractLsb' 116 12 != 0
    || r.extractLsb' 0 3 != 0 || r.extractLsb' 24 3 != 0

/-- The number of a destination handle: 0 to 15 a handle, 16 to 31 an m-handle. -/
def handleNo : Spec → Nat
  | .h i => i.toNat
  | .m i => 16 + i.toNat
  | _ => 0

def badRecord (h : Nat) (r : BitVec 128) : Bool := if h < 16 then recBad r else mrecBad r

def Warp.putHandle (w : Warp) (h : Nat) (r : BitVec 128) : Warp :=
  if h < 16 then { w with h := w.h.set h r } else { w with m := w.m.set (h - 16) r }

/-- The destination handle, once no earlier `ldh` is filling it (R206). -/
def dstFree (c : RCtx) (h : Nat) : LaneStep Unit := if c.warp.busy.contains h then awaitHandle c h else .ok ()

/-- A handle fill sent on its way: the handle is busy until it lands. -/
def State.addHFill (s : State) (core : Nat) (wk : WKey) (h : Nat) (r : BitVec 128) (p : Party) : State :=
  let (id, s1) := s.fresh
  (s1.modCore core fun c => { c with hfills := c.hfills ++ [⟨id, wk, h, r, p⟩] }).modWarp wk fun w =>
    { w with busy := w.busy ++ [h] }

def ldhReq (a : Acc) : AccReq := { handle := a.r, i := a.i, o := a.o, n := 16, align := 16, wr := false }

/-- What the lanes' bits come to as a record. -/
inductive Settled where
  | none | differ | bad
  | ok (r : BitVec 128)
  deriving DecidableEq, Repr

/-- Bits that every lane agrees on, checked as a record (R221). -/
def settleRecord (h : Nat) : List (BitVec 128) → Settled
  | [] => .none
  | r :: rs => if rs.any (· != r) then .differ else if badRecord h r then .bad else .ok r

/-- RECORD_BAD at the place that a lane read (R402). -/
def badAt (r : BitVec 128) (i o : Nat) : Trap := memTrap .recordBad (recObj r) (recAddr r i o)

/-- The words of 16 bytes, as a log entry keeps them. -/
def wordsOf (r : BitVec 128) : List TV := (List.range 4).map fun i => ⟨r.extractLsb' (32 * i) 32, 0⟩

def ofWords (l : List TV) : BitVec 128 := quadBits (l.map (·.val))

/-- What one lane of the memory form brings. -/
inductive Brought where
  | trap (t : Trap)
  | wait (w : Wait)
  | fault (fid : Nat)
  | bits (r : BitVec 128)
  deriving DecidableEq, Repr

/-- The read of one lane at a checked place; a fault needs room in the operand log. -/
def State.bringFrom (s : State) (hs : BitVec 4) (c : RCtx) (a : Acc) (v : Viewer) (full : Bool) (x : Checked) : Brought × State :=
  match x with
  | .trap t => (.trap (t.atHandle hs), s)
  | .oob => (.bits 0, s)
  | .wait w => (.wait w, s.wantLine c.pos (recAddr a.r a.i a.o) c.party false)
  | .fault obj page =>
    if full then (.wait .backPressure, s)
    else match s.postFault c.pos.ctx obj page false (s.byCore false c.pos.core v.party) with
      | (.fatal, s1) => (.trap (memTrap .pageFaultFatal obj (recAddr a.r a.i a.o)), s1)
      | (.noId, s1) => (.wait .backPressure, s1)
      | (.fid n, s1) => (.fault n, s1)
  | .ok l => let (bs, s1) := s.loadAt v c.pos a.r l 16; (.bits (BitVec.ofNat 128 (leNat bs)), s1)

/-- The read of one lane of `ldh` (R220, R221). -/
def State.bring (s : State) (hs : BitVec 4) (c : RCtx) (a : Acc) : Brought × State :=
  match s.viewer c.wk c.arm with
  | none => (.wait .backPressure, s)
  | some v => s.bringFrom hs c a v (s.logFull c.pos.core) (s.reach v c.pos c.block (s.stashLimit c) (ldhReq a) .read)

/-- The read of a logged lane again: its entry holds its place in the log. -/
def State.bringAgain (s : State) (hs : BitVec 4) (c : RCtx) (a : Acc) : Brought × State :=
  match s.viewer c.wk c.arm with
  | none => (.wait .backPressure, s)
  | some v => s.bringFrom hs c a v false (s.reachAgain v c.pos (ldhReq a) .read)

def bringAll (hs : BitVec 4) (vs : List (RCtx × Acc)) (s : State) : List (RCtx × Acc × Brought) × State :=
  vs.foldl (fun x v => let (b, s1) := x.2.bring hs v.1 v.2; (x.1 ++ [(v.1, v.2, b)], s1)) ([], s)

/-- The lanes of an arm bring a record together. -/
def ldhMem (g : Guard) (d : Dst) (hs : BitVec 4) (i o : Src) : ArmFn := fun s cs =>
  let h := handleNo d.spec
  match gather (fun c => (rdAcc c hs i o []).bind fun a => (dstFree c h).map fun _ => a) cs with
  | .stall => (.stall, s)
  | .park w => (.park w, s)
  | .got vs ts =>
    let (bs, s1) := bringAll hs vs s
    let traps := ts ++ bs.filterMap fun b => match b.2.2 with
      | .trap t => some (b.1.lane, t)
      | _ => none
    let waits := bs.filterMap fun b => match b.2.2 with
      | .wait w => some w
      | _ => none
    let faults := bs.filterMap fun b => match b.2.2 with
      | .fault n => some (b.1.lane, b.2.1, n)
      | _ => none
    let got := bs.filterMap fun b => match b.2.2 with
      | .bits r => some (b.1.lane, b.2.1, r)
      | _ => none
    let out (l : Nat) : Nat × LaneEnd := (l, .out { frees := [i, o] })
    match waits with
    | w :: _ => (.done { lanes := trapEnds traps ++ (cs.filter fun c => !traps.any (·.1 == c.lane)).map fun c =>
        (c.lane, .park w) }, s1)
    | [] =>
      match faults, cs.head?, cs.head?.bind fun c => s1.viewer c.wk c.arm with
      | f :: fs, some c, some v =>
        let done := got.map fun x => (x.1, { x.2.1 with vals := wordsOf x.2.2 }, noFid)
        let lost := bs.filterMap fun b => match b.2.2 with
          | .trap _ => some (b.1.lane, b.2.1, noFid)
          | _ => none
        let s2 := s1.addLog c v (.ldh g d (.mem hs i o)) ((f :: fs) ++ done ++ lost) (got.map (·.1))
        (.done { lanes := trapEnds traps ++ ((f :: fs).map (·.1) ++ got.map (·.1)).map out },
          s2.modWarp c.wk fun w => { w with busy := w.busy ++ [h] })
      | _, some c, _ =>
        match settleRecord h (got.map (·.2.2)) with
        | .differ => (.done { lanes := trapEnds traps ++ got.map fun x => (x.1, .trap { cause := .scopeDisagree }) }, s1)
        | .bad => (.done { lanes := trapEnds traps ++ got.map fun x => (x.1, .trap (badAt x.2.1.r x.2.1.i x.2.1.o)) }, s1)
        | .none => (.done { lanes := trapEnds traps }, s1)
        | .ok r =>
          (.done { lanes := trapEnds traps ++ got.map fun x => out x.1 }, s1.addHFill c.pos.core c.wk h r (partyOf c.warp c.arm))
      | _, none, _ => (.done { lanes := trapEnds traps }, s1)

/-- The record comes from a quad of registers, at once. -/
def ldhReg (d : Dst) (q : Src) : ArmFn := fun s cs =>
  let h := handleNo d.spec
  match gather (fun c => (rdQuad c 1 q).bind fun r => (dstFree c h).map fun _ => r) cs with
  | .stall => (.stall, s)
  | .park w => (.park w, s)
  | .got vs ts =>
    let all (t : Trap) : ArmRes := .done { lanes := trapEnds ts ++ vs.map fun v => (v.1.lane, .trap t) }
    match settleRecord h (vs.map (·.2)), vs with
    | .ok r, (c, _) :: _ =>
      (.done { lanes := trapEnds ts ++ vs.map fun v => (v.1.lane, .out { frees := srcRun q 4 }) },
        s.modWarp c.wk (·.putHandle h r))
    | .differ, _ => (all (opTrap .scopeDisagree 1 q.spec), s)
    | .bad, _ => (all { cause := .recordBad }, s)
    | _, _ => (.done { lanes := trapEnds ts }, s)

/-- R221: a buffer record to a handle or an m-handle. -/
def execLdh (g : Guard) (d : Dst) (a : LdhSrc) (s : State) : Host.Outcome State Fault Refusal :=
  let index : List Spec := match a with
    | .mem _ i o => [i.spec, o.spec]
    | .quad _ => []
  .next (s.runArms { g := g, whole := true, early := index } (match a with
    | .mem hs i o => ldhMem g d hs i o
    | .quad q => ldhReg d q))

/-! ## Fills -/

/-- R122: a fill lands in a lane register. DESIGN CHOICE: log entry 61. -/
def execFillLands (core : Nat) (id : Nat) (s : State) : Host.Outcome State Fault Refusal :=
  .next <|
    match (s.coreOf core).bind fun c => c.fills.find? (·.id == id) with
    | some f =>
      ((s.modCore core fun c => { c with fills := c.fills.filter (·.id != id) }).modWarp f.wk
        (·.modThread f.lane (·.land f.reg f.v))).resume core f.wk (· == .stalled none) (· == f.lane)
    | none => s

def Warp.landHandle (w : Warp) (h : Nat) (r : BitVec 128) : Warp :=
  { w.putHandle h r with busy := w.busy.filter (· != h) }

/-- R206: a handle's fill lands; it is busy no longer. -/
def execHandleFillLands (core : Nat) (id : Nat) (s : State) : Host.Outcome State Fault Refusal :=
  .next <|
    match (s.coreOf core).bind fun c => c.hfills.find? (·.id == id) with
    | some f =>
      ((s.modCore core fun c => { c with hfills := c.hfills.filter (·.id != id) }).modWarp f.wk
        (·.landHandle f.h f.v)).resume core f.wk (· == .stalled (some (.handle f.h))) fun _ => true
    | none => s

/-! ## Progress of accesses -/

/-- An access is performed for a wider set of observers (R244 to R248). To the cluster a party's stores go in order;
beyond it, those that share bytes do; a reduction follows the earlier ones of its word. Levels above 4 name a further
hardware cluster that sees the store. DESIGN CHOICE: log entry 62. -/
def State.performAccess (s : State) (id lvl : Nat) : State :=
  match s.c.pend.find? (·.id == id) with
  | none => s
  | some e =>
    let first (q : PStore) : Bool := q.older e && q.overlaps e.pa e.bytes.length
    if e.red.isSome then (s.performReds fun q => q.id == id || first q).modC (·.retire)
    else
      let s1 := s.performReds first
      if 5 ≤ lvl then
        s1.modC fun c => { c with pend := c.pend.map fun q =>
          if q.red.isNone && (q.id == id || first q) && !q.clus.contains (lvl - 5) then
            { q with clus := q.clus ++ [lvl - 5] } else q }
      else s1.modC fun c => (c.expose lvl e).retire

/-- R224, R244: an access issued earlier is performed at a scope. -/
def execAccessPerformed (id : Nat) (lvl : Nat) (s : State) : Host.Outcome State Fault Refusal :=
  .next (s.performAccess id lvl)

/-! ## Replay of logged accesses -/

/-- A logged lane's access. -/
def LogEnt.acc (e : LogEnt) (l : Nat × Word × Word × List TV × Nat) : Acc :=
  ⟨e.bufRec, l.2.1.toNat, l.2.2.1.toNat, l.2.2.2.1⟩

/-- The memory operation of a logged instruction. -/
def memOpOf (i : Instr) (det : Bool) : Option MemOp :=
  match i with
  | .ld f g d hs i o => some (ldOp f g d hs i o)
  | .st f g v hs i o => some (stOp f g v hs i o)
  | .atom op sys g d hs i v => some (atomOp op sys g d hs i v det)
  | .red op sys g hs i v => some (redOp op sys g hs i v)
  | _ => none

/-- A thread no longer awaits the service of an entry. -/
def Thread.served (t : Thread) (id : Nat) : Thread := { t with fault := t.fault.filter (·.1 != id) }

/-- A thread put back at a logged instruction, for a trap that names it (R399). -/
def Thread.backTo (t : Thread) (e : LogEnt) : Thread := { t.served e.id with pc := e.pc, idx := e.idx }

/-- DEDUCED: log entry 50. -/
def State.trapLogged (s : State) (e : LogEnt) (ts : List (Nat × Trap)) : State :=
  if ts.isEmpty then s
  else
    let s1 := s.modLanes e.wk (ts.map (·.1)) (·.backTo e)
    s1.takeTraps e.wk ts

/-- The fault that a lane of the entry waits on. -/
def LogEnt.await (e : LogEnt) (lane n : Nat) : LogEnt :=
  { e with lanes := e.lanes.map fun l => if l.1 == lane then (l.1, l.2.1, l.2.2.1, l.2.2.2.1, n) else l }

/-- A lane of the entry has performed its access, or waits on another fault. -/
def LogEnt.settle (e : LogEnt) (lane : Nat) (f : Option Nat) : LogEnt :=
  match f with
  | some n => e.await lane n
  | none => { e.await lane noFid with complete := e.complete ++ [lane] }

/-- A lane of the entry that traps: it waits no more, and has performed nothing. -/
def LogEnt.giveUp (e : LogEnt) (lane : Nat) : LogEnt := e.await lane noFid

/-- The entry has to be replayed once more. -/
def LogEnt.again (e : LogEnt) : LogEnt := { e with retry := true }

def State.modLog (s : State) (core id : Nat) (f : LogEnt → LogEnt) : State :=
  s.modCore core fun c => { c with log := upd (·.id == id) f c.log }

/-- The entry has no lane left that waits: it is freed, and the arm is Ready again (R336). -/
def State.closeLog (s : State) (core : Nat) (id : Nat) : State :=
  match (s.coreOf core).bind fun c => c.log.find? (·.id == id) with
  | some e =>
    if e.waiting.isEmpty then
      (s.modCore core fun c => { c with log := c.log.filter (·.id != id) }).modWarp e.wk fun w =>
        { w with threads := w.threads.map (·.served id) }
    else s
  | none => s

/-- A lane of an entry traps as it is performed again: it writes nothing, so that its destination holds what it held (R146).
DEDUCED: log entry 50. -/
def State.trapReplay (s : State) (core : Nat) (e : LogEnt) (lane : Nat) (t : Trap) : State :=
  ((s.modLog core e.id (·.giveUp lane)).modLanes e.wk [lane] fun u =>
    ((logRegs e.word).filter (· < 128)).foldl Thread.unempty u).trapLogged e [(lane, t)]

/-- What a replayed lane came to: its flags, or its trap. -/
def State.endReplay (s : State) (core : Nat) (e : LogEnt) (lane : Nat) (x : LaneEnd) : State :=
  match x with
  | .out o => s.raiseIn e.wk o.flags
  | .trap t => s.trapReplay core e lane t
  | .park _ => s

/-- The lanes of an entry that are performed again. -/
def LogEnt.toReplay (e : LogEnt) : List (Nat × Word × Word × List TV × Nat) := e.waiting.filter fun l => l.2.2.2.2 != deadFid

/-- One lane of an entry performed again, with what the entry logged. DEDUCED: log entry 50. -/
def State.replayLane (s : State) (core : Nat) (e : LogEnt) (m : MemOp) (l : Nat × Word × Word × List TV × Nat) : State :=
  match s.scene e.wk with
  | none => s
  | some c0 =>
    let c : RCtx := { c0 with lane := l.1, arm := e.arm, thread := c0.warp.threads[l.1]? }
    match s.viewer e.wk e.arm with
    | none => s
    | some v =>
      let a := e.acc l
      let q := m.req s c a
      match s.reachAgain v c.pos q m.kind with
      | .trap t => s.trapReplay core e l.1 (t.atHandle m.hs)
      | .oob => s
      | .wait _ => s.modLog core e.id (·.again)
      | .fault obj page =>
        match s.postFault c.pos.ctx obj page q.wr (s.byCore false core v.party) with
        | (.fid n, s1) => s1.modLog core e.id (·.settle l.1 (some n))
        | (.noId, s1) => s1.modLog core e.id (·.again)
        | (_, s1) => s1.trapReplay core e l.1 (memTrap .pageFaultFatal obj (recAddr a.r a.i a.o))
      | .ok loc => let (x, s1) := m.perform s v c a loc; (s1.modLog core e.id (·.settle l.1 none)).endReplay core e l.1 x

/-- An `ldh` of which no lane waits any more: the lanes that have read settle the record. -/
def State.settleLdh (s : State) (core : Nat) (e : LogEnt) (d : Dst) : State :=
  let h := handleNo d.spec
  match (s.coreOf core).bind fun c => c.log.find? (·.id == e.id) with
  | some e' =>
    if e'.waiting.isEmpty then
      let got := e'.lanes.filter fun l => e'.complete.contains l.1
      let s1 := s.modWarp e.wk fun w => { w with busy := w.busy.filter (· != h) }
      match settleRecord h (got.map fun l => ofWords l.2.2.2.1) with
      | .differ => s1.trapLogged e (got.map fun l => (l.1, { cause := .scopeDisagree }))
      | .bad => s1.trapLogged e (got.map fun l => (l.1, badAt e.bufRec l.2.1.toNat l.2.2.1.toNat))
      | .ok r => s1.modWarp e.wk (·.putHandle h r)
      | .none => s1
    else s
  | none => s

/-- The waiting lanes of an `ldh` read again; the last of them settles the record. -/
def State.replayLdh (s : State) (core : Nat) (e : LogEnt) (d : Dst) (hs : BitVec 4) : State :=
  match s.scene e.wk with
  | none => s
  | some c0 =>
    let s1 := e.toReplay.foldl (fun s l =>
      let c : RCtx := { c0 with lane := l.1, arm := e.arm, thread := c0.warp.threads[l.1]? }
      match s.bringAgain hs c (e.acc l) with
      | (.bits r, s1) => s1.modLog core e.id fun e =>
          { e.settle l.1 none with lanes := e.lanes.map fun x => if x.1 == l.1 then (x.1, x.2.1, x.2.2.1, wordsOf r, noFid) else x }
      | (.fault n, s1) => s1.modLog core e.id (·.settle l.1 (some n))
      | (.trap t, s1) => (s1.modLog core e.id (·.giveUp l.1)).trapLogged e [(l.1, t)]
      | (.wait _, s1) => s1.modLog core e.id (·.again)) s
    s1.settleLdh core e d

/-- The lanes of an entry whose fault resolved as fatal trap where their arm parks. -/
def LogEnt.doom (e : LogEnt) (fid : Nat) : LogEnt :=
  { e with lanes := e.lanes.map fun l => if l.2.2.2.2 == fid then (l.1, l.2.1, l.2.2.1, l.2.2.2.1, deadFid) else l }

/-- A thread stands where an arm that awaits a service parks (R335): at a clause header, or at a register that the access left
empty; or it has come to the end of its clause in another way. -/
def Thread.atPark (t : Thread) : Bool :=
  t.atHeader || match t.st with
    | .parked (.pageFault _) | .parked .join | .parked .trapRecord => true
    | _ => false

/-- What becomes of the lanes of an entry whose fault resolved as fatal, once their arm has parked (R335): the destination is
freed, and each traps PAGE_FAULT_FATAL. A lane that has exited is waited for no more. -/
def State.killLog (s : State) (core : Nat) (e : LogEnt) : State :=
  match s.warpOf e.wk with
  | none => s
  | some w =>
    let dead := e.lanes.filter fun l => l.2.2.2.2 == deadFid
    let there := dead.filter fun l => w.live l.1
    if !there.all fun l => (w.threads[l.1]?).any (·.atPark) then s
    else
      let s1 := s.modLog core e.id fun e => dead.foldl (fun e l => e.giveUp l.1) e
      let s2 := s1.modLanes e.wk (there.map (·.1)) fun t => ((logRegs e.word).filter (· < 128)).foldl Thread.freeReg t
      (s2.trapLogged e (there.map fun l =>
        (l.1, memTrap .pageFaultFatal (recObj e.bufRec) (recAddr e.bufRec l.2.1.toNat l.2.2.1.toNat)))).closeLog core e.id

/-- Entries of which a lane's fault was resolved as fatal. -/
def State.killLogs (s : State) : State :=
  (s.c.cores.flatMap fun c => (c.log.filter fun e => e.lanes.any fun l => l.2.2.2.2 == deadFid).map fun e => (c.id, e)).foldl
    (fun s x => s.killLog x.1 x.2) s

end Sys2Proof.Machine
end

