-- ==== Sys2Proof/Machine/Engine.lean ====
section
/-! DEFINITION. What the engines share (R214, R224, R230, R241): issuing an operation on tags, what its reads see, and
reading and writing bytes of a record in the background. -/

namespace Sys2Proof.Machine

/-! ## Issue -/

/-- A stash write happens before a thread's `mfence` (R194). -/
def Unfenced.fencedBy (u : Unfenced) (m : Nat × Frontier) : Bool := decide (u.id < m.1) && before m.2 u.party u.epoch

/-- The stores that an operation issued now sees whatever follows: those the thread has seen, and its own that a fence
of the engine's scope follows (R224); stash bytes likewise, by `fence` or by `mfence` (R194). DESIGN CHOICE: log entry 63. -/
def State.seesNow (s : State) (v : Viewer) (lane need : Nat) (mtx : Bool) : List Nat :=
  let m : Nat × Frontier := (((s.warpOf v.wk).bind (·.threads[lane]?)).map (·.mfence)).getD (0, [])
  (s.c.pend.filter fun e => if e.owner == v.party then decide (need ≤ e.fence)
      else e.visible v || before v.front e.owner e.epoch).map (·.id)
    ++ (((s.posOf v.wk.pos).map fun p => p.unfenced.filter fun u =>
      if mtx then u.fencedBy m else u.party != v.party || u.fence).getD []).map (·.id)

/-- The tags can take one more operation each (R214: at 255 the issue waits). -/
def Position.tagsTake (p : Position) (tags : List Nat) : Bool :=
  tags.all fun i => (p.tags[i]?).any fun t => t.count + tags.count i ≤ 255

/-- Whoever waits on a tag of an operation acquires its issue; not on the RTAG of a send (R344). -/
def OpKind.releases : OpKind → Nat → Bool
  | .send _ q, i => (q.extractLsb' 80 6).toNat == i
  | _, _ => true

/-- An operation issues on its tags, which is a release (R214, R233). Other parties' reductions that happen before its issue
are performed: it sees them (R234). -/
def State.issueOp (s : State) (v : Viewer) (c : RCtx) (tags : List Nat) (k : OpKind) (need : Nat) (mtx : Bool) : State :=
  let s := s.performReds fun e => e.owner != v.party && before v.front e.owner e.epoch
  let f := s.releaseOf v.wk c.arm v
  let sees := s.seesNow v c.lane need mtx
  let (id, s1) := s.fresh
  let o : EngOp :=
    { id := id, ctx := v.ctx, pos := v.wk.pos, stage := v.wk.stage, warp := v.wk.warp, lane := c.lane, core := c.pos.core,
      party := v.party, epoch := v.epoch, front := f, grid := v.grid, det := v.det, tags := tags, kind := k, st := .issued,
      seq := id, sees := sees }
  let s2 := tags.foldl (fun s i => s.modPos v.wk.pos (·.modTag i (·.issue (if k.releases i then f else [])))) s1
  (s2.modC fun c => { c with ops := c.ops ++ [o] }).modWarp v.wk (·.tick c.arm)

def noTag : Trap := { cause := .tagUndeclared }

/-- Tags that the lane's stage declares (R72). -/
def State.stageTags (s : State) (c : RCtx) : Nat := ((s.codeOfLane c).map (·.tags)).getD 0

/-! ## Records as a whole -/

/-- R220, check 1. -/
def State.recExists (s : State) (ctx : Nat) (r : BitVec 128) (off : Nat) : Option Trap :=
  if recStash r || ((s.ctxOf ctx).bind (·.objOf (recObj r))).isSome then none
  else some (memTrap .objectInvalid (recObj r) off)

/-- The offsets of the first `n` bytes of elements `first` to `first + count − 1`: none where out of bounds. -/
def recBytes (r : BitVec 128) (first count n : Nat) : List (Option Nat) :=
  (List.range count).flatMap fun e => (List.range n).map fun o =>
    if recInBounds r (first + e) 0 n then some (recAddr r (first + e) o) else none

/-- The first element of a range that is out of bounds (R209), if there is one. -/
def recBeyond (r : BitVec 128) (first count n : Nat) : Option Nat :=
  let top := min (recExtent r) ((2 ^ 40 - recBase r) / recStride r)
  if count = 0 then none
  else if recStride r < n then some first
  else if first + count ≤ top then none else some (max first top)

/-- Check 2 on a record and the bytes of a range (R220): a write into a window mapped read-only is refused too (R228). -/
def State.checkRange (s : State) (p : Position) (r : BitVec 128) (off : Nat) (bs : List (Option Nat)) (wr : Bool) :
    Option Trap :=
  (s.checkRec p.ctx r off wr).or (if wr && recStash r then bs.findSome? (·.bind p.roWindow) else none)

/-- A location of a record's byte. -/
def recLoc (r : BitVec 128) (off : Nat) : Loc := if recStash r then .stash off else .glob (recObj r) off

/-- Stash bytes of a range that lie beyond an allocation. -/
def stashBeyond (limit : Nat) (r : BitVec 128) (bs : List (Option Nat)) : Option Trap :=
  if recStash r then
    match bs.find? fun b => b.any fun x => decide (limit ≤ x) with
    | some (some x) => some (memTrap .stashUndeclared 0 x)
    | _ => none
  else none

/-- R251: a destination byte outside the block's ranges, in deterministic mode. -/
def notOwned (det : Bool) (b : Block) (r : BitVec 128) (bs : List (Option Nat)) : Option Trap :=
  if det && !recStash r then
    match bs.find? fun x => x.any fun off => !b.owns (recObj r) off 1 with
    | some (some off) => some (memTrap .ownership (recObj r) off)
    | _ => none
  else none

/-- The sectors of a range, as race detection places them. -/
def State.sectorsAt (s : State) (p : Position) (r : BitVec 128) (bs : List (Option Nat)) : List (Nat × Nat) :=
  bs.filterMap fun x => x.map fun off => let (q, a) := s.raceAt p (recLoc r off); (q, a / 32)

/-- Race detection on the bytes of a range, as the issuing party at issue (R230); reads that the read table cannot take wait
(R238). -/
def State.racesAt (s : State) (v : Viewer) (p : Position) (r : BitVec 128) (bs : List (Option Nat)) (k : AccKind) :
    Option LaneEnd :=
  match bs.findSome? fun x => x.bind fun off => s.checkRace v p r (recLoc r off) 1 k with
  | some t => some (.trap t)
  | none =>
    if k == .read && !(recUntr r && !v.det) && s.tableFull v (s.sectorsAt p r bs) then some (.park .backPressure) else none

def State.recordAll (s : State) (v : Viewer) (p : Position) (r : BitVec 128) (bs : List (Option Nat)) (k : AccKind) : State :=
  bs.foldl (fun s x => match x with
    | some off => s.recordRace v p r (recLoc r off) 1 k true
    | none => s) s

/-! ## Reading and writing in the background -/

/-- How an engine meets a byte of a record. -/
inductive EngAt where
  | ok
  | err (c : Cause)
  | fault (obj page : Nat)
  /-- An Invalid line of a window, whose fill it waits for (R213). -/
  | line (b : Nat)
  deriving DecidableEq, Repr

/-- A byte of an object, as an engine meets it (R226). -/
def State.engMem (s : State) (ctx obj off : Nat) (wr whole : Bool) : EngAt :=
  match (s.ctxOf ctx).bind (·.objOf obj) with
  | none => .err .pageFaultFatal
  | some o =>
    match o.translate off wr with
    | none => if o.paged then .fault obj (off / 2 ^ 16) else .err .pageFaultFatal
    | some pa =>
      if (wr && !s.keyWrite (s.padOfCtx ctx) pa) || (!wr && !s.keyRead pa) then .err .keyRevoked
      else if !(wr && whole) && !s.sound pa 1 then .err .ueRead
      else .ok

/-- A stash byte on an Invalid line of a window. -/
def Position.invalidAt (p : Position) (b : Nat) : Bool := (p.windowAt b).any fun w => (w.2.st (w.2.lineOf b)).isNone

/-- A byte of a record; `whole` when a write covers its sector. -/
def State.engAt (s : State) (p : Position) (r : BitVec 128) (off : Nat) (wr whole : Bool) : EngAt :=
  if recStash r then
    match s.checkStash p p.stashSize off 1 wr with
    | .ok _ => .ok
    | .trap t =>
      -- a whole sector written replaces its contents (R410); a fill that fails is not one
      if wr && whole && t.cause == .ueRead && !p.invalidAt off then .ok else .err t.cause
    | .wait _ => .line off
    | .fault o pg => .fault o pg
    | .oob => .ok
  else s.engMem p.ctx (recObj r) off wr whole

/-- An operation of the matrix engine (R194). -/
def OpKind.matrix : OpKind → Bool
  | .chain _ | .ald .. => true
  | _ => false

/-- A stash byte as an engine may read it: writes that it need not have seen may be missing, newest first. -/
def stashSeen (o : EngOp) (cur : Byte) : List Unfenced → State → Byte × State
  | [], s => (cur, s)
  | u :: us, s =>
    if o.sees.contains u.id || (!o.kind.matrix && u.party != o.party) then (cur, s)
    else
      let (b, s1) := s.drawBit
      if b then (cur, s1) else stashSeen o u.old us s1

/-- A byte of memory as an engine may read it (R230, R249): stores that it need not have seen may be seen or not. -/
def memSeen (o : EngOp) (pa : Nat) : List PStore → Byte → State → Byte × State
  | [], b, s => (b, s)
  | e :: es, b, s =>
    match if e.red.isNone then e.byteAt pa else none with
    | none => memSeen o pa es b s
    | some x =>
      if o.sees.contains e.id || (e.owner != o.party && (decide (3 ≤ e.lvl) || (decide (2 ≤ e.lvl) && e.hw == clusterOf o.core)
          || e.clus.contains (clusterOf o.core))) then memSeen o pa es x s
      else
        let (v, s1) := s.drawBit
        memSeen o pa es (if v then x else b) s1

/-- An engine reads one byte of a record. DESIGN CHOICE: log entry 63. -/
def State.engRead (s : State) (o : EngOp) (p : Position) (r : BitVec 128) (off : Nat) : Byte × State :=
  if recStash r then
    match s.placeOf p.id with
    | some q => stashSeen o (memGet q.stash off) (q.unfenced.filter fun u => u.at' == off).reverse s
    | none => (0, s)
  else
    match ((s.ctxOf o.ctx).bind (·.objOf (recObj r))).bind (·.translate off false) with
    | some pa =>
      let s1 := s.snoop o.ctx (recObj r) off 1 false
      memSeen o pa s1.c.pend (memGet s1.c.mem pa) s1
    | none => (0, s)

def State.engReads (s : State) (o : EngOp) (p : Position) (r : BitVec 128) (bs : List (Option Nat)) : List Byte × State :=
  bs.foldl (fun x b =>
    match b with
    | some off => let (v, s1) := x.2.engRead o p r off; (x.1 ++ [v], s1)
    | none => (x.1 ++ [0], x.2)) ([], s)

/-- A stash byte that an engine writes. -/
def Position.engPut (p : Position) (b : Nat) (v : Byte) : Position :=
  let q := { p with stash := memSet p.stash b v, unfenced := p.unfenced.filter fun u => u.at' != b }
  match q.windowAt b with
  | some (k, w) => q.modWin k (·.setLine (w.lineOf b) (some .dirty))
  | none => q

/-- An engine writes a byte of the stash, which on a window line is a write of its global line to other windows (R213). -/
def State.engStash (s : State) (pos off : Nat) (v : Byte) : State :=
  (match s.placeOf pos with
    | some p => s.snoopOthers p off
    | none => s).modPos pos (·.engPut off v)

/-- An engine writes one byte of a record. -/
def State.engWrite (s : State) (ctx pos : Nat) (r : BitVec 128) (off : Nat) (v : Byte) : State :=
  if recStash r then s.engStash pos off v else s.objWrite ctx (recObj r) off [v]

def State.engPuts (s : State) (ctx pos : Nat) (r : BitVec 128) : List (Option Nat × Byte) → State
  | [] => s
  | (some off, v) :: rest => (s.engWrite ctx pos r off v).engPuts ctx pos r rest
  | (none, _) :: rest => s.engPuts ctx pos r rest

/-- Sectors that a run of offsets covers whole. -/
def coversSector (bs : List (Option Nat)) (off : Nat) : Bool :=
  (List.range 32).all fun i => bs.contains (some (off / 32 * 32 + i))

/-- The first bytes of a record in memory that an engine can write for a position that is gone, and what the next one meets; the
position's stash is gone with it (R363, R374). -/
def State.reachLoose (s : State) (ctx : Nat) (r : BitVec 128) (bs : List (Option Nat)) : List (Option Nat) × EngAt :=
  if recStash r then ([], .ok)
  else
    let at' (off : Nat) : EngAt := s.engMem ctx (recObj r) off true (coversSector bs off)
    (bs.takeWhile fun b => b.all fun off => at' off == .ok,
      (bs.findSome? fun b => b.bind fun off => match at' off with
        | .ok => none
        | e => some e).getD .ok)

/-- An engine writes bytes of a record; a sector it writes whole is repaired (R410). DESIGN CHOICE: log entry 64. -/
def State.engWrites (s : State) (ctx pos : Nat) (r : BitVec 128) (l : List (Option Nat × Byte)) : State :=
  let s1 := s.engPuts ctx pos r l
  let bs := l.map (·.1)
  if recStash r then
    bs.foldl (fun s x => match x with
      | some off => if off % 32 == 0 && coversSector bs off then s.repair (stashAt pos off) else s
      | none => s) s1
  else
    match (s.ctxOf ctx).bind (·.objOf (recObj r)) with
    | none => s1
    | some o => bs.foldl (fun s x => match x with
        | some off => if off % 32 == 0 && coversSector bs off then (o.translate off true).elim s s.repair else s
        | none => s) s1

/-- How an engine meets the bytes of a range: the first that is no plain access decides. -/
def State.engMeets (s : State) (p : Position) (r : BitVec 128) (bs : List (Option Nat)) (wr : Bool) : EngAt :=
  (bs.findSome? fun x => x.bind fun off =>
    match s.engAt p r off wr (wr && coversSector bs off) with
    | .ok => none
    | e => some e).getD .ok

/-- The fault of an operation is unresolved. -/
def State.opWaits (s : State) (o : EngOp) : Bool :=
  match o.st with
  | .faulted fid => (s.ctxOf o.ctx).any fun c => c.faults.any (·.fid == fid)
  | _ => false

/-- Who meets an operation's fault (R259, R333): its core, or a unit of the Stile. A message's link engine has no code of its
own: the lowest port that is up stands for it. DESIGN CHOICE: log entry 144. -/
def State.faultBy (s : State) (o : EngOp) : FaultBy :=
  match o.kind with
  | .ask .. | .annc .. => s.byUnit 6 o.party
  | .send .. | .recv .. =>
    s.byUnit (15 + ((s.t.ports.find? fun x => x.st == .up || x.st == .degraded).map (·.id)).getD 0) o.party
  | .relay eng _ => s.byUnit (11 + eng) o.party
  | .post _ pen .. | .slot pen _ => s.byUnit (7 + pen) o.party
  | _ => s.byCore true o.core o.party

/-- An operation meets a fault: it waits for its service, or fails at once (R331). The result says whether it failed. DEDUCED: log entry 129. -/
def State.opFaults (s : State) (o : EngOp) (obj page : Nat) (wr : Bool) : Bool × State :=
  match s.postFault o.ctx obj page wr (s.faultBy o) with
  | (.fid n, s1) => (false, s1.modOp o.id fun o => { o with st := .faulted n })
  | (.fatal, s1) => (true, s1)
  | (.noId, s1) => (false, s1)

end Sys2Proof.Machine
end

