-- ==== Sys2Proof/Machine/Copy.lean ====
section
/-! DEFINITION. The copy engine (R226), waiting on copy tags (R227), and stash windows (R213, R228). -/

namespace Sys2Proof.Machine

/-! ## The descriptor of a copy -/

def cpyDste (q : BitVec 128) : Nat := (q.extractLsb' 0 32).toNat
def cpySrce (q : BitVec 128) : Nat := (q.extractLsb' 32 32).toNat
def cpyCount (q : BitVec 128) : Nat := (q.extractLsb' 64 32).toNat
def cpyBytes (q : BitVec 128) : Nat := (q.extractLsb' 96 16).toNat
def cpyTag (q : BitVec 128) : Nat := (q.extractLsb' 112 6).toNat

/-- Bytes of a word of a relay or reduce format. -/
def relSize : RelFmt → Nat
  | .bf16 => 2
  | _ => 4

/-- One word of the reduce stage, dst first; it raises no flag (R226). -/
def relStep (op : CpyOp) (f : RelFmt) (x y : Nat) : Nat :=
  let bw (g : Word → Word → Word) : Nat := (g (BitVec.ofNat 32 x) (BitVec.ofNat 32 y)).toNat
  let red (o : RedOp) : Nat :=
    match f with
    | .f32 => (redStep o .f32 (BitVec.ofNat 32 x) (BitVec.ofNat 32 y)).1.toNat
    | .s32 => (redStep o .s32 (BitVec.ofNat 32 x) (BitVec.ofNat 32 y)).1.toNat
    | .n32 => (redStep o .n32 (BitVec.ofNat 32 x) (BitVec.ofNat 32 y)).1.toNat
    | .bf16 =>
      let a := ieeeVal F.bf16 x
      let b := ieeeVal F.bf16 y
      (roundRNE F.bf16 (match o with
        | .min => (minMax false false a b).1
        | .max => (minMax true false a b).1
        | _ => (exactAdd .rne a b).1)).1
  match op with
  | .add => red .add
  | .min => red .min
  | .max => red .max
  | .and => bw (· &&& ·)
  | .or => bw (· ||| ·)
  | .xor => bw (· ^^^ ·)

/-- A run of bytes reduced word by word: dst ← op(dst, src). -/
def relBytes (op : CpyOp) (f : RelFmt) : Nat → List Byte → List Byte → List Byte
  | 0, d, _ => d
  | n + 1, d, x =>
    if d.isEmpty then []
    else leBytes (relSize f) (relStep op f (leNat (d.take (relSize f))) (leNat (x.take (relSize f))))
      ++ relBytes op f n (d.drop (relSize f)) (x.drop (relSize f))

/-! ## Issue -/

/-- The checks of a copy at issue, in order (R226). -/
def State.copyCheck (s : State) (c : RCtx) (hd hs q : BitVec 128) (red : Option (CpyOp × RelFmt)) : Option Trap :=
  let n := cpyBytes q
  let so := recAddr hs (cpySrce q) 0
  let d := recAddr hd (cpyDste q) 0
  let sb := recBytes hs (cpySrce q) (cpyCount q) n
  let db := recBytes hd (cpyDste q) (cpyCount q) n
  let bad : Bool := q.extractLsb' 118 10 != 0 || n = 0 || recStride hd < n || recStride hs < n
    || red.any fun r => n % relSize r.2 != 0
  let beyond (r : BitVec 128) (first : Nat) : Option Trap :=
    if recOob r then none
    else (recBeyond r first (cpyCount q) n).map fun e => memTrap .bounds (recObj r) (recAddr r e 0)
  (s.recExists c.pos.ctx hs so).or <| (s.recExists c.pos.ctx hd d).or <|
  (s.checkRec c.pos.ctx hs so false).or <| (s.checkRange c.pos hd d db true).or <|
  (if bad then some (memTrap .copyBad (recObj hd) d) else none).or <|
  (if s.stageTags c ≤ cpyTag q then some noTag else none).or <|
  (beyond hs (cpySrce q)).or <| (beyond hd (cpyDste q)).or <|
  (stashBeyond (s.stashLimit c) hs sb).or <| (stashBeyond (s.stashLimit c) hd db).or <|
  notOwned (s.det? c.pos) c.block hd db

/-- Copies of a core that have not completed, oldest first. -/
def State.copiesOf (s : State) (core : Nat) : List EngOp :=
  s.c.ops.filter fun o => o.core == core && match o.kind with
    | .copy .. => true
    | _ => false

/-- One lane's copy issues. -/
def State.issueCopy (s : State) (c : RCtx) (a : BitVec 128 × BitVec 128 × BitVec 128) (red : Option (CpyOp × RelFmt))
    (srcs : List Src) : LaneEnd × State :=
  let (hd, hs, q) := a
  match s.copyCheck c hd hs q red, s.viewer c.wk c.arm, s.posOf c.pos.id with
  | some t, _, _ => (.trap t, s)
  | none, some v, some p =>
    let sb := recBytes hs (cpySrce q) (cpyCount q) (cpyBytes q)
    let db := recBytes hd (cpyDste q) (cpyCount q) (cpyBytes q)
    if 32 ≤ (s.copiesOf c.pos.core).length || !p.tagsTake [cpyTag q] then (.park .backPressure, s)
    else match (s.racesAt v p hs sb .read).or (s.racesAt v p hd db .write) with
      | some e => (e, s)
      | none =>
        let s1 := if v.det then s.fenceBy v 3 else s
        let s2 := (s1.recordAll v p hs sb .read).recordAll v p hd db .write
        if cpyCount q = 0 then
          (.out { frees := srcs }, ((s2.modPos p.id (·.modTag (cpyTag q) (·.issue (s.releaseOf v.wk c.arm v)))).modPos p.id
            (·.modTag (cpyTag q) (·.complete none))).modWarp v.wk (·.tick c.arm))
        else (.out { frees := srcs }, s2.issueOp v c [cpyTag q] (.copy hd hs q red) 1 false)
  | _, _, _ => (.out {}, s)

def rdCopy (c : RCtx) (hd hs : BitVec 4) (q : Src) : LaneStep (BitVec 128 × BitVec 128 × BitVec 128) :=
  (handleOf c hd).bind fun d => (handleOf c hs).bind fun r => (rdQuad c 3 q).map fun x => (d, r, x)

/-- R226: a copy on the core's copy engine. -/
def execCpy (g : Guard) (hd : BitVec 4) (hs : BitVec 4) (q : Src) (s : State) : Host.Outcome State Fault Refusal :=
  .next (s.runArms { g := g } (epochGuard (perLane (fun _ c => rdCopy c hd hs q)
    (fun s c a => s.issueCopy c a none (srcRun q 4)))))

/-- A reduction whose rounding depends on order: deterministic mode forbids it (R250). -/
def floatAdd (op : CpyOp) (f : RelFmt) : Bool := op == .add && (f == .f32 || f == .bf16)

/-- R226: a copy that reduces into its destination. -/
def execCpyr (op : CpyOp) (rf : RelFmt) (g : Guard) (hd : BitVec 4) (hs : BitVec 4) (q : Src) (s : State) : Host.Outcome State Fault Refusal :=
  .next (s.runArms { g := g } (detBan (floatAdd op rf) (epochGuard (perLane (fun _ c => rdCopy c hd hs q)
    (fun s c a => s.issueCopy c a (some (op, rf)) (srcRun q 4))))))

/-! ## Completion -/

/-- Elements of a copy before the first that fails, and the cause. -/
def firstBad (s : State) (p : Position) (hd hs q : BitVec 128) : Nat → Nat → Nat × Option EngAt
  | 0, e => (e, none)
  | n + 1, e =>
    let sb := recBytes hs (cpySrce q + e) 1 (cpyBytes q)
    let db := recBytes hd (cpyDste q + e) 1 (cpyBytes q)
    match s.engMeets p hs sb false with
    | .ok =>
      match s.engMeets p hd db true with
      | .ok => firstBad s p hd hs q n (e + 1)
      | x => (e, some x)
    | x => (e, some x)

/-- The copy moves its first `n` elements: sources are read first, then the destination is written. -/
def State.moveCopy (s : State) (o : EngOp) (p : Position) (hd hs q : BitVec 128) (red : Option (CpyOp × RelFmt)) (n : Nat) :
    State :=
  let k := cpyBytes q
  let db := recBytes hd (cpyDste q) n k
  let (src, s1) := s.engReads o p hs (recBytes hs (cpySrce q) n k)
  match red with
  | none => s1.engWrites o.ctx o.pos hd (db.zip src)
  | some (op, f) =>
    let (dst, s2) := s1.engReads o p hd db
    s2.engWrites o.ctx o.pos hd (db.zip (relBytes op f (n * k) dst src))

/-- R226: the oldest copy of its core completes, or waits on a fault or a window line. DESIGN CHOICE: log entry 64. -/
def execCopyComplete (id : Nat) (s : State) : Host.Outcome State Fault Refusal :=
  .next <|
    match s.opOf id with
    | none => s
    | some o =>
      match o.kind, s.placeOf o.pos, s.copiesOf o.core with
      | .copy hd hs q red, some p, f :: _ =>
        if f.id != id || s.opWaits o then s
        else match firstBad s p hd hs q (cpyCount q) 0 with
          | (n, none) => (s.moveCopy o p hd hs q red n).finishOp o none
          | (n, some (.err c)) => (s.moveCopy o p hd hs q red n).finishOp o (some c)
          | (n, some (.fault obj page)) =>
            -- a fault on the destination is one of writing
            let wr := !((s.engMeets p hs (recBytes hs (cpySrce q + n) 1 (cpyBytes q)) false) == .fault obj page)
            match s.opFaults o obj page wr with
            | (true, s1) => (s1.moveCopy o p hd hs q red n).finishOp o (some .pageFaultFatal)
            | (false, s1) => s1
          | (_, some (.line b)) => s.wantLine p b o.party true
          | (_, some .ok) => s
      | _, _, _ => s

/-! ## Waiting on tags (R227) -/

/-- The tags a mask names. -/
def maskTags (hi : Bool) (m : Nat) : List Nat :=
  ((List.range 32).filter fun i => m / 2 ^ i % 2 = 1).map fun i => if hi then 32 + i else i

/-- The mask, checked against the stage's tags. -/
def rdMask (s : State) (c : RCtx) (hi : Bool) (m : Src) : LaneStep (List Nat) :=
  (rdCount c m).bind fun n =>
    let l := maskTags hi n
    (LaneStep.require (l.all fun t => decide (t < s.stageTags c)) noTag).map fun _ => l

/-- A trap from a tag's stored cause (R402). -/
def tagTrap (c : Cause) (tag : Nat) : Trap := { cause := c, info0 := BitVec.ofNat 32 tag, tagc := true }

/-- Waiting on tags acquires what their operations released (R233). -/
def State.acquireTags (s : State) (c : RCtx) (tags : List Nat) : State :=
  match s.posOf c.pos.id with
  | some p => s.modWarp c.wk (·.acquire c.arm (tags.foldl (fun f i => match p.tags[i]? with
      | some t => frontJoin f t.front
      | none => f) []))
  | none => s

/-- A wait's result: 1 or 0 in Pd, or the trap of a tag that failed. -/
def waitEnd (p : Option (BitVec 3)) (m : Src) (bad : Option (Nat × Cause)) : LaneEnd :=
  match p, bad with
  | none, some (i, c) => .trap (tagTrap c i)
  | none, none => .out { frees := [m] }
  | some d, b => .out { writes := [(⟨.p d, false⟩, boolTV b.isNone)], frees := [m] }

/-- The lowest of some tags that completed with an error. -/
def Position.tge (p : Position) (tags : List Nat) : Option (Nat × Cause) :=
  tags.findSome? fun i => (p.tags[i]?).bind fun t => if t.tge && t.count = 0 then t.cause.map fun c => (i, c) else none

/-- A lane that has to wait has its warp descheduled (R227): the arm waits as one. -/
def LaneStep.await {α : Type} (met : Bool) (w : Wait) (x : α) : LaneStep α := if met then .ok x else .park w

/-- A test of the done bits of tags. -/
def State.tagsMet (s : State) (c : RCtx) (q : (Nat → Bool) → Bool) : Bool := (s.posOf c.pos.id).all fun p => q p.tagDone

/-- R227: wait for every named tag. -/
def execWaitt (hi : Bool) (g : Guard) (p : Option (BitVec 3)) (m : Src) (s : State) : Host.Outcome State Fault Refusal :=
  .next (s.runArms { g := g, dsts := p.toList.map .p } (epochGuard (perLane
    (fun s c => (rdMask s c hi m).bind fun tags => LaneStep.await (s.tagsMet c tags.all) (.tagsAll tags) tags)
    (fun s c tags =>
      match s.posOf c.pos.id with
      | none => (.out {}, s)
      | some q =>
        match waitEnd p m (q.tge tags) with
          | .trap t => (.trap t, s)
          | e => (e, s.acquireTags c tags)))))

/-- R227: wait for any named tag. -/
def execWaita (hi : Bool) (g : Guard) (p : Option (BitVec 3)) (m : Src) (s : State) : Host.Outcome State Fault Refusal :=
  .next (s.runArms { g := g, dsts := p.toList.map .p } (detBan true (epochGuard (perLane
    (fun s c => (rdMask s c hi m).bind fun tags => LaneStep.await (tags.isEmpty || s.tagsMet c tags.any) (.tagsAny tags) tags)
    (fun s c tags =>
      match s.posOf c.pos.id with
      | none => (.out {}, s)
      | some q =>
        match tags, tags.find? q.tagDone with
        | [], _ => (match p with
            | some d => .out { writes := [(⟨.p d, false⟩, boolTV false)], frees := [m] }
            | none => .out { frees := [m] }, s)
        | _, none => (.out {}, s)
        | _, some t =>
          match waitEnd p m (q.tge [t]) with
          | .trap x => (.trap x, s)
          | e => (e, s.acquireTags c [t]))))))

/-- R227: the lowest done tag, the lowest failed tag, or a tag's cause. -/
def execTfind (kind : BitVec 2) (hi : Bool) (g : Guard) (d : Dst) (m : Src) (s : State) : Host.Outcome State Fault Refusal :=
  .next (s.runArms { g := g, dsts := [d.spec] } (detBan (kind != 2) fun s cs =>
    (laneWise (fun c =>
      let none' : Word := 0xFFFFFFFF
      if kind == 2 then
        (rdCount c m).bind fun n => (LaneStep.require (decide (n < s.stageTags c)) noTag).bind fun _ =>
          outD c d ⟨match (c.pos.tags[n]?).bind (·.cause) with
            | some x => x.code.setWidth 32
            | none => none', F.n32⟩ [m]
      else
        (rdMask s c hi m).bind fun tags =>
          let r := if kind == 0 then tags.find? c.pos.tagDone else (c.pos.tge tags).map (·.1)
          outD c d ⟨match r with
            | some i => BitVec.ofNat 32 i
            | none => none', F.n32⟩ [m]) cs, s)))

/-! ## Windows (R228) -/

/-- What the write-back of a Dirty line would meet. -/
def State.lineMeets (s : State) (p : Position) (w : Window) (line : Nat) : EngAt :=
  if w.st line == some .dirty then s.engMem p.ctx w.obj (w.goff + 64 * line) true true else .ok

/-- The first write-back of a window that meets trouble: its line, and what it meets. -/
def State.windowMeets (s : State) (p : Position) (w : Window) (lines : List Nat) : Option (Nat × EngAt) :=
  lines.findSome? fun l => match s.lineMeets p w l with
    | .ok => none
    | e => some (l, e)

/-- The Dirty lines of a window, in ascending order. -/
def Window.dirty (w : Window) : List Nat :=
  sortBy (fun a b => decide (a ≤ b)) ((w.lines.filter fun l => l.2 == .dirty).map (·.1))

/-- A window unmapped after its write-backs. -/
def State.unmap (s : State) (pos n : Nat) : State :=
  match (s.posOf pos).bind fun p => (p.wins[n]?).getD none with
  | some w => (w.dirty.foldl (fun s l => s.writeBack pos n l) s).modPos pos fun p => { p with wins := p.wins.set n none }
  | none => s

/-- Write-backs of a window as a thread asks for them: none when all can be made, else the lane's end. DEDUCED: log entry 60. -/
def State.unmapEnd (s : State) (c : RCtx) (n : Nat) : Option (LaneEnd × State) :=
  match (s.posOf c.pos.id).bind fun p => (p.wins[n]?).getD none with
  | none => none
  | some w =>
    match s.windowMeets c.pos w w.dirty with
    | none => none
    | some (l, .err x) => some (.trap (memTrap x w.obj (w.goff + 64 * l)), s)
    | some (l, .fault obj page) =>
      match s.postFault c.pos.ctx obj page true (s.byCore false c.pos.core c.party) with
      | (.fatal, s1) => some (.trap (memTrap .pageFaultFatal obj (w.goff + 64 * l)), s1)
      | (.noId, s1) => some (.park .backPressure, s1)
      | (.fid f, s1) => some (.park (.service f (w.goff + 64 * l)), s1)
    | some _ => some (.park (.window n), s)

/-- The checks of `smap`, in order (R228). -/
def State.smapCheck (s : State) (c : RCtx) (n : Nat) (q : BitVec 64) (r : BitVec 128) (x : Nat) : Option Trap :=
  let soff := (q.extractLsb' 0 20).toNat
  let len := (q.extractLsb' 20 20).toNat
  let off := recBase r + x * recStride r
  let clash := c.pos.wins.zipIdx.any fun w => w.2 != n && w.1.any fun y => decide (y.soff < soff + len) && decide (soff < y.soff + y.len)
  let bad : Bool := recStash r || q.extractLsb' 40 24 != 0 || len = 0 || len % 64 != 0 || 786432 < len || soff % 64 != 0
    || clash
  (s.checkRec c.pos.ctx r off false).or <|
  (if bad then some (memTrap .windowBad (recObj r) off) else none).or <|
  (if recExtent r * recStride r < x * recStride r + len then some (memTrap .bounds (recObj r) off) else none).or <|
  (if off % 64 != 0 then some (memTrap .misaligned (recObj r) off) else none).or <|
  (if s.stashLimit c < soff + len then some (memTrap .stashUndeclared 0 soff) else none)

/-- A window mapped: every line Invalid; it is read-only through RO, or when the object's rights forbid writes. DEDUCED: log entry 47. -/
def State.mapWindow (s : State) (c : RCtx) (n : Nat) (q : BitVec 64) (r : BitVec 128) (x : Nat) : State :=
  let ro := recRo r || !((s.ctxOf c.pos.ctx).bind (·.objOf (recObj r))).any (·.wr)
  s.modPos c.pos.id fun p => { p with wins := p.wins.set n (some
    { soff := (q.extractLsb' 0 20).toNat, len := (q.extractLsb' 20 20).toNat, obj := recObj r,
      goff := recBase r + x * recStride r, ro := ro, lines := [], want := [], failed := [] }) }

/-- R228: a window mapped onto a stash range and a global range. -/
def execSmap (n : BitVec 3) (g : Guard) (q : Src) (hs : BitVec 4) (x : Src) (s : State) : Host.Outcome State Fault Refusal :=
  .next (s.runArms { g := g, early := [x.spec] } (perLane
    (fun _ c => (rdRaws c 1 q 2).bind fun l => (handleOf c hs).bind fun r => (rdNat c 3 x).map fun i =>
      ((quadBits l).setWidth 64, r, i))
    (fun s c a =>
      let (d, r, i) := a
      match s.posOf c.pos.id with
      | none => (.out {}, s)
      | some p =>
        let c1 := { c with pos := p }
        match s.smapCheck c1 n.toNat d r i with
        | some t => (.trap t, s)
        | none =>
          match s.unmapEnd c1 n.toNat with
          | some e => e
          | none =>
            let s1 := match s.viewer c.wk c.arm with
              | some v => if v.det then s.fenceBy v 3 else s
              | none => s
            (.out { frees := x :: srcRun q 2 }, (s1.unmap p.id n.toNat).mapWindow c1 n.toNat d r i))))

/-- R228: a window unmapped; the thread is held until its write-backs are done. DEDUCED: log entry 60. -/
def execSmapOff (n : BitVec 3) (g : Guard) (s : State) : Host.Outcome State Fault Refusal :=
  .next (s.runArms { g := g } (perLane (fun _ _ => .ok ())
    (fun s c _ => match s.posOf c.pos.id with
      | none => (.out {}, s)
      | some p => match s.unmapEnd { c with pos := p } n.toNat with
        | some e => e
        | none => (.out {}, s.unmap p.id n.toNat))))

/-- R228: write-backs of a window, in the background, on a tag. -/
def execSflush (n : BitVec 3) (g : Guard) (t : Src) (s : State) : Host.Outcome State Fault Refusal :=
  .next (s.runArms { g := g, early := [t.spec] } (epochGuard (perLane
    (fun s c => (rdCount c t).bind fun i => (LaneStep.require (decide (i < s.stageTags c)) noTag).map fun _ => i)
    (fun s c i =>
      match s.viewer c.wk c.arm, s.posOf c.pos.id with
      | some v, some p =>
        match (p.wins[n.toNat]?).getD none with
        | none => (.out { frees := [t] }, s)
        | some w =>
          if p.tagsTake [i] then (.out { frees := [t] }, s.issueOp v c [i] (.sflush n.toNat w.dirty) 1 false)
          else (.park .backPressure, s)
      | _, _ => (.out {}, s)))))

/-- Lines of a window that lie on lent stash lines (R190). -/
def State.windowLent (s : State) (p : Position) (w : Window) : Bool :=
  (s.lentLines p.id).any fun l => decide (w.soff ≤ 64 * l) && decide (64 * l < w.soff + w.len)

/-- R228: a window's lines become Invalid. -/
def execSinv (n : BitVec 3) (g : Guard) (s : State) : Host.Outcome State Fault Refusal :=
  .next (s.runArms { g := g } (perLane (fun _ _ => .ok ())
    (fun s c _ => match s.posOf c.pos.id with
      | none => (.out {}, s)
      | some p => match (p.wins[n.toNat]?).getD none with
        | none => (.out {}, s)
        | some w =>
          if s.windowLent p w then (.park (.window n.toNat), s)
          else (.out {}, s.modPos p.id (·.modWin n.toNat fun w => { w with lines := [], want := [], failed := [] })))))

/-- Write-backs of an `sflush`, line by line: those before the first error stand. -/
def State.flushLines (s : State) (o : EngOp) (p : Position) (n : Nat) : List Nat → State
  | [] => s.finishOp o none
  | l :: ls =>
    match (s.placeOf p.id).bind fun p => (p.wins[n]?).getD none with
    | none => s.finishOp o none
    | some w =>
      match s.lineMeets p w l with
      | .ok => (s.writeBack p.id n l).flushLines o p n ls
      | .err c => s.finishOp o (some c)
      | .fault obj page =>
        match s.opFaults o obj page true with
        | (true, s1) => s1.finishOp o (some .pageFaultFatal)
        | (false, s1) => s1
      | .line _ => s

/-- R228: the write-backs of an `sflush` are done, and its tag completes. -/
def execSflushComplete (id : Nat) (s : State) : Host.Outcome State Fault Refusal :=
  .next <|
    match s.opOf id with
    | none => s
    | some o =>
      match o.kind, s.placeOf o.pos with
      | .sflush n lines, some p => if s.opWaits o then s else s.flushLines o p n lines
      | _, _ => s

/-- A line whose fill a fatal page fault stops: its readers fail (R213). -/
def Window.lostLine (w : Window) (line : Nat) : Window :=
  { w with want := w.want.filter (·.1 != line), failed := line :: w.failed }

/-- R213: a window line that was asked for is filled from global memory, and is Clean. -/
def State.fillLine (s : State) (p : Position) (n line : Nat) : State :=
  match (p.wins[n]?).getD none with
  | none => s
  | some w =>
    match w.want.find? (·.1 == line), w.st line with
    | some (_, who, eng), none =>
      match s.engMem p.ctx w.obj (w.goff + 64 * line) false false with
      | .ok =>
        match s.winPa p w line false with
        | some pa =>
          let b := w.soff + 64 * line
          let s1 := (((s.snoop p.ctx w.obj (w.goff + 64 * line) 64 false).settle pa 64).repair (stashAt p.id b)).repair
            (stashAt p.id (b + 32))
          s1.modPos p.id fun p =>
            ({ p with stash := memWrite p.stash b (memRead s1.c.mem pa 64) } : Position).modWin n fun w =>
              { w.setLine line (some .clean) with want := w.want.filter (·.1 != line) }
        | none => s
      | .fault obj page =>
        match s.postFault p.ctx obj page false (s.byCore eng p.core who) with
        | (.fatal, s1) => s1.modPos p.id (·.modWin n (·.lostLine line))
        | (_, s1) => s1
      | _ => s.modPos p.id (·.modWin n fun w => { w with want := w.want.filter (·.1 != line) })
    | _, _ => s

def execWindowLineFill (pos : Nat) (win : Nat) (line : Nat) (s : State) : Host.Outcome State Fault Refusal :=
  .next <|
    match s.placeOf pos with
    | some p => s.fillLine p win line
    | none => s

/-- R213: another agent reads or writes a global line that windows map. -/
def execWindowSnoop (ctx : Nat) (obj : Nat) (off : Nat) (wr : Bool) (s : State) : Host.Outcome State Fault Refusal :=
  .next (s.snoop ctx obj (off / 64 * 64) 64 wr)

end Sys2Proof.Machine
end

