-- ==== Sys2Proof/Machine/Algebra.lean ====
section
/-! DEFINITION. Algebra records (R113, R114), the predefined slots (R117, R118), products of algebra elements (R115,
R116), the sum of a set of exact products (R107, R108), and the instructions on elements held in registers (R203). -/

namespace Sys2Proof.Machine

/-! ## Records (R113) -/

def algLogk (r : BitVec 512) : Nat := (r.extractLsb' 0 8).toNat
def algK (r : BitVec 512) : Nat := 2 ^ algLogk r
def algConj (r : BitVec 512) (c : Nat) : Bool := r.getLsbD (8 + c)

/-- Entry n = 8i + j: its output component, and its sign field. -/
def algOut (r : BitVec 512) (n : Nat) : Nat := (r.extractLsb' (64 + 5 * n) 3).toNat
def algSign (r : BitVec 512) (n : Nat) : Nat := (r.extractLsb' (64 + 5 * n + 3) 2).toNat

/-- An entry that R114 rejects. -/
def algEntryBad (r : BitVec 512) (n : Nat) : Bool :=
  let k := algK r
  let e := r.extractLsb' (64 + 5 * n) 5
  ((decide (k ≤ n / 8) || decide (k ≤ n % 8)) && e != 0) || algSign r n == 2 || (algSign r n == 0 && algOut r n != 0)
    || decide (k ≤ algOut r n)

/-- R114. -/
def algBad (r : BitVec 512) : Bool :=
  decide (3 < algLogk r) || r.extractLsb' 16 48 != 0 || r.extractLsb' 384 128 != 0
    || ((List.range 8).any fun c => decide (algK r ≤ c) && algConj r c)
    || (List.range 64).any (algEntryBad r)

/-- A table entry: +1 or −1, and the component. -/
def algEntry (neg : Bool) (c : Nat) : Nat := (if neg then 24 else 8) + c

/-- A record of rows of entries. -/
def algRecord (logk conj : Nat) (rows : List (List Nat)) : BitVec 512 :=
  BitVec.ofNat 512 (logk + conj * 2 ^ 8 + (rows.zipIdx.map fun r => (r.1.zipIdx.map fun e =>
    e.1 * 2 ^ (64 + 5 * (8 * r.2 + e.2))).sum).sum)

/-- A row of a table of R118: the component and whether its sign is −. -/
def algRow (l : List (Nat × Bool)) : List Nat := l.map fun e => algEntry e.2 e.1

/-- The predefined records of slots 0 to 4 (R117, R118). -/
def algPredefined : List (BitVec 512) :=
  let p (n : Nat) : Nat × Bool := (n, false)
  let m (n : Nat) : Nat × Bool := (n, true)
  [ algRecord 0 0x00 [algRow [p 0]],
    algRecord 1 0x02 [algRow [p 0, p 1], algRow [p 1, m 0]],
    algRecord 1 0x02 [algRow [p 0, p 1], algRow [p 1, p 0]],
    algRecord 2 0x0E
      [algRow [p 0, p 1, p 2, p 3], algRow [p 1, m 0, p 3, m 2], algRow [p 2, m 3, m 0, p 1], algRow [p 3, p 2, m 1, m 0]],
    algRecord 3 0xF0
      [algRow [p 0, p 1, p 2, p 3, p 4, p 5, p 6, p 7],
       algRow [p 1, p 0, p 4, m 6, p 2, p 7, m 3, p 5],
       algRow [p 2, m 4, p 0, p 5, m 1, p 3, p 7, p 6],
       algRow [p 3, p 6, m 5, p 0, p 7, m 2, p 1, p 4],
       algRow [p 4, m 2, p 1, p 7, m 0, m 6, p 5, m 3],
       algRow [p 5, p 7, m 3, p 2, p 6, m 0, m 4, m 1],
       algRow [p 6, p 3, p 7, m 1, m 5, p 4, m 0, m 2],
       algRow [p 7, p 5, p 6, p 4, m 3, m 1, m 2, m 0]] ]

/-- The 16 slots of a new context (R117). -/
def algSlots : List (Option (BitVec 512)) := algPredefined.map some ++ List.replicate 11 none

def Ctx.algAt (c : Ctx) (n : Nat) : Option (BitVec 512) := (c.alg[n]?).getD none

/-! ## Products (R115, R107, R108) -/

/-- The sign of an exact value turned. -/
def flipIf (b : Bool) (x : Exact) : Exact := if b then x.neg else x

/-- The products that the table sends to component c: left and right component, and a minus sign; `rev` takes y ⊗ x. -/
def algTerms (r : BitVec 512) (rev : Bool) (c : Nat) : List (Nat × Nat × Bool) :=
  (List.range (algK r)).flatMap fun i => (List.range (algK r)).filterMap fun j =>
    let n := if rev then 8 * j + i else 8 * i + j
    if algSign r n != 0 && algOut r n == c then some (i, j, algSign r n == 3) else none

/-- The exact sum of a set of products, with IV of an invalid one (R108). -/
def exactSum : List (Exact × Bool) → Exact × Bool
  | [] => (.zero false, false)
  | x :: xs => xs.foldl (fun acc y => let s := exactAdd .rne acc.1 y.1; (s.1, acc.2 || y.2 || s.2)) x

/-- A set of products summed exactly and rounded once to f32 (R107, R108). -/
def chunkSum (ts : List (Exact × Bool)) : Nat × Flags :=
  let s := exactSum ts
  let r := roundRNE F.f32 s.1
  (r.1, r.2.join { iv := s.2 })

/-- Component c of a product of two elements of f32 components. -/
def algProduct (r : BitVec 512) (rev : Bool) (x y : List Exact) (c : Nat) : Nat × Flags :=
  chunkSum ((algTerms r rev c).map fun t =>
    let p := exactMul ((x[t.1]?).getD (.zero false)) ((y[t.2.1]?).getD (.zero false))
    (flipIf t.2.2 p.1, p.2))

/-- conj of an element (R116). -/
def algConjugate (r : BitVec 512) (x : List Exact) : List Exact := x.zipIdx.map fun e => flipIf (algConj r e.2) e.1

/-! ## Register groups (R203) -/

/-- The registers of a group, lowest first. -/
def groupSpecs (base : Spec) : Nat → List Spec
  | 0 => []
  | n + 1 => base :: groupSpecs (specSucc base) n

/-- The base of a group stands at a multiple of k. DEDUCED: log entry 122. -/
def groupOk (k : Nat) : Spec → Bool
  | .v i => i.toNat % k == 0
  | .w i => i.toNat % k == 0
  | _ => false

/-- The groups of a slot of 5 to 15 are checked as they execute. -/
def checkGroups (n : BitVec 4) (k : Nat) (l : List (Nat × Spec)) : LaneStep Unit :=
  if n.toNat < 5 then .ok ()
  else match l.find? fun x => !groupOk k x.2 with
    | some x => .trap (opTrap .algOperand x.1 x.2)
    | none => .ok ()

/-- A group read as f32 bits by R102. -/
def rdGroup (c : RCtx) (field : Nat) (src : Src) : Nat → LaneStep (List Word)
  | 0 => .ok []
  | n + 1 => (rd c field src).bind fun r => (r.widen F.f32).bind fun w => (rdGroup c field (srcSucc src) n).map fun l => w :: l

def f32Vals (l : List Word) : List Exact := l.map fun w => ieeeVal F.f32 w.toNat

/-- A group may be written. DEDUCED: log entry 18. -/
def wrGroup (c : RCtx) (d : Dst) : Nat → LaneStep Unit
  | 0 => .ok ()
  | n + 1 => (wrOk c d).bind fun _ => wrGroup c (dstSucc d) n

def groupDsts (d : Dst) : Nat → List Dst
  | 0 => []
  | n + 1 => d :: groupDsts (dstSucc d) n

/-- The record that a use of a slot sees: an `alg` that is not ordered before it may be missing (R202). -/
def State.algUse (s : State) (v : Viewer) (n : Nat) : Option (BitVec 512) × State :=
  match s.ctxOf v.ctx with
  | none => (none, s)
  | some c =>
    match c.algOld.find? fun o => o.slot == n && o.party != v.party && !before v.front o.party o.epoch
        && (s.gridOf v.ctx o.grid).any (·.live) with
    | none => (c.algAt n, s)
    | some o =>
      let (b, s1) := s.drawBit
      (if b then c.algAt n else o.old, s1)

/-- The results of a group instruction in one lane: the components of D, and the flags. -/
abbrev GroupFn := BitVec 512 → List (List Word) → List (Nat × Flags)

/-- One lane of a group instruction: the record, the groups, then every component of D. -/
def laneGroup (n : BitVec 4) (d : Dst) (dk : Nat → Nat) (srcs : List (Nat × Src)) (f : GroupFn) (r : Option (BitVec 512))
    (c : RCtx) : LaneStep LaneOut :=
  match r with
  | none => .trap { cause := .algebraMismatch }
  | some r =>
    let k := algK r
    -- a result of one component needs no aligned group
    let dg := if dk k = k then [(0, d.spec)] else []
    (checkGroups n k (srcs.map (fun x => (x.1, x.2.spec)) ++ dg)).bind fun _ =>
    (LaneStep.all (srcs.map fun x => rdGroup c x.1 x.2 k)).bind fun gs =>
    (wrGroup c d (dk k)).map fun _ =>
      let out := f r gs
      { writes := (groupDsts d (dk k)).zip (out.map fun x => ⟨BitVec.ofNat 32 x.1, F.f32⟩)
        frees := srcs.flatMap fun x => srcRun x.2 k
        flags := joinAll (out.map (·.2)) }

/-- A group instruction in the lanes of an arm: each lane sees a record of the slot, and reads before any writes. -/
def groupArm (n : BitVec 4) (d : Dst) (dk : Nat → Nat) (srcs : List (Nat × Src)) (f : GroupFn) : ArmFn := fun s cs =>
  match cs.head?.bind fun c => s.viewer c.wk c.arm with
  | none => (laneWise (laneGroup n d dk srcs f none) cs, s)
  | some v =>
    let (r, s1) := s.algUse v n.toNat
    (laneWise (laneGroup n d dk srcs f r) cs, s1)

/-- The components of a slot, as the packet that issues has it: for the entries its lanes push (R124). -/
def State.slotDsts (s : State) (n : BitVec 4) (d : Dst) : List Spec :=
  match s.cur with
  | .packet core slot =>
    match (s.packet? core slot).bind fun p => (s.ctxOf p.ctx).bind (·.algAt n.toNat) with
    | some r => (groupDsts d (algK r)).map (·.spec)
    | none => []
  | _ => []

/-- R203: conjugation of an element; exact, NaN bits kept apart from the sign. -/
def conjFn : GroupFn := fun r gs =>
  ((gs[0]?).getD []).zipIdx.map fun w => ((if algConj r w.2 then w.1 ^^^ 0x80000000 else w.1).toNat, {})

/-- R203, R116: the norm of an element. -/
def normFn : GroupFn := fun r gs =>
  let x := f32Vals ((gs[0]?).getD [])
  [algProduct r false x (algConjugate r x) 0]

/-- R203, R115: the product of two elements, left ⊗ right or right ⊗ left. -/
def amulFn (rev : Bool) : GroupFn := fun r gs =>
  let x := f32Vals ((gs[0]?).getD [])
  let y := f32Vals ((gs[1]?).getD [])
  (List.range (algK r)).map fun c => algProduct r rev x y c

/-- R203: `conj`. -/
def execConj (n : BitVec 4) (g : Guard) (d : Dst) (a : Src) (s : State) : Host.Outcome State Fault Refusal :=
  .next (s.runArms { g := g, dsts := s.slotDsts n d, early := [a.spec] } (groupArm n d id [(1, a)] conjFn))

/-- R203: `norm`. -/
def execNorm (n : BitVec 4) (g : Guard) (d : Dst) (a : Src) (s : State) : Host.Outcome State Fault Refusal :=
  .next (s.runArms { g := g, dsts := [d.spec], early := [a.spec] } (groupArm n d (fun _ => 1) [(1, a)] normFn))

/-- R203: `amul`. -/
def execAmul (n : BitVec 4) (rev : Bool) (g : Guard) (d : Dst) (a : Src) (b : Src) (s : State) : Host.Outcome State Fault Refusal :=
  .next (s.runArms { g := g, dsts := s.slotDsts n d, early := [a.spec, b.spec] } (groupArm n d id [(1, a), (2, b)] (amulFn rev)))

end Sys2Proof.Machine
end

