-- ==== Sys2Proof/Machine/Permit.lean ====
section
/-! DEFINITION. Which operands each entry permits (R54, R55, R59, R147 and the tables of the entries). -/

namespace Sys2Proof.Machine.Permit

/-- The fate of one operand: accepted, OPERAND_CLASS, or SCOPE_ILLEGAL in its place (R59). -/
inductive Fate where
  | ok | operandClass | scopeIllegal
  deriving DecidableEq, Repr

def isV : Spec → Bool
  | .v _ => true
  | _ => false

/-- Classes 0 to 5. -/
def c05 : Spec → Bool
  | .v _ | .x _ | .w _ | .b _ | .c _ | .g _ => true
  | _ => false

/-- Classes 1 to 5. -/
def c15 : Spec → Bool
  | .x _ | .w _ | .b _ | .c _ | .g _ => true
  | _ => false

def isImm : Spec → Bool
  | .imm _ => true
  | _ => false

/-- Classes 0 to 5 and 7. -/
def c057 (s : Spec) : Bool := c05 s || isImm s

/-- Classes 2 to 5 and 7. -/
def c257 : Spec → Bool
  | .w _ | .b _ | .c _ | .g _ | .imm _ => true
  | _ => false

/-- Specials 120 to 127. -/
def special : Spec → Bool
  | .tg | .laneid | .warpid | .blockid | .clusterid | .stageid | .width | .zero => true
  | _ => false

def isZ : Spec → Bool
  | .z _ => true
  | _ => false

def isP : Spec → Bool
  | .p _ => true
  | _ => false

/-- A general source (R147). DEDUCED: log entry 23. -/
def gen (s : Spec) : Bool := c057 s || isZ s || special s

/-- Index and offset operands (R219), with TG where specials are listed (R147). -/
def idx (s : Spec) : Bool := c057 s || special s

/-- A predicate or a register, batons among the registers (R119, R173). DEDUCED: log entry 132. -/
def predOrReg (s : Spec) : Bool := c05 s || isZ s || isP s

/-- S3 of `sel`: a register, or a predicate in a vector clause (R154). DEDUCED: log entry 132. -/
def selector (scl : Bool) (s : Spec) : Bool := c05 s || isZ s || (!scl && isP s)

/-- A register of class 0 or 2 to 5 whose index meets a condition on its alignment. -/
def regAligned (k : Nat) : Spec → Bool
  | .v i => i.toNat % k == 0
  | .w i | .b i => i.toNat % k == 0
  | .c i | .g i => i.toNat % k == 0
  | _ => false

/-- A quad: class 0 or 2 to 5, based at a multiple of 4 (R219). -/
def quad : Spec → Bool := regAligned 4

/-- The descriptor pair of `lload`: class 0 or 2 to 5, based at an even index (R197). -/
def pair : Spec → Bool := regAligned 2

/-- An even–odd pair of any class 0 to 5 (R26). -/
def evenReg : Spec → Bool
  | .x i => i.toNat % 2 == 0
  | s => regAligned 2 s

/-- `lea` takes pairs under `.x64` (R157). -/
def leaS (x64 : Bool) (s : Spec) : Bool := if x64 then evenReg s else gen s

def imm : Spec → Bool := isImm

def acc : Spec → Bool
  | .a _ => true
  | _ => false

def v : Spec → Bool := isV

/-- Class 0 or 2: the algebra groups (R197). -/
def c02 : Spec → Bool
  | .v _ | .w _ => true
  | _ => false

/-- S1 of `brx`: class 0 or 7, and class 2 to 5 in a scalar clause (R178). -/
def brx (scl : Bool) (s : Spec) : Bool := isV s || isImm s || (scl && c257 s)

/-- S1 of `sysw`: classes 0 to 5 or 7, batons, and the zero special of its example (R414). -/
def sysw (s : Spec) : Bool := c057 s || isZ s || s == .zero

/-- S1 of `tagr` (R170): registers, batons, accumulators, m-handles and Loft slots. -/
def tagr : Spec → Bool
  | .m _ | .l _ | .a _ | .z _ => true
  | s => c05 s

/-- An operand that may be absent as well (R57). -/
def orAbsent (p : Spec → Bool) (s : Spec) : Bool := p s || s == .zero

/-- Components k of a predefined slot (R117); a loaded slot is checked at run time (R203). -/
def slotK (n : BitVec 4) : Nat :=
  match n.toNat with
  | 1 | 2 => 2
  | 3 => 4
  | 4 => 8
  | _ => 1

/-- A register group of slot n as a destination: class 0, aligned and within the file for slots 0 to 4. -/
def algGroup (n : BitVec 4) : Spec → Bool
  | .v i => i.toNat % slotK n == 0
  | _ => false

/-- A register group of slot n as a source: class 0 or 2. -/
def algGroup2 (n : BitVec 4) : Spec → Bool
  | .v i => i.toNat % slotK n == 0
  | .w i => i.toNat % slotK n == 0
  | _ => false

/-! ## Destinations -/

/-- Destination of R147: class 0 (2 in a scalar clause), batons, zero. -/
def gdst : Spec → Bool
  | .v _ | .w _ | .z _ | .zero => true
  | _ => false

/-- Destination of `icmp` and `fcmp`: a predicate, a lane register, or a warp register in a scalar clause (R153, R163). -/
def cmp : Spec → Bool
  | .v _ | .w _ | .p _ => true
  | _ => false

/-- Destination of `lea`: a pair under `.x64`. -/
def leaD (x64 : Bool) (s : Spec) : Bool :=
  if x64 then
    match s with
    | .v i => i.toNat % 2 == 0
    | .w i => i.toNat % 2 == 0
    | _ => false
  else gdst s

/-- Destination of R147 in a clause that is not scalar: class 0, batons, zero. -/
def vdst : Spec → Bool
  | .v _ | .z _ | .zero => true
  | _ => false

/-- A lane register or a predicate (R173, R176). -/
def vp (s : Spec) : Bool := isV s || isP s

def voteD (mode : VoteMode) (s : Spec) : Bool := if mode == .cnt then isV s else vp s

def pmovD (k : PmovKind) (s : Spec) : Bool := if k == .p2r then isV s else isP s

def pmovS (k : PmovKind) (s : Spec) : Bool := if k == .p2r then isP s else gen s

/-- Destination of `sup` and `sred`: classes 1 to 5 or a baton (R135). -/
def scope (s : Spec) : Bool := c15 s || isZ s

/-- A lane register, or zero. -/
def vz : Spec → Bool
  | .v _ | .zero => true
  | _ => false

/-- A quad of lane registers (R370). -/
def vquad : Spec → Bool
  | .v i => i.toNat % 4 == 0
  | _ => false

/-- Destination of `ldh`: a handle or an m-handle (R221). -/
def hm : Spec → Bool
  | .h _ | .m _ => true
  | _ => false

/-- The operand of `atom`: a pair for `.cas` (R219). -/
def atomV (op : AtomOp) (s : Spec) : Bool := if op == .cas then evenReg s else gen s

/-! ## Fates (R59) -/

/-- T and L stand on classes 0 to 5, accumulators and batons (R33, R56). -/
def markable (s : Spec) : Bool := c05 s || acc s || isZ s

/-- p0 to p6, which R59 excludes in a scalar clause. -/
def lowPred : Spec → Bool
  | .p i => i != 7
  | _ => false

def isX : Spec → Bool
  | .x _ => true
  | _ => false

/-- Operands of class 0 or 1, or naming p0 to p6, which R59 excludes in a scalar clause. -/
def outOfScope (scl : Bool) (s : Spec) : Bool := scl && (isV s || isX s || lowPred s)

/-- A source under its entry's permission `p`, in a clause that is scalar or not (R59, R147). -/
def srcFate (scl : Bool) (p : Spec → Bool) (s : Spec) : Fate :=
  if outOfScope scl s then .scopeIllegal
  else if !p s then .operandClass
  else if scl && (s == .laneid || !(gen s || isP s)) then .operandClass
  else .ok

/-- A destination. `dual` marks the opcodes that stand in scalar clauses too, where class 2 is legal. A class 1
to 5 destination that is not legal there is SCOPE_ILLEGAL (R59); `p` lists what `sup` and `sred` may write. A class 2
destination in a scalar clause whose entry permits other indices of its class names an odd pair, which is OPERAND_CLASS
(R157); one whose entry permits no class 2 is SCOPE_ILLEGAL. DEDUCED: log entry 133. -/
def dstFate (scl dual : Bool) (p : Spec → Bool) (s : Spec) : Fate :=
  if outOfScope scl s then .scopeIllegal
  else if c15 s then
    if dual then (if scl && c02 s && p s then .ok else if scl && c02 s && p (.w 0) then .operandClass else .scopeIllegal)
    else if scl then .scopeIllegal
    else if p s then .ok else .scopeIllegal
  else if s == .p 7 || !p s then .operandClass
  else .ok

end Sys2Proof.Machine.Permit
end

