-- ==== Sys2Proof/WellFormed.lean ====
section
/-! DEFINITION. When an instruction is well formed: each operand is of a class its entry permits, markers stand
where R56 allows them, and each modifier combination is one its entry defines. `scl` says that the instruction
stands in a scalar clause (R53, R59). What is not well formed has no encoding and draws a load error (R70). -/

namespace Sys2Proof

open Machine

def Guard.wf (scl : Bool) (g : Guard) : Bool := !scl || g.pred == 7

def Src.wf (scl : Bool) (p : Spec → Bool) (s : Src) : Bool :=
  (Permit.srcFate scl p s.spec == .ok) && ((!s.last && !s.trap) || Permit.markable s.spec)

def Dst.wf (scl dual : Bool) (p : Spec → Bool) (d : Dst) : Bool :=
  (Permit.dstFate scl dual p d.spec == .ok) && (!d.byp || Permit.isV d.spec)

def SrcI.isImm : SrcI → Bool
  | .imm _ => true
  | .src _ => false

/-- IMM24 of a shift uses its low six bits only (R150, R61). -/
def SrcI.wf (scl shift : Bool) : SrcI → Bool
  | .src s => s.wf scl Permit.gen
  | .imm i => !shift || i.toNat < 64

def LdhSrc.isReg : LdhSrc → Bool
  | .quad _ => true
  | .mem _ _ _ => false

def LdhSrc.wf (scl : Bool) : LdhSrc → Bool
  | .mem _ i o => i.wf scl Permit.idx && o.wf scl Permit.idx
  | .quad q => q.wf scl Permit.quad

def PostSrc.isReg : PostSrc → Bool
  | .reg _ => true
  | .mem _ => false

def PostSrc.wf (scl : Bool) : PostSrc → Bool
  | .mem _ => true
  | .reg a => a.wf scl Permit.v

def IFmt.wide : IFmt → Bool
  | .s32 | .n32 => true
  | .s16 | .n16 => false

def IFmt.signed : IFmt → Bool
  | .s32 | .s16 => true
  | .n32 | .n16 => false

def TagwFmt.isReg : TagwFmt → Bool
  | .reg => true
  | .fmt _ => false

/-- Format codes 0x0E to 0x1F are reserved (R82). -/
def fmtOk (f : Fmt) : Bool := f.toNat ≤ 0x0D

def TagwFmt.ok : TagwFmt → Bool
  | .reg => true
  | .fmt f => fmtOk f

def logFmt (f : Fmt) : Bool := f == 4 || f == 5

/-- Formats of `qnt` and `dqt` (R167, R168). -/
def quantFmt (f : Fmt) : Bool := 2 ≤ f.toNat && f.toNat ≤ 0x0D

/-- Formats of `ld` and `st`: every code but l6 (R222). -/
def ldFmt (f : Fmt) : Bool := f != 5 && f.toNat ≤ 0x0D

/-- The pairs of OP and FMT of R136. -/
def redOk (op : RedOp) (f : RedFmt) : Bool :=
  match op with
  | .add | .min | .max => f != .raw32
  | .and | .or | .xor => f != .f32
  | .argmax => f == .raw32

/-- The pairs of OP and FMT of R175. -/
def scanOk (op : ScanOp) (f : RedFmt) : Bool :=
  match op with
  | .add | .min | .max | .addx => f != .raw32
  | .and | .or | .xor => f != .f32

/-- The pairs of OP and RF of R226. -/
def cpyrOk (op : CpyOp) (rf : RelFmt) : Bool :=
  match op with
  | .add | .min | .max => true
  | .and | .or | .xor => rf == .s32 || rf == .n32

def QSel.needsTask : QSel → Bool
  | .task | .armed => true
  | .free | .ready | .drop => false

/-- A predicate destination is p0 to p6 (R55), which no scalar clause names (R59). -/
def predOptOk (scl : Bool) : Option (BitVec 3) → Bool
  | none => true
  | some p => !scl && p != 7

/-- R66, for the halves of a pair word. -/
def pairOk (ha hb : Half) : Bool :=
  let srcs := [ha.a, ha.b, hb.a, hb.b]
  (ha.op.toNat < 12) && (16 ≤ hb.op.toNat) && (hb.op.toNat < 31)
    && (ha.dst.toNat % 4 != hb.dst.toNat % 4)
    && ([ha.a, ha.b].all fun s => !([hb.a, hb.b].contains s))
    && ((srcs.filter fun s => s.warp).length ≤ 1)
    && (srcs.all fun s => !s.warp || s.idx.toNat < 32)

/-- Whether an instruction is well formed in a clause that is scalar (`scl`) or not. Relay steps, events and
commands are not words; they are always well formed. -/
def Instr.wf (scl : Bool) : Instr → Bool
  | .iadd f _ g d a b =>
    g.wf scl && ((!b.isImm || f.wide)) && d.wf scl true Permit.gdst && a.wf scl Permit.gen && b.wf scl false
  | .isub f _ g d a b =>
    g.wf scl && ((!b.isImm || f.wide)) && d.wf scl true Permit.gdst && a.wf scl Permit.gen && b.wf scl false
  | .imul f _ g d a b =>
    g.wf scl && ((!b.isImm || f.wide)) && d.wf scl true Permit.gdst && a.wf scl Permit.gen && b.wf scl false
  | .imad _ _ g d a b c =>
    g.wf scl && d.wf scl true Permit.gdst && a.wf scl Permit.gen && b.wf scl Permit.gen && c.wf scl Permit.gen
  | .imulhi _ g d a b => g.wf scl && d.wf scl true Permit.gdst && a.wf scl Permit.gen && b.wf scl Permit.gen
  | .imin f g d a b =>
    g.wf scl && ((!b.isImm || f.wide)) && d.wf scl true Permit.gdst && a.wf scl Permit.gen && b.wf scl false
  | .imax f g d a b =>
    g.wf scl && ((!b.isImm || f.wide)) && d.wf scl true Permit.gdst && a.wf scl Permit.gen && b.wf scl false
  | .iabs f _ g d a => g.wf scl && (f.signed) && d.wf scl true Permit.gdst && a.wf scl Permit.gen
  | .ineg f _ g d a => g.wf scl && (f.signed) && d.wf scl true Permit.gdst && a.wf scl Permit.gen
  | .and g d a b => g.wf scl && d.wf scl true Permit.gdst && a.wf scl Permit.gen && b.wf scl false
  | .or g d a b => g.wf scl && d.wf scl true Permit.gdst && a.wf scl Permit.gen && b.wf scl false
  | .xor g d a b => g.wf scl && d.wf scl true Permit.gdst && a.wf scl Permit.gen && b.wf scl false
  | .andn g d a b => g.wf scl && d.wf scl true Permit.gdst && a.wf scl Permit.gen && b.wf scl false
  | .shl g d a b => g.wf scl && d.wf scl true Permit.gdst && a.wf scl Permit.gen && b.wf scl true
  | .shr g d a b => g.wf scl && d.wf scl true Permit.gdst && a.wf scl Permit.gen && b.wf scl true
  | .sar g d a b => g.wf scl && d.wf scl true Permit.gdst && a.wf scl Permit.gen && b.wf scl true
  | .rot g d a b => g.wf scl && d.wf scl true Permit.gdst && a.wf scl Permit.gen && b.wf scl true
  | .popc g d a => g.wf scl && d.wf scl true Permit.gdst && a.wf scl Permit.gen
  | .clz g d a => g.wf scl && d.wf scl true Permit.gdst && a.wf scl Permit.gen
  | .brev g d a => g.wf scl && d.wf scl true Permit.gdst && a.wf scl Permit.gen
  | .bfx _ g d a b c =>
    g.wf scl && d.wf scl true Permit.gdst && a.wf scl Permit.gen && b.wf scl Permit.gen && c.wf scl Permit.gen
  | .bfi g d a b c =>
    g.wf scl && d.wf scl true Permit.gdst && a.wf scl Permit.gen && b.wf scl Permit.gen && c.wf scl Permit.gen
  | .icmp _ _ g d a b => g.wf scl && d.wf scl true Permit.cmp && a.wf scl Permit.gen && b.wf scl false
  | .sel g d a b c =>
    g.wf scl && d.wf scl true Permit.gdst && a.wf scl Permit.gen && b.wf scl Permit.gen && c.wf scl (Permit.selector scl)
  | .mov g d a => g.wf scl && d.wf scl true Permit.gdst && a.wf scl Permit.gen
  | .movk f g d _ => g.wf scl && fmtOk f && d.wf scl true Permit.gdst
  | .lea _ x64 g d a b =>
    g.wf scl && d.wf scl true (Permit.leaD x64) && a.wf scl (Permit.leaS x64) && b.wf scl false
  | .dp4 _ _ _ g d a b c =>
    g.wf scl && d.wf scl true Permit.gdst && a.wf scl Permit.gen && b.wf scl Permit.gen && c.wf scl Permit.gen
  | .dp8 _ _ _ g d a b c =>
    g.wf scl && d.wf scl true Permit.gdst && a.wf scl Permit.gen && b.wf scl Permit.gen && c.wf scl Permit.gen
  | .plop _ g d _ _ => g.wf scl && !scl && d != 7
  | .pmov k g d a => g.wf scl && d.wf scl true (Permit.pmovD k) && a.wf scl (Permit.pmovS k)
  | .fadd f16 _ r g d a b c =>
    g.wf scl && (!(r == .rs && f16)) && d.wf scl true Permit.gdst && a.wf scl Permit.gen && b.wf scl Permit.gen && (if r == .rs then c.wf scl Permit.gen else c == Src.absent)
  | .fsub f16 _ r g d a b c =>
    g.wf scl && (!(r == .rs && f16)) && d.wf scl true Permit.gdst && a.wf scl Permit.gen && b.wf scl Permit.gen && (if r == .rs then c.wf scl Permit.gen else c == Src.absent)
  | .fmul f16 _ r g d a b c =>
    g.wf scl && (!(r == .rs && f16)) && d.wf scl true Permit.gdst && a.wf scl Permit.gen && b.wf scl Permit.gen && (if r == .rs then c.wf scl Permit.gen else c == Src.absent)
  | .ffma _ _ r g d a b c =>
    g.wf scl && (r != .rs) && d.wf scl true Permit.gdst && a.wf scl Permit.gen && b.wf scl Permit.gen && c.wf scl Permit.gen
  | .fmin _ _ _ g d a b => g.wf scl && d.wf scl true Permit.gdst && a.wf scl Permit.gen && b.wf scl Permit.gen
  | .fmax _ _ _ g d a b => g.wf scl && d.wf scl true Permit.gdst && a.wf scl Permit.gen && b.wf scl Permit.gen
  | .fcmp _ _ g d a b => g.wf scl && d.wf scl true Permit.cmp && a.wf scl Permit.gen && b.wf scl Permit.gen
  | .fclass sf e1 g d a =>
    g.wf scl && (!(sf == .f32 && e1)) && d.wf scl true Permit.gdst && a.wf scl Permit.gen
  | .frcp _ _ r g d a => g.wf scl && (r != .rs) && d.wf scl true Permit.gdst && a.wf scl Permit.gen
  | .frsq _ _ r g d a => g.wf scl && (r != .rs) && d.wf scl true Permit.gdst && a.wf scl Permit.gen
  | .fsqrt _ _ r g d a => g.wf scl && (r != .rs) && d.wf scl true Permit.gdst && a.wf scl Permit.gen
  | .fex2 _ _ r g d a => g.wf scl && (r != .rs) && d.wf scl true Permit.gdst && a.wf scl Permit.gen
  | .flg2 _ _ r g d a => g.wf scl && (r != .rs) && d.wf scl true Permit.gdst && a.wf scl Permit.gen
  | .fsin _ _ r g d a => g.wf scl && (r != .rs) && d.wf scl true Permit.gdst && a.wf scl Permit.gen
  | .fcos _ _ r g d a => g.wf scl && (r != .rs) && d.wf scl true Permit.gdst && a.wf scl Permit.gen
  | .ftanh _ _ r g d a => g.wf scl && (r != .rs) && d.wf scl true Permit.gdst && a.wf scl Permit.gen
  | .frnd _ _ r g d a => g.wf scl && (r != .rs) && d.wf scl true Permit.gdst && a.wf scl Permit.gen
  | .cvt f _ r g d a c =>
    g.wf scl && (f != 0) && fmtOk f && d.wf scl true Permit.gdst && a.wf scl Permit.gen && (!(logFmt f) || r == .rne) && (if r == .rs then c.wf scl Permit.gen else c == Src.absent)
  | .qnt f rs g d a b c =>
    g.wf scl && (quantFmt f && !(rs && logFmt f)) && fmtOk f && d.wf scl true Permit.gdst && a.wf scl Permit.gen && b.wf scl Permit.gen && c.wf scl Permit.gen
  | .dqt f g d a b c =>
    g.wf scl && (quantFmt f) && fmtOk f && d.wf scl true Permit.gdst && a.wf scl Permit.c05 && b.wf scl Permit.gen && c.wf scl Permit.gen
  | .pack g d a b c =>
    g.wf scl && d.wf scl true Permit.gdst && a.wf scl Permit.gen && b.wf scl Permit.gen && c.wf scl Permit.gen
  | .unpk _ g d a b => g.wf scl && d.wf scl true Permit.gdst && a.wf scl Permit.gen && b.wf scl Permit.gen
  | .tagr g d a => g.wf scl && d.wf scl true Permit.gdst && a.wf scl Permit.tagr
  | .tagw f g d a b =>
    g.wf scl && f.ok && d.wf scl true Permit.gdst && a.wf scl Permit.gen && (if f.isReg then b.wf scl Permit.gen else b == Src.absent)
  | .shfl mode _ g d a b c =>
    g.wf scl && d.wf scl false Permit.v && a.wf scl Permit.gen && (if mode != .rev then b.wf scl Permit.gen else b == Src.absent) && c.wf scl Permit.gen
  | .vote mode _ g d a => g.wf scl && d.wf scl false (Permit.voteD mode) && a.wf scl Permit.predOrReg
  | .ballot _ g d a => g.wf scl && d.wf scl false Permit.vdst && a.wf scl Permit.predOrReg
  | .lred op f g d a => g.wf scl && (redOk op f) && d.wf scl false Permit.v && a.wf scl Permit.gen
  | .scan op f g d a => g.wf scl && (scanOk op f) && d.wf scl false Permit.vdst && a.wf scl Permit.gen
  | .matchq _ g d a => g.wf scl && d.wf scl false Permit.vdst && a.wf scl Permit.gen
  | .elect _ _ g d => g.wf scl && d.wf scl false Permit.vp
  | .sup f g d a => g.wf scl && fmtOk f && d.wf scl false Permit.scope && a.wf scl Permit.gen
  | .sred op f g d a => g.wf scl && (redOk op f) && d.wf scl false Permit.scope && a.wf scl Permit.gen
  | .rgive g n => g.wf scl && n.wf scl Permit.c257
  | .rclaim g p n => g.wf scl && predOptOk scl p && n.wf scl Permit.c257
  | .rpool _ g d => g.wf scl && d.wf scl false Permit.v
  | .ldh g d a => g.wf scl && d.wf scl false Permit.hm && a.wf scl
  | .ld f g d _ i o =>
    g.wf scl && (ldFmt f) && fmtOk f && d.wf scl false Permit.vz && i.wf scl Permit.idx && o.wf scl Permit.idx
  | .st f g v _ i o =>
    g.wf scl && (ldFmt f) && fmtOk f && Permit.srcFate scl Permit.gen v == .ok && i.wf scl Permit.idx && o.wf scl Permit.idx
  | .atom op _ g d _ i v =>
    g.wf scl && d.wf scl false Permit.vz && i.wf scl Permit.idx && v.wf scl (Permit.atomV op)
  | .red op _ g _ i v => g.wf scl && (op != .cas && op != .xchg) && i.wf scl Permit.idx && v.wf scl Permit.gen
  | .fence _ g => g.wf scl
  | .pfh _ g _ i o => g.wf scl && i.wf scl Permit.idx && o.wf scl Permit.idx
  | .res kind g _ i n => g.wf scl && (kind != 3) && i.wf scl Permit.idx && n.wf scl Permit.idx
  | .cpy g _ _ q => g.wf scl && q.wf scl Permit.quad
  | .cpyr op rf g _ _ q => g.wf scl && (cpyrOk op rf) && q.wf scl Permit.quad
  | .waitt _ g p m => g.wf scl && predOptOk scl p && m.wf scl Permit.gen
  | .waita _ g p m => g.wf scl && predOptOk scl p && m.wf scl Permit.gen
  | .tfind kind _ g d m => g.wf scl && (kind != 3) && d.wf scl false Permit.v && m.wf scl Permit.gen
  | .smap _ g q _ x => g.wf scl && q.wf scl Permit.evenReg && x.wf scl Permit.idx
  | .smapOff _ g => g.wf scl
  | .sflush _ g t => g.wf scl && t.wf scl Permit.idx
  | .sinv _ g => g.wf scl
  | .send g _ q => g.wf scl && q.wf scl Permit.quad
  | .recv g _ q => g.wf scl && q.wf scl Permit.quad
  | .relay g d _ x q => g.wf scl && d.wf scl false Permit.vz && x.wf scl Permit.c057 && q.wf scl Permit.quad
  | .rlwait g p t => g.wf scl && predOptOk scl p && t.wf scl Permit.c05
  | .lload g _ _ x q => g.wf scl && x.wf scl Permit.c057 && q.wf scl Permit.pair
  | .mfence g => g.wf scl
  | .mma g p => g.wf scl && p.wf scl Permit.c057
  | .mwait _ g a => g.wf scl && a.wf scl Permit.acc
  | .azero _ _ g _ => g.wf scl
  | .amov _ _ g d a i => g.wf scl && d.wf scl false Permit.v && a.wf scl Permit.acc && i.wf scl Permit.c057
  | .ast r _ g _ a t => g.wf scl && (r != .rs) && a.wf scl Permit.acc && t.wf scl Permit.c057
  | .ald _ g _ _ t => g.wf scl && t.wf scl Permit.c057
  | .arel _ g a => g.wf scl && a.wf scl Permit.acc
  | .alg _ g p => g.wf scl && p.wf scl Permit.c057
  | .conj n g d a => g.wf scl && d.wf scl false (Permit.algGroup n) && a.wf scl (Permit.algGroup2 n)
  | .norm n g d a => g.wf scl && d.wf scl false Permit.v && a.wf scl (Permit.algGroup2 n)
  | .amul n _ g d a b =>
    g.wf scl && d.wf scl false (Permit.algGroup n) && a.wf scl (Permit.algGroup2 n) && b.wf scl (Permit.algGroup2 n)
  | .barB _ g b n => g.wf scl && b.wf scl Permit.c257 && n.wf scl (Permit.orAbsent Permit.c257)
  | .barC g => g.wf scl
  | .barG g => g.wf scl
  | .carrive g b k => g.wf scl && b.wf scl Permit.c057 && k.wf scl (Permit.orAbsent Permit.c057)
  | .cwait g b n => g.wf scl && b.wf scl Permit.c057 && n.wf scl Permit.c057
  | .rpush g r v => g.wf scl && r.wf scl Permit.imm && v.wf scl Permit.gen
  | .rpop _ g d r => g.wf scl && d.wf scl false Permit.vz && r.wf scl Permit.imm
  | .enq g _ i => g.wf scl && i.wf scl Permit.idx
  | .enqAt g _ i => g.wf scl && i.wf scl Permit.idx
  | .enqRetry g q t => g.wf scl && q.wf scl Permit.c057 && t.wf scl Permit.c05
  | .enqCancel g q t => g.wf scl && q.wf scl Permit.c057 && t.wf scl Permit.c05
  | .tdone g => g.wf scl
  | .qstat what g d q t =>
    g.wf scl && d.wf scl false Permit.v && q.wf scl Permit.c057 && (if what.needsTask then t.wf scl Permit.c05 else t == Src.absent)
  | .ask g _ q p => g.wf scl && q.wf scl Permit.quad && p.wf scl Permit.evenReg
  | .annc g _ q p => g.wf scl && q.wf scl Permit.quad && p.wf scl Permit.evenReg
  | .wdrw g q t => g.wf scl && q.wf scl Permit.quad && t.wf scl Permit.c057
  | .nmk fld g d v =>
    g.wf scl && d.wf scl false Permit.vquad && (if fld != .clr then v.wf scl Permit.c057 else v == Src.absent)
  | .pslot g p _ t w => g.wf scl && predOptOk scl p && t.wf scl Permit.idx && w.wf scl (Permit.orAbsent Permit.v)
  | .ppost g a q p => g.wf scl && a.wf scl && q.wf scl Permit.quad && p.wf scl Permit.evenReg
  | .pwait _ g d q => g.wf scl && d.wf scl false Permit.vz && q.wf scl Permit.idx
  | .prel _ g q => g.wf scl && q.wf scl Permit.idx
  | .pair _ ha hb => !scl && pairOk ha hb
  | .bra g _ => g.wf scl
  | .brx _ g a => g.wf scl && a.wf scl (Permit.brx scl)
  | .call g _ => g.wf scl
  | .ret g => g.wf scl
  | .exit g => g.wf scl
  | .yield g => g.wf scl
  | .join g => g.wf scl
  | .sysr g d _ => g.wf scl && d.wf scl false Permit.vz
  | .sysw g a _ => g.wf scl && a.wf scl Permit.sysw
  | .trap g _ => g.wf scl
  | .tret _ g => g.wf scl
  | .brk g _ => g.wf scl
  | .evf g => g.wf scl
  | .nop g => g.wf scl
  | .packetFormation _ | .fillLands _ _ | .handleFillLands _ _ | .claimServed _ | .regDeadlock _ | .copyComplete _
    | .lloadComplete _ | .chainComplete _ | .aldComplete _ | .astComplete _ | .sflushComplete _ | .windowLineFill _ _ _
    | .windowSnoop _ _ _ _ | .faultServiceTimeout _ _ | .progressWatchdog _ _ | .localityPeriod _ | .taskStart _ | .starterRelease
    | .instancePlacement _ _ | .revocationDrainExpiry _ | .saveDrainExpiry _ | .stopDrainExpiry _ | .coreRemovalDrainExpiry _
    | .finaliseComplete _ _ | .gridIdSweepDone _ _ | .dataFlit _ _ | .creditFlit _ _ | .acknowledgementFlit _ _ _ _
    | .relayDataFlit _ _ | .messageLocalComplete _ | .snd _ _ _ _ | .rcv _ _ _ _ => true
  | .rrs op rf _ _ _ _ _ => cpyrOk op rf
  | .cpys _ _ => true
  | .wat => true
  | .loop cnt _ => cnt != 0
  | .endr | .relayIssueTimeout _ _ | .interestArrival _ _ _ _ | .tileReturn _ _ _ _ | .announcementDecision _
    | .nameDeliveryComplete _ | .askLifetimeExpiry _ | .penPostArrival _ | .penSlotTimeout _ _ | .penRelease _ _
    | .penReleaseWritten _ _ | .push _ _ _ | .taskRetry _ _ | .taskCancel _ _ | .queueStop _ | .queueStart _
    | .launch _ _ | .readbackAddress _ | .signalBitmapRead _ | .windowWriteOther _ _ | .createContext _
    | .destroyContext _ | .saveContext _ | .restoreContext _ | .writeContextRegister _ _ _ | .loadContainer _ _
    | .removeObject _ _ | .objectCreate _ _ _ | .addExtent _ _ _ | .split _ _ _ | .merge _ _ _ _ | .narrow _ _ _
    | .objectRemove _ _ | .resolveFault _ _ _ | .writeObject _ _ _ | .readObject _ _ _ | .createQueue _ _ _ | .destroyQueue _ _
    | .writeFilterEntry _ _ _ | .writeRouteEntry _ _ _ | .paddockCreate _ _ | .paddockResize _ _ | .paddockStop _
    | .paddockStart _ | .paddockDestroy _ | .removeCore _ _ | .keyInstall _ _ _ _ | .keyRewrap _ _ | .rewrapDone _ _
    | .keyRevoke _ _ | .preEmptPosition _ _ _ | .attest _ _ _ | .setPowerCap _ _ | .coldReset _ | .ptpMessage _ | .thermalThrottle
    | .thermalTrip | .portEnable _ | .trainingComplete _ _ | .trainingTimeout _ | .trainingRetry _ | .laneFailure _ _
    | .replayThreshold _ | .quarantineRelease _ | .portDisable _ | .dieFailure _ | .clusterRetire _ | .channelRetire _ _ _ _
    | .cxlPortDown _ | .scrubberError _ | .correctedError _ _ _ | .accessPerformed _ _ | .scrubComplete _ | .commandComplete _
    | .filterBucketRefill _ => true

end Sys2Proof
end

