-- ==== Sys2Proof/Decode.lean ====
section
/-! DEFINITION. The decoder and the encoder of 64-bit words (R51 to R69), and of the 16-byte relay steps (R346).
Decoding is total: what is no word is rejected by the name of its load error (R70), the lowest that applies. -/

namespace Sys2Proof

open Machine

/-- The load errors that a word by itself can draw (R70), by their codes. -/
inductive LoadError where
  | clauseBroken | headerReserved | opcReserved | modReserved | fieldReserved | specReserved | operandClass
  | engMismatch | controlPosition | branchTarget | fallthroughEnd | pairIllegal | scopeIllegal | roleIllegal
  | declExceeded | regionEntry
  | containerBad | sectionReserved | descriptorBad | fixupBad | fixupRange
  deriving DecidableEq, Repr

/-- The code of a load error (R70). -/
def LoadError.code : LoadError → Nat
  | .containerBad => 0x01
  | .sectionReserved => 0x02
  | .descriptorBad => 0x03
  | .fixupBad => 0x04
  | .fixupRange => 0x05
  | .clauseBroken => 0x10
  | .headerReserved => 0x11
  | .opcReserved => 0x12
  | .modReserved => 0x13
  | .fieldReserved => 0x14
  | .specReserved => 0x15
  | .operandClass => 0x16
  | .engMismatch => 0x17
  | .controlPosition => 0x18
  | .branchTarget => 0x19
  | .fallthroughEnd => 0x1A
  | .pairIllegal => 0x1B
  | .scopeIllegal => 0x1C
  | .roleIllegal => 0x1D
  | .declExceeded => 0x1E
  | .regionEntry => 0x1F

/-- The lower of two load errors: a word that meets several reports the lowest (R71). -/
def LoadError.lower (a b : LoadError) : LoadError := if a.code ≤ b.code then a else b

/-- A checked part of a word: its value, or the lowest load error found in it. -/
inductive Chk (α : Type) where
  | ok (a : α)
  | bad (e : LoadError)
  deriving DecidableEq, Repr

/-- The lowest load error of a part, with what another part of the word reported. -/
def Chk.worst {α : Type} (x : Chk α) (e : LoadError) : LoadError :=
  match x with
  | .ok _ => e
  | .bad e' => e'.lower e

/-- A further part: errors of both sides combine to the lower. -/
def Chk.ap {α β : Type} : Chk (α → β) → Chk α → Chk β
  | .bad e, x => .bad (x.worst e)
  | .ok f, .ok a => .ok (f a)
  | .ok _, .bad e => .bad e

/-- A further check without a value. -/
def Chk.also {α : Type} (f : Chk α) (x : Chk Unit) : Chk α :=
  ((Chk.ok fun (_ : Unit) (a : α) => a).ap x).ap f

/-- A condition, and the load error its breach draws. -/
def Chk.need {α : Type} (f : Chk α) (e : LoadError) (c : Bool) : Chk α :=
  f.also (if c then .ok () else .bad e)

def Chk.toOption {α : Type} : Chk α → Option α
  | .ok a => some a
  | .bad _ => none

/-! ## Codes of the modifiers -/

def bit (b : Bool) : BitVec 1 := if b then 1 else 0

/-- The code of a `IFmt`. -/
def IFmt.enc : IFmt → BitVec 2
  | .s32 => 0#2
  | .n32 => 1#2
  | .s16 => 2#2
  | .n16 => 3#2

/-- The `IFmt` of a code, where there is one. -/
def IFmt.dec (c : BitVec 2) : Option IFmt :=
  match c.toNat with
  | 0 => some .s32
  | 1 => some .n32
  | 2 => some .s16
  | _ => some .n16

/-- The code of a `ICmp`. -/
def ICmp.enc : ICmp → BitVec 3
  | .eq => 0#3
  | .ne => 1#3
  | .lt => 2#3
  | .le => 3#3
  | .gt => 4#3
  | .ge => 5#3

/-- The `ICmp` of a code, where there is one. -/
def ICmp.dec (c : BitVec 3) : Option ICmp :=
  match c.toNat with
  | 0 => some .eq
  | 1 => some .ne
  | 2 => some .lt
  | 3 => some .le
  | 4 => some .gt
  | 5 => some .ge
  | _ => none

/-- The code of a `PlopOp`. -/
def PlopOp.enc : PlopOp → BitVec 3
  | .and => 0#3
  | .or => 1#3
  | .xor => 2#3
  | .andn => 3#3
  | .nand => 4#3
  | .nor => 5#3
  | .xnor => 6#3
  | .orn => 7#3

/-- The `PlopOp` of a code, where there is one. -/
def PlopOp.dec (c : BitVec 3) : Option PlopOp :=
  match c.toNat with
  | 0 => some .and
  | 1 => some .or
  | 2 => some .xor
  | 3 => some .andn
  | 4 => some .nand
  | 5 => some .nor
  | 6 => some .xnor
  | _ => some .orn

/-- The code of a `PmovKind`. -/
def PmovKind.enc : PmovKind → BitVec 2
  | .r2p => 0#2
  | .p2r => 1#2
  | .m2p => 2#2

/-- The `PmovKind` of a code, where there is one. -/
def PmovKind.dec (c : BitVec 2) : Option PmovKind :=
  match c.toNat with
  | 0 => some .r2p
  | 1 => some .p2r
  | 2 => some .m2p
  | _ => none

/-- The code of a `Rnd`. -/
def Rnd.enc : Rnd → BitVec 3
  | .rne => 0#3
  | .rtz => 1#3
  | .rdn => 2#3
  | .rup => 3#3
  | .rs => 4#3

/-- The `Rnd` of a code, where there is one. -/
def Rnd.dec (c : BitVec 3) : Option Rnd :=
  match c.toNat with
  | 0 => some .rne
  | 1 => some .rtz
  | 2 => some .rdn
  | 3 => some .rup
  | 4 => some .rs
  | _ => none

/-- The code of a `FCmp`. -/
def FCmp.enc : FCmp → BitVec 3
  | .eq => 0#3
  | .ne => 1#3
  | .lt => 2#3
  | .le => 3#3
  | .gt => 4#3
  | .ge => 5#3
  | .num => 6#3
  | .nan => 7#3

/-- The `FCmp` of a code, where there is one. -/
def FCmp.dec (c : BitVec 3) : Option FCmp :=
  match c.toNat with
  | 0 => some .eq
  | 1 => some .ne
  | 2 => some .lt
  | 3 => some .le
  | 4 => some .gt
  | 5 => some .ge
  | 6 => some .num
  | _ => some .nan

/-- The code of a `SrcFmt`. -/
def SrcFmt.enc : SrcFmt → BitVec 2
  | .f32 => 0#2
  | .f16 => 1#2
  | .bf16 => 2#2

/-- The `SrcFmt` of a code, where there is one. -/
def SrcFmt.dec (c : BitVec 2) : Option SrcFmt :=
  match c.toNat with
  | 0 => some .f32
  | 1 => some .f16
  | 2 => some .bf16
  | _ => none

/-- The code of a `Seg`. -/
def Seg.enc : Seg → BitVec 3
  | .whole => 0#3
  | .s8 => 1#3
  | .s16 => 2#3
  | .s32 => 3#3
  | .s64 => 4#3

/-- The `Seg` of a code, where there is one. -/
def Seg.dec (c : BitVec 3) : Option Seg :=
  match c.toNat with
  | 0 => some .whole
  | 1 => some .s8
  | 2 => some .s16
  | 3 => some .s32
  | 4 => some .s64
  | _ => none

/-- The code of a `ShflMode`. -/
def ShflMode.enc : ShflMode → BitVec 2
  | .idx => 0#2
  | .add => 1#2
  | .xor => 2#2
  | .rev => 3#2

/-- The `ShflMode` of a code, where there is one. -/
def ShflMode.dec (c : BitVec 2) : Option ShflMode :=
  match c.toNat with
  | 0 => some .idx
  | 1 => some .add
  | 2 => some .xor
  | _ => some .rev

/-- The code of a `VoteMode`. -/
def VoteMode.enc : VoteMode → BitVec 2
  | .all => 0#2
  | .any => 1#2
  | .eq => 2#2
  | .cnt => 3#2

/-- The `VoteMode` of a code, where there is one. -/
def VoteMode.dec (c : BitVec 2) : Option VoteMode :=
  match c.toNat with
  | 0 => some .all
  | 1 => some .any
  | 2 => some .eq
  | _ => some .cnt

/-- The code of a `RedOp`. -/
def RedOp.enc : RedOp → BitVec 3
  | .add => 0#3
  | .min => 1#3
  | .max => 2#3
  | .and => 3#3
  | .or => 4#3
  | .xor => 5#3
  | .argmax => 6#3

/-- The `RedOp` of a code, where there is one. -/
def RedOp.dec (c : BitVec 3) : Option RedOp :=
  match c.toNat with
  | 0 => some .add
  | 1 => some .min
  | 2 => some .max
  | 3 => some .and
  | 4 => some .or
  | 5 => some .xor
  | 6 => some .argmax
  | _ => none

/-- The code of a `RedFmt`. -/
def RedFmt.enc : RedFmt → BitVec 2
  | .s32 => 0#2
  | .n32 => 1#2
  | .f32 => 2#2
  | .raw32 => 3#2

/-- The `RedFmt` of a code, where there is one. -/
def RedFmt.dec (c : BitVec 2) : Option RedFmt :=
  match c.toNat with
  | 0 => some .s32
  | 1 => some .n32
  | 2 => some .f32
  | _ => some .raw32

/-- The code of a `ScanOp`. -/
def ScanOp.enc : ScanOp → BitVec 3
  | .add => 0#3
  | .min => 1#3
  | .max => 2#3
  | .and => 3#3
  | .or => 4#3
  | .xor => 5#3
  | .addx => 6#3

/-- The `ScanOp` of a code, where there is one. -/
def ScanOp.dec (c : BitVec 3) : Option ScanOp :=
  match c.toNat with
  | 0 => some .add
  | 1 => some .min
  | 2 => some .max
  | 3 => some .and
  | 4 => some .or
  | 5 => some .xor
  | 6 => some .addx
  | _ => none

/-- The code of a `AtomOp`. -/
def AtomOp.enc : AtomOp → BitVec 4
  | .addS32 => 0#4
  | .addN32 => 1#4
  | .addF32 => 2#4
  | .minS32 => 3#4
  | .minN32 => 4#4
  | .minF32 => 5#4
  | .maxS32 => 6#4
  | .maxN32 => 7#4
  | .maxF32 => 8#4
  | .and => 9#4
  | .or => 10#4
  | .xor => 11#4
  | .xchg => 12#4
  | .cas => 13#4
  | .argmax => 14#4

/-- The `AtomOp` of a code, where there is one. -/
def AtomOp.dec (c : BitVec 4) : Option AtomOp :=
  match c.toNat with
  | 0 => some .addS32
  | 1 => some .addN32
  | 2 => some .addF32
  | 3 => some .minS32
  | 4 => some .minN32
  | 5 => some .minF32
  | 6 => some .maxS32
  | 7 => some .maxN32
  | 8 => some .maxF32
  | 9 => some .and
  | 10 => some .or
  | 11 => some .xor
  | 12 => some .xchg
  | 13 => some .cas
  | 14 => some .argmax
  | _ => none

/-- The code of a `CpyOp`. -/
def CpyOp.enc : CpyOp → BitVec 3
  | .add => 0#3
  | .min => 1#3
  | .max => 2#3
  | .and => 3#3
  | .or => 4#3
  | .xor => 5#3

/-- The `CpyOp` of a code, where there is one. -/
def CpyOp.dec (c : BitVec 3) : Option CpyOp :=
  match c.toNat with
  | 0 => some .add
  | 1 => some .min
  | 2 => some .max
  | 3 => some .and
  | 4 => some .or
  | 5 => some .xor
  | _ => none

/-- The code of a `RelFmt`. -/
def RelFmt.enc : RelFmt → BitVec 2
  | .f32 => 0#2
  | .bf16 => 1#2
  | .s32 => 2#2
  | .n32 => 3#2

/-- The `RelFmt` of a code, where there is one. -/
def RelFmt.dec (c : BitVec 2) : Option RelFmt :=
  match c.toNat with
  | 0 => some .f32
  | 1 => some .bf16
  | 2 => some .s32
  | _ => some .n32

/-- The code of a `RingWant`. -/
def RingWant.enc : RingWant → BitVec 2
  | .any => 0#2
  | .ph0 => 1#2
  | .ph1 => 2#2

/-- The `RingWant` of a code, where there is one. -/
def RingWant.dec (c : BitVec 2) : Option RingWant :=
  match c.toNat with
  | 0 => some .any
  | 1 => some .ph0
  | 2 => some .ph1
  | _ => none

/-- The code of a `QSel`. -/
def QSel.enc : QSel → BitVec 3
  | .free => 0#3
  | .ready => 1#3
  | .task => 2#3
  | .armed => 3#3
  | .drop => 4#3

/-- The `QSel` of a code, where there is one. -/
def QSel.dec (c : BitVec 3) : Option QSel :=
  match c.toNat with
  | 0 => some .free
  | 1 => some .ready
  | 2 => some .task
  | 3 => some .armed
  | 4 => some .drop
  | _ => none

/-- The code of a `NmkField`. -/
def NmkField.enc : NmkField → BitVec 3
  | .clr => 0#3
  | .tensor => 1#3
  | .t0 => 2#3
  | .t1 => 3#3
  | .t2 => 4#3
  | .iter => 5#3
  | .var => 6#3

/-- The `NmkField` of a code, where there is one. -/
def NmkField.dec (c : BitVec 3) : Option NmkField :=
  match c.toNat with
  | 0 => some .clr
  | 1 => some .tensor
  | 2 => some .t0
  | 3 => some .t1
  | 4 => some .t2
  | 5 => some .iter
  | 6 => some .var
  | _ => none

/-- MOD of `tagw` (R170): a format code, or 0x1F for the register form. -/
def TagwFmt.enc : TagwFmt → BitVec 5
  | .fmt f => f
  | .reg => 0x1F#5

def TagwFmt.dec (c : BitVec 5) : Option TagwFmt :=
  if c == 0x1F#5 then some .reg else if fmtOk c then some (.fmt c) else none

/-! ## The fields of a word (R60) -/

/-- Format V; the other formats join its fields. -/
structure Fields where
  opc : BitVec 8
  mod : BitVec 5
  g : BitVec 4
  d : BitVec 11
  s1 : BitVec 12
  s2 : BitVec 12
  s3 : BitVec 12
  deriving DecidableEq, Repr

def Fields.ofWord (w : Dword) : Fields :=
  ⟨w.extractLsb' 56 8, w.extractLsb' 51 5, w.extractLsb' 47 4, w.extractLsb' 36 11, w.extractLsb' 24 12,
   w.extractLsb' 12 12, w.extractLsb' 0 12⟩

def Fields.toWord (f : Fields) : Dword := f.opc ++ f.mod ++ f.g ++ f.d ++ f.s1 ++ f.s2 ++ f.s3

/-! ## Operand specifiers (R54, R55) -/

/-- The ten bits of a specifier. -/
def Spec.enc : Spec → BitVec 10
  | .v i => 0#3 ++ i
  | .x i => 1#3 ++ 0#3 ++ i
  | .w i => 2#3 ++ 0#2 ++ i
  | .b i => 3#3 ++ 0#2 ++ i
  | .c i => 4#3 ++ 0#3 ++ i
  | .g i => 5#3 ++ 0#3 ++ i
  | .p i => 6#3 ++ 0#4 ++ i
  | .z i => 6#3 ++ 1#4 ++ i
  | .h i => 6#3 ++ 1#3 ++ i
  | .a i => 6#3 ++ 1#2 ++ i
  | .m i => 6#3 ++ 4#3 ++ i
  | .l i => 6#3 ++ 10#4 ++ i
  | .tg => 888#10
  | .laneid => 889#10
  | .warpid => 890#10
  | .blockid => 891#10
  | .clusterid => 892#10
  | .stageid => 893#10
  | .width => 894#10
  | .zero => 895#10
  | .imm i => 7#3 ++ i

/-- The special of an index (R55); 88 to 119 are reserved. -/
def specialOf (i : BitVec 7) : Option Spec :=
  if i.toNat < 8 then some (.p (i.extractLsb' 0 3))
  else if i.toNat < 16 then some (.z (i.extractLsb' 0 3))
  else if i.toNat < 32 then some (.h (i.extractLsb' 0 4))
  else if i.toNat < 64 then some (.a (i.extractLsb' 0 5))
  else if i.toNat < 80 then some (.m (i.extractLsb' 0 4))
  else if i.toNat < 88 then some (.l (i.extractLsb' 0 3))
  else
    match i.toNat with
    | 120 => some .tg
    | 121 => some .laneid
    | 122 => some .warpid
    | 123 => some .blockid
    | 124 => some .clusterid
    | 125 => some .stageid
    | 126 => some .width
    | 127 => some .zero
    | _ => none

/-- The specifier of ten bits; none where R54 or R55 reserves them. -/
def Spec.dec (s : BitVec 10) : Option Spec :=
  let i := s.extractLsb' 0 7
  match (s.extractLsb' 7 3).toNat with
  | 0 => some (.v i)
  | 1 => if i.toNat < 16 then some (.x (i.extractLsb' 0 4)) else none
  | 2 => if i.toNat < 32 then some (.w (i.extractLsb' 0 5)) else none
  | 3 => if i.toNat < 32 then some (.b (i.extractLsb' 0 5)) else none
  | 4 => if i.toNat < 16 then some (.c (i.extractLsb' 0 4)) else none
  | 5 => if i.toNat < 16 then some (.g (i.extractLsb' 0 4)) else none
  | 6 => specialOf i
  | _ => some (.imm i)

/-! ## Encoding of the fields -/

def Src.enc (s : Src) : BitVec 12 := s.spec.enc ++ bit s.last ++ bit s.trap
def Dst.enc (d : Dst) : BitVec 11 := d.spec.enc ++ bit d.byp
def Guard.enc (g : Guard) : BitVec 4 := g.pred ++ bit g.neg
/-- An absent source and an absent destination (R57). -/
def sAbsent : BitVec 12 := 0xDFC#12
def dAbsent : BitVec 11 := 0x6FE#11
def encH (h : BitVec 4) : BitVec 12 := (Spec.h h).enc ++ 0#2
def encM (m : BitVec 4) : BitVec 12 := (Spec.m m).enc ++ 0#2
def encP (p : BitVec 3) : BitVec 12 := (Spec.p p).enc ++ 0#2
def encHD (h : BitVec 4) : BitVec 11 := (Spec.h h).enc ++ 0#1
def encMD (m : BitVec 4) : BitVec 11 := (Spec.m m).enc ++ 0#1
def encLD (l : BitVec 3) : BitVec 11 := (Spec.l l).enc ++ 0#1
def encAD (a : BitVec 5) : BitVec 11 := (Spec.a a).enc ++ 0#1
def encPD (p : BitVec 3) : BitVec 11 := (Spec.p p).enc ++ 0#1
def encPO : Option (BitVec 3) → BitVec 11
  | none => dAbsent
  | some p => encPD p
def encCvt (elem : BitVec 3) (r : Rnd) : BitVec 12 := 0xE#4 ++ elem ++ r.enc ++ 0#2

def SrcI.encHi : SrcI → BitVec 12
  | .src s => s.enc
  | .imm i => i.extractLsb' 12 12
def SrcI.encLo : SrcI → BitVec 12
  | .src _ => sAbsent
  | .imm i => i.extractLsb' 0 12

def LdhSrc.enc1 : LdhSrc → BitVec 12
  | .mem h _ _ => encH h
  | .quad q => q.enc
def LdhSrc.enc2 : LdhSrc → BitVec 12
  | .mem _ i _ => i.enc
  | .quad _ => sAbsent
def LdhSrc.enc3 : LdhSrc → BitVec 12
  | .mem _ _ o => o.enc
  | .quad _ => sAbsent
def PostSrc.enc1 : PostSrc → BitVec 12
  | .mem h => encH h
  | .reg a => a.enc

def HalfSrc.enc (s : HalfSrc) : BitVec 8 := bit s.warp ++ s.idx
def Half.enc (h : Half) : BitVec 28 := h.op ++ h.dst ++ h.a.enc ++ h.b.enc

/-! ## Decoding of the fields -/

def Chk.ofFate {α : Type} (f : Permit.Fate) (a : α) : Chk α :=
  match f with
  | .ok => .ok a
  | .operandClass => .bad .operandClass
  | .scopeIllegal => .bad .scopeIllegal

def decGuard (scl : Bool) (g : BitVec 4) : Chk Guard :=
  let r : Guard := ⟨g.extractLsb' 1 3, g.getLsbD 0⟩
  if r.wf scl then .ok r else .bad .scopeIllegal

/-- An absent field (R57). -/
def absS (f : BitVec 12) : Chk Unit := if f == sAbsent then .ok () else .bad .fieldReserved
def absD (f : BitVec 11) : Chk Unit := if f == dAbsent then .ok () else .bad .fieldReserved

/-- T or L on a special that carries no marker (R56), whose lower code is reported before that of a reserved special. -/
def badSrc (f : BitVec 12) : LoadError :=
  if f.extractLsb' 9 3 == 6#3 && f.extractLsb' 0 2 != 0#2 then .fieldReserved else .specReserved

/-- X on a specifier of a class other than 0 (R56), before a reserved specifier. -/
def badDst (f : BitVec 11) : LoadError := if f.getLsbD 0 then .fieldReserved else .specReserved

def decSrc (scl : Bool) (p : Spec → Bool) (f : BitVec 12) : Chk Src :=
  match Spec.dec (f.extractLsb' 2 10) with
  | none => .bad (badSrc f)
  | some s =>
    let l := f.getLsbD 1
    let t := f.getLsbD 0
    (Chk.ofFate (Permit.srcFate scl p s) ⟨s, l, t⟩).need .fieldReserved ((!l && !t) || Permit.markable s)

/-- A source that is absent unless `c` holds. -/
def decSrcO (scl c : Bool) (p : Spec → Bool) (f : BitVec 12) : Chk Src :=
  if c then decSrc scl p f else (Chk.ok Src.absent).also (absS f)

def decDst (scl dual : Bool) (p : Spec → Bool) (f : BitVec 11) : Chk Dst :=
  match Spec.dec (f.extractLsb' 1 10) with
  | none => .bad (badDst f)
  | some s =>
    let x := f.getLsbD 0
    (Chk.ofFate (Permit.dstFate scl dual p s) ⟨s, x⟩).need .fieldReserved (!x || Permit.isV s)

/-- S2 of a V/I word (R61); a shift uses IMM24[5:0] only (R150). -/
def decSrcI (scl i shift : Bool) (f2 f3 : BitVec 12) : Chk SrcI :=
  if i then
    (Chk.ok (.imm (f2 ++ f3))).need .fieldReserved (!shift || (f2 ++ f3).toNat < 64)
  else ((Chk.ok SrcI.src).ap (decSrc scl Permit.gen f2)).also (absS f3)

/-- A special of one kind, in a source field without markers. In a scalar clause an operand of class 0 or 1, or naming
p0 to p6, is SCOPE_ILLEGAL (R59). -/
def decKind {α : Type} (scl : Bool) (sel : Spec → Option α) (f : BitVec 12) : Chk α :=
  match Spec.dec (f.extractLsb' 2 10) with
  | none => .bad (badSrc f)
  | some s =>
    (if Permit.outOfScope scl s then Chk.bad .scopeIllegal
      else match sel s with
        | some a => Chk.ok a
        | none => .bad .operandClass).need .fieldReserved (f.extractLsb' 0 2 == 0#2 || Permit.markable s)

/-- The same in a destination field, where classes 1 to 5 are SCOPE_ILLEGAL too. -/
def decKindD {α : Type} (scl : Bool) (sel : Spec → Option α) (f : BitVec 11) : Chk α :=
  match Spec.dec (f.extractLsb' 1 10) with
  | none => .bad (badDst f)
  | some s =>
    (if Permit.outOfScope scl s || Permit.c15 s then Chk.bad .scopeIllegal
      else match sel s with
        | some a => Chk.ok a
        | none => .bad .operandClass).need .fieldReserved (!f.getLsbD 0 || Permit.isV s)

def selH : Spec → Option (BitVec 4) | .h i => some i | _ => none
def selM : Spec → Option (BitVec 4) | .m i => some i | _ => none
def selL : Spec → Option (BitVec 3) | .l i => some i | _ => none
def selA : Spec → Option (BitVec 5) | .a i => some i | _ => none
def selP : Spec → Option (BitVec 3) | .p i => some i | _ => none
def selP6 : Spec → Option (BitVec 3) | .p i => if i != 7 then some i else none | _ => none

def decH (scl : Bool) (f : BitVec 12) : Chk (BitVec 4) := decKind scl selH f
def decM (scl : Bool) (f : BitVec 12) : Chk (BitVec 4) := decKind scl selM f
def decMD (scl : Bool) (f : BitVec 11) : Chk (BitVec 4) := decKindD scl selM f
def decLD (scl : Bool) (f : BitVec 11) : Chk (BitVec 3) := decKindD scl selL f
def decAD (scl : Bool) (f : BitVec 11) : Chk (BitVec 5) := decKindD scl selA f
def decP (scl : Bool) (f : BitVec 12) : Chk (BitVec 3) := decKind scl selP f
def decPD (scl : Bool) (f : BitVec 11) : Chk (BitVec 3) := decKindD scl selP6 f

/-- The predicate of a `.p` or `.try` form. -/
def decPO (scl p : Bool) (f : BitVec 11) : Chk (Option (BitVec 3)) :=
  if p then (Chk.ok some).ap (decPD scl f) else (Chk.ok none).also (absD f)

/-- The value of `st`: a source specifier in [10:1], and [0] zero (R222). -/
def decStv (scl : Bool) (f : BitVec 11) : Chk Spec :=
  match Spec.dec (f.extractLsb' 1 10) with
  | none => .bad (badDst f)
  | some s => (Chk.ofFate (Permit.srcFate scl Permit.gen s) s).need .fieldReserved (!f.getLsbD 0)

def decK32 (a b c : BitVec 12) : Chk Word :=
  (Chk.ok ((a ++ b ++ c : BitVec 36).extractLsb' 0 32)).need .fieldReserved (a.extractLsb' 8 4 == 0#4)
def decK12 (a b c : BitVec 12) : Chk (BitVec 12) := (Chk.ok c).need .fieldReserved (a == 0#12 && b == 0#12)
def decK16 (a b c : BitVec 12) : Chk (BitVec 16) :=
  (Chk.ok ((b ++ c : BitVec 24).extractLsb' 0 16)).need .fieldReserved (a == 0#12 && b.extractLsb' 4 8 == 0#8)
def decOff (a b c : BitVec 12) : Chk (BitVec 36) := .ok (a ++ b ++ c)
def decI12 (b c : BitVec 12) : Chk (BitVec 12) := (Chk.ok c).need .fieldReserved (b == 0#12)

def decLdhSrc (scl reg : Bool) (a b c : BitVec 12) : Chk LdhSrc :=
  if reg then (((Chk.ok LdhSrc.quad).ap (decSrc scl Permit.quad a)).also (absS b)).also (absS c)
  else (((Chk.ok LdhSrc.mem).ap (decH scl a)).ap (decSrc scl Permit.idx b)).ap (decSrc scl Permit.idx c)
def decPostSrc (scl reg : Bool) (a : BitVec 12) : Chk PostSrc :=
  if reg then (Chk.ok PostSrc.reg).ap (decSrc scl Permit.v a) else (Chk.ok PostSrc.mem).ap (decH scl a)

def HalfSrc.ofBits (b : BitVec 8) : HalfSrc := ⟨b.getLsbD 7, b.extractLsb' 0 7⟩
def Half.ofBits (h : BitVec 28) : Half :=
  ⟨h.extractLsb' 23 5, h.extractLsb' 16 7, .ofBits (h.extractLsb' 8 8), .ofBits (h.extractLsb' 0 8)⟩

/-! ## Each opcode's entry -/

/-- R149. -/
def decIadd (scl : Bool) (w : Fields) : Chk Instr :=
  let i := w.mod.getLsbD 4
  let sat := w.mod.getLsbD 3
  match IFmt.dec (w.mod.extractLsb' 0 2) with
  | none => .bad .modReserved
  | some f =>
    Chk.ok (Instr.iadd f sat)
      |>.ap (decGuard scl w.g)
      |>.ap (decDst scl true Permit.gdst w.d)
      |>.ap (decSrc scl Permit.gen w.s1)
      |>.ap (decSrcI scl i false w.s2 w.s3)
      |>.need .modReserved ((!i || f.wide) && w.mod.extractLsb' 2 1 == 0#1)

/-- R149. -/
def decIsub (scl : Bool) (w : Fields) : Chk Instr :=
  let i := w.mod.getLsbD 4
  let sat := w.mod.getLsbD 3
  match IFmt.dec (w.mod.extractLsb' 0 2) with
  | none => .bad .modReserved
  | some f =>
    Chk.ok (Instr.isub f sat)
      |>.ap (decGuard scl w.g)
      |>.ap (decDst scl true Permit.gdst w.d)
      |>.ap (decSrc scl Permit.gen w.s1)
      |>.ap (decSrcI scl i false w.s2 w.s3)
      |>.need .modReserved ((!i || f.wide) && w.mod.extractLsb' 2 1 == 0#1)

/-- R149. -/
def decImul (scl : Bool) (w : Fields) : Chk Instr :=
  let i := w.mod.getLsbD 4
  let sat := w.mod.getLsbD 3
  match IFmt.dec (w.mod.extractLsb' 0 2) with
  | none => .bad .modReserved
  | some f =>
    Chk.ok (Instr.imul f sat)
      |>.ap (decGuard scl w.g)
      |>.ap (decDst scl true Permit.gdst w.d)
      |>.ap (decSrc scl Permit.gen w.s1)
      |>.ap (decSrcI scl i false w.s2 w.s3)
      |>.need .modReserved ((!i || f.wide) && w.mod.extractLsb' 2 1 == 0#1)

/-- R149. -/
def decImad (scl : Bool) (w : Fields) : Chk Instr :=
  let sat := w.mod.getLsbD 3
  match IFmt.dec (w.mod.extractLsb' 0 2) with
  | none => .bad .modReserved
  | some f =>
    Chk.ok (Instr.imad f sat)
      |>.ap (decGuard scl w.g)
      |>.ap (decDst scl true Permit.gdst w.d)
      |>.ap (decSrc scl Permit.gen w.s1)
      |>.ap (decSrc scl Permit.gen w.s2)
      |>.ap (decSrc scl Permit.gen w.s3)
      |>.need .modReserved (w.mod.extractLsb' 4 1 == 0#1 && w.mod.extractLsb' 2 1 == 0#1)

/-- R149. -/
def decImulhi (scl : Bool) (w : Fields) : Chk Instr :=
  match IFmt.dec (w.mod.extractLsb' 0 2) with
  | none => .bad .modReserved
  | some f =>
    Chk.ok (Instr.imulhi f)
      |>.ap (decGuard scl w.g)
      |>.ap (decDst scl true Permit.gdst w.d)
      |>.ap (decSrc scl Permit.gen w.s1)
      |>.ap (decSrc scl Permit.gen w.s2)
      |>.also (absS w.s3)
      |>.need .modReserved (w.mod.extractLsb' 4 1 == 0#1 && w.mod.extractLsb' 3 1 == 0#1 && w.mod.extractLsb' 2 1 == 0#1)

/-- R149. -/
def decImin (scl : Bool) (w : Fields) : Chk Instr :=
  let i := w.mod.getLsbD 4
  match IFmt.dec (w.mod.extractLsb' 0 2) with
  | none => .bad .modReserved
  | some f =>
    Chk.ok (Instr.imin f)
      |>.ap (decGuard scl w.g)
      |>.ap (decDst scl true Permit.gdst w.d)
      |>.ap (decSrc scl Permit.gen w.s1)
      |>.ap (decSrcI scl i false w.s2 w.s3)
      |>.need .modReserved ((!i || f.wide) && w.mod.extractLsb' 3 1 == 0#1 && w.mod.extractLsb' 2 1 == 0#1)

/-- R149. -/
def decImax (scl : Bool) (w : Fields) : Chk Instr :=
  let i := w.mod.getLsbD 4
  match IFmt.dec (w.mod.extractLsb' 0 2) with
  | none => .bad .modReserved
  | some f =>
    Chk.ok (Instr.imax f)
      |>.ap (decGuard scl w.g)
      |>.ap (decDst scl true Permit.gdst w.d)
      |>.ap (decSrc scl Permit.gen w.s1)
      |>.ap (decSrcI scl i false w.s2 w.s3)
      |>.need .modReserved ((!i || f.wide) && w.mod.extractLsb' 3 1 == 0#1 && w.mod.extractLsb' 2 1 == 0#1)

/-- R149. -/
def decIabs (scl : Bool) (w : Fields) : Chk Instr :=
  let sat := w.mod.getLsbD 3
  match IFmt.dec (w.mod.extractLsb' 0 2) with
  | none => .bad .modReserved
  | some f =>
    Chk.ok (Instr.iabs f sat)
      |>.ap (decGuard scl w.g)
      |>.ap (decDst scl true Permit.gdst w.d)
      |>.ap (decSrc scl Permit.gen w.s1)
      |>.also (absS w.s2)
      |>.also (absS w.s3)
      |>.need .modReserved (f.signed && w.mod.extractLsb' 4 1 == 0#1 && w.mod.extractLsb' 2 1 == 0#1)

/-- R149. -/
def decIneg (scl : Bool) (w : Fields) : Chk Instr :=
  let sat := w.mod.getLsbD 3
  match IFmt.dec (w.mod.extractLsb' 0 2) with
  | none => .bad .modReserved
  | some f =>
    Chk.ok (Instr.ineg f sat)
      |>.ap (decGuard scl w.g)
      |>.ap (decDst scl true Permit.gdst w.d)
      |>.ap (decSrc scl Permit.gen w.s1)
      |>.also (absS w.s2)
      |>.also (absS w.s3)
      |>.need .modReserved (f.signed && w.mod.extractLsb' 4 1 == 0#1 && w.mod.extractLsb' 2 1 == 0#1)

/-- R150. -/
def decAnd (scl : Bool) (w : Fields) : Chk Instr :=
  let i := w.mod.getLsbD 4
  Chk.ok Instr.and
    |>.ap (decGuard scl w.g)
    |>.ap (decDst scl true Permit.gdst w.d)
    |>.ap (decSrc scl Permit.gen w.s1)
    |>.ap (decSrcI scl i false w.s2 w.s3)
    |>.need .modReserved (w.mod.extractLsb' 3 1 == 0#1 && w.mod.extractLsb' 2 1 == 0#1 && w.mod.extractLsb' 1 1 == 0#1 && w.mod.extractLsb' 0 1 == 0#1)

/-- R150. -/
def decOr (scl : Bool) (w : Fields) : Chk Instr :=
  let i := w.mod.getLsbD 4
  Chk.ok Instr.or
    |>.ap (decGuard scl w.g)
    |>.ap (decDst scl true Permit.gdst w.d)
    |>.ap (decSrc scl Permit.gen w.s1)
    |>.ap (decSrcI scl i false w.s2 w.s3)
    |>.need .modReserved (w.mod.extractLsb' 3 1 == 0#1 && w.mod.extractLsb' 2 1 == 0#1 && w.mod.extractLsb' 1 1 == 0#1 && w.mod.extractLsb' 0 1 == 0#1)

/-- R150. -/
def decXor (scl : Bool) (w : Fields) : Chk Instr :=
  let i := w.mod.getLsbD 4
  Chk.ok Instr.xor
    |>.ap (decGuard scl w.g)
    |>.ap (decDst scl true Permit.gdst w.d)
    |>.ap (decSrc scl Permit.gen w.s1)
    |>.ap (decSrcI scl i false w.s2 w.s3)
    |>.need .modReserved (w.mod.extractLsb' 3 1 == 0#1 && w.mod.extractLsb' 2 1 == 0#1 && w.mod.extractLsb' 1 1 == 0#1 && w.mod.extractLsb' 0 1 == 0#1)

/-- R150. -/
def decAndn (scl : Bool) (w : Fields) : Chk Instr :=
  let i := w.mod.getLsbD 4
  Chk.ok Instr.andn
    |>.ap (decGuard scl w.g)
    |>.ap (decDst scl true Permit.gdst w.d)
    |>.ap (decSrc scl Permit.gen w.s1)
    |>.ap (decSrcI scl i false w.s2 w.s3)
    |>.need .modReserved (w.mod.extractLsb' 3 1 == 0#1 && w.mod.extractLsb' 2 1 == 0#1 && w.mod.extractLsb' 1 1 == 0#1 && w.mod.extractLsb' 0 1 == 0#1)

/-- R150. -/
def decShl (scl : Bool) (w : Fields) : Chk Instr :=
  let i := w.mod.getLsbD 4
  Chk.ok Instr.shl
    |>.ap (decGuard scl w.g)
    |>.ap (decDst scl true Permit.gdst w.d)
    |>.ap (decSrc scl Permit.gen w.s1)
    |>.ap (decSrcI scl i true w.s2 w.s3)
    |>.need .modReserved (w.mod.extractLsb' 3 1 == 0#1 && w.mod.extractLsb' 2 1 == 0#1 && w.mod.extractLsb' 1 1 == 0#1 && w.mod.extractLsb' 0 1 == 0#1)

/-- R150. -/
def decShr (scl : Bool) (w : Fields) : Chk Instr :=
  let i := w.mod.getLsbD 4
  Chk.ok Instr.shr
    |>.ap (decGuard scl w.g)
    |>.ap (decDst scl true Permit.gdst w.d)
    |>.ap (decSrc scl Permit.gen w.s1)
    |>.ap (decSrcI scl i true w.s2 w.s3)
    |>.need .modReserved (w.mod.extractLsb' 3 1 == 0#1 && w.mod.extractLsb' 2 1 == 0#1 && w.mod.extractLsb' 1 1 == 0#1 && w.mod.extractLsb' 0 1 == 0#1)

/-- R150. -/
def decSar (scl : Bool) (w : Fields) : Chk Instr :=
  let i := w.mod.getLsbD 4
  Chk.ok Instr.sar
    |>.ap (decGuard scl w.g)
    |>.ap (decDst scl true Permit.gdst w.d)
    |>.ap (decSrc scl Permit.gen w.s1)
    |>.ap (decSrcI scl i true w.s2 w.s3)
    |>.need .modReserved (w.mod.extractLsb' 3 1 == 0#1 && w.mod.extractLsb' 2 1 == 0#1 && w.mod.extractLsb' 1 1 == 0#1 && w.mod.extractLsb' 0 1 == 0#1)

/-- R150. -/
def decRot (scl : Bool) (w : Fields) : Chk Instr :=
  let i := w.mod.getLsbD 4
  Chk.ok Instr.rot
    |>.ap (decGuard scl w.g)
    |>.ap (decDst scl true Permit.gdst w.d)
    |>.ap (decSrc scl Permit.gen w.s1)
    |>.ap (decSrcI scl i true w.s2 w.s3)
    |>.need .modReserved (w.mod.extractLsb' 3 1 == 0#1 && w.mod.extractLsb' 2 1 == 0#1 && w.mod.extractLsb' 1 1 == 0#1 && w.mod.extractLsb' 0 1 == 0#1)

/-- R151. -/
def decPopc (scl : Bool) (w : Fields) : Chk Instr :=
  Chk.ok Instr.popc
    |>.ap (decGuard scl w.g)
    |>.ap (decDst scl true Permit.gdst w.d)
    |>.ap (decSrc scl Permit.gen w.s1)
    |>.also (absS w.s2)
    |>.also (absS w.s3)
    |>.need .modReserved (w.mod.extractLsb' 4 1 == 0#1 && w.mod.extractLsb' 3 1 == 0#1 && w.mod.extractLsb' 2 1 == 0#1 && w.mod.extractLsb' 1 1 == 0#1 && w.mod.extractLsb' 0 1 == 0#1)

/-- R151. -/
def decClz (scl : Bool) (w : Fields) : Chk Instr :=
  Chk.ok Instr.clz
    |>.ap (decGuard scl w.g)
    |>.ap (decDst scl true Permit.gdst w.d)
    |>.ap (decSrc scl Permit.gen w.s1)
    |>.also (absS w.s2)
    |>.also (absS w.s3)
    |>.need .modReserved (w.mod.extractLsb' 4 1 == 0#1 && w.mod.extractLsb' 3 1 == 0#1 && w.mod.extractLsb' 2 1 == 0#1 && w.mod.extractLsb' 1 1 == 0#1 && w.mod.extractLsb' 0 1 == 0#1)

/-- R151. -/
def decBrev (scl : Bool) (w : Fields) : Chk Instr :=
  Chk.ok Instr.brev
    |>.ap (decGuard scl w.g)
    |>.ap (decDst scl true Permit.gdst w.d)
    |>.ap (decSrc scl Permit.gen w.s1)
    |>.also (absS w.s2)
    |>.also (absS w.s3)
    |>.need .modReserved (w.mod.extractLsb' 4 1 == 0#1 && w.mod.extractLsb' 3 1 == 0#1 && w.mod.extractLsb' 2 1 == 0#1 && w.mod.extractLsb' 1 1 == 0#1 && w.mod.extractLsb' 0 1 == 0#1)

/-- R152. -/
def decBfx (scl : Bool) (w : Fields) : Chk Instr :=
  let sg := w.mod.getLsbD 0
  Chk.ok (Instr.bfx sg)
    |>.ap (decGuard scl w.g)
    |>.ap (decDst scl true Permit.gdst w.d)
    |>.ap (decSrc scl Permit.gen w.s1)
    |>.ap (decSrc scl Permit.gen w.s2)
    |>.ap (decSrc scl Permit.gen w.s3)
    |>.need .modReserved (w.mod.extractLsb' 4 1 == 0#1 && w.mod.extractLsb' 3 1 == 0#1 && w.mod.extractLsb' 2 1 == 0#1 && w.mod.extractLsb' 1 1 == 0#1)

/-- R152. -/
def decBfi (scl : Bool) (w : Fields) : Chk Instr :=
  Chk.ok Instr.bfi
    |>.ap (decGuard scl w.g)
    |>.ap (decDst scl true Permit.gdst w.d)
    |>.ap (decSrc scl Permit.gen w.s1)
    |>.ap (decSrc scl Permit.gen w.s2)
    |>.ap (decSrc scl Permit.gen w.s3)
    |>.need .modReserved (w.mod.extractLsb' 4 1 == 0#1 && w.mod.extractLsb' 3 1 == 0#1 && w.mod.extractLsb' 2 1 == 0#1 && w.mod.extractLsb' 1 1 == 0#1 && w.mod.extractLsb' 0 1 == 0#1)

/-- R153. -/
def decIcmp (scl : Bool) (w : Fields) : Chk Instr :=
  let i := w.mod.getLsbD 4
  let uns := w.mod.getLsbD 0
  match ICmp.dec (w.mod.extractLsb' 1 3) with
  | none => .bad .modReserved
  | some cc =>
    Chk.ok (Instr.icmp cc uns)
      |>.ap (decGuard scl w.g)
      |>.ap (decDst scl true Permit.cmp w.d)
      |>.ap (decSrc scl Permit.gen w.s1)
      |>.ap (decSrcI scl i false w.s2 w.s3)

/-- R154. -/
def decSel (scl : Bool) (w : Fields) : Chk Instr :=
  Chk.ok Instr.sel
    |>.ap (decGuard scl w.g)
    |>.ap (decDst scl true Permit.gdst w.d)
    |>.ap (decSrc scl Permit.gen w.s1)
    |>.ap (decSrc scl Permit.gen w.s2)
    |>.ap (decSrc scl (Permit.selector scl) w.s3)
    |>.need .modReserved (w.mod.extractLsb' 4 1 == 0#1 && w.mod.extractLsb' 3 1 == 0#1 && w.mod.extractLsb' 2 1 == 0#1 && w.mod.extractLsb' 1 1 == 0#1 && w.mod.extractLsb' 0 1 == 0#1)

/-- R155. -/
def decMov (scl : Bool) (w : Fields) : Chk Instr :=
  Chk.ok Instr.mov
    |>.ap (decGuard scl w.g)
    |>.ap (decDst scl true Permit.gdst w.d)
    |>.ap (decSrc scl Permit.gen w.s1)
    |>.also (absS w.s2)
    |>.also (absS w.s3)
    |>.need .modReserved (w.mod.extractLsb' 4 1 == 0#1 && w.mod.extractLsb' 3 1 == 0#1 && w.mod.extractLsb' 2 1 == 0#1 && w.mod.extractLsb' 1 1 == 0#1 && w.mod.extractLsb' 0 1 == 0#1)

/-- R156. -/
def decMovk (scl : Bool) (w : Fields) : Chk Instr :=
  let f : Fmt := (w.mod.extractLsb' 0 5).setWidth 5
  Chk.ok (Instr.movk f)
    |>.ap (decGuard scl w.g)
    |>.ap (decDst scl true Permit.gdst w.d)
    |>.ap (decK32 w.s1 w.s2 w.s3)
    |>.need .modReserved (fmtOk f)

/-- R157. -/
def decLea (scl : Bool) (w : Fields) : Chk Instr :=
  let i := w.mod.getLsbD 4
  let x64 := w.mod.getLsbD 3
  let sh := w.mod.extractLsb' 0 3
  Chk.ok (Instr.lea sh x64)
    |>.ap (decGuard scl w.g)
    |>.ap (decDst scl true (Permit.leaD x64) w.d)
    |>.ap (decSrc scl (Permit.leaS x64) w.s1)
    |>.ap (decSrcI scl i false w.s2 w.s3)

/-- R158. -/
def decDp4 (scl : Bool) (w : Fields) : Chk Instr :=
  let sat := w.mod.getLsbD 2
  let ub := w.mod.getLsbD 1
  let ua := w.mod.getLsbD 0
  Chk.ok (Instr.dp4 ua ub sat)
    |>.ap (decGuard scl w.g)
    |>.ap (decDst scl true Permit.gdst w.d)
    |>.ap (decSrc scl Permit.gen w.s1)
    |>.ap (decSrc scl Permit.gen w.s2)
    |>.ap (decSrc scl Permit.gen w.s3)
    |>.need .modReserved (w.mod.extractLsb' 4 1 == 0#1 && w.mod.extractLsb' 3 1 == 0#1)

/-- R158. -/
def decDp8 (scl : Bool) (w : Fields) : Chk Instr :=
  let sat := w.mod.getLsbD 2
  let ub := w.mod.getLsbD 1
  let ua := w.mod.getLsbD 0
  Chk.ok (Instr.dp8 ua ub sat)
    |>.ap (decGuard scl w.g)
    |>.ap (decDst scl true Permit.gdst w.d)
    |>.ap (decSrc scl Permit.gen w.s1)
    |>.ap (decSrc scl Permit.gen w.s2)
    |>.ap (decSrc scl Permit.gen w.s3)
    |>.need .modReserved (w.mod.extractLsb' 4 1 == 0#1 && w.mod.extractLsb' 3 1 == 0#1)

/-- R159. -/
def decPlop (scl : Bool) (w : Fields) : Chk Instr :=
  match PlopOp.dec (w.mod.extractLsb' 0 3) with
  | none => .bad .modReserved
  | some op =>
    Chk.ok (Instr.plop op)
      |>.ap (decGuard scl w.g)
      |>.ap (decPD scl w.d)
      |>.ap (decP scl w.s1)
      |>.ap (decP scl w.s2)
      |>.also (absS w.s3)
      |>.need .modReserved (w.mod.extractLsb' 4 1 == 0#1 && w.mod.extractLsb' 3 1 == 0#1)

/-- R160. -/
def decPmov (scl : Bool) (w : Fields) : Chk Instr :=
  match PmovKind.dec (w.mod.extractLsb' 0 2) with
  | none => .bad .modReserved
  | some k =>
    Chk.ok (Instr.pmov k)
      |>.ap (decGuard scl w.g)
      |>.ap (decDst scl true (Permit.pmovD k) w.d)
      |>.ap (decSrc scl (Permit.pmovS k) w.s1)
      |>.also (absS w.s2)
      |>.also (absS w.s3)
      |>.need .modReserved (w.mod.extractLsb' 4 1 == 0#1 && w.mod.extractLsb' 3 1 == 0#1 && w.mod.extractLsb' 2 1 == 0#1)

/-- R161. -/
def decFadd (scl : Bool) (w : Fields) : Chk Instr :=
  let f16 := w.mod.getLsbD 4
  let ftz := w.mod.getLsbD 3
  match Rnd.dec (w.mod.extractLsb' 0 3) with
  | none => .bad .modReserved
  | some r =>
    Chk.ok (Instr.fadd f16 ftz r)
      |>.ap (decGuard scl w.g)
      |>.ap (decDst scl true Permit.gdst w.d)
      |>.ap (decSrc scl Permit.gen w.s1)
      |>.ap (decSrc scl Permit.gen w.s2)
      |>.ap (decSrcO scl (r == .rs) Permit.gen w.s3)
      |>.need .modReserved (!(r == .rs && f16))

/-- R161. -/
def decFsub (scl : Bool) (w : Fields) : Chk Instr :=
  let f16 := w.mod.getLsbD 4
  let ftz := w.mod.getLsbD 3
  match Rnd.dec (w.mod.extractLsb' 0 3) with
  | none => .bad .modReserved
  | some r =>
    Chk.ok (Instr.fsub f16 ftz r)
      |>.ap (decGuard scl w.g)
      |>.ap (decDst scl true Permit.gdst w.d)
      |>.ap (decSrc scl Permit.gen w.s1)
      |>.ap (decSrc scl Permit.gen w.s2)
      |>.ap (decSrcO scl (r == .rs) Permit.gen w.s3)
      |>.need .modReserved (!(r == .rs && f16))

/-- R161. -/
def decFmul (scl : Bool) (w : Fields) : Chk Instr :=
  let f16 := w.mod.getLsbD 4
  let ftz := w.mod.getLsbD 3
  match Rnd.dec (w.mod.extractLsb' 0 3) with
  | none => .bad .modReserved
  | some r =>
    Chk.ok (Instr.fmul f16 ftz r)
      |>.ap (decGuard scl w.g)
      |>.ap (decDst scl true Permit.gdst w.d)
      |>.ap (decSrc scl Permit.gen w.s1)
      |>.ap (decSrc scl Permit.gen w.s2)
      |>.ap (decSrcO scl (r == .rs) Permit.gen w.s3)
      |>.need .modReserved (!(r == .rs && f16))

/-- R161. -/
def decFfma (scl : Bool) (w : Fields) : Chk Instr :=
  let f16 := w.mod.getLsbD 4
  let ftz := w.mod.getLsbD 3
  match Rnd.dec (w.mod.extractLsb' 0 3) with
  | none => .bad .modReserved
  | some r =>
    Chk.ok (Instr.ffma f16 ftz r)
      |>.ap (decGuard scl w.g)
      |>.ap (decDst scl true Permit.gdst w.d)
      |>.ap (decSrc scl Permit.gen w.s1)
      |>.ap (decSrc scl Permit.gen w.s2)
      |>.ap (decSrc scl Permit.gen w.s3)
      |>.need .modReserved (r != .rs)

/-- R161. -/
def decFmin (scl : Bool) (w : Fields) : Chk Instr :=
  let f16 := w.mod.getLsbD 4
  let ftz := w.mod.getLsbD 3
  let prop := w.mod.getLsbD 0
  Chk.ok (Instr.fmin f16 ftz prop)
    |>.ap (decGuard scl w.g)
    |>.ap (decDst scl true Permit.gdst w.d)
    |>.ap (decSrc scl Permit.gen w.s1)
    |>.ap (decSrc scl Permit.gen w.s2)
    |>.also (absS w.s3)
    |>.need .modReserved (w.mod.extractLsb' 2 1 == 0#1 && w.mod.extractLsb' 1 1 == 0#1)

/-- R161. -/
def decFmax (scl : Bool) (w : Fields) : Chk Instr :=
  let f16 := w.mod.getLsbD 4
  let ftz := w.mod.getLsbD 3
  let prop := w.mod.getLsbD 0
  Chk.ok (Instr.fmax f16 ftz prop)
    |>.ap (decGuard scl w.g)
    |>.ap (decDst scl true Permit.gdst w.d)
    |>.ap (decSrc scl Permit.gen w.s1)
    |>.ap (decSrc scl Permit.gen w.s2)
    |>.also (absS w.s3)
    |>.need .modReserved (w.mod.extractLsb' 2 1 == 0#1 && w.mod.extractLsb' 1 1 == 0#1)

/-- R163. -/
def decFcmp (scl : Bool) (w : Fields) : Chk Instr :=
  let ftz := w.mod.getLsbD 3
  match FCmp.dec (w.mod.extractLsb' 0 3) with
  | none => .bad .modReserved
  | some cc =>
    Chk.ok (Instr.fcmp cc ftz)
      |>.ap (decGuard scl w.g)
      |>.ap (decDst scl true Permit.cmp w.d)
      |>.ap (decSrc scl Permit.gen w.s1)
      |>.ap (decSrc scl Permit.gen w.s2)
      |>.also (absS w.s3)
      |>.need .modReserved (w.mod.extractLsb' 4 1 == 0#1)

/-- R164. -/
def decFclass (scl : Bool) (w : Fields) : Chk Instr :=
  let e1 := w.mod.getLsbD 2
  match SrcFmt.dec (w.mod.extractLsb' 0 2) with
  | none => .bad .modReserved
  | some sf =>
    Chk.ok (Instr.fclass sf e1)
      |>.ap (decGuard scl w.g)
      |>.ap (decDst scl true Permit.gdst w.d)
      |>.ap (decSrc scl Permit.gen w.s1)
      |>.also (absS w.s2)
      |>.also (absS w.s3)
      |>.need .modReserved (!(sf == .f32 && e1) && w.mod.extractLsb' 4 1 == 0#1 && w.mod.extractLsb' 3 1 == 0#1)

/-- R161. -/
def decFrcp (scl : Bool) (w : Fields) : Chk Instr :=
  let f16 := w.mod.getLsbD 4
  let ftz := w.mod.getLsbD 3
  match Rnd.dec (w.mod.extractLsb' 0 3) with
  | none => .bad .modReserved
  | some r =>
    Chk.ok (Instr.frcp f16 ftz r)
      |>.ap (decGuard scl w.g)
      |>.ap (decDst scl true Permit.gdst w.d)
      |>.ap (decSrc scl Permit.gen w.s1)
      |>.also (absS w.s2)
      |>.also (absS w.s3)
      |>.need .modReserved (r != .rs)

/-- R161. -/
def decFrsq (scl : Bool) (w : Fields) : Chk Instr :=
  let f16 := w.mod.getLsbD 4
  let ftz := w.mod.getLsbD 3
  match Rnd.dec (w.mod.extractLsb' 0 3) with
  | none => .bad .modReserved
  | some r =>
    Chk.ok (Instr.frsq f16 ftz r)
      |>.ap (decGuard scl w.g)
      |>.ap (decDst scl true Permit.gdst w.d)
      |>.ap (decSrc scl Permit.gen w.s1)
      |>.also (absS w.s2)
      |>.also (absS w.s3)
      |>.need .modReserved (r != .rs)

/-- R161. -/
def decFsqrt (scl : Bool) (w : Fields) : Chk Instr :=
  let f16 := w.mod.getLsbD 4
  let ftz := w.mod.getLsbD 3
  match Rnd.dec (w.mod.extractLsb' 0 3) with
  | none => .bad .modReserved
  | some r =>
    Chk.ok (Instr.fsqrt f16 ftz r)
      |>.ap (decGuard scl w.g)
      |>.ap (decDst scl true Permit.gdst w.d)
      |>.ap (decSrc scl Permit.gen w.s1)
      |>.also (absS w.s2)
      |>.also (absS w.s3)
      |>.need .modReserved (r != .rs)

/-- R161. -/
def decFex2 (scl : Bool) (w : Fields) : Chk Instr :=
  let f16 := w.mod.getLsbD 4
  let ftz := w.mod.getLsbD 3
  match Rnd.dec (w.mod.extractLsb' 0 3) with
  | none => .bad .modReserved
  | some r =>
    Chk.ok (Instr.fex2 f16 ftz r)
      |>.ap (decGuard scl w.g)
      |>.ap (decDst scl true Permit.gdst w.d)
      |>.ap (decSrc scl Permit.gen w.s1)
      |>.also (absS w.s2)
      |>.also (absS w.s3)
      |>.need .modReserved (r != .rs)

/-- R161. -/
def decFlg2 (scl : Bool) (w : Fields) : Chk Instr :=
  let f16 := w.mod.getLsbD 4
  let ftz := w.mod.getLsbD 3
  match Rnd.dec (w.mod.extractLsb' 0 3) with
  | none => .bad .modReserved
  | some r =>
    Chk.ok (Instr.flg2 f16 ftz r)
      |>.ap (decGuard scl w.g)
      |>.ap (decDst scl true Permit.gdst w.d)
      |>.ap (decSrc scl Permit.gen w.s1)
      |>.also (absS w.s2)
      |>.also (absS w.s3)
      |>.need .modReserved (r != .rs)

/-- R161. -/
def decFsin (scl : Bool) (w : Fields) : Chk Instr :=
  let f16 := w.mod.getLsbD 4
  let ftz := w.mod.getLsbD 3
  match Rnd.dec (w.mod.extractLsb' 0 3) with
  | none => .bad .modReserved
  | some r =>
    Chk.ok (Instr.fsin f16 ftz r)
      |>.ap (decGuard scl w.g)
      |>.ap (decDst scl true Permit.gdst w.d)
      |>.ap (decSrc scl Permit.gen w.s1)
      |>.also (absS w.s2)
      |>.also (absS w.s3)
      |>.need .modReserved (r != .rs)

/-- R161. -/
def decFcos (scl : Bool) (w : Fields) : Chk Instr :=
  let f16 := w.mod.getLsbD 4
  let ftz := w.mod.getLsbD 3
  match Rnd.dec (w.mod.extractLsb' 0 3) with
  | none => .bad .modReserved
  | some r =>
    Chk.ok (Instr.fcos f16 ftz r)
      |>.ap (decGuard scl w.g)
      |>.ap (decDst scl true Permit.gdst w.d)
      |>.ap (decSrc scl Permit.gen w.s1)
      |>.also (absS w.s2)
      |>.also (absS w.s3)
      |>.need .modReserved (r != .rs)

/-- R161. -/
def decFtanh (scl : Bool) (w : Fields) : Chk Instr :=
  let f16 := w.mod.getLsbD 4
  let ftz := w.mod.getLsbD 3
  match Rnd.dec (w.mod.extractLsb' 0 3) with
  | none => .bad .modReserved
  | some r =>
    Chk.ok (Instr.ftanh f16 ftz r)
      |>.ap (decGuard scl w.g)
      |>.ap (decDst scl true Permit.gdst w.d)
      |>.ap (decSrc scl Permit.gen w.s1)
      |>.also (absS w.s2)
      |>.also (absS w.s3)
      |>.need .modReserved (r != .rs)

/-- R161. -/
def decFrnd (scl : Bool) (w : Fields) : Chk Instr :=
  let f16 := w.mod.getLsbD 4
  let ftz := w.mod.getLsbD 3
  match Rnd.dec (w.mod.extractLsb' 0 3) with
  | none => .bad .modReserved
  | some r =>
    Chk.ok (Instr.frnd f16 ftz r)
      |>.ap (decGuard scl w.g)
      |>.ap (decDst scl true Permit.gdst w.d)
      |>.ap (decSrc scl Permit.gen w.s1)
      |>.also (absS w.s2)
      |>.also (absS w.s3)
      |>.need .modReserved (r != .rs)

/-- R166: ELEM and RND stand in S2, a class 7 field. -/
def decCvt (scl : Bool) (w : Fields) : Chk Instr :=
  let f : Fmt := w.mod
  let elem := w.s2.extractLsb' 5 3
  let fieldOk := w.s2.extractLsb' 8 4 == 0xE#4 && w.s2.extractLsb' 0 2 == 0#2
  match (if w.s2.extractLsb' 9 3 == 7#3 then Rnd.dec (w.s2.extractLsb' 2 3) else some .rne) with
  | none => .bad .modReserved
  | some r =>
    Chk.ok (Instr.cvt f elem r)
      |>.ap (decGuard scl w.g)
      |>.ap (decDst scl true Permit.gdst w.d)
      |>.ap (decSrc scl Permit.gen w.s1)
      |>.ap (decSrcO scl (r == .rs) Permit.gen w.s3)
      |>.need .fieldReserved (fieldOk && (!logFmt f || r == .rne))
      |>.need .modReserved (fmtOk f && f != 0)

/-- R167. -/
def decQnt (scl : Bool) (w : Fields) : Chk Instr :=
  let rs := w.mod.getLsbD 4
  let f : Fmt := (w.mod.extractLsb' 0 4).setWidth 5
  Chk.ok (Instr.qnt f rs)
    |>.ap (decGuard scl w.g)
    |>.ap (decDst scl true Permit.gdst w.d)
    |>.ap (decSrc scl Permit.gen w.s1)
    |>.ap (decSrc scl Permit.gen w.s2)
    |>.ap (decSrc scl Permit.gen w.s3)
    |>.need .modReserved (quantFmt f && !(rs && logFmt f) && fmtOk f)

/-- R168. -/
def decDqt (scl : Bool) (w : Fields) : Chk Instr :=
  let f : Fmt := (w.mod.extractLsb' 0 4).setWidth 5
  Chk.ok (Instr.dqt f)
    |>.ap (decGuard scl w.g)
    |>.ap (decDst scl true Permit.gdst w.d)
    |>.ap (decSrc scl Permit.c05 w.s1)
    |>.ap (decSrc scl Permit.gen w.s2)
    |>.ap (decSrc scl Permit.gen w.s3)
    |>.need .modReserved (quantFmt f && fmtOk f && w.mod.extractLsb' 4 1 == 0#1)

/-- R169. -/
def decPack (scl : Bool) (w : Fields) : Chk Instr :=
  Chk.ok Instr.pack
    |>.ap (decGuard scl w.g)
    |>.ap (decDst scl true Permit.gdst w.d)
    |>.ap (decSrc scl Permit.gen w.s1)
    |>.ap (decSrc scl Permit.gen w.s2)
    |>.ap (decSrc scl Permit.gen w.s3)
    |>.need .modReserved (w.mod.extractLsb' 4 1 == 0#1 && w.mod.extractLsb' 3 1 == 0#1 && w.mod.extractLsb' 2 1 == 0#1 && w.mod.extractLsb' 1 1 == 0#1 && w.mod.extractLsb' 0 1 == 0#1)

/-- R169. -/
def decUnpk (scl : Bool) (w : Fields) : Chk Instr :=
  let wide := w.mod.getLsbD 0
  Chk.ok (Instr.unpk wide)
    |>.ap (decGuard scl w.g)
    |>.ap (decDst scl true Permit.gdst w.d)
    |>.ap (decSrc scl Permit.gen w.s1)
    |>.ap (decSrc scl Permit.gen w.s2)
    |>.also (absS w.s3)
    |>.need .modReserved (w.mod.extractLsb' 4 1 == 0#1 && w.mod.extractLsb' 3 1 == 0#1 && w.mod.extractLsb' 2 1 == 0#1 && w.mod.extractLsb' 1 1 == 0#1)

/-- R170. -/
def decTagr (scl : Bool) (w : Fields) : Chk Instr :=
  Chk.ok Instr.tagr
    |>.ap (decGuard scl w.g)
    |>.ap (decDst scl true Permit.gdst w.d)
    |>.ap (decSrc scl Permit.tagr w.s1)
    |>.also (absS w.s2)
    |>.also (absS w.s3)
    |>.need .modReserved (w.mod.extractLsb' 4 1 == 0#1 && w.mod.extractLsb' 3 1 == 0#1 && w.mod.extractLsb' 2 1 == 0#1 && w.mod.extractLsb' 1 1 == 0#1 && w.mod.extractLsb' 0 1 == 0#1)

/-- R170. -/
def decTagw (scl : Bool) (w : Fields) : Chk Instr :=
  match TagwFmt.dec w.mod with
  | none => .bad .modReserved
  | some f =>
    Chk.ok (Instr.tagw f)
      |>.ap (decGuard scl w.g)
      |>.ap (decDst scl true Permit.gdst w.d)
      |>.ap (decSrc scl Permit.gen w.s1)
      |>.ap (decSrcO scl (f.isReg) Permit.gen w.s2)
      |>.also (absS w.s3)

/-- R172. -/
def decShfl (scl : Bool) (w : Fields) : Chk Instr :=
  match Seg.dec (w.mod.extractLsb' 2 3) with
  | none => .bad .modReserved
  | some seg =>
    match ShflMode.dec (w.mod.extractLsb' 0 2) with
    | none => .bad .modReserved
    | some mode =>
      Chk.ok (Instr.shfl mode seg)
        |>.ap (decGuard scl w.g)
        |>.ap (decDst scl false Permit.v w.d)
        |>.ap (decSrc scl Permit.gen w.s1)
        |>.ap (decSrcO scl (mode != .rev) Permit.gen w.s2)
        |>.ap (decSrc scl Permit.gen w.s3)

/-- R173. -/
def decVote (scl : Bool) (w : Fields) : Chk Instr :=
  match Seg.dec (w.mod.extractLsb' 2 3) with
  | none => .bad .modReserved
  | some seg =>
    match VoteMode.dec (w.mod.extractLsb' 0 2) with
    | none => .bad .modReserved
    | some mode =>
      Chk.ok (Instr.vote mode seg)
        |>.ap (decGuard scl w.g)
        |>.ap (decDst scl false (Permit.voteD mode) w.d)
        |>.ap (decSrc scl Permit.predOrReg w.s1)
        |>.also (absS w.s2)
        |>.also (absS w.s3)

/-- R173. -/
def decBallot (scl : Bool) (w : Fields) : Chk Instr :=
  let q := w.mod.extractLsb' 0 2
  Chk.ok (Instr.ballot q)
    |>.ap (decGuard scl w.g)
    |>.ap (decDst scl false Permit.vdst w.d)
    |>.ap (decSrc scl Permit.predOrReg w.s1)
    |>.also (absS w.s2)
    |>.also (absS w.s3)
    |>.need .modReserved (w.mod.extractLsb' 4 1 == 0#1 && w.mod.extractLsb' 3 1 == 0#1 && w.mod.extractLsb' 2 1 == 0#1)

/-- R174. -/
def decLred (scl : Bool) (w : Fields) : Chk Instr :=
  match RedFmt.dec (w.mod.extractLsb' 3 2) with
  | none => .bad .modReserved
  | some f =>
    match RedOp.dec (w.mod.extractLsb' 0 3) with
    | none => .bad .modReserved
    | some op =>
      Chk.ok (Instr.lred op f)
        |>.ap (decGuard scl w.g)
        |>.ap (decDst scl false Permit.v w.d)
        |>.ap (decSrc scl Permit.gen w.s1)
        |>.also (absS w.s2)
        |>.also (absS w.s3)
        |>.need .modReserved (redOk op f)

/-- R175. -/
def decScan (scl : Bool) (w : Fields) : Chk Instr :=
  match RedFmt.dec (w.mod.extractLsb' 3 2) with
  | none => .bad .modReserved
  | some f =>
    match ScanOp.dec (w.mod.extractLsb' 0 3) with
    | none => .bad .modReserved
    | some op =>
      Chk.ok (Instr.scan op f)
        |>.ap (decGuard scl w.g)
        |>.ap (decDst scl false Permit.vdst w.d)
        |>.ap (decSrc scl Permit.gen w.s1)
        |>.also (absS w.s2)
        |>.also (absS w.s3)
        |>.need .modReserved (scanOk op f)

/-- R173. -/
def decMatchq (scl : Bool) (w : Fields) : Chk Instr :=
  let q := w.mod.extractLsb' 0 2
  Chk.ok (Instr.matchq q)
    |>.ap (decGuard scl w.g)
    |>.ap (decDst scl false Permit.vdst w.d)
    |>.ap (decSrc scl Permit.gen w.s1)
    |>.also (absS w.s2)
    |>.also (absS w.s3)
    |>.need .modReserved (w.mod.extractLsb' 4 1 == 0#1 && w.mod.extractLsb' 3 1 == 0#1 && w.mod.extractLsb' 2 1 == 0#1)

/-- R176. -/
def decElect (scl : Bool) (w : Fields) : Chk Instr :=
  let hi := w.mod.getLsbD 0
  match Seg.dec (w.mod.extractLsb' 1 3) with
  | none => .bad .modReserved
  | some seg =>
    Chk.ok (Instr.elect hi seg)
      |>.ap (decGuard scl w.g)
      |>.ap (decDst scl false Permit.vp w.d)
      |>.also (absS w.s1)
      |>.also (absS w.s2)
      |>.also (absS w.s3)
      |>.need .modReserved (w.mod.extractLsb' 4 1 == 0#1)

/-- R135. -/
def decSup (scl : Bool) (w : Fields) : Chk Instr :=
  let f : Fmt := (w.mod.extractLsb' 0 5).setWidth 5
  Chk.ok (Instr.sup f)
    |>.ap (decGuard scl w.g)
    |>.ap (decDst scl false Permit.scope w.d)
    |>.ap (decSrc scl Permit.gen w.s1)
    |>.also (absS w.s2)
    |>.also (absS w.s3)
    |>.need .modReserved (fmtOk f)

/-- R136. -/
def decSred (scl : Bool) (w : Fields) : Chk Instr :=
  match RedFmt.dec (w.mod.extractLsb' 3 2) with
  | none => .bad .modReserved
  | some f =>
    match RedOp.dec (w.mod.extractLsb' 0 3) with
    | none => .bad .modReserved
    | some op =>
      Chk.ok (Instr.sred op f)
        |>.ap (decGuard scl w.g)
        |>.ap (decDst scl false Permit.scope w.d)
        |>.ap (decSrc scl Permit.gen w.s1)
        |>.also (absS w.s2)
        |>.also (absS w.s3)
        |>.need .modReserved (redOk op f)

/-- R139. -/
def decRgive (scl : Bool) (w : Fields) : Chk Instr :=
  Chk.ok Instr.rgive
    |>.ap (decGuard scl w.g)
    |>.ap (decSrc scl Permit.c257 w.s1)
    |>.also (absD w.d)
    |>.also (absS w.s2)
    |>.also (absS w.s3)
    |>.need .modReserved (w.mod.extractLsb' 4 1 == 0#1 && w.mod.extractLsb' 3 1 == 0#1 && w.mod.extractLsb' 2 1 == 0#1 && w.mod.extractLsb' 1 1 == 0#1 && w.mod.extractLsb' 0 1 == 0#1)

/-- R139. -/
def decRclaim (scl : Bool) (w : Fields) : Chk Instr :=
  let p := w.mod.getLsbD 0
  Chk.ok Instr.rclaim
    |>.ap (decGuard scl w.g)
    |>.ap (decPO scl p w.d)
    |>.ap (decSrc scl Permit.c257 w.s1)
    |>.also (absS w.s2)
    |>.also (absS w.s3)
    |>.need .modReserved (w.mod.extractLsb' 4 1 == 0#1 && w.mod.extractLsb' 3 1 == 0#1 && w.mod.extractLsb' 2 1 == 0#1 && w.mod.extractLsb' 1 1 == 0#1)

/-- R140. -/
def decRpool (scl : Bool) (w : Fields) : Chk Instr :=
  let which := w.mod.extractLsb' 0 2
  Chk.ok (Instr.rpool which)
    |>.ap (decGuard scl w.g)
    |>.ap (decDst scl false Permit.v w.d)
    |>.also (absS w.s1)
    |>.also (absS w.s2)
    |>.also (absS w.s3)
    |>.need .modReserved (w.mod.extractLsb' 4 1 == 0#1 && w.mod.extractLsb' 3 1 == 0#1 && w.mod.extractLsb' 2 1 == 0#1)

/-- R221. -/
def decLdh (scl : Bool) (w : Fields) : Chk Instr :=
  let i := w.mod.getLsbD 0
  Chk.ok Instr.ldh
    |>.ap (decGuard scl w.g)
    |>.ap (decDst scl false Permit.hm w.d)
    |>.ap (decLdhSrc scl i w.s1 w.s2 w.s3)
    |>.need .modReserved (w.mod.extractLsb' 4 1 == 0#1 && w.mod.extractLsb' 3 1 == 0#1 && w.mod.extractLsb' 2 1 == 0#1 && w.mod.extractLsb' 1 1 == 0#1)

/-- R222. -/
def decLd (scl : Bool) (w : Fields) : Chk Instr :=
  let f : Fmt := (w.mod.extractLsb' 0 4).setWidth 5
  Chk.ok (Instr.ld f)
    |>.ap (decGuard scl w.g)
    |>.ap (decDst scl false Permit.vz w.d)
    |>.ap (decH scl w.s1)
    |>.ap (decSrc scl Permit.idx w.s2)
    |>.ap (decSrc scl Permit.idx w.s3)
    |>.need .modReserved (ldFmt f && fmtOk f && w.mod.extractLsb' 4 1 == 0#1)

/-- R222. -/
def decSt (scl : Bool) (w : Fields) : Chk Instr :=
  let f : Fmt := (w.mod.extractLsb' 0 4).setWidth 5
  Chk.ok (Instr.st f)
    |>.ap (decGuard scl w.g)
    |>.ap (decStv scl w.d)
    |>.ap (decH scl w.s1)
    |>.ap (decSrc scl Permit.idx w.s2)
    |>.ap (decSrc scl Permit.idx w.s3)
    |>.need .modReserved (ldFmt f && fmtOk f && w.mod.extractLsb' 4 1 == 0#1)

/-- R223. -/
def decAtom (scl : Bool) (w : Fields) : Chk Instr :=
  let sys := w.mod.getLsbD 4
  match AtomOp.dec (w.mod.extractLsb' 0 4) with
  | none => .bad .modReserved
  | some op =>
    Chk.ok (Instr.atom op sys)
      |>.ap (decGuard scl w.g)
      |>.ap (decDst scl false Permit.vz w.d)
      |>.ap (decH scl w.s1)
      |>.ap (decSrc scl Permit.idx w.s2)
      |>.ap (decSrc scl (Permit.atomV op) w.s3)

/-- R223. -/
def decRed (scl : Bool) (w : Fields) : Chk Instr :=
  let sys := w.mod.getLsbD 4
  match AtomOp.dec (w.mod.extractLsb' 0 4) with
  | none => .bad .modReserved
  | some op =>
    Chk.ok (Instr.red op sys)
      |>.ap (decGuard scl w.g)
      |>.ap (decH scl w.s1)
      |>.ap (decSrc scl Permit.idx w.s2)
      |>.ap (decSrc scl Permit.gen w.s3)
      |>.also (absD w.d)
      |>.need .modReserved (op != .cas && op != .xchg)

/-- R224. -/
def decFence (scl : Bool) (w : Fields) : Chk Instr :=
  let sc := w.mod.extractLsb' 0 2
  Chk.ok (Instr.fence sc)
    |>.ap (decGuard scl w.g)
    |>.also (absD w.d)
    |>.also (absS w.s1)
    |>.also (absS w.s2)
    |>.also (absS w.s3)
    |>.need .modReserved (w.mod.extractLsb' 4 1 == 0#1 && w.mod.extractLsb' 3 1 == 0#1 && w.mod.extractLsb' 2 1 == 0#1)

/-- R225. -/
def decPfh (scl : Bool) (w : Fields) : Chk Instr :=
  let l2 := w.mod.getLsbD 0
  Chk.ok (Instr.pfh l2)
    |>.ap (decGuard scl w.g)
    |>.ap (decH scl w.s1)
    |>.ap (decSrc scl Permit.idx w.s2)
    |>.ap (decSrc scl Permit.idx w.s3)
    |>.also (absD w.d)
    |>.need .modReserved (w.mod.extractLsb' 4 1 == 0#1 && w.mod.extractLsb' 3 1 == 0#1 && w.mod.extractLsb' 2 1 == 0#1 && w.mod.extractLsb' 1 1 == 0#1)

/-- R225. -/
def decRes (scl : Bool) (w : Fields) : Chk Instr :=
  let kind := w.mod.extractLsb' 0 2
  Chk.ok (Instr.res kind)
    |>.ap (decGuard scl w.g)
    |>.ap (decH scl w.s1)
    |>.ap (decSrc scl Permit.idx w.s2)
    |>.ap (decSrc scl Permit.idx w.s3)
    |>.also (absD w.d)
    |>.need .modReserved (kind != 3 && w.mod.extractLsb' 4 1 == 0#1 && w.mod.extractLsb' 3 1 == 0#1 && w.mod.extractLsb' 2 1 == 0#1)

/-- R226. -/
def decCpy (scl : Bool) (w : Fields) : Chk Instr :=
  Chk.ok Instr.cpy
    |>.ap (decGuard scl w.g)
    |>.ap (decH scl w.s1)
    |>.ap (decH scl w.s2)
    |>.ap (decSrc scl Permit.quad w.s3)
    |>.also (absD w.d)
    |>.need .modReserved (w.mod.extractLsb' 4 1 == 0#1 && w.mod.extractLsb' 3 1 == 0#1 && w.mod.extractLsb' 2 1 == 0#1 && w.mod.extractLsb' 1 1 == 0#1 && w.mod.extractLsb' 0 1 == 0#1)

/-- R226. -/
def decCpyr (scl : Bool) (w : Fields) : Chk Instr :=
  match RelFmt.dec (w.mod.extractLsb' 3 2) with
  | none => .bad .modReserved
  | some rf =>
    match CpyOp.dec (w.mod.extractLsb' 0 3) with
    | none => .bad .modReserved
    | some op =>
      Chk.ok (Instr.cpyr op rf)
        |>.ap (decGuard scl w.g)
        |>.ap (decH scl w.s1)
        |>.ap (decH scl w.s2)
        |>.ap (decSrc scl Permit.quad w.s3)
        |>.also (absD w.d)
        |>.need .modReserved (cpyrOk op rf)

/-- R227. -/
def decWaitt (scl : Bool) (w : Fields) : Chk Instr :=
  let p := w.mod.getLsbD 1
  let hi := w.mod.getLsbD 0
  Chk.ok (Instr.waitt hi)
    |>.ap (decGuard scl w.g)
    |>.ap (decPO scl p w.d)
    |>.ap (decSrc scl Permit.gen w.s1)
    |>.also (absS w.s2)
    |>.also (absS w.s3)
    |>.need .modReserved (w.mod.extractLsb' 4 1 == 0#1 && w.mod.extractLsb' 3 1 == 0#1 && w.mod.extractLsb' 2 1 == 0#1)

/-- R227. -/
def decWaita (scl : Bool) (w : Fields) : Chk Instr :=
  let p := w.mod.getLsbD 1
  let hi := w.mod.getLsbD 0
  Chk.ok (Instr.waita hi)
    |>.ap (decGuard scl w.g)
    |>.ap (decPO scl p w.d)
    |>.ap (decSrc scl Permit.gen w.s1)
    |>.also (absS w.s2)
    |>.also (absS w.s3)
    |>.need .modReserved (w.mod.extractLsb' 4 1 == 0#1 && w.mod.extractLsb' 3 1 == 0#1 && w.mod.extractLsb' 2 1 == 0#1)

/-- R227. -/
def decTfind (scl : Bool) (w : Fields) : Chk Instr :=
  let kind := w.mod.extractLsb' 1 2
  let hi := w.mod.getLsbD 0
  Chk.ok (Instr.tfind kind hi)
    |>.ap (decGuard scl w.g)
    |>.ap (decDst scl false Permit.v w.d)
    |>.ap (decSrc scl Permit.gen w.s1)
    |>.also (absS w.s2)
    |>.also (absS w.s3)
    |>.need .modReserved (kind != 3 && w.mod.extractLsb' 4 1 == 0#1 && w.mod.extractLsb' 3 1 == 0#1)

/-- R228. -/
def decSmap (scl : Bool) (w : Fields) : Chk Instr :=
  let n := w.mod.extractLsb' 0 3
  Chk.ok (Instr.smap n)
    |>.ap (decGuard scl w.g)
    |>.ap (decSrc scl Permit.evenReg w.s1)
    |>.ap (decH scl w.s2)
    |>.ap (decSrc scl Permit.idx w.s3)
    |>.also (absD w.d)
    |>.need .modReserved (w.mod.extractLsb' 4 1 == 0#1 && w.mod.extractLsb' 3 1 == 0#1)

/-- R228. -/
def decSmapOff (scl : Bool) (w : Fields) : Chk Instr :=
  let n := w.mod.extractLsb' 0 3
  Chk.ok (Instr.smapOff n)
    |>.ap (decGuard scl w.g)
    |>.also (absD w.d)
    |>.also (absS w.s1)
    |>.also (absS w.s2)
    |>.also (absS w.s3)
    |>.need .modReserved (w.mod.extractLsb' 4 1 == 0#1 && w.mod.extractLsb' 3 1 == 1#1)

/-- R228. -/
def decSflush (scl : Bool) (w : Fields) : Chk Instr :=
  let n := w.mod.extractLsb' 0 3
  Chk.ok (Instr.sflush n)
    |>.ap (decGuard scl w.g)
    |>.ap (decSrc scl Permit.idx w.s1)
    |>.also (absD w.d)
    |>.also (absS w.s2)
    |>.also (absS w.s3)
    |>.need .modReserved (w.mod.extractLsb' 4 1 == 0#1 && w.mod.extractLsb' 3 1 == 0#1)

/-- R228. -/
def decSinv (scl : Bool) (w : Fields) : Chk Instr :=
  let n := w.mod.extractLsb' 0 3
  Chk.ok (Instr.sinv n)
    |>.ap (decGuard scl w.g)
    |>.also (absD w.d)
    |>.also (absS w.s1)
    |>.also (absS w.s2)
    |>.also (absS w.s3)
    |>.need .modReserved (w.mod.extractLsb' 4 1 == 0#1 && w.mod.extractLsb' 3 1 == 0#1)

/-- R352. -/
def decSend (scl : Bool) (w : Fields) : Chk Instr :=
  Chk.ok Instr.send
    |>.ap (decGuard scl w.g)
    |>.ap (decH scl w.s1)
    |>.ap (decSrc scl Permit.quad w.s2)
    |>.also (absD w.d)
    |>.also (absS w.s3)
    |>.need .modReserved (w.mod.extractLsb' 4 1 == 0#1 && w.mod.extractLsb' 3 1 == 0#1 && w.mod.extractLsb' 2 1 == 0#1 && w.mod.extractLsb' 1 1 == 0#1 && w.mod.extractLsb' 0 1 == 0#1)

/-- R352. -/
def decRecv (scl : Bool) (w : Fields) : Chk Instr :=
  Chk.ok Instr.recv
    |>.ap (decGuard scl w.g)
    |>.ap (decH scl w.s1)
    |>.ap (decSrc scl Permit.quad w.s2)
    |>.also (absD w.d)
    |>.also (absS w.s3)
    |>.need .modReserved (w.mod.extractLsb' 4 1 == 0#1 && w.mod.extractLsb' 3 1 == 0#1 && w.mod.extractLsb' 2 1 == 0#1 && w.mod.extractLsb' 1 1 == 0#1 && w.mod.extractLsb' 0 1 == 0#1)

/-- R353. -/
def decRelay (scl : Bool) (w : Fields) : Chk Instr :=
  Chk.ok Instr.relay
    |>.ap (decGuard scl w.g)
    |>.ap (decDst scl false Permit.vz w.d)
    |>.ap (decH scl w.s1)
    |>.ap (decSrc scl Permit.c057 w.s2)
    |>.ap (decSrc scl Permit.quad w.s3)
    |>.need .modReserved (w.mod.extractLsb' 4 1 == 0#1 && w.mod.extractLsb' 3 1 == 0#1 && w.mod.extractLsb' 2 1 == 0#1 && w.mod.extractLsb' 1 1 == 0#1 && w.mod.extractLsb' 0 1 == 0#1)

/-- R354. -/
def decRlwait (scl : Bool) (w : Fields) : Chk Instr :=
  let p := w.mod.getLsbD 0
  Chk.ok Instr.rlwait
    |>.ap (decGuard scl w.g)
    |>.ap (decPO scl p w.d)
    |>.ap (decSrc scl Permit.c05 w.s1)
    |>.also (absS w.s2)
    |>.also (absS w.s3)
    |>.need .modReserved (w.mod.extractLsb' 4 1 == 0#1 && w.mod.extractLsb' 3 1 == 0#1 && w.mod.extractLsb' 2 1 == 0#1 && w.mod.extractLsb' 1 1 == 0#1)

/-- R198. -/
def decLload (scl : Bool) (w : Fields) : Chk Instr :=
  Chk.ok Instr.lload
    |>.ap (decGuard scl w.g)
    |>.ap (decLD scl w.d)
    |>.ap (decH scl w.s1)
    |>.ap (decSrc scl Permit.c057 w.s2)
    |>.ap (decSrc scl Permit.pair w.s3)
    |>.need .modReserved (w.mod.extractLsb' 4 1 == 0#1 && w.mod.extractLsb' 3 1 == 0#1 && w.mod.extractLsb' 2 1 == 0#1 && w.mod.extractLsb' 1 1 == 0#1 && w.mod.extractLsb' 0 1 == 0#1)

/-- R199. -/
def decMfence (scl : Bool) (w : Fields) : Chk Instr :=
  Chk.ok Instr.mfence
    |>.ap (decGuard scl w.g)
    |>.also (absD w.d)
    |>.also (absS w.s1)
    |>.also (absS w.s2)
    |>.also (absS w.s3)
    |>.need .modReserved (w.mod.extractLsb' 4 1 == 0#1 && w.mod.extractLsb' 3 1 == 0#1 && w.mod.extractLsb' 2 1 == 0#1 && w.mod.extractLsb' 1 1 == 0#1 && w.mod.extractLsb' 0 1 == 0#1)

/-- R187. -/
def decMma (scl : Bool) (w : Fields) : Chk Instr :=
  Chk.ok Instr.mma
    |>.ap (decGuard scl w.g)
    |>.ap (decSrc scl Permit.c057 w.s1)
    |>.also (absD w.d)
    |>.also (absS w.s2)
    |>.also (absS w.s3)
    |>.need .modReserved (w.mod.extractLsb' 4 1 == 0#1 && w.mod.extractLsb' 3 1 == 0#1 && w.mod.extractLsb' 2 1 == 0#1 && w.mod.extractLsb' 1 1 == 0#1 && w.mod.extractLsb' 0 1 == 0#1)

/-- R199. -/
def decMwait (scl : Bool) (w : Fields) : Chk Instr :=
  let prev := w.mod.getLsbD 0
  Chk.ok (Instr.mwait prev)
    |>.ap (decGuard scl w.g)
    |>.ap (decSrc scl Permit.acc w.s1)
    |>.also (absD w.d)
    |>.also (absS w.s2)
    |>.also (absS w.s3)
    |>.need .modReserved (w.mod.extractLsb' 4 1 == 0#1 && w.mod.extractLsb' 3 1 == 0#1 && w.mod.extractLsb' 2 1 == 0#1 && w.mod.extractLsb' 1 1 == 0#1)

/-- R200. -/
def decAzero (scl : Bool) (w : Fields) : Chk Instr :=
  let new := w.mod.getLsbD 4
  let n := w.mod.extractLsb' 0 4
  Chk.ok (Instr.azero n new)
    |>.ap (decGuard scl w.g)
    |>.ap (decAD scl w.d)
    |>.also (absS w.s1)
    |>.also (absS w.s2)
    |>.also (absS w.s3)

/-- R201. -/
def decAmov (scl : Bool) (w : Fields) : Chk Instr :=
  let prev := w.mod.getLsbD 3
  let comp := w.mod.extractLsb' 0 3
  Chk.ok (Instr.amov comp prev)
    |>.ap (decGuard scl w.g)
    |>.ap (decDst scl false Permit.v w.d)
    |>.ap (decSrc scl Permit.acc w.s1)
    |>.ap (decSrc scl Permit.c057 w.s2)
    |>.also (absS w.s3)
    |>.need .modReserved (w.mod.extractLsb' 4 1 == 0#1)

/-- R200. -/
def decAst (scl : Bool) (w : Fields) : Chk Instr :=
  let prev := w.mod.getLsbD 2
  match Rnd.dec ((w.mod.extractLsb' 0 2).setWidth 3) with
  | none => .bad .modReserved
  | some r =>
    Chk.ok (Instr.ast r prev)
      |>.ap (decGuard scl w.g)
      |>.ap (decMD scl w.d)
      |>.ap (decSrc scl Permit.acc w.s1)
      |>.ap (decSrc scl Permit.c057 w.s2)
      |>.also (absS w.s3)
      |>.need .modReserved (w.mod.extractLsb' 4 1 == 0#1 && w.mod.extractLsb' 3 1 == 0#1)

/-- R200. -/
def decAld (scl : Bool) (w : Fields) : Chk Instr :=
  let new := w.mod.getLsbD 0
  Chk.ok (Instr.ald new)
    |>.ap (decGuard scl w.g)
    |>.ap (decAD scl w.d)
    |>.ap (decM scl w.s1)
    |>.ap (decSrc scl Permit.c057 w.s2)
    |>.also (absS w.s3)
    |>.need .modReserved (w.mod.extractLsb' 4 1 == 0#1 && w.mod.extractLsb' 3 1 == 0#1 && w.mod.extractLsb' 2 1 == 0#1 && w.mod.extractLsb' 1 1 == 0#1)

/-- R201. -/
def decArel (scl : Bool) (w : Fields) : Chk Instr :=
  let prev := w.mod.getLsbD 0
  Chk.ok (Instr.arel prev)
    |>.ap (decGuard scl w.g)
    |>.ap (decSrc scl Permit.acc w.s1)
    |>.also (absD w.d)
    |>.also (absS w.s2)
    |>.also (absS w.s3)
    |>.need .modReserved (w.mod.extractLsb' 4 1 == 0#1 && w.mod.extractLsb' 3 1 == 0#1 && w.mod.extractLsb' 2 1 == 0#1 && w.mod.extractLsb' 1 1 == 0#1)

/-- R202. -/
def decAlg (scl : Bool) (w : Fields) : Chk Instr :=
  let n := w.mod.extractLsb' 0 4
  Chk.ok (Instr.alg n)
    |>.ap (decGuard scl w.g)
    |>.ap (decSrc scl Permit.c057 w.s1)
    |>.also (absD w.d)
    |>.also (absS w.s2)
    |>.also (absS w.s3)
    |>.need .modReserved (w.mod.extractLsb' 4 1 == 0#1)

/-- R203. -/
def decConj (scl : Bool) (w : Fields) : Chk Instr :=
  let n := w.mod.extractLsb' 0 4
  Chk.ok (Instr.conj n)
    |>.ap (decGuard scl w.g)
    |>.ap (decDst scl false (Permit.algGroup n) w.d)
    |>.ap (decSrc scl (Permit.algGroup2 n) w.s1)
    |>.also (absS w.s2)
    |>.also (absS w.s3)
    |>.need .modReserved (w.mod.extractLsb' 4 1 == 0#1)

/-- R203. -/
def decNorm (scl : Bool) (w : Fields) : Chk Instr :=
  let n := w.mod.extractLsb' 0 4
  Chk.ok (Instr.norm n)
    |>.ap (decGuard scl w.g)
    |>.ap (decDst scl false Permit.v w.d)
    |>.ap (decSrc scl (Permit.algGroup2 n) w.s1)
    |>.also (absS w.s2)
    |>.also (absS w.s3)
    |>.need .modReserved (w.mod.extractLsb' 4 1 == 0#1)

/-- R203. -/
def decAmul (scl : Bool) (w : Fields) : Chk Instr :=
  let rev := w.mod.getLsbD 4
  let n := w.mod.extractLsb' 0 4
  Chk.ok (Instr.amul n rev)
    |>.ap (decGuard scl w.g)
    |>.ap (decDst scl false (Permit.algGroup n) w.d)
    |>.ap (decSrc scl (Permit.algGroup2 n) w.s1)
    |>.ap (decSrc scl (Permit.algGroup2 n) w.s2)
    |>.also (absS w.s3)

/-- R315. -/
def decBarB (scl : Bool) (w : Fields) : Chk Instr :=
  let idem := w.mod.getLsbD 2
  Chk.ok (Instr.barB idem)
    |>.ap (decGuard scl w.g)
    |>.ap (decSrc scl Permit.c257 w.s1)
    |>.ap (decSrc scl (Permit.orAbsent Permit.c257) w.s2)
    |>.also (absD w.d)
    |>.also (absS w.s3)
    |>.need .modReserved (w.mod.extractLsb' 4 1 == 0#1 && w.mod.extractLsb' 3 1 == 0#1 && w.mod.extractLsb' 0 2 == 0#2)

/-- R313. -/
def decBarC (scl : Bool) (w : Fields) : Chk Instr :=
  Chk.ok Instr.barC
    |>.ap (decGuard scl w.g)
    |>.also (absD w.d)
    |>.also (absS w.s1)
    |>.also (absS w.s2)
    |>.also (absS w.s3)
    |>.need .modReserved (w.mod.extractLsb' 4 1 == 0#1 && w.mod.extractLsb' 3 1 == 0#1 && w.mod.extractLsb' 2 1 == 0#1 && w.mod.extractLsb' 0 2 == 1#2)

/-- R313. -/
def decBarG (scl : Bool) (w : Fields) : Chk Instr :=
  Chk.ok Instr.barG
    |>.ap (decGuard scl w.g)
    |>.also (absD w.d)
    |>.also (absS w.s1)
    |>.also (absS w.s2)
    |>.also (absS w.s3)
    |>.need .modReserved (w.mod.extractLsb' 4 1 == 0#1 && w.mod.extractLsb' 3 1 == 0#1 && w.mod.extractLsb' 2 1 == 0#1 && w.mod.extractLsb' 0 2 == 2#2)

/-- R318. -/
def decCarrive (scl : Bool) (w : Fields) : Chk Instr :=
  Chk.ok Instr.carrive
    |>.ap (decGuard scl w.g)
    |>.ap (decSrc scl Permit.c057 w.s1)
    |>.ap (decSrc scl (Permit.orAbsent Permit.c057) w.s2)
    |>.also (absD w.d)
    |>.also (absS w.s3)
    |>.need .modReserved (w.mod.extractLsb' 4 1 == 0#1 && w.mod.extractLsb' 3 1 == 0#1 && w.mod.extractLsb' 2 1 == 0#1 && w.mod.extractLsb' 1 1 == 0#1 && w.mod.extractLsb' 0 1 == 0#1)

/-- R318. -/
def decCwait (scl : Bool) (w : Fields) : Chk Instr :=
  Chk.ok Instr.cwait
    |>.ap (decGuard scl w.g)
    |>.ap (decSrc scl Permit.c057 w.s1)
    |>.ap (decSrc scl Permit.c057 w.s2)
    |>.also (absD w.d)
    |>.also (absS w.s3)
    |>.need .modReserved (w.mod.extractLsb' 4 1 == 0#1 && w.mod.extractLsb' 3 1 == 0#1 && w.mod.extractLsb' 2 1 == 0#1 && w.mod.extractLsb' 1 1 == 0#1 && w.mod.extractLsb' 0 1 == 0#1)

/-- R320. -/
def decRpush (scl : Bool) (w : Fields) : Chk Instr :=
  Chk.ok Instr.rpush
    |>.ap (decGuard scl w.g)
    |>.ap (decSrc scl Permit.imm w.s1)
    |>.ap (decSrc scl Permit.gen w.s2)
    |>.also (absD w.d)
    |>.also (absS w.s3)
    |>.need .modReserved (w.mod.extractLsb' 4 1 == 0#1 && w.mod.extractLsb' 3 1 == 0#1 && w.mod.extractLsb' 2 1 == 0#1 && w.mod.extractLsb' 1 1 == 0#1 && w.mod.extractLsb' 0 1 == 0#1)

/-- R320. -/
def decRpop (scl : Bool) (w : Fields) : Chk Instr :=
  match RingWant.dec (w.mod.extractLsb' 0 2) with
  | none => .bad .modReserved
  | some want =>
    Chk.ok (Instr.rpop want)
      |>.ap (decGuard scl w.g)
      |>.ap (decDst scl false Permit.vz w.d)
      |>.ap (decSrc scl Permit.imm w.s1)
      |>.also (absS w.s2)
      |>.also (absS w.s3)
      |>.need .modReserved (w.mod.extractLsb' 4 1 == 0#1 && w.mod.extractLsb' 3 1 == 0#1 && w.mod.extractLsb' 2 1 == 0#1)

/-- R277. -/
def decEnq (scl : Bool) (w : Fields) : Chk Instr :=
  Chk.ok Instr.enq
    |>.ap (decGuard scl w.g)
    |>.ap (decH scl w.s1)
    |>.ap (decSrc scl Permit.idx w.s2)
    |>.also (absD w.d)
    |>.also (absS w.s3)
    |>.need .modReserved (w.mod.extractLsb' 0 5 == 0#5)

/-- R277. -/
def decEnqAt (scl : Bool) (w : Fields) : Chk Instr :=
  Chk.ok Instr.enqAt
    |>.ap (decGuard scl w.g)
    |>.ap (decH scl w.s1)
    |>.ap (decSrc scl Permit.idx w.s2)
    |>.also (absD w.d)
    |>.also (absS w.s3)
    |>.need .modReserved (w.mod.extractLsb' 0 5 == 1#5)

/-- R277. -/
def decEnqRetry (scl : Bool) (w : Fields) : Chk Instr :=
  Chk.ok Instr.enqRetry
    |>.ap (decGuard scl w.g)
    |>.ap (decSrc scl Permit.c057 w.s1)
    |>.ap (decSrc scl Permit.c05 w.s2)
    |>.also (absD w.d)
    |>.also (absS w.s3)
    |>.need .modReserved (w.mod.extractLsb' 0 5 == 2#5)

/-- R277. -/
def decEnqCancel (scl : Bool) (w : Fields) : Chk Instr :=
  Chk.ok Instr.enqCancel
    |>.ap (decGuard scl w.g)
    |>.ap (decSrc scl Permit.c057 w.s1)
    |>.ap (decSrc scl Permit.c05 w.s2)
    |>.also (absD w.d)
    |>.also (absS w.s3)
    |>.need .modReserved (w.mod.extractLsb' 0 5 == 3#5)

/-- R278. -/
def decTdone (scl : Bool) (w : Fields) : Chk Instr :=
  Chk.ok Instr.tdone
    |>.ap (decGuard scl w.g)
    |>.also (absD w.d)
    |>.also (absS w.s1)
    |>.also (absS w.s2)
    |>.also (absS w.s3)
    |>.need .modReserved (w.mod.extractLsb' 4 1 == 0#1 && w.mod.extractLsb' 3 1 == 0#1 && w.mod.extractLsb' 2 1 == 0#1 && w.mod.extractLsb' 1 1 == 0#1 && w.mod.extractLsb' 0 1 == 0#1)

/-- R279. -/
def decQstat (scl : Bool) (w : Fields) : Chk Instr :=
  match QSel.dec (w.mod.extractLsb' 0 3) with
  | none => .bad .modReserved
  | some what =>
    Chk.ok (Instr.qstat what)
      |>.ap (decGuard scl w.g)
      |>.ap (decDst scl false Permit.v w.d)
      |>.ap (decSrc scl Permit.c057 w.s1)
      |>.ap (decSrcO scl (what.needsTask) Permit.c05 w.s2)
      |>.also (absS w.s3)
      |>.need .modReserved (w.mod.extractLsb' 4 1 == 0#1 && w.mod.extractLsb' 3 1 == 0#1)

/-- R367. -/
def decAsk (scl : Bool) (w : Fields) : Chk Instr :=
  Chk.ok Instr.ask
    |>.ap (decGuard scl w.g)
    |>.ap (decH scl w.s1)
    |>.ap (decSrc scl Permit.quad w.s2)
    |>.ap (decSrc scl Permit.evenReg w.s3)
    |>.also (absD w.d)
    |>.need .modReserved (w.mod.extractLsb' 4 1 == 0#1 && w.mod.extractLsb' 3 1 == 0#1 && w.mod.extractLsb' 2 1 == 0#1 && w.mod.extractLsb' 1 1 == 0#1 && w.mod.extractLsb' 0 1 == 0#1)

/-- R367. -/
def decAnnc (scl : Bool) (w : Fields) : Chk Instr :=
  Chk.ok Instr.annc
    |>.ap (decGuard scl w.g)
    |>.ap (decH scl w.s1)
    |>.ap (decSrc scl Permit.quad w.s2)
    |>.ap (decSrc scl Permit.evenReg w.s3)
    |>.also (absD w.d)
    |>.need .modReserved (w.mod.extractLsb' 4 1 == 0#1 && w.mod.extractLsb' 3 1 == 0#1 && w.mod.extractLsb' 2 1 == 0#1 && w.mod.extractLsb' 1 1 == 0#1 && w.mod.extractLsb' 0 1 == 0#1)

/-- R367. -/
def decWdrw (scl : Bool) (w : Fields) : Chk Instr :=
  Chk.ok Instr.wdrw
    |>.ap (decGuard scl w.g)
    |>.ap (decSrc scl Permit.quad w.s1)
    |>.ap (decSrc scl Permit.c057 w.s2)
    |>.also (absD w.d)
    |>.also (absS w.s3)
    |>.need .modReserved (w.mod.extractLsb' 4 1 == 0#1 && w.mod.extractLsb' 3 1 == 0#1 && w.mod.extractLsb' 2 1 == 0#1 && w.mod.extractLsb' 1 1 == 0#1 && w.mod.extractLsb' 0 1 == 0#1)

/-- R370. -/
def decNmk (scl : Bool) (w : Fields) : Chk Instr :=
  match NmkField.dec (w.mod.extractLsb' 0 3) with
  | none => .bad .modReserved
  | some fld =>
    Chk.ok (Instr.nmk fld)
      |>.ap (decGuard scl w.g)
      |>.ap (decDst scl false Permit.vquad w.d)
      |>.ap (decSrcO scl (fld != .clr) Permit.c057 w.s1)
      |>.also (absS w.s2)
      |>.also (absS w.s3)
      |>.need .modReserved (w.mod.extractLsb' 4 1 == 0#1 && w.mod.extractLsb' 3 1 == 0#1)

/-- R382. -/
def decPslot (scl : Bool) (w : Fields) : Chk Instr :=
  let p := w.mod.getLsbD 0
  Chk.ok Instr.pslot
    |>.ap (decGuard scl w.g)
    |>.ap (decPO scl p w.d)
    |>.ap (decH scl w.s1)
    |>.ap (decSrc scl Permit.idx w.s2)
    |>.ap (decSrc scl (Permit.orAbsent Permit.v) w.s3)
    |>.need .modReserved (w.mod.extractLsb' 4 1 == 0#1 && w.mod.extractLsb' 3 1 == 0#1 && w.mod.extractLsb' 2 1 == 0#1 && w.mod.extractLsb' 1 1 == 0#1)

/-- R383. -/
def decPpost (scl : Bool) (w : Fields) : Chk Instr :=
  let i := w.mod.getLsbD 0
  Chk.ok Instr.ppost
    |>.ap (decGuard scl w.g)
    |>.ap (decPostSrc scl i w.s1)
    |>.ap (decSrc scl Permit.quad w.s2)
    |>.ap (decSrc scl Permit.evenReg w.s3)
    |>.also (absD w.d)
    |>.need .modReserved (w.mod.extractLsb' 4 1 == 0#1 && w.mod.extractLsb' 3 1 == 0#1 && w.mod.extractLsb' 2 1 == 0#1 && w.mod.extractLsb' 1 1 == 0#1)

/-- R384. -/
def decPwait (scl : Bool) (w : Fields) : Chk Instr :=
  let n := w.mod.extractLsb' 0 2
  Chk.ok (Instr.pwait n)
    |>.ap (decGuard scl w.g)
    |>.ap (decDst scl false Permit.vz w.d)
    |>.ap (decSrc scl Permit.idx w.s1)
    |>.also (absS w.s2)
    |>.also (absS w.s3)
    |>.need .modReserved (w.mod.extractLsb' 4 1 == 0#1 && w.mod.extractLsb' 3 1 == 0#1 && w.mod.extractLsb' 2 1 == 0#1)

/-- R384. -/
def decPrel (scl : Bool) (w : Fields) : Chk Instr :=
  let n := w.mod.extractLsb' 0 2
  Chk.ok (Instr.prel n)
    |>.ap (decGuard scl w.g)
    |>.ap (decSrc scl Permit.idx w.s1)
    |>.also (absD w.d)
    |>.also (absS w.s2)
    |>.also (absS w.s3)
    |>.need .modReserved (w.mod.extractLsb' 4 1 == 0#1 && w.mod.extractLsb' 3 1 == 0#1 && w.mod.extractLsb' 2 1 == 0#1)

/-- R178. -/
def decBra (scl : Bool) (w : Fields) : Chk Instr :=
  Chk.ok Instr.bra
    |>.ap (decGuard scl w.g)
    |>.ap (decOff w.s1 w.s2 w.s3)
    |>.also (absD w.d)
    |>.need .modReserved (w.mod.extractLsb' 4 1 == 0#1 && w.mod.extractLsb' 3 1 == 0#1 && w.mod.extractLsb' 2 1 == 0#1 && w.mod.extractLsb' 1 1 == 0#1 && w.mod.extractLsb' 0 1 == 0#1)

/-- R178. -/
def decBrx (scl : Bool) (w : Fields) : Chk Instr :=
  let call := w.mod.getLsbD 0
  Chk.ok (Instr.brx call)
    |>.ap (decGuard scl w.g)
    |>.ap (decSrc scl (Permit.brx scl) w.s1)
    |>.also (absD w.d)
    |>.also (absS w.s2)
    |>.also (absS w.s3)
    |>.need .modReserved (w.mod.extractLsb' 4 1 == 0#1 && w.mod.extractLsb' 3 1 == 0#1 && w.mod.extractLsb' 2 1 == 0#1 && w.mod.extractLsb' 1 1 == 0#1)

/-- R178. -/
def decCall (scl : Bool) (w : Fields) : Chk Instr :=
  Chk.ok Instr.call
    |>.ap (decGuard scl w.g)
    |>.ap (decOff w.s1 w.s2 w.s3)
    |>.also (absD w.d)
    |>.need .modReserved (w.mod.extractLsb' 4 1 == 0#1 && w.mod.extractLsb' 3 1 == 0#1 && w.mod.extractLsb' 2 1 == 0#1 && w.mod.extractLsb' 1 1 == 0#1 && w.mod.extractLsb' 0 1 == 0#1)

/-- R178. -/
def decRet (scl : Bool) (w : Fields) : Chk Instr :=
  Chk.ok Instr.ret
    |>.ap (decGuard scl w.g)
    |>.also (absD w.d)
    |>.also (absS w.s1)
    |>.also (absS w.s2)
    |>.also (absS w.s3)
    |>.need .modReserved (w.mod.extractLsb' 4 1 == 0#1 && w.mod.extractLsb' 3 1 == 0#1 && w.mod.extractLsb' 2 1 == 0#1 && w.mod.extractLsb' 1 1 == 0#1 && w.mod.extractLsb' 0 1 == 0#1)

/-- R178. -/
def decExit (scl : Bool) (w : Fields) : Chk Instr :=
  Chk.ok Instr.exit
    |>.ap (decGuard scl w.g)
    |>.also (absD w.d)
    |>.also (absS w.s1)
    |>.also (absS w.s2)
    |>.also (absS w.s3)
    |>.need .modReserved (w.mod.extractLsb' 4 1 == 0#1 && w.mod.extractLsb' 3 1 == 0#1 && w.mod.extractLsb' 2 1 == 0#1 && w.mod.extractLsb' 1 1 == 0#1 && w.mod.extractLsb' 0 1 == 0#1)

/-- R321. -/
def decYield (scl : Bool) (w : Fields) : Chk Instr :=
  Chk.ok Instr.yield
    |>.ap (decGuard scl w.g)
    |>.also (absD w.d)
    |>.also (absS w.s1)
    |>.also (absS w.s2)
    |>.also (absS w.s3)
    |>.need .modReserved (w.mod.extractLsb' 4 1 == 0#1 && w.mod.extractLsb' 3 1 == 0#1 && w.mod.extractLsb' 2 1 == 0#1 && w.mod.extractLsb' 1 1 == 0#1 && w.mod.extractLsb' 0 1 == 0#1)

/-- R137. -/
def decJoin (scl : Bool) (w : Fields) : Chk Instr :=
  Chk.ok Instr.join
    |>.ap (decGuard scl w.g)
    |>.also (absD w.d)
    |>.also (absS w.s1)
    |>.also (absS w.s2)
    |>.also (absS w.s3)
    |>.need .modReserved (w.mod.extractLsb' 4 1 == 0#1 && w.mod.extractLsb' 3 1 == 0#1 && w.mod.extractLsb' 2 1 == 0#1 && w.mod.extractLsb' 1 1 == 0#1 && w.mod.extractLsb' 0 1 == 0#1)

/-- R415. -/
def decSysr (scl : Bool) (w : Fields) : Chk Instr :=
  Chk.ok Instr.sysr
    |>.ap (decGuard scl w.g)
    |>.ap (decDst scl false Permit.vz w.d)
    |>.ap (decK12 w.s1 w.s2 w.s3)
    |>.need .modReserved (w.mod.extractLsb' 4 1 == 0#1 && w.mod.extractLsb' 3 1 == 0#1 && w.mod.extractLsb' 2 1 == 0#1 && w.mod.extractLsb' 1 1 == 0#1 && w.mod.extractLsb' 0 1 == 0#1)

/-- R416. -/
def decSysw (scl : Bool) (w : Fields) : Chk Instr :=
  Chk.ok Instr.sysw
    |>.ap (decGuard scl w.g)
    |>.ap (decSrc scl Permit.sysw w.s1)
    |>.ap (decI12 w.s2 w.s3)
    |>.also (absD w.d)
    |>.need .modReserved (w.mod.extractLsb' 4 1 == 0#1 && w.mod.extractLsb' 3 1 == 0#1 && w.mod.extractLsb' 2 1 == 0#1 && w.mod.extractLsb' 1 1 == 0#1 && w.mod.extractLsb' 0 1 == 0#1)

/-- R417. -/
def decTrap (scl : Bool) (w : Fields) : Chk Instr :=
  Chk.ok Instr.trap
    |>.ap (decGuard scl w.g)
    |>.ap (decK16 w.s1 w.s2 w.s3)
    |>.also (absD w.d)
    |>.need .modReserved (w.mod.extractLsb' 4 1 == 0#1 && w.mod.extractLsb' 3 1 == 0#1 && w.mod.extractLsb' 2 1 == 0#1 && w.mod.extractLsb' 1 1 == 0#1 && w.mod.extractLsb' 0 1 == 0#1)

/-- R418. -/
def decTret (scl : Bool) (w : Fields) : Chk Instr :=
  let next := w.mod.getLsbD 0
  Chk.ok (Instr.tret next)
    |>.ap (decGuard scl w.g)
    |>.also (absD w.d)
    |>.also (absS w.s1)
    |>.also (absS w.s2)
    |>.also (absS w.s3)
    |>.need .modReserved (w.mod.extractLsb' 4 1 == 0#1 && w.mod.extractLsb' 3 1 == 0#1 && w.mod.extractLsb' 2 1 == 0#1 && w.mod.extractLsb' 1 1 == 0#1)

/-- R417. -/
def decBrk (scl : Bool) (w : Fields) : Chk Instr :=
  Chk.ok Instr.brk
    |>.ap (decGuard scl w.g)
    |>.ap (decK16 w.s1 w.s2 w.s3)
    |>.also (absD w.d)
    |>.need .modReserved (w.mod.extractLsb' 4 1 == 0#1 && w.mod.extractLsb' 3 1 == 0#1 && w.mod.extractLsb' 2 1 == 0#1 && w.mod.extractLsb' 1 1 == 0#1 && w.mod.extractLsb' 0 1 == 0#1)

/-- R419. -/
def decEvf (scl : Bool) (w : Fields) : Chk Instr :=
  Chk.ok Instr.evf
    |>.ap (decGuard scl w.g)
    |>.also (absD w.d)
    |>.also (absS w.s1)
    |>.also (absS w.s2)
    |>.also (absS w.s3)
    |>.need .modReserved (w.mod.extractLsb' 4 1 == 0#1 && w.mod.extractLsb' 3 1 == 0#1 && w.mod.extractLsb' 2 1 == 0#1 && w.mod.extractLsb' 1 1 == 0#1 && w.mod.extractLsb' 0 1 == 0#1)

/-- R420. -/
def decNop (scl : Bool) (w : Fields) : Chk Instr :=
  Chk.ok Instr.nop
    |>.ap (decGuard scl w.g)
    |>.also (absD w.d)
    |>.also (absS w.s1)
    |>.also (absS w.s2)
    |>.also (absS w.s3)
    |>.need .modReserved (w.mod.extractLsb' 4 1 == 0#1 && w.mod.extractLsb' 3 1 == 0#1 && w.mod.extractLsb' 2 1 == 0#1 && w.mod.extractLsb' 1 1 == 0#1 && w.mod.extractLsb' 0 1 == 0#1)

/-! ## The opcode map (R68) -/

/-- Row 0x0_ of the opcode map (R68). -/
def decRow0 (scl : Bool) (w : Fields) (lo : Nat) : Chk Instr :=
  match lo with
  | 0 => decIadd scl w
  | 1 => decIsub scl w
  | 2 => decImul scl w
  | 3 => decImad scl w
  | 4 => decImulhi scl w
  | 5 => decImin scl w
  | 6 => decImax scl w
  | 7 => decIabs scl w
  | 8 => decIneg scl w
  | 9 => decAnd scl w
  | 10 => decOr scl w
  | 11 => decXor scl w
  | 12 => decAndn scl w
  | 13 => decShl scl w
  | 14 => decShr scl w
  | 15 => decSar scl w
  | _ => .bad .opcReserved

/-- Row 0x1_ of the opcode map (R68). -/
def decRow1 (scl : Bool) (w : Fields) (lo : Nat) : Chk Instr :=
  match lo with
  | 0 => decRot scl w
  | 1 => decPopc scl w
  | 2 => decClz scl w
  | 3 => decBrev scl w
  | 4 => decBfx scl w
  | 5 => decBfi scl w
  | 6 => decIcmp scl w
  | 7 => decSel scl w
  | 8 => decMov scl w
  | 9 => decMovk scl w
  | 10 => decLea scl w
  | 11 => decDp4 scl w
  | 12 => decDp8 scl w
  | 13 => decPlop scl w
  | 14 => decPmov scl w
  | _ => .bad .opcReserved

/-- Row 0x4_ of the opcode map (R68). -/
def decRow4 (scl : Bool) (w : Fields) (lo : Nat) : Chk Instr :=
  match lo with
  | 0 => decFadd scl w
  | 1 => decFsub scl w
  | 2 => decFmul scl w
  | 3 => decFfma scl w
  | 4 => decFmin scl w
  | 5 => decFmax scl w
  | 6 => decFcmp scl w
  | 7 => decFclass scl w
  | 8 => decFrcp scl w
  | 9 => decFrsq scl w
  | 10 => decFsqrt scl w
  | 11 => decFex2 scl w
  | 12 => decFlg2 scl w
  | 13 => decFsin scl w
  | 14 => decFcos scl w
  | 15 => decFtanh scl w
  | _ => .bad .opcReserved

/-- Row 0x5_ of the opcode map (R68). -/
def decRow5 (scl : Bool) (w : Fields) (lo : Nat) : Chk Instr :=
  match lo with
  | 0 => decFrnd scl w
  | 1 => decCvt scl w
  | 2 => decQnt scl w
  | 3 => decDqt scl w
  | 4 => decPack scl w
  | 5 => decUnpk scl w
  | 6 => decTagr scl w
  | 7 => decTagw scl w
  | _ => .bad .opcReserved

/-- Row 0x8_ of the opcode map (R68). -/
def decRow8 (scl : Bool) (w : Fields) (lo : Nat) : Chk Instr :=
  match lo with
  | 0 => decShfl scl w
  | 1 => decVote scl w
  | 2 => decBallot scl w
  | 3 => decLred scl w
  | 4 => decScan scl w
  | 5 => decMatchq scl w
  | 6 => decElect scl w
  | 7 => decSup scl w
  | 8 => decSred scl w
  | 9 => decRgive scl w
  | 10 => decRclaim scl w
  | 11 => decRpool scl w
  | _ => .bad .opcReserved

/-- Row 0xA_ of the opcode map (R68). -/
def decRowA (scl : Bool) (w : Fields) (lo : Nat) : Chk Instr :=
  match lo with
  | 0 => decLdh scl w
  | 1 => decLd scl w
  | 2 => decSt scl w
  | 3 => decAtom scl w
  | 4 => decRed scl w
  | 5 => decFence scl w
  | 6 => decPfh scl w
  | 7 => decRes scl w
  | 8 => decCpy scl w
  | 9 => decCpyr scl w
  | 10 => decWaitt scl w
  | 11 => decWaita scl w
  | 12 => decTfind scl w
  | 13 => if w.mod.getLsbD 3 then decSmapOff scl w else decSmap scl w
  | 14 => decSflush scl w
  | 15 => decSinv scl w
  | _ => .bad .opcReserved

/-- Row 0xB_ of the opcode map (R68). -/
def decRowB (scl : Bool) (w : Fields) (lo : Nat) : Chk Instr :=
  match lo with
  | 8 => decSend scl w
  | 9 => decRecv scl w
  | 10 => decRelay scl w
  | 11 => decRlwait scl w
  | _ => .bad .opcReserved

/-- Row 0xC_ of the opcode map (R68). -/
def decRowC (scl : Bool) (w : Fields) (lo : Nat) : Chk Instr :=
  match lo with
  | 0 => decLload scl w
  | 1 => decMfence scl w
  | 2 => decMma scl w
  | 3 => decMwait scl w
  | 4 => decAzero scl w
  | 5 => decAmov scl w
  | 6 => decAst scl w
  | 7 => decAld scl w
  | 8 => decArel scl w
  | 9 => decAlg scl w
  | 10 => decConj scl w
  | 11 => decNorm scl w
  | 12 => decAmul scl w
  | _ => .bad .opcReserved

/-- Row 0xD_ of the opcode map (R68). -/
def decRowD (scl : Bool) (w : Fields) (lo : Nat) : Chk Instr :=
  match lo with
  | 0 => if w.mod.extractLsb' 0 2 == 1#2 then decBarC scl w else if w.mod.extractLsb' 0 2 == 2#2 then decBarG scl w else decBarB scl w
  | 1 => decCarrive scl w
  | 2 => decCwait scl w
  | 3 => decRpush scl w
  | 4 => decRpop scl w
  | 5 => if w.mod == 1#5 then decEnqAt scl w else if w.mod == 2#5 then decEnqRetry scl w else if w.mod == 3#5 then decEnqCancel scl w else decEnq scl w
  | 6 => decTdone scl w
  | 7 => decQstat scl w
  | 8 => decAsk scl w
  | 9 => decAnnc scl w
  | 10 => decWdrw scl w
  | 11 => decNmk scl w
  | 12 => decPslot scl w
  | 13 => decPpost scl w
  | 14 => decPwait scl w
  | 15 => decPrel scl w
  | _ => .bad .opcReserved

/-- Row 0xE_ of the opcode map (R68). -/
def decRowE (scl : Bool) (w : Fields) (lo : Nat) : Chk Instr :=
  match lo with
  | 8 => decBra scl w
  | 9 => decBrx scl w
  | 10 => decCall scl w
  | 11 => decRet scl w
  | 12 => decExit scl w
  | 13 => decYield scl w
  | 14 => decJoin scl w
  | _ => .bad .opcReserved

/-- Row 0xF_ of the opcode map (R68). -/
def decRowF (scl : Bool) (w : Fields) (lo : Nat) : Chk Instr :=
  match lo with
  | 0 => decSysr scl w
  | 1 => decSysw scl w
  | 2 => decTrap scl w
  | 3 => decTret scl w
  | 4 => decBrk scl w
  | 5 => decEvf scl w
  | 6 => decNop scl w
  | _ => .bad .opcReserved

/-- The instruction of a word that is no pair (R68). -/
def decFields (scl : Bool) (w : Fields) : Chk Instr :=
  match w.opc.toNat / 16 with
  | 0 => decRow0 scl w (w.opc.toNat % 16)
  | 1 => decRow1 scl w (w.opc.toNat % 16)
  | 4 => decRow4 scl w (w.opc.toNat % 16)
  | 5 => decRow5 scl w (w.opc.toNat % 16)
  | 8 => decRow8 scl w (w.opc.toNat % 16)
  | 10 => decRowA scl w (w.opc.toNat % 16)
  | 11 => decRowB scl w (w.opc.toNat % 16)
  | 12 => decRowC scl w (w.opc.toNat % 16)
  | 13 => decRowD scl w (w.opc.toNat % 16)
  | 14 => decRowE scl w (w.opc.toNat % 16)
  | 15 => decRowF scl w (w.opc.toNat % 16)
  | _ => .bad .opcReserved

/-- A pair word (R64), judged by R66 alone. -/
def decPair (scl : Bool) (w : Dword) : Chk Instr :=
  let ha := Half.ofBits (w.extractLsb' 28 28)
  let hb := Half.ofBits (w.extractLsb' 0 28)
  if !scl && pairOk ha hb then .ok (.pair (w.extractLsb' 56 3) ha hb) else .bad .pairIllegal

/-- A word of a clause that is scalar (`scl`) or not: its instruction, or the load error of R70. -/
def decodeIn (scl : Bool) (w : Dword) : Chk Instr :=
  if w.extractLsb' 59 5 == 0b11100#5 then decPair scl w else decFields scl (Fields.ofWord w)

/-- A word wherever it stands: as in a vector clause, or else as in a scalar one. -/
def decodeWord (w : Dword) : Option Instr :=
  match decodeIn false w with
  | .ok i => some i
  | .bad _ => (decodeIn true w).toOption

/-! ## The encoder -/

/-- The word of a well-formed instruction (R60 to R64); relay steps have `encodeStep`, events and commands none. -/
def encode : Instr → Dword
  | .iadd f sat g d a b =>
    Fields.toWord ⟨0x00#8, (bit b.isImm ++ bit sat ++ 0#1 ++ f.enc : BitVec 5), g.enc, d.enc, a.enc, b.encHi, b.encLo⟩
  | .isub f sat g d a b =>
    Fields.toWord ⟨0x01#8, (bit b.isImm ++ bit sat ++ 0#1 ++ f.enc : BitVec 5), g.enc, d.enc, a.enc, b.encHi, b.encLo⟩
  | .imul f sat g d a b =>
    Fields.toWord ⟨0x02#8, (bit b.isImm ++ bit sat ++ 0#1 ++ f.enc : BitVec 5), g.enc, d.enc, a.enc, b.encHi, b.encLo⟩
  | .imad f sat g d a b c =>
    Fields.toWord ⟨0x03#8, (0#1 ++ bit sat ++ 0#1 ++ f.enc : BitVec 5), g.enc, d.enc, a.enc, b.enc, c.enc⟩
  | .imulhi f g d a b =>
    Fields.toWord ⟨0x04#8, (0#1 ++ 0#1 ++ 0#1 ++ f.enc : BitVec 5), g.enc, d.enc, a.enc, b.enc, sAbsent⟩
  | .imin f g d a b =>
    Fields.toWord ⟨0x05#8, (bit b.isImm ++ 0#1 ++ 0#1 ++ f.enc : BitVec 5), g.enc, d.enc, a.enc, b.encHi, b.encLo⟩
  | .imax f g d a b =>
    Fields.toWord ⟨0x06#8, (bit b.isImm ++ 0#1 ++ 0#1 ++ f.enc : BitVec 5), g.enc, d.enc, a.enc, b.encHi, b.encLo⟩
  | .iabs f sat g d a =>
    Fields.toWord ⟨0x07#8, (0#1 ++ bit sat ++ 0#1 ++ f.enc : BitVec 5), g.enc, d.enc, a.enc, sAbsent, sAbsent⟩
  | .ineg f sat g d a =>
    Fields.toWord ⟨0x08#8, (0#1 ++ bit sat ++ 0#1 ++ f.enc : BitVec 5), g.enc, d.enc, a.enc, sAbsent, sAbsent⟩
  | .and g d a b =>
    Fields.toWord ⟨0x09#8, (bit b.isImm ++ 0#1 ++ 0#1 ++ 0#1 ++ 0#1 : BitVec 5), g.enc, d.enc, a.enc, b.encHi, b.encLo⟩
  | .or g d a b =>
    Fields.toWord ⟨0x0A#8, (bit b.isImm ++ 0#1 ++ 0#1 ++ 0#1 ++ 0#1 : BitVec 5), g.enc, d.enc, a.enc, b.encHi, b.encLo⟩
  | .xor g d a b =>
    Fields.toWord ⟨0x0B#8, (bit b.isImm ++ 0#1 ++ 0#1 ++ 0#1 ++ 0#1 : BitVec 5), g.enc, d.enc, a.enc, b.encHi, b.encLo⟩
  | .andn g d a b =>
    Fields.toWord ⟨0x0C#8, (bit b.isImm ++ 0#1 ++ 0#1 ++ 0#1 ++ 0#1 : BitVec 5), g.enc, d.enc, a.enc, b.encHi, b.encLo⟩
  | .shl g d a b =>
    Fields.toWord ⟨0x0D#8, (bit b.isImm ++ 0#1 ++ 0#1 ++ 0#1 ++ 0#1 : BitVec 5), g.enc, d.enc, a.enc, b.encHi, b.encLo⟩
  | .shr g d a b =>
    Fields.toWord ⟨0x0E#8, (bit b.isImm ++ 0#1 ++ 0#1 ++ 0#1 ++ 0#1 : BitVec 5), g.enc, d.enc, a.enc, b.encHi, b.encLo⟩
  | .sar g d a b =>
    Fields.toWord ⟨0x0F#8, (bit b.isImm ++ 0#1 ++ 0#1 ++ 0#1 ++ 0#1 : BitVec 5), g.enc, d.enc, a.enc, b.encHi, b.encLo⟩
  | .rot g d a b =>
    Fields.toWord ⟨0x10#8, (bit b.isImm ++ 0#1 ++ 0#1 ++ 0#1 ++ 0#1 : BitVec 5), g.enc, d.enc, a.enc, b.encHi, b.encLo⟩
  | .popc g d a =>
    Fields.toWord ⟨0x11#8, (0#1 ++ 0#1 ++ 0#1 ++ 0#1 ++ 0#1 : BitVec 5), g.enc, d.enc, a.enc, sAbsent, sAbsent⟩
  | .clz g d a =>
    Fields.toWord ⟨0x12#8, (0#1 ++ 0#1 ++ 0#1 ++ 0#1 ++ 0#1 : BitVec 5), g.enc, d.enc, a.enc, sAbsent, sAbsent⟩
  | .brev g d a =>
    Fields.toWord ⟨0x13#8, (0#1 ++ 0#1 ++ 0#1 ++ 0#1 ++ 0#1 : BitVec 5), g.enc, d.enc, a.enc, sAbsent, sAbsent⟩
  | .bfx sg g d a b c =>
    Fields.toWord ⟨0x14#8, (0#1 ++ 0#1 ++ 0#1 ++ 0#1 ++ bit sg : BitVec 5), g.enc, d.enc, a.enc, b.enc, c.enc⟩
  | .bfi g d a b c =>
    Fields.toWord ⟨0x15#8, (0#1 ++ 0#1 ++ 0#1 ++ 0#1 ++ 0#1 : BitVec 5), g.enc, d.enc, a.enc, b.enc, c.enc⟩
  | .icmp cc uns g d a b =>
    Fields.toWord ⟨0x16#8, (bit b.isImm ++ cc.enc ++ bit uns : BitVec 5), g.enc, d.enc, a.enc, b.encHi, b.encLo⟩
  | .sel g d a b c =>
    Fields.toWord ⟨0x17#8, (0#1 ++ 0#1 ++ 0#1 ++ 0#1 ++ 0#1 : BitVec 5), g.enc, d.enc, a.enc, b.enc, c.enc⟩
  | .mov g d a =>
    Fields.toWord ⟨0x18#8, (0#1 ++ 0#1 ++ 0#1 ++ 0#1 ++ 0#1 : BitVec 5), g.enc, d.enc, a.enc, sAbsent, sAbsent⟩
  | .movk f g d k =>
    Fields.toWord ⟨0x19#8, (f : BitVec 5), g.enc, d.enc, ((0#4 ++ k) : BitVec 36).extractLsb' 24 12, ((0#4 ++ k) : BitVec 36).extractLsb' 12 12, ((0#4 ++ k) : BitVec 36).extractLsb' 0 12⟩
  | .lea sh x64 g d a b =>
    Fields.toWord ⟨0x1A#8, (bit b.isImm ++ bit x64 ++ sh : BitVec 5), g.enc, d.enc, a.enc, b.encHi, b.encLo⟩
  | .dp4 ua ub sat g d a b c =>
    Fields.toWord ⟨0x1B#8, (0#1 ++ 0#1 ++ bit sat ++ bit ub ++ bit ua : BitVec 5), g.enc, d.enc, a.enc, b.enc, c.enc⟩
  | .dp8 ua ub sat g d a b c =>
    Fields.toWord ⟨0x1C#8, (0#1 ++ 0#1 ++ bit sat ++ bit ub ++ bit ua : BitVec 5), g.enc, d.enc, a.enc, b.enc, c.enc⟩
  | .plop op g d a b =>
    Fields.toWord ⟨0x1D#8, (0#1 ++ 0#1 ++ op.enc : BitVec 5), g.enc, encPD d, encP a, encP b, sAbsent⟩
  | .pmov k g d a =>
    Fields.toWord ⟨0x1E#8, (0#1 ++ 0#1 ++ 0#1 ++ k.enc : BitVec 5), g.enc, d.enc, a.enc, sAbsent, sAbsent⟩
  | .fadd f16 ftz r g d a b c =>
    Fields.toWord ⟨0x40#8, (bit f16 ++ bit ftz ++ r.enc : BitVec 5), g.enc, d.enc, a.enc, b.enc, c.enc⟩
  | .fsub f16 ftz r g d a b c =>
    Fields.toWord ⟨0x41#8, (bit f16 ++ bit ftz ++ r.enc : BitVec 5), g.enc, d.enc, a.enc, b.enc, c.enc⟩
  | .fmul f16 ftz r g d a b c =>
    Fields.toWord ⟨0x42#8, (bit f16 ++ bit ftz ++ r.enc : BitVec 5), g.enc, d.enc, a.enc, b.enc, c.enc⟩
  | .ffma f16 ftz r g d a b c =>
    Fields.toWord ⟨0x43#8, (bit f16 ++ bit ftz ++ r.enc : BitVec 5), g.enc, d.enc, a.enc, b.enc, c.enc⟩
  | .fmin f16 ftz prop g d a b =>
    Fields.toWord ⟨0x44#8, (bit f16 ++ bit ftz ++ 0#1 ++ 0#1 ++ bit prop : BitVec 5), g.enc, d.enc, a.enc, b.enc, sAbsent⟩
  | .fmax f16 ftz prop g d a b =>
    Fields.toWord ⟨0x45#8, (bit f16 ++ bit ftz ++ 0#1 ++ 0#1 ++ bit prop : BitVec 5), g.enc, d.enc, a.enc, b.enc, sAbsent⟩
  | .fcmp cc ftz g d a b =>
    Fields.toWord ⟨0x46#8, (0#1 ++ bit ftz ++ cc.enc : BitVec 5), g.enc, d.enc, a.enc, b.enc, sAbsent⟩
  | .fclass sf e1 g d a =>
    Fields.toWord ⟨0x47#8, (0#1 ++ 0#1 ++ bit e1 ++ sf.enc : BitVec 5), g.enc, d.enc, a.enc, sAbsent, sAbsent⟩
  | .frcp f16 ftz r g d a =>
    Fields.toWord ⟨0x48#8, (bit f16 ++ bit ftz ++ r.enc : BitVec 5), g.enc, d.enc, a.enc, sAbsent, sAbsent⟩
  | .frsq f16 ftz r g d a =>
    Fields.toWord ⟨0x49#8, (bit f16 ++ bit ftz ++ r.enc : BitVec 5), g.enc, d.enc, a.enc, sAbsent, sAbsent⟩
  | .fsqrt f16 ftz r g d a =>
    Fields.toWord ⟨0x4A#8, (bit f16 ++ bit ftz ++ r.enc : BitVec 5), g.enc, d.enc, a.enc, sAbsent, sAbsent⟩
  | .fex2 f16 ftz r g d a =>
    Fields.toWord ⟨0x4B#8, (bit f16 ++ bit ftz ++ r.enc : BitVec 5), g.enc, d.enc, a.enc, sAbsent, sAbsent⟩
  | .flg2 f16 ftz r g d a =>
    Fields.toWord ⟨0x4C#8, (bit f16 ++ bit ftz ++ r.enc : BitVec 5), g.enc, d.enc, a.enc, sAbsent, sAbsent⟩
  | .fsin f16 ftz r g d a =>
    Fields.toWord ⟨0x4D#8, (bit f16 ++ bit ftz ++ r.enc : BitVec 5), g.enc, d.enc, a.enc, sAbsent, sAbsent⟩
  | .fcos f16 ftz r g d a =>
    Fields.toWord ⟨0x4E#8, (bit f16 ++ bit ftz ++ r.enc : BitVec 5), g.enc, d.enc, a.enc, sAbsent, sAbsent⟩
  | .ftanh f16 ftz r g d a =>
    Fields.toWord ⟨0x4F#8, (bit f16 ++ bit ftz ++ r.enc : BitVec 5), g.enc, d.enc, a.enc, sAbsent, sAbsent⟩
  | .frnd f16 ftz r g d a =>
    Fields.toWord ⟨0x50#8, (bit f16 ++ bit ftz ++ r.enc : BitVec 5), g.enc, d.enc, a.enc, sAbsent, sAbsent⟩
  | .cvt f elem r g d a c =>
    Fields.toWord ⟨0x51#8, (f : BitVec 5), g.enc, d.enc, a.enc, encCvt elem r, c.enc⟩
  | .qnt f rs g d a b c =>
    Fields.toWord ⟨0x52#8, (bit rs ++ f.setWidth 4 : BitVec 5), g.enc, d.enc, a.enc, b.enc, c.enc⟩
  | .dqt f g d a b c =>
    Fields.toWord ⟨0x53#8, (0#1 ++ f.setWidth 4 : BitVec 5), g.enc, d.enc, a.enc, b.enc, c.enc⟩
  | .pack g d a b c =>
    Fields.toWord ⟨0x54#8, (0#1 ++ 0#1 ++ 0#1 ++ 0#1 ++ 0#1 : BitVec 5), g.enc, d.enc, a.enc, b.enc, c.enc⟩
  | .unpk wide g d a b =>
    Fields.toWord ⟨0x55#8, (0#1 ++ 0#1 ++ 0#1 ++ 0#1 ++ bit wide : BitVec 5), g.enc, d.enc, a.enc, b.enc, sAbsent⟩
  | .tagr g d a =>
    Fields.toWord ⟨0x56#8, (0#1 ++ 0#1 ++ 0#1 ++ 0#1 ++ 0#1 : BitVec 5), g.enc, d.enc, a.enc, sAbsent, sAbsent⟩
  | .tagw f g d a b =>
    Fields.toWord ⟨0x57#8, (f.enc : BitVec 5), g.enc, d.enc, a.enc, b.enc, sAbsent⟩
  | .shfl mode seg g d a b c =>
    Fields.toWord ⟨0x80#8, (seg.enc ++ mode.enc : BitVec 5), g.enc, d.enc, a.enc, b.enc, c.enc⟩
  | .vote mode seg g d a =>
    Fields.toWord ⟨0x81#8, (seg.enc ++ mode.enc : BitVec 5), g.enc, d.enc, a.enc, sAbsent, sAbsent⟩
  | .ballot q g d a =>
    Fields.toWord ⟨0x82#8, (0#1 ++ 0#1 ++ 0#1 ++ q : BitVec 5), g.enc, d.enc, a.enc, sAbsent, sAbsent⟩
  | .lred op f g d a =>
    Fields.toWord ⟨0x83#8, (f.enc ++ op.enc : BitVec 5), g.enc, d.enc, a.enc, sAbsent, sAbsent⟩
  | .scan op f g d a =>
    Fields.toWord ⟨0x84#8, (f.enc ++ op.enc : BitVec 5), g.enc, d.enc, a.enc, sAbsent, sAbsent⟩
  | .matchq q g d a =>
    Fields.toWord ⟨0x85#8, (0#1 ++ 0#1 ++ 0#1 ++ q : BitVec 5), g.enc, d.enc, a.enc, sAbsent, sAbsent⟩
  | .elect hi seg g d =>
    Fields.toWord ⟨0x86#8, (0#1 ++ seg.enc ++ bit hi : BitVec 5), g.enc, d.enc, sAbsent, sAbsent, sAbsent⟩
  | .sup f g d a =>
    Fields.toWord ⟨0x87#8, (f : BitVec 5), g.enc, d.enc, a.enc, sAbsent, sAbsent⟩
  | .sred op f g d a =>
    Fields.toWord ⟨0x88#8, (f.enc ++ op.enc : BitVec 5), g.enc, d.enc, a.enc, sAbsent, sAbsent⟩
  | .rgive g n =>
    Fields.toWord ⟨0x89#8, (0#1 ++ 0#1 ++ 0#1 ++ 0#1 ++ 0#1 : BitVec 5), g.enc, dAbsent, n.enc, sAbsent, sAbsent⟩
  | .rclaim g p n =>
    Fields.toWord ⟨0x8A#8, (0#1 ++ 0#1 ++ 0#1 ++ 0#1 ++ bit p.isSome : BitVec 5), g.enc, encPO p, n.enc, sAbsent, sAbsent⟩
  | .rpool which g d =>
    Fields.toWord ⟨0x8B#8, (0#1 ++ 0#1 ++ 0#1 ++ which : BitVec 5), g.enc, d.enc, sAbsent, sAbsent, sAbsent⟩
  | .ldh g d a =>
    Fields.toWord ⟨0xA0#8, (0#1 ++ 0#1 ++ 0#1 ++ 0#1 ++ bit a.isReg : BitVec 5), g.enc, d.enc, a.enc1, a.enc2, a.enc3⟩
  | .ld f g d hs i o =>
    Fields.toWord ⟨0xA1#8, (0#1 ++ f.setWidth 4 : BitVec 5), g.enc, d.enc, encH hs, i.enc, o.enc⟩
  | .st f g v hs i o =>
    Fields.toWord ⟨0xA2#8, (0#1 ++ f.setWidth 4 : BitVec 5), g.enc, (v.enc ++ 0#1), encH hs, i.enc, o.enc⟩
  | .atom op sys g d hs i v =>
    Fields.toWord ⟨0xA3#8, (bit sys ++ op.enc : BitVec 5), g.enc, d.enc, encH hs, i.enc, v.enc⟩
  | .red op sys g hs i v =>
    Fields.toWord ⟨0xA4#8, (bit sys ++ op.enc : BitVec 5), g.enc, dAbsent, encH hs, i.enc, v.enc⟩
  | .fence sc g =>
    Fields.toWord ⟨0xA5#8, (0#1 ++ 0#1 ++ 0#1 ++ sc : BitVec 5), g.enc, dAbsent, sAbsent, sAbsent, sAbsent⟩
  | .pfh l2 g hs i o =>
    Fields.toWord ⟨0xA6#8, (0#1 ++ 0#1 ++ 0#1 ++ 0#1 ++ bit l2 : BitVec 5), g.enc, dAbsent, encH hs, i.enc, o.enc⟩
  | .res kind g hs i n =>
    Fields.toWord ⟨0xA7#8, (0#1 ++ 0#1 ++ 0#1 ++ kind : BitVec 5), g.enc, dAbsent, encH hs, i.enc, n.enc⟩
  | .cpy g hd hs q =>
    Fields.toWord ⟨0xA8#8, (0#1 ++ 0#1 ++ 0#1 ++ 0#1 ++ 0#1 : BitVec 5), g.enc, dAbsent, encH hd, encH hs, q.enc⟩
  | .cpyr op rf g hd hs q =>
    Fields.toWord ⟨0xA9#8, (rf.enc ++ op.enc : BitVec 5), g.enc, dAbsent, encH hd, encH hs, q.enc⟩
  | .waitt hi g p m =>
    Fields.toWord ⟨0xAA#8, (0#1 ++ 0#1 ++ 0#1 ++ bit p.isSome ++ bit hi : BitVec 5), g.enc, encPO p, m.enc, sAbsent, sAbsent⟩
  | .waita hi g p m =>
    Fields.toWord ⟨0xAB#8, (0#1 ++ 0#1 ++ 0#1 ++ bit p.isSome ++ bit hi : BitVec 5), g.enc, encPO p, m.enc, sAbsent, sAbsent⟩
  | .tfind kind hi g d m =>
    Fields.toWord ⟨0xAC#8, (0#1 ++ 0#1 ++ kind ++ bit hi : BitVec 5), g.enc, d.enc, m.enc, sAbsent, sAbsent⟩
  | .smap n g q hs x =>
    Fields.toWord ⟨0xAD#8, (0#1 ++ 0#1 ++ n : BitVec 5), g.enc, dAbsent, q.enc, encH hs, x.enc⟩
  | .smapOff n g =>
    Fields.toWord ⟨0xAD#8, (0#1 ++ 1#1 ++ n : BitVec 5), g.enc, dAbsent, sAbsent, sAbsent, sAbsent⟩
  | .sflush n g t =>
    Fields.toWord ⟨0xAE#8, (0#1 ++ 0#1 ++ n : BitVec 5), g.enc, dAbsent, t.enc, sAbsent, sAbsent⟩
  | .sinv n g =>
    Fields.toWord ⟨0xAF#8, (0#1 ++ 0#1 ++ n : BitVec 5), g.enc, dAbsent, sAbsent, sAbsent, sAbsent⟩
  | .send g hs q =>
    Fields.toWord ⟨0xB8#8, (0#1 ++ 0#1 ++ 0#1 ++ 0#1 ++ 0#1 : BitVec 5), g.enc, dAbsent, encH hs, q.enc, sAbsent⟩
  | .recv g hd q =>
    Fields.toWord ⟨0xB9#8, (0#1 ++ 0#1 ++ 0#1 ++ 0#1 ++ 0#1 : BitVec 5), g.enc, dAbsent, encH hd, q.enc, sAbsent⟩
  | .relay g d hp x q =>
    Fields.toWord ⟨0xBA#8, (0#1 ++ 0#1 ++ 0#1 ++ 0#1 ++ 0#1 : BitVec 5), g.enc, d.enc, encH hp, x.enc, q.enc⟩
  | .rlwait g p t =>
    Fields.toWord ⟨0xBB#8, (0#1 ++ 0#1 ++ 0#1 ++ 0#1 ++ bit p.isSome : BitVec 5), g.enc, encPO p, t.enc, sAbsent, sAbsent⟩
  | .lload g l hs x q =>
    Fields.toWord ⟨0xC0#8, (0#1 ++ 0#1 ++ 0#1 ++ 0#1 ++ 0#1 : BitVec 5), g.enc, encLD l, encH hs, x.enc, q.enc⟩
  | .mfence g =>
    Fields.toWord ⟨0xC1#8, (0#1 ++ 0#1 ++ 0#1 ++ 0#1 ++ 0#1 : BitVec 5), g.enc, dAbsent, sAbsent, sAbsent, sAbsent⟩
  | .mma g p =>
    Fields.toWord ⟨0xC2#8, (0#1 ++ 0#1 ++ 0#1 ++ 0#1 ++ 0#1 : BitVec 5), g.enc, dAbsent, p.enc, sAbsent, sAbsent⟩
  | .mwait prev g a =>
    Fields.toWord ⟨0xC3#8, (0#1 ++ 0#1 ++ 0#1 ++ 0#1 ++ bit prev : BitVec 5), g.enc, dAbsent, a.enc, sAbsent, sAbsent⟩
  | .azero n new g a =>
    Fields.toWord ⟨0xC4#8, (bit new ++ n : BitVec 5), g.enc, encAD a, sAbsent, sAbsent, sAbsent⟩
  | .amov comp prev g d a i =>
    Fields.toWord ⟨0xC5#8, (0#1 ++ bit prev ++ comp : BitVec 5), g.enc, d.enc, a.enc, i.enc, sAbsent⟩
  | .ast r prev g md a t =>
    Fields.toWord ⟨0xC6#8, (0#1 ++ 0#1 ++ bit prev ++ r.enc.setWidth 2 : BitVec 5), g.enc, encMD md, a.enc, t.enc, sAbsent⟩
  | .ald new g a ms t =>
    Fields.toWord ⟨0xC7#8, (0#1 ++ 0#1 ++ 0#1 ++ 0#1 ++ bit new : BitVec 5), g.enc, encAD a, encM ms, t.enc, sAbsent⟩
  | .arel prev g a =>
    Fields.toWord ⟨0xC8#8, (0#1 ++ 0#1 ++ 0#1 ++ 0#1 ++ bit prev : BitVec 5), g.enc, dAbsent, a.enc, sAbsent, sAbsent⟩
  | .alg n g p =>
    Fields.toWord ⟨0xC9#8, (0#1 ++ n : BitVec 5), g.enc, dAbsent, p.enc, sAbsent, sAbsent⟩
  | .conj n g d a =>
    Fields.toWord ⟨0xCA#8, (0#1 ++ n : BitVec 5), g.enc, d.enc, a.enc, sAbsent, sAbsent⟩
  | .norm n g d a =>
    Fields.toWord ⟨0xCB#8, (0#1 ++ n : BitVec 5), g.enc, d.enc, a.enc, sAbsent, sAbsent⟩
  | .amul n rev g d a b =>
    Fields.toWord ⟨0xCC#8, (bit rev ++ n : BitVec 5), g.enc, d.enc, a.enc, b.enc, sAbsent⟩
  | .barB idem g b n =>
    Fields.toWord ⟨0xD0#8, (0#1 ++ 0#1 ++ bit idem ++ 0#2 : BitVec 5), g.enc, dAbsent, b.enc, n.enc, sAbsent⟩
  | .barC g =>
    Fields.toWord ⟨0xD0#8, (0#1 ++ 0#1 ++ 0#1 ++ 1#2 : BitVec 5), g.enc, dAbsent, sAbsent, sAbsent, sAbsent⟩
  | .barG g =>
    Fields.toWord ⟨0xD0#8, (0#1 ++ 0#1 ++ 0#1 ++ 2#2 : BitVec 5), g.enc, dAbsent, sAbsent, sAbsent, sAbsent⟩
  | .carrive g b k =>
    Fields.toWord ⟨0xD1#8, (0#1 ++ 0#1 ++ 0#1 ++ 0#1 ++ 0#1 : BitVec 5), g.enc, dAbsent, b.enc, k.enc, sAbsent⟩
  | .cwait g b n =>
    Fields.toWord ⟨0xD2#8, (0#1 ++ 0#1 ++ 0#1 ++ 0#1 ++ 0#1 : BitVec 5), g.enc, dAbsent, b.enc, n.enc, sAbsent⟩
  | .rpush g r v =>
    Fields.toWord ⟨0xD3#8, (0#1 ++ 0#1 ++ 0#1 ++ 0#1 ++ 0#1 : BitVec 5), g.enc, dAbsent, r.enc, v.enc, sAbsent⟩
  | .rpop want g d r =>
    Fields.toWord ⟨0xD4#8, (0#1 ++ 0#1 ++ 0#1 ++ want.enc : BitVec 5), g.enc, d.enc, r.enc, sAbsent, sAbsent⟩
  | .enq g hs i =>
    Fields.toWord ⟨0xD5#8, (0#5 : BitVec 5), g.enc, dAbsent, encH hs, i.enc, sAbsent⟩
  | .enqAt g hs i =>
    Fields.toWord ⟨0xD5#8, (1#5 : BitVec 5), g.enc, dAbsent, encH hs, i.enc, sAbsent⟩
  | .enqRetry g q t =>
    Fields.toWord ⟨0xD5#8, (2#5 : BitVec 5), g.enc, dAbsent, q.enc, t.enc, sAbsent⟩
  | .enqCancel g q t =>
    Fields.toWord ⟨0xD5#8, (3#5 : BitVec 5), g.enc, dAbsent, q.enc, t.enc, sAbsent⟩
  | .tdone g =>
    Fields.toWord ⟨0xD6#8, (0#1 ++ 0#1 ++ 0#1 ++ 0#1 ++ 0#1 : BitVec 5), g.enc, dAbsent, sAbsent, sAbsent, sAbsent⟩
  | .qstat what g d q t =>
    Fields.toWord ⟨0xD7#8, (0#1 ++ 0#1 ++ what.enc : BitVec 5), g.enc, d.enc, q.enc, t.enc, sAbsent⟩
  | .ask g hd q p =>
    Fields.toWord ⟨0xD8#8, (0#1 ++ 0#1 ++ 0#1 ++ 0#1 ++ 0#1 : BitVec 5), g.enc, dAbsent, encH hd, q.enc, p.enc⟩
  | .annc g hs q p =>
    Fields.toWord ⟨0xD9#8, (0#1 ++ 0#1 ++ 0#1 ++ 0#1 ++ 0#1 : BitVec 5), g.enc, dAbsent, encH hs, q.enc, p.enc⟩
  | .wdrw g q t =>
    Fields.toWord ⟨0xDA#8, (0#1 ++ 0#1 ++ 0#1 ++ 0#1 ++ 0#1 : BitVec 5), g.enc, dAbsent, q.enc, t.enc, sAbsent⟩
  | .nmk fld g d v =>
    Fields.toWord ⟨0xDB#8, (0#1 ++ 0#1 ++ fld.enc : BitVec 5), g.enc, d.enc, v.enc, sAbsent, sAbsent⟩
  | .pslot g p hs t w =>
    Fields.toWord ⟨0xDC#8, (0#1 ++ 0#1 ++ 0#1 ++ 0#1 ++ bit p.isSome : BitVec 5), g.enc, encPO p, encH hs, t.enc, w.enc⟩
  | .ppost g a q p =>
    Fields.toWord ⟨0xDD#8, (0#1 ++ 0#1 ++ 0#1 ++ 0#1 ++ bit a.isReg : BitVec 5), g.enc, dAbsent, a.enc1, q.enc, p.enc⟩
  | .pwait n g d q =>
    Fields.toWord ⟨0xDE#8, (0#1 ++ 0#1 ++ 0#1 ++ n : BitVec 5), g.enc, d.enc, q.enc, sAbsent, sAbsent⟩
  | .prel n g q =>
    Fields.toWord ⟨0xDF#8, (0#1 ++ 0#1 ++ 0#1 ++ n : BitVec 5), g.enc, dAbsent, q.enc, sAbsent, sAbsent⟩
  | .pair gp ha hb => 0b11100#5 ++ gp ++ ha.enc ++ hb.enc
  | .bra g off =>
    Fields.toWord ⟨0xE8#8, (0#1 ++ 0#1 ++ 0#1 ++ 0#1 ++ 0#1 : BitVec 5), g.enc, dAbsent, off.extractLsb' 24 12, off.extractLsb' 12 12, off.extractLsb' 0 12⟩
  | .brx call g a =>
    Fields.toWord ⟨0xE9#8, (0#1 ++ 0#1 ++ 0#1 ++ 0#1 ++ bit call : BitVec 5), g.enc, dAbsent, a.enc, sAbsent, sAbsent⟩
  | .call g off =>
    Fields.toWord ⟨0xEA#8, (0#1 ++ 0#1 ++ 0#1 ++ 0#1 ++ 0#1 : BitVec 5), g.enc, dAbsent, off.extractLsb' 24 12, off.extractLsb' 12 12, off.extractLsb' 0 12⟩
  | .ret g =>
    Fields.toWord ⟨0xEB#8, (0#1 ++ 0#1 ++ 0#1 ++ 0#1 ++ 0#1 : BitVec 5), g.enc, dAbsent, sAbsent, sAbsent, sAbsent⟩
  | .exit g =>
    Fields.toWord ⟨0xEC#8, (0#1 ++ 0#1 ++ 0#1 ++ 0#1 ++ 0#1 : BitVec 5), g.enc, dAbsent, sAbsent, sAbsent, sAbsent⟩
  | .yield g =>
    Fields.toWord ⟨0xED#8, (0#1 ++ 0#1 ++ 0#1 ++ 0#1 ++ 0#1 : BitVec 5), g.enc, dAbsent, sAbsent, sAbsent, sAbsent⟩
  | .join g =>
    Fields.toWord ⟨0xEE#8, (0#1 ++ 0#1 ++ 0#1 ++ 0#1 ++ 0#1 : BitVec 5), g.enc, dAbsent, sAbsent, sAbsent, sAbsent⟩
  | .sysr g d n =>
    Fields.toWord ⟨0xF0#8, (0#1 ++ 0#1 ++ 0#1 ++ 0#1 ++ 0#1 : BitVec 5), g.enc, d.enc, (n.setWidth 36).extractLsb' 24 12, (n.setWidth 36).extractLsb' 12 12, (n.setWidth 36).extractLsb' 0 12⟩
  | .sysw g a n =>
    Fields.toWord ⟨0xF1#8, (0#1 ++ 0#1 ++ 0#1 ++ 0#1 ++ 0#1 : BitVec 5), g.enc, dAbsent, a.enc, 0#12, n⟩
  | .trap g k =>
    Fields.toWord ⟨0xF2#8, (0#1 ++ 0#1 ++ 0#1 ++ 0#1 ++ 0#1 : BitVec 5), g.enc, dAbsent, (k.setWidth 36).extractLsb' 24 12, (k.setWidth 36).extractLsb' 12 12, (k.setWidth 36).extractLsb' 0 12⟩
  | .tret next g =>
    Fields.toWord ⟨0xF3#8, (0#1 ++ 0#1 ++ 0#1 ++ 0#1 ++ bit next : BitVec 5), g.enc, dAbsent, sAbsent, sAbsent, sAbsent⟩
  | .brk g k =>
    Fields.toWord ⟨0xF4#8, (0#1 ++ 0#1 ++ 0#1 ++ 0#1 ++ 0#1 : BitVec 5), g.enc, dAbsent, (k.setWidth 36).extractLsb' 24 12, (k.setWidth 36).extractLsb' 12 12, (k.setWidth 36).extractLsb' 0 12⟩
  | .evf g =>
    Fields.toWord ⟨0xF5#8, (0#1 ++ 0#1 ++ 0#1 ++ 0#1 ++ 0#1 : BitVec 5), g.enc, dAbsent, sAbsent, sAbsent, sAbsent⟩
  | .nop g =>
    Fields.toWord ⟨0xF6#8, (0#1 ++ 0#1 ++ 0#1 ++ 0#1 ++ 0#1 : BitVec 5), g.enc, dAbsent, sAbsent, sAbsent, sAbsent⟩
  | .packetFormation _ | .fillLands _ _ | .handleFillLands _ _ | .claimServed _ | .regDeadlock _ | .copyComplete _
    | .lloadComplete _ | .chainComplete _ | .aldComplete _ | .astComplete _ | .sflushComplete _ | .windowLineFill _ _ _
    | .windowSnoop _ _ _ _ | .faultServiceTimeout _ _ | .progressWatchdog _ _ | .localityPeriod _ | .taskStart _ | .starterRelease
    | .instancePlacement _ _ | .revocationDrainExpiry _ | .saveDrainExpiry _ | .stopDrainExpiry _ | .coreRemovalDrainExpiry _
    | .finaliseComplete _ _ | .gridIdSweepDone _ _ | .dataFlit _ _ | .creditFlit _ _ | .acknowledgementFlit _ _ _ _
    | .relayDataFlit _ _ | .messageLocalComplete _ | .snd _ _ _ _ | .rcv _ _ _ _ | .rrs _ _ _ _ _ _ _ | .cpys _ _ | .wat
    | .loop _ _ | .endr | .relayIssueTimeout _ _ | .interestArrival _ _ _ _ | .tileReturn _ _ _ _ | .announcementDecision _
    | .nameDeliveryComplete _ | .askLifetimeExpiry _ | .penPostArrival _ | .penSlotTimeout _ _ | .penRelease _ _
    | .penReleaseWritten _ _ | .push _ _ _ | .taskRetry _ _ | .taskCancel _ _ | .queueStop _ | .queueStart _
    | .launch _ _ | .readbackAddress _ | .signalBitmapRead _ | .windowWriteOther _ _ | .createContext _
    | .destroyContext _ | .saveContext _ | .restoreContext _ | .writeContextRegister _ _ _ | .loadContainer _ _
    | .removeObject _ _ | .objectCreate _ _ _ | .addExtent _ _ _ | .split _ _ _ | .merge _ _ _ _ | .narrow _ _ _
    | .objectRemove _ _ | .resolveFault _ _ _ | .writeObject _ _ _ | .readObject _ _ _ | .createQueue _ _ _ | .destroyQueue _ _
    | .writeFilterEntry _ _ _ | .writeRouteEntry _ _ _ | .paddockCreate _ _ | .paddockResize _ _ | .paddockStop _
    | .paddockStart _ | .paddockDestroy _ | .removeCore _ _ | .keyInstall _ _ _ _ | .keyRewrap _ _ | .rewrapDone _ _
    | .keyRevoke _ _ | .preEmptPosition _ _ _ | .attest _ _ _ | .setPowerCap _ _ | .coldReset _ | .ptpMessage _ | .thermalThrottle
    | .thermalTrip | .portEnable _ | .trainingComplete _ _ | .trainingTimeout _ | .trainingRetry _ | .laneFailure _ _
    | .replayThreshold _ | .quarantineRelease _ | .portDisable _ | .dieFailure _ | .clusterRetire _ | .channelRetire _ _ _ _
    | .cxlPortDown _ | .scrubberError _ | .correctedError _ _ _ | .accessPerformed _ _ | .scrubComplete _ | .commandComplete _
    | .filterBucketRefill _ => 0

/-! ## Relay steps (R346) -/

/-- The fields of a relay step that its OP may use; the others are zero. -/
structure StepWord where
  op : BitVec 4
  rop : BitVec 4
  rf : BitVec 2
  ns : Bool
  pa : BitVec 16
  pb : BitVec 16
  ca : BitVec 16
  cb : BitVec 16
  cnt : BitVec 16
  tgt : BitVec 16
  deriving DecidableEq, Repr

def StepWord.toBits (s : StepWord) : BitVec 128 :=
  0#16 ++ s.tgt ++ s.cnt ++ s.cb ++ s.ca ++ s.pb ++ s.pa ++ 0#5 ++ BitVec.ofBool s.ns ++ s.rf ++ s.rop ++ s.op

/-- The 16-byte step of a relay instruction, as a number (R346, R3). -/
def encodeStep : Instr → BitVec 128
  | .snd pa pb ca cb => StepWord.toBits ⟨0, 0, 0, false, pa, pb, ca, cb, 0, 0⟩
  | .rcv pa pb ca cb => StepWord.toBits ⟨1, 0, 0, false, pa, pb, ca, cb, 0, 0⟩
  | .rrs op rf ns pa pb ca cb => StepWord.toBits ⟨2, op.enc.setWidth 4, rf.enc, ns, pa, pb, ca, cb, 0, 0⟩
  | .cpys ca cb => StepWord.toBits ⟨3, 0, 0, false, 0, 0, ca, cb, 0, 0⟩
  | .wat => StepWord.toBits ⟨4, 0, 0, false, 0, 0, 0, 0, 0, 0⟩
  | .loop cnt tgt => StepWord.toBits ⟨5, 0, 0, false, 0, 0, 0, 0, cnt, tgt⟩
  | .endr => StepWord.toBits ⟨6, 0, 0, false, 0, 0, 0, 0, 0, 0⟩
  | _ => 0

/-- The fields of a step, when its reserved bits are zero. -/
def StepWord.ofBits (b : BitVec 128) : Option StepWord :=
  if b.extractLsb' 11 5 == 0#5 && b.extractLsb' 112 16 == 0#16 then
    some ⟨b.extractLsb' 0 4, b.extractLsb' 4 4, b.extractLsb' 8 2, b.getLsbD 10, b.extractLsb' 16 16,
      b.extractLsb' 32 16, b.extractLsb' 48 16, b.extractLsb' 64 16, b.extractLsb' 80 16, b.extractLsb' 96 16⟩
  else none

/-- The step a OP names, without its check that unused fields are zero. -/
def StepWord.instr (s : StepWord) : Option Instr :=
  match s.op.toNat with
  | 0 => some (.snd s.pa s.pb s.ca s.cb)
  | 1 => some (.rcv s.pa s.pb s.ca s.cb)
  | 2 =>
    if s.rop.getLsbD 3 then none
    else match CpyOp.dec (s.rop.setWidth 3), RelFmt.dec s.rf with
      | some o, some f => if cpyrOk o f then some (.rrs o f s.ns s.pa s.pb s.ca s.cb) else none
      | _, _ => none
  | 3 => some (.cpys s.ca s.cb)
  | 4 => some .wat
  | 5 => if s.cnt == 0#16 then none else some (.loop s.cnt s.tgt)
  | 6 => some .endr
  | _ => none

/-- A relay step (R346): none where a value is reserved, a field that should be zero is not, or ROP and RF are a
pair that R226 refuses (R348). -/
def decodeStep (b : BitVec 128) : Option Instr :=
  match (StepWord.ofBits b).bind StepWord.instr with
  | some i => if encodeStep i == b then some i else none
  | none => none

/-! ## The opcode table's numbering -/

/-- The instruction the decoder reads from the word whose bits are `w` (R3: one little-endian 64-bit word, or the
16 bytes of a relay step). -/
def decodeTableWord (nbits w : Nat) : Option Instr :=
  if nbits ≤ 64 then decodeWord (BitVec.ofNat 64 w)
  else if nbits ≤ 128 then decodeStep (BitVec.ofNat 128 w) else none

end Sys2Proof
end

