-- ==== Sys2Proof/Machine/Loft.lean ====
section
/-! DEFINITION. Tile tags (R103 to R106), Loft slots (R183, R184, R198), m-handles (R185), accumulator tiles (R186),
and the instructions on them: `lload`, `mfence`, `azero`, `amov`, `mwait`, `arel`, `ald`, `ast` (R198 to R201). -/

namespace Sys2Proof.Machine

/-! ## Tile tags (R103, R104) -/

def tagFmt (t : TileTag) : Fmt := t.extractLsb' 0 5
def tagScale (t : TileTag) : Nat := (t.extractLsb' 5 3).toNat
def tagAlg (t : TileTag) : Nat := (t.extractLsb' 8 4).toNat
def tagLayout (t : TileTag) : Nat := (t.extractLsb' 12 2).toNat

/-- R104. -/
def tagBad (t : TileTag) : Bool :=
  decide (14 ≤ (tagFmt t).toNat) || decide (3 ≤ tagScale t) || (tagScale t != 0 && tagFmt t == F.raw32)
    || decide (2 ≤ tagLayout t) || t.extractLsb' 14 2 != 0

/-- The element formats of the matrix array (R188). -/
def matrixFmt (f : Fmt) : Bool := f == F.f32 || f == F.f16 || f == F.bf16 || f == F.l8 || f == F.l6

/-- Format elements that share a scale (R105). -/
def scaleGroup (mode : Nat) : Nat := if mode = 1 then 32 else 64

/-! ## m-handles (R185) -/

def mhBase (m : BitVec 128) : Nat := (m.extractLsb' 0 20).toNat
def mhPitch (m : BitVec 128) : Nat := (m.extractLsb' 24 16).toNat
def mhRows (m : BitVec 128) : Nat := (m.extractLsb' 40 13).toNat
def mhCols (m : BitVec 128) : Nat := (m.extractLsb' 64 13).toNat
def mhTag (m : BitVec 128) : TileTag := m.extractLsb' 80 16
def mhPlane (m : BitVec 128) : Nat := (m.extractLsb' 96 20).toNat

/-- The m-handle with another ALG in its tag. -/
def mhSetAlg (m : BitVec 128) (n : Nat) : BitVec 128 :=
  (m &&& ~~~ (0xF#128 <<< 88)) ||| (BitVec.ofNat 128 (n % 16) <<< 88)

/-- Not set, or a plane size without planes (R188). -/
def mhUnset (m : BitVec 128) : Bool := mhRows m == 0 || mhCols m == 0 || (mhPlane m != 0 && tagLayout (mhTag m) == 0)

/-- Where component c of element e of row r stands: the row's first byte, and the format element in it. -/
def mhPlace (m : BitVec 128) (k r e c : Nat) : Nat × Nat :=
  if tagLayout (mhTag m) = 0 then (mhBase m + r * mhPitch m, e * k + c)
  else (mhBase m + c * mhPlane m + r * mhPitch m, e)

/-- The format element by which a scale group is counted (R185). -/
def mhScaleIdx (m : BitVec 128) (k e c : Nat) : Nat := if tagLayout (mhTag m) = 0 then e * k + c else c * mhCols m + e

/-- The bytes that format element j of a row holds (R84). -/
def elemBytes (w row j : Nat) : List Nat :=
  (List.range ((w * j + w - 1) / 8 - w * j / 8 + 1)).map fun i => row + w * j / 8 + i

/-- Format element j of a row, by its bytes. -/
def elemFrom (get : Nat → Byte) (w row j : Nat) : Nat :=
  leNat ((elemBytes w row j).map get) / 2 ^ (w * j % 8) % 2 ^ w

/-- The bytes of rows r0 to r0 + nr − 1, elements e0 to e0 + ne − 1, of a tile of k components. -/
def tileBytes (m : BitVec 128) (k r0 nr e0 ne : Nat) : List Nat :=
  ((List.range nr).flatMap fun r => (List.range ne).flatMap fun e => (List.range k).flatMap fun c =>
    let (row, j) := mhPlace m k (r0 + r) (e0 + e) c
    elemBytes (elemBits (tagFmt (mhTag m))) row j).eraseDups

/-- A record that names the stash as a whole. -/
def stashRec : BitVec 128 := 1#128 <<< 127

/-! ## Race records of tiles and slots (R195) -/

/-- Metadata of a tile or slot as a sector's. -/
def metaSector (v : Viewer) (w : Option (Party × Nat)) (rs : List ReadMark) : Sector :=
  { Sector.fresh 0 0 v.ctx v.grid with writer := w, readers := rs, weng := true }

/-- No access to a tile or slot is an atomic one: where its parties stand does not matter. DEDUCED: log entry 66. -/
def metaClash (v : Viewer) (w : Option (Party × Nat)) (rs : List ReadMark) (k : AccKind) : Option (Party × Bool × Bool) :=
  (metaSector v w rs).clash (fun _ => 0) v k

def Tile.clash (t : Tile) (v : Viewer) (k : AccKind) : Option (Party × Bool × Bool) := metaClash v t.writer t.readers k
def LoftSlot.clash (l : LoftSlot) (v : Viewer) (k : AccKind) : Option (Party × Bool × Bool) := metaClash v l.writer l.readers k

/-- A clash at a tile or slot as the lane's end (R195). -/
def State.tileTrap (s : State) (x : Option (Party × Bool × Bool)) : Option LaneEnd := x.map fun y => .trap (s.raceTrap 0 0 y)

def Tile.note (t : Tile) (v : Viewer) (k : AccKind) : Tile :=
  let x := (metaSector v t.writer t.readers).record v k true
  { t with writer := x.writer, readers := x.readers }

def LoftSlot.note (l : LoftSlot) (v : Viewer) (k : AccKind) : LoftSlot :=
  let x := (metaSector v l.writer l.readers).record v k true
  { l with writer := x.writer, readers := x.readers }

/-! ## Accumulator tiles (R186) -/

def Tile.k (t : Tile) : Nat := t.cells.length / 1024

def AccName.tile (n : AccName) (prev : Bool) : Option Tile := if prev then n.prev else n.cur

def Position.accAt (p : Position) (a : Nat) : AccName := (p.acc[a]?).getD ⟨none, none⟩

/-- A tile changed, by its id. -/
def Position.modTile (p : Position) (id : Nat) (f : Tile → Tile) : Position :=
  let g (t : Option Tile) : Option Tile := t.map fun t => if t.id == id then f t else t
  { p with acc := p.acc.map fun n => ⟨g n.cur, g n.prev⟩ }

def Position.tileOf (p : Position) (id : Nat) : Option Tile :=
  p.acc.findSome? fun n => ([n.cur, n.prev].filterMap fun (x : Option Tile) => x).find? (·.id == id)

/-- Banks that the tiles of a position hold. -/
def Position.banks (p : Position) : Nat :=
  (p.acc.map fun n => (n.cur.elim 0 Tile.k) + (n.prev.elim 0 Tile.k)).sum

/-- Free accumulator banks of a core. -/
def State.banksFree (s : State) (core : Nat) : Nat :=
  Config.accBanks - ((s.c.positions.filter fun p => p.core == core && (p.st == .resident || p.st == .stopping)).map
    (·.banks)).sum

/-- A fresh tile: +0 in every cell and component. -/
def Tile.fresh (id k alg : Nat) : Tile :=
  { id := id, tag := BitVec.ofNat 16 (1 + alg * 2 ^ 8 + 2 ^ 12), cells := List.replicate (1024 * k) 0, pending := 0,
    cause := none, front := [], writer := none, readers := [] }

/-- The ways a write meets an accumulator name. -/
inductive Meet where
  | wait
  /-- A fresh tile; the current one becomes the previous when `renames`, and is dropped otherwise. -/
  | bind (renames : Bool)
  | here (t : Tile)
  deriving DecidableEq, Repr

/-- How a write of k components with ALG finds a name (R186, R200); `chain` is a chain, which keeps the tile's algebra.
DESIGN CHOICE: log entry 158. -/
def State.meetAcc (s : State) (p : Position) (a : Nat) (new : Bool) (k : Nat) : Meet :=
  let n := p.accAt a
  let free := s.banksFree p.core
  match n.cur with
  | none => if k ≤ free then .bind false else .wait
  | some t =>
    if new then (if n.prev.isNone && decide (k ≤ free) then .bind true else .wait)
    else if t.k = k then .here t
    else if t.pending = 0 && decide (k ≤ free + t.k) then .bind false else .wait

/-- Binding as `meetAcc` answers: the tile that is written, by its id. -/
def State.bindAcc (s : State) (pos a : Nat) (m : Meet) (k alg : Nat) : Nat × State :=
  match m with
  | .here t => (t.id, s)
  | .bind ren =>
    let (id, s1) := s.fresh
    (id, s1.modPos pos (·.modAcc a fun n => ⟨some (Tile.fresh id k alg), if ren then n.cur else n.prev⟩))
  | .wait => (0, s)

/-- The tile that a write clashes on: the one it writes in place. -/
def Meet.clash (m : Meet) (v : Viewer) : Option (Party × Bool × Bool) :=
  match m with
  | .here t => t.clash v .write
  | _ => none

def accName (a : Src) : Nat :=
  match a.spec with
  | .a i => i.toNat
  | _ => 0

/-- A tile as a reader finds it (R186): unbound, still empty, or full. -/
def readTile (c : RCtx) (a : Src) (prev : Bool) : LaneStep Tile :=
  match (c.pos.accAt (accName a)).tile prev with
  | none => .trap (opTrap .accUnbound 1 a.spec)
  | some t =>
    if t.pending = 0 then .ok t
    else if a.trap then .trap (opTrap .emptyRead 1 a.spec) else .park (.acc (accName a))

/-- Reading a tile: noted in its race record; it acquires what the writers released (R233). L=1 releases it. -/
def State.tookTile (s : State) (c : RCtx) (v : Viewer) (t : Tile) : State :=
  (s.modPos c.pos.id (·.modTile t.id (·.note v .read))).modWarp v.wk (·.acquire c.arm t.front)

/-- A thread has not gone past an instruction of a clause. -/
def Thread.toCome (t : Thread) (hdr idx : Nat) : Bool :=
  t.st != .exited && ((t.pc == hdr && decide (t.idx ≤ idx))
    || (t.inHandler && t.tpc.toNat == hdr && decide ((t.tstate.extractLsb' 8 4).toNat ≤ idx)))

/-- Some lanes of an arm complete a read of a tile with L=1, at the packet's instruction: those of the arm that have not gone
past it are waited for (`State.passUses`). -/
def State.noteUse (s : State) (c : RCtx) (acc : Nat) (prev : Bool) : State :=
  match s.cur with
  | .packet core slot =>
    match s.packet? core slot with
    | none => s
    | some p =>
      s.modWarp c.wk fun w =>
        if w.uses.any fun u => u.hdr == p.hdr && u.idx == p.idx && u.lanes.contains c.lane then w
        else
          let lanes := (((w.armOf c.arm).map (·.lanes)).getD []).filter fun l => (w.threads[l]?).any (·.toCome p.hdr p.idx)
          { w with uses := w.uses ++ [⟨p.hdr, p.idx, acc, prev, lanes⟩] }
  | _ => s

/-- A read with L=1 releases the tile once the instruction has completed in every lane of its arm (R197). DEDUCED: log entry 46. -/
def lastUse (a : Src) (prev : Bool) (f : ArmFn) : ArmFn := fun s cs =>
  match f s cs, cs with
  | (.done o, s1), c :: _ =>
    let some' := o.lanes.any fun l => match l.2 with
      | .out _ => true
      | _ => false
    (.done o, if a.last && some' then s1.noteUse c (accName a) prev else s1)
  | r, _ => r

/-- A read of a tile without its cells: it acquires what the writers released (R233). DEDUCED: log entry 66. -/
def acquireTile (a : Src) (f : ArmFn) : ArmFn := fun s cs =>
  match f s cs, cs with
  | (.done o, s1), c :: _ =>
    let f := (((c.pos.accAt (accName a)).cur).map (·.front)).getD []
    (.done o, if o.lanes.any (fun l => match l.2 with
        | .out _ => true
        | _ => false) then s1.modWarp c.wk (·.acquire c.arm f) else s1)
  | r, _ => r

/-- R170: tag read. DEDUCED: log entry 122. -/
def execTagr (g : Guard) (d : Dst) (a : Src) (s : State) : Host.Outcome State Fault Refusal :=
  let tile : Bool := match a.spec with
    | .a _ => true
    | _ => false
  let f : ArmFn := pureArm (laneWise (laneTagr d a))
  .next (s.runArms { g := g, dsts := [d.spec] } (if tile then lastUse a false (acquireTile a f) else f))

/-- How a read of a tile counts for race detection: one that releases it counts as `arel` does. -/
def tileKind (a : Src) : AccKind := if a.last then .write else .read

/-! ## mfence (R199) -/

/-- An `lload` of the position, which happens before the viewer, is in flight. -/
def State.loading (s : State) (v : Viewer) : Bool :=
  s.c.ops.any fun o => o.pos == v.wk.pos && (o.party == v.party || before v.front o.party o.epoch) && match o.kind with
    | .lload .. => true
    | _ => false

/-- Every stash write that happens before is visible to the matrix operations that these threads issue from now on (R194). -/
def State.mfenceBy (s : State) (v : Viewer) (lanes : List Nat) : State :=
  s.modWarp v.wk (·.modThreads lanes fun t => { t with mfence := (s.nextId, frontPut v.front v.party v.epoch) })

/-- The threads that execute an instruction: in a scalar clause, all of the arm. -/
def actors (cs : List RCtx) : List Nat :=
  cs.flatMap fun c => if c.thread.isSome then [c.lane] else ((c.warp.armOf c.arm).map (·.lanes)).getD []

/-- R199: `mfence`. -/
def execMfence (g : Guard) (s : State) : Host.Outcome State Fault Refusal :=
  .next (s.runArms { g := g } fun s cs =>
    match cs with
    | [] => (.done { lanes := [] }, s)
    | c :: _ =>
      match s.viewer c.wk c.arm with
      | some v => if s.loading v then (.park .fence, s) else (.done { lanes := [] }, s.mfenceBy v (actors cs))
      | none => (.done { lanes := [] }, s))

/-- What deterministic mode does ahead of an `mma` or an `ald` (R194): none when the `mfence` has to wait. -/
def State.detFence (s : State) (v : Viewer) (lane : Nat) : Option State :=
  if !v.det then some s else if s.loading v then none else some (s.mfenceBy v [lane])

/-! ## lload (R198) -/

def ldTtag (d : BitVec 64) : TileTag := d.extractLsb' 0 16
def ldRows (d : BitVec 64) : Nat := (d.extractLsb' 16 13).toNat + 1
def ldCols (d : BitVec 64) : Nat := (d.extractLsb' 29 8).toNat + 1
def ldCtag (d : BitVec 64) : Nat := (d.extractLsb' 37 6).toNat
def ldOff (d : BitVec 64) : Nat := (d.extractLsb' 48 16).toNat

/-- Bytes of a column of a panel (R183), and its length in the slice. -/
def columnBytes (rows k w : Nat) : Nat := (rows * k * w + 7) / 8
def columnSpan (n : Nat) : Nat := (n + 63) / 64 * 64

/-- Where column c of a load is read from: offsets, or none where out of bounds (R198). -/
def loadColumn (hs : BitVec 128) (first off n c : Nat) : List (Option Nat) :=
  (List.range n).map fun j =>
    if decide (first + c < recExtent hs) && decide (off + n ≤ recStride hs) && recInBounds hs (first + c) 0 1 then
      some (recAddr hs (first + c) (off + j)) else none

/-- The first column of a load that is out of bounds. -/
def loadBeyond (hs : BitVec 128) (first off n cols : Nat) : Option Nat :=
  (List.range cols).find? fun c => !(decide (first + c < recExtent hs) && decide (off + n ≤ recStride hs)
    && recInBounds hs (first + c) 0 1)

/-- The checks of `lload`, in order (R198). DESIGN CHOICE: log entry 156. -/
def State.lloadCheck (s : State) (c : RCtx) (hs : BitVec 128) (first : Nat) (d : BitVec 64) (x : Src) :
    Except Trap (Nat × List (List (Option Nat))) :=
  let bad (t : Cause) : Except Trap (Nat × List (List (Option Nat))) := .error (opTrap t 3 x.spec)
  let at' := recAddr hs first (ldOff d)
  match (s.recExists c.pos.ctx hs at').or (s.checkRec c.pos.ctx hs at' false) with
  | some t => .error t
  | none =>
    if tagBad (ldTtag d) then bad .tagIllformed
    else if !matrixFmt (tagFmt (ldTtag d)) then bad .formatMismatch
    else match (s.ctxOf c.pos.ctx).bind (·.algAt (tagAlg (ldTtag d))) with
      | none => bad .algebraMismatch
      | some r =>
        let n := columnBytes (ldRows d) (algK r) (elemBits (tagFmt (ldTtag d)))
        if s.stageTags c ≤ ldCtag d then .error noTag
        else if d.extractLsb' 43 5 != 0 || decide (8192 < ldRows d)
            || decide (16384 < (ldCols d + 31) / 32 * columnSpan n) then bad .paramBlockBad
        else
          match (if recOob hs then none else loadBeyond hs first (ldOff d) n (ldCols d)) with
          | some k => .error (memTrap .bounds (recObj hs) (recAddr hs (first + k) (ldOff d)))
          | none =>
            let cols := (List.range (ldCols d)).map fun k => loadColumn hs first (ldOff d) n k
            match stashBeyond (s.stashLimit c) hs cols.flatten with
            | some t => .error t
            | none => .ok (algK r, cols)

/-- A chain in flight that reads a Loft slot of a position. -/
def State.slotRead (s : State) (pos l : Nat) : Bool :=
  s.c.ops.any fun o => o.pos == pos && match o.kind with
    | .chain c => (c.block.extractLsb' 40 3).toNat == l
    | _ => false

def Position.loftAt (p : Position) (l : Nat) : LoftSlot := (p.loft[l]?).getD LoftSlot.init

def Position.modLoft (p : Position) (l : Nat) (f : LoftSlot → LoftSlot) : Position :=
  { p with loft := p.loft.mapIdx fun i x => if i = l then f x else x }

/-- R198: a panel on its way to a Loft slot. DEDUCED: log entry 53. -/
def State.issueLload (s : State) (c : RCtx) (l : Nat) (hs : BitVec 128) (first : Nat) (d : BitVec 64) (x : Src)
    (srcs : List Src) : LaneEnd × State :=
  match s.lloadCheck c hs first d x, s.viewer c.wk c.arm, s.posOf c.pos.id with
  | .error t, _, _ => (.trap t, s)
  | .ok (k, cols), some v, some p =>
    if (p.loftAt l).st == .loading || s.slotRead p.id l then (.park (.loft l), s)
    else if !p.tagsTake [ldCtag d] then (.park .backPressure, s)
    else match (s.tileTrap ((p.loftAt l).clash v .write)).or (s.racesAt v p hs cols.flatten .read) with
      | some e => (e, s)
      | none =>
        let s1 := (s.recordAll v p hs cols.flatten .read).modPos p.id (·.modLoft l fun y =>
          { (y.note v .write) with st := .loading, ttag := ldTtag d, rows := ldRows d, cols := ldCols d, data := [] })
        (.out { frees := srcs }, s1.issueOp v c [ldCtag d] (.lload l hs first d k) 1 false)
  | _, _, _ => (.out {}, s)

/-- DEDUCED: log entry 53. -/
def execLload (g : Guard) (l : BitVec 3) (hs : BitVec 4) (x : Src) (q : Src) (s : State) : Host.Outcome State Fault Refusal :=
  .next (s.runArms { g := g, early := [x.spec] } (epochGuard (perLane
    (fun _ c => (handleOf c hs).bind fun r => (rdNat c 2 x).bind fun i => (rdRaws c 3 q 2).map fun w =>
      (r, i, (quadBits w).setWidth 64))
    (fun s c a => s.issueLload c l.toNat a.1 a.2.1 a.2.2 q (x :: srcRun q 2)))))

/-- The contents of a slot are replaced: errors in them are gone (R410). -/
def State.repairLoft (s : State) (pos l : Nat) : State :=
  s.modC fun c => { c with bad := c.bad.filter fun k => !(decide (loftAt pos l 0 0 ≤ 32 * k) && decide (32 * k < loftAt pos (l + 1) 0 0)) }

/-- R184: the load of a slot ends: full, or void with its cause. -/
def execLloadComplete (id : Nat) (s : State) : Host.Outcome State Fault Refusal :=
  .next <|
    match s.opOf id with
    | none => s
    | some o =>
      match o.kind, s.placeOf o.pos with
      | .lload l hs first d k, some p =>
        if s.opWaits o then s
        else
          let n := columnBytes (ldRows d) k (elemBits (tagFmt (ldTtag d)))
          let cols := (List.range (ldCols d)).map fun c => loadColumn hs first (ldOff d) n c
          let fail (s : State) (x : Cause) : State :=
            (s.modPos p.id (·.modLoft l fun y => { y with st := .void })).finishOp o (some x)
          match s.engMeets p hs cols.flatten false with
          | .ok =>
            let (bs, s1) := cols.foldl (fun x c => let (b, s) := x.2.engReads o p hs c; (x.1 ++ [b], s)) ([], s)
            ((s1.modPos p.id (·.modLoft l fun y => { y with st := .full, data := bs })).repairLoft p.id l).finishOp o none
          | .err x => fail s x
          | .fault obj page =>
            match s.opFaults o obj page false with
            | (true, s1) => fail s1 .pageFaultFatal
            | (false, s1) => s1
          | .line b => s.wantLine p b o.party true
      | _, _ => s

/-! ## azero, arel, mwait, amov (R199 to R201) -/

/-- A write of an accumulator issues: its release is what readers of the tile acquire (R233). -/
def State.wroteTile (s : State) (c : RCtx) (v : Viewer) (tid : Nat) (f : Tile → Tile) : State :=
  let r := s.releaseOf v.wk c.arm v
  s.modPos c.pos.id (·.modTile tid fun t => f { (t.note v .write) with front := frontJoin t.front r })

/-- R200: a tile of slot N, fresh or zeroed in place. DEDUCED: log entry 54. -/
def execAzero (n : BitVec 4) (new : Bool) (g : Guard) (a : BitVec 5) (s : State) : Host.Outcome State Fault Refusal :=
  .next (s.runArms { g := g } (epochGuard (perLane (fun _ _ => .ok ())
    (fun s c _ =>
      match s.viewer c.wk c.arm, s.posOf c.pos.id with
      | some v, some p =>
        let (r, s0) := s.algUse v n.toNat
        match r with
        | none => (.trap { cause := .algebraMismatch }, s0)
        | some r =>
          let m := s0.meetAcc p a.toNat new (algK r)
          let busy := match m with
            | .here t => t.pending != 0
            | _ => false
          if m == .wait || busy then (.park (.acc a.toNat), s)
          else match s.tileTrap (m.clash v) with
            | some e => (e, s0)
            | none =>
              let (tid, s1) := s0.bindAcc p.id a.toNat m (algK r) n.toNat
              (.out {}, (s1.wroteTile c v tid fun t =>
                { t with tag := (Tile.fresh 0 0 n.toNat).tag, cells := List.replicate (1024 * algK r) 0 }).modWarp
                  v.wk (·.tick c.arm))
      | _, _ => (.out {}, s)))))

/-- R201: the tile released, once it is full. DEDUCED: the lanes of one arm release it together, as a read with L=1
does (R197), so that none finds it gone (log entry 46). DEDUCED: log entry 46. DEDUCED: log entry 54. -/
def execArel (prev : Bool) (g : Guard) (a : Src) (s : State) : Host.Outcome State Fault Refusal :=
  .next (s.runArms { g := g } (lastUse { a with last := true } prev (perLane (fun _ _ => .ok ())
    (fun s c _ =>
      match s.viewer c.wk c.arm, s.posOf c.pos.id with
      | some v, some p =>
        match readTile { c with pos := p } { a with trap := false } prev with
        | .ok t =>
          (match s.tileTrap (t.clash v .write) with
          | some e => (e, s)
          | none => (.out {}, s))
        | .trap t => (.trap t, s)
        | .park w => (.park w, s)
        | .stall => (.park .backPressure, s)
      | _, _ => (.out {}, s)))))

/-- R199: the thread goes on once the tile is full. -/
def execMwait (prev : Bool) (g : Guard) (a : Src) (s : State) : Host.Outcome State Fault Refusal :=
  .next (s.runArms { g := g } (lastUse a prev (epochGuard (perLane (fun _ c => (readTile c a prev).parks (.tile (accName a) prev))
    (fun s c t =>
      match s.viewer c.wk c.arm with
      | none => (.out {}, s)
      | some v =>
        match s.tileTrap (t.clash (v.after t.front) (tileKind a)), t.cause with
        | some e, _ => (e, s)
        | none, some (x, tag) => (.trap (tagTrap x tag), s)
        | none, none => (.out { frees := [a] }, s.tookTile c v t))))))

/-- R201: one element of a tile to a lane register. -/
def execAmov (comp : BitVec 3) (prev : Bool) (g : Guard) (d : Dst) (a : Src) (i : Src) (s : State) : Host.Outcome State Fault Refusal :=
  .next (s.runArms { g := g, dsts := [d.spec], early := [i.spec] } (lastUse a prev (epochGuard (perLane
    (fun _ c => (readTile c a prev).bind fun t => (rdNat c 2 i).bind fun n =>
      (LaneStep.require (decide (n < 1024)) (opTrap .elementRange 2 i.spec)).bind fun _ =>
      (LaneStep.require (decide (comp.toNat < t.k)) (opTrap .elementRange 1 a.spec)).bind fun _ =>
      (wrOk c (fileDst d)).map fun _ => (t, n))
    (fun s c x =>
      match s.viewer c.wk c.arm with
      | none => (.out {}, s)
      | some v =>
        match s.tileTrap (x.1.clash (v.after x.1.front) (tileKind a)) with
        | some e => (e, s)
        | none =>
          let (o, s1) := (s.tookTile c v x.1).deliver v c d ⟨(x.1.cells[1024 * comp.toNat + x.2]?).getD 0, F.f32⟩ [a, i]
          (.out o, s1))))))

/-! ## ald and ast (R200) -/

/-- Rows and columns of a tile that a handle meets. -/
def mhSpan (m : BitVec 128) : Nat × Nat := (min (mhRows m) 32, min (mhCols m) 32)

/-- The checks that `ald` and `ast` share: the handle, the stash, the tag number, the tile tag, the format.
DEDUCED: log entries 49 and 123.
DESIGN CHOICE: log entry 156. -/
def State.tileCheck (s : State) (c : RCtx) (m : BitVec 128) (tag : Nat) (field : Nat) (sp : Spec) :
    Except Trap (BitVec 512 × List Nat) :=
  let bad (t : Cause) : Except Trap (BitVec 512 × List Nat) := .error (opTrap t field sp)
  let k := ((s.ctxOf c.pos.ctx).bind (·.algAt (tagAlg (mhTag m)))).elim 1 algK
  let (nr, nc) := mhSpan m
  let bs := tileBytes m k 0 nr 0 nc
  if mhUnset m || bs.any fun b => decide (s.stashLimit c ≤ b) then bad .paramBlockBad
  else if s.stageTags c ≤ tag then .error noTag
  else if tagBad (mhTag m) then bad .tagIllformed
  else if !matrixFmt (tagFmt (mhTag m)) || tagScale (mhTag m) != 0 then bad .formatMismatch
  else match (s.ctxOf c.pos.ctx).bind (·.algAt (tagAlg (mhTag m))) with
    | none => bad .algebraMismatch
    | some r => .ok (r, bs)

def stashOffs (bs : List Nat) : List (Option Nat) := bs.map some

/-- One lane's `ald` issues. -/
def State.issueAld (s : State) (c : RCtx) (new : Bool) (a : Nat) (m : BitVec 128) (tag : Nat) (ms : Spec) (srcs : List Src) :
    LaneEnd × State :=
  match s.tileCheck c m tag 1 ms, s.viewer c.wk c.arm, s.posOf c.pos.id with
  | .error t, _, _ => (.trap t, s)
  | .ok (r, bs), some v, some p =>
    let meets := s.meetAcc p a new (algK r)
    match s.detFence v c.lane with
    | none => (.park .fence, s)
    | some s0 =>
      if meets == .wait || !p.tagsTake [tag] then (.park (.acc a), s)
      else match (s.tileTrap (meets.clash v)).or (s0.racesAt v p stashRec (stashOffs bs) .read) with
        | some e => (e, s)
        | none =>
          let (tid, s1) := s0.bindAcc p.id a meets (algK r) (tagAlg (mhTag m))
          let s2 := (s1.wroteTile c v tid fun t =>
            { t with pending := t.pending + 1, tag := (Tile.fresh 0 0 (tagAlg (mhTag m))).tag }).recordAll v p stashRec
              (stashOffs bs) .read
          (.out { frees := srcs }, s2.issueOp v c [tag] (.ald a tid m (algK r)) 1 true)
  | _, _, _ => (.out {}, s)

/-- R200: a tile loaded from the stash. -/
def execAld (new : Bool) (g : Guard) (a : BitVec 5) (ms : BitVec 4) (t : Src) (s : State) : Host.Outcome State Fault Refusal :=
  .next (s.runArms { g := g, early := [t.spec] } (epochGuard (perLane
    (fun _ c => (mhandleOf c ms).bind fun m => (rdNat c 2 t).map fun n => (m, n))
    (fun s c x => s.issueAld c new a.toNat x.1 x.2 (.m ms) [t]))))

/-- The accumulator name that an operation writes. -/
def OpKind.accName (k : OpKind) : Option Nat :=
  match k with
  | .chain c => some (c.block.extractLsb' 80 5).toNat
  | .ald a _ _ _ => some a
  | _ => none

/-- No earlier operation is still to write a name: its writers take effect in the order they issue (R186, R191). -/
def State.tileTurn (s : State) (o : EngOp) : Bool :=
  !(s.c.ops.any fun q => decide (q.seq < o.seq) && q.pos == o.pos && q.kind.accName.isSome && q.kind.accName == o.kind.accName)

/-- A lookup of bytes that an engine read. -/
def byteMap (bs : List Nat) (vs : List Byte) : Nat → Byte := fun b => ((bs.zip vs).lookup b).getD 0

/-- The tile's write is done: it is full once nothing is pending, with the cause of its last writer. -/
def Tile.landed (t : Tile) (cells : List Word) (x : Option (Cause × Nat)) : Tile :=
  { t with cells := cells, pending := t.pending - 1, cause := x }

/-- Stash bytes as the matrix engine meets them: window lines that are to be filled, or an error. -/
def State.stashMeets (s : State) (p : Position) (bs : List Nat) (wr : Bool) : EngAt :=
  (bs.findSome? fun b => match s.engAt p stashRec b wr false with
    | .ok | .err .lentWrite => none
    | e => some e).getD .ok

/-- The cells of a loaded tile: element values widened exactly, +0 elsewhere. -/
def aldCells (m : BitVec 128) (k : Nat) (get : Nat → Byte) : List Word :=
  let f := tagFmt (mhTag m)
  let (nr, nc) := mhSpan m
  (List.range (1024 * k)).map fun i =>
    let (c, r, n) := (i / 1024, i % 1024 / 32, i % 32)
    if r < nr ∧ n < nc then
      let (row, j) := mhPlace m k r n c
      BitVec.ofNat 32 (widenF32Bits f (elemFrom get (elemBits f) row j))
    else 0

/-- R200: the load of a tile lands. -/
def execAldComplete (id : Nat) (s : State) : Host.Outcome State Fault Refusal :=
  .next <|
    match s.opOf id with
    | none => s
    | some o =>
      match o.kind, s.placeOf o.pos with
      | .ald _ tid m k, some p =>
        if s.opWaits o || !s.tileTurn o then s
        else
          let (nr, nc) := mhSpan m
          let bs := tileBytes m k 0 nr 0 nc
          let tag := o.tags.headD 0
          match s.stashMeets p bs false with
          | .ok =>
            let (vs, s1) := s.engReads o p stashRec (stashOffs bs)
            (s1.modPos p.id (·.modTile tid (·.landed (aldCells m k (byteMap bs vs)) none))).finishOp o none
          | .err x => (s.modPos p.id (·.modTile tid fun t => t.landed t.cells (some (x, tag)))).finishOp o (some x)
          | .fault obj page =>
            match s.opFaults o obj page false with
            | (true, s1) => (s1.modPos p.id (·.modTile tid fun t =>
                t.landed t.cells (some (.pageFaultFatal, tag)))).finishOp o (some .pageFaultFatal)
            | (false, s1) => s1
          | .line b => s.wantLine p b o.party true
      | _, _ => s

/-- One lane's `ast` issues: it reads the tile, and the handle takes the tile's algebra. DESIGN CHOICE: log entry 52. DEDUCED: log entry 123. -/
def State.issueAst (s : State) (c : RCtx) (r : Rnd) (md : BitVec 4) (m : BitVec 128) (t : Tile) (tag : Nat) (srcs : List Src)
    (kind : AccKind) : LaneEnd × State :=
  match s.tileCheck c m tag 0 (.m md), s.viewer c.wk c.arm, s.posOf c.pos.id with
  | .error x, _, _ => (.trap x, s)
  | .ok (rec', bs), some v, some p =>
    if algK rec' != t.k then (.trap (opTrap .formatMismatch 0 (.m md)), s)
    else if !p.tagsTake [tag] then (.park .backPressure, s)
    else match (s.tileTrap (t.clash (v.after t.front) kind)).or (s.racesAt (v.after t.front) p stashRec (stashOffs bs) .write) with
      | some e => (e, s)
      | none =>
        let s1 := (s.tookTile c v t).recordAll v p stashRec (stashOffs bs) .write
        let s2 := s1.modWarp v.wk (·.putHandle (16 + md.toNat) (mhSetAlg m (tagAlg t.tag)))
        (.out { frees := srcs }, s2.issueOp v c [tag] (.ast m r t.k t.cells) 1 false)
  | _, _, _ => (.out {}, s)

/-- R200: a tile stored to the stash. -/
def execAst (r : Rnd) (prev : Bool) (g : Guard) (md : BitVec 4) (a : Src) (t : Src) (s : State) : Host.Outcome State Fault Refusal :=
  .next (s.runArms { g := g, early := [t.spec] } (lastUse a prev (epochGuard (perLane
    (fun _ c => (mhandleOf c md).bind fun m => (readTile c a prev).bind fun x => (rdNat c 2 t).map fun n => (m, x, n))
    (fun s c x => s.issueAst c r md x.1 x.2.1 x.2.2 [a, t] (tileKind a))))))

/-- One element as `ast` converts it. -/
def astElem (f : Fmt) (r : Rnd) (w : Word) : Nat × Flags :=
  if f == F.f32 then (w.toNat, {})
  else
    let x := convertTo f r 0 (ieeeVal F.f32 w.toNat)
    (x.1, { x.2 with iv := false })

/-- The elements a store of a tile writes: the row's first byte, the place in it, and the converted element. -/
def astElems (m : BitVec 128) (r : Rnd) (k : Nat) (cells : List Word) : List (Nat × Nat × Nat × Flags) :=
  let (nr, nc) := mhSpan m
  (List.range nr).flatMap fun i => (List.range nc).flatMap fun n => (List.range k).map fun c =>
    let (row, j) := mhPlace m k i n c
    let e := astElem (tagFmt (mhTag m)) r ((cells[1024 * c + 32 * i + n]?).getD 0)
    (row, j, e.1, e.2)

/-- One byte of a stored tile: each bit from the element that holds it; a bit past a row's end is not stated, and is a
free value. -/
def astByte (es : List (Nat × Nat × Nat × Flags)) (w : Nat) (b : Nat) (fill : Byte) : Byte :=
  BitVec.ofNat 8 (((List.range 8).map fun i =>
    let hit := es.find? fun e => decide (8 * e.1 + w * e.2.1 ≤ 8 * b + i) && decide (8 * b + i < 8 * e.1 + w * e.2.1 + w)
    match hit with
    | some e => e.2.2.1 / 2 ^ (8 * b + i - (8 * e.1 + w * e.2.1)) % 2 * 2 ^ i
    | none => fill.toNat / 2 ^ i % 2 * 2 ^ i).sum)

/-- R200: the store of a tile is done; MSTAT takes its flags (R193). DESIGN CHOICE: log entry 52. -/
def execAstComplete (id : Nat) (s : State) : Host.Outcome State Fault Refusal :=
  .next <|
    match s.opOf id with
    | none => s
    | some o =>
      match o.kind, s.placeOf o.pos with
      | .ast m r k cells, some p =>
        if s.opWaits o then s
        else
          let es := astElems m r k cells
          let w := elemBits (tagFmt (mhTag m))
          let bs := (es.flatMap fun e => elemBytes w e.1 e.2.1).eraseDups
          match s.stashMeets p bs true with
          | .ok =>
            let s1 := bs.foldl (fun s b =>
              let (fill, s1) := s.drawByte
              s1.engStash p.id b (astByte es w b fill)) s
            (s1.modBlock o.pos o.stage fun b => { b with mstat := raiseMstat b.mstat (joinAll (es.map (·.2.2.2))) }).finishOp o none
          | .err x => s.finishOp o (some x)
          | .fault obj page =>
            match s.opFaults o obj page false with
            | (true, s1) => s1.finishOp o (some .pageFaultFatal)
            | (false, s1) => s1
          | .line b => s.wantLine p b o.party true
      | _, _ => s

end Sys2Proof.Machine
end

