-- ==== Sys2Proof/Machine/Matrix.lean ====
section
/-! DEFINITION. The matrix array: the parameter block and its checks (R187, R188), the chain (R189 to R192), and `alg`
(R202). -/

namespace Sys2Proof.Machine

/-! ## The parameter block (R187) -/

def pbAh (b : BitVec 512) : Nat := (b.extractLsb' 0 4).toNat
def pbArow (b : BitVec 512) : Nat := (b.extractLsb' 8 13).toNat
def pbAcol (b : BitVec 512) : Nat := (b.extractLsb' 24 13).toNat
def pbSlot (b : BitVec 512) : Nat := (b.extractLsb' 40 3).toNat
def pbLgrp (b : BitVec 512) : Nat := (b.extractLsb' 48 8).toNat
def pbBrow (b : BitVec 512) : Nat := (b.extractLsb' 64 13).toNat
def pbAcc (b : BitVec 512) : Nat := (b.extractLsb' 80 5).toNat
def pbM (b : BitVec 512) : Nat := (b.extractLsb' 88 6).toNat + 1
def pbN (b : BitVec 512) : Nat := (b.extractLsb' 96 6).toNat + 1
def pbKe (b : BitVec 512) : Nat := (b.extractLsb' 104 13).toNat
def pbAlg (b : BitVec 512) : Nat := (b.extractLsb' 120 4).toNat
def pbNew (b : BitVec 512) : Bool := b.getLsbD 124
def pbConjA (b : BitVec 512) : Bool := b.getLsbD 125
def pbConjB (b : BitVec 512) : Bool := b.getLsbD 126
def pbRev (b : BitVec 512) : Bool := b.getLsbD 127
def pbSah (b : BitVec 512) : Nat := (b.extractLsb' 128 4).toNat
def pbSav (b : BitVec 512) : Bool := b.getLsbD 132
def pbSbh (b : BitVec 512) : Nat := (b.extractLsb' 136 4).toNat
def pbSbv (b : BitVec 512) : Bool := b.getLsbD 140
def pbCtag (b : BitVec 512) : Nat := (b.extractLsb' 144 6).toNat

/-- A reserved bit of the block is set. -/
def pbReserved (b : BitVec 512) : Bool :=
  b.extractLsb' 4 4 != 0 || b.extractLsb' 21 3 != 0 || b.extractLsb' 37 3 != 0 || b.extractLsb' 43 5 != 0
    || b.extractLsb' 56 8 != 0 || b.extractLsb' 77 3 != 0 || b.extractLsb' 85 3 != 0 || b.extractLsb' 94 2 != 0
    || b.extractLsb' 102 2 != 0 || b.extractLsb' 117 3 != 0 || b.extractLsb' 133 3 != 0 || b.extractLsb' 141 3 != 0
    || b.extractLsb' 150 362 != 0

/-- Chunk length in format elements (R107). -/
def chunkLen (f : Fmt) : Nat :=
  if f == F.l8 then 32 else if f == F.l6 then 64 else if f == F.f32 then 4 else 16

/-- E: algebra elements of one chunk (R107, R187). -/
def chunkElems (f : Fmt) (k : Nat) : Nat := max 1 (chunkLen f / k)

/-! ## What a chain reads -/

/-- Scale groups of rows r0 to r0 + nr − 1 of a tile that serves elements e0 to e0 + ne − 1: the bytes of the scale
array that are read. DEDUCED: log entry 56. -/
def scaleBytes (sm : BitVec 128) (mode r0 nr : Nat) (idx : List Nat) : List Nat :=
  let gs := (idx.map (· / scaleGroup mode)).eraseDups
  ((List.range nr).flatMap fun r => gs.flatMap fun g =>
    elemBytes (elemBits (tagFmt (mhTag sm))) (mhBase sm + (r0 + r) * mhPitch sm) g).eraseDups

/-- The element indices by which a run of elements counts its groups. -/
def runIdx (at' : Nat → Nat → Nat) (k e0 ne : Nat) : List Nat :=
  (List.range ne).flatMap fun e => (List.range k).map fun c => at' (e0 + e) c

/-- The scale index of the slot (R105): along K, as the layout packs a column. -/
def slotIdx (l : LoftSlot) (k e c : Nat) : Nat := if tagLayout l.ttag = 0 then e * k + c else c * l.rows + e

/-- Stash bytes of A and of the scale arrays that elements e0 to e0 + ne − 1 of a chain need. DEDUCED: log entry 56. -/
def chainBytes (b : BitVec 512) (hA hSA hSB : BitVec 128) (slot : LoftSlot) (k e0 ne : Nat) : List Nat :=
  let a := tileBytes hA k (pbArow b) (pbM b) (pbAcol b + e0) ne
  let sa := if pbSav b then scaleBytes hSA (tagScale (mhTag hA)) (pbArow b) (pbM b)
      (runIdx (mhScaleIdx hA k) k (pbAcol b + e0) ne) else []
  let sb := if pbSbv b then scaleBytes hSB (tagScale slot.ttag) (32 * pbLgrp b) (pbN b)
      (runIdx (slotIdx slot k) k (pbBrow b + e0) ne) else []
  (a ++ sa ++ sb).eraseDups

/-- A scale array is too small for the rows and groups that a chain reads. -/
def scaleSmall (sm : BitVec 128) (mode rows : Nat) (idx : List Nat) : Bool :=
  decide (mhRows sm < rows) || idx.any fun i => decide (mhCols sm ≤ i / scaleGroup mode)

/-- The format of a scale handle (R185). -/
def scaleFmt (mode : Nat) : Fmt := if mode = 1 then F.n8 else F.f32

/-! ## The checks (R188) -/

/-- The conditions on the slot's record, in the order of R188: the first that fails. DEDUCED: log entry 58. -/
def slotCheck (b : BitVec 512) (hA hSB : BitVec 128) (l : LoftSlot) (k : Nat) : Option Cause :=
  if (pbSbv b != (tagScale l.ttag != 0)) then some .paramBlockBad
  else if tagBad l.ttag then some .tagIllformed
  else if tagFmt l.ttag != tagFmt (mhTag hA) || (pbSbv b && tagFmt (mhTag hSB) != scaleFmt (tagScale l.ttag)) then
    some .formatMismatch
  else if tagAlg l.ttag != pbAlg b then some .algebraMismatch
  else if decide (l.rows < pbBrow b + pbKe b) || decide (l.cols < 32 * pbLgrp b + pbN b)
      || (pbSbv b && scaleSmall hSB (tagScale l.ttag) (32 * pbLgrp b + pbN b) (runIdx (slotIdx l k) k (pbBrow b) (pbKe b))) then
    some .paramBlockBad
  else none

/-- The conditions of R188 on the block, its handles, the tile and the algebra; the slot's own where it is full. DEDUCED: log entry 55.
DESIGN CHOICE: log entry 157. -/
def State.mmaCheck (s : State) (c : RCtx) (p : Position) (b : BitVec 512) (r : Option (BitVec 512)) (hA hSA hSB : BitVec 128) :
    Option Cause :=
  let slot := p.loftAt (pbSlot b)
  let full := slot.st == .full
  let sc := s.codeOfLane c
  let mode := tagScale (mhTag hA)
  let k := r.elim 1 algK
  let kA := ((s.ctxOf c.pos.ctx).bind (·.algAt (tagAlg (mhTag hA)))).elim 1 algK
  let limit := s.stashLimit c
  let fA := tagFmt (mhTag hA)
  let e := chunkElems fA k
  let on := if full then slotCheck b hA hSB slot k else none
  let at' (x : Cause) : Bool := on == some x
  let sbNow : Bool := full && pbSbv b != (tagScale slot.ttag != 0)
  if pbReserved b || decide (32 < pbM b) || decide (32 < pbN b) || pbKe b == 0
      || decide ((sc.map (·.acc)).getD 0 ≤ pbAcc b) || decide ((sc.map (·.loft)).getD 0 ≤ pbSlot b)
      || mhUnset hA || (pbSav b && mhUnset hSA) || (pbSbv b && mhUnset hSB) || pbSav b != (mode != 0) || sbNow then
    some .paramBlockBad
  else if decide (mhRows hA < pbArow b + pbM b) || decide (mhCols hA < pbAcol b + pbKe b)
      || (chainBytes b hA hSA hSB slot kA 0 (pbKe b)).any fun x => decide (limit ≤ x) then some .paramBlockBad
  else if s.stageTags c ≤ pbCtag b then some .tagUndeclared
  else if tagBad (mhTag hA) || (pbSav b && tagBad (mhTag hSA)) || (pbSbv b && tagBad (mhTag hSB)) || at' .tagIllformed then
    some .tagIllformed
  else if !matrixFmt fA || (pbSav b && tagFmt (mhTag hSA) != scaleFmt mode)
      || (pbSbv b && full && tagFmt (mhTag hSB) != scaleFmt (tagScale slot.ttag)) || at' .formatMismatch then
    some .formatMismatch
  else if r.isNone || tagAlg (mhTag hA) != pbAlg b || at' .algebraMismatch
      || (!pbNew b && (p.accAt (pbAcc b)).cur.any fun t => tagAlg t.tag != pbAlg b) then some .algebraMismatch
  else if pbKe b % e != 0 || pbAcol b % e != 0 || pbBrow b % e != 0 then some .paramBlockBad
  else if at' .paramBlockBad || (pbSav b && scaleSmall hSA mode (pbArow b + pbM b)
      (runIdx (mhScaleIdx hA k) k (pbAcol b) (pbKe b))) then some .paramBlockBad
  else none

/-- The trap of a failed check: a tag number has no operand. -/
def mmaTrap (x : Cause) (sp : Spec) : Trap := if x == .tagUndeclared then noTag else opTrap x 1 sp

/-- Chains issued and not yet complete on a core (R191). -/
def State.chainsOf (s : State) (core : Nat) : List EngOp :=
  s.c.ops.filter fun o => o.core == core && match o.kind with
    | .chain _ => true
    | _ => false

/-- The matrix engine's view of stash bytes at issue (R194). DEDUCED: log entry 55. -/
def State.peekStash (s : State) (v : Viewer) (lane pos off n : Nat) : List Byte × State :=
  let o : EngOp :=
    { id := 0, ctx := v.ctx, pos := pos, stage := v.wk.stage, warp := v.wk.warp, lane := 0, core := 0, party := v.party,
      epoch := v.epoch, front := v.front, grid := v.grid, det := v.det, tags := [], kind := .ald 0 0 0 0, st := .issued,
      seq := 0, sees := s.seesNow v lane 1 true }
  match s.posOf pos with
  | some p => s.engReads o p stashRec ((List.range n).map fun i => some (off + i))
  | none => ([], s)

/-- A chain that meets a void slot ends at once: its tag is done, with TGE and LOFT_VOID (R188). DEDUCED: log entry 58.
DESIGN CHOICE: log entry 154. -/
def State.voidChain (s : State) (c : RCtx) (v : Viewer) (tag : Nat) : State :=
  let f := s.releaseOf v.wk c.arm v
  ((s.modPos c.pos.id (·.modTag tag (·.issue f))).modPos c.pos.id (·.modTag tag (·.complete (some .loftVoid)))).modWarp v.wk
    (·.tick c.arm)

/-- The chain of one lane, its checks passed. -/
def State.startChain (s : State) (c : RCtx) (v : Viewer) (p : Position) (b : BitVec 512) (r : BitVec 512)
    (hA hSA hSB : BitVec 128) (srcs : List Src) : LaneEnd × State :=
  let slot := p.loftAt (pbSlot b)
  let bs := chainBytes b hA hSA hSB slot (algK r) 0 (pbKe b)
  if !p.tagsTake [pbCtag b] then (.park .backPressure, s)
  else if slot.st == .void then (.out { frees := srcs }, s.voidChain c v (pbCtag b))
  else
    let m := s.meetAcc p (pbAcc b) (pbNew b) (algK r)
    if m == .wait || 16 ≤ (s.chainsOf c.pos.core).length then (.park (.acc (pbAcc b)), s)
    else match (s.tileTrap ((m.clash v).or (slot.clash v .read))).or (s.racesAt v p stashRec (stashOffs bs) .read) with
      | some e => (e, s)
      | none =>
        let (tid, s1) := s.bindAcc p.id (pbAcc b) m (algK r) (pbAlg b)
        let s2 := (s1.wroteTile c v tid fun t => { t with pending := t.pending + 1 }).modPos p.id
          (·.modLoft (pbSlot b) (·.note v .read))
        let s3 := s2.recordAll v p stashRec (stashOffs bs) .read
        let lent := (bs.map (· / 64)).eraseDups
        (.out { frees := srcs }, s3.issueOp v c [pbCtag b] (.chain ⟨b, tid, r, hA, hSA, hSB, lent⟩) 1 true)

/-- One lane's `mma` (R188). -/
def State.issueMma (s : State) (c : RCtx) (sp : Src) (off : Nat) : LaneEnd × State :=
  match s.viewer c.wk c.arm, s.posOf c.pos.id with
  | some v, some p =>
    if off % 64 != 0 then (.trap (memTrap .misaligned 0 off), s)
    else if s.stashLimit c < off + 64 then (.trap (memTrap .stashUndeclared 0 off), s)
    else
      match s.checkLine p off 64, s.detFence v c.lane with
      | .trap t, _ => (.trap t, s)
      | .wait w, _ => (.park w, s.wantLine p off c.party false)
      | _, none => (.park .fence, s)
      | _, some s0 =>
        let (bs, s1) := s0.peekStash v c.lane p.id off 64
        let b : BitVec 512 := BitVec.ofNat 512 (leNat bs)
        let used := pbAh b :: ((if pbSav b then [pbSah b] else []) ++ if pbSbv b then [pbSbh b] else [])
        match used.find? fun h => c.warp.busy.contains (16 + h) with
        | some h => (.park (.handle (16 + h)), s)
        | none =>
          let mh (i : Nat) : BitVec 128 := (c.warp.m[i]?).getD 0
          let (hA, hSA, hSB) := (mh (pbAh b), mh (pbSah b), mh (pbSbh b))
          let (r, s2) := s1.algUse v (pbAlg b)
          match s2.mmaCheck c p b r hA hSA hSB, r with
          | some x, _ => (.trap (mmaTrap x sp.spec), s1)
          | none, none => (.trap (mmaTrap .algebraMismatch sp.spec), s1)
          | none, some r =>
            match s2.startChain c v p b r hA hSA hSB [sp] with
            | (.out o, s3) => (.out o, s3)
            | (e, _) => (e, s)
  | _, _ => (.out {}, s)

/-- R199: one chain for each executing lane. -/
def execMma (g : Guard) (p : Src) (s : State) : Host.Outcome State Fault Refusal :=
  .next (s.runArms { g := g, early := [p.spec] } (epochGuard (perLane (fun _ c => rdNat c 1 p) (fun s c off => s.issueMma c p off))))

/-! ## The chain (R189) -/

/-- A factor: its exact value, or for an l format its sign and L on the 1/8 grid (none for a code that reads +0). -/
inductive Factor where
  | val (x : Exact)
  | log (neg : Bool) (l8 : Option Int)
  deriving DecidableEq, Repr

def factorOf (f : Fmt) (bits : Nat) : Factor :=
  if isLog f then .log (lSign f bits) (if lReadsZero f bits then none else some (lField8 f bits))
  else .val (elemVal f bits)

/-- A factor under conjugation (R116, R189). -/
def Factor.flip (b : Bool) : Factor → Factor
  | .val x => .val (flipIf b x)
  | .log n l => .log (n != b) l

/-- The exact product of two factors (R97, R107). -/
def Factor.mul : Factor → Factor → Exact × Bool
  | .val x, .val y => exactMul x y
  | .log m a, .log n b =>
    match a, b with
    | some a, some b => (lLinear (m != n) (a + b), false)
    | _, _ => (.zero false, false)
  | .val x, .log n b => exactMul x (b.elim (.zero false) (lLinear n))
  | .log n b, .val x => exactMul (b.elim (.zero false) (lLinear n)) x

/-- A scale (R105, R98). -/
def scaleVal (mode bits : Nat) : Exact :=
  if mode = 1 then .fin false 1 1 ((min bits 254 : Nat) - 127) else ieeeVal F.f32 bits

/-- What the cells of a chain read: a factor and its scale, of row or column i, element e, component c. -/
structure Panels where
  a : Nat → Nat → Nat → Factor × Option Exact
  b : Nat → Nat → Nat → Factor × Option Exact

/-- A product with the scales of both factors. -/
def scaledMul (x y : Factor × Option Exact) : Exact × Bool :=
  let p := x.1.mul y.1
  [x.2, y.2].foldl (fun p s => match s with
    | some s => let q := exactMul p.1 s; (q.1, p.2 || q.2)
    | none => p) p

/-- The products of one chunk for output component c of cell (r, n) (R107, R189). -/
def chunkTerms (b : BitVec 512) (rec' : BitVec 512) (pn : Panels) (e0 ne r n c : Nat) : List (Exact × Bool) :=
  (List.range ne).flatMap fun e => (algTerms rec' (pbRev b) c).map fun t =>
    let x := pn.a r (e0 + e) t.1
    let y := pn.b n (e0 + e) t.2.1
    let p := scaledMul (x.1.flip (pbConjA b && algConj rec' t.1), x.2) (y.1.flip (pbConjB b && algConj rec' t.2.1), y.2)
    (flipIf t.2.2 p.1, p.2)

/-- One cell through its chunks, from chunk q on: the word, and the flags (R107, R192). -/
def chainCell (b rec' : BitVec 512) (pn : Panels) (e r n c : Nat) : Nat → Nat → Word → Flags → Word × Flags
  | 0, _, w, fl => (w, fl)
  | m + 1, q, w, fl =>
    let s := chunkSum (chunkTerms b rec' pn (q * e) e r n c)
    let a := exactAdd .rne (ieeeVal F.f32 w.toNat) (ieeeVal F.f32 s.1)
    let x := roundRNE F.f32 a.1
    chainCell b rec' pn e r n c m (q + 1) (BitVec.ofNat 32 x.1) (((fl.join s.2).join x.2).join { iv := a.2 })

/-- The cells of a tile after the first `chunks` chunks. -/
def chainCells (b rec' : BitVec 512) (pn : Panels) (e chunks : Nat) (cells : List Word) : List (Word × Flags) :=
  cells.mapIdx fun i w =>
    let (c, r, n) := (i / 1024, i % 1024 / 32, i % 32)
    if r < pbM b ∧ n < pbN b then chainCell b rec' pn e r n c chunks 0 w {} else (w, {})

/-- The scale of format element i of row r, from a scale array. -/
def scaleAt (sm : BitVec 128) (mode : Nat) (get : Nat → Byte) (r i : Nat) : Exact :=
  scaleVal mode (elemFrom get (elemBits (tagFmt (mhTag sm))) (mhBase sm + r * mhPitch sm) (i / scaleGroup mode))

/-- What a chain reads through its handles, from the stash bytes and the slot's columns. -/
def panelsOf (c : ChainOp) (slot : LoftSlot) (get : Nat → Byte) : Panels where
  a r e comp :=
    let k := algK c.algRec
    let f := tagFmt (mhTag c.hA)
    let (row, j) := mhPlace c.hA k (pbArow c.block + r) (pbAcol c.block + e) comp
    (factorOf f (elemFrom get (elemBits f) row j),
      if pbSav c.block then
        some (scaleAt c.hSA (tagScale (mhTag c.hA)) get (pbArow c.block + r) (mhScaleIdx c.hA k (pbAcol c.block + e) comp))
      else none)
  b n e comp :=
    let k := algK c.algRec
    let f := tagFmt slot.ttag
    let col := (slot.data[32 * pbLgrp c.block + n]?).getD []
    let i := slotIdx slot k (pbBrow c.block + e) comp
    (factorOf f (elemFrom (fun b => (col[b]?).getD 0) (elemBits f) 0 i),
      if pbSbv c.block then some (scaleAt c.hSB (tagScale slot.ttag) get (32 * pbLgrp c.block + n) i) else none)

/-! ## Completion (R191, R192) -/

/-- A chain that can run: its slot is not loading, and no earlier writer of its tile is pending. -/
def State.chainReady (s : State) (o : EngOp) : Bool :=
  match o.kind, s.placeOf o.pos with
  | .chain c, some p => (p.loftAt (pbSlot c.block)).st != .loading && s.tileTurn o
  | _, _ => false

/-- The bytes of a slot that elements e0 to e0 + ne − 1 of a chain read, by their addresses. -/
def slotBytes (b : BitVec 512) (pos : Nat) (slot : LoftSlot) (k e0 ne : Nat) : List Nat :=
  (List.range (pbN b)).flatMap fun n => (List.range ne).flatMap fun e => (List.range k).flatMap fun c =>
    (elemBytes (elemBits (tagFmt slot.ttag)) 0 (slotIdx slot k (pbBrow b + e0 + e) c)).map
      (loftAt pos (pbSlot b) (32 * pbLgrp b + n))

/-- A chunk of a chain meets an uncorrectable error in its slot (R192, R410). -/
def State.slotBad (s : State) (p : Position) (c : ChainOp) (slot : LoftSlot) (e0 ne : Nat) : Bool :=
  !s.c.bad.isEmpty && (slotBytes c.block p.id slot (algK c.algRec) e0 ne).any fun a => !s.sound a 1

/-- Chunks that a chain completes before the first that meets trouble, and the trouble. -/
def State.chunksDone (s : State) (p : Position) (c : ChainOp) (slot : LoftSlot) (e : Nat) : Nat → Nat → Nat × EngAt
  | 0, q => (q, .ok)
  | n + 1, q =>
    match s.stashMeets p (chainBytes c.block c.hA c.hSA c.hSB slot (algK c.algRec) (q * e) e) false with
    | .ok => if s.slotBad p c slot (q * e) e then (q, .err .ueRead) else s.chunksDone p c slot e n (q + 1)
    | x => (q, x)

/-- The chain ends with its cells and flags: the lines are returned, the tile may be full, the tag is done (R192). DEDUCED: log entry 51. -/
def State.endChain (s : State) (o : EngOp) (c : ChainOp) (chunks : Nat) (x : Option Cause) : State :=
  match s.placeOf o.pos with
  | none => s
  | some p =>
    let slot := p.loftAt (pbSlot c.block)
    let k := algK c.algRec
    let e := chunkElems (tagFmt (mhTag c.hA)) k
    let bs := chainBytes c.block c.hA c.hSA c.hSB slot k 0 (chunks * e)
    let (vs, s1) := s.engReads o p stashRec (stashOffs bs)
    let out := chainCells c.block c.algRec (panelsOf c slot (byteMap bs vs)) e chunks (((p.tileOf c.tid).map (·.cells)).getD [])
    let fl := joinAll (out.map (·.2))
    (((s1.modPos p.id (·.modTile c.tid (·.landed (out.map (·.1)) (x.map fun x => (x, pbCtag c.block))))).modBlock o.pos o.stage
      fun b => { b with mstat := raiseMstat b.mstat fl }).finishOp o x)

/-- R192: a chain completes, in the order of R191, or stops before the chunk that meets trouble. -/
def execChainComplete (id : Nat) (s : State) : Host.Outcome State Fault Refusal :=
  .next <|
    match s.opOf id with
    | none => s
    | some o =>
      match o.kind, s.placeOf o.pos with
      | .chain c, some p =>
        let earlier := (s.chainsOf o.core).any fun q => decide (q.seq < o.seq) && s.chainReady q
        let slot := p.loftAt (pbSlot c.block)
        let k := algK c.algRec
        if s.opWaits o || !s.chainReady o || earlier then s
        else if slot.st == .void then s.endChain o c 0 (some .loftVoid)
        else if (slotCheck c.block c.hA c.hSB slot k).isSome then s.endChain o c 0 (some .paramBlockBad)
        else
          let e := chunkElems (tagFmt (mhTag c.hA)) k
          match s.chunksDone p c slot e (pbKe c.block / e) 0 with
          | (n, .ok) => s.endChain o c n none
          | (n, .err x) => s.endChain o c n (some x)
          | (n, .fault obj page) =>
            (match s.opFaults o obj page false with
            | (true, s1) => s1.endChain o c n (some .pageFaultFatal)
            | (false, s1) => s1)
          | (_, .line b) => s.wantLine p b o.party true
      | _, _ => s

/-! ## alg (R202) -/

/-- The record loaded into a slot of the whole context; what it held stays in sight of uses not ordered after. DESIGN CHOICE: log entry 156. -/
def Ctx.putAlg (c : Ctx) (n : Nat) (r : BitVec 512) (v : Viewer) : Ctx :=
  { c with alg := c.alg.set n (some r)
           algOld := put (fun o => o.slot == n) ⟨n, c.algAt n, v.party, v.epoch, v.grid⟩ c.algOld }

/-- R202, R114: an algebra record from the stash; reading it is an access. DESIGN CHOICE: log entry 155. -/
def execAlg (n : BitVec 4) (g : Guard) (p : Src) (s : State) : Host.Outcome State Fault Refusal :=
  .next (s.runArms { g := g, early := [p.spec] } (perLane (fun _ c => rdNat c 1 p)
    (fun s c off =>
      match s.viewer c.wk c.arm with
      | none => (.out {}, s)
      | some v =>
        if off % 64 != 0 then (.trap (memTrap .misaligned 0 off), s)
        else if s.stashLimit c < off + 64 then (.trap (memTrap .stashUndeclared 0 off), s)
        else if n.toNat < 5 then (.trap (opTrap .algRecordBad 1 p.spec), s)
        else match s.checkLine c.pos off 64, s.racesAt v c.pos stashRec ((List.range 64).map fun i => some (off + i)) .read with
          | .trap t, _ => (.trap t, s)
          | .wait w, _ => (.park w, s.wantLine c.pos off c.party false)
          | _, some e => (e, s)
          | _, none =>
            let (bs, s1) := s.peekStash v c.lane c.pos.id off 64
            let r : BitVec 512 := BitVec.ofNat 512 (leNat bs)
            if algBad r then (.trap (opTrap .algRecordBad 1 p.spec), s1)
            else
              let s2 := s1.recordAll v c.pos stashRec ((List.range 64).map fun i => some (off + i)) .read
              (.out { frees := [p] }, s2.modCtx v.ctx (·.putAlg n.toNat r v)))))

end Sys2Proof.Machine
end

