-- ==== Sys2Proof/Machine/Sync.lean ====
section
/-! DEFINITION. Barriers (R312 to R317), counted waits (R318) and stage rings (R319, R320). -/

namespace Sys2Proof.Machine

/-- The count of a barrier or of an increment: absent reads as the default (R322). -/
def rdOpt (c : RCtx) (field : Nat) (src : Src) : LaneStep (Option Nat) :=
  if src = Src.absent then .ok none else (rdNat c field src).map some

/-- Values that must agree across the executing lanes (R322): the operand that differs. DEDUCED: log entry 127. -/
def disagree (l : List (List Nat)) (ops : List (Nat × Spec)) : Option Trap :=
  match l with
  | [] => none
  | x :: xs => (ops.zipIdx.find? fun o => xs.any fun y => y[o.2]? != x[o.2]?).map fun o => opTrap .scopeDisagree o.1.1 o.1.2

/-- An instruction that acts once for an arm, on values its lanes agree on. DEDUCED: log entry 127. -/
def agreeArm (read : RCtx → LaneStep (List Nat)) (ops : List (Nat × Spec))
    (act : State → RCtx → List Nat → List Nat → ArmRes × State) : ArmFn := fun s cs =>
  match gather read cs with
  | .stall => (.stall, s)
  | .park w => (.park w, s)
  | .got vs ts =>
    match vs with
    | [] => (.done { lanes := trapEnds ts }, s)
    | (c, x) :: _ =>
      let on := vs.map fun v => v.1.lane
      match disagree (vs.map (·.2)) ops with
      | some t => (.done { lanes := trapEnds ts ++ on.map fun l => (l, .trap t) }, s)
      | none =>
        match act s c on x with
        | (.done o, s1) => (.done { o with lanes := trapEnds ts ++ o.lanes }, s1)
        | r => r

/-- Every executing lane traps. -/
def allTrap (on : List Nat) (t : Trap) : ArmRes := .done { lanes := on.map fun l => (l, .trap t) }

/-- Every executing lane is done. -/
def allOut (on : List Nat) (srcs : List Src) : ArmRes := .done { lanes := on.map fun l => (l, .out { frees := srcs }) }

/-! ## bar (R313, R315) -/

/-- The arm releases to the threads it meets: its accesses are performed at a level, and what it carries is returned. DEDUCED: log entry 65. -/
def State.releaseTo (s : State) (c : RCtx) (lvl : Nat) : Frontier × State :=
  match s.viewer c.wk c.arm with
  | some v => (s.releaseOf v.wk c.arm v, (s.publish v lvl).modWarp v.wk (·.tick c.arm))
  | none => ([], s)

/-- A barrier with a warp's arrival. -/
def BarRes.arrive (r : BarRes) (w need : Nat) (dfl idm : Bool) (f : Frontier) : BarRes :=
  let r := if r.fill then r else { r with fill := true, exp := need, dfl := dfl, idm := idm, arrived := [] }
  { r with arrived := r.arrived ++ [w], fronts := r.fronts ++ [(w, f)] }

/-- `bar.b` in its warp. -/
def State.barAt (s : State) (c : RCtx) (on : List Nat) (k : Nat) (n : Option Nat) (idem : Bool) (srcs : List Src) :
    ArmRes × State :=
  match c.block.bars[k]? with
  | none => (allTrap on { cause := .barrierUndeclared }, s)
  | some r =>
    let live := c.block.liveWarps.length
    let need := n.getD live
    if need = 0 || live < need || (r.fill && (need != r.exp || n.isNone != r.dfl || idem != r.idm)) then
      (allTrap on { cause := .barrierCount }, s)
    else
      let (f, s1) := s.releaseTo c 1
      let s2 := s1.modBlock c.pos.id c.block.stage (·.modBar k (·.arrive c.warp.idx need n.isNone idem f))
      let s3 := s2.parkLanes c.pos.core c.wk c.armLive (.barB k)
      let arr := (if r.fill then r.arrived.length else 0) + 1
      let exp := if r.fill then r.exp else need
      (allOut on srcs, if arr = exp then s3.completeB c.pos.id c.block.stage k else s3)

/-- R313: a warp with an open record does not arrive. -/
def noRecord (f : ArmFn) : ArmFn := fun s cs =>
  match cs with
  | [] => (.done { lanes := [] }, s)
  | c :: _ => if c.warp.recs.isEmpty then f s cs else (allTrap (cs.map (·.lane)) { cause := .scopeDiverged }, s)

/-- R315: the warp arrives at a block barrier. -/
def execBarB (idem : Bool) (g : Guard) (b : Src) (n : Src) (s : State) : Host.Outcome State Fault Refusal :=
  .next (s.runArms { g := g, whole := true, early := [b.spec, n.spec] } (epochGuard (noRecord (agreeArm
    (fun c => (rdNat c 1 b).bind fun k => (rdOpt c 2 n).map fun m => k :: m.toList)
    [(1, b.spec), (2, n.spec)]
    fun s c on x => s.barAt c on (x.headD 0) (x[1]?) idem [b, n]))))

/-- R313, R316: the warp waits at its cluster's barrier. -/
def execBarC (g : Guard) (s : State) : Host.Outcome State Fault Refusal :=
  .next (s.runArms { g := g, whole := true } (epochGuard (noRecord fun s cs =>
    match cs with
    | [] => (.done { lanes := [] }, s)
    | c :: _ =>
      let (f, s1) := s.releaseTo c 2
      let s2 := (s1.modBlock c.pos.id c.block.stage fun b => { b with atC := b.atC ++ [c.warp.idx] }).modInst c.pos.ctx
        c.pos.grid c.pos.inst fun i => { i with fronts := i.fronts ++ [((c.pos.loc, c.block.stage, c.warp.idx), f)] }
      (allOut (cs.map (·.lane)) [], (s2.parkLanes c.pos.core c.wk c.armLive .barC).arriveC c.pos c.block.stage))))

/-- R313, R316: the warp waits at the grid's barrier. -/
def execBarG (g : Guard) (s : State) : Host.Outcome State Fault Refusal :=
  .next (s.runArms { g := g, whole := true } (epochGuard (noRecord fun s cs =>
    match cs with
    | [] => (.done { lanes := [] }, s)
    | c :: _ =>
      let (f, s1) := s.releaseTo c 4
      let s2 := (s1.modBlock c.pos.id c.block.stage fun b => { b with atG := b.atG ++ [c.warp.idx] }).modGrid c.pos.ctx
        c.pos.grid fun x =>
          { x with fronts := x.fronts ++ [((c.pos.inst, c.pos.loc, c.block.stage, c.warp.idx), f)] }
      (allOut (cs.map (·.lane)) [], (s2.parkLanes c.pos.core c.wk c.armLive .barG).arriveG c.pos c.block.stage))))

/-! ## Counted waits (R318) -/

/-- R318: the increment added to a counter. DEDUCED: log entry 124. -/
def execCarrive (g : Guard) (b : Src) (k : Src) (s : State) : Host.Outcome State Fault Refusal :=
  .next (s.runArms { g := g, whole := true, early := [b.spec, k.spec] } (epochGuard (agreeArm
    (fun c => (rdNat c 1 b).bind fun i => (rdOpt c 2 k).map fun n => [i, n.getD 1])
    [(1, b.spec), (2, k.spec)]
    fun s c on x =>
      match c.block.bars[x.headD 0]? with
      | none => (allTrap on { cause := .barrierUndeclared }, s)
      | some _ =>
        let (f, s1) := s.releaseTo c 1
        (allOut on [b, k], s1.modBlock c.pos.id c.block.stage (·.modBar (x.headD 0) fun r =>
          { r with count := r.count + BitVec.ofNat 32 (x[1]?.getD 1), cfront := frontJoin r.cfront f })))))

/-- R318: the arm waits for a counter to reach its target. -/
def execCwait (g : Guard) (b : Src) (n : Src) (s : State) : Host.Outcome State Fault Refusal :=
  .next (s.runArms { g := g, whole := true } (epochGuard (agreeArm
    (fun c => (rdNat c 1 b).bind fun i => (rdNat c 2 n).map fun n => [i, n])
    [(1, b.spec), (2, n.spec)]
    fun s c on x =>
      let target := BitVec.ofNat 32 (x[1]?.getD 0)
      match c.block.bars[x.headD 0]? with
      | none => (allTrap on { cause := .barrierUndeclared }, s)
      | some r =>
        if countReached r.count target then (allOut on [b, n], s.modWarp c.wk (·.acquire c.arm r.cfront))
        else (.park (.count (x.headD 0) target), s))))

/-! ## Stage rings (R319, R320) -/

def ringNo (r : Src) : Nat :=
  match r.spec with
  | .imm i => i.toNat
  | _ => 0

def Position.modRing (p : Position) (i : Nat) (f : Ring → Ring) : Position :=
  { p with rings := p.rings.mapIdx fun j r => if j = i then f r else r }

/-- In deterministic mode a ring belongs to its first producer, and to its first consumer (R320). -/
def ringForeign (det : Bool) (who : Option (Nat × Nat)) (c : RCtx) : Bool :=
  det && who.any fun w => w != (c.block.stage, c.warp.slot)

/-- The first producer or consumer, in deterministic mode. -/
def ringOwner (det : Bool) (who : Option (Nat × Nat)) (c : RCtx) : Option (Nat × Nat) :=
  if det then some (who.getD (c.block.stage, c.warp.slot)) else who

/-- DESIGN CHOICE: log entry 120. -/
def Ring.push (r : Ring) (v : TV) (who : Option (Nat × Nat)) (f : Frontier) : Ring :=
  { r with val := v, full := true, ph := !r.ph, prod := who, front := f }

/-- `rpush` in one arm. -/
def pushArm (r v : Src) : ArmFn := fun s cs =>
  match cs with
  | [] => (.done { lanes := [] }, s)
  | c0 :: _ =>
    let on := cs.map (·.lane)
    let ring := (c0.pos.rings[ringNo r]?).getD Ring.init
    let det := s.det? c0.pos
    if ringForeign det ring.prod c0 then (allTrap on { cause := .detViolation }, s)
    else match gather (fun c => (rd c 2 v).map (·.tv)) cs with
      | .stall => (.stall, s)
      | .park w => (.park w, s)
      | .got vs ts =>
        match vs with
        | [] => (.done { lanes := trapEnds ts }, s)
        | (c, x) :: rest =>
          if rest.any fun y => y.2 != x then
            (.done { lanes := trapEnds ts ++ vs.map fun y => (y.1.lane, .trap (opTrap .scopeDisagree 2 v.spec)) }, s)
          else if ring.entry.isSome then (.park (.ringEmpty (ringNo r)), s)
          else
            let (f, s1) := s.releaseTo c 2
            (.done { lanes := trapEnds ts ++ vs.map fun y => (y.1.lane, .out { frees := [v] }) },
              s1.modPos c.pos.id (·.modRing (ringNo r) (·.push x (ringOwner det ring.prod c) f)))

/-- R320: one value for a ring. -/
def execRpush (g : Guard) (r : Src) (v : Src) (s : State) : Host.Outcome State Fault Refusal :=
  .next (s.runArms { g := g, whole := true, early := [v.spec] } (epochGuard (pushArm r v)))

/-- The phase a `rpop` wants against that of the held entry. -/
def phaseOk (want : RingWant) (ph : Bool) : Bool :=
  match want with
  | .any => true
  | .ph0 => !ph
  | .ph1 => ph

/-- `rpop` in one arm. -/
def popArm (want : RingWant) (d : Dst) (r : Src) : ArmFn := fun s cs =>
  match cs with
  | [] => (.done { lanes := [] }, s)
  | c0 :: _ =>
    let on := cs.map (·.lane)
    let ring := (c0.pos.rings[ringNo r]?).getD Ring.init
    let det := s.det? c0.pos
    if ringForeign det ring.cons c0 then (allTrap on { cause := .detViolation }, s)
    else match gather (fun c => wrOk c d) cs, ring.entry with
      | .stall, _ => (.stall, s)
      | .park w, _ => (.park w, s)
      | .got _ _, none => (.park (.ringFull (ringNo r)), s)
      | .got vs ts, some x =>
        if vs.isEmpty then (.done { lanes := trapEnds ts }, s)
        else if !phaseOk want (!ring.ph) then (allTrap on { cause := .ringPhase }, s)
        else
          (.done { lanes := trapEnds ts ++ vs.map fun v => (v.1.lane, .out { writes := [(d, x)] }) },
            (s.modPos c0.pos.id (·.modRing (ringNo r) fun y => { y with full := false, cons := ringOwner det ring.cons c0 })).modWarp
              c0.wk (·.acquire c0.arm ring.front))

/-- R320: the entry of a ring taken. -/
def execRpop (want : RingWant) (g : Guard) (d : Dst) (r : Src) (s : State) : Host.Outcome State Fault Refusal :=
  .next (s.runArms { g := g, whole := true, dsts := [d.spec] } (epochGuard (popArm want d r)))

end Sys2Proof.Machine
end

