-- ==== Sys2Proof/Machine/SysRegs.lean ====
section
/-! DEFINITION. System registers (R413 to R416) and the marker of `evf` (R419). -/

namespace Sys2Proof.Machine

/-- What a system register is held per (R413). -/
inductive Holder where
  | part | warp | block | context | thread
  deriving DecidableEq, Repr

/-- A system register: its holder, and whether `sysw` may write it. -/
structure RegInfo where
  holder : Holder
  writable : Bool
  deriving DecidableEq, Repr

/-- The table of R413. -/
def regInfo (n : Nat) : Option RegInfo :=
  match n with
  | 0x000 => some ⟨.part, false⟩
  | 0x001 => some ⟨.warp, true⟩
  | 0x002 => some ⟨.block, true⟩
  | 0x010 | 0x011 | 0x012 | 0x013 => some ⟨.block, false⟩
  | 0x020 | 0x021 | 0x023 | 0x024 | 0x025 | 0x026 | 0x027 | 0x032 => some ⟨.context, true⟩
  | 0x022 | 0x030 | 0x031 | 0x033 | 0x034 | 0x035 | 0x036 => some ⟨.context, false⟩
  | 0x040 | 0x041 | 0x042 | 0x043 | 0x044 | 0x045 => some ⟨.thread, false⟩
  | _ => none

/-- The writable bits of a context register; the others are reserved (R6). -/
def ctxMask (n : Nat) : Word :=
  match n with
  | 0x020 => 0x7FFF
  | 0x022 => 0x7FFF
  | 0x024 => 0x3FFFF
  | 0x026 => 0x3F
  | 0x027 => 1
  | 0x030 => 0x1FFFFFFF
  | 0x032 => 0x1FFFFF
  | 0x036 => 0x1FFFF
  | _ => 0xFFFFFFFF

/-- A context register's 32 bits. -/
def Ctx.reg (c : Ctx) (n : Nat) : Word :=
  match n with
  | 0x020 => c.regdraw
  | 0x021 => c.hintdrop
  | 0x022 => c.penlim
  | 0x023 => c.penlate
  | 0x024 => c.loccfg
  | 0x025 => c.locthr
  | 0x026 => c.wdcfg
  | 0x027 => c.trapcfg
  | 0x030 => c.evcfg
  | 0x031 => BitVec.ofNat 32 c.evw
  | 0x032 => BitVec.ofNat 32 c.evr
  | 0x033 => BitVec.ofNat 32 (c.evlost + if c.evlost = 0 then 0 else 2 ^ 21)
  | 0x034 => c.fltcfg.setWidth 32
  | 0x035 => BitVec.ofNat 32 c.fltw
  | 0x036 => BitVec.ofNat 32 c.fltr
  | _ => 0

/-- A write of RIX that would make the log hold more than its size leaves it (R258). -/
def Ctx.putEvr (c : Ctx) (v : Nat) : Ctx :=
  if 2 ^ c.evLogn < (c.evw + 2 ^ 21 - v) % 2 ^ 21 then c else { c with evr := v }

/-- A context register written, its reserved bits ignored (R6). -/
def Ctx.putReg (c : Ctx) (n : Nat) (v : Word) : Ctx :=
  let x := v &&& ctxMask n
  match n with
  | 0x020 => { c with regdraw := x }
  | 0x021 => { c with hintdrop := x }
  | 0x022 => { c with penlim := x }
  | 0x023 => { c with penlate := x }
  | 0x024 => { c with loccfg := x }
  | 0x025 => { c with locthr := x }
  | 0x026 => { c with wdcfg := x }
  | 0x027 => { c with trapcfg := x }
  | 0x032 => c.putEvr x.toNat
  | _ => c

/-- GSHAPE0, GSHAPE1, CPOS0 and CPOS1 (R288); a task has its T0 to T2 for a coordinate. -/
def gridReg (g : Grid) (p : Position) (n : Nat) : Word :=
  let gxyz : Nat × Nat × Nat :=
    if g.task.isSome then (g.t0, g.t1, g.t2) else (p.inst % g.gx, p.inst / g.gx % g.gy, p.inst / (g.gx * g.gy))
  let b : Nat × Nat × Nat := (p.loc % g.cx, p.loc / g.cx % g.cy, p.loc / (g.cx * g.cy))
  BitVec.ofNat 32 <|
    match n with
    | 0x010 => g.gx % 2 ^ 16 + 2 ^ 16 * (g.gy % 2 ^ 16)
    | 0x011 => g.gz % 2 ^ 16 + 2 ^ 16 * (g.cx % 16) + 2 ^ 20 * (g.cy % 16) + 2 ^ 24 * (g.cz % 16)
    | 0x012 => gxyz.1 % 2 ^ 16 + 2 ^ 16 * (gxyz.2.1 % 2 ^ 16)
    | _ => gxyz.2.2 % 2 ^ 16 + 2 ^ 16 * (b.1 % 16) + 2 ^ 20 * (b.2.1 % 16) + 2 ^ 24 * (b.2.2 % 16)

/-- The value of a register as a lane reads it (R415). -/
def State.sysRead (s : State) (c : RCtx) (n : Nat) : Option Word :=
  (regInfo n).map fun r =>
    match r.holder with
    | .part => BitVec.ofNat 32 Config.lanes
    | .warp => c.seen n (((s.warpOf c.wk).map (·.fstat)).getD 0)
    | .block => if n = 0x002 then c.seen n c.block.mstat else gridReg c.grid c.pos n
    | .context => c.seen n (((s.ctxOf c.pos.ctx).map (·.reg n)).getD 0)
    | .thread =>
      match c.thread with
      | none => 0
      | some t =>
        match n with
        | 0x040 => t.tstate
        | 0x041 => t.tpc
        | 0x042 => t.tinfo0
        | 0x043 => t.tinfo1
        | 0x044 => t.tinfo2
        | _ => t.tinfo3

/-- FSTAT as `sysr` and `sysw` meet it holds the flags of every reduction that the warp has issued (R93). -/
def State.flagged (s : State) (wk : WKey) (n : Nat) : State :=
  match s.warpOf wk with
  | some w => if n = 0x001 then s.performReds fun e => e.owner.wid == w.wid else s
  | none => s

/-- R415: a system register to Vd, tagged n32. -/
def execSysr (g : Guard) (d : Dst) (n : BitVec 12) (s : State) : Host.Outcome State Fault Refusal :=
  .next (s.runArms { g := g, dsts := [d.spec] } fun s cs =>
    let s1 := match cs with
      | c :: _ => s.flagged c.wk n.toNat
      | [] => s
    (laneWise (fun c =>
      match s1.sysRead c n.toNat with
      | some v => outD c d ⟨v, F.n32⟩ []
      | none => .trap { cause := .sysregBad }) cs, s1))

/-! ## sysw -/

/-- Two lanes share the holder of a register. -/
def sameHolder (h : Holder) (x y : RCtx) : Bool :=
  match h with
  | .warp => x.wk == y.wk
  | .block => x.pos.id == y.pos.id && x.block.stage == y.block.stage
  | _ => true

/-- The executing lanes of a whole packet. -/
def State.packetLanes (s : State) (g : Guard) : List RCtx :=
  match s.cur with
  | .packet core slot =>
    match s.packet? core slot with
    | some p => p.arms.flatMap fun a => ((s.scene a.wk).map fun c => c.executing p.scl g a).getD []
    | none => []
  | _ => []

/-- What every executing lane of the packet delivers. -/
def State.delivered (s : State) (g : Guard) (a : Src) : List (RCtx × Word) :=
  (s.packetLanes g).filterMap fun c => match rd c 1 a with
    | .ok r => some (c, r.bits)
    | _ => none

/-- The write itself. -/
def State.sysWrite (s : State) (c : RCtx) (n : Nat) (v : Word) : State :=
  match n with
  | 0x001 => s.modWarp c.wk fun w => { w with fstat := v &&& fstatMask }
  | 0x002 => s.modBlock c.pos.id c.block.stage fun b => { b with mstat := v &&& mstatMask }
  | _ => s.modCtx c.pos.ctx fun x => x.putReg n v

/-- A thread of the holder is shown the value from before until its next clause; one that writes sees the write (R416). -/
def Thread.shown (t : Thread) (n : Nat) (old new : Word) (writes : Bool) : Thread :=
  if writes then { t with stale := t.stale.filter (·.1 != n) }
  else if t.st == .exited || t.atHeader then t
  else { t with stale := put (·.1 == n) (n, ((t.stale.lookup n).map (·.1)).getD old, new) t.stale }

/-- The warps that share a register's holder with a lane. -/
def Holder.shares (h : Holder) (c : RCtx) (p : Position) (b : Block) (w : Warp) : Bool :=
  match h with
  | .warp => p.id == c.pos.id && b.stage == c.block.stage && w.idx == c.warp.idx
  | .block => p.id == c.pos.id && b.stage == c.block.stage
  | _ => p.ctx == c.pos.ctx

/-- A register is about to be written: the threads of its holder that do not write it (by a scalar clause of their arm, too) see the write from their next clause.
DESIGN CHOICE: log entry 148. -/
def State.showOld (s : State) (h : Holder) (c : RCtx) (n : Nat) (new : Word) (writers : List RCtx) : State :=
  let old := match h with
    | .warp => ((s.warpOf c.wk).map (·.fstat)).getD 0
    | .block => ((s.posOf c.pos.id).bind (·.blockOf c.block.stage)).elim 0 (·.mstat)
    | _ => ((s.ctxOf c.pos.ctx).map (·.reg n)).getD 0
  s.modC fun k => { k with positions := k.positions.map fun p => { p with blocks := p.blocks.map fun b =>
    { b with warps := b.warps.map fun w =>
        if h.shares c p b w then
          { w with threads := w.threads.mapIdx fun l t =>
              t.shown n old new (writers.any fun x =>
                x.wk == ⟨p.id, b.stage, w.idx⟩ && (x.lane == l || x.thread.isNone && (w.armOfLane l).any (·.tag == x.arm))) }
        else w } } }

/-- R416: S1's bits to a system register; lanes of one holder must agree. DESIGN CHOICE: log entry 148. -/
def execSysw (g : Guard) (a : Src) (n : BitVec 12) (s : State) : Host.Outcome State Fault Refusal :=
  let all := s.delivered g a
  .next (s.runArms { g := g } (perLane
    (fun _ c => (rd c 1 a).bind fun r =>
      match regInfo n.toNat with
      | some i =>
        if !i.writable then .trap { cause := .sysregBad }
        else if all.any fun x => sameHolder i.holder x.1 c && x.2 != r.bits then .trap (opTrap .scopeDisagree 1 a.spec)
        else .ok r.bits
      | none => .trap { cause := .sysregBad })
    (fun s c v =>
      let s1 := s.flagged c.wk n.toNat
      let s2 := (regInfo n.toNat).elim s1 fun i => s1.showOld i.holder c n.toNat v (all.map (·.1))
      (.out { frees := [a] }, s2.sysWrite c n.toNat v))))

/-! ## evf -/

/-- Every access and engine operation of a party has completed. -/
def State.partyQuiet (s : State) (core : Nat) (p : Party) : Bool :=
  !(s.c.ops.any (·.party == p)) && !(s.c.pend.any (·.owner == p))
    && !((s.coreOf core).any fun c => c.fills.any (·.party == p) || c.hfills.any (·.party == p) || c.log.any (·.party == p))

/-- R419: the arm waits for every operation of its party, then a marker is posted. -/
def execEvf (g : Guard) (s : State) : Host.Outcome State Fault Refusal :=
  .next (s.runArms { g := g, whole := true } fun s cs =>
    match cs with
    | [] => (.done { lanes := [] }, s)
    | c :: _ =>
      let p := partyOf c.warp c.arm
      if s.partyQuiet c.pos.core p then
        (.done { lanes := [] }, s.post c.pos.ctx { src := clusterSrc c.pos.core, kind := 10, party := s.partyBits p })
      else (.park .evf, s))

end Sys2Proof.Machine
end

