-- ==== Sys2Proof/Machine/Picker.lean ====
section
/-! DEFINITION. Eligible threads (R294, R298), the picker's order in ordinary and in deterministic mode (R297 to R304),
the formation of packets, the watchdog (R306) and the locality throttle (R301, R302). -/

namespace Sys2Proof.Machine

/-! ## Eligible threads -/

/-- A wait whose condition holds now: it is released, and the thread tries its instruction again (R294). Waits that another
operation ends (`rclaim`, barriers, `join`, trap records) end with that. -/
def State.waitMet (s : State) (p : Position) (w : Warp) (b : Block) (a : Arm) (t : Thread) (x : Wait) : Bool :=
  match x with
  | .batonFull z => ((w.z[z]?).getD none).isSome
  | .batonEmpty z => ((w.z[z]?).getD none).isNone
  | .claim | .barB _ | .barC | .barG | .join | .trapRecord => false
  | .count k target => (b.bars[k]?).any fun r => countReached r.count target
  | .ringEmpty r => (p.rings[r]?).any (·.entry.isNone)
  | .ringFull r => (p.rings[r]?).any (·.entry.isSome)
  | .tagsAll l => l.all p.tagDone
  | .tagsAny l => l.any p.tagDone
  | .arm => (a.lanes.filter w.going).all fun l => (w.threads[l]?).any fun u =>
      u.st == .parked .arm && u.pc == t.pc && u.idx == t.idx
  | .view => w.slotFree a.tag
  | .evf => s.partyQuiet p.core (partyOf w a.tag)
  | .handle h => !w.busy.contains h
  | .service n _ => !(s.ctxOf p.ctx).any fun c => c.faults.any (·.fid == n)
  | .window n => ((p.wins[n]?).getD none).all fun w => w.want.isEmpty
  | .give n => !w.topEmpty n
  | .ticket n => !s.t.relays.any fun r => r.eng == n.toNat % 4 && r.seq == n.toNat / 4 && r.mems.any (·.ctx == p.ctx)
  | .penFree pen i => !s.t.pens.any fun x => x.pen == pen && x.idx == i && x.st != .free
  | .penReleased pen sq => !s.t.pens.any fun x => x.pen == pen && x.seq == sq && x.st != .free && x.st != .released
  | .tile i prev => ((p.accAt i).tile prev).all (·.pending == 0)
  | .pageFault e => !t.fault.any (·.1 == e)
  | .loft _ | .acc _ | .backPressure | .fence => true

def StageCode.header (sc : StageCode) (t : Thread) : Dword := (sc.wordAt t.pc).getD 0

def hdrScl (w : Dword) : Bool := hdrEng w == 1

/-- A thread that may join a packet (R294, R52): at a clause header not while an access of its arm waits on a fault (R335), nor
while its position is Stopping (R256). -/
def Position.eligible (p : Position) (sc : StageCode) (t : Thread) : Bool :=
  t.st == .ready && (t.mid ||
    (t.fault.isEmpty && p.st == .resident && p.headerMet (sc.header t) && (p.headerTge (sc.header t)).isNone))

/-- A thread after a step: a wait that is met ends (R294), and a thread that has become eligible counts from here (R299). DESIGN CHOICE: log entry 38. -/
def State.wakeThread (s : State) (p : Position) (b : Block) (w : Warp) (sc : StageCode) (filled : Nat) (a : Arm) (lane : Nat)
    (t : Thread) : Thread :=
  let u := match t.st with
    | .parked x => if s.waitMet p w b a t x then { t with st := .ready, mid := true } else t
    | _ => t
  let e := p.eligible sc u && !w.tied lane u
  { u with elig := e, since := if e && !u.elig then filled else u.since }

def State.wakeWarp (s : State) (p : Position) (b : Block) (sc : StageCode) (filled : Nat) (w : Warp) : Warp :=
  { w with threads := w.threads.mapIdx fun l t => (w.armOfLane l).elim t fun a => s.wakeThread p b w sc filled a l t }

def State.wakePos (s : State) (p : Position) : Position :=
  if p.st == .resident || p.st == .stopping then
    let filled := ((s.coreOf p.core).map (·.filled)).getD 0
    { p with blocks := p.blocks.map fun b => match s.stage? p b.stage with
        | some sc => { b with warps := b.warps.map (s.wakeWarp p b sc filled) }
        | none => b }
  else p

/-- What every step does after its instruction or event. -/
def State.wake (s : State) : State :=
  let s1 := (s.unlessSpent s).closePast
  s1.modC fun c => { c with positions := c.positions.map s1.wakePos }

/-- An arm that can enter a packet: where its threads stand, its eligible lanes there, and the keys of its order. -/
structure Cand where
  pos : Position
  stage : Nat
  warp : Warp
  arm : Nat
  lanes : List Nat
  pc : Nat
  idx : Nat
  fresh : Bool
  wait : Nat
  det : Bool
  eng : Nat
  deriving DecidableEq, Repr

def Cand.wk (c : Cand) : WKey := ⟨c.pos.id, c.stage, c.warp.idx⟩

/-- The packet an arm can join: code, stage, header and instruction (R297). -/
def State.candKey (s : State) (c : Cand) : Nat × Nat × Nat × Nat × Nat × Nat :=
  let g := s.grid? c.pos
  (c.pos.ctx, (g.map (·.code)).getD 0, (g.map (·.kern)).getD 0, c.stage, c.pc, c.idx)

/-- The eligible threads of an arm that stand where one of its threads stands. -/
def Position.standWith (p : Position) (w : Warp) (sc : StageCode) (a : Arm) (t0 : Thread) : List Nat :=
  a.lanes.filter fun l => (w.threads[l]?).any fun t =>
    p.eligible sc t && !w.tied l t && t.pc == t0.pc && t.idx == t0.idx && t.atHeader == t0.atHeader

/-- The candidate that an arm makes of its eligible threads: those that stand with the lowest. A scalar clause is run once for
its arm, so that every thread of the arm must stand at it; while some do not, the arm's threads in the middle of a clause go
first. -/
def State.cand (s : State) (filled : Nat) (p : Position) (b : Block) (w : Warp) (sc : StageCode) (a : Arm) : Option Cand :=
  (sortBy (fun x y => decide (x ≤ y)) a.lanes).findSome? fun l0 =>
    (w.threads[l0]?).bind fun t0 =>
      let here := p.standWith w sc a t0
      let all := a.lanes.all fun l => !w.going l || here.contains l
      if !p.eligible sc t0 || w.tied l0 t0 || (hdrScl (sc.header t0) && t0.atHeader && !all) then none
      else
        let since := here.foldl (fun m l => min m (((w.threads[l]?).map (·.since)).getD m)) t0.since
        some { pos := p, stage := b.stage, warp := w, arm := a.tag, lanes := here, pc := t0.pc, idx := t0.idx,
               fresh := t0.atHeader, wait := filled - since, det := s.det? p, eng := hdrEng (sc.header t0) }

/-- Leaf arms of a warp, in arm order. -/
def Warp.leaves (w : Warp) : List Arm :=
  sortBy (fun a b => decide (lowest a.lanes ≤ lowest b.lanes)) (w.arms.filter fun a => w.leaf a.tag && a.lanes.any w.live)

/-- The positions that run on a core. -/
def State.posOn (s : State) (core : Nat) : List Position :=
  s.c.positions.filter fun p => p.core == core && (p.st == .resident || p.st == .stopping)

/-- An arm has a thread that has not arrived at its join. -/
def Warp.running (w : Warp) (a : Arm) : Bool :=
  a.lanes.any fun l => (w.threads[l]?).any fun t => t.st != .exited && t.st != .parked .join && t.st != .parked .trapRecord

/-- The first arm below an arm that still runs: the arms of a record run one at a time to their join, in arm order (R134). -/
def Warp.firstArm (w : Warp) : Nat → Arm → Option Arm
  | 0, _ => none
  | n + 1, a =>
    if w.leaf a.tag then (if w.running a then some a else none)
    else (w.recs.filter (·.parent == a.tag)).findSome? fun r => (w.childrenOf r.id).findSome? (w.firstArm n)

/-- The arm of a deterministic warp whose turn it is within the warp (R134). -/
def Warp.nextArm (w : Warp) : Option Arm := (w.arms.find? (·.inRec.isNone)).bind (w.firstArm 20)

/-- The candidates of one position; a deterministic warp runs one arm. -/
def State.candsOf (s : State) (filled : Nat) (p : Position) : List Cand :=
  p.blocks.flatMap fun b =>
    match s.stage? p b.stage with
    | none => []
    | some sc =>
      if b.ended then []
      else b.warps.flatMap fun w =>
        (if s.det? p then w.nextArm.toList else w.leaves).filterMap (s.cand filled p b w sc)

/-! ## The order of ordinary mode (R299, R301) -/

/-- The picker's keys, in turn (R299). DESIGN CHOICE: log entry 38. -/
def Cand.before (x y : Cand) : Bool :=
  if x.wait != y.wait then decide (y.wait < x.wait)
  else if x.warp.order != y.warp.order then decide (x.warp.order < y.warp.order)
  else if x.warp.slot != y.warp.slot then decide (x.warp.slot < y.warp.slot)
  else decide (lowest x.lanes ≤ lowest y.lanes)

def locEn (c : Ctx) : Bool := c.loccfg.getLsbD 0
def locMinw (c : Ctx) : Nat := max 1 (c.loccfg.extractLsb' 1 7).toNat
def locHold (c : Ctx) : Nat := (c.loccfg.extractLsb' 8 10).toNat
def locHi (c : Ctx) : Nat := (c.locthr.extractLsb' 0 16).toNat
def locLo (c : Ctx) : Nat := (c.locthr.extractLsb' 16 16).toNat

/-- Warps resident on a core, with their slots, older first. -/
def State.warpsOn (s : State) (core : Nat) : List Warp :=
  sortBy (fun (a b : Warp) => decide (a.order ≤ b.order)) ((s.posOn core).flatMap fun p => p.blocks.flatMap (·.warps))

/-- The warp slots of the allowed set: the N of greatest score, ties to the older (R301). -/
def State.allowedSlots (s : State) (c : CoreSt) : List Nat :=
  let score (w : Warp) : Nat := (c.scores.lookup w.slot).getD 0
  ((sortBy (fun a b => decide (score b ≤ score a)) (s.warpsOn c.id)).take (c.limit.getD (s.warpsOn c.id).length)).map (·.slot)

/-- The throttle passes an arm over (R301), or the memory unit does while the operand log is full (R334). -/
def State.held (s : State) (c : CoreSt) (x : Cand) : Bool :=
  let mem := x.eng == 3 && x.fresh
  (mem && decide (32 ≤ c.log.length)) ||
    (mem && !x.det && (s.ctxOf x.pos.ctx).any fun k => locEn k && decide (x.wait < locHold k)
      && !(s.allowedSlots c).contains x.warp.slot)

/-! ## Turns of deterministic mode (R303, R304) -/

/-- The logical wave index of a warp. -/
def State.waveOf (s : State) (x : Cand) : Nat × Nat × Nat :=
  (((s.grid? x.pos).map fun g => blockLinear g x.pos).getD 0, x.stage, x.warp.idx)

def waveLt (a b : Nat × Nat × Nat) : Bool :=
  decide (a.1 < b.1) || (a.1 == b.1 && (decide (a.2.1 < b.2.1) || (a.2.1 == b.2.1 && decide (a.2.2 < b.2.2))))

/-- Waits at which a deterministic warp gives up its turn (R304). -/
def switchWait : Wait → Bool
  | .barB _ | .barC | .barG | .count .. | .ringEmpty _ | .ringFull _ | .batonFull _ | .batonEmpty _ | .claim | .tagsAll _
  | .join | .arm => true
  | _ => false

/-- The holder of a turn has reached a switch point: its threads have exited, or one of its next arm's waits. -/
def State.atSwitch (s : State) (wk : WKey) : Bool :=
  match s.posOf wk.pos, s.warpOf wk, (s.posOf wk.pos).bind (s.stage? · wk.stage) with
  | some p, some w, some sc =>
    match w.nextArm with
    | none => true
    | some a => a.lanes.any fun l => (w.threads[l]?).any fun t => t.fault.isEmpty && match t.st with
        | .parked x => switchWait x
        | .ready => !t.mid && (!p.headerMet (sc.header t) || hdrYld (sc.header t))
        | _ => false
  | _, _, _ => true

/-- The next clause of a warp has YLD set. -/
def State.atYield (s : State) (wk : WKey) : Bool :=
  match s.warpOf wk, (s.posOf wk.pos).bind (s.stage? · wk.stage) with
  | some w, some sc => w.nextArm.any fun a => a.lanes.any fun l => (w.threads[l]?).any fun t =>
      t.atHeader && hdrYld (sc.header t)
  | _, _ => false

/-- The warps of a turn that have switched at YLD, or at `yield`: each is taken only when no other is eligible. DEDUCED: log entry 21. -/
def State.yields (s : State) (t : Nat × Nat × WKey × List WKey) : List WKey :=
  if s.atYield t.2.2.1 then t.2.2.1 :: t.2.2.2 else t.2.2.2

def lowestWave (s : State) (l : List Cand) : Option Cand :=
  l.foldl (fun m x => match m with
    | none => some x
    | some y => if waveLt (s.waveOf x) (s.waveOf y) then some x else some y) none

/-- The warp of a deterministic grid that may issue on a core now. -/
def State.turnOf (s : State) (c : CoreSt) (l : List Cand) : Option Cand :=
  match l with
  | [] => none
  | x :: _ =>
    if c.slots.any fun p => p.any fun p => p.arms.any fun a => (s.posOf a.wk.pos).any fun q =>
      q.ctx == x.pos.ctx && q.grid == x.pos.grid then none
    else
      match c.turns.find? fun t => t.1 == x.pos.ctx && t.2.1 == x.pos.grid with
      | some t =>
        if !t.2.2.2.contains t.2.2.1 && !c.switched.contains t.2.2.1 && !s.atSwitch t.2.2.1 then l.find? fun x => x.wk == t.2.2.1
        else (lowestWave s (l.filter fun x => !(s.yields t).contains x.wk)).or (lowestWave s l)
      | none => lowestWave s l

/-- The deterministic grids of some candidates. -/
def gridsOf (l : List Cand) : List (Nat × Nat) := (l.map fun x => (x.pos.ctx, x.pos.grid)).eraseDups

/-- The candidates that the picker may take, in its order. DESIGN CHOICE: log entry 38. -/
def State.order (s : State) (c : CoreSt) : List Cand :=
  let all := ((s.posOn c.id).flatMap (s.candsOf c.filled)).filter fun x => !s.held c x
  let det := all.filter (·.det)
  let turns := (gridsOf det).filterMap fun g => s.turnOf c (det.filter fun x => x.pos.ctx == g.1 && x.pos.grid == g.2)
  sortBy Cand.before (all.filter (fun x => !x.det) ++ turns)

/-! ## Packets (R297) -/

/-- Further arms added to a packet while they fit: those of the first arm's warp first. -/
def fillPacket (room : Nat) : List Cand → List Cand
  | [] => []
  | x :: xs => if x.lanes.length ≤ room then x :: fillPacket (room - x.lanes.length) xs else fillPacket room xs

def State.packetArms (s : State) (l : List Cand) : List Cand :=
  match l with
  | [] => []
  | x :: xs =>
    if x.det then [x]
    else
      let fit := xs.filter fun y => !y.det && s.candKey y == s.candKey x && y.fresh == x.fresh
      let own := fit.filter fun y => y.wk == x.wk
      let other := fit.filter fun y => y.wk != x.wk
      x :: fillPacket (Config.lanes - x.lanes.length) (own ++ other)

/-- What an arm acquires at a header: its tags, and the ring it stands on (R233). -/
def Position.headerFront (p : Position) (w : Dword) : Frontier :=
  let f := (hdrTags w).foldl (fun f i => frontJoin f (((p.tags[i]?).map (·.front)).getD [])) []
  match hdrRing w with
  | some (r, _) => frontJoin f (((p.rings[r]?).map (·.front)).getD [])
  | none => f

def waitsAtHeader (w : Dword) : Bool := !(hdrTags w).isEmpty || (hdrRing w).isSome

/-- An arm enters a packet. -/
def State.enterPacket (s : State) (w : Dword) (x : Cand) : State :=
  let s1 := s.modLanes x.wk x.lanes fun t => { t with st := .packed }
  if x.fresh && waitsAtHeader w then s1.modWarp x.wk (·.acquire x.arm (x.pos.headerFront w)) else s1

/-- The turn goes to the warp that issues; one that left it at YLD is remembered until it has the turn again. DEDUCED: log entry 21. -/
def State.takeTurn (s : State) (x : Cand) (l : List (Nat × Nat × WKey × List WKey)) : List (Nat × Nat × WKey × List WKey) :=
  let same (t : Nat × Nat × WKey × List WKey) : Bool := t.1 == x.pos.ctx && t.2.1 == x.pos.grid
  if x.det then
    let left := (((l.find? same).map s.yields).getD []).filter (· != x.wk)
    put same (x.pos.ctx, x.pos.grid, x.wk, left.eraseDups) l
  else l

/-- A free issue slot filled with a packet. -/
def State.formPacket (s : State) (c : CoreSt) (slot : Nat) (x : Cand) (l : List Cand) : State :=
  match s.stage? x.pos x.stage with
  | none => s
  | some sc =>
    let w := (sc.wordAt x.pc).getD 0
    let (ctx, code, kern, stage, pc, idx) := s.candKey x
    let p : Packet :=
      { ctx := ctx, code := code, kern := kern, stage := stage, hdr := pc, idx := idx, cnt := sc.count pc, scl := hdrScl w,
        arms := l.map fun y => ⟨y.wk, y.arm, y.lanes⟩, born := c.filled }
    (l.foldl (fun s y => s.enterPacket w y) s).modCore c.id fun c =>
      { c with slots := c.slots.set slot (some p), filled := c.filled + 1, turns := s.takeTurn x c.turns
               switched := c.switched.filter (· != x.wk) }

/-- Threads whose header waits are met by a tag that failed: each traps with the stored cause of the lowest such tag
(R52). -/
def State.headerTraps (s : State) (p : Position) (b : Block) (w : Warp) : List (Nat × Trap) :=
  match s.stage? p b.stage with
  | none => []
  | some sc => (List.range w.threads.length).filterMap fun l => (w.threads[l]?).bind fun t =>
      if t.atHeader && t.fault.isEmpty && p.headerMet (sc.header t) then
        (p.headerTge (sc.header t)).map fun x => (l, tagTrap x.2 x.1)
      else none

/-- The first warp of a core with such threads. -/
def State.headerTrap (s : State) (core : Nat) : Option (WKey × List (Nat × Trap)) :=
  (s.posOn core).findSome? fun p => p.blocks.findSome? fun b => b.warps.findSome? fun w =>
    match s.headerTraps p b w with
    | [] => none
    | ts => some (⟨p.id, b.stage, w.idx⟩, ts)

/-- Byte offset of a packet's next instruction from the start of its stage. -/
def Packet.offset (p : Packet) : Nat := p.hdr + 8 * (p.idx + 1)

def State.packetStage (s : State) (p : Packet) : Option StageCode := s.stageOf p.ctx p.code p.kern p.stage

/-- The word that a packet issues next. -/
def State.fetchWord (s : State) (p : Packet) : Option Dword := (s.packetStage p).bind (·.wordAt p.offset)

/-- An installed word can be read without an uncorrectable error (R410). DEDUCED: log entry 125. -/
def State.wordSound (s : State) (p : Packet) (off : Nat) : Bool :=
  match s.packetStage p, (s.ctxOf p.ctx).bind (·.objOf p.code) with
  | some sc, some o => match o.place (sc.base + off) with
    | some pa => s.sound pa 8
    | none => true
  | _, _ => true

def State.codeSound (s : State) (p : Packet) : Bool := s.wordSound p p.offset

/-- The grids of some arms of a packet end on a machine check, each event with the party of its first arm (R407, R410). DEDUCED: log
entry 125. -/
def State.failArms (s : State) (core : Nat) (arms : List PArm) : State :=
  arms.foldl (fun s a =>
    match s.posOf a.wk.pos, s.warpOf a.wk with
    | some q, some w => s.endFatal q.ctx q.grid .machineCheck ⟨clusterSrc core, s.partyBits (partyOf w a.arm), 0, 0⟩
    | _, _ => s) s

/-- A fetch that meets an uncorrectable error is fatal to each grid that fetches (R410). DEDUCED: log entry 125. -/
def State.fetchFails (s : State) (core : Nat) (p : Packet) : State := s.failArms core p.arms

/-- The packet that a slot has just taken fetched its clause's header (R410). -/
def State.fetchHeader (s : State) (core slot : Nat) : State :=
  match (s.coreOf core).bind fun c => (c.slots[slot]?).join with
  | some p => if s.wordSound p p.hdr then s else s.fetchFails core p
  | none => s

/-- An instruction of arms whose position holds state in error: whether it uses that state is free. Those arms of the packet whose
grids end by it. DESIGN CHOICE: log entry 162. -/
def State.brokenArms (s : State) (p : Packet) : List PArm × State :=
  match p.arms.filter fun a => !s.sound (heldAt a.wk.pos) 1 with
  | [] => ([], s)
  | l => let (b, s1) := s.drawBit; (if b then l else [], s1)

/-- R296 to R304: the picker of a core fills one free slot, or a thread meets a failed tag at its header. -/
def execPacketFormation (core : Nat) (s : State) : Host.Outcome State Fault Refusal :=
  .next <|
    match s.coreOf core with
    | none => s
    | some c =>
      match s.headerTrap core with
      | some (wk, ts) => s.takeTraps wk ts
      | none =>
        match c.slots.findIdx? (·.isNone), s.packetArms (s.order c) with
        | some slot, x :: l => (s.formPacket c slot x (x :: l)).fetchHeader core slot
        | _, _ => s

/-! ## The watchdog (R306) -/

/-- A thread that the watchdog counts as blocked; one that awaits the service of a page fault is not (R335). -/
def Thread.blocked (t : Thread) (p : Position) (sc : StageCode) : Bool :=
  t.fault.isEmpty && match t.st with
    | .stalled _ => true
    | .parked (.pageFault _) | .parked (.service ..) => false
    | .parked _ => true
    | .ready => !t.mid && !p.headerMet (sc.header t)
    | _ => false

def State.blockBlocked (s : State) (p : Position) (b : Block) : Bool :=
  match s.stage? p b.stage with
  | some sc => b.warps.any fun w => w.threads.any (·.blocked p sc)
  | none => false

/-- Nanoseconds of some cycles at 1.6 GHz, less 100 MHz for each step by which the clock is slowed (R433). DESIGN CHOICE: log entry 8. -/
def cycleTime (slow n : Nat) : Nat := (10 * n + (15 - slow)) / (16 - min slow 15)

/-- Cycles pass: the counters of the blocks that have a blocked thread go on (R306). DESIGN CHOICE: log entry 8. -/
def State.passCycles (s : State) (n : Nat) : State :=
  let tick (p : Position) : Position :=
    if p.st == .resident || p.st == .stopping then
      { p with blocks := p.blocks.map fun b => if s.blockBlocked p b then { b with dog := b.dog + n } else b }
    else p
  { s with cyc := s.cyc + n, now := s.now + cycleTime s.m.slow n, c := { s.c with positions := s.c.positions.map tick } }

/-- The waits of a warp abandoned: a queued claim, and arrivals at barriers (R306). -/
def State.abandon (s : State) (p : Position) (b : Block) (w : Warp) (lanes : List Nat) : State :=
  let has (x : Wait → Bool) : Bool := lanes.any fun l => (w.threads[l]?).any fun t => match t.st with
    | .parked y => x y
    | _ => false
  let s1 := if has (· == .claim) then
      s.modPos p.id fun p => { p with claims := p.claims.filter fun k => !(k.stage == b.stage && k.warp == w.idx) } else s
  let drop (r : BarRes) : BarRes :=
    let l := r.arrived.filter (· != w.idx)
    { r with arrived := l, fill := r.fill && !l.isEmpty, fronts := r.fronts.filter (·.1 != w.idx) }
  let s2 := if has (fun x => match x with
      | .barB _ => true
      | _ => false) then s1.modBlock p.id b.stage fun b => { b with bars := b.bars.map drop } else s1
  let s3 := if has (· == .barC) then
      (s2.modBlock p.id b.stage fun b => { b with atC := b.atC.filter (· != w.idx) }).modInst p.ctx p.grid p.inst fun i =>
        { i with arrC := i.arrC.filter (· != (p.loc, b.stage))
                 fronts := i.fronts.filter fun x => x.1 != (p.loc, b.stage, w.idx) } else s2
  let s4 := if has (· == .barG) then
      (s3.modBlock p.id b.stage fun b => { b with atG := b.atG.filter (· != w.idx) }).modGrid p.ctx p.grid fun g =>
        { g with arrG := g.arrG.filter (· != (p.inst, p.loc, b.stage))
                 fronts := g.fronts.filter fun x => x.1 != (p.inst, p.loc, b.stage, w.idx) } else s3
  let back (a : Arm) : Arm := if a.lanes.any lanes.contains then { a with arrived := none } else a
  s4.modWarp ⟨p.id, b.stage, w.idx⟩ fun w => { w with arms := w.arms.map back }

/-- The blocked threads of one warp trap. -/
def State.dogWarp (s : State) (p : Position) (b : Block) (sc : StageCode) (w : Warp) : State :=
  let lanes := (List.range w.threads.length).filter fun l => (w.threads[l]?).any (·.blocked p sc)
  if lanes.isEmpty then s
  else (s.abandon p b w lanes).takeTraps ⟨p.id, b.stage, w.idx⟩ (lanes.map fun l => (l, { cause := .progressWatchdog }))

/-- R306: the counter of a block reaches its period. -/
def execProgressWatchdog (pos : Nat) (stage : Nat) (s : State) : Host.Outcome State Fault Refusal :=
  .next <|
    match s.posOf pos, (s.posOf pos).bind (·.blockOf stage), (s.posOf pos).bind (s.stage? · stage) with
    | some p, some b, some sc =>
      if (p.st == .resident || p.st == .stopping) && s.blockBlocked p b then
        let s1 := (s.passCycles (2 ^ b.wd - b.dog)).modBlock pos stage fun b => { b with dog := 0 }
        b.warps.foldl (fun s w => s.dogWarp p b sc w) s1
      else s
    | _, _, _ => s

/-- The period that a block takes with its placement (R307). -/
def Ctx.wdLog (c : Ctx) : Nat := logSize (c.wdcfg.extractLsb' 0 6).toNat 20 32 32

/-! ## The locality throttle (R301) -/

/-- The limit N after a period: it starts at the resident warp count, falls while the scores exceed HI, down to MINW, and rises
while they lie below LO, up to the resident warp count; a LO at or above HI holds it steady. DESIGN CHOICE: log entry 36. -/
def nextLimit (k : Ctx) (sum warps : Nat) (limit : Option Nat) : Nat :=
  let n := min (limit.getD warps) warps
  if locHi k ≤ locLo k then n
  else if locHi k < sum then max (n - 1) (min n (locMinw k))
  else if sum < locLo k then min (n + 1) warps
  else n

/-- The throttle's own state: its scores by warp slot, and the victim tags, newest first. -/
structure Locality where
  scores : List (Nat × Nat)
  victims : List (Nat × Nat)
  deriving DecidableEq, Repr

/-- An L1 miss on a line: a hit in the victim tags counts for the warp slot that had brought the line in; the line it evicts
joins the tags, with the slot that brought that in (R301). DESIGN CHOICE: log entry 36. -/
def Locality.miss (x : Locality) (line : Nat) (evicted : Nat × Nat) : Locality :=
  { scores := match x.victims.find? (·.1 == line) with
      | some v => put (·.1 == v.2) (v.2, (x.scores.lookup v.2).getD 0 + 1) x.scores
      | none => x.scores
    victims := (evicted :: x.victims.filter fun v => v.1 != line && v.1 != evicted.1).take 1024 }

/-- The misses of a period: which lines miss, and which are evicted, is a matter of the caches, and free. DESIGN CHOICE: log entry 36. -/
def State.misses (slots : List Nat) : Nat → Locality → State → Locality × State
  | 0, x, s => (x, s)
  | n + 1, x, s =>
    let (line, s1) := s.drawWord
    let (out, s2) := s1.drawWord
    let (who, s3) := s2.drawWord
    State.misses slots n (x.miss line.toNat (out.toNat, slots.getD (who.toNat % max 1 slots.length) 0)) s3

/-- R301: 1,024 cycles end. DESIGN CHOICE: log entry 36. DESIGN CHOICE: log entry 37. -/
def execLocalityPeriod (core : Nat) (s : State) : Host.Outcome State Fault Refusal :=
  .next <|
    match s.coreOf core with
    | none => s
    | some c =>
      let ws := s.warpsOn core
      match ((s.posOn core).head?).bind fun p => s.ctxOf p.ctx with
      | none => s.modCore core fun c => { c with scores := [], limit := none, victims := [] }
      | some k =>
        let slots := ws.map (·.slot)
        let (n, s0) := s.drawWord
        let (x, s1) := State.misses slots (n.toNat % 1025) ⟨c.scores, c.victims⟩ s0
        let scores := slots.map fun i => (i, (x.scores.lookup i).getD 0 / 2)
        (s1.passCycles 1024).modCore core fun c =>
          { c with scores := scores, victims := x.victims, limit := some (nextLimit k (scores.map (·.2)).sum ws.length c.limit) }

/-! ## Page faults (R332 to R336) -/

/-- Entries of a core's operand log with a lane that waits on a fault. -/
def State.logsOf (s : State) (ctx fid : Nat) : List (Nat × LogEnt) :=
  s.c.cores.flatMap fun c => (c.log.filter fun e => e.ctx == ctx && e.lanes.any fun l => l.2.2.2.2 == fid).map
    fun e => (c.id, e)

end Sys2Proof.Machine
end

