-- ==== Sys2Proof/Machine/Window.lean ====
section
/-! DEFINITION. The host's windows (R421 to R423): where each lies behind the links' BARs, which host write goes to which, and the
order of writes of one cycle. -/

namespace Sys2Proof.Machine

/-- A window, and for a configuration window its link. -/
inductive HostWindow where
  | config (link : Bool)
  | launch (ctx : Nat)
  | push (q : Nat)
  | readback
  deriving DecidableEq, Repr

/-- The window and the offset in it that an offset of a BAR names (R421). -/
def hostWindowAt (bar off : Nat) : Option (HostWindow × Nat) :=
  match bar with
  | 0 => if off < 0x10000 then some (.config (decide (0x8000 ≤ off)), off % 0x8000) else none
  | 2 =>
    if off < 2 ^ 24 then some (.launch (off / 4096), off % 4096)
    else if off < 2 ^ 24 + 4096 * 1024 then some (.push ((off - 2 ^ 24) / 4096), off % 4096)
    else none
  | 4 => if off < 4096 then some (.readback, off) else none
  | _ => none

/-- Where a window starts: BAR and offset. -/
def HostWindow.start : HostWindow → Nat × Nat
  | .config l => (0, if l then 0x8000 else 0)
  | .launch ctx => (2, 4096 * ctx)
  | .push q => (2, 2 ^ 24 + 4096 * q)
  | .readback => (4, 0)

/-- The link that carried a command; none for what is no command. A write to the command's place under an OP of no row is one. -/
def cmdLink : Instr → Option Bool
  | .createContext h | .destroyContext h | .saveContext h | .restoreContext h | .writeContextRegister h _ _
  | .loadContainer h _ | .removeObject h _ | .objectCreate h _ _ | .addExtent h _ _ | .split h _ _ | .merge h _ _ _
  | .narrow h _ _ | .objectRemove h _ | .resolveFault h _ _ | .createQueue h _ _ | .destroyQueue h _
  | .writeFilterEntry h _ _ | .writeRouteEntry h _ _ | .paddockCreate h _ | .paddockResize h _ | .paddockStop h
  | .paddockStart h | .paddockDestroy h | .removeCore h _ | .keyInstall h _ _ _ | .keyRewrap h _ | .keyRevoke h _
  | .preEmptPosition h _ _ | .attest h _ _ | .setPowerCap h _ => some h.link
  | .writeObject l _ _ | .readObject l _ _ => some l
  | .windowWriteOther b w => if hostWindowAt b.bar w.off == some (.config b.link, 0) then some b.link else none
  | _ => none

/-- The link and the window of a host write. -/
def windowWrite : Instr → Option (Bool × HostWindow)
  | .push w _ _ | .taskRetry w _ | .taskCancel w _ | .queueStop w | .queueStart w => some (w.link, .push w.no)
  | .launch w _ => some (w.link, .launch w.no)
  | .readbackAddress a => some (a.link, .readback)
  | i => (cmdLink i).map fun l => (l, .config l)

/-- Writes of two links meet at one window; commands meet at the management processor, whichever half carries them. -/
def HostWindow.meets (a b : HostWindow) : Bool :=
  match a, b with
  | .config _, .config _ => true
  | _, _ => a == b

/-- A write of link 1 to a window that link 0 writes too in this cycle, which the agenda lists (log entry 2): link 0's goes first
(R422). -/
def State.linkYields (s : State) (link : Bool) (w : HostWindow) : Bool :=
  link && s.agenda.any fun a => match a with
    | .event i => (windowWrite i).any fun x => !x.1 && x.2.meets w
    | _ => false

/-- An event of this cycle that another goes before takes its place after what is listed. -/
def State.putOff (s : State) (i : Instr) : State := { s with agenda := s.agenda ++ [.event i] }

/-- The host's windows answer only once the package has booted (R428). DEDUCED: log entry 72. -/
def State.up (s : State) : Bool := s.m.boot == .running

/-- A host write takes effect, or yields to link 0's. -/
def State.onWindow (s : State) (i : Instr) (f : State → State) : State :=
  match windowWrite i with
  | some (l, w) => if s.linkYields l w then s.putOff i else f s
  | none => f s

end Sys2Proof.Machine
end

