-- ==== Sys2Proof/Machine/Queue.lean ====
section
/-! DEFINITION. Queues in device code (R276 to R280) and through the push windows (R272, R273), the filter table (R274,
R275), and the Starter's release (R271). -/

namespace Sys2Proof.Machine

/-! ## The filter (R274, R275) -/

def feValid (e : Dword) : Bool := e.getLsbD 0
def feSrcp (e : Dword) : Nat := (e.extractLsb' 1 3).toNat
def feDstq (e : Dword) : Nat := (e.extractLsb' 4 10).toNat
def feType (e : Dword) (t : Nat) : Bool := e.getLsbD (14 + t)
def feRate (e : Dword) : Nat := (e.extractLsb' 30 16).toNat
def feBurst (e : Dword) : Nat := max 1 (e.extractLsb' 46 8).toNat

/-- The lowest-numbered valid entry that matches. -/
def State.filterFor (s : State) (pad q : Nat) : Option FilterEnt :=
  (sortBy (fun (a b : FilterEnt) => decide (a.idx ≤ b.idx)) s.t.filter).find? fun f =>
    feValid f.ent && feSrcp f.ent == pad && feDstq f.ent == q

/-- R275: the entry that allows an enqueue from another context, if one does. -/
def State.filterAllows (s : State) (pad : Nat) (r : BitVec 512) : Option FilterEnt :=
  (s.filterFor pad (taskQueue r)).bind fun f =>
    if feType f.ent (taskType r) && taskNsucc r == 0 && taskArmed r == 0 && feRate f.ent != 0 && f.bucket != 0 then some f else none

def State.takeBucket (s : State) (f : FilterEnt) : State :=
  s.modT fun t => { t with filter := upd (·.idx == f.idx) (fun f => { f with bucket := f.bucket - 1 }) t.filter }

/-- R275: a bucket gains RATE records, up to BURST. -/
def execFilterBucketRefill (idx : Nat) (s : State) : Host.Outcome State Fault Refusal :=
  let gain (f : FilterEnt) : FilterEnt := { f with bucket := min (feBurst f.ent) (f.bucket + feRate f.ent) }
  .next (s.modT fun t => { t with filter := upd (·.idx == idx) gain t.filter })

/-! ## enq (R277) -/

/-- Entering a record for a context: the filter, then the checks of R265. DEDUCED: log entry 146. -/
def State.enqueue (s : State) (ctx : Nat) (r : BitVec 512) (f : Frontier) : Except Cause State :=
  match s.liveQueue (taskQueue r) with
  | none => .error .queueInvalid
  | some q =>
    -- a queue of a context that is Ending is not reachable. DEDUCED: log entry 146.
    if q.dying || (s.ctxOf q.ctx).any (·.st == .ending) then .error .queueInvalid
    else
      let fe := if q.ctx == ctx then none else s.filterAllows (s.padOfCtx ctx) r
      if q.ctx != ctx && fe.isNone then .error .filterDenied
      else match s.accept q r with
        | .error c => .error c
        | .ok slot =>
          let s1 := s.enter q r slot f
          .ok (match fe with
            | some f => s1.takeBucket f
            | none => s1)

/-- The record of an `enq`, entered; or the lane's trap. -/
def State.enqBytes (s : State) (v : Viewer) (c : RCtx) (timed : Bool) (bs : List Byte) (srcs : List Src) : LaneEnd × State :=
  let r := putTimed (BitVec.ofNat 512 (leNat bs)) timed
  let s1 := s.fenceBy v 3
  match s1.enqueue v.ctx r (s1.releaseOf v.wk c.arm v) with
  | .error x => (.trap { cause := x }, s)
  | .ok s2 => (.out { frees := srcs }, s2.modWarp v.wk (·.tick c.arm))

/-- `enq` as a memory operation: a 64-byte read, then the entry. -/
def enqOp (i : Instr) (timed : Bool) (hs : BitVec 4) (x : Src) : MemOp where
  instr := i
  hs := hs
  read c := (handleOf c hs).bind fun r => (rdNat c 2 x).map fun n => ⟨r, n, 0, []⟩
  req _ _ a := { handle := a.r, i := a.i, o := 0, n := 64, align := 64, wr := false }
  kind := .read
  oob s v c _ := s.enqBytes v c timed (List.replicate 64 0) [x]
  perform s v c a l :=
    let (bs, s1) := s.loadAt v c.pos a.r l 64
    s1.enqBytes v c timed bs [x]
  waits _ := { frees := [x] }

/-- R277: a record enters its queue; records that one instruction makes Ready do so in one moment. -/
def execEnq (g : Guard) (hs : BitVec 4) (i : Src) (s : State) : Host.Outcome State Fault Refusal :=
  .next ((s.runArms { g := g, early := [i.spec] } (epochGuard (memArm (enqOp (.enq g hs i) false hs i)))).tickReady)

/-- R277: a record enters its queue, to be released at its RTIME. -/
def execEnqAt (g : Guard) (hs : BitVec 4) (i : Src) (s : State) : Host.Outcome State Fault Refusal :=
  .next ((s.runArms { g := g, early := [i.spec] } (epochGuard (memArm (enqOp (.enqAt g hs i) true hs i)))).tickReady)

/-- The queue of this context that an operand names. -/
def State.ownQueue (s : State) (ctx q : Nat) : Option Queue := (s.liveQueue q).bind fun x => if x.ctx == ctx then some x else none

/-- A retry or a cancellation by device code. -/
def taskArm (q t : Src) (act : State → Nat → Word → Option State) : ArmFn :=
  detBan true (perLane (fun _ c => (rdNat c 1 q).bind fun n => (rdNat c 2 t).map fun k => (n, BitVec.ofNat 32 k))
    (fun s c x =>
      match s.ownQueue c.pos.ctx x.1 with
      | none => (.trap { cause := .queueInvalid }, s)
      | some _ => match act s x.1 x.2 with
        | some s1 => (.out { frees := [q, t] }, s1)
        | none => (.trap { cause := .taskState }, s)))

/-- R277, R269: retry of a Faulted task. -/
def execEnqRetry (g : Guard) (q : Src) (t : Src) (s : State) : Host.Outcome State Fault Refusal :=
  .next (s.runArms { g := g } (taskArm q t State.retryTask))

/-- R277, R269: cancellation of a Faulted task. -/
def execEnqCancel (g : Guard) (q : Src) (t : Src) (s : State) : Host.Outcome State Fault Refusal :=
  .next (s.runArms { g := g } (taskArm q t State.cancelTask))

/-! ## tdone (R278) -/

/-- The slot of the task that a lane's block runs. DEDUCED: log entry 59. -/
def State.ownTask (s : State) (c : RCtx) : Option (Nat × Nat × QSlot) :=
  (c.grid.task).bind fun t => ((s.liveQueue t.1).bind (·.slotAt t.2)).map fun x => (t.1, t.2, x)

/-- The notification of a task by a lane; a list that meets a page fault waits for its service (R334). -/
def State.tdoneLane (s : State) (c : RCtx) (v : Viewer) (full : Bool) : LaneEnd × Option Nat × State :=
  match s.ownTask c with
  | none => (.trap { cause := .taskState }, none, s)
  | some (q, i, x) =>
    if x.tdn then (.out {}, none, s)
    else match s.succFault v.ctx x.word with
      | some (obj, page) =>
        if full then (.park .backPressure, none, s)
        else match s.postFault v.ctx obj page false (s.byCore false c.pos.core v.party) with
          | (.fatal, s1) => (.trap (memTrap .pageFaultFatal obj (page * 2 ^ 16)), none, s1)
          | (.noId, s1) => (.park .backPressure, none, s1)
          | (.fid n, s1) => (.out {}, some n, s1)
      | none =>
        let f := s.releaseOf v.wk c.arm v
        let s0 := s.fenceBy v 3
        match s0.notify q i f fun obj off => s0.checkRace v c.pos 0 (.glob obj off) 8 .read with
        | (s1, some t) =>
          -- the decrements that stand carry the thread's release
          (.trap t, none, if t.cause == .queueFull then s1.modWarp v.wk (·.tick c.arm) else s1)
        | (s1, none) =>
          (.out {}, none, ((List.range (taskNsucc x.word)).foldl (fun s j =>
            s.recordRace v c.pos 0 (.glob (taskSucc x.word / 2 ^ 40) (taskSucc x.word % 2 ^ 40 + 8 * j)) 8 .read false)
            s1).modWarp v.wk (·.tick c.arm))

def tdoneArm (g : Guard) : ArmFn := fun s cs =>
  match cs.head?, cs.head?.bind fun c => s.viewer c.wk c.arm with
  | some c0, some v =>
    let r := cs.foldl (fun (x : List (Nat × LaneEnd) × List (Nat × Acc × Nat) × State) c =>
      let (e, f, s1) := x.2.2.tdoneLane c v (x.2.2.logFull c.pos.core)
      (x.1 ++ [(c.lane, e)], x.2.1 ++ [(c.lane, ⟨0, 0, 0, []⟩, f.getD noFid)], s1)) ([], [], s)
    (.done { lanes := r.1 }, r.2.2.addLog c0 v (.tdone g) r.2.1 (performed r.1 r.2.1))
  | _, _ => (.done { lanes := [] }, s)

/-- R278: the successors of the block's task are notified. -/
def execTdone (g : Guard) (s : State) : Host.Outcome State Fault Refusal :=
  .next (s.runArms { g := g } (epochGuard (tdoneArm g)))

/-- A logged `tdone` tried again (R336). -/
def State.replayTdone (s : State) (core : Nat) (e : LogEnt) : State :=
  match s.scene e.wk, s.viewer e.wk e.arm with
  | some c0, some v =>
    e.toReplay.foldl (fun s l =>
      let c : RCtx := { c0 with lane := l.1, arm := e.arm, thread := c0.warp.threads[l.1]? }
      match s.tdoneLane c v false with
      | (.trap t, _, s1) => s1.trapReplay core e l.1 t
      | (.park _, _, s1) => s1.modLog core e.id (·.again)
      | (.out _, f, s1) => s1.modLog core e.id (·.settle l.1 f)) s
  | _, _ => s

/-! ## qstat (R279) -/

/-- DEDUCED: log entry 98. -/
def Queue.readyCount (q : Queue) : Nat := (q.slots.filter fun x => x.state == tsReady).length

def State.pushWin (s : State) (q : Nat) : PushWin := (s.t.pushes.find? (·.q == q)).getD ⟨q, 0, 0⟩

/-- The count that `qstat` reads. -/
def State.queueStat (s : State) (q : Queue) (what : QSel) (tid : Word) : Word :=
  let none' : Word := 0xFFFFFFFF
  match what with
  | .free => BitVec.ofNat 32 q.freeCount
  | .ready => BitVec.ofNat 32 q.readyCount
  | .task => (q.known tid).elim none' fun x => BitVec.ofNat 32 x.state
  | .armed => (q.known tid).elim none' fun x => BitVec.ofNat 32 x.armed
  | .drop => BitVec.ofNat 32 (s.pushWin q.id).dropped

/-- The operand that names a task, where the form has one. -/
def rdTask (c : RCtx) (what : QSel) (t : Src) : LaneStep Word :=
  if what == .task || what == .armed then (rdNat c 2 t).map fun n => BitVec.ofNat 32 n else .ok 0

/-- R279: a count of a queue. -/
def execQstat (what : QSel) (g : Guard) (d : Dst) (q : Src) (t : Src) (s : State) : Host.Outcome State Fault Refusal :=
  .next (s.runArms { g := g, dsts := [d.spec] } (detBan true fun s cs =>
    (laneWise (fun c => (rdNat c 1 q).bind fun n => (rdTask c what t).bind fun k =>
      match s.ownQueue c.pos.ctx n with
      | none => .trap { cause := .queueInvalid }
      | some x => outD c d ⟨s.queueStat x what k, F.n32⟩ (if what == .task || what == .armed then [q, t] else [q])) cs, s)))

/-! ## Push windows (R272, R273) -/

def State.modPush (s : State) (q : Nat) (f : PushWin → PushWin) : State :=
  s.modT fun t => { t with pushes := put (·.q == q) (f (s.pushWin q)) t.pushes }

def State.dropPush (s : State) (q : Nat) : State :=
  s.modPush q fun w => { w with dropped := min (w.dropped + 1) (2 ^ 32 - 1) }

def State.replyPush (s : State) (q n : Nat) : State := s.modPush q fun w => { w with reply := n }

/-- The bytes that a read of a push window returns (R272): the counts at 0x080, the dropped pushes at 0x088, the reply at
0x090, and zero elsewhere. -/
def State.pushByte (s : State) (q off : Nat) : Byte :=
  let x := s.liveQueue q
  let free := (x.map (·.freeCount)).getD 0
  let ready := (x.map (·.readyCount)).getD 0
  if !s.up then 0
  else if 0x080 ≤ off ∧ off < 0x088 then nthByte (free + ready * 2 ^ 17) (off - 0x080)
  else if 0x088 ≤ off ∧ off < 0x090 then nthByte (s.pushWin q).dropped (off - 0x088)
  else if 0x090 ≤ off ∧ off < 0x098 then nthByte (s.pushWin q).reply (off - 0x090)
  else 0

/-- One write to the place of a push: one enqueue; `whole` when it is 64 bytes and aligned. DEDUCED: log entry 98. -/
def State.pushWrite (s : State) (q : Nat) (whole : Bool) (r : BitVec 512) : State :=
  if !s.up then s
  else match s.liveQueue q with
    | none => s.dropPush q
    | some x =>
      if (s.ctxOf x.ctx).any (·.st == .ending) then (s.dropPush q).replyPush q 3
      else if !whole || x.dying || taskQueue r != q then s.dropPush q
      else match s.accept x r with
        | .error _ => s.dropPush q
        | .ok slot => (s.enter x r slot []).tickReady

/-- R273: a push. -/
def execPush (w : WinWrite) (whole : Bool) (r : BitVec 512) (s : State) : Host.Outcome State Fault Refusal :=
  .next (s.onWindow (.push w whole r) fun s => s.pushWrite w.no whole r)

/-- A push-window command on a task (R272). -/
def State.windowTask (s : State) (q : Nat) (tid : Word) (act : State → Nat → Word → Option State) : State :=
  if !s.up then s
  else match (s.liveQueue q).bind (·.known tid) with
    | none => s.replyPush q 2
    | some _ => match act s q tid with
      | some s1 => s1.replyPush q 0
      | none => s.replyPush q 1

/-- R272: the host retries a Faulted task. -/
def execTaskRetry (w : WinWrite) (tid : Word) (s : State) : Host.Outcome State Fault Refusal :=
  .next (s.onWindow (.taskRetry w tid) fun s => s.windowTask w.no tid State.retryTask)

/-- R272: the host cancels a Faulted task. -/
def execTaskCancel (w : WinWrite) (tid : Word) (s : State) : Host.Outcome State Fault Refusal :=
  .next (s.onWindow (.taskCancel w tid) fun s => s.windowTask w.no tid State.cancelTask)

/-- A queue stopped or started (R262). -/
def State.windowStop (s : State) (q : Nat) (stop : Bool) : State :=
  if !s.up then s
  else match s.liveQueue q with
    | none => s.replyPush q 3
    | some x => if x.dying then s.replyPush q 3 else (s.modQueue q fun x => { x with stopped := stop }).replyPush q 0

/-- R262: records are accepted, and none starts. -/
def execQueueStop (w : WinWrite) (s : State) : Host.Outcome State Fault Refusal :=
  .next (s.onWindow (.queueStop w) fun s => s.windowStop w.no true)

/-- R262: a stopped queue is open again. -/
def execQueueStart (w : WinWrite) (s : State) : Host.Outcome State Fault Refusal :=
  .next (s.onWindow (.queueStart w) fun s => s.windowStop w.no false)

/-! ## The Starter (R271) -/

/-- Records held by the Starter: their queue, slot and release time. -/
def State.timedSlots (s : State) : List (Nat × QSlot) :=
  s.liveQueues.flatMap fun q => (q.slots.filter fun x => x.state == tsTimed).map fun x => (q.id, x)

/-- The first tick of the 16 ns wheel at or after a time. -/
def wheelTick (t : Nat) : Nat := (t + 15) / 16 * 16

/-- The tick that releases a Timed record: the first at or after RTIME; for one that a forward step of the clock passed, the first
after the step (R432). -/
def State.tickOf (s : State) (x : QSlot) : Nat := wheelTick (max (taskRtime x.word) s.m.stepTo)

/-- Timed records of one tick become Ready, all in one moment. -/
def State.releaseTick (s : State) (tick : Nat) : State :=
  ((s.timedSlots.filter fun x => s.tickOf x.2 == tick).foldl
    (fun s' x => s'.putSlot x.1 { x.2 with state := tsReady, readyAt := s.t.moment }) s).tickReady

/-- Timed records whose ticks have come become Ready, tick by tick. -/
def State.releaseTimed (s : State) : State :=
  (sortBy (fun a b => decide (a ≤ b)) ((s.timedSlots.map fun x => s.tickOf x.2).filter fun t => decide (t ≤ s.time)).eraseDups).foldl
    State.releaseTick s

/-- R271: the next tick that releases a record. -/
def execStarterRelease (s : State) : Host.Outcome State Fault Refusal :=
  .next <|
    match (s.timedSlots.map fun x => s.tickOf x.2).min? with
    | none => s
    | some t => ({ s with now := s.now + (t - s.time) } : State).releaseTimed

end Sys2Proof.Machine
end

