-- ==== Sys2Proof/Machine/Message.lean ====
section
/-! DEFINITION. Fabric routes and flits (R338 to R341), messages (R342 to R345), and `send` and `recv` (R351, R352). -/

namespace Sys2Proof.Machine

/-! ## Ports, routes and flits -/

/-- A lane group with a good lane (R338, R339). -/
def groupGood (lanes : BitVec 8) (g : Nat) : Bool := lanes.getLsbD (2 * g) || lanes.getLsbD (2 * g + 1)

def Port.carries (p : Port) : Bool := p.st == .up || p.st == .degraded

/-- The groups of a port that carry a paddock's flits. DESIGN CHOICE: log entry 100. -/
def State.groupsOf (s : State) (pad : Nat) (p : Port) : List Nat :=
  if p.carries then
    (List.range 4).filter fun g => groupGood p.lanes g && (s.padOf pad).any fun d => d.lgrp.getLsbD (4 * p.id + g)
  else []

/-- The first hops that lead from this package to a node (R338). -/
def State.hops (s : State) (pad node : Nat) : List (Nat × Nat) :=
  s.t.ports.flatMap fun p => if Config.leads p.id node then (s.groupsOf pad p).map fun g => (p.id, g) else []

/-- A route reaches a node; a node reaches itself without a port (R342). DESIGN CHOICE: log entry 100. -/
def State.routed (s : State) (pad node : Nat) : Bool := node == s.node || !(s.hops pad node).isEmpty

/-- A node at the other end of a port that carries the paddock's flits: it is linked directly (R293). -/
def State.linkedTo (s : State) (pad node : Nat) : Bool :=
  s.t.ports.any fun p => Config.linked p.id node && !(s.groupsOf pad p).isEmpty

/-- Room in a lane group's replay buffer of 256 flits (R341). -/
def State.hasRoom (s : State) (x : Nat × Nat) : Bool :=
  (s.portOf x.1).any fun p => decide ((p.replay.filter fun f => f.1 == x.2).length < 256)

/-- The 16-byte header of a flit (R340). -/
def flitHeader (f : Flit) : BitVec 128 :=
  BitVec.ofNat 128 (f.sq % 2 ^ 16 + f.kind % 2 ^ 4 * 2 ^ 16 + f.len % 2 ^ 8 * 2 ^ 20 + f.chan % 2 ^ 4 * 2 ^ 28
    + f.dnode % 2 ^ 20 * 2 ^ 32 + f.snode % 2 ^ 20 * 2 ^ 52 + f.msg % 2 ^ 16 * 2 ^ 72 + f.moff % 2 ^ 40 * 2 ^ 88)

/-- The fields of a flit are those that a header can state, and LEN counts bytes of its payload (R340). -/
def flitFits (f : Flit) : Bool :=
  decide (f.sq < 2 ^ 16) && decide (f.kind < 4) && decide (1 ≤ f.len) && decide (f.len ≤ 224) && decide (f.chan < 16)
    && decide (f.dnode < 2 ^ 20) && decide (f.snode < 2 ^ 20) && decide (f.msg < 2 ^ 16) && decide (f.moff < 2 ^ 40)
    && decide (f.len ≤ f.payload.length) && decide (f.payload.length ≤ 224)

/-- The 256 bytes of a flit on a lane group (R340): the header's first word plain, the rest and the 224 bytes of payload
encrypted under a key, and the integrity tag. DESIGN CHOICE: log entry 160. -/
def flitWire (f : Flit) (slot kgen : Nat) : List Byte :=
  let head := leBytes 4 (flitHeader f).toNat
  let body := leBytes 12 ((flitHeader f).toNat / 2 ^ 32) ++ (List.range 224).map fun i => (f.payload[i]?).getD 0
  let text := head ++ body.zipIdx.map fun x => x.1 ^^^ Config.flitMask f.pad slot kgen (leNat head) x.2
  text ++ (List.range 16).map (Config.flitTag f.pad slot kgen text)

/-- What a port transmits for a flit that stands in its replay buffer, under the key that sealed it. -/
def State.lineOf (s : State) (f : Flit) : Nat × Nat × List Byte :=
  let slot := f.sealKey.getD 0
  (f.group, f.sq, flitWire f slot ((((s.padOf f.pad).bind (·.keys[slot]?)).map (·.kgen)).getD 0))

/-- A flit enters a replay buffer under the next SEQ of its group, sealed under the paddock's Active fabric key (R397), and is
transmitted; none while every buffer on its way is full. DESIGN CHOICE: log entry 103. -/
def State.enterFlit (s : State) (f : Flit) : Option State :=
  match (s.hops f.pad f.dnode).find? s.hasRoom with
  | none => none
  | some (port, g) =>
    some (s.modPort port fun p =>
      let sq := (p.txseq[g]?).getD 0
      let key := (s.padOf f.pad).bind (·.activeKey 2)
      let f := { f with group := g, sq := sq, sealKey := key }
      { p with replay := p.replay ++ [(g, f)], line := p.line ++ [s.lineOf f], txseq := p.txseq.set g ((sq + 1) % 2 ^ 16) })

/-- The flit of a part of a message. -/
def msgFlit (k : MsgKey) (kind len off : Nat) (data : List Byte) : Flit :=
  { group := 0, sq := 0, kind := kind, len := len, chan := k.chan, pad := k.pad, dnode := k.dst, snode := k.src,
    msg := k.num, moff := off, payload := data, ok := true, sealKey := none }

/-- Credit and acknowledgement flits enter a replay buffer in their order, as far as there is room (R341). DESIGN CHOICE: log entry 103. -/
def State.pumpCtl (s : State) : State :=
  s.t.ctl.foldl (fun s f => match s.enterFlit f with
    | some s1 => s1.modT fun t => { t with ctl := t.ctl.erase f }
    | none => s) s

/-- The payload of a credit or an acknowledgement: a length, and whether it goes to the receiver, of a relay's stream or not.
DESIGN CHOICE: log entry 103. -/
def ctlPayload (len : Nat) (back relay : Bool) : List Byte :=
  leBytes 4 len ++ [BitVec.ofNat 8 (back.toNat + 2 * relay.toNat)]

/-- The flit of a credit (KIND 1) or an acknowledgement (KIND 2) of a message: to its source, or back to its destination. -/
def ctlFlit (k : MsgKey) (kind len : Nat) (back : Bool) : Flit :=
  { msgFlit k kind 5 0 (ctlPayload len back k.relay) with
    dnode := if back then k.dst else k.src, snode := if back then k.src else k.dst }

/-- A credit or an acknowledgement sent. -/
def State.sendCtl (s : State) (k : MsgKey) (kind len : Nat) (back : Bool) : State :=
  (s.modT fun t => { t with ctl := t.ctl ++ [ctlFlit k kind len back] }).pumpCtl

def kindOf (relay : Bool) : Nat := if relay then 3 else 0

/-! ## Streams (R342) -/

def Stream.is (x : Stream) (k : MsgKey) : Bool :=
  x.pad == k.pad && x.src == k.src && x.dst == k.dst && x.chan == k.chan && x.relay == k.relay

def State.streamOf (s : State) (k : MsgKey) : Stream :=
  (s.t.streams.find? (·.is k)).getD ⟨k.pad, k.src, k.dst, k.chan, k.relay, 0, 0⟩

/-- The next send, or receive, of a stream takes its number. -/
def State.takeNumber (s : State) (k : MsgKey) (recv : Bool) : MsgKey × State :=
  let x := s.streamOf k
  let y := if recv then { x with recvs := (x.recvs + 1) % 2 ^ 16 } else { x with sends := (x.sends + 1) % 2 ^ 16 }
  ({ k with num := if recv then x.recvs else x.sends },
    s.modT fun t => { t with streams := put (·.is k) y t.streams })

def State.sendFor (s : State) (k : MsgKey) : Option SendMsg := s.t.sends.find? (·.key == k)
def State.recvFor (s : State) (k : MsgKey) : Option RecvMsg := s.t.recvs.find? (·.key == k)
def State.modSend (s : State) (k : MsgKey) (f : SendMsg → SendMsg) : State :=
  s.modT fun t => { t with sends := upd (·.key == k) f t.sends }
def State.modRecv (s : State) (k : MsgKey) (f : RecvMsg → RecvMsg) : State :=
  s.modT fun t => { t with recvs := upd (·.key == k) f t.recvs }
def State.dropSend (s : State) (k : MsgKey) : State := s.modT fun t => { t with sends := t.sends.filter (·.key != k) }
def State.dropRecv (s : State) (k : MsgKey) : State := s.modT fun t => { t with recvs := t.recvs.filter (·.key != k) }

/-- Receives of a paddock that are pending, and its sends that wait for credit: at most 4,096 of each (R352). -/
def State.recvsFull (s : State) (pad : Nat) : Bool := decide (4096 ≤ (s.t.recvs.filter (·.key.pad == pad)).length)
def State.sendsFull (s : State) (pad : Nat) : Bool :=
  decide (4096 ≤ (s.t.sends.filter fun m => m.key.pad == pad && !m.credit).length)

/-! ## Relays, as messages meet them -/

def Relay.is (r : Relay) (eng sq : Nat) : Bool := r.eng == eng && r.seq == sq

def State.modRelay (s : State) (r : Relay) (f : Relay → Relay) : State :=
  s.modT fun t => { t with relays := upd (·.is r.eng r.seq) f t.relays }

/-- The relay that an operation belongs to. -/
def State.relayOfOp (s : State) (op : Nat) : Option Relay := s.t.relays.find? fun r => r.mems.any (·.op == op)

/-- A relay ends (R349, R350): every participant's tag completes, and its tickets are kept for `rlwait`. -/
def State.endRelay (s : State) (r : Relay) (c : Option Cause) : State :=
  let s1 := s.modT fun t =>
    { t with relays := t.relays.filter fun x => !x.is r.eng r.seq
             sends := t.sends.filter fun m => !r.mems.any (·.op == m.op)
             recvs := t.recvs.filter fun m => !r.mems.any (·.op == m.op)
             relayEnds := t.relayEnds ++ r.mems.map fun m => ⟨r.eng, r.seq, m.ctx, m.pos, m.tag, m.gen, c⟩ }
  r.mems.foldl (fun s m => match s.opOf m.op with
    | some o => s.finishOp o c
    | none => s) s1

/-- Elements of a chunk of a buffer: its byte offsets (R347). -/
def Relay.chunkBytes (r : Relay) (h : BitVec 128) (es chunk : Nat) : List (Option Nat) :=
  recBytes h (chunk * r.ch) r.ch (2 ^ es)

/-- The member whose OUT a relay runs on: the lowest die. -/
def Relay.lead (r : Relay) : Option RelayMem := r.mems.head?

/-- The program goes on to its next step. -/
def State.relayNext (s : State) (r : Relay) : State := s.modRelay r fun r => { r with pc := r.pc + 1, wait := .none }

/-- A send of a relay has completed remotely: WAT and END may go on. -/
def State.relaySent (s : State) (r : Relay) (id : Nat) : State :=
  s.modRelay r fun r => { r with out := r.out.filter (· != id) }

/-! ## Sources and destinations of messages -/

def msgFirst (q : BitVec 128) : Nat := (q.extractLsb' 0 32).toNat
def msgCount (q : BitVec 128) : Nat := (q.extractLsb' 32 32).toNat
def msgEbytes (q : BitVec 128) : Nat := (q.extractLsb' 64 16).toNat
def msgLtag (q : BitVec 128) : Nat := (q.extractLsb' 80 6).toNat
def msgRtag (q : BitVec 128) : Nat := (q.extractLsb' 86 6).toNat
def msgRv (q : BitVec 128) : Bool := q.getLsbD 92
def msgNode (q : BitVec 128) : Nat := (q.extractLsb' 96 20).toNat
def msgChan (q : BitVec 128) : Nat := (q.extractLsb' 116 4).toNat
def msgLen (q : BitVec 128) : Nat := msgCount q * msgEbytes q

def msgBytes (r q : BitVec 128) : List (Option Nat) := recBytes r (msgFirst q) (msgCount q) (msgEbytes q)

/-- The record and the bytes that a message reads or writes. -/
def State.msgPlace (s : State) (op chunk : Nat) : Option (EngOp × Position × BitVec 128 × List (Option Nat)) :=
  match s.opOf op with
  | none => none
  | some o => (s.placeOf o.pos).bind fun p =>
      match o.kind with
      | .send hs q => some (o, p, hs, msgBytes hs q)
      | .recv hd q => some (o, p, hd, msgBytes hd q)
      | .relay .. => (s.relayOfOp op).bind fun r => r.lead.map fun m =>
          (o, p, m.hout, r.chunkBytes m.hout (recEs m.hout) chunk)
      | _ => none

/-- A message fails: the send's tags, or the relay, complete with the cause. -/
def State.failSend (s : State) (m : SendMsg) (c : Cause) : State :=
  let s1 := s.dropSend m.key
  match s1.relayOfOp m.op, s1.opOf m.op with
  | some r, _ => s1.endRelay r (some c)
  | none, some o => s1.finishOp o (some c)
  | none, none => s1

def State.failRecv (s : State) (m : RecvMsg) (c : Cause) : State :=
  let s1 := s.dropRecv m.key
  match s1.relayOfOp m.op, s1.opOf m.op with
  | some r, _ => s1.endRelay r (some c)
  | none, some o => s1.finishOp o (some c)
  | none, none => s1

/-- Steps 1 and 2 of R343: a credit meets its send. DEDUCED: log entry 102. -/
def State.meetCredit (s : State) (k : MsgKey) (len : Nat) : State :=
  match s.sendFor k with
  | none => s.modT fun t => { t with credits := t.credits ++ [(k, len)] }
  | some m =>
    if m.len == len then s.modSend k fun m => { m with credit := true }
    else
      let s1 := s.failSend m .msgSize
      if k.dst == s.node then
        match s1.recvFor k with
        | some r => s1.failRecv r .msgSize
        | none => s1
      else s1.sendCtl k 1 m.len true

/-- A send enters its stream; a credit that came before it meets it at once. -/
def State.addSend (s : State) (op chunk : Nat) (k : MsgKey) (len : Nat) : Nat × State :=
  let (k, s1) := s.takeNumber k false
  let (id, s2) := s1.fresh
  let s3 := s2.modT fun t => { t with sends := t.sends ++ [⟨id, op, k, len, chunk, false, 0⟩] }
  (id, match s3.t.credits.find? (·.1 == k) with
    | some c => (s3.modT fun t => { t with credits := t.credits.filter (·.1 != k) }).meetCredit k c.2
    | none => s3)

/-- A receive's credit goes to the source it names, when its flit finds room. -/
def State.tellCredit (s : State) (k : MsgKey) (len : Nat) : State :=
  if k.src == s.node then (s.modRecv k fun m => { m with told := true }).meetCredit k len
  else
    match s.enterFlit (ctlFlit k 1 len false) with
    | some s1 => s1.modRecv k fun m => { m with told := true }
    | none => s

/-- A receive enters its stream and sends its credit. -/
def State.addRecv (s : State) (op chunk : Nat) (k : MsgKey) (len : Nat) : State :=
  let (k, s1) := s.takeNumber k true
  (s1.modT fun t => { t with recvs := t.recvs ++ [⟨op, k, len, chunk, [], false, false⟩] }).tellCredit k len

/-- Credits that found no room before are sent once it has come. -/
def State.tellCredits (s : State) : State :=
  (s.t.recvs.filter fun m => !m.told).foldl (fun s m => s.tellCredit m.key m.len) s.pumpCtl

/-! ## send and recv (R351, R352) -/

def msgTags (recv : Bool) (q : BitVec 128) : List Nat :=
  if !recv && msgRv q then [msgLtag q, msgRtag q] else [msgLtag q]

/-- A fabric key is Active (R397). DEDUCED: log entry 101. -/
def State.fabricKey (s : State) (pad : Nat) : Bool := (s.padOf pad).any fun p => (p.activeKey 2).isSome

/-- The checks of R352, in order; a send needs a fabric key at last (R397). DEDUCED: log entry 101. -/
def State.msgCheck (s : State) (c : RCtx) (recv : Bool) (r q : BitVec 128) : Option Trap :=
  let off := recAddr r (msgFirst q) 0
  let bs := msgBytes r q
  let bad : Bool := q.extractLsb' 93 3 != 0 || q.extractLsb' 120 8 != 0 || msgCount q = 0 || msgEbytes q = 0
    || recStride r < msgEbytes q || 2 ^ 24 < msgLen q || (recv && (msgRtag q != 0 || msgRv q))
  let pad := s.padOfCtx c.pos.ctx
  (s.recExists c.pos.ctx r off).or <| (s.checkRange c.pos r off bs recv).or <|
  (if bad then some { cause := .msgBad } else none).or <|
  (if (msgTags recv q).any fun t => decide (s.stageTags c ≤ t) then some noTag else none).or <|
  (if recOob r then none
    else (recBeyond r (msgFirst q) (msgCount q) (msgEbytes q)).map fun e => memTrap .bounds (recObj r) (recAddr r e 0)).or <|
  (stashBeyond (s.stashLimit c) r bs).or <|
  (if recv then notOwned (s.det? c.pos) c.block r bs else none).or <|
  (if s.routed pad (msgNode q) then none else some { cause := .linkDown }).or <|
  (if recv || s.fabricKey pad then none else some (memTrap .keyRevoked (recObj r) off))

/-- The stream that a quad names. -/
def State.msgKey (s : State) (ctx : Nat) (recv : Bool) (q : BitVec 128) : MsgKey :=
  { pad := s.padOfCtx ctx, src := if recv then msgNode q else s.node, dst := if recv then s.node else msgNode q,
    chan := msgChan q, num := 0, relay := false }

/-- One lane's message issues: the send reads its source, and the receive writes its buffer, as the party at issue
(R344). -/
def State.issueMsg (s : State) (c : RCtx) (recv : Bool) (r q : BitVec 128) (srcs : List Src) : LaneEnd × State :=
  match s.msgCheck c recv r q, s.viewer c.wk c.arm, s.posOf c.pos.id with
  | some t, _, _ => (.trap t, s)
  | none, some v, some p =>
    let pad := s.padOfCtx c.pos.ctx
    let full := if recv then s.recvsFull pad else s.sendsFull pad
    let k : AccKind := if recv then .write else .read
    if full || !p.tagsTake (msgTags recv q) then (.park .backPressure, s)
    else match s.racesAt v p r (msgBytes r q) k with
      | some e => (e, s)
      | none =>
        let id := s.nextId
        let s1 := (s.recordAll v p r (msgBytes r q) k).issueOp v c (msgTags recv q)
          (if recv then .recv r q else .send r q) 4 false
        let key := s.msgKey c.pos.ctx recv q
        (.out { frees := srcs }, if recv then s1.addRecv id 0 key (msgLen q) else (s1.addSend id 0 key (msgLen q)).2)
  | _, _, _ => (.out {}, s)

/-- R351, R352: a message posted on a stream. -/
def execSend (g : Guard) (hs : BitVec 4) (q : Src) (s : State) : Host.Outcome State Fault Refusal :=
  .next (s.runArms { g := g } (epochGuard (perLane
    (fun _ c => (handleOf c hs).bind fun r => (rdQuad c 2 q).map fun x => (r, x))
    (fun s c a => s.issueMsg c false a.1 a.2 (srcRun q 4)))))

/-- R351, R352: a receive posted on a stream. -/
def execRecv (g : Guard) (hd : BitVec 4) (q : Src) (s : State) : Host.Outcome State Fault Refusal :=
  .next (s.runArms { g := g } (epochGuard (perLane
    (fun _ c => (handleOf c hd).bind fun r => (rdQuad c 2 q).map fun x => (r, x))
    (fun s c a => s.issueMsg c true a.1 a.2 (srcRun q 4)))))

/-! ## A message moves (R343, R344) -/

/-- What becomes of an operation that meets trouble at its bytes. -/
inductive Meets where
  | go (s : State)
  | wait (s : State)
  | fail (c : Cause) (s : State)
  deriving DecidableEq, Repr

/-- What is met next, after bytes that can be accessed. -/
def Meets.bind (m : Meets) (f : State → Meets) : Meets :=
  match m with
  | .go s => f s
  | m => m

/-- An engine operation meets bytes of a record. -/
def State.meets (s : State) (o : EngOp) (p : Position) (r : BitVec 128) (bs : List (Option Nat)) (wr : Bool) : Meets :=
  if s.opWaits o then .wait s
  else match s.engMeets p r bs wr with
    | .ok => .go s
    | .err c => .fail c s
    | .line b => .wait (s.wantLine p b o.party true)
    | .fault obj page =>
      match s.opFaults o obj page wr with
      | (true, s1) => .fail .pageFaultFatal s1
      | (false, s1) => .wait s1

/-- The next flits of a message read from its source, and entered, while there is room (step 3). DESIGN CHOICE: log entry 103. -/
def State.pumpSend (s : State) (k : MsgKey) : Nat → State
  | 0 => s
  | fuel + 1 =>
    match s.sendFor k with
    | none => s
    | some m =>
      match s.msgPlace m.op m.chunk with
      | none => s
      | some (o, p, r, bs) =>
        let part := (bs.drop m.sent).take 224
        if m.len ≤ m.sent then s
        else match s.meets o p r part false with
          | .wait s1 => s1
          | .fail c s1 => s1.failSend m c
          | .go s1 =>
            let (data, s2) := s1.engReads o p r part
            match s2.enterFlit (msgFlit k (kindOf k.relay) part.length m.sent data) with
            | none => s
            | some s3 => (s3.modSend k fun m => { m with sent := m.sent + part.length }).pumpSend k fuel

/-- Local completion (step 4): LTAG is done; without RTAG the send is over. DEDUCED: log entry 102. -/
def State.localDone (s : State) (m : SendMsg) : State :=
  match s.opOf m.op with
  | none => s
  | some o =>
    match o.kind with
    | .send _ q =>
      let s1 := (s.finishTag o (msgLtag q) none).modOp o.id fun o => { o with st := .localDone }
      if msgRv q || m.key.dst == s.node then s1 else (s1.dropOp o.id).dropSend m.key
    | _ => s

/-- Remote completion (step 6): the acknowledgement of a whole message. -/
def State.remoteDone (s : State) (k : MsgKey) : State :=
  match s.sendFor k with
  | none => s
  | some m =>
    let s1 := s.dropSend k
    match s1.relayOfOp m.op, s1.opOf m.op with
    | some r, _ => s1.relaySent r m.id
    | none, some o => s1.finishOp o none
    | none, none => s1

/-! ## A message arrives -/

/-- The bytes of a receive are all there (step 6): its tag is done, or its relay goes on. -/
def RecvMsg.whole (m : RecvMsg) : Bool := decide (m.len ≤ (m.got.map fun g => g.2.length).sum)

/-- The received chunk, in order. -/
def RecvMsg.bytes (m : RecvMsg) : List Byte :=
  (sortBy (fun (a b : Nat × List Byte) => decide (a.1 ≤ b.1)) m.got).flatMap (·.2)

/-- The OUT chunk of a relay after its RRS: op(received, OUT chunk), word by word (R347). DEDUCED: log entry 104. -/
def State.reduceChunk (s : State) (r : Relay) (m : RecvMsg) (red : CpyOp × RelFmt) : State :=
  match s.msgPlace m.op m.chunk with
  | some (o, p, h, bs) =>
    let (old, s1) := s.engReads o p h bs
    s1.engWrites o.ctx o.pos h (bs.zip (relBytes red.1 red.2 bs.length m.bytes old))
  | none => s.endRelay r (some .relayBad)

/-- A relay settled after what it met. -/
def State.relayMet (r : Relay) (m : Meets) (f : State → State) : State :=
  match m with
  | .go s => f s
  | .wait s => s
  | .fail c s => s.endRelay r (some c)

/-- The node of a rank, read where GRP holds it (R353); [31:20] of an entry is not looked at. DESIGN CHOICE: log entry 143. -/
def State.rankNode (s : State) (r : Relay) (rank : Nat) (f : Nat → State → State) : State :=
  match r.lead with
  | none => s
  | some m =>
    match s.opOf m.op, s.placeOf m.pos with
    | some o, some p =>
      let bs := recBytes m.hgrp rank 1 4
      State.relayMet r (s.meets o p m.hgrp bs false) fun s1 =>
        let (data, s2) := s1.engReads o p m.hgrp bs
        f (leNat data % 2 ^ 20) s2
    | _, _ => s

/-- A relay sends the OUT chunk to a node; the program does not wait. DEDUCED: log entry 104. -/
def State.relaySendTo (s : State) (r : Relay) (node chunk : Nat) : State :=
  match r.lead with
  | none => s
  | some m =>
    if !s.routed r.pad node then s.endRelay r (some .linkDown)
    else if !s.fabricKey r.pad then s.endRelay r (some .keyRevoked)
    else
      let k : MsgKey := { pad := r.pad, src := s.node, dst := node, chan := r.chan, num := 0, relay := true }
      let (id, s1) := s.addSend m.op chunk k (r.ch * 2 ^ recEs m.hout)
      (s1.modRelay r fun r => { r with out := r.out ++ [id] }).relayNext r

/-- A relay sends the OUT chunk to a rank. -/
def State.relaySend (s : State) (r : Relay) (rank chunk : Nat) : State :=
  s.rankNode r rank fun node s1 => s1.relaySendTo r node chunk

/-- A relay's chunk has come: RRS reduces it, and sends on. -/
def State.relayGot (s : State) (r : Relay) (m : RecvMsg) : State :=
  match r.wait with
  | .recv (some red) peer chunk =>
    let s1 := (s.dropRecv m.key).reduceChunk r m red
    match peer with
    | some node => s1.relaySendTo r node chunk
    | none => s1.relayNext r
  | _ => (s.dropRecv m.key).relayNext r

/-- A message that has come whole is acknowledged to its source (R343). -/
def State.acknowledge (s : State) (k : MsgKey) : State := if k.src == s.node then s else s.sendCtl k 2 0 false

/-- A receive that is whole completes, and is acknowledged. -/
def State.recvDone (s : State) (k : MsgKey) : State :=
  match s.recvFor k with
  | none => s
  | some m =>
    if !m.whole then s
    else
      let s1 := s.acknowledge k
      match s1.relayOfOp m.op, s1.opOf m.op with
      | some r, _ => s1.relayGot r m
      | none, some o => (s1.dropRecv k).finishOp o none
      | none, none => s1.dropRecv k

/-- RRS keeps what it receives for its reduction; every other receive writes it at its offset (step 5). -/
def State.keepsBytes (s : State) (m : RecvMsg) : Bool :=
  (s.relayOfOp m.op).any fun r => match r.wait with
    | .recv (some _) _ _ => true
    | _ => false

/-- A part of a message written whole at its offset, or not at all: false when it must come again. RRS reads what it
reduces into as well (R347). -/
def State.takePart (s : State) (m : RecvMsg) (off : Nat) (data : List Byte) : Bool × State :=
  if m.len < off + data.length || m.got.any fun g => decide (g.1 < off + data.length) && decide (off < g.1 + g.2.length) then
    (true, s)
  else
    let note (s : State) : State := s.modRecv m.key fun x => { x with got := x.got ++ [(off, data)], taken := true }
    match s.msgPlace m.op m.chunk with
    | none => (true, s)
    | some (o, p, r, bs) =>
      let part := (bs.drop off).take data.length
      let met : Meets := if s.keepsBytes m then s.meets o p r part false else .go s
      match met.bind fun s => s.meets o p r part true with
      | .wait s1 => (false, s1)
      | .fail c s1 => (true, s1.failRecv m c)
      | .go s1 =>
        (true, (note (if s1.keepsBytes m then s1 else s1.engWrites o.ctx o.pos r (part.zip data))).recvDone m.key)

/-- The issue of a send is a release that the acquire of its receive's tag matches (R344). -/
def State.bringSend (s : State) (op : Nat) (f : Frontier) : State :=
  match s.opOf op with
  | some o => s.bringOp o f
  | none => s

/-- A node's message to itself passes through the Stile (R342): read at local completion, written at the next event. -/
def State.passSelf (s : State) (m : SendMsg) : State :=
  match s.recvFor m.key, s.msgPlace m.op m.chunk with
  | some r, some (o, p, h, bs) =>
    match s.meets o p h bs false with
    | .wait s1 => s1
    | .fail c s1 => s1.failSend m c
    | .go s1 =>
      let (data, s2) := s1.engReads o p h bs
      match (if m.key.relay then s2 else s2.bringSend r.op o.front).takePart r 0 data with
      | (true, s3) =>
        let s4 := s3.modSend m.key fun m => { m with sent := m.len }
        (s4.localDone m).remoteDone m.key
      | (false, s3) => s3
  | _, _ => s

/-- R343: a message's next flits enter the replay buffer; with the last, LTAG completes. -/
def execMessageLocalComplete (id : Nat) (s : State) : Host.Outcome State Fault Refusal :=
  .next <|
    match s.t.sends.find? (·.id == id) with
    | none => s
    | some m =>
      if !m.credit then s
      else if m.key.dst == s.node then s.passSelf m
      else if m.len ≤ m.sent then s
      else
        let s1 := s.pumpSend m.key (m.len / 224 + 1)
        match s1.sendFor m.key with
        | some x => if x.len ≤ x.sent then s1.localDone x else s1
        | none => s1

/-- A flit that the group expects, whole, from a paddock that owns the group (R340, R341). -/
def State.accepts (s : State) (port : Nat) (f : Flit) : Bool :=
  (s.portOf port).any fun p => f.ok && flitFits f && (s.groupsOf f.pad p).contains f.group && (p.rxseq[f.group]?).any (· == f.sq)

/-- The next SEQ expected on a lane group. -/
def State.tookFlit (s : State) (port : Nat) (f : Flit) : State :=
  s.modPort port fun p => { p with rxseq := p.rxseq.set f.group ((f.sq + 1) % 2 ^ 16), asked := p.asked.set f.group false }

/-- A flit discarded: one that is broken, or comes after a gap, is requested again; a copy of an earlier one is not (R341). A
tag that fails is told to the paddock (R398). -/
def State.discardFlit (s : State) (port : Nat) (f : Flit) : State :=
  (if f.ok then s else s.tellPads ((s.padOf f.pad).map (·.id)).toList (15 + port) 5).modPort port fun p => match p.rxseq[f.group]? with
    | some next =>
      if (s.groupsOf f.pad p).contains f.group && !(f.ok && decide ((f.sq + 2 ^ 16 - next) % 2 ^ 16 ≥ 2 ^ 15)) then
        { p with asked := p.asked.set f.group true }
      else p
    | none => p

/-- A flit meets its port (R341): discarded when broken or out of turn, sent on toward another node (R18), or taken. -/
def State.meetFlit (s : State) (port : Nat) (f : Flit) (take : State → State) : State :=
  if !s.accepts port f then s.discardFlit port f
  else if f.dnode != s.node then
    match s.enterFlit f with
    | some s1 => s1.tookFlit port f
    | none => s
  else take s

def flitKey (f : Flit) (relay : Bool) : MsgKey := ⟨f.pad, f.snode, f.dnode, f.chan, f.msg, relay⟩

/-- A flit of data (R341, R343) is written. -/
def State.takeFlit (s : State) (port : Nat) (f : Flit) (relay : Bool) : State :=
  s.meetFlit port f fun s =>
    match s.recvFor (flitKey f relay) with
    | none => s.tookFlit port f
    | some m =>
      match s.takePart m f.moff (f.payload.take f.len) with
      | (true, s1) => s1.tookFlit port f
      | (false, s1) => s1

/-- R341, R343: a data flit arrives. -/
def execDataFlit (port : Nat) (f : Flit) (s : State) : Host.Outcome State Fault Refusal :=
  .next (if f.kind == 0 then s.takeFlit port f false else s)

/-- R347: a relay data flit arrives. -/
def execRelayDataFlit (port : Nat) (f : Flit) (s : State) : Host.Outcome State Fault Refusal :=
  .next (if f.kind == 3 then s.takeFlit port f true else s)

/-- A credit or an acknowledgement goes to the message's destination. -/
def flitBack (f : Flit) : Bool := ((f.payload[4]?).getD 0).getLsbD 0

/-- The message that a credit or an acknowledgement is of. -/
def ctlKey (f : Flit) : MsgKey :=
  { pad := f.pad, src := if flitBack f then f.snode else f.dnode, dst := if flitBack f then f.dnode else f.snode, chan := f.chan,
    num := f.msg, relay := ((f.payload[4]?).getD 0).getLsbD 1 }

/-- The length that a credit carries (R343). -/
def ctlLen (f : Flit) : Nat := leNat (f.payload.take 4)

/-- R343: a credit reaches its sender with the receive's length; a credit that comes back to its receiver tells of a send of
another length. DESIGN CHOICE: log entry 103. -/
def execCreditFlit (port : Nat) (f : Flit) (s : State) : Host.Outcome State Fault Refusal :=
  .next <|
    if f.kind != 1 then s
    else s.meetFlit port f fun s =>
      let s := s.tookFlit port f
      if !flitBack f then s.meetCredit (ctlKey f) (ctlLen f)
      else match s.recvFor (ctlKey f) with
        | some m => if m.len != ctlLen f then s.failRecv m .msgSize else s
        | none => s

/-- The flits of a group up to an acknowledged SEQ leave its buffer (R341). -/
def Port.acked (p : Port) (g sq : Nat) : Port :=
  let behind (x : Nat) : Bool := decide ((sq + 2 ^ 16 - x) % 2 ^ 16 < 2 ^ 15)
  { p with replay := p.replay.filter fun f => !(f.1 == g && behind f.2.sq)
           line := p.line.filter fun f => !(f.1 == g && behind f.2.1) }

/-- The flits of a group from a SEQ on are transmitted again from the replay buffer, in SEQ order (R341). -/
def State.resend (s : State) (port g sq : Nat) : State :=
  s.modPort port fun p =>
    { p with line := p.line ++ (p.replay.filter fun f =>
        f.1 == g && decide ((f.2.sq + 2 ^ 16 - sq) % 2 ^ 16 < 2 ^ 15)).map fun f => s.lineOf f.2 }

/-- Flits in the buffers of groups that carry nothing any more are sent again along the new route, in SEQ order (R341),
as far as there is room; those that no route reaches leave their buffer. -/
def State.reroute (s : State) : State :=
  s.t.ports.foldl (fun s p => p.replay.foldl (fun s x =>
    if (s.groupsOf x.2.pad p).contains x.1 then s
    else
      let s0 := s.modPort p.id fun q =>
        { q with replay := q.replay.erase x, line := q.line.filter fun f => !(f.1 == x.1 && f.2.1 == x.2.sq) }
      match s0.enterFlit x.2 with
      | some s1 => s1
      | none => if s.routed x.2.pad x.2.dnode then s else s0) s) s

/-- R341, R343: the next port acknowledges flits, which leave their buffer, or asks for some again; or the acknowledgement of a
message arrives, and completes it. -/
def execAcknowledgementFlit (port : Nat) (group : Nat) (sq : Nat) (a : AckForm) (s : State) : Host.Outcome State Fault Refusal :=
  .next <|
    match a with
    | .upTo => (s.modPort port (·.acked group sq)).reroute.tellCredits
    | .again => s.resend port group sq
    | .flit f =>
      let f := { f with group := group, sq := sq }
      if f.kind != 2 then s
      else s.meetFlit port f fun s =>
        let s := s.tookFlit port f
        if (s.sendFor (ctlKey f)).any (fun m => decide (m.len ≤ m.sent)) then s.remoteDone (ctlKey f) else s

/-! ## A route is lost (R345) -/

/-- Messages whose destination no route reaches any more complete with a cause. DESIGN CHOICE: log entry 105. -/
def State.cutMessages (s : State) (c : Cause) (lost : MsgKey → Nat → Bool) : State :=
  let s1 := (s.t.sends.filter fun m => m.credit && lost m.key m.key.dst).foldl (fun s m =>
    if (s.sendFor m.key).isSome then s.failSend m c else s) s
  (s1.t.recvs.filter fun m => m.taken && lost m.key m.key.src).foldl (fun s m =>
    if (s.recvFor m.key).isSome then s.failRecv m c else s) s1

/-- After ports have changed. -/
def State.checkRoutes (s : State) : State := s.cutMessages .linkDown fun k node => !s.routed k.pad node

end Sys2Proof.Machine
end

