-- ==== Sys2Proof/Machine/Relay.lean ====
section
/-! DEFINITION. Relay programs (R346 to R354): `relay`, `rlwait`, and the steps that a relay engine runs. -/

namespace Sys2Proof.Machine

/-! ## Issue (R353) -/

def rlRank (q : BitVec 128) : Nat := (q.extractLsb' 0 16).toNat
def rlSize (q : BitVec 128) : Nat := (q.extractLsb' 16 16).toNat
def rlTag (q : BitVec 128) : Nat := (q.extractLsb' 44 6).toNat
def rlCh (q : BitVec 128) : Nat := (q.extractLsb' 64 32).toNat
def rlChan (q : BitVec 128) : Nat := (q.extractLsb' 96 4).toNat
def rlDmask (q : BitVec 128) : Nat := (q.extractLsb' 104 4).toNat

/-- What a lane brings to `relay`: its handles, first step and quad. -/
structure RelayArgs where
  hp : BitVec 128
  hin : BitVec 128
  hout : BitVec 128
  hgrp : BitVec 128
  first : Nat
  q : BitVec 128
  deriving DecidableEq, Repr

/-- The handles that the quad names are waited for as the program's is (R206). -/
def rdRelay (c : RCtx) (hp : BitVec 4) (x q : Src) : LaneStep RelayArgs :=
  (handleOf c hp).bind fun p => (rdNat c 2 x).bind fun i => (rdQuad c 3 q).bind fun w =>
  (handleOf c (w.extractLsb' 32 4)).bind fun a => (handleOf c (w.extractLsb' 36 4)).bind fun b =>
  (handleOf c (w.extractLsb' 40 4)).map fun g => ⟨p, a, b, g, i, w⟩

/-- Engines of a paddock, in ascending order (R387). -/
def State.enginesOf (s : State) (pad : Nat) : List Nat :=
  (List.range 4).filter fun e => (s.padOf pad).any fun p => p.relays.getLsbD e

def State.queued (s : State) (eng : Nat) : Nat := (s.t.relays.filter (·.eng == eng)).length

/-- The engine an issue goes to: the one with the fewest queued relays, at most 15 (R348). DESIGN CHOICE: log entry 105. -/
def State.pickEngine (s : State) (pad : Nat) : Option Nat :=
  ((s.enginesOf pad).foldl (fun m e => match m with
    | none => some e
    | some x => if s.queued e < s.queued x then some e else some x) none).filter fun e => decide (s.queued e < 16)

/-- A step whose reduction is a floating-point add (R350). -/
def floatRrs : Instr → Bool
  | .rrs .add .f32 _ _ _ _ _ | .rrs .add .bf16 _ _ _ _ _ => true
  | _ => false

/-- What a look at a program at its relay's issue finds (R350): a floating-point add, none before END or before what cannot be read,
or a step that must be waited for. -/
inductive FloatScan where
  | float
  | plain
  | waits (ch : Checked) (off : Nat)
  deriving DecidableEq, Repr

/-- The steps of a program as the issuing thread sees them, in memory or in its stash. What cannot be read is the engine's to report
(R348). -/
def State.floatScan (s : State) (c : RCtx) (v : Viewer) (hp : BitVec 128) : Nat → Nat → FloatScan
  | 0, _ => .plain
  | fuel + 1, i =>
    let off := recAddr hp i 0
    if !recInBounds hp i 0 16 then .plain
    else match (if recStash hp then s.checkStash c.pos (s.stashLimit c) off 16 false
        else s.checkMem c.pos.ctx (recObj hp) off 16 false false) with
      | .trap _ | .oob => .plain
      | .ok l => match decodeStep (BitVec.ofNat 128 (leNat (s.readLoc v c.pos l 16).1)) with
        | some .endr | none => .plain
        | some w => if floatRrs w then .float else s.floatScan c v hp fuel (i + 1)
      | x => .waits x off

/-- In deterministic mode a relay that reduces with a floating-point add traps at issue (R350); a page or a line that its program
lies on is waited for first. DEDUCED: log entry 164. -/
def State.floatBan (s : State) (c : RCtx) (v : Viewer) (a : RelayArgs) : Option (LaneEnd × State) :=
  if !s.det? c.pos then none
  else match s.floatScan c v a.hp 257 a.first with
    | .plain => none
    | .float => some (.trap { cause := .detViolation }, s)
    | .waits (.wait w) off => some (.park w, s.wantLine c.pos off c.party false)
    | .waits (.fault obj page) off => some (match s.postFault c.pos.ctx obj page false (s.byCore false c.pos.core v.party) with
        | (.fatal, s1) => (.trap (memTrap .pageFaultFatal obj off), s1)
        | (.noId, s1) => (.park .backPressure, s1)
        | (.fid n, s1) => (.park (.service n off), s1))
    | .waits _ _ => none

/-- The checks of R353, in order. -/
def State.relayCheck (s : State) (c : RCtx) (a : RelayArgs) : Option Trap :=
  let q := a.q
  let ctx := c.pos.ctx
  let po := recAddr a.hp a.first 0
  let bad : Bool := q.extractLsb' 50 14 != 0 || q.extractLsb' 100 4 != 0 || q.extractLsb' 108 20 != 0
    || rlSize q ≤ rlRank q || recEs a.hp != 4 || rlCh q = 0 || (s.enginesOf (s.padOfCtx ctx)).isEmpty
  let beyond (r : BitVec 128) (n : Nat) : Option Trap :=
    (recBeyond r 0 n 1).map fun e => memTrap .bounds (recObj r) (recAddr r e 0)
  (s.recExists ctx a.hp po).or <| (s.recExists ctx a.hin (recAddr a.hin 0 0)).or <|
  (s.recExists ctx a.hout (recAddr a.hout 0 0)).or <| (s.recExists ctx a.hgrp (recAddr a.hgrp 0 0)).or <|
  (s.checkRec ctx a.hp po false).or <| (s.checkRec ctx a.hin (recAddr a.hin 0 0) false).or <|
  (s.checkRange c.pos a.hout (recAddr a.hout 0 0) (recBytes a.hout 0 (rlSize q * rlCh q) (2 ^ recEs a.hout)) true).or <| (s.checkRec ctx a.hgrp (recAddr a.hgrp 0 0) false).or <|
  (if bad then some { cause := .relayBad } else none).or <|
  (if s.stageTags c ≤ rlTag q then some noTag else none).or <|
  (beyond a.hin (rlSize q * rlCh q)).or <| (beyond a.hout (rlSize q * rlCh q)).or <| (beyond a.hgrp (rlSize q))

/-- A relay that waits for the die of a lane, issued with equal parameters (R349). -/
def State.joinable (s : State) (c : RCtx) (a : RelayArgs) : Option Relay :=
  let die := c.pos.core / 48
  if rlDmask a.q = 0 then none
  else s.t.relays.find? fun r =>
    r.pad == s.padOfCtx c.pos.ctx && r.dmask == rlDmask a.q && r.prog.isEmpty && r.rank == rlRank a.q
      && r.size == rlSize a.q && r.ch == rlCh a.q && r.chan == rlChan a.q && r.hp == a.hp && r.first == a.first
      && r.dmask / 2 ^ die % 2 == 1 && r.mems.all fun m => m.die != die && m.ctx == c.pos.ctx && m.tag == rlTag a.q

/-- A ticket (R353). -/
def ticketOf (eng sq : Nat) : Word := BitVec.ofNat 32 (eng + 4 * sq)

/-- A thread joins a relay, in ascending die number. -/
def Relay.join (r : Relay) (m : RelayMem) : Relay :=
  { r with mems := insertBy (fun a b => decide (a.die ≤ b.die)) m r.mems }

/-- One lane's relay issues. -/
def State.issueRelay (s : State) (c : RCtx) (d : Dst) (a : RelayArgs) (srcs : List Src) : LaneEnd × State :=
  match s.viewer c.wk c.arm, s.posOf c.pos.id with
  | some v, some p =>
    match s.relayCheck c a, s.floatBan c v a with
    | some t, _ => (.trap t, s)
    | none, some e => e
    | none, none =>
      let bytes (h : BitVec 128) : List (Option Nat) := recBytes h 0 (rlSize a.q * rlCh a.q) (2 ^ recEs h)
      let tag := rlTag a.q
      let m : RelayMem := ⟨c.pos.core / 48, s.nextId, c.pos.ctx, p.id, tag, ((p.tags[tag]?).elim 0 (·.gen)) + 1, a.hin, a.hout, a.hgrp⟩
      match s.racesAt v p a.hin (bytes a.hin) .read, s.racesAt v p a.hout (bytes a.hout) .write with
      | some e, _ => (e, s)
      | none, some e => (e, s)
      | none, none =>
        let go (eng sq : Nat) (f : State → State) : LaneEnd × State :=
          let s1 := (s.recordAll v p a.hin (bytes a.hin) .read).recordAll v p a.hout (bytes a.hout) .write
          (.out { writes := [(d, ⟨ticketOf eng sq, F.n32⟩)], frees := srcs },
            f (s1.issueOp v c [tag] (.relay eng sq) 4 false))
        if !p.tagsTake [tag] then (.park .backPressure, s)
        else match s.joinable c a with
          | some r => go r.eng r.seq fun s => s.modRelay r (·.join m)
          | none =>
            match s.pickEngine (s.padOfCtx c.pos.ctx) with
            | none => (.park .backPressure, s)
            | some eng =>
              let sq := (s.t.relaySeq[eng]?).getD 0
              go eng sq fun s => s.modT fun t =>
                { t with
                  relaySeq := t.relaySeq.set eng ((sq + 1) % 2 ^ 30)
                  relays := t.relays ++ [{ eng := eng, seq := sq, pad := s.padOfCtx c.pos.ctx, rank := rlRank a.q,
                                           size := rlSize a.q, ch := rlCh a.q, chan := rlChan a.q, dmask := rlDmask a.q,
                                           hp := a.hp, first := a.first, mems := [m], prog := [], pc := 0, iter := 0,
                                           wait := .none, out := [], due := s.now + us (2 ^ 20) }] }
  | _, _ => (.out {}, s)

/-- R353: a relay queued on an engine; D receives its ticket. -/
def execRelay (g : Guard) (d : Dst) (hp : BitVec 4) (x : Src) (q : Src) (s : State) : Host.Outcome State Fault Refusal :=
  .next (s.runArms { g := g, dsts := [d.spec], early := [x.spec] } (epochGuard (perLane
    (fun _ c => (wrOk c d (x :: srcRun q 4)).bind fun _ => rdRelay c hp x q)
    (fun s c a => s.issueRelay c d a (x :: srcRun q 4)))))

/-! ## rlwait (R354) -/

/-- How a ticket stands: its relay runs, it has ended, or it names none. -/
inductive Ticket where
  | running
  | ended (e : RelayEnd)
  | stale
  deriving DecidableEq, Repr

/-- No operation has been issued on a tag since its count of issues stood at `gen`. DEDUCED: log entry 106. -/
def State.current (s : State) (pos tag gen : Nat) : Bool := ((s.posOf pos).bind (·.tags[tag]?)).any fun t => t.gen == gen

def State.ticket (s : State) (c : RCtx) (t : Nat) : Ticket :=
  if s.t.relays.any fun r => r.is (t % 4) (t / 4) && r.mems.any fun m => m.ctx == c.pos.ctx && s.current m.pos m.tag m.gen then
    .running
  else
    let es := s.t.relayEnds.filter fun e =>
      e.eng == t % 4 && e.seq == t / 4 && e.ctx == c.pos.ctx && s.current e.pos e.tag e.gen
    match (es.find? (·.pos == c.pos.id)).or es.head? with
    | some e => .ended e
    | none => .stale

/-- The wait's end: it acquires as a `waitt` on the relay's tag does, or traps with the stored cause. -/
def State.ticketEnd (s : State) (c : RCtx) (p : Option (BitVec 3)) (t : Src) (n : Nat) (e : RelayEnd) : LaneEnd × State :=
  let s1 := match (s.posOf e.pos).bind (·.tags[e.tag]?) with
    | some g => s.modWarp c.wk (·.acquire c.arm g.front)
    | none => s
  match p, e.cause with
  | none, some x => (.trap { tagTrap x e.tag with info1 := BitVec.ofNat 32 n }, s)
  | none, none => (.out { frees := [t] }, s1)
  | some d, x => (.out { writes := [(⟨.p d, false⟩, boolTV x.isNone)], frees := [t] }, s1)

/-- R354: wait for the relay that a ticket names. -/
def execRlwait (g : Guard) (p : Option (BitVec 3)) (t : Src) (s : State) : Host.Outcome State Fault Refusal :=
  .next (s.runArms { g := g, dsts := p.toList.map .p } (epochGuard (perLane (fun _ c => rdNat c 1 t)
    (fun s c n =>
      match s.ticket c n with
      | .running => (.park (.ticket (BitVec.ofNat 32 n)), s)
      | .ended e => s.ticketEnd c p t n e
      | .stale => (.trap { cause := .relayBad }, s)))))

/-! ## The engine begins a relay (R348, R349) -/

/-- The relay that an engine runs: the first of its queue. -/
def State.relayHead (s : State) (eng : Nat) : Option Relay := s.t.relays.find? (·.eng == eng)

/-- What reading a program gives. -/
inductive Program where
  | steps (l : List (BitVec 128)) (s : State)
  | bad (s : State)
  | meets (m : Meets)
  deriving DecidableEq, Repr

/-- A LOOP leads back to an earlier step (R346). -/
def loopOk (i : Nat) : Instr → Bool
  | .loop _ tgt => decide (tgt.toNat < i)
  | _ => true

/-- The steps up to the first END, checked as they are read. -/
def State.readProgram (s : State) (o : EngOp) (p : Position) (r : Relay) : Nat → List (BitVec 128) → Program
  | 0, _ => .bad s
  | fuel + 1, acc =>
    let bs := recBytes r.hp (r.first + acc.length) 1 16
    if bs.any (·.isNone) && !recOob r.hp then .meets (.fail .bounds s)
    else match s.meets o p r.hp bs false with
      | .go s1 =>
        let (data, s2) := s1.engReads o p r.hp bs
        let w := BitVec.ofNat 128 (leNat data)
        match decodeStep w with
        | none => .bad s2
        | some .endr => .steps (acc ++ [w]) s2
        | some i => if loopOk acc.length i then s2.readProgram o p r fuel (acc ++ [w]) else .bad s2
      | m => .meets m

/-- The reduction of a program's first RRS. -/
def firstRrs (l : List (BitVec 128)) : Option (CpyOp × RelFmt) :=
  l.findSome? fun w => match decodeStep w with
    | some (.rrs op rf _ _ _ _ _) => some (op, rf)
    | _ => none

def Relay.allJoined (r : Relay) : Bool :=
  (List.range 4).all fun d => r.dmask / 2 ^ d % 2 == 0 || r.mems.any (·.die == d)

/-- The bytes of a member's buffer over every chunk. -/
def Relay.wholeBytes (r : Relay) (h : BitVec 128) : List (Option Nat) :=
  match r.lead with
  | some m => recBytes h 0 (r.size * r.ch) (2 ^ recEs m.hout)
  | none => []

/-- The dies' IN chunks folded left to right, in ascending die number (R349): none while some read must wait. -/
def foldDies (r : Relay) (red : CpyOp × RelFmt) : List RelayMem → Option (List Byte) → State →
    (Option (List Byte) × Meets)
  | [], acc, s => (acc, .go s)
  | m :: ms, acc, s =>
    match s.opOf m.op, s.placeOf m.pos with
    | some o, some p =>
      match s.meets o p m.hin (r.wholeBytes m.hin) false with
      | .go s1 =>
        let (x, s2) := s1.engReads o p m.hin (r.wholeBytes m.hin)
        foldDies r red ms (some (match acc with
          | none => x
          | some d => relBytes red.1 red.2 x.length d x)) s2
      | w => (acc, w)
    | _, _ => (acc, .wait s)

/-- Bytes written to a member's OUT. -/
def State.writeOut (s : State) (r : Relay) (m : RelayMem) (data : List Byte) : Meets :=
  match s.opOf m.op, s.placeOf m.pos with
  | some o, some p =>
    match s.meets o p m.hout (r.wholeBytes m.hout) true with
    | .go s1 => .go (s1.engWrites o.ctx o.pos m.hout ((r.wholeBytes m.hout).zip data))
    | w => w
  | _, _ => .wait s

/-- The dies' reduction into the OUT of the lowest die. -/
def State.reduceDies (s : State) (r : Relay) (l : List (BitVec 128)) : State :=
  match firstRrs l with
  | none => s.endRelay r (some .relayBad)
  | some red =>
    match foldDies r red r.mems none s, r.lead with
    | (some data, .go s1), some m =>
      State.relayMet r (s1.writeOut r m data) fun s2 => s2.modRelay r fun r => { r with prog := l }
    | (_, w), _ => State.relayMet r w id

/-- The engine takes up the relay at its queue's head: its dies joined, its program read and checked. -/
def State.beginRelay (s : State) (r : Relay) : State :=
  if !r.allJoined then s
  else match r.lead.bind fun m => (s.opOf m.op).bind fun o => (s.placeOf m.pos).map fun p => (o, p) with
    | none => s
    | some (o, p) =>
      match s.readProgram o p r 257 [] with
      | .bad s1 => s1.endRelay r (some .relayBad)
      | .meets m => State.relayMet r m id
      | .steps l s1 => if r.dmask = 0 then s1.modRelay r fun r => { r with prog := l } else s1.reduceDies r l

/-! ## The steps (R347) -/

/-- The step of the engine whose turn it is. -/
def State.onRelay (s : State) (f : Relay → State) : State :=
  match s.cur with
  | .engine e => match s.relayHead e with
    | some r => if r.wait == .none && !r.prog.isEmpty then f r else s
    | none => s
  | _ => s

/-- (base + a·iter + b) mod SIZE. -/
def Relay.index (r : Relay) (a b : BitVec 16) : Nat :=
  (((r.rank : Int) + a.toInt * r.iter + b.toInt) % (r.size : Int)).toNat

def Relay.source (r : Relay) (a b : BitVec 16) : Nat :=
  (((r.rank : Int) - a.toInt * r.iter - b.toInt) % (r.size : Int)).toNat

/-- R347: the OUT chunk sent to the peer; the program goes on. -/
def execSnd (pa pb ca cb : BitVec 16) (s : State) : Host.Outcome State Fault Refusal :=
  .next (s.onRelay fun r =>
    if r.index pa pb == r.rank then s.relayNext r else s.relaySend r (r.index pa pb) (r.index ca cb))

/-- A receive of a chunk posted to the node it comes from; the program waits for it. -/
def State.relayRecvFrom (s : State) (r : Relay) (node chunk : Nat) (red : Option (CpyOp × RelFmt)) (peer : Option Nat) :
    State :=
  match r.lead with
  | none => s
  | some m =>
    if !s.routed r.pad node then s.endRelay r (some .linkDown)
    else
      (s.modRelay r fun r => { r with wait := .recv red peer chunk }).addRecv m.op chunk
        { pad := r.pad, src := node, dst := s.node, chan := r.chan, num := 0, relay := true } (r.ch * 2 ^ recEs m.hout)

/-- A receive of a chunk from a rank, sent on to another; GRP is read for both before the receive. DEDUCED: log entry 104. -/
def State.relayRecv (s : State) (r : Relay) (src chunk : Nat) (red : Option (CpyOp × RelFmt)) (peer : Option Nat) : State :=
  s.rankNode r src fun node s1 =>
    match peer with
    | none => s1.relayRecvFrom r node chunk red none
    | some k => s1.rankNode r k fun next s2 => s2.relayRecvFrom r node chunk red (some next)

/-- R347: the OUT chunk received from src. -/
def execRcv (pa pb ca cb : BitVec 16) (s : State) : Host.Outcome State Fault Refusal :=
  .next (s.onRelay fun r =>
    if r.source pa pb == r.rank then s.relayNext r else s.relayRecv r (r.source pa pb) (r.index ca cb) none none)

/-- R347: a chunk received and reduced into OUT, then sent on unless NS. -/
def execRrs (op : CpyOp) (rf : RelFmt) (ns : Bool) (pa pb ca cb : BitVec 16) (s : State) :
    Host.Outcome State Fault Refusal :=
  .next (s.onRelay fun r =>
    if r.source pa pb == r.rank || (!ns && r.index pa pb == r.rank) then s.relayNext r
    else s.relayRecv r (r.source pa pb) (r.index ca cb) (some (op, rf)) (if ns then none else some (r.index pa pb)))

/-- R347: the IN chunk copied to OUT; nothing where dies have joined (R349). -/
def execCpys (ca cb : BitVec 16) (s : State) : Host.Outcome State Fault Refusal :=
  .next (s.onRelay fun r =>
    if r.dmask != 0 then s.relayNext r
    else match r.lead.bind fun m => (s.opOf m.op).bind fun o => (s.placeOf m.pos).map fun p => (m, o, p) with
      | none => s
      | some (m, o, p) =>
        let es := recEs m.hout
        let src := r.chunkBytes m.hin es (r.index ca cb)
        let dst := r.chunkBytes m.hout es (r.index ca cb)
        State.relayMet r (s.meets o p m.hin src false) fun s1 =>
          State.relayMet r (s1.meets o p m.hout dst true) fun s2 =>
            let (data, s3) := s2.engReads o p m.hin src
            (s3.engWrites o.ctx o.pos m.hout (dst.zip data)).relayNext r)

/-- R347: the program waits until every earlier send has completed remotely. -/
def execWat (s : State) : Host.Outcome State Fault Refusal :=
  .next (s.onRelay fun r => if r.out.isEmpty then s.relayNext r else s)

/-- R347: the iteration counter goes on and the program goes back, or the counter starts over. -/
def execLoop (cnt tgt : BitVec 16) (s : State) : Host.Outcome State Fault Refusal :=
  .next (s.onRelay fun r =>
    if r.iter + 1 < cnt.toNat then s.modRelay r fun r => { r with iter := r.iter + 1, pc := tgt.toNat }
    else (s.modRelay r fun r => { r with iter := 0 }).relayNext r)

/-- R349: OUT copied to the other dies that joined. -/
def State.spreadOut (r : Relay) (data : List Byte) : List RelayMem → State → Meets
  | [], s => .go s
  | m :: ms, s =>
    match s.writeOut r m data with
    | .go s1 => spreadOut r data ms s1
    | w => w

/-- R347, R349: as WAT; then the relay completes on every participant. -/
def execEndr (s : State) : Host.Outcome State Fault Refusal :=
  .next (s.onRelay fun r =>
    if !r.out.isEmpty then s
    else match r.lead.bind fun m => (s.opOf m.op).bind fun o => (s.placeOf m.pos).map fun p => (m, o, p) with
      | none => s
      | some (m, o, p) =>
        if r.mems.length ≤ 1 then s.endRelay r none
        else
          State.relayMet r (s.meets o p m.hout (r.wholeBytes m.hout) false) fun s1 =>
            let (data, s2) := s1.engReads o p m.hout (r.wholeBytes m.hout)
            State.relayMet r (State.spreadOut r data (r.mems.drop 1) s2) fun s3 => s3.endRelay r none)

/-- R349: not every named die issued in time. -/
def execRelayIssueTimeout (eng : Nat) (sq : Nat) (s : State) : Host.Outcome State Fault Refusal :=
  .next <|
    match s.t.relays.find? (·.is eng sq) with
    | some r => if r.prog.isEmpty && !r.allJoined then (s.at r.due).endRelay r (some .relayTimeout) else s
    | none => s

end Sys2Proof.Machine
end

