-- ==== Sys2Proof/Machine/Shake.lean ====
section
/-! DEFINITION. SHAKE256 (R73, R361, R429), as FIPS 202 defines it (log entry 41). -/

namespace Sys2Proof.Machine

/-- The sponge: 25 words of 64 bits, the word of column x and row y at place x + 5y. -/
abbrev Sponge := List Dword

def Sponge.word (a : Sponge) (i : Nat) : Dword := (a[i]?).getD 0

/-- The place of column x and row y, both modulo 5. -/
def place (x y : Nat) : Nat := x % 5 + 5 * (y % 5)

/-- The walk over the 24 places other than 0: from (1, 0), each (x, y) goes on to (y, 2x + 3y). -/
def walk : Nat → Nat × Nat → List Nat
  | 0, _ => []
  | n + 1, (x, y) => place x y :: walk n (y % 5, (2 * x + 3 * y) % 5)

/-- How far the word at a place turns: the triangular number of its turn on the walk; the word at place 0 does not. -/
def turnOf (i : Nat) : Nat :=
  match (walk 24 (1, 0)).findIdx? (· == i) with
  | some t => (t + 1) * (t + 2) / 2 % 64
  | none => 0

/-- The bits of the round constants: an 8-bit shift register with feedback 0x71, from 1. -/
def feedback : Nat → Nat → List Bool
  | 0, _ => []
  | n + 1, r => r.testBit 0 :: feedback n ((2 * r ^^^ (if 128 ≤ r then 0x71 else 0)) % 256)

/-- The constant of a round: its seven bits stand at the places 2^j − 1. -/
def roundWord (bits : List Bool) (r : Nat) : Dword :=
  (List.range 7).foldl (fun w j => if bits.getD (7 * r + j) false then w ||| (1#64 <<< (2 ^ j - 1)) else w) 0

/-- The parity of a column. -/
def Sponge.parity (a : Sponge) (x : Nat) : Dword :=
  [0, 1, 2, 3, 4].foldl (fun w y => w ^^^ a.word (place x y)) 0

/-- Each word takes the parities of the column before it and of the one after it, that one turned by 1. -/
def Sponge.mixColumns (a : Sponge) : Sponge :=
  let ps := [0, 1, 2, 3, 4].map a.parity
  a.mapIdx fun i w => w ^^^ ps.getD ((i + 4) % 5) 0 ^^^ (ps.getD ((i + 1) % 5) 0).rotateLeft 1

/-- The word of (x, y), turned, goes to (y, 2x + 3y); so place (u, v) takes it from column u + 3v and row u. -/
def Sponge.scatter (a : Sponge) : Sponge :=
  a.mapIdx fun i _ =>
    let from' := place (i % 5 + 3 * (i / 5)) (i % 5)
    (a.word from').rotateLeft (turnOf from')

/-- Each word takes the one two columns on where the next one's bits are clear. -/
def Sponge.bendRows (a : Sponge) : Sponge :=
  a.mapIdx fun i w => w ^^^ (a.word (place (i + 2) (i / 5)) &&& ~~~ a.word (place (i + 1) (i / 5)))

/-- PRESUMED: log entry 41. -/
def Sponge.permute (a : Sponge) : Sponge :=
  let bits := feedback 168 1
  (List.range 24).foldl (fun a r =>
    a.mixColumns.scatter.bendRows.mapIdx fun i w => if i = 0 then w ^^^ roundWord bits r else w) a

/-- A block of 136 bytes absorbed. -/
def Sponge.absorb (a : Sponge) (bs : List Byte) : Sponge :=
  Sponge.permute (a.mapIdx fun i w => if i < 17 then w ^^^ BitVec.ofNat 64 (leNat ((bs.drop (8 * i)).take 8)) else w)

def Sponge.absorbAll : Nat → Sponge → List Byte → Sponge
  | 0, a, _ => a
  | n + 1, a, bs => absorbAll n (a.absorb (bs.take 136)) (bs.drop 136)

/-- The message with its domain bits and padding, whole blocks of 136 bytes. -/
def shakePad (m : List Byte) : List Byte :=
  let k := 136 - m.length % 136
  if k = 1 then m ++ [0x9F] else m ++ [0x1F] ++ List.replicate (k - 2) 0 ++ [0x80]

/-- The first n bytes of SHAKE256 of a message, n at most 136. PRESUMED: log entry 41. -/
def shake256 (m : List Byte) (n : Nat) : List Byte :=
  let p := shakePad m
  ((Sponge.absorbAll (p.length / 136) (List.replicate 25 0) p).flatMap fun w => leBytes 8 w.toNat).take n

end Sys2Proof.Machine
end

