-- ==== Sys2Proof/Machine/Names.lean ====
section
/-! DEFINITION. Named tiles (R356 to R371): names and realms, interests and routes, folds and deliveries, and `ask`,
`annc`, `wdrw` and `nmk`. -/

namespace Sys2Proof.Machine

/-! ## Names (R356, R357) -/

def nameRealm (n : BitVec 128) : Nat := (n.extractLsb' 112 16).toNat

/-- The name with the issuing paddock's realm; none when it bears another realm. -/
def stampRealm (realm : Nat) (n : BitVec 128) : Option (BitVec 128) :=
  if nameRealm n = 0 then some (n ||| BitVec.ofNat 128 (realm * 2 ^ 112))
  else if nameRealm n = realm then some n else none

def State.realmOf (s : State) (pad : Nat) : Nat := ((s.padOf pad).map (·.realm)).getD 0

/-! ## Routes (R360) -/

def routePlen (r : BitVec 128) : Nat := (r.extractLsb' 72 7).toNat

/-- A valid entry of the name's realm whose leading bits match. -/
def routeMatches (r n : BitVec 128) : Bool :=
  r.getLsbD 79 && (r.extractLsb' 80 16).toNat == nameRealm n && decide (routePlen r ≤ 72)
    && (r.extractLsb' 0 72).toNat / 2 ^ (72 - routePlen r) == (n.extractLsb' 40 72).toNat / 2 ^ (72 - routePlen r)

/-- The next node of a name: the longest match, unless it is local. -/
def State.nextNode (s : State) (n : BitVec 128) : Option Nat :=
  let best := (s.t.routes.filter fun r => routeMatches r.2 n).foldl (fun m r => match m with
    | none => some r.2
    | some x => if routePlen x < routePlen r.2 then some r.2 else some x) none
  (best.map fun r => (r.extractLsb' 96 20).toNat).filter (· != s.node)

/-- A tile, an interest or the notice of a conflict sent to a node, on a lane group of the paddock and under its fabric key; none where
no route leads there or no key is Active. DESIGN CHOICE: log entry 165. -/
def State.sendName (s : State) (pad node : Nat) (n : BitVec 128) (expiry : Nat) (tile : Option (List Byte)) (conflict : Bool) :
    Option State :=
  match s.hops pad node, (s.padOf pad).bind (·.activeKey 2) with
  | (port, g) :: _, some key =>
    some (s.modT fun t => { t with nameOut := t.nameOut ++ [⟨pad, port, g, key, node, n, expiry, tile, conflict⟩] })
  | _, _ => none

/-! ## Tiles and folds (R361, R362) -/

/-- Where the bytes of a tile lie in a record (R367): none where out of bounds. -/
def nameBytes (r : BitVec 128) (first len : Nat) : List (Option Nat) :=
  (List.range len).map fun b =>
    let i := first + b / recStride r
    if recInBounds r i (b % recStride r) 1 then some (recAddr r i (b % recStride r)) else none

/-- The content digest. -/
def tileDigest (d : List Byte) : Dword := BitVec.ofNat 64 (leNat (shake256 d 8))

def State.foldOf (s : State) (pad : Nat) (n : BitVec 128) : Option FoldTile :=
  s.t.folds.find? fun f => f.pad == pad && f.name == n

/-- A held tile that cannot be read any more: its lines stand under a Revoked slot (R397). -/
def State.foldRevoked (s : State) (pad : Nat) (n : BitVec 128) : Bool :=
  (s.foldOf pad n).any fun f => f.key.any (s.revoked pad)

/-- Where byte `b` of a held tile lies. -/
def State.tileAt (s : State) (f : FoldTile) (b : Nat) : Nat :=
  ((s.padOf f.pad).elim 0 (·.carve)) * 2 ^ 16 + ((f.blocks[b / 4096]?).getD 0) * 4096 + b % 4096

/-- The bytes of a held tile before the first that an uncorrectable error spoils; all of them where none does (R363, R410). -/
def State.tileSound (s : State) (f : FoldTile) : Nat :=
  ((List.range f.data.length).find? fun b => !s.sound (s.tileAt f b) 1).getD f.data.length

/-- The room a tile takes. -/
def tileRoom (len : Nat) : Nat := (len + 4095) / 4096 * 4096

def State.foldUsed (s : State) (pad : Nat) : Nat :=
  ((s.t.folds.filter (·.pad == pad)).map fun f => tileRoom f.data.length).sum

/-- The lowest free 4 KiB blocks of a fold. -/
def State.freeBlocks (s : State) (pad n : Nat) : List Nat :=
  let used := (s.t.folds.filter (·.pad == pad)).flatMap (·.blocks)
  ((List.range (used.length + n)).filter fun b => !used.contains b).take n

/-- The tiles of a fold moved to its lowest blocks. -/
def State.packFold (s : State) (pad : Nat) : State :=
  (s.t.folds.filter (·.pad == pad)).foldl (fun s f =>
    let s1 := s.modT fun t => { t with folds := t.folds.filter fun g => !(g.pad == pad && g.name == f.name) }
    s1.modT fun t => { t with folds := t.folds ++ [{ f with blocks := s1.freeBlocks pad f.blocks.length }] })
    (s.modT fun t => { t with folds := t.folds.map fun f => if f.pad == pad then { f with blocks := f.blocks.map (· + 2 ^ 23) } else f })

/-- The least recently delivered tile that has no delivery in progress. DESIGN CHOICE: log entry 108. -/
def State.victim (s : State) (pad : Nat) : Option FoldTile :=
  ((s.t.folds.filter (·.pad == pad)).filter fun f => !(s.t.deliveries.any fun d => d.pad == pad && d.name == f.name && (s.opOf d.op).isSome)).foldl
    (fun m f => match m with
      | none => some f
      | some x => if f.used < x.used then some f else some x) none

/-- Room made in a fold; none while no tile can be evicted. DESIGN CHOICE: log entry 108. -/
def State.makeRoom (s : State) (pad need : Nat) : Nat → Option State
  | 0 => none
  | fuel + 1 =>
    if s.foldUsed pad + need ≤ ((s.padOf pad).map (·.fold)).getD 0 * 2 ^ 30 then some s
    else match s.victim pad with
      | none => none
      | some v => State.makeRoom (s.modT fun t =>
          { t with folds := t.folds.filter fun f => !(f.pad == pad && f.name == v.name) }) pad need fuel

/-! ## Serving requesters (R363) -/

/-- A tile counts as delivered now. -/
def State.stampTile (s : State) (pad : Nat) (n : BitVec 128) : State :=
  let (stamp, s1) := s.fresh
  s1.modT fun t => { t with folds := upd (fun f => f.pad == pad && f.name == n) (fun f => { f with used := stamp }) t.folds }

/-- The capacity that an ask gives. -/
def askCap : OpKind → Nat
  | .ask _ _ _ cap _ => cap
  | _ => 0

/-- A tile available to an ask: its delivery begins, unless it is longer than the capacity. -/
def State.deliverTile (s : State) (op pad : Nat) (n : BitVec 128) (data : List Byte) : State :=
  match s.opOf op with
  | none => s
  | some o =>
    if askCap o.kind < data.length then s.finishOp o (some .nameSize)
    else
      ((s.stampTile pad n).modT fun t => { t with deliveries := t.deliveries ++ [⟨op, pad, n, data⟩] }).modOp op
        fun o => { o with st := .moving }

/-- A tile available to a requester whose lifetime has not ended; one that cannot be read is not sent to a face.
DESIGN CHOICE: log entry 108. -/
def State.serve (s : State) (pad : Nat) (n : BitVec 128) (data : List Byte) (r : Requester) : State :=
  match r.ask with
  | some op =>
    if s.now ≤ r.expiry then s.deliverTile op pad n data
    else match s.opOf op with
      | some o => s.finishOp o (some .nameNeverProduced)
      | none => s
  | none =>
    if s.now ≤ r.expiry && !s.foldRevoked pad n && (s.foldOf pad n).all fun f => s.tileSound f == f.data.length then
      ((s.sendName pad r.face n r.expiry (some data) false).map fun s1 => s1.stampTile pad n).getD s
    else s

def Interest.is (i : Interest) (pad : Nat) (n : BitVec 128) : Bool := i.pad == pad && i.name == n

def State.interestOf (s : State) (pad : Nat) (n : BitVec 128) : Option Interest := s.t.interests.find? (·.is pad n)

/-- Entries whose last requester is gone are removed. -/
def State.pruneInterests (s : State) : State :=
  s.modT fun t => { t with interests := t.interests.filter fun i => !i.reqs.isEmpty }

/-- Faces whose interest has expired are removed silently. -/
def State.dropFaces (s : State) : State :=
  (s.modT fun t =>
    { t with heldFaces := t.heldFaces.filter fun h => decide (s.now ≤ h.expiry)
             interests := t.interests.map fun i =>
               { i with reqs := i.reqs.filter fun r => r.ask.isSome || decide (s.now ≤ r.expiry) } }).pruneInterests

/-- A paddock's share of the interest table is full (R358). DEDUCED: log entry 107. -/
def State.shareFull (s : State) (pad : Nat) : Bool :=
  decide (1024 * ((s.padOf pad).map (·.ishare)).getD 0 ≤ (s.t.interests.filter (·.pad == pad)).length)

/-- An interest forwarded along the route table, when it leads to another node: the expiry forwarded. -/
def State.forward (s : State) (pad : Nat) (n : BitVec 128) (expiry : Nat) : Option Nat × State :=
  match (s.nextNode n).bind fun node => s.sendName pad node n expiry none false with
  | some s1 => (some expiry, s1)
  | none => (none, s)

/-- A requester resolved (R359): by the fold, by an entry that it joins, or by a new entry; none while the share is
full. -/
def State.request (s : State) (pad : Nat) (n : BitVec 128) (r : Requester) : Option State :=
  match s.foldOf pad n with
  | some f => some (s.serve pad n f.data r)
  | none =>
    match s.interestOf pad n with
    | some i =>
      let s1 := s.modT fun t =>
        { t with interests := upd (·.is pad n) (fun i => { i with reqs := i.reqs ++ [r] }) t.interests }
      some (match i.fwd with
        | some e =>
          if e < r.expiry then
            let (f, s2) := s1.forward pad n r.expiry
            s2.modT fun t => { t with interests := upd (·.is pad n) (fun i => { i with fwd := f.or i.fwd }) t.interests }
          else s1
        | none => s1)
    | none =>
      if s.shareFull pad then none
      else
        let (f, s1) := s.forward pad n r.expiry
        some (s1.modT fun t => { t with interests := t.interests ++ [⟨pad, n, [r], f⟩] })

/-- Asks held in the Stile for want of an entry, in the order they came. -/
def State.heldAsks (s : State) (pad : Nat) : List (EngOp × BitVec 128 × Nat) :=
  s.c.ops.filterMap fun o => match o.kind, o.st with
    | .ask _ n _ _ e, .issued => if s.padOfCtx o.ctx == pad then some (o, n, e) else none
    | _, _ => none

/-- What is still to come in this cycle makes a name available: the agenda lists what one cycle holds (log entry 2). -/
def State.announces (s : State) (pad : Nat) (n : BitVec 128) : Act → Bool
  | .event (.announcementDecision id) => (s.opOf id).any fun o => s.padOfCtx o.ctx == pad && match o.kind with
      | .annc _ m _ _ => m == n
      | _ => false
  | .event (.tileReturn p _ m _) => p == pad && m == n
  | _ => false

/-- A tile of the name becomes available in this cycle: it goes before an ask, an expiry and a `wdrw` of the name (R364). -/
def State.comes (s : State) (pad : Nat) (n : BitVec 128) : Bool := s.agenda.any (s.announces pad n)

/-- An ask that the Stile accepts. DEDUCED: log entry 107. -/
def State.acceptAsk (s : State) (o : EngOp) (n : BitVec 128) (expiry : Nat) : State :=
  if s.comes (s.padOfCtx o.ctx) n then s else
  let s1 := s.dropFaces
  match (s1.modOp o.id fun o => { o with st := .accepted }).request (s.padOfCtx o.ctx) n ⟨some o.id, 0, expiry⟩ with
  | some s2 => s2
  | none => s1

/-- The interest of a face that was held, resolved. -/
def State.admitFace (s : State) (h : HeldFace) : State :=
  match s.request h.pad h.name ⟨none, h.face, h.expiry⟩ with
  | some s1 => s1.modT fun t => { t with heldFaces := t.heldFaces.filter (·.id != h.id) }
  | none => s

/-- Entries have been freed: held asks, and interests of faces, are resolved in the order they came. -/
def State.admitAsks (s : State) (pad : Nat) : State :=
  let asks := (s.heldAsks pad).map fun x => (x.1.id, fun (s : State) => s.acceptAsk x.1 x.2.1 x.2.2)
  let faces := (s.t.heldFaces.filter (·.pad == pad)).map fun h => (h.id, fun (s : State) => s.admitFace h)
  (sortBy (fun a b => decide (a.1 ≤ b.1)) (asks ++ faces)).foldl (fun s x => x.2 s) s

/-- After every step: asks held for want of a place are resolved, where one has been freed (R358). -/
def State.admits (s : State) : State := s.m.paddocks.foldl (fun s p => s.admitAsks p.id) s.dropFaces

/-! ## Announcements (R361) -/

/-- A tile and its digest stored: its blocks hold good data (R410). -/
def State.storeTile (s : State) (f : FoldTile) : State :=
  (List.range f.blocks.length).foldl (fun s k => s.repairSpan (s.tileAt f (4096 * k)) 4096)
    (s.modT fun t => { t with folds := t.folds ++ [f] })

/-- A tile announced in a paddock: stored and served, merged, or in conflict; none while the fold has no room. -/
def State.announce (s : State) (pad : Nat) (n : BitVec 128) (data : List Byte) : Option (Bool × State) :=
  match s.foldOf pad n with
  | some f => some (f.digest == tileDigest data, s)
  | none =>
    match s.makeRoom pad (tileRoom data.length) (s.t.folds.length + 1) with
    | none => none
    | some s1 =>
      let (stamp, s2) := s1.fresh
      let s3 := s2.storeTile ⟨pad, n, tileDigest data, data, stamp, (s.padOf pad).bind (·.activeKey 0),
        s2.freeBlocks pad (tileRoom data.length / 4096)⟩
      match s3.interestOf pad n with
      | none => some (true, s3.admitAsks pad)
      | some i =>
        let s4 := s3.modT fun t => { t with interests := t.interests.filter fun x => !x.is pad n }
        some (true, (i.reqs.foldl (fun s r => s.serve pad n data r) s4).admitAsks pad)

/-! ## The instructions (R367, R368) -/

/-- The parameter pair: FIRST, tag, lifetime code, and capacity or length. -/
structure NameArgs where
  r : BitVec 128
  name : BitVec 128
  first : Nat
  w : Word
  deriving DecidableEq, Repr

def NameArgs.tag (a : NameArgs) : Nat := (a.w.extractLsb' 0 6).toNat
def NameArgs.life (a : NameArgs) : Nat := (a.w.extractLsb' 6 5).toNat
def NameArgs.size (a : NameArgs) (ask : Bool) : Nat :=
  if ask then (a.w.extractLsb' 11 19).toNat else (a.w.extractLsb' 6 19).toNat

/-- Reserved bits, lifetime code, and capacity or length. -/
def NameArgs.bad (a : NameArgs) (ask : Bool) : Bool :=
  (if ask then a.w.extractLsb' 30 2 != 0 || decide (20 < a.life) else a.w.extractLsb' 25 7 != 0)
    || a.size ask = 0 || decide (262144 < a.size ask)

def rdName (c : RCtx) (h : BitVec 4) (q p : Src) : LaneStep NameArgs :=
  (handleOf c h).bind fun r => (rdQuad c 2 q).bind fun n => (rdRaws c 3 p 2).map fun l =>
    ⟨r, n, (l.headD 0).toNat, (l.drop 1).headD 0⟩

/-- The first byte of a tile that is out of bounds. -/
def nameBeyond (a : NameArgs) (bs : List (Option Nat)) : Option Trap :=
  if recOob a.r then none
  else (bs.findIdx? (·.isNone)).map fun b =>
    memTrap .bounds (recObj a.r) (recAddr a.r (a.first + b / recStride a.r) (b % recStride a.r))

/-- The key that a name's operation writes or sends under is Active (R397): an announcement writes to the fold; an ask that the fold
does not serve goes to another node where a route leads there. DESIGN CHOICE: log entry 165. -/
def State.nameKey (s : State) (ctx : Nat) (ask : Bool) (name : BitVec 128) : Bool :=
  let pad := s.padOfCtx ctx
  let n := (stampRealm (s.realmOf pad) name).getD name
  let has (dom : Nat) : Bool := (s.padOf pad).any fun p => (p.activeKey dom).isSome
  if ask then (s.foldOf pad n).isSome || (s.nextNode n).isNone || has 2 else has 0

/-- The checks of R368, in order. -/
def State.nameCheck (s : State) (c : RCtx) (ask : Bool) (a : NameArgs) : Option Trap :=
  let off := recAddr a.r a.first 0
  let bs := nameBytes a.r a.first (a.size ask)
  (s.recExists c.pos.ctx a.r off).or <| (s.checkRange c.pos a.r off bs ask).or <|
  (if (stampRealm (s.realmOf (s.padOfCtx c.pos.ctx)) a.name).isNone then some { cause := .nameRealm } else none).or <|
  (if a.bad ask then some { cause := .nameBad } else none).or <|
  (if s.stageTags c ≤ a.tag then some noTag else none).or <|
  (nameBeyond a bs).or <| (stashBeyond (s.stashLimit c) a.r bs).or <|
  (if ask then notOwned (s.det? c.pos) c.block a.r bs else none).or <|
  (if s.nameKey c.pos.ctx ask a.name then none else some { cause := .keyRevoked })

/-- Asks and announcements of a paddock that the Stile has not accepted (R368). -/
def State.unaccepted (s : State) (pad : Nat) : Nat :=
  (s.c.ops.filter fun o => s.padOfCtx o.ctx == pad && match o.kind, o.st with
    | .ask .., .issued | .annc .., _ => true
    | _, _ => false).length

/-- One lane's `ask` or `annc` issues (R365, R368). -/
def State.issueName (s : State) (c : RCtx) (ask : Bool) (a : NameArgs) (srcs : List Src) : LaneEnd × State :=
  match s.nameCheck c ask a, s.viewer c.wk c.arm, s.posOf c.pos.id with
  | some t, _, _ => (.trap t, s)
  | none, some v, some p =>
    let pad := s.padOfCtx c.pos.ctx
    let bs := nameBytes a.r a.first (a.size ask)
    let k : AccKind := if ask then .write else .read
    if 4096 ≤ s.unaccepted pad || !p.tagsTake [a.tag] then (.park .backPressure, s)
    else match s.racesAt v p a.r bs k with
      | some e => (e, s)
      | none =>
        let n := (stampRealm (s.realmOf pad) a.name).getD a.name
        let expiry := s.now + us (2 ^ a.life)
        let s1 := (s.recordAll v p a.r bs k).issueOp v c [a.tag]
          (if ask then .ask a.r n a.first (a.size true) expiry else .annc a.r n a.first (a.size false)) 4 false
        (.out { frees := srcs },
          if ask then match s1.opOf s.nextId with
            | some o => s1.acceptAsk o n expiry
            | none => s1
          else s1)
  | _, _, _ => (.out {}, s)

/-- R359, R367: a tile asked for by its name. -/
def execAsk (g : Guard) (hd : BitVec 4) (q : Src) (p : Src) (s : State) : Host.Outcome State Fault Refusal :=
  .next (s.runArms { g := g } (epochGuard (perLane (fun _ c => rdName c hd q p)
    (fun s c a => s.issueName c true a (srcRun q 4 ++ srcRun p 2)))))

/-- R361, R367: a tile announced under its name. -/
def execAnnc (g : Guard) (hs : BitVec 4) (q : Src) (p : Src) (s : State) : Host.Outcome State Fault Refusal :=
  .next (s.runArms { g := g } (epochGuard (perLane (fun _ c => rdName c hs q p)
    (fun s c a => s.issueName c false a (srcRun q 4 ++ srcRun p 2)))))

/-- A requester of a position's ask taken out of its entry, with a cause for its tag. -/
def State.endAsk (s : State) (o : EngOp) (c : Cause) : State :=
  let pad := s.padOfCtx o.ctx
  (((s.modT fun t => { t with interests := t.interests.map fun i =>
    { i with reqs := i.reqs.filter fun r => r.ask != some o.id } }).pruneInterests).finishOp o (some c)).admitAsks pad

/-- A requester still Waiting: in an entry, or held. -/
def State.askWaits (s : State) (o : EngOp) : Bool :=
  match o.kind with
  | .ask .. => o.st == .issued || s.t.interests.any fun i => i.reqs.any fun r => r.ask == some o.id
  | _ => false

/-- R369: the position's Waiting requester of a name and tag is withdrawn. -/
def execWdrw (g : Guard) (q : Src) (t : Src) (s : State) : Host.Outcome State Fault Refusal :=
  .next (s.runArms { g := g } (detBan true (perLane
    (fun s c => (rdQuad c 1 q).bind fun n => (rdNat c 2 t).bind fun k =>
      match stampRealm (s.realmOf (s.padOfCtx c.pos.ctx)) n with
      | none => .trap { cause := .nameRealm }
      | some n => (LaneStep.require (decide (k < s.stageTags c)) noTag).map fun _ => (n, k))
    (fun s c x =>
      let is (o : EngOp) : Bool := o.pos == c.pos.id && o.tags.contains x.2 && s.askWaits o && match o.kind with
        | .ask _ n _ _ _ => n == x.1 && !s.comes (s.padOfCtx o.ctx) n
        | _ => false
      (.out { frees := srcRun q 4 ++ [t] }, match s.c.ops.find? is with
        | some o => s.endAsk o .nameWithdrawn
        | none => s)))))

/-! ## nmk (R370) -/

/-- The place of a field of a name: its low bit and width. -/
def nmkPlace : NmkField → Nat × Nat
  | .clr => (0, 128)
  | .tensor => (88, 24)
  | .t0 => (40, 16)
  | .t1 => (56, 16)
  | .t2 => (72, 16)
  | .iter => (16, 24)
  | .var => (0, 16)

/-- A name with a field replaced. -/
def nmkPut (n : BitVec 128) (lo w v : Nat) : BitVec 128 :=
  (n &&& ~~~ BitVec.ofNat 128 ((2 ^ w - 1) * 2 ^ lo)) ||| BitVec.ofNat 128 (v * 2 ^ lo)

/-- A name written to a quad, raw32. -/
def nmkWrites (d : Dst) (n : BitVec 128) : List (Dst × TV) :=
  [(d, ⟨n.extractLsb' 0 32, F.raw32⟩), (dstSucc d, ⟨n.extractLsb' 32 32, F.raw32⟩),
   (dstSucc (dstSucc d), ⟨n.extractLsb' 64 32, F.raw32⟩), (dstSucc (dstSucc (dstSucc d)), ⟨n.extractLsb' 96 32, F.raw32⟩)]

/-- The four registers of D may be written. -/
def quadOk (c : RCtx) (d : Dst) : LaneStep Unit :=
  (wrOk c d).bind fun _ => (wrOk c (dstSucc d)).bind fun _ => (wrOk c (dstSucc (dstSucc d))).bind fun _ =>
    wrOk c (dstSucc (dstSucc (dstSucc d)))

/-- `nmk` in one lane. -/
def laneNmk (f : NmkField) (d : Dst) (v : Src) (c : RCtx) : LaneStep LaneOut :=
  if f == .clr then (quadOk c d).map fun _ => { writes := nmkWrites d 0 }
  else
    (rdQuad c 0 ⟨d.spec, false, false⟩).bind fun n => (rdNat c 1 v).bind fun x =>
      let (lo, w) := nmkPlace f
      (LaneStep.require (decide (x < 2 ^ w)) { cause := .nameBad }).bind fun _ =>
        (quadOk c d).map fun _ => { writes := nmkWrites d (nmkPut n lo w x), frees := [v] }

def quadSpecs (d : Spec) : List Spec := [d, specSucc d, specSucc (specSucc d), specSucc (specSucc (specSucc d))]

/-- R370: one field of a name replaced, or the name cleared. -/
def execNmk (fld : NmkField) (g : Guard) (d : Dst) (v : Src) (s : State) : Host.Outcome State Fault Refusal :=
  .next (s.runArms { g := g, dsts := quadSpecs d.spec } (pureArm (laneWise (laneNmk fld d v))))

/-! ## Events -/

/-- A paddock that a name belongs to. -/
def State.nameHere (s : State) (pad : Nat) (n : BitVec 128) : Bool := (s.padOf pad).any fun p => p.realm == nameRealm n

/-- R359: an interest arrives from a neighbouring node. -/
def execInterestArrival (pad : Nat) (face : Nat) (name : BitVec 128) (expiry : Nat) (s : State) :
    Host.Outcome State Fault Refusal :=
  .next <|
    if s.nameHere pad name then
      let s1 := s.dropFaces
      (s1.request pad name ⟨none, face, expiry⟩).getD
        (let (id, s2) := s1.fresh
         s2.modT fun t => { t with heldFaces := t.heldFaces ++ [⟨id, pad, name, face, expiry⟩] })
    else s

/-- A conflict found as a tile returns (R361): the event goes to the context that announced it, when that is one of this package,
else word of it goes back to where the tile came from. DESIGN CHOICE: log entry 109. -/
def State.returnConflict (s : State) (h : HeldTile) : State :=
  match h.origin with
  | some ctx => if (s.ctxOf ctx).any fun c => c.pad == h.pad && c.st != .free then
      s.post ctx { src := 6, kind := 4, cause := Cause.nameConflict.code.toNat }
    else s
  | none => (s.sendName h.pad h.face h.name 0 none true).getD s

/-- A tile that has returned meets the fold as an announcement does; it waits while the fold has no room. A fold that no key is
Active for takes none. -/
def State.takeTile (s : State) (h : HeldTile) : State :=
  if (s.padOf h.pad).all fun p => (p.activeKey 0).isNone then s
  else match s.announce h.pad h.name h.tile with
    | some (true, s1) => s1
    | some (false, s1) => s1.returnConflict h
    | none => s.modT fun t => { t with heldTiles := t.heldTiles ++ [h] }

/-- Returned tiles that waited for room, after a step. -/
def State.admitTiles (s : State) : State :=
  s.t.heldTiles.foldl State.takeTile (s.modT fun t => { t with heldTiles := [] })

/-- R361: a tile returns from a neighbouring node, and is treated as an announcement. DESIGN CHOICE: log entry 109. -/
def execTileReturn (pad : Nat) (face : Nat) (name : BitVec 128) (t : TileBack) (s : State) :
    Host.Outcome State Fault Refusal :=
  .next <|
    if s.nameHere pad name && face != s.node && decide (t.tile.length ≤ 262144) && !t.tile.isEmpty then
      s.takeTile ⟨pad, face, name, t.tile, t.origin⟩
    else s

/-- Announcements of one name in a cycle go by SRC, and within a core by lane (R364): another one goes first. -/
def State.laterAnnc (s : State) (o : EngOp) (n : BitVec 128) : Bool :=
  s.agenda.any fun a => s.announces (s.padOfCtx o.ctx) n a && match a with
    | .event (.announcementDecision id) => (s.opOf id).any fun q =>
        decide (clusterSrc q.core < clusterSrc o.core) || (q.core == o.core && decide (q.lane < o.lane))
    | _ => false

/-- The first bytes of a range that an engine can access, and what the next one meets. -/
def State.reachBytes (s : State) (p : Position) (r : BitVec 128) (bs : List (Option Nat)) (wr : Bool) :
    List (Option Nat) × EngAt :=
  match s.engMeets p r bs wr with
  | .ok => (bs, .ok)
  | e => (bs.takeWhile fun x => x.all fun off => s.engAt p r off wr (wr && coversSector bs off) == .ok, e)

/-- R361: the Stile has digested an announced tile, and stores it, merges it or discards it. DESIGN CHOICE: log entry 109. -/
def execAnnouncementDecision (id : Nat) (s : State) : Host.Outcome State Fault Refusal :=
  .next <|
    match s.opOf id with
    | none => s
    | some o =>
      match o.kind, s.placeOf o.pos with
      | .annc r n first len, some p =>
        let bs := nameBytes r first len
        if s.laterAnnc o n then s.putOff (.announcementDecision id)
        else if (s.padOf (s.padOfCtx o.ctx)).all fun p => (p.activeKey 0).isNone then s.finishOp o (some .keyRevoked)
        else match s.meets o p r bs false with
        | .wait s1 => s1
        | .fail c s1 => s1.finishOp o (some c)
        | .go s1 =>
          let (data, s2) := s1.engReads o p r bs
          match s2.announce (s.padOfCtx o.ctx) n data with
          | none => s
          | some (true, s3) => s3.finishOp o none
          | some (false, s3) =>
            (s3.post o.ctx { src := 6, kind := 4, cause := Cause.nameConflict.code.toNat, party := s3.partyBits o.party }).finishOp
              o none
      | _, _ => s

/-- Bytes of a tile written to an ask's destination. DESIGN CHOICE: log entry 109. -/
def State.writeTile (s : State) (o : EngOp) (r : BitVec 128) (bs : List (Option Nat)) (data : List Byte) : State :=
  s.engWrites o.ctx o.pos r (bs.zip data)

def State.endDelivery (s : State) (o : EngOp) (c : Option Cause) : State :=
  (s.modT fun t => { t with deliveries := t.deliveries.filter fun x => x.op != o.id }).finishOp o c

/-- R363: a delivery's last byte is written, or it meets an error; the bytes before it stay. -/
def execNameDeliveryComplete (id : Nat) (s : State) : Host.Outcome State Fault Refusal :=
  .next <|
    match s.opOf id, s.t.deliveries.find? (·.op == id) with
    | some o, some d =>
      match o.kind with
      | .ask r _ first _ _ =>
        let good := ((s.foldOf d.pad d.name).map s.tileSound).getD d.data.length
        let bs := (nameBytes r first d.data.length).take good
        let reach := match (s.placeOf o.pos).filter (·.st != .discarded) with
          | some p => s.reachBytes p r bs true
          | none => s.reachLoose o.ctx r bs
        if s.opWaits o then s
        else if s.foldRevoked d.pad d.name then s.endDelivery o (some .keyRevoked)
        else match reach with
          | (ok, .ok) => (s.writeTile o r ok d.data).endDelivery o (if good < d.data.length then some .ueRead else none)
          | (ok, .err c) => (s.writeTile o r ok d.data).endDelivery o (some c)
          | (ok, .fault obj page) =>
            match s.opFaults o obj page true with
            | (true, s1) => (s1.writeTile o r ok d.data).endDelivery o (some .pageFaultFatal)
            | (false, s1) => s1
          | (_, .line b) => match s.placeOf o.pos with
            | some p => s.wantLine p b o.party true
            | none => s
      | _ => s
    | _, _ => s

/-- R363: a Waiting requester's lifetime ends. -/
def execAskLifetimeExpiry (id : Nat) (s : State) : Host.Outcome State Fault Refusal :=
  .next <|
    match s.opOf id with
    | none => s
    | some o =>
      match o.kind with
      | .ask _ n _ _ expiry =>
        if !s.askWaits o then s
        else if s.comes (s.padOfCtx o.ctx) n then s.putOff (.askLifetimeExpiry id)
        else (s.at expiry).endAsk o .nameNeverProduced
      | _ => s

end Sys2Proof.Machine
end

