-- ==== Sys2Proof/Machine/Pens.lean ====
section
/-! DEFINITION. Pens (R372 to R386): slots and posts, release, and `pslot`, `ppost`, `pwait` and `prel`. -/

namespace Sys2Proof.Machine

/-! ## The slot record (R373) -/

def pnSeq (r : BitVec 512) : Word := r.extractLsb' 0 32
def pnNe (r : BitVec 512) : Nat := (r.extractLsb' 32 4).toNat + 1
def pnRen (r : BitVec 512) : Bool := r.getLsbD 36
def pnOrd (r : BitVec 512) : Bool := r.getLsbD 37
def pnBf16 (r : BitVec 512) : Bool := r.getLsbD 38
def pnTmo (r : BitVec 512) : Nat := (r.extractLsb' 40 5).toNat
def pnCtag (r : BitVec 512) : Nat := (r.extractLsb' 48 6).toNat
def pnDh (r : BitVec 512) : BitVec 4 := r.extractLsb' 56 4
def pnPen (r : BitVec 512) : Nat := (r.extractLsb' 60 2).toNat
def pnDfirst (r : BitVec 512) : Nat := (r.extractLsb' 64 32).toNat
def pnLen (r : BitVec 512) : Nat := (r.extractLsb' 96 11).toNat + 1
def pnExpert (r : BitVec 512) (k : Nat) : Nat := (r.extractLsb' (128 + 16 * k) 16).toNat
def pnWeight (r : BitVec 512) (k : Nat) : Word := r.extractLsb' (256 + 32 * k) 32

/-- The experts of a record, in their positions. -/
def pnExperts (r : BitVec 512) : List Nat := (List.range (pnNe r)).map (pnExpert r)

/-- Bytes of a result element. -/
def pnSize (r : BitVec 512) : Nat := if pnBf16 r then 2 else 4

/-- A malformed record (R373, R382); `group` when the weights come from registers. DEDUCED: log entry 110. -/
def pnBad (r : BitVec 512) (group : Bool) : Bool :=
  r.getLsbD 39 || r.extractLsb' 45 3 != 0 || r.extractLsb' 54 2 != 0 || r.extractLsb' 62 2 != 0 || r.extractLsb' 107 21 != 0
    || decide (8 < pnNe r) || decide (20 < pnTmo r) || decide (1024 < pnLen r)
    || (pnExperts r).eraseDups.length != pnNe r
    || ((List.range 8).any fun k => decide (pnNe r ≤ k) && (pnExpert r k != 0 || (!group && pnWeight r k != 0)))

/-- The record as the slot keeps it: the token offset added, and the weights that count. -/
def pnTake (r : BitVec 512) (tok : Nat) (ws : Option (List Word)) : BitVec 512 :=
  let r1 := putField (putField r 0 32 ((pnSeq r).toNat + tok)) 64 32 (pnDfirst r + tok)
  match ws with
  | none => r1
  | some l => l.zipIdx.foldl (fun r w => putField r (256 + 32 * w.2) 32 w.1.toNat) r1

/-! ## Slots (R372, R374) -/

/-- Hardware pens of a paddock, in ascending order. -/
def State.pensOf (s : State) (pad : Nat) : List Nat :=
  (List.range 4).filter fun e => (s.padOf pad).any fun p => p.pens.getLsbD e

/-- The paddock of a hardware pen. -/
def State.penPad (s : State) (pen : Nat) : Option Paddock := s.m.paddocks.find? fun p => p.pens.getLsbD pen

def slotNo (sq : Word) : Nat := sq.toNat % 16384

/-- a is newer than b (R374). -/
def seqNewer (a b : Word) : Bool := decide (1 ≤ (a - b).toNat) && decide ((a - b).toNat ≤ 2 ^ 31 - 1)

/-- A slot as it stands at reset: Free, with SEQ s − 16,384. -/
def PenSlot.reset (pen idx : Nat) : PenSlot :=
  { pen := pen, idx := idx, st := .free, seq := BitVec.ofNat 32 (idx + 2 ^ 32 - 16384), word := 0, hd := 0, dfirst := 0,
    ctx := 0, pos := none, party := ⟨0, 0, 0⟩, op := 0, staged := [], keys := [], det := false, timed := false, since := none, due := 0, cause := none, front := [] }

def PenSlot.is (x : PenSlot) (pen idx : Nat) : Bool := x.pen == pen && x.idx == idx

def State.penSlot (s : State) (pen idx : Nat) : PenSlot := (s.t.pens.find? (·.is pen idx)).getD (.reset pen idx)

def State.putPen (s : State) (x : PenSlot) : State := s.modT fun t => { t with pens := put (·.is x.pen x.idx) x t.pens }

/-- The arrival bitmap. -/
def PenSlot.bitmap (x : PenSlot) : Nat := (x.staged.map fun c => 2 ^ c.1).sum

def PenSlot.full (x : PenSlot) : Bool := (List.range (pnNe x.word)).all fun k => x.staged.any (·.1 == k)

/-- ORD, which deterministic mode sets for every slot (R378). -/
def PenSlot.ordered (x : PenSlot) : Bool := x.det || pnOrd x.word

/-- The slot's tag completes; a release brings the posts that it summed to whoever acquires the tag (R380). -/
def State.slotTag (s : State) (x : PenSlot) (c : Option Cause) : State :=
  match s.opOf x.op with
  | some o => (if c == some .penAbandoned then s else s.bringOp o x.front).finishOp o c
  | none => s

/-- A slot freed; it keeps its SEQ. -/
def PenSlot.freed (x : PenSlot) : PenSlot := { x with st := .free, staged := [], keys := [], pos := none, since := none }

/-- Where the contribution of a position lies in the paddock's pen object: 8 times 1,024 elements a slot, 16,384 slots (R372, R388). -/
def State.penAt (s : State) (pen idx k : Nat) : Nat :=
  match s.penPad pen with
  | some p =>
    let no := ((List.range pen).filter p.pens.getLsbD).length
    (p.carve + p.fold * 2 ^ 14 + no * 2 ^ 13) * 2 ^ 16 + idx * 2 ^ 15 + k * 2 ^ 12
  | none => 0

/-! ## Posts (R375, R376) -/

/-- What a pen does with a post. -/
inductive PostEnd where
  | held | late | bad
  | dropped
  | staged (k : Nat)
  deriving DecidableEq, Repr

def PenSlot.judge (x : PenSlot) (sq : Word) (expert len : Nat) : PostEnd :=
  if seqNewer sq x.seq then .held
  else if sq != x.seq || x.st != .opened then .late
  else match (pnExperts x.word).findIdx? (· == expert) with
    | none => .bad
    | some k =>
      if len != pnLen x.word then .bad
      else if x.staged.any (·.1 == k) then .dropped else .staged k

/-- The poster's tag completes. -/
def State.postDone (s : State) (op : Option Nat) (c : Option Cause) : State :=
  match op.bind s.opOf with
  | some o => s.finishOp o c
  | none => s

/-- A late post: counted, and told to the poster's context (R376). DEDUCED: log entry 111. -/
def State.postLate (s : State) (op : Option Nat) (ctx pen no : Nat) (sq : Word) : State :=
  match op with
  | none => s
  | some i =>
    ((s.modCtx ctx fun c => { c with penlate := if c.penlate = 0xFFFFFFFF then c.penlate else c.penlate + 1 }).post ctx
      { src := 7 + pen, kind := 5, object := no, offset := sq.toNat }).postDone (some i) none

/-- Where a post comes from: its core's cluster, and the core and lane; a post from another node comes by the ports. DEDUCED: log
entry 110. -/
def State.postSrc (s : State) (op : Option Nat) : Nat × Nat × Nat :=
  match op.bind s.opOf with
  | some o => (clusterSrc o.core, o.core, o.lane)
  | none => (15, 0, 0)

/-- A post that meets its slot; it may be held, or wait in its sender's Stile. A contribution is a write to the pen object, and
fails where the pen's paddock has no Active memory key (R372, R397). -/
def State.applyPost (s : State) (pen no : Nat) (sq : Word) (expert : Nat) (data : List Word) (op : Option Nat) (ctx : Nat)
    (f : Frontier) : State :=
  let x := s.penSlot pen (slotNo sq)
  match x.judge sq expert data.length with
  | .late => s.postLate op ctx pen no sq
  | .bad => s.postDone op (some .penPostBad)
  | .dropped => s.postDone op none
  | .staged k =>
    match (s.penPad pen).bind (·.activeKey 0) with
    | none => s.postDone op (some .keyRevoked)
    | some key =>
      let y := { x with staged := x.staged ++ [(k, data)], keys := x.keys ++ [key], front := frontJoin x.front f }
      ((s.repairSpan (s.penAt pen x.idx k) (4 * data.length)).putPen (if y.full then { y with st := .releasing } else y)).postDone op none
  | .held =>
    if 4096 ≤ (s.t.heldPosts.filter (·.pen == pen)).length then s
    else
      let (src, core, lane) := s.postSrc op
      s.modT fun t => { t with heldPosts := t.heldPosts ++ [⟨pen, sq, expert, data, op, ctx, f, src, core, lane⟩] }

/-- Posts that meet a slot in one cycle go by SRC, then within a core by lane (R377). -/
def HeldPost.before (x y : HeldPost) : Bool :=
  decide (x.src < y.src ∨ (x.src = y.src ∧ (x.core < y.core ∨ (x.core = y.core ∧ x.lane ≤ y.lane))))

/-- A slot has opened: the posts held for its SEQ meet it in that cycle. -/
def State.applyHeld (s : State) (pen no : Nat) (sq : Word) : State :=
  let mine (h : HeldPost) : Bool := h.pen == pen && slotNo h.seq == slotNo sq && !seqNewer h.seq sq
  (sortBy HeldPost.before (s.t.heldPosts.filter mine)).foldl (fun s h => s.applyPost pen no h.seq h.expert h.data h.op h.ctx h.front)
    (s.modT fun t => { t with heldPosts := t.heldPosts.filter fun h => !mine h })

/-! ## pslot (R382) -/

/-- What a lane brings to `pslot`. -/
structure SlotArgs where
  r : BitVec 128
  tok : Nat
  /-- Weights of the group, and whether it lies beyond v127. -/
  ws : Option (List Word)
  beyond : Bool
  hd : BitVec 128
  deriving DecidableEq, Repr

/-- The access of a slot record. -/
def slotReq (r : BitVec 128) : AccReq := { handle := r, i := 0, o := 0, n := 64, align := 64, wr := false }

/-- One byte of a slot record as it reads now: zero where it lies out of bounds, or cannot be read. -/
def State.peekByte (s : State) (c : RCtx) (r : BitVec 128) (v : Viewer) (i : Nat) : Nat :=
  if !recInBounds r 0 i 1 then 0
  else
    let off := recAddr r 0 i
    if recStash r then
      match s.checkStash c.pos (s.stashLimit c) off 1 false with
      | .ok l => leNat (s.readLoc v c.pos l 1).1
      | _ => 0
    else match s.checkMem c.pos.ctx (recObj r) off 1 false false with
      | .ok l => leNat (s.readLoc v c.pos l 1).1
      | _ => 0

/-- The 64 bytes of a lane's record as they read now. DEDUCED: log entry 110. -/
def State.peekRecord (s : State) (c : RCtx) (r : BitVec 128) (v : Viewer) : BitVec 512 :=
  if recOob r && !recInBounds r 0 0 64 then 0
  else BitVec.ofNat 512 (leNat ((List.range 64).map fun i => BitVec.ofNat 8 (s.peekByte c r v i)))

/-- Weights of a group of n lane registers, as f32. -/
def rdWeights (c : RCtx) (src : Src) : Nat → LaneStep (List Word)
  | 0 => .ok []
  | n + 1 => (rd c 3 src).bind fun r => (r.widen F.f32).bind fun w => (rdWeights c (srcSucc src) n).map fun l => w :: l

/-- A group of n lane registers from a base lies beyond v127. -/
def groupBeyond (s : Spec) (n : Nat) : Bool :=
  match s with
  | .v i => decide (128 < i.toNat + n)
  | _ => false

def rdSlot (s : State) (c : RCtx) (hs : BitVec 4) (t w : Src) : LaneStep SlotArgs :=
  (handleOf c hs).bind fun r => (rdNat c 2 t).bind fun tok =>
    match s.viewer c.wk c.arm with
    | none => .ok ⟨r, tok, none, false, 0⟩
    | some v =>
      let x := s.peekRecord c r v
      (handleOf c (pnDh x)).bind fun hd =>
        if w.spec == .zero then .ok ⟨r, tok, none, false, hd⟩
        else if groupBeyond w.spec (pnNe x) then .ok ⟨r, tok, none, true, hd⟩
        else (rdWeights c w (pnNe x)).map fun l => ⟨r, tok, some l, false, hd⟩

/-- Destination bytes of a slot. -/
def pnDest (r : BitVec 512) (hd : BitVec 128) : List (Option Nat) := nameBytes hd (pnDfirst r) (pnLen r * pnSize r)

/-- The checks of R382, in order. -/
def State.slotCheck (s : State) (c : RCtx) (a : SlotArgs) (raw r : BitVec 512) : Option Trap :=
  let off := recAddr a.hd (pnDfirst r) 0
  let at' := recAddr a.r 0 0
  let pad := s.padOfCtx c.pos.ctx
  let pens := s.pensOf pad
  let mine := s.t.pens.filter fun x => some x.pen == pens[pnPen r]? && x.ctx == c.pos.ctx && x.st != .free
  (s.checkRec c.pos.ctx a.r at' false).or <|
  (s.recExists c.pos.ctx a.hd off).or <| (s.checkRange c.pos a.hd off (pnDest r a.hd) true).or <|
  (if at' % 64 != 0 then some (memTrap .misaligned (recObj a.r) at') else none).or <|
  (if pnBad raw a.ws.isSome || a.beyond || pens.length ≤ pnPen r then some { cause := .penBad } else none).or <|
  (if s.stageTags c ≤ pnCtag r then some noTag else none).or <|
  (if !recInBounds a.r 0 0 64 && !recOob a.r then some (memTrap .bounds (recObj a.r) at') else none).or <|
  (nameBeyond ⟨a.hd, 0, pnDfirst r, 0⟩ (pnDest r a.hd)).or <|
  (if recStash a.r && recInBounds a.r 0 0 64 && s.stashLimit c < at' + 64 then some (memTrap .stashUndeclared 0 at') else none).or <|
  (stashBeyond (s.stashLimit c) a.hd (pnDest r a.hd)).or <|
  (notOwned (s.det? c.pos) c.block a.hd (pnDest r a.hd)).or <|
  (if ((s.ctxOf c.pos.ctx).map (·.penlim.toNat)).getD 0 ≤ mine.length then some { cause := .penSlotsExhausted } else none)

/-- How a `pslot` meets its slot (R374). -/
inductive SlotMeet where
  | opens | adopts | waits
  | trap (c : Cause)
  deriving DecidableEq, Repr

/-- DEDUCED: log entry 112. -/
def PenSlot.meet (x : PenSlot) (sq : Word) (ctx : Nat) (r : BitVec 512) : SlotMeet :=
  if seqNewer sq x.seq then (if x.st == .free then .opens else .waits)
  else if sq != x.seq || x.st == .free then .trap .penState
  else if x.ctx == ctx && x.pos.isNone && x.word == r then .adopts else .trap .penBad

def boolWrite (p : Option (BitVec 3)) (b : Bool) (frees : List Src) : LaneEnd :=
  .out { writes := match p with
           | some d => [(⟨.p d, false⟩, boolTV b)]
           | none => []
         frees := frees }

/-- The slot opened or adopted, with its operation on CTAG. -/
def State.openSlot (s : State) (c : RCtx) (v : Viewer) (a : SlotArgs) (r : BitVec 512) (x : PenSlot) (adopt : Bool) : State :=
  let id := s.nextId
  let s1 := (s.recordAll v c.pos a.hd (pnDest r a.hd) .write).issueOp v c [pnCtag r] (.slot x.pen x.idx) 4 false
  if adopt then
    let y := { x with pos := some c.pos.id, party := v.party, op := id }
    let s2 := s1.putPen y
    if x.st == .released then s2.slotTag y x.cause else s2
  else
    let y : PenSlot :=
      { pen := x.pen, idx := x.idx, st := .opened, seq := pnSeq r, word := r, hd := a.hd, dfirst := pnDfirst r,
        ctx := c.pos.ctx, pos := some c.pos.id, party := v.party, op := id, staged := [], keys := [], det := v.det, timed := false, since := none,
        due := s.now + us (2 ^ pnTmo r), cause := none, front := s.releaseOf v.wk c.arm v }
    (s1.putPen y).applyHeld x.pen (pnPen r) (pnSeq r)

/-- A lane's `pslot`, its record read and checked. DEDUCED: log entry 111. -/
def State.slotLane (s : State) (c : RCtx) (v : Viewer) (p : Option (BitVec 3)) (a : SlotArgs) (r : BitVec 512)
    (srcs : List Src) : LaneEnd × State :=
    match (s.pensOf (s.padOfCtx c.pos.ctx))[pnPen r]?, s.posOf c.pos.id with
    | some pen, some q =>
      let x := s.penSlot pen (slotNo (pnSeq r))
      match x.meet (pnSeq r) c.pos.ctx r with
      | .trap k => (.trap { cause := k }, s)
      | .waits => if p.isSome then (boolWrite p false srcs, s) else (.park (.penFree pen x.idx), s)
      | k =>
        if !q.tagsTake [pnCtag r] then (.park .backPressure, s)
        else match s.racesAt v c.pos a.hd (pnDest r a.hd) .write with
          | some e => (e, s)
          | none => (boolWrite p true srcs, s.openSlot c v a r x (k == .adopts))
    | _, _ => (.out {}, s)

/-- The record of a lane: what the checks of R220 that R382 does not order come to (9 to 11), before its contents are known. -/
def State.slotPage (s : State) (c : RCtx) (r : BitVec 128) (v : Viewer) : Checked :=
  match s.checkLane c.pos c.block v.det (s.stashLimit c) (slotReq r) with
  | .trap t =>
    if t.cause == .keyRevoked || t.cause == .ueRead || t.cause == .pageFaultFatal then .trap t else .oob
  | x => x

/-- A `pslot` of a lane that has to wait parks; the `.try` form writes 0, and changes nothing (R382). -/
def slotWait (p : Option (BitVec 3)) (srcs : List Src) (s : State) (x : LaneEnd × State) : LaneEnd × State :=
  match x.1 with
  | .park _ => if p.isSome then (boolWrite p false srcs, s) else x
  | _ => x

/-- The record of a lane read, and checked (R382), then its slot. -/
def State.issueSlot (s : State) (c : RCtx) (p : Option (BitVec 3)) (a : SlotArgs) (srcs : List Src) : LaneEnd × State :=
  match s.viewer c.wk c.arm with
  | none => (.out {}, s)
  | some v =>
    let at' := recAddr a.r 0 0
    match s.checkRec c.pos.ctx a.r at' false with
    | some t => (.trap t, s)
    | none =>
      slotWait p srcs s <|
      match s.slotPage c a.r v with
      | .trap t => (.trap t, s)
      | .wait w => (.park w, s.wantLine c.pos at' c.party false)
      | .fault obj page =>
        (match s.postFault c.pos.ctx obj page false (s.byCore false c.pos.core v.party) with
          | (.fatal, s1) => (.trap (memTrap .pageFaultFatal obj at'), s1)
          | (.noId, s1) => (.park .backPressure, s1)
          | (.fid n, s1) => (.park (.service n at'), s1))
      | x =>
        let raw := s.peekRecord c a.r v
        let r := pnTake raw a.tok a.ws
        match s.slotCheck c a raw r with
        | some t => (.trap t, s)
        | none =>
          match x with
          | .ok l =>
            (match s.raceCheck v c.pos (slotReq a.r) .read (.ok l) with
              | .trap t => (.trap t, s)
              | .wait w => (.park w, s)
              | _ => (s.loadAt v c.pos a.r l 64).2.slotLane c v p a r srcs)
          | _ => s.slotLane c v p a r srcs

/-- The sources that `pslot` frees: its token offset and its weight group. -/
def slotSrcs (t w : Src) (a : SlotArgs) : List Src := t :: srcRun w ((a.ws.map (·.length)).getD 0)

/-- R382: a slot opened, or adopted; `.try` never waits. -/
def execPslot (g : Guard) (p : Option (BitVec 3)) (hs : BitVec 4) (t : Src) (w : Src) (s : State) :
    Host.Outcome State Fault Refusal :=
  .next (s.runArms { g := g, dsts := p.toList.map .p, early := [t.spec, w.spec] } (detBan p.isSome (epochGuard (perLane
    (fun s c => rdSlot s c hs t w) (fun s c a => s.issueSlot c p a (slotSrcs t w a))))))

/-! ## ppost (R383) -/

def ptNode (q : BitVec 128) : Nat := (q.extractLsb' 0 20).toNat
def ptLoc (q : BitVec 128) : Bool := q.getLsbD 31
def ptSeq (q : BitVec 128) : Word := q.extractLsb' 32 32
def ptExpert (q : BitVec 128) : Nat := (q.extractLsb' 64 16).toNat
def ptPen (q : BitVec 128) : Nat := (q.extractLsb' 80 2).toNat

/-- What a lane brings to `ppost`: its record, or none with the values of its registers. -/
structure PostArgs where
  r : Option (BitVec 128)
  regs : Option (List Word)
  q : BitVec 128
  first : Nat
  w : Word
  beyond : Bool
  deriving DecidableEq, Repr

def PostArgs.len (a : PostArgs) : Nat := (a.w.extractLsb' 6 11).toNat + 1
def PostArgs.tag (a : PostArgs) : Nat := (a.w.extractLsb' 0 6).toNat

def rdPost (c : RCtx) (x : PostSrc) (q p : Src) : LaneStep PostArgs :=
  (match x with
    | .mem hs => (handleOf c hs).map some
    | .reg _ => .ok none).bind fun r =>
  (rdQuad c 2 q).bind fun quad => (rdRaws c 3 p 2).bind fun l =>
    let a : PostArgs := ⟨r, none, quad, (l.headD 0).toNat, (l.drop 1).headD 0, false⟩
    match x with
    | .mem _ => .ok a
    | .reg b =>
      if 16 < a.len || groupBeyond b.spec a.len then .ok { a with beyond := true }
      else (rdWeights c b a.len).map fun ws => { a with regs := some ws }

/-- The node that a post goes to: none for this package. DESIGN CHOICE: log entry 113. -/
def State.postNode (s : State) (q : BitVec 128) : Option Nat :=
  if ptLoc q || ptNode q = s.node then none else some (ptNode q)

/-- The bytes of a post's source. -/
def PostArgs.bytes (a : PostArgs) (r : BitVec 128) : List (Option Nat) := recBytes r a.first a.len 4

/-- The checks of R383, in order; a post is sent, or written to the pen object, under an Active key (R397). -/
def State.postCheck (s : State) (c : RCtx) (a : PostArgs) : Option Trap :=
  let pad := s.padOfCtx c.pos.ctx
  let bad : Bool := a.q.extractLsb' 20 11 != 0 || a.q.extractLsb' 82 46 != 0 || a.w.extractLsb' 17 15 != 0
    || 1024 < a.len || a.beyond || ((s.postNode a.q).isNone && (s.pensOf pad).length ≤ ptPen a.q)
  (a.r.bind fun r => s.recExists c.pos.ctx r (recAddr r a.first 0)).or <|
  (if bad then some { cause := .penBad } else none).or <|
  (if s.stageTags c ≤ a.tag then some noTag else none).or <|
  (a.r.bind fun r => if recOob r then none
    else (recBeyond r a.first a.len 4).map fun e => memTrap .bounds (recObj r) (recAddr r e 0)).or <|
  (a.r.bind fun r => stashBeyond (s.stashLimit c) r (a.bytes r)).or <|
  (match s.postNode a.q with
    | some n =>
      if !s.routed pad n then some { cause := .linkDown } else if s.fabricKey pad then none else some { cause := .keyRevoked }
    | none => if (s.padOf pad).any fun p => (p.activeKey 0).isSome then none else some { cause := .keyRevoked })

/-- One lane's post issues (R380). -/
def State.issuePost (s : State) (c : RCtx) (a : PostArgs) (srcs : List Src) : LaneEnd × State :=
  match s.postCheck c a, s.viewer c.wk c.arm, s.posOf c.pos.id with
  | some t, _, _ => (.trap t, s)
  | none, some v, some p =>
    let r := a.r.getD 0
    let bs := if a.r.isSome then a.bytes r else []
    if !p.tagsTake [a.tag] then (.park .backPressure, s)
    else match s.racesAt v p r bs .read with
      | some e => (e, s)
      | none => (.out { frees := srcs }, (s.recordAll v p r bs .read).issueOp v c [a.tag]
          (.post (s.postNode a.q) (ptPen a.q) (ptSeq a.q) (ptExpert a.q) r a.first a.len a.regs) 4 false)
  | _, _, _ => (.out {}, s)

def postSrcs (x : PostSrc) (q p : Src) (a : PostArgs) : List Src :=
  (match x with
    | .mem _ => []
    | .reg b => srcRun b ((a.regs.map (·.length)).getD 0)) ++ srcRun q 4 ++ srcRun p 2

/-- R383: a contribution posted to a pen. -/
def execPpost (g : Guard) (a : PostSrc) (q : Src) (p : Src) (s : State) : Host.Outcome State Fault Refusal :=
  let regs : List Spec := match a with
    | .mem _ => []
    | .reg b => [b.spec]
  .next (s.runArms { g := g, early := regs } (epochGuard (perLane (fun _ c => rdPost c a q p)
    (fun s c x => s.issuePost c x (postSrcs a q p x)))))

/-! ## pwait and prel (R384) -/

/-- The slot that an operand names, when the context holds it under that SEQ. -/
def State.heldSlot (s : State) (ctx n : Nat) (sq : Word) : Except Cause PenSlot :=
  match (s.pensOf (s.padOfCtx ctx))[n]? with
  | none => .error .penBad
  | some pen =>
    let x := s.penSlot pen (slotNo sq)
    if x.st != .free && x.ctx == ctx && x.seq == sq then .ok x else .error .penState

/-- A `pwait` of a Released slot: it is freed; its bitmap is returned, or its stored cause traps. -/
def State.takeSlot (s : State) (c : RCtx) (d : Dst) (q : Src) (x : PenSlot) : LaneEnd × State :=
  let s1 := s.putPen x.freed
  match x.cause with
  | some k => (.trap (tagTrap k (pnCtag x.word)), s1)
  | none =>
    (.out { writes := [(d, ⟨BitVec.ofNat 32 x.bitmap, F.n32⟩)], frees := [q] },
      s1.modWarp c.wk (·.acquire c.arm x.front))

/-- R384: wait for a slot's release. DEDUCED: log entry 112. -/
def execPwait (n : BitVec 2) (g : Guard) (d : Dst) (q : Src) (s : State) : Host.Outcome State Fault Refusal :=
  .next (s.runArms { g := g, dsts := [d.spec] } (epochGuard (perLane
    (fun _ c => (wrOk c d [q]).bind fun _ => rdNat c 1 q)
    (fun s c k =>
      match s.heldSlot c.pos.ctx n.toNat (BitVec.ofNat 32 k) with
      | .error e => (.trap { cause := e }, s)
      | .ok x => if x.st == .released then s.takeSlot c d q x else (.park (.penReleased x.pen x.seq), s)))))

/-- A post of the lane to a pen of its own package, of this SEQ, that has not arrived: it arrives before the lane's
`prel` does (R377). -/
def State.postUnderway (s : State) (c : RCtx) (n : Nat) (sq : Word) : Bool :=
  s.c.ops.any fun o => o.pos == c.pos.id && o.stage == c.wk.stage && o.warp == c.wk.warp && o.lane == c.lane
    && !(s.t.heldPosts.any (·.op == some o.id)) && match o.kind with
      | .post none k q .. => k == n && q == sq
      | _ => false

/-- R374, R377, R384: a slot given up. -/
def execPrel (n : BitVec 2) (g : Guard) (q : Src) (s : State) : Host.Outcome State Fault Refusal :=
  .next (s.runArms { g := g } (perLane (fun _ c => rdNat c 1 q)
    (fun s c k =>
      match s.heldSlot c.pos.ctx n.toNat (BitVec.ofNat 32 k) with
      | .error e => (.trap { cause := e }, s)
      | .ok x =>
        match x.st with
        | .opened =>
          if s.postUnderway c n.toNat x.seq then (.park .backPressure, s)
          else (.out { frees := [q] }, (s.putPen x.freed).slotTag x (some .penAbandoned))
        | .released => (.out { frees := [q] }, s.putPen x.freed)
        | _ => (.park (.penReleased x.pen x.seq), s))))

/-! ## Release (R378, R379) -/

def f32Mul (x y : Word) : Word :=
  BitVec.ofNat 32 (roundRNE F.f32 (exactMul (ieeeVal F.f32 x.toNat) (ieeeVal F.f32 y.toNat)).1).1
def f32Add (x y : Word) : Word :=
  BitVec.ofNat 32 (roundRNE F.f32 (exactAdd .rne (ieeeVal F.f32 x.toNat) (ieeeVal F.f32 y.toNat)).1).1
def f32Div (x y : Word) : Word :=
  BitVec.ofNat 32 (roundRNE F.f32 (exactDiv (ieeeVal F.f32 x.toNat) (ieeeVal F.f32 y.toNat))).1

/-- Finite and nonzero. -/
def f32Counts (x : Word) : Bool :=
  match ieeeVal F.f32 x.toNat with
  | .fin _ n _ _ => n != 0
  | _ => false

/-- Positions in ascending expert index. -/
def PenSlot.order (x : PenSlot) : List Nat :=
  sortBy (fun a b => decide (pnExpert x.word a ≤ pnExpert x.word b)) (List.range (pnNe x.word))

def PenSlot.has (x : PenSlot) (k : Nat) : Bool := x.staged.any (·.1 == k)

/-- A left fold from the first value on; +0 of none. -/
def foldFirst (f : Word → Word → Word) : List Word → Word
  | [] => 0
  | w :: ws => ws.foldl f w

/-- The weights of a release, with renormalisation on substitution. -/
def PenSlot.weight (x : PenSlot) (k : Nat) : Word :=
  let total := foldFirst f32Add ((x.order.filter x.has).map (pnWeight x.word))
  if !x.full && pnRen x.word && f32Counts total then
    (if x.has k then f32Div (pnWeight x.word k) total else 0)
  else pnWeight x.word k

/-- The contribution of a position: LEN elements of +0 where none has arrived. -/
def PenSlot.contrib (x : PenSlot) (k e : Nat) : Word := (((x.staged.lookup k).getD [])[e]?).getD 0

/-- One result element, in f32. -/
def PenSlot.elem (x : PenSlot) (e : Nat) : Word :=
  foldFirst f32Add (x.order.map fun k => f32Mul (x.weight k) (x.contrib k e))

/-- The result's bytes. -/
def PenSlot.result (x : PenSlot) : List Byte :=
  (List.range (pnLen x.word)).flatMap fun e =>
    if pnBf16 x.word then leBytes 2 (roundRNE F.bf16 (ieeeVal F.f32 (x.elem e).toNat)).1 else bytesOf (x.elem e)

/-- An older ordered slot of the same pen and context has not released (R378). -/
def State.heldBack (s : State) (x : PenSlot) : Bool :=
  x.ordered && s.t.pens.any fun y => y.pen == x.pen && y.ctx == x.ctx && y.ordered && seqNewer x.seq y.seq
    && (y.st == .opened || y.st == .releasing || y.st == .formed)

/-- The bytes of a release that can be written, and what the next one meets. An orphaned slot's stash is gone. -/
def State.releaseReach (s : State) (x : PenSlot) (bs : List (Option Nat)) : List (Option Nat) × EngAt :=
  match x.pos.bind s.posOf with
  | some p =>
    match s.engMeets p x.hd bs true with
    | .ok => (bs, .ok)
    | e => (bs.takeWhile fun b => b.all fun off => s.engAt p x.hd off true (coversSector bs off) == .ok, e)
  | none => s.reachLoose x.ctx x.hd bs

/-- The sum on its way: its bytes written as the owner, with the cause that cut them short. -/
def State.formSum (s : State) (x : PenSlot) (bs : List (Option Nat)) (c : Option Cause) : State :=
  (s.engWrites x.ctx (x.pos.getD 0) x.hd (bs.zip x.result)).putPen { x with st := .formed, cause := c }

/-- A contribution of the slot stands under a Revoked slot of the pen's paddock: it cannot be read (R397). -/
def State.penRevoked (s : State) (x : PenSlot) : Bool := x.keys.any fun k => (s.penPad x.pen).any fun p => s.revoked p.id k

/-- A staged contribution that an uncorrectable error spoils: it cannot be read (R410). -/
def State.penSpoilt (s : State) (x : PenSlot) : Bool :=
  x.staged.any fun c => !s.sound (s.penAt x.pen x.idx c.1) (4 * c.2.length)

/-- Releases take effect in the order in which they became possible, those of one cycle in ascending SEQ (R378). -/
def PenSlot.earlier (x y : PenSlot) : Bool :=
  x.pen == y.pen && match x.since, y.since with
    | some a, some b => decide (a < b) || (a == b && seqNewer y.seq x.seq)
    | some _, none => true
    | none, _ => false

/-- A slot whose release has to wait: for what ORD asks, or for the releases that became possible before it. -/
def State.notNext (s : State) (x : PenSlot) : Bool :=
  s.heldBack x || s.t.pens.any fun y =>
    (y.st == .releasing && !s.heldBack y || y.st == .formed && x.st == .formed) && y.earlier x

/-- Releases that have become possible are marked with the cycle. -/
def State.markPens (s : State) : State :=
  s.modT fun t => { t with pens := t.pens.map fun x =>
    if x.st == .releasing && x.since.isNone && !s.heldBack x then { x with since := some s.cyc } else x }

/-- R379: a releasable slot forms its weighted sum; a deterministic slot that timed out writes nothing. Contributions that
cannot be read end it with KEY_REVOKED (R397). DEDUCED: log entry 110. -/
def execPenRelease (pen : Nat) (slot : Nat) (s : State) : Host.Outcome State Fault Refusal :=
  .next <|
    let x := s.penSlot pen slot
    if x.st != .releasing || s.notNext x then s
    else if x.det && x.timed then s.putPen { x with st := .formed, cause := some .penTimeout }
    else if s.penRevoked x then s.putPen { x with st := .formed, cause := some .keyRevoked }
    else if s.penSpoilt x then s.putPen { x with st := .formed, cause := some .ueRead }
    else match s.releaseReach x (pnDest x.word x.hd) with
      | (bs, .ok) => s.formSum x bs none
      | (bs, .err c) => s.formSum x bs (some c)
      | (_, .line b) => match x.pos.bind s.posOf with
        | some p => s.wantLine p b x.party true
        | none => s
      | (bs, .fault obj page) =>
        match s.opOf x.op with
        | some o => if s.opWaits o then s else match s.opFaults o obj page true with
            | (true, s1) => s1.formSum x bs (some .pageFaultFatal)
            | (false, s1) => s1
        | none => match s.postFault x.ctx obj page true (s.byUnit (7 + pen) x.party) with
            | (.fatal, s1) => s1.formSum x bs (some .pageFaultFatal)
            | (_, s1) => s1

/-- R374: the release has been written: the slot is Released, and CTAG completes. -/
def execPenReleaseWritten (pen : Nat) (slot : Nat) (s : State) : Host.Outcome State Fault Refusal :=
  .next <|
    let x := s.penSlot pen slot
    if x.st == .formed && !s.notNext x then (s.putPen { x with st := .released }).slotTag x x.cause else s

/-- R379: an open slot's time-out passes. -/
def execPenSlotTimeout (pen : Nat) (slot : Nat) (s : State) : Host.Outcome State Fault Refusal :=
  .next <|
    let x := s.penSlot pen slot
    if x.st == .opened then (s.at x.due).putPen { x with st := .releasing, timed := true } else s

/-! ## A post arrives (R376) -/

/-- The elements of a post, read where they lie in memory. -/
def State.postData (s : State) (o : EngOp) (hs : BitVec 128) (first len : Nat) (regs : Option (List Word)) :
    Meets × List Word :=
  match regs with
  | some l => (.go s, l)
  | none =>
    match s.placeOf o.pos with
    | none => (.wait s, [])
    | some p =>
      let bs := recBytes hs first len 4
      match s.meets o p hs bs false with
      | .go s1 =>
        let (data, s2) := s1.engReads o p hs bs
        (.go s2, (List.range len).map fun i => wordOf ((data.drop (4 * i)).take 4))
      | m => (m, [])

/-- A pen on another node: this package is told what became of the post, which is not its own state (R375, R376). -/
def State.farPost (s : State) (o : EngOp) (pen : Nat) (sq : Word) : State :=
  let (w, s1) := s.drawWord
  match w.toNat % 4 with
  | 0 => s1.finishOp o none
  | 1 => s1.postLate (some o.id) o.ctx (pen % 4) pen sq
  | 2 => s1.finishOp o (some .penPostBad)
  | _ => s1.finishOp o (some .nameRealm)

/-- R376: a post arrives at its pen. DESIGN CHOICE: log entry 113. -/
def execPenPostArrival (p : PostIn) (s : State) : Host.Outcome State Fault Refusal :=
  .next <|
    match p with
    | .far pad no sq expert data =>
      match (s.pensOf pad)[no]? with
      | some pen => s.applyPost pen no sq expert data none 0 []
      | none => s
    | .op id =>
      match s.opOf id with
      | none => s
      | some o =>
        if s.t.heldPosts.any (·.op == some id) then s
        else match o.kind with
          | .post node no sq expert hs first len regs =>
            match s.postData o hs first len regs with
            | (.wait s1, _) => s1
            | (.fail c s1, _) => s1.finishOp o (some c)
            | (.go s1, data) =>
              match node, (s.pensOf (s.padOfCtx o.ctx))[no]? with
              | some _, _ => s1.farPost o no sq
              | none, some pen => s1.applyPost pen no sq expert data (some id) o.ctx o.front
              | none, none => s1.finishOp o (some .penBad)
          | _ => s

/-! ## A route is lost (R345, R383) -/

/-- After ports have changed: messages and posts that no route carries any more complete with LINK_DOWN. -/
def State.loseRoutes (s : State) : State :=
  let s1 := s.checkRoutes
  (s1.c.ops.filter fun o => match o.kind with
    | .post (some n) .. => !s1.routed (s1.padOfCtx o.ctx) n
    | _ => false).foldl (fun s o => s.finishOp o (some .linkDown)) s1

end Sys2Proof.Machine
end

