-- ==== Sys2Proof/Machine/Service.lean ====
section
/-! DEFINITION. The service of page faults (R333 to R337): replay of logged accesses, and the end of a fault id. -/

namespace Sys2Proof.Machine

/-- The waiting lanes of an entry, in ascending order. -/
def State.replayLanes (s : State) (core : Nat) (e : LogEnt) (m : MemOp) : State :=
  (sortBy (fun a b => decide (a.1 ≤ b.1)) e.toReplay).foldl
    (fun s l => s.replayLane core e m l) s

/-- R336: a logged entry replayed, once its fault is resolved as retry. -/
def State.replayEntry (s : State) (core : Nat) (e : LogEnt) : State :=
  let det := (s.posOf e.wk.pos).any s.det?
  let s1 : State :=
    match e.word with
    | .ldh _ d (.mem hs _ _) => s.replayLdh core e d hs
    | .tdone _ => s.replayTdone core e
    | .enq g hs i => (s.replayLanes core e (enqOp (.enq g hs i) false hs i)).tickReady
    | .enqAt g hs i => (s.replayLanes core e (enqOp (.enqAt g hs i) true hs i)).tickReady
    | w => match memOpOf w det with
      | some m => s.replayLanes core e m
      | none => s
  s1.closeLog core e.id

/-- Entries of which a lane had to wait as it was performed again (for a fault id, or for room in the read table, R238). -/
def State.retries (s : State) : State :=
  (s.c.cores.flatMap fun c => (c.log.filter (·.retry)).map fun e => (c.id, { e with retry := false })).foldl
    (fun s x => (s.modLog x.1 x.2.id fun e => { e with retry := false }).replayEntry x.1 x.2) s

/-- An engine operation whose fault is fatal: its slot, tile or message is settled, and its tags complete with the
cause (R331, R333). -/
def State.failOp (s : State) (o : EngOp) : State :=
  let c : Cause := .pageFaultFatal
  match o.kind with
  | .lload l .. => (s.modPos o.pos (·.modLoft l fun y => { y with st := .void })).finishOp o (some c)
  | .copy hd hs q red => match s.placeOf o.pos with
    | some p => (s.moveCopy o p hd hs q red (firstBad s p hd hs q (cpyCount q) 0).1).finishOp o (some c)
    | none => s.finishOp o (some c)
  | .chain k => match s.placeOf o.pos with
    | some p => s.endChain o k (s.chunksDone p k (p.loftAt (pbSlot k.block)) (chunkElems (tagFmt (mhTag k.hA)) (algK k.algRec))
        (pbKe k.block / chunkElems (tagFmt (mhTag k.hA)) (algK k.algRec)) 0).1 (some c)
    | none => s.finishOp o (some c)
  | .ald _ tid _ _ => (s.modPos o.pos (·.modTile tid fun t => t.landed t.cells (some (c, o.tags.headD 0)))).finishOp o (some c)
  | .ask .. => s.endDelivery o (some c)
  | .send .. => match s.t.sends.find? (·.op == o.id) with
    | some m => s.failSend m c
    | none => s.finishOp o (some c)
  | .recv .. => match s.t.recvs.find? (·.op == o.id) with
    | some m => s.failRecv m c
    | none => s.finishOp o (some c)
  | .relay .. => match s.relayOfOp o.id with
    | some r => s.endRelay r (some c)
    | none => s.finishOp o (some c)
  | .slot pen idx =>
    let x := s.penSlot pen idx
    s.formSum x (s.releaseReach x (pnDest x.word x.hd)).1 (some c)
  | _ => s.finishOp o (some c)

/-- A releasing slot without an owner that waits on the fault writes what it reaches (R374). -/
def State.failOrphans (s : State) (ctx : Nat) (f : FaultRec) : State :=
  (s.t.pens.filter fun x => x.ctx == ctx && x.st == .releasing && x.pos.isNone).foldl (fun s x =>
    match s.releaseReach x (pnDest x.word x.hd) with
    | (bs, .fault obj page) => if obj == f.obj && page == f.page && f.wrf then s.formSum x bs (some .pageFaultFatal) else s
    | _ => s) s

/-- Window lines of a context whose fill waits on the fault (R213). -/
def Position.failLines (p : Position) (f : FaultRec) : Position :=
  { p with wins := p.wins.map fun w => w.map fun w =>
      ((w.want.map (·.1)).filter fun l => w.obj == f.obj && (w.goff + 64 * l) / 2 ^ 16 == f.page && !f.wrf).foldl (·.lostLine) w }

/-- Lanes that a record's fault parked outside the operand log trap (R331). -/
def State.failServices (s : State) (ctx : Nat) (f : FaultRec) : State :=
  (s.c.positions.filter fun p => p.ctx == ctx).foldl (fun s p =>
    p.blocks.foldl (fun s b => b.warps.foldl (fun s w =>
      let ts := w.threads.zipIdx.filterMap fun (t : Thread × Nat) => match t.1.st with
        | .parked (.service n off) => if n == f.fid then some (t.2, memTrap .pageFaultFatal f.obj off) else none
        | _ => none
      if ts.isEmpty then s else s.takeTraps ⟨p.id, b.stage, w.idx⟩ ts) s) s) s

/-- The entries of the operand log that a fatal resolution reaches: their lanes trap where their arms park (R335). -/
def State.doomLogs (s : State) (fid : Nat) (logs : List (Nat × LogEnt)) : State :=
  logs.foldl (fun s x => s.modLog x.1 x.2.id (·.doom fid)) s

/-- The launches and task starts that a resolved fault id, or an id that is free again, lets go on (R333). -/
def LateRead.resolved (l : LateRead) (ctx fid : Nat) (fatal : Bool) : LateRead :=
  if l.ctx != ctx then l
  else match l.wait with
    | .fid n => if n == fid then { l with wait := if fatal then .fatal else .again } else l
    | .noId => { l with wait := .again }
    | .again | .fatal => l

/-- A fault id resolved (R333): as retry, logged accesses are replayed and engines go on; as fatal, lanes trap and
tags complete with the cause. DEDUCED: log entry 129. -/
def State.resolve (s : State) (ctx : Nat) (f : FaultRec) (fatal : Bool) : State :=
  let logs := s.logsOf ctx f.fid
  let ops := s.c.ops.filter fun o => o.ctx == ctx && o.st == .faulted f.fid
  let s1 := (s.modCtx ctx fun c => { c with faults := c.faults.filter (·.fid != f.fid) }).flushFaults ctx
  let s4 : State :=
    if fatal then
      let s2 := ops.foldl State.failOp ((s1.doomLogs f.fid logs).killLogs)
      let s3 := (s2.failServices ctx f).failOrphans ctx f
      s3.modC fun c => { c with positions := c.positions.map fun p => if p.ctx == ctx then p.failLines f else p }
    else
      let s2 := ops.foldl (fun s o => s.modOp o.id fun o => { o with st := .accepted }) s1
      logs.foldl (fun s x => s.replayEntry x.1 x.2) s2
  (s4.endLate ctx f.fid fatal).modT fun t => { t with reads := t.reads.map (·.resolved ctx f.fid fatal) }

/-- An unresolved fault of a context. -/
def State.faultOf (s : State) (ctx fid : Nat) : Option FaultRec :=
  (s.ctxOf ctx).bind fun c => c.faults.find? (·.fid == fid)

/-- R333: a fault id that stays unresolved for its time-out is resolved as fatal. -/
def execFaultServiceTimeout (ctx : Nat) (fid : Nat) (s : State) : Host.Outcome State Fault Refusal :=
  .next <|
    match s.faultOf ctx fid with
    | some f => (s.at f.due).resolve ctx f true
    | none => s

end Sys2Proof.Machine
end

