-- ==== Sys2Proof/Machine/Place.lean ====
section
/-! DEFINITION. What a position needs, which cores and clusters can hold it (R289, R392), making a position in launch
state (R120, R251, R291, R310), placing instances and positions, and the end of a revoked cluster's drain. -/

namespace Sys2Proof.Machine

/-! ## Fixup expressions (R30, R77) -/

def wrap64 (z : Int) : Int := (BitVec.ofInt 64 z).toInt

def bit64 (op : BitVec 64 → BitVec 64 → BitVec 64) (x y : Int) : Int := (op (BitVec.ofInt 64 x) (BitVec.ofInt 64 y)).toInt

/-- One operator; none for a division by zero, a shift count outside 0 to 63, or another code. -/
def exprOp (code : Nat) (x y : Int) : Option Int :=
  match code with
  | 0x10 => some (wrap64 (x + y))
  | 0x11 => some (wrap64 (x - y))
  | 0x12 => some (wrap64 (x * y))
  | 0x13 => if y = 0 then none else some (wrap64 (x.tdiv y))
  | 0x14 => if 0 ≤ y ∧ y < 64 then some (wrap64 (x * 2 ^ y.toNat)) else none
  | 0x15 => if 0 ≤ y ∧ y < 64 then some (x / 2 ^ y.toNat) else none
  | 0x16 => some (bit64 (· &&& ·) x y)
  | 0x17 => some (bit64 (· ||| ·) x y)
  | 0x18 => some (bit64 (· ^^^ ·) x y)
  | _ => none

/-- A postfix expression's value; `blk` is `%blk` where it is legal. One step of `fuel` for each code. -/
def evalExpr (blk : Option Nat) : Nat → List Byte → List Int → Option Int
  | _, [], [x] => some x
  | _, [], _ => none
  | 0, _ :: _, _ => none
  | fuel + 1, c :: bs, st =>
    if c == 1 then
      if bs.length < 8 then none
      else evalExpr blk fuel (bs.drop 8) ((BitVec.ofNat 64 (leNat (bs.take 8))).toInt :: st)
    else if c == 2 then evalExpr blk fuel bs ((Config.lanes : Int) :: st)
    else if c == 3 then blk.bind fun b => evalExpr blk fuel bs ((b : Int) :: st)
    else match st with
      | y :: x :: r => (exprOp c.toNat x y).bind fun z => evalExpr blk fuel bs (z :: r)
      | _ => none

/-! ## What a position needs (R289) -/

structure Need where
  threads : Nat
  warps : Nat
  blocks : Nat
  units : Nat
  stash : Nat
  tags : Nat
  loft : Nat
  deriving DecidableEq, Repr

def roundUp (n m : Nat) : Nat := (n + m - 1) / m * m

def listMax (l : List Nat) : Nat := l.foldl max 0

/-- The need of a position of a kernel whose stage k has `nw[k]` warps. -/
def Kernel.need (k : Kernel) (nw : List Nat) : Need :=
  let n (sc : StageCode) : Nat := nw.getD sc.stage 0
  { threads := (k.stages.map fun sc => n sc * k.ww).sum
    warps := (k.stages.map n).sum
    blocks := k.stages.length
    units := (k.stages.map fun sc => n sc * k.ww * (sc.regs / 8)).sum
    stash := roundUp (64 * listMax (k.stages.map (·.stash))) 1536
    tags := listMax (k.stages.map (·.tags))
    loft := listMax (k.stages.map (·.loft)) }

def State.needOf (s : State) (p : Position) : Need :=
  match (s.grid? p).bind fun g => (s.kernel? g).map fun k => k.need g.nwarp with
  | some n => n
  | none => ⟨0, 0, 0, 0, 0, 0, 0⟩

/-- The positions that hold resources of a core. -/
def State.holdsOn (s : State) (core : Nat) : List Position :=
  s.c.positions.filter fun p => p.core == core && (p.st == .resident || p.st == .stopping)

/-- The lowest free range of a core's stash. -/
def freeBase (used : List (Nat × Nat)) (size : Nat) : Option Nat :=
  ((0 :: used.map fun u => u.1 + u.2).filter fun b => decide (b + size ≤ Config.stashBytes) &&
    used.all fun u => u.2 == 0 || size == 0 || decide (b + size ≤ u.1) || decide (u.1 + u.2 ≤ b)).min?

def State.stashFor (s : State) (core size : Nat) : Option Nat :=
  freeBase ((s.holdsOn core).map fun p => (p.stashBase, p.stashSize)) size

/-- A position with this need fits the core now. -/
def State.fits (s : State) (core : Nat) (n : Need) : Bool :=
  let us := (s.holdsOn core).map s.needOf
  let left (f : Need → Nat) (most : Nat) : Bool := decide ((us.map f).sum + f n ≤ most)
  (s.coreOf core).any (·.usable) && left (·.threads) Config.coreThreads && left (·.warps) Config.coreWarps
    && left (·.blocks) Config.coreBlocks && left (·.tags) Config.copyTags && left (·.loft) Config.loftSlots
    && decide (n.units ≤ s.coreFree core) && (s.stashFor core n.stash).isSome

/-- A position with this need fits an empty core. -/
def Need.fitsEmpty (n : Need) : Bool :=
  decide (n.threads ≤ Config.coreThreads) && decide (n.warps ≤ Config.coreWarps) && decide (n.blocks ≤ Config.coreBlocks)
    && decide (n.tags ≤ Config.copyTags) && decide (n.loft ≤ Config.loftSlots) && decide (n.units ≤ Config.poolUnits)
    && decide (n.stash ≤ Config.stashBytes)

def clusterCores (c : Nat) : List Nat := (List.range Config.coresPerCluster).map (Config.coresPerCluster * c + ·)

/-- The lowest cores of a cluster that fit, as many as an instance has positions. -/
def State.coresFor (s : State) (n : Need) (cn : Nat) (cluster : Nat) : Option (List Nat) :=
  let l := (clusterCores cluster).filter fun k => s.fits k n
  if cn ≤ l.length then some (l.take cn) else none

/-- The cores of a cluster that are in service. -/
def State.coresIn (s : State) (cluster : Nat) : Nat :=
  ((clusterCores cluster).filter fun k => (s.coreOf k).any (·.usable)).length

/-- An empty cluster would fit an instance. -/
def State.emptyFits (s : State) (n : Need) (cn cluster : Nat) : Bool := n.fitsEmpty && decide (cn ≤ s.coresIn cluster)

/-! ## The clusters of a paddock (R387, R392) -/

def dieOf (cluster : Nat) : Nat := cluster / 6

def State.healthy (s : State) (c : Nat) : Bool := !s.m.retired.contains c && !s.m.diesOut.contains (dieOf c)
def State.changing (s : State) (c : Nat) : Bool := s.m.revokes.any (·.cluster == c)
def Paddock.owns (p : Paddock) (c : Nat) : Bool := p.gset.getLsbD c
def State.borrowerOf (s : State) (c : Nat) : Option Nat := (s.m.borrowed.find? (·.1 == c)).map (·.2)

/-- The clusters a paddock may place on now, in ascending number: its own, but for those lent, and those it borrows. -/
def State.clustersOf (s : State) (p : Paddock) : List Nat :=
  (List.range Config.clusters).filter fun c => s.healthy c && !s.changing c && match s.borrowerOf c with
    | some b => b == p.id
    | none => p.owns c

/-- The MCNT highest-numbered clusters of GSET. -/
def Paddock.margin (p : Paddock) : List Nat := (((List.range Config.clusters).filter p.owns).reverse).take p.mcnt

def State.padOnCluster (s : State) (pad c : Nat) : Bool :=
  s.c.positions.any fun p => clusterOf p.core == c && (p.st == .resident || p.st == .stopping) && s.padOfCtx p.ctx == pad

/-- The clusters of the commons, in ascending number. -/
def State.commons (s : State) : List Nat :=
  (List.range Config.clusters).filter fun c => s.healthy c && !s.changing c && (s.borrowerOf c).isNone &&
    (!(s.m.paddocks.any (·.owns c)) || s.m.paddocks.any fun q => (q.st == .live || q.st == .stopped)
      && q.margin.contains c && !s.padOnCluster q.id c)

/-- The positions of an instance that are not placed or have not ended, in ascending local id. -/
def State.instPositions (s : State) (ctx grid lin : Nat) : List Position :=
  sortBy (fun (a b : Position) => decide (a.loc ≤ b.loc))
    (s.c.positions.filter fun p => p.ctx == ctx && p.grid == grid && p.inst == lin)

/-- Positions of a context that wait to be placed. -/
def Position.waits (p : Position) : Bool := p.st == .held || p.st == .discarded

/-- A context whose grids are placed: Ending too, until its last grid has ended (R255). -/
def Ctx.runs (c : Ctx) : Bool := c.st == .live || c.st == .ending

/-- The instance that the Bellwether hands out next: one whose member of the drove is lost, else a new one. -/
def Grid.nextInst (g : Grid) : Option Nat :=
  match g.lost with
  | l :: _ => some l
  | [] => if g.next < g.gx * g.gy * g.gz then some g.next else none

/-- What a paddock is to place now, as needs and numbers of positions: the next instance of each grid, its discarded positions
with their instances, and the first Ready task of each context (R270, R289, R309). -/
def State.toPlace (s : State) (pad : Nat) : List (Need × Nat) :=
  (s.t.ctxs.filter fun c => c.pad == pad && c.runs).flatMap fun c =>
    ((s.c.grids.filter fun g => g.ctx == c.id && g.live && g.nextInst.isSome).filterMap fun g =>
      (s.kernel? g).map fun k => (k.need g.nwarp, g.cx * g.cy * g.cz))
    ++ ((s.c.positions.filter fun p => p.ctx == c.id && p.st == .discarded).map fun p =>
      (s.needOf p, (s.instPositions p.ctx p.grid p.inst).length))
    ++ ((s.readySlots c.id).take 1).filterMap fun x =>
      (s.kernelAt c.id (taskEobj x.2.word) (taskEoff x.2.word)).map fun k => (k.need (List.replicate 8 1), 1)

/-- A paddock wants to borrow a cluster of the commons: the lowest that fits an instance none of its own clusters does. -/
def State.wants (s : State) (p : Paddock) (c : Nat) : Bool :=
  p.borrow && p.st == .live && (s.toPlace p.id).any fun x =>
    let fit (cl : Nat) : Bool := (s.coresFor x.1 x.2 cl).isSome
    !(s.clustersOf p).any fit && s.commons.find? fit == some c

/-- Where an instance goes: the lowest-numbered cluster of its paddock that fits it, or the lowest of the commons that
does, which is then borrowed, unless a paddock of lower RANK wants that cluster now (R392). -/
def State.hostFor (s : State) (p : Paddock) (fit : Nat → Bool) : Option (Nat × Bool) :=
  match (s.clustersOf p).find? fit with
  | some c => some (c, false)
  | none =>
    if p.borrow then
      (s.commons.find? fun c => fit c && !(s.m.paddocks.any fun q => decide (q.rank < p.rank) && s.wants q c)).map fun c => (c, true)
    else none

/-- 200 µs, the length of a drain. -/
def drainTime : Nat := us 200

/-- A borrowed cluster's revocation begins (R392). -/
def State.revoke (s : State) (c : Nat) : State :=
  match s.borrowerOf c with
  | some b =>
    if s.changing c then s
    else s.modM fun m => { m with revokes := m.revokes ++ [⟨c, b, some (s.now + drainTime)⟩] }
  | none => s

/-- An owner with an instance that fits none of the clusters it may use takes one of its own back (R392). -/
def State.reclaim (s : State) (pd : Paddock) (n : Need) (cn : Nat) : State :=
  match (List.range Config.clusters).find? fun c => pd.owns c && s.healthy c && !s.changing c
      && (s.borrowerOf c).any (· != pd.id) && s.emptyFits n cn c with
  | some c => s.revoke c
  | none => s

/-- The cluster becomes a borrowed one (R392). -/
def State.borrowCluster (s : State) (pad : Nat) (x : Nat × Bool) : State :=
  if x.2 then (s.clearTlb x.1).modM fun m => { m with borrowed := m.borrowed ++ [(x.1, pad)] } else s

/-! ## A position in launch state (R120, R291, R310) -/

/-- DEDUCED: log entry 6. -/
def Thread.start (regs pc since : Nat) : Thread :=
  { st := .ready, pc := pc, idx := 0, mid := false, regs := List.replicate regs Reg.init,
    preds := List.replicate 8 false, calls := [], tstate := 0, tpc := 0, tinfo0 := 0, tinfo1 := 0, tinfo2 := 0,
    tinfo3 := 0, byp := [], since := since, elig := false, fault := [], redo := false, stale := [], mfence := (0, []) }

/-- A warp at a region entry: its handles as HMASK gives them, one root arm. DEDUCED: log entry 6. -/
def Warp.start (k : Kernel) (sc : StageCode) (g : Grid) (idx slot order since pc : Nat) (f : Frontier) (fstat : Word) :
    Warp :=
  { idx := idx, wid := order, slot := slot, order := order, threads := List.replicate k.ww (.start sc.regs pc since),
    arms := [⟨0, none, List.range k.ww, none, [], false, 0, f⟩], recs := [], nextTag := 1, nextRec := 0,
    w := List.replicate 32 .zero, x := List.replicate (k.ww / 8) (List.replicate 16 .zero), z := List.replicate 8 none,
    zfront := List.replicate 8 [], fstat := fstat, view := [], h := g.hinit, m := List.replicate 16 0, busy := [],
    epoch := 0, gran := sc.regs / 8, uses := [], early := [] }

/-- An `.own` field: as it stands, or the value of its `%blk` fixup. An expression that divides by zero, or shifts by a count
outside 0 to 63, as the launch evaluates it gives none, as a value that does not fit does: FIXUP_RANGE. Of several records on
one field the first that holds `%blk` stands. DESIGN CHOICE: log entry 137. DESIGN CHOICE: log entry 151. -/
def StageCode.ownField (sc : StageCode) (blk i : Nat) (count : Bool) : Option Nat :=
  match sc.fix.find? fun f => f.own == i && f.count == count with
  | some f => (evalExpr (some blk) f.expr.length f.expr []).bind fun v =>
      if 0 ≤ v ∧ v < 2 ^ 32 then some v.toNat else none
  | none => (sc.own[i]?).map fun r => (if count then (r.extractLsb' 64 32) else r.extractLsb' 32 32).toNat

/-- The write ranges of a block (R251): whole strides of the handles that the launch binds. -/
def StageCode.ownRanges (sc : StageCode) (h : List (BitVec 128)) (blk : Nat) : List OwnRange :=
  (List.range sc.own.length).filterMap fun i =>
    (sc.own[i]?).bind fun r =>
      if !r.getLsbD 4 then none
      else
        let b := h.getD (r.extractLsb' 0 4).toNat 0
        if recStash b then none
        else (sc.ownField blk i false).bind fun first => (sc.ownField blk i true).map fun count =>
          ⟨recObj b, recBase b + first * recStride b, count * recStride b⟩

/-- What a restart keeps of a block: its region, the FSTAT of its warps (R310), its MSTAT (R196), whether it ended. -/
structure Keep where
  stage : Nat
  region : Nat
  fstats : List (Nat × Word)
  mstat : Word
  ended : Bool
  deriving DecidableEq, Repr

/-- Warp slots of a core that no resident warp holds, lowest first. -/
def State.freeSlots (s : State) (core : Nat) : List Nat :=
  (List.range Config.coreWarps).filter fun i =>
    !((s.holdsOn core).any fun p => p.blocks.any fun b => b.warps.any (·.slot == i))

/-- One block of a position, its warps on the given slots. DESIGN CHOICE: log entry 37. -/
def Block.start (k : Kernel) (sc : StageCode) (g : Grid) (c : Ctx) (keep : Keep) (slots : List Nat) (order since blk : Nat)
    (f : Frontier) : Block :=
  let pc := sc.regions.getD keep.region 0
  { stage := sc.stage
    warps := if keep.ended then [] else (slots.take (g.nwarp.getD sc.stage 0)).mapIdx fun i slot =>
      .start k sc g i slot (order + i) since pc f ((keep.fstats.lookup i).getD 0)
    b := g.binit.mapIdx fun i v => if sc.bdecl.getLsbD i then v else .zero
    view := [], bars := List.replicate sc.bars .idle, region := keep.region, dog := 0, wd := c.wdLog, mstat := keep.mstat,
    own := sc.ownRanges g.hinit blk, atC := [], atG := [], fstats := [], ended := keep.ended }

/-- Where each warp of a position stands: its number, core and slot (R237). -/
def Position.homes (p : Position) : List (Nat × Nat × Nat) :=
  p.blocks.flatMap fun b => b.warps.map fun w => (w.wid, p.core, w.slot)

/-- A position's warps stand where they do now. -/
def State.settleHomes (s : State) (p : Position) : State :=
  s.modC fun c => { c with homes := p.homes ++ c.homes.filter fun h => !p.homes.any (·.1 == h.1) }

/-- The blocks of a position, one for each stage, on consecutive warp slots. -/
def blocksOf (k : Kernel) (g : Grid) (c : Ctx) (keeps : List Keep) (since blk : Nat) (f : Frontier) :
    List StageCode → List Nat → Nat → List Block
  | [], _, _ => []
  | sc :: rest, slots, order =>
    let n := g.nwarp.getD sc.stage 0
    let keep := (keeps.find? (·.stage == sc.stage)).getD ⟨sc.stage, 0, [], 0, false⟩
    Block.start k sc g c keep slots order since blk f :: blocksOf k g c keeps since blk f rest (slots.drop n) (order + n)

/-- A position placed on a core: in launch state at the given regions. -/
def State.putPosition (s : State) (k : Kernel) (g : Grid) (c : Ctx) (lin loc core : Nat) (keeps : List Keep) (f : Frontier) :
    State :=
  let n := k.need g.nwarp
  let since := ((s.coreOf core).map (·.filled)).getD 0
  let blk := lin * (g.cx * g.cy * g.cz) + loc
  let id := s.nextId
  let p : Position :=
    { id := id, ctx := g.ctx, grid := g.id, inst := lin, loc := loc, st := .resident, core := core,
      blocks := blocksOf k g c keeps since blk f k.stages (s.freeSlots core) (id + 1),
      units := n.units, lent := 0, drawn := 0, limit := g.draw, claims := [],
      stashBase := (s.stashFor core n.stash).getD 0, stashSize := n.stash, stash := [], unfenced := [],
      tags := List.replicate n.tags .init, loft := List.replicate n.loft .init, acc := List.replicate 32 ⟨none, none⟩,
      rings := List.replicate 8 .init, wins := List.replicate 8 none, past := f }
  let s1 : State := { s with nextId := id + 1 + n.warps }
  let s2 := (s1.modC fun c => { c with positions := c.positions ++ [p] }).settleHomes p
  p.blocks.foldl (fun s b => s.modGrid g.ctx g.id fun x =>
    x.modRetire lin fun r => r.putBlock loc b.stage b.region b.ended) s2

/-- A new instance on a cluster: its hub's registers, its entry of the retire map, and its positions (R289, R291). -/
def State.putInstance (s : State) (k : Kernel) (g : Grid) (c : Ctx) (lin cluster : Nat) (cores : List Nat) : State :=
  let i : Inst := { ctx := g.ctx, grid := g.id, lin := lin, hw := cluster, c := g.cinit, view := [], arrC := [], fronts := [],
                    gone := [] }
  let s1 := (s.modC fun x => { x with insts := x.insts ++ [i] }).modGrid g.ctx g.id fun x =>
    { x with next := max x.next (lin + 1), lost := x.lost.erase lin
             retire := x.retire.filter (·.lin != lin) ++ [⟨lin, some cluster, []⟩] }
  cores.zipIdx.foldl (fun s x => s.putPosition k g c lin x.2 x.1 [] g.start) s1

/-! ## Placing (R289, R309, R257) -/

/-- What a discarded position restarts with. -/
def Position.keeps (p : Position) : List Keep := p.blocks.map fun b => ⟨b.stage, b.region, b.fstats, b.mstat, b.ended⟩

/-- A block on other warp slots; `slot` gives the new slot of a warp. -/
def Block.reseat (b : Block) (slot : Nat → Nat) (since : Nat) : Block :=
  { b with warps := b.warps.map fun w =>
      { w with slot := slot w.idx, threads := w.threads.map fun t => { t with since := since, elig := false } } }

/-- The owner of a ring (R320) after its block has taken other warp slots. -/
def Position.ringOwner (p : Position) (slot : Block → Nat → Nat) (who : Option (Nat × Nat)) : Option (Nat × Nat) :=
  who.map fun x => match (p.blockOf x.1).bind fun b => (b.warps.find? (·.slot == x.2)).map fun w => slot b w.idx with
    | some n => (x.1, n)
    | none => x

/-- A held position on a core again: its warps take the slots given, in order of stage and warp. -/
def Position.reseat (p : Position) (core base since : Nat) (slots : List Nat) : Position :=
  let slot (b : Block) (i : Nat) : Nat :=
    slots.getD (((p.blocks.filter fun x => decide (x.stage < b.stage)).map fun x => x.warps.length).sum + i) 0
  { p with st := .resident, core := core, stashBase := base
           blocks := p.blocks.map fun b => b.reseat (slot b) since
           rings := p.rings.map fun r => { r with prod := p.ringOwner slot r.prod, cons := p.ringOwner slot r.cons } }

/-- A discarded position placed again on a core; a held one goes on where it stopped (R257), its warps the parties they were.
DESIGN CHOICE: log entry 7. -/
def State.putAgain (s : State) (k : Kernel) (g : Grid) (c : Ctx) (p : Position) (core : Nat) : State :=
  if p.st == .held then
    let q := p.reseat core ((s.stashFor core p.stashSize).getD 0) (((s.coreOf core).map (·.filled)).getD 0) (s.freeSlots core)
    (s.modPos p.id fun _ => q).settleHomes q
  else
    let s1 := s.modC fun c => { c with positions := c.positions.filter (·.id != p.id) }
    s1.putPosition k g c p.inst p.loc core p.keeps p.past

/-- A whole instance moves to a cluster: the hub's committed values go with it, and no view (R309). -/
def State.moveInstance (s : State) (k : Kernel) (g : Grid) (c : Ctx) (lin cluster : Nat) (cores : List Nat) : State :=
  let s1 := (s.instPositions g.ctx g.id lin).foldl (fun s p => s.discard p.id) s
  let s2 := (s1.modInst g.ctx g.id lin fun i => { i with hw := cluster, view := [] }).modGrid g.ctx g.id fun x =>
    x.modRetire lin fun r => { r with hw := some cluster }
  ((s2.instPositions g.ctx g.id lin).zip cores).foldl (fun s x => s.putAgain k g c x.1 x.2) s2

/-- A discarded position placed again: on a core of its instance's cluster, or with its whole instance elsewhere. -/
def State.replace (s : State) (k : Kernel) (g : Grid) (c : Ctx) (pd : Paddock) (p : Position) : State :=
  let n := k.need g.nwarp
  let hw := ((s.instOf p.ctx p.grid p.inst).map (·.hw)).getD 0
  let same := if (s.clustersOf pd).contains hw then (clusterCores hw).find? fun x => s.fits x n else none
  match same with
  | some core => s.putAgain k g c p core
  | none =>
    let cn := (s.instPositions p.ctx p.grid p.inst).length
    match s.hostFor pd fun x => x != hw && (s.coresFor n cn x).isSome with
    | some x =>
      match s.coresFor n cn x.1 with
      | some cores => (s.borrowCluster pd.id x).moveInstance k g c p.inst x.1 cores
      | none => s
    | none =>
      -- nothing of it runs: it may return to its own cluster as a whole
      if (s.instPositions p.ctx p.grid p.inst).all (·.st == .discarded) then
        match s.hostFor pd fun x => (s.coresFor n cn x).isSome with
        | some x => match s.coresFor n cn x.1 with
          | some cores => (s.borrowCluster pd.id x).moveInstance k g c p.inst x.1 cores
          | none => s
        | none => s.reclaim pd n cn
      else s.reclaim pd n cn

/-- One instance of a context that is restored: its positions on distinct cores of one cluster (R257). A position of it that is
discarded again while siblings of it run is placed as any discarded one (R309). -/
def State.restoreInstance (s : State) (k : Kernel) (g : Grid) (c : Ctx) (pd : Paddock) (lin : Nat) : State :=
  let ps := s.instPositions g.ctx g.id lin
  let n := k.need g.nwarp
  if !ps.all (·.waits) then
    match ps.find? (·.waits) with
    | some p => s.replace k g c pd p
    | none => s
  else match s.hostFor pd fun x => (s.coresFor n ps.length x).isSome with
  | some x =>
    match s.coresFor n ps.length x.1 with
    | some cores =>
      let s1 := ((s.borrowCluster pd.id x).modInst g.ctx g.id lin fun i => { i with hw := x.1 }).modGrid g.ctx g.id fun y =>
        y.modRetire lin fun r => { r with hw := some x.1 }
      (ps.zip cores).foldl (fun s x => s.putAgain k g c x.1 x.2) s1
    | none => s
  | none => s.reclaim pd n ps.length

/-- An instance that no cluster of this package fits: a member of the drove may take it, the lowest in package order with room;
whether one has room is not this package's state. DESIGN CHOICE: log entry 89. -/
def State.placeAway (s : State) (g : Grid) (lin : Nat) : Option State :=
  match g.drove.filter fun m => m.1 != s.node with
  | [] => none
  | ms =>
    let (w, s1) := s.drawWord
    if w == 0 then none
    else (ms[w.toNat % ms.length]?).map fun m => s1.modGrid g.ctx g.id fun x =>
      { x with next := max x.next (lin + 1), lost := x.lost.erase lin, away := x.away ++ [(lin, m.1)]
               retire := x.retire.filter (·.lin != lin) ++ [⟨lin, none, []⟩] }

/-- The next instance of a grid placed, where a cluster fits it. DESIGN CHOICE: log entry 87. -/
def State.placeNext (s : State) (k : Kernel) (g : Grid) (c : Ctx) (pd : Paddock) : State :=
  let n := k.need g.nwarp
  let cn := g.cx * g.cy * g.cz
  match g.nextInst with
  | none => s
  | some lin => match s.hostFor pd fun x => (s.coresFor n cn x).isSome with
    | some x =>
      match s.coresFor n cn x.1 with
      | some cores => (s.borrowCluster pd.id x).putInstance k g c lin x.1 cores
      | none => s
    | none => (s.placeAway g lin).getD (s.reclaim pd n cn)

/-- A discarded position of a paddock that may be placed now comes before every new instance (R309). -/
def State.someDiscarded (s : State) (pad : Nat) : Bool :=
  s.c.positions.any fun p => p.st == .discarded && s.padOfCtx p.ctx == pad && (s.ctxOf p.ctx).any (·.runs)

/-! ## Revocation (R392) -/

/-- The positions of a paddock on a cluster. -/
def State.onCluster (s : State) (pad c : Nat) : List Position :=
  s.c.positions.filter fun p => clusterOf p.core == c && (p.st == .resident || p.st == .stopping) && s.padOfCtx p.ctx == pad

/-- R392: a revoked cluster's drain ends: positions still there are discarded, and the scrub begins. -/
def execRevocationDrainExpiry (cluster : Nat) (s : State) : Host.Outcome State Fault Refusal :=
  .next <|
    match s.m.revokes.find? (·.cluster == cluster) with
    | none => s
    | some r =>
      match r.drain with
      | none => s
      | some t =>
        let ps := s.onCluster r.user cluster
        let s1 := if ps.isEmpty then s else ps.foldl (fun s p => s.discard p.id) (s.at t)
        s1.modM fun m => { m with revokes := upd (·.cluster == cluster) (fun r => { r with drain := none }) m.revokes }

end Sys2Proof.Machine
end

