-- ==== Sys2Proof/Machine/Launch.lean ====
section
/-! DEFINITION. Launches (R284 to R293), the argument block (R285, R448), grid ids (R287), and the start of tasks
(R270, R288). -/

namespace Sys2Proof.Machine

/-! ## A context's registers at creation (R7, R254) -/

/-- A context as it is created: algebra slots 5 to 15 empty, every register at its reset value. -/
def Ctx.create (id pad : Nat) (st : CtxSt) : Ctx :=
  { id := id, st := st, pad := pad, objs := [], alg := algSlots, algOld := [], regdraw := 0, hintdrop := 0, penlim := 16384,
    penlate := 0, loccfg := 0x00010011, locthr := 0x00800200, wdcfg := 32, trapcfg := 0, evcfg := 0x06000000, evw := 0,
    evr := 0, evlost := 0, evseq := [], fltcfg := 0x0000001E04000000, fltw := 0, fltr := 0, faults := [], lstat := 0,
    lcause := 0, lgrid := 0, heldL := [], waitL := [], swept := [], wantSave := false, wantRestore := false,
    wantEnd := false, drain := none, signal := false, gone := [] }

/-! ## The launch record (R284) -/

def lrEobj (r : BitVec 1024) : Nat := (r.extractLsb' 0 24).toNat
def lrEoff (r : BitVec 1024) : Nat := (r.extractLsb' 32 32).toNat
def lrArg (r : BitVec 1024) : Nat := (r.extractLsb' 64 64).toNat
def lrGx (r : BitVec 1024) : Nat := (r.extractLsb' 128 16).toNat
def lrGy (r : BitVec 1024) : Nat := (r.extractLsb' 144 16).toNat
def lrGz (r : BitVec 1024) : Nat := (r.extractLsb' 160 16).toNat
def lrCx (r : BitVec 1024) : Nat := (r.extractLsb' 176 4).toNat
def lrCy (r : BitVec 1024) : Nat := (r.extractLsb' 180 4).toNat
def lrCz (r : BitVec 1024) : Nat := (r.extractLsb' 184 4).toNat
def lrNwarp (r : BitVec 1024) (k : Nat) : Nat := (r.extractLsb' (192 + 6 * k) 6).toNat
def lrHmask (r : BitVec 1024) : BitVec 16 := r.extractLsb' 240 16
def lrDn (r : BitVec 1024) : Nat := (r.extractLsb' 256 3).toNat
def lrDtab (r : BitVec 1024) : Nat := (r.extractLsb' 320 64).toNat

def lrReserved (r : BitVec 1024) : Bool :=
  r.extractLsb' 24 8 != 0 || r.extractLsb' 188 4 != 0 || r.extractLsb' 259 61 != 0 || r.extractLsb' 384 640 != 0

def lrCn (r : BitVec 1024) : Nat := lrCx r * lrCy r * lrCz r
def lrInsts (r : BitVec 1024) : Nat := lrGx r * lrGy r * lrGz r

def inSize (n top : Nat) : Bool := decide (1 ≤ n) && decide (n ≤ top)

/-- NWARP is 1 to 32 for a stage present, and 0 otherwise. -/
def warpsOk (k : Kernel) (r : BitVec 1024) : Bool :=
  (List.range 8).all fun i => if (k.stageOf i).isSome then inSize (lrNwarp r i) 32 else lrNwarp r i == 0

/-- Every `.own` handle is loaded from the argument block. -/
def Kernel.ownsIn (k : Kernel) (hmask : BitVec 16) : Bool :=
  k.stages.all fun sc => sc.own.all fun o => !o.getLsbD 4 || hmask.getLsbD (o.extractLsb' 0 4).toNat

/-- Status 1 of R286. -/
def launchBad (k : Option Kernel) (r : BitVec 1024) : Bool :=
  lrReserved r || !inSize (lrGx r) 65535 || !inSize (lrGy r) 65535 || !inSize (lrGz r) 65535
    || !inSize (lrCx r) 8 || !inSize (lrCy r) 8 || !inSize (lrCz r) 8 || decide (8 < lrCn r)
    || decide (2 ^ 32 < lrInsts r * lrCn r)
    || !(k.any fun k => warpsOk k r && k.ownsIn (lrHmask r))
    || lrArg r % 64 != 0 || (lrArg r == 0 && lrHmask r != 0) || (lrDn r != 0 && lrDtab r % 64 != 0)

/-! ## The argument block (R285) -/

/-- Why bytes that a launch reads are not there: a cause that fails it, or a page of a paged object that must be served first
(R220 check 9, R331). -/
inductive ArgErr where
  | cause (c : Cause)
  | page (obj page : Nat)
  deriving DecidableEq, Repr

/-- Bytes at a virtual address, read as a launch reads them: the checks of R220, then what every earlier access left. -/
def State.argBytes (s : State) (ctx addr n : Nat) : Except ArgErr (List Byte) :=
  let obj := addr / 2 ^ 40
  let off := addr % 2 ^ 40
  match (s.ctxOf ctx).bind (·.objOf obj) with
  | none => .error (.cause .objectInvalid)
  | some o =>
    if o.exo then .error (.cause .permission)
    else if 2 ^ 40 < off + n then .error (.cause .bounds)
    else match s.checkMem ctx obj off n false false with
      | .trap t => .error (.cause t.cause)
      | .fault obj page => .error (.page obj page)
      | _ => .ok (((s.objSettle ctx obj off n).objRead ctx obj off n).getD [])

/-- What an argument block gives: the records of h0 to h15, and the g, c and b values. -/
structure Args where
  h : List (BitVec 128)
  g : List TV
  c : List TV
  b : List TV
  deriving DecidableEq, Repr

def Args.zero : Args :=
  ⟨List.replicate 16 0, List.replicate 16 .zero, List.replicate 16 .zero, List.replicate 32 .zero⟩

/-- A record that HMASK selects. -/
def State.argHandle (s : State) (ctx arg : Nat) (hmask : BitVec 16) (i : Nat) : Except ArgErr (BitVec 128) :=
  if hmask.getLsbD i then
    (s.argBytes ctx (arg + 16 * i) 16).bind fun bs =>
      let r := BitVec.ofNat 128 (leNat bs)
      if recBad r then .error (.cause .recordBad) else .ok r
  else .ok 0

/-- The value and the tag byte of a declared register. -/
def State.argValue (s : State) (ctx arg val tag : Nat) (decl : Bool) : Except ArgErr TV :=
  if decl then
    (s.argBytes ctx (arg + val) 4).bind fun bs => (s.argBytes ctx (arg + tag) 1).bind fun t =>
      if 0x0E ≤ leNat t then .error (.cause .tagIllformed) else .ok ⟨BitVec.ofNat 32 (leNat bs), BitVec.ofNat 5 (leNat t)⟩
  else .ok .zero

def collect {α : Type} : List (Except ArgErr α) → Except ArgErr (List α)
  | [] => .ok []
  | .error e :: _ => .error e
  | .ok a :: r => (collect r).map (a :: ·)

/-- A b register that some stage declares. -/
def Kernel.bdeclared (k : Kernel) (i : Nat) : Bool := k.stages.any fun sc => sc.bdecl.getLsbD i

/-- The argument block: each byte range is read only when the field it serves is in use. -/
def State.readArgs (s : State) (ctx arg : Nat) (hmask : BitVec 16) (k : Kernel) : Except ArgErr Args :=
  if arg = 0 then .ok .zero
  else
    (collect ((List.range 16).map (s.argHandle ctx arg hmask))).bind fun h =>
    (collect ((List.range 16).map fun i => s.argValue ctx arg (256 + 4 * i) (512 + i) (k.gdecl.getLsbD i))).bind fun g =>
    (collect ((List.range 16).map fun i => s.argValue ctx arg (320 + 4 * i) (528 + i) (k.cdecl.getLsbD i))).bind fun c =>
    (collect ((List.range 32).map fun i => s.argValue ctx arg (384 + 4 * i) (544 + i) (k.bdeclared i))).map fun b =>
      ⟨h, g, c, b⟩

/-! ## The other checks (R286) -/

/-- Every `%blk` expression of a block fits its field; else the record that reports it (R77). -/
def Kernel.blockFix (k : Kernel) (blk : Nat) : Option (BitVec 128) :=
  k.stages.findSome? fun sc => sc.fix.findSome? fun f =>
    if (sc.ownField blk f.own f.count).isNone then some f.err else none

def firstFix (k : Kernel) (blk : Nat) : Nat → Option (BitVec 128)
  | 0 => none
  | n + 1 => (k.blockFix blk).or (firstFix k (blk + 1) n)

def Kernel.badFix (k : Kernel) (blocks : Nat) : Option (BitVec 128) :=
  if k.stages.all (·.fix.isEmpty) then none else firstFix k 0 blocks

/-- The clusters of a paddock: status 3 asks whether an empty one would hold an instance. One that has lost every
cluster keeps its instances pending (R395). -/
def State.holdsInstance (s : State) (pd : Paddock) (n : Need) (cn : Nat) : Bool :=
  let cs := (List.range Config.clusters).filter fun c => pd.owns c && s.healthy c
  if cs.isEmpty then n.fitsEmpty && decide (cn ≤ Config.coresPerCluster) else cs.any (s.emptyFits n cn)

/-- The discarded positions of a paddock, placed again as far as they fit: they come before every new instance (R309). -/
def State.placeDiscarded (s : State) (pd : Paddock) : State :=
  (s.c.positions.filter fun p => p.st == .discarded && s.padOfCtx p.ctx == pd.id).foldl (fun s p =>
    match s.ctxOf p.ctx, s.grid? p, (s.grid? p).bind s.kernel?, s.posOf p.id with
    | some c, some g, some k, some q => if q.st == .discarded && c.runs then s.replace k g c pd q else s
    | _, _, _, _ => s) s

/-- Instances placed at once on the clusters the paddock holds now, or on members of the drove; none where one does not fit. -/
def State.placeRest (s : State) (k : Kernel) (g : Grid) (c : Ctx) (pd : Paddock) : List Nat → Option State
  | [] => some s
  | lin :: rest =>
    let n := k.need g.nwarp
    let cn := g.cx * g.cy * g.cz
    match (s.clustersOf pd).find? fun x => (s.coresFor n cn x).isSome with
    | some x => (s.coresFor n cn x).bind fun cores => (s.putInstance k g c lin x cores).placeRest k g c pd rest
    | none => (s.placeAway g lin).bind fun s1 => s1.placeRest k g c pd rest

/-- Every instance of a grid placed at once. -/
def State.placeAll (s : State) (k : Kernel) (g : Grid) (c : Ctx) (pd : Paddock) (n : Nat) : Option State :=
  s.placeRest k g c pd (List.range n)

/-- Positions that all the cores together may ever hold: a block each, 32 to a core. -/
def mostPositions : Nat := Config.cores * Config.coreBlocks

/-! ## The drove (R293) -/

/-- An entry of the drove table: node and context; none where a reserved bit is set. -/
def droveEntry (w : Nat) : Option (Nat × Nat) :=
  if w / 2 ^ 32 = 0 then some (w % 2 ^ 20, w / 2 ^ 20 % 2 ^ 12) else none

/-- The members that the table names: entry 0 this package, the others linked directly. Whether they accept is not this
package's state. DESIGN CHOICE: log entry 89. -/
def State.droveMembers (s : State) (ctx : Nat) (r : BitVec 1024) : Except (Nat × Nat) (Option (List (Nat × Nat))) × State :=
  if lrDn r = 0 then (.ok (some [(s.node, ctx)]), s)
  else match s.argBytes ctx (lrDtab r) (8 * (lrDn r + 1)) with
    | .error (.page obj page) => (.error (obj, page), s)
    | .error (.cause _) => (.ok none, s)
    | .ok bs =>
      let es := (List.range (lrDn r + 1)).map fun i => droveEntry (leNat ((bs.drop (8 * i)).take 8))
      if es.all (·.isSome) then
        let ms := es.filterMap id
        if ms.head? == some (s.node, ctx) && ms.tail.all fun m => m.1 != s.node && s.linkedTo (s.padOfCtx ctx) m.1 then
          let (w, s1) := s.drawWord
          if w == 0 then (.ok none, s1) else (.ok (some ms), s1)
        else (.ok none, s)
      else (.ok none, s)

/-! ## Acceptance (R286, R287, R292) -/

/-- Grid ids that may be issued: neither live nor awaiting the sweep. -/
def State.freeGrid (s : State) (ctx : Nat) : Option Nat :=
  let swept := ((s.ctxOf ctx).map (·.swept)).getD []
  (List.range 4096).find? fun n => !swept.contains n && !((s.gridOf ctx n).any (·.live))

/-- The dies of the clusters a paddock may place on, in election order. -/
def State.diesFor (s : State) (pd : Paddock) : List Nat :=
  (List.range 4).filter fun d => !s.m.diesOut.contains d &&
    (List.range Config.clusters).any fun c => dieOf c == d && s.healthy c && (pd.owns c || s.borrowerOf c == some pd.id)

/-- A grid's record as it goes live. -/
def State.newGrid (s : State) (ctx id code kern : Nat) (pd : Paddock) (a : Args) (f : Frontier) : Grid :=
  let dies := s.diesFor pd
  { ctx := ctx, id := id, code := code, kern := kern, gx := 1, gy := 1, gz := 1, cx := 1, cy := 1, cz := 1,
    nwarp := List.replicate 8 1, hmask := 0xFFFF, hinit := a.h, binit := a.b, cinit := a.c, g := a.g, next := 0,
    bell := dies.headD 0, mirror := dies[1]?, retire := [], arrG := [], fronts := [], start := f, drove := [(s.node, ctx)], away := [], lost := [], far := none,
    draw := ((s.ctxOf ctx).map fun c => (c.regdraw.extractLsb' 0 15).toNat).getD 0, task := none, t0 := 0, t1 := 0, t2 := 0,
    live := true }

def State.addGrid (s : State) (g : Grid) : State :=
  s.modC fun c => { c with grids := c.grids.filter (fun x => !(x.ctx == g.ctx && x.id == g.id)) ++ [g] }

/-- The reply to a launch. DEDUCED: log entry 91. -/
def State.launchReply (s : State) (ctx status cause grid : Nat) : State :=
  s.modCtx ctx fun c => { c with lstat := status, lcause := cause, lgrid := grid }

/-- A launch that passed its checks: it takes a grid id, or waits for one. -/
def State.acceptLaunch (s : State) (ctx : Nat) (pd : Paddock) (k : Kernel) (r : BitVec 1024) (a : Args)
    (ms : List (Nat × Nat)) : State :=
  match s.freeGrid ctx, s.ctxOf ctx with
  | some id, some c =>
    let g : Grid :=
      { s.newGrid ctx id (lrEobj r) (lrEoff r) pd a [] with
        gx := lrGx r, gy := lrGy r, gz := lrGz r, cx := lrCx r, cy := lrCy r, cz := lrCz r,
        nwarp := (List.range 8).map (lrNwarp r), hmask := lrHmask r, drove := ms }
    let s1 := (s.addGrid g).launchReply ctx 0 0 id
    if k.cohab then
      match (s1.placeDiscarded pd).placeAll k g c pd (lrInsts r) with
      | some s2 => s2
      | none => s.launchReply ctx 4 0 0
    else s1
  | _, _ => s.modCtx ctx fun c => { c with waitL := c.waitL ++ [r] }

/-- A `.cohabit` grid that the paddock, with the other members of the drove, cannot hold at once. -/
def State.noCohabit (s : State) (ctx : Nat) (pd : Paddock) (k : Kernel) (r : BitVec 1024) (a : Args)
    (ms : List (Nat × Nat)) : Bool :=
  k.cohab && match s.ctxOf ctx with
    | some c =>
      let g : Grid :=
        { s.newGrid ctx 4096 (lrEobj r) (lrEoff r) pd a [] with
          gx := lrGx r, gy := lrGy r, gz := lrGz r, cx := lrCx r, cy := lrCy r, cz := lrCz r,
          nwarp := (List.range 8).map (lrNwarp r), drove := ms }
      decide (mostPositions * ms.length < lrInsts r * lrCn r)
        || (((s.addGrid g).placeDiscarded pd).placeAll k g c pd (lrInsts r)).isNone
    | none => true

/-- A launch, or a task start, waits for the page that its argument block or drove table lies on (R331); or it fails with that
status at once, as it does where no service is to be had. DESIGN CHOICE: log entry 163. -/
def State.awaitRead (s : State) (l : LateRead) (src obj page : Nat) (failed : State → State) : State :=
  match s.postFault l.ctx obj page false (s.byUnit src ⟨0, 0, 0⟩) with
  | (.fatal, s1) => failed s1
  | (.noId, s1) => s1.modT fun t => { t with reads := t.reads ++ [{ l with wait := .noId }] }
  | (.fid n, s1) => s1.modT fun t => { t with reads := t.reads ++ [{ l with wait := .fid n }] }

/-- A launch that fails on a page that is not served. -/
def State.launchFaults (s : State) (ctx status : Nat) : State :=
  s.launchReply ctx status (if status = 2 then Cause.pageFaultFatal.code.toNat else 0) 0

def State.awaitLaunch (s : State) (ctx : Nat) (r : BitVec 1024) (status obj page : Nat) : State :=
  s.awaitRead ⟨ctx, r, none, status, .noId⟩ 0 obj page fun s => s.launchFaults ctx status

/-- The checks of R286 from status 1 on, in order. DEDUCED: log entry 88. DESIGN CHOICE: log entry 89. -/
def State.checkLaunch (s : State) (ctx : Nat) (pd : Paddock) (r : BitVec 1024) : State :=
  match s.kernelAt ctx (lrEobj r) (lrEoff r) with
  | none => s.launchReply ctx 1 0 0
  | some k =>
    if launchBad (some k) r then s.launchReply ctx 1 0 0
    else match s.readArgs ctx (lrArg r) (lrHmask r) k with
      | .error (.cause e) => s.launchReply ctx 2 e.code.toNat 0
      | .error (.page obj page) => s.awaitLaunch ctx r 2 obj page
      | .ok a =>
        let (ms, s1) := s.droveMembers ctx r
        let all := match ms with
          | .ok (some ms) => ms
          | _ => [(s.node, ctx)]
        if !s.holdsInstance pd (k.need ((List.range 8).map (lrNwarp r))) (lrCn r) then s.launchReply ctx 3 0 0
        else if ms.isOk && s1.noCohabit ctx pd k r a all then s1.launchReply ctx 4 0 0
        else match k.badFix (lrInsts r * lrCn r), ms with
          | some e, _ => (s1.post ctx { src := 0, kind := 1, detail := e.toNat }).launchReply ctx 5 0 0
          | none, .error x => s1.awaitLaunch ctx r 6 x.1 x.2
          | none, .ok none => s1.launchReply ctx 6 0 0
          | none, .ok (some ms) => s1.acceptLaunch ctx pd k r a ms

/-- A launch is held (R255, R391). -/
def State.holdLaunch (s : State) (ctx : Nat) (r : BitVec 1024) : State :=
  (s.launchReply ctx 8 0 0).modCtx ctx fun c => { c with heldL := c.heldL ++ [r] }

/-- One launch of a context that is not Free. DEDUCED: log entry 88. -/
def State.launch (s : State) (ctx : Nat) (r : BitVec 1024) : State :=
  match s.ctxOf ctx, s.padOf (s.padOfCtx ctx) with
  | some c, some pd =>
    match c.st with
    | .free | .ending => s.launchReply ctx 7 0 0
    | .saving | .saved | .restoring => s.holdLaunch ctx r
    | .live => if pd.st == .live then s.checkLaunch ctx pd r else s.holdLaunch ctx r
  | some _, none => s.launchReply ctx 7 0 0
  | none, _ => s.modT fun t => { t with ctxs := t.ctxs ++ [{ Ctx.create ctx 0 .free with lstat := 7 }] }

/-- Held launches checked in the order in which they were written, once nothing holds them any more. -/
def State.serveHeld (s : State) (ctx : Nat) : State :=
  match s.ctxOf ctx, s.padOf (s.padOfCtx ctx) with
  | some c, some pd =>
    if c.st == .live && pd.st == .live then
      c.heldL.foldl (fun s r => s.launch ctx r) (s.modCtx ctx fun c => { c with heldL := [] })
    else s
  | _, _ => s

/-- The bytes that a read of a launch window returns (R286): the last launch at 0x080, the live bitmap at 0x100 to 0x2FF, and
zero elsewhere. -/
def State.launchByte (s : State) (ctx off : Nat) : Byte :=
  let c := s.ctxOf ctx
  let last (f : Ctx → Nat) : Nat := (c.map f).getD 0
  if !s.up then 0
  else if 0x080 ≤ off ∧ off < 0x088 then
    nthByte (last (·.lstat) + last (·.lcause) * 2 ^ 8 + last (·.lgrid) * 2 ^ 16) (off - 0x080)
  else if 0x100 ≤ off ∧ off < 0x300 then
    BitVec.ofNat 8 (((List.range 8).map fun i => if (s.gridOf ctx (8 * (off - 0x100) + i)).any (·.live) then 2 ^ i else 0).sum)
  else 0

/-- R284: a launch record written to the launch window. -/
def execLaunch (w : WinWrite) (r : BitVec 1024) (s : State) : Host.Outcome State Fault Refusal :=
  .next (s.onWindow (.launch w r) fun s => if s.up then s.launch w.no r else s)

/-- R287: the sweep of a grid's race records is done: its id may be issued again, and a launch that waits for one goes
on. -/
def execGridIdSweepDone (ctx : Nat) (grid : Nat) (s : State) : Host.Outcome State Fault Refusal :=
  .next <|
    match s.ctxOf ctx with
    | none => s
    | some c =>
      if !s.up || !c.swept.contains grid then s
      else
        let s1 := (s.modCtx ctx fun c =>
            { c with swept := c.swept.filter (· != grid), algOld := c.algOld.filter (·.grid != grid) }).modC fun x =>
          { x with sectors := x.sectors.filter fun y => !(y.ctx == ctx && y.grid == grid)
                   grids := x.grids.filter fun g => !(g.ctx == ctx && g.id == grid && !g.live) }
        -- every launch that waits tries again, in order; one that finds no id free waits again
        c.waitL.foldl (fun s r => s.launch ctx r) (s1.modCtx ctx fun c => { c with waitL := [] })

/-! ## The start of a task (R270, R288, R448) -/

/-- A record whose start fails does not start, and becomes Faulted. DEDUCED: log entry 90. -/
def State.failStart (s : State) (q : Nat) (x : QSlot) (c : Cause) : State := s.faultTask q x.idx c

/-- A task whose argument block lies on a page that faults stays Ready until the page is served (R331, R448). -/
def State.awaitStart (s : State) (ctx q : Nat) (x : QSlot) (obj page : Nat) : State :=
  if s.t.reads.any fun l => l.task == some (q, x.idx) then s
  else s.awaitRead ⟨ctx, 0, some (q, x.idx), 0, .noId⟩ 5 obj page fun s => s.failStart q x .pageFaultFatal

/-- A launch or a task start whose page is served goes on; one whose page is not fails (R333). A task start that goes on is tried
as it comes again. -/
def State.lateRead (s : State) (l : LateRead) : State :=
  match l.task, l.wait with
  | none, .again => s.launch l.ctx l.launch
  | none, .fatal => s.launchFaults l.ctx l.status
  | some (q, i), .fatal => match (s.liveQueue q).bind (·.slotAt i) with
    | some x => if x.state == tsReady then s.failStart q x .pageFaultFatal else s
    | none => s
  | _, _ => s

/-- The waits of launches and task starts that are over, after a step. -/
def State.lateReads (s : State) : State :=
  let ended (l : LateRead) : Bool := l.wait == .again || l.wait == .fatal
  (s.t.reads.filter ended).foldl State.lateRead (s.modT fun t => { t with reads := t.reads.filter fun l => !ended l })

/-- One task starts: a grid of one block, with its record's coordinates, acquiring what its record gathered. DEDUCED: log entry 90. -/
def State.startTask (s : State) (ctx : Nat) (c : Ctx) (pd : Paddock) (q : Nat) (x : QSlot) : State :=
  match s.kernelAt ctx (taskEobj x.word) (taskEoff x.word) with
  | none => s.failStart q x .objectInvalid
  | some k =>
    let n := k.need (List.replicate 8 1)
    match s.hostFor pd fun cl => (s.coresFor n 1 cl).isSome, s.freeGrid ctx with
    | some cl, some id =>
      match s.readArgs ctx (taskArg x.word) 0xFFFF k, k.blockFix 0, s.coresFor n 1 cl.1 with
      | .error (.cause e), _, _ => s.failStart q x e
      | .error (.page obj page), _, _ => s.awaitStart ctx q x obj page
      | .ok _, some e, _ => (s.post ctx { src := 0, kind := 1, detail := e.toNat }).failStart q x .taskBad
      | .ok a, none, some cores =>
        let g : Grid :=
          { s.newGrid ctx id (taskEobj x.word) (taskEoff x.word) pd a x.front with
            task := some (q, x.idx), t0 := taskT0 x.word, t1 := taskT1 x.word, t2 := taskT2 x.word }
        let s1 := (s.putSlot q { x with state := tsRunning }).addGrid g
        (s1.borrowCluster pd.id cl).putInstance k g c 0 cl.1 cores
      | .ok _, none, none => s
    | none, _ => s.reclaim pd n 1
    | _, none => s

/-- R270: the Drover starts the first Ready record of a context. A record whose code object is no longer installed holds
nothing back; one that cannot be placed yet holds back all that follow. -/
def execTaskStart (ctx : Nat) (s : State) : Host.Outcome State Fault Refusal :=
  .next <|
    match s.ctxOf ctx, s.padOf (s.padOfCtx ctx), s.readySlots ctx with
    | some c, some pd, (q, x) :: _ =>
      if s.up && c.st == .live && pd.st == .live && !s.someDiscarded pd.id then s.startTask ctx c pd q x else s
    | _, _, _ => s

end Sys2Proof.Machine
end

