-- ==== Sys2Proof/Machine/Command.lean ====
section
/-! DEFINITION. How the management processor serves commands (R423): one at a time, in arrival order, each with its
reply. -/

namespace Sys2Proof.Machine

/-- A reply: status, cause, result. -/
structure Reply where
  status : Nat := 0
  cause : Nat := 0
  result : Nat := 0
  deriving DecidableEq, Repr

def Reply.done : Reply := {}
def Reply.busy : Reply := { status := 1 }
def Reply.badCommand : Reply := { status := 2 }
def Reply.ctxState : Reply := { status := 3 }
def Reply.paddockBad : Reply := { status := 4 }
def Reply.paddockState : Reply := { status := 5 }
def Reply.resizeCohabit : Reply := { status := 6 }
def Reply.denied : Reply := { status := 7 }
def Reply.loadError (code : Nat) : Reply := { status := 8, cause := code }

/-- What serving a command answers: the state it leaves, and its reply. -/
abbrev Served := State × Reply

def linkNo (l : Bool) : Nat := if l then 1 else 0
def State.linkAt (s : State) (l : Bool) : Link := s.m.links.getD (linkNo l) .reset
def State.modLink (s : State) (l : Bool) (f : Link → Link) : State :=
  s.modM fun m => { m with links := m.links.mapIdx fun i x => if i = linkNo l then f x else x }

/-- A command starts to be served: its effect is made, and its reply waits for COMMAND_COMPLETE. DEDUCED: log entry 70. -/
def State.serveOn (s : State) (link : Bool) (serve : State → Served) : State :=
  let r := serve s
  r.1.modLink link fun l => { l with busy := some (r.2.status, r.2.cause, r.2.result) }

/-- A command in progress on a link, or waiting behind the other link's. -/
def State.linkBusy (s : State) (link : Bool) : Bool :=
  (s.linkAt link).busy.isSome || s.m.cmdq.any fun i => cmdLink i == some link

/-- R423: a command reaches the configuration window. DEDUCED: log entry 70. DEDUCED: log entry 72. -/
def State.command (s : State) (link : Bool) (i : Instr) (serve : State → Served) : State :=
  if s.m.boot == .booting || s.m.boot == .held then s
  else if s.linkYields link (.config link) then s.putOff i
  else if s.linkBusy link then s.modLink link fun l => { l with status := 1, cause := 0, result := 0 }
  else if s.linkBusy (!link) then s.modM fun m => { m with cmdq := m.cmdq ++ [i] }
  else s.serveOn link serve

/-- The reply of a load while the finaliser works: it names the context and the object (log entry 44). DEDUCED: log entry 71. -/
def Reply.waits (ctx obj : Nat) : Reply := { status := 1, cause := ctx, result := obj }

/-- In recovery every command but a load is denied (R428); a reserved bit makes a command bad (R423). -/
def checked (h : CmdHead) (serve : State → Served) (s : State) : Served :=
  if s.m.boot == .recovery then (s, .denied)
  else if h.rsv != 0 then (s, .badCommand)
  else serve s

/-- The context of a command, which must not be Free (R255). -/
def onContext (h : CmdHead) (serve : Ctx → Served) (s : State) : Served :=
  match s.ctxOf h.ctx.toNat with
  | some c => if c.st == .free then (s, .ctxState) else serve c
  | none => (s, .ctxState)

/-- Whether an object id is taken: valid, being loaded, or withheld. -/
def State.idTaken (s : State) (c : Ctx) (n : Nat) : Bool :=
  c.objs.any (·.id == n) || (s.t.codes.any fun x => x.ctx == c.id && x.id == n) || c.gone.any (·.1 == n)

/-- The lowest id from 1 on that is free in the context (R325). -/
def State.freeObj (s : State) (c : Ctx) : Option Nat :=
  let most := c.objs.length + s.t.codes.length + c.gone.length
  ((List.range (most + 1)).map (· + 1)).find? fun n => decide (n < 2 ^ 24) && !s.idTaken c n

/-- The units carved from a paddock's DRAM: its fold, and a pen object of 512 MiB for each pen (R388). -/
def Paddock.carveUnits (p : Paddock) : Nat := p.fold * 2 ^ 14 + ((List.range 4).filter p.pens.getLsbD).length * 2 ^ 13

/-- The 64 KiB units that the extents of every context, the folds and the pen objects occupy, and those of retired channels: first unit and how many. -/
def State.unitsUsed (s : State) : List (Nat × Nat) :=
  (s.t.ctxs.flatMap fun c => c.objs.flatMap fun o => o.ext.map fun e => (e.pa, e.npg * (pageBytes e.psz / 2 ^ 16)))
    ++ (s.m.paddocks.map fun p => (p.carve, p.carveUnits)) ++ s.m.chansOut.map (·.2)

/-- The lowest units of device memory that no extent occupies: where the management processor puts an object that it
makes itself (log entry 42). -/
def State.freeUnits (s : State) (n : Nat) : Nat :=
  let used := s.unitsUsed
  let ok (a : Nat) := used.all fun u => decide (a + n ≤ u.1) || decide (u.1 + u.2 ≤ a)
  let cands := sortBy (fun a b => decide (a ≤ b)) (0 :: used.map fun u => u.1 + u.2)
  (cands.find? ok).getD 0

/-- An object that holds the given bytes, made by the management processor. DESIGN CHOICE: log entry 42. -/
def State.makeObject (s : State) (ctx id : Nat) (exo wr : Bool) (bs : List Byte) : State :=
  let n := (bs.length + 2 ^ 16 - 1) / 2 ^ 16
  let pa := s.freeUnits n
  let o : Obj := { id := id, paged := false, wr := wr, exo := exo, gen := 0, ext := [⟨0, true, true, 0, n, pa⟩],
                   size := bs.length }
  ((s.modCtx ctx fun c => { c with objs := c.objs ++ [o] }).devWrite (pa * 2 ^ 16) bs).stampKey (s.padOfCtx ctx)
    (pa * 2 ^ 16) bs.length

end Sys2Proof.Machine
end

