-- ==== Sys2Proof/Machine/Context.lean ====
section
/-! DEFINITION. The life cycle of contexts (R254 to R257), the placement of what waits (R289, R309), the registers that
the host writes (R423), and the pre-emption of one position (R309). -/

namespace Sys2Proof.Machine

/-! ## Create and destroy (R255) -/

/-- A context takes the place of its Free record. -/
def State.putCtx (s : State) (c : Ctx) : State := s.modT fun t => { t with ctxs := put (·.id == c.id) c t.ctxs }

/-- OP 0x01: a Free context becomes Live, bound to a paddock that is present and not Ending. DEDUCED: log entry 93. -/
def serveCreateContext (h : CmdHead) (s : State) : Served :=
  checked h (fun s =>
    let id := h.ctx.toNat
    if (s.ctxOf id).any (·.st != .free) then (s, .ctxState)
    else match s.padOf h.pad.toNat with
      | none => (s, .paddockState)
      | some pd =>
        if pd.st == .ending then (s, .paddockState)
        else
          -- grid ids whose records are not swept yet stay withheld (R287)
          let swept := ((s.ctxOf id).map (·.swept)).getD []
          -- and a signal bit that the host has not read stays set (R423)
          (s.putCtx { Ctx.create id pd.id .live with swept := swept, signal := (s.ctxOf id).any (·.signal) }, { result := id })) s

def execCreateContext (h : CmdHead) (s : State) : Host.Outcome State Fault Refusal :=
  .next (s.command h.link (.createContext h) (serveCreateContext h))

/-- A context that ends: launches it holds back are answered with CTX_STATE; it is Free once its grids have ended and its
objects are removed. -/
def State.endCtx (s : State) (ctx : Nat) : State :=
  let back := (s.ctxOf ctx).any (fun c => !c.heldL.isEmpty || !c.waitL.isEmpty)
    || s.t.reads.any fun l => l.ctx == ctx && l.task.isNone
  let s1 := s.modT fun t => { t with reads := t.reads.filter (·.ctx != ctx) }
  ((if back then s1.launchReply ctx 7 0 0 else s1).modCtx ctx fun c =>
    { c with st := .ending, heldL := [], waitL := [], wantSave := false, wantRestore := false, wantEnd := false,
             drain := none }).retireCtx ctx

/-- Destroy: at once, or once the save or restore under way has ended. DEDUCED: log entry 93. -/
def State.destroyCtx (s : State) (ctx : Nat) : State :=
  match s.ctxOf ctx with
  | none => s
  | some c => match c.st with
    | .live | .saved => s.endCtx ctx
    | .saving | .restoring => s.modCtx ctx fun c => { c with wantEnd := true }
    | .free | .ending => s

/-- OP 0x02. -/
def serveDestroyContext (h : CmdHead) (s : State) : Served :=
  checked h (fun s => onContext h (fun c => (s.destroyCtx c.id, .done)) s) s

def execDestroyContext (h : CmdHead) (s : State) : Host.Outcome State Fault Refusal :=
  .next (s.command h.link (.destroyContext h) (serveDestroyContext h))

/-! ## Save and restore (R256, R257) -/

/-- The positions of a context on cores. -/
def State.placedOf (s : State) (ctx : Nat) : List Position :=
  s.c.positions.filter fun p => p.ctx == ctx && (p.st == .resident || p.st == .stopping)

/-- A save begins: its positions stop at the next clause boundary, and the drain runs. DEDUCED: log entry 92. -/
def State.beginSave (s : State) (ctx : Nat) : State :=
  (s.placedOf ctx).foldl (fun s p => s.modPos p.id fun p => { p with st := .stopping })
    (s.modCtx ctx fun c => { c with st := .saving, drain := some (s.now + drainTime), wantSave := false })

/-- OP 0x03. -/
def serveSaveContext (h : CmdHead) (s : State) : Served :=
  checked h (fun s => onContext h (fun c => match c.st with
    | .live => (s.beginSave c.id, .done)
    | .restoring => (s.modCtx c.id fun c => { c with wantSave := true }, .done)
    | .saving | .saved => (s, .done)
    | .free | .ending => (s, .ctxState)) s) s

def execSaveContext (h : CmdHead) (s : State) : Host.Outcome State Fault Refusal :=
  .next (s.command h.link (.saveContext h) (serveSaveContext h))

/-- A restored context is Live again; what waited for that is served (R255): the launches held, a destroy, a save. -/
def State.restored (s : State) (ctx : Nat) : State :=
  let s1 := (s.modCtx ctx fun c => { c with st := .live }).post ctx { src := 58, kind := 9 }
  match s1.ctxOf ctx with
  | none => s1
  | some c =>
    let s2 := s1.serveHeld ctx
    if c.wantEnd then s2.endCtx ctx
    else if c.wantSave then s2.beginSave ctx else s2

/-- Saved blocks of a context that are not placed yet. -/
def State.awaitsPlacing (s : State) (ctx : Nat) : Bool := s.c.positions.any fun p => p.ctx == ctx && p.waits

/-- Contexts that are restored once none of their saved blocks waits, be it that they are placed or that their grid has ended
(R255), after a step. -/
def State.restores (s : State) : State :=
  ((s.t.ctxs.filter fun c => c.st == .restoring && !s.awaitsPlacing c.id).map (·.id)).foldl State.restored s

/-- A restore begins; with no saved block it is done at once. -/
def State.beginRestore (s : State) (ctx : Nat) : State :=
  let s1 := s.modCtx ctx fun c => { c with st := .restoring, wantRestore := false }
  if s1.awaitsPlacing ctx then s1 else s1.restored ctx

/-- OP 0x04. -/
def serveRestoreContext (h : CmdHead) (s : State) : Served :=
  checked h (fun s => onContext h (fun c => match c.st with
    | .saved => (s.beginRestore c.id, .done)
    | .saving => (s.modCtx c.id fun c => { c with wantRestore := true }, .done)
    | .live | .restoring => (s, .done)
    | .free | .ending => (s, .ctxState)) s) s

def execRestoreContext (h : CmdHead) (s : State) : Host.Outcome State Fault Refusal :=
  .next (s.command h.link (.restoreContext h) (serveRestoreContext h))

/-- A thread of the position is in a clause: it issues until the next clause boundary. -/
def State.midClause (s : State) (p : Position) : Bool :=
  (s.c.cores.any fun c => c.slots.any fun x => x.any fun y => y.arms.any (·.wk.pos == p.id)) ||
    p.blocks.any fun b => b.warps.any fun w => w.threads.any fun t => t.st == .ready && t.mid

/-- A lane of the position waits in the operand log. -/
def State.logged (s : State) (p : Position) : Bool := s.c.cores.any fun c => c.log.any (·.wk.pos == p.id)

/-- No engine operation of the position and no fill of its registers is outstanding. -/
def State.quiet (s : State) (p : Position) : Bool :=
  !(s.c.ops.any (·.pos == p.id)) && !(s.c.cores.any fun c => c.fills.any (·.wk.pos == p.id) || c.hfills.any (·.wk.pos == p.id))
    && p.wins.all fun w => w.all (·.want.isEmpty)

/-- What of a thread is never saved: its bypass, and what freed registers held (R254). -/
def Thread.kept (t : Thread) : Thread :=
  { t with byp := [], regs := t.regs.map fun r => if r.st == .freed then ⟨.freed, .zero⟩ else r }

def Position.kept (p : Position) : Position :=
  { p with blocks := p.blocks.map fun b =>
      { b with warps := b.warps.map fun w => { w with threads := w.threads.map (·.kept) } } }

/-- A position is held: its accesses are performed, and it leaves its core in full. -/
def State.hold (s : State) (p : Position) : State :=
  let s1 := (s.performReds fun e => e.wk.pos == p.id).modC fun c => (c.raise (fun e => e.wk.pos == p.id) 4).retire
  (s1.modC fun c => { c with cores := c.cores.map fun (k : CoreSt) => k.dropPos p.id }).modPos p.id fun p =>
    { p.kept with st := .held }

/-- The save area is written: the context is Saved, and a destroy or a restore that waited is served. DEDUCED: log entry 92. -/
def State.endSave (s : State) (ctx : Nat) : State :=
  let s1 := (s.modCtx ctx fun c => { c with st := .saved, drain := none }).post ctx { src := 58, kind := 8 }
  match s1.ctxOf ctx with
  | none => s1
  | some c => if c.wantEnd then s1.endCtx ctx else if c.wantRestore then s1.beginRestore ctx else s1

/-- A position of a context that is being saved: discarded at once when a lane of it waits in the operand log, and held once it
stands between clauses with nothing outstanding (R256, R295). DEDUCED: log entry 92. -/
def State.savePos (s : State) (p : Position) : State :=
  if s.logged p then s.discard p.id
  else if s.quiet p && !s.midClause p then s.hold p
  else s

/-- The saves under way, after a step. -/
def State.saves (s : State) : State :=
  ((s.t.ctxs.filter (·.st == .saving)).flatMap fun c => s.placedOf c.id).foldl (fun s p => s.savePos p) s

/-- R256: the drain of a save ends: positions still there at 200 µs are discarded, and the save area is written. -/
def execSaveDrainExpiry (ctx : Nat) (s : State) : Host.Outcome State Fault Refusal :=
  .next <|
    match (s.ctxOf ctx).bind (·.drain) with
    | none => s
    | some t =>
      let s1 := s.saves
      let ps := s1.placedOf ctx
      (ps.foldl (fun s p => s.discard p.id) (if ps.isEmpty then s1 else s1.at t)).endSave ctx

/-! ## Placement (R289) -/

/-- R289: the Bellwether of a grid places what comes next: a saved instance, a discarded position, a new instance.
Nothing is placed while the paddock is Stopping or Stopped (R391). DESIGN CHOICE: log entry 87. -/
def execInstancePlacement (ctx : Nat) (grid : Nat) (s : State) : Host.Outcome State Fault Refusal :=
  .next <|
    match s.ctxOf ctx, s.gridOf ctx grid, s.padOf (s.padOfCtx ctx) with
    | some c, some g, some pd =>
      if !g.live || pd.st == .stopping || pd.st == .stopped then s
      else match s.kernel? g with
        | none => s
        | some k =>
          let ps := sortBy (fun (a b : Position) => decide (a.inst < b.inst || (a.inst == b.inst && a.loc ≤ b.loc)))
            (s.c.positions.filter fun p => p.ctx == ctx && p.grid == grid && p.waits)
          match ps with
          | p :: _ =>
            if c.st == .restoring then s.restoreInstance k g c pd p.inst
            else if !c.runs then s
            else if p.st == .held then s.restoreInstance k g c pd p.inst
            else s.replace k g c pd p
          | [] => if !c.runs || s.someDiscarded pd.id then s else s.placeNext k g c pd
    | _, _, _ => s

/-! ## Context registers (R423) -/

/-- A write of RIX that would make the ring hold more than its size leaves it (R332). -/
def Ctx.putFltr (c : Ctx) (v : Nat) : Ctx := if 2 ^ c.fltLogn < (c.fltw + 2 ^ 17 - v) % 2 ^ 17 then c else { c with fltr := v }

/-- The registers that the host may write; reserved fields are ignored (R6). -/
def Ctx.hostReg (c : Ctx) (n : Nat) (v : Dword) : Option Ctx :=
  match n with
  | 0x022 => some { c with penlim := v.setWidth 32 &&& ctxMask 0x022 }
  | 0x030 => some { c with evcfg := v.setWidth 32 &&& ctxMask 0x030 }
  | 0x034 => some { c with fltcfg := v &&& 0x0000001F1FFFFFFF }
  | 0x036 => some (c.putFltr (v.toNat % 2 ^ 17))
  | 0x020 | 0x021 | 0x023 | 0x024 | 0x025 | 0x026 | 0x027 | 0x032 => some (c.putReg n (v.setWidth 32))
  | _ => none

/-- OP 0x05. -/
def serveWriteContextRegister (h : CmdHead) (n : BitVec 12) (v : Dword) (s : State) : Served :=
  checked h (fun s => onContext h (fun c =>
    match c.hostReg n.toNat v with
    | none => (s, .badCommand)
    | some c1 => ((s.modCtx c.id fun _ => c1).flushWaiting c.id, .done)) s) s

def execWriteContextRegister (h : CmdHead) (n : BitVec 12) (v : Dword) (s : State) : Host.Outcome State Fault Refusal :=
  .next (s.command h.link (.writeContextRegister h n v) (serveWriteContextRegister h n v))

/-! ## Pre-emption of one position (R309) -/

/-- OP 0x40: the position that holds a block, named by grid id and block linear id. -/
def servePreEmptPosition (h : CmdHead) (grid : Nat) (blk : Nat) (s : State) : Served :=
  checked h (fun s => onContext h (fun c =>
    match s.gridOf c.id grid with
    | none => (s, .denied)
    | some g =>
      let cn := g.cx * g.cy * g.cz
      if !g.live || g.gx * g.gy * g.gz * cn ≤ blk then (s, .denied)
      else match s.c.positions.find? fun p => p.ctx == c.id && p.grid == grid && p.inst * cn + p.loc == blk with
        | some p => (s.discard p.id, .done)
        | none => (s, .done)) s) s

def execPreEmptPosition (h : CmdHead) (grid : Nat) (blk : Nat) (s : State) : Host.Outcome State Fault Refusal :=
  .next (s.command h.link (.preEmptPosition h grid blk) (servePreEmptPosition h grid blk))

/-! ## Resolving a fault (R333) -/

/-- OP 0x18. -/
def serveResolveFault (h : CmdHead) (fid : Nat) (fatal : Bool) (s : State) : Served :=
  checked h (fun s => onContext h (fun c =>
    match s.faultOf c.id fid with
    | none => (s, .denied)
    | some f => (s.resolve c.id f fatal, .done)) s) s

def execResolveFault (h : CmdHead) (fid : Nat) (fatal : Bool) (s : State) : Host.Outcome State Fault Refusal :=
  .next (s.command h.link (.resolveFault h fid fatal) (serveResolveFault h fid fatal))

end Sys2Proof.Machine
end

