-- ==== Sys2Proof/Machine/Cross.lean ====
section
/-! DEFINITION. The cross-lane instructions (R171 to R176) and the upward writes (R135, R136). -/

namespace Sys2Proof.Machine

/-- A cross-lane instruction with a lane register or a predicate for its destination may be issued by the lanes of an arm in
several packets (R171). Any other one waits for every lane of the arm. DEDUCED: log entry 26. -/
def spanOf (d : Dst) (i : Instr) (srcs : List Src) : Option (Instr × List Src) :=
  match d.spec with
  | .v _ | .p _ => some (i, srcs)
  | _ => none

/-- R172: values exchanged between lanes -/
def execShfl (mode : ShflMode) (seg : Seg) (g : Guard) (d : Dst) (a : Src) (b : Src) (c : Src) (s : State) : Host.Outcome State Fault Refusal :=
  .next (s.runArms { g := g, dsts := [d.spec], whole := true, span := spanOf d (.shfl mode seg g d a b c) [a, b, c] } (pureArm (armShfl mode seg d a b c)))

/-- R173: votes -/
def execVote (mode : VoteMode) (seg : Seg) (g : Guard) (d : Dst) (a : Src) (s : State) : Host.Outcome State Fault Refusal :=
  .next (s.runArms { g := g, dsts := [d.spec], whole := true, span := spanOf d (.vote mode seg g d a) [a] } (pureArm (armVote mode seg d a)))

/-- R173: the mask of a quarter -/
def execBallot (q : BitVec 2) (g : Guard) (d : Dst) (a : Src) (s : State) : Host.Outcome State Fault Refusal :=
  .next (s.runArms { g := g, dsts := [d.spec], whole := true, span := spanOf d (.ballot q g d a) [a] } (pureArm (armBallot q d a)))

/-- R174: reduction to every lane -/
def execLred (op : RedOp) (f : RedFmt) (g : Guard) (d : Dst) (a : Src) (s : State) : Host.Outcome State Fault Refusal :=
  .next (s.runArms { g := g, dsts := [d.spec], whole := true, span := spanOf d (.lred op f g d a) [a] } (pureArm (armLred op f d a)))

/-- R175: prefix scan -/
def execScan (op : ScanOp) (f : RedFmt) (g : Guard) (d : Dst) (a : Src) (s : State) : Host.Outcome State Fault Refusal :=
  .next (s.runArms { g := g, dsts := [d.spec], whole := true, span := spanOf d (.scan op f g d a) [a] } (pureArm (armScan op f d a)))

/-- R173: lanes of equal value -/
def execMatchq (q : BitVec 2) (g : Guard) (d : Dst) (a : Src) (s : State) : Host.Outcome State Fault Refusal :=
  .next (s.runArms { g := g, dsts := [d.spec], whole := true, span := spanOf d (.matchq q g d a) [a] } (pureArm (armMatch q d a)))

/-- R176: one lane elected -/
def execElect (hi : Bool) (seg : Seg) (g : Guard) (d : Dst) (s : State) : Host.Outcome State Fault Refusal :=
  .next (s.runArms { g := g, dsts := [d.spec], whole := true, span := spanOf d (.elect hi seg g d) [] } (pureArm (armElect hi seg d)))

/-- R135: upward write of an agreed value -/
def execSup (f : Fmt) (g : Guard) (d : Dst) (a : Src) (s : State) : Host.Outcome State Fault Refusal :=
  .next (s.runArms { g := g, dsts := [d.spec], whole := true } (pureArm (armSup f d a)))

/-- R136: upward write of a reduction -/
def execSred (op : RedOp) (f : RedFmt) (g : Guard) (d : Dst) (a : Src) (s : State) : Host.Outcome State Fault Refusal :=
  .next (s.runArms { g := g, dsts := [d.spec], whole := true } (pureArm (armSred op f d a)))

/-! ## The end of an instruction that several packets issue (R171) -/

/-- What a cross-lane instruction does in an arm, and its destination. -/
def crossFn (i : Instr) : Option (Dst × (List RCtx → ArmRes)) :=
  match i with
  | .shfl mode seg _ d a b c => some (d, armShfl mode seg d a b c)
  | .vote mode seg _ d a => some (d, armVote mode seg d a)
  | .ballot q _ d a => some (d, armBallot q d a)
  | .lred op f _ d a => some (d, armLred op f d a)
  | .scan op f _ d a => some (d, armScan op f d a)
  | .matchq q _ d a => some (d, armMatch q d a)
  | .elect hi seg _ d => some (d, armElect hi seg d)
  | _ => none

/-- A lane as it stood when it issued the instruction: its thread, and the scope registers and batons it read. -/
def RCtx.asIssued (c : RCtx) (arm : Nat) (x : Nat × Thread × List (Spec × TV)) : RCtx :=
  let view := x.2.2.map fun v => (⟨v.1, match v.1 with
    | .x _ => subgroup x.1
    | _ => 0, v.2⟩ : ViewEnt)
  let z := x.2.2.foldl (fun l v => match v.1 with
    | .z i => l.set i.toNat (some v.2)
    | _ => l) c.warp.z
  { c with lane := x.1, arm := arm, thread := some x.2.1
           warp := { c.warp with arms := [⟨arm, none, [x.1], none, view, false, 0, []⟩], recs := [], view := view, z := z } }

/-- The result of the instruction in a lane that had issued it: its register fills, or its predicate changes. -/
def Thread.crossed (t : Thread) (d : Dst) (o : LaneOut) : Thread :=
  match d.spec, o.writes with
  | .v i, w :: _ => t.land i.toNat w.2
  | .v i, [] => t.unempty i.toNat
  | .p i, w :: _ => t.putPred i.toNat (w.2.val != 0)
  | _, _ => t

/-- Every thread of the arms that issued it has done so. -/
def Warp.allPassed (w : Warp) (e : Early) : Bool :=
  (w.arms.filter fun a => w.leaf a.tag && a.lanes.any e.passed.contains).all fun a =>
    a.lanes.all fun l => !w.going l || e.passed.contains l

/-- The instruction completes in every lane that was present. -/
def State.finishEarly (s : State) (core : Nat) (wk : WKey) (e : Early) : State :=
  let s1 := s.modWarp wk fun w => { w with early := w.early.filter (· != e) }
  match s.scene wk, crossFn e.word with
  | some c, some (d, f) =>
    match f ((sortBy (fun x y => decide (x.1 ≤ y.1)) e.present).map (c.asIssued e.arm)) with
    | .done o =>
      let outs := o.lanes.filterMap fun x => match x.2 with
        | .out y => some (x.1, y)
        | _ => none
      outs.foldl (fun s x => (s.modLanes wk [x.1] (·.crossed d x.2)).resume core wk (· == .stalled none) (· == x.1))
        (s1.raiseIn wk (armFlags o))
    | _ => s1
  | _, _ => s1

/-- Instructions under way that every lane has issued complete. -/
def State.finishEarlies (s : State) : State :=
  s.c.positions.foldl (fun s p => p.blocks.foldl (fun s b => b.warps.foldl (fun s w =>
    (w.early.filter w.allPassed).foldl (fun s e => s.finishEarly p.core ⟨p.id, b.stage, w.idx⟩ e) s) s) s) s

end Sys2Proof.Machine
end

