-- ==== Sys2Proof/Machine/Float.lean ====
section
/-! DEFINITION. The floating-point, conversion, element and tag instructions (R161 to R170), and the pair word (R64 to R67). -/

namespace Sys2Proof.Machine

/-- R161: floating addition -/
def execFadd (f16 : Bool) (ftz : Bool) (r : Rnd) (g : Guard) (d : Dst) (a : Src) (b : Src) (c : Src) (s : State) : Host.Outcome State Fault Refusal :=
  .next (s.runArms { g := g, dsts := [d.spec] } (pureArm (laneWise (laneFadd f16 ftz r d a b c))))

/-- R161: floating subtraction -/
def execFsub (f16 : Bool) (ftz : Bool) (r : Rnd) (g : Guard) (d : Dst) (a : Src) (b : Src) (c : Src) (s : State) : Host.Outcome State Fault Refusal :=
  .next (s.runArms { g := g, dsts := [d.spec] } (pureArm (laneWise (laneFsub f16 ftz r d a b c))))

/-- R161: floating product -/
def execFmul (f16 : Bool) (ftz : Bool) (r : Rnd) (g : Guard) (d : Dst) (a : Src) (b : Src) (c : Src) (s : State) : Host.Outcome State Fault Refusal :=
  .next (s.runArms { g := g, dsts := [d.spec] } (pureArm (laneWise (laneFmul f16 ftz r d a b c))))

/-- R161: fused product and addition -/
def execFfma (f16 : Bool) (ftz : Bool) (r : Rnd) (g : Guard) (d : Dst) (a : Src) (b : Src) (c : Src) (s : State) : Host.Outcome State Fault Refusal :=
  .next (s.runArms { g := g, dsts := [d.spec] } (pureArm (laneWise (laneFfma f16 ftz r d a b c))))

/-- R161: minimum -/
def execFmin (f16 : Bool) (ftz : Bool) (prop : Bool) (g : Guard) (d : Dst) (a : Src) (b : Src) (s : State) : Host.Outcome State Fault Refusal :=
  .next (s.runArms { g := g, dsts := [d.spec] } (pureArm (laneWise (laneFminmax false f16 ftz prop d a b))))

/-- R161: maximum -/
def execFmax (f16 : Bool) (ftz : Bool) (prop : Bool) (g : Guard) (d : Dst) (a : Src) (b : Src) (s : State) : Host.Outcome State Fault Refusal :=
  .next (s.runArms { g := g, dsts := [d.spec] } (pureArm (laneWise (laneFminmax true f16 ftz prop d a b))))

/-- R163: floating comparison -/
def execFcmp (cc : FCmp) (ftz : Bool) (g : Guard) (d : Dst) (a : Src) (b : Src) (s : State) : Host.Outcome State Fault Refusal :=
  .next (s.runArms { g := g, dsts := [d.spec] } (pureArm (laneWise (laneFcmp cc ftz d a b))))

/-- R164: class of a number -/
def execFclass (sf : SrcFmt) (e1 : Bool) (g : Guard) (d : Dst) (a : Src) (s : State) : Host.Outcome State Fault Refusal :=
  .next (s.runArms { g := g, dsts := [d.spec] } (pureArm (laneWise (laneFclass sf e1 d a))))

/-- R162: reciprocal -/
def execFrcp (f16 : Bool) (ftz : Bool) (r : Rnd) (g : Guard) (d : Dst) (a : Src) (s : State) : Host.Outcome State Fault Refusal :=
  .next (s.runArms { g := g, dsts := [d.spec] } (pureArm (laneWise (laneFn .rcp f16 ftz r d a))))

/-- R162: reciprocal square root -/
def execFrsq (f16 : Bool) (ftz : Bool) (r : Rnd) (g : Guard) (d : Dst) (a : Src) (s : State) : Host.Outcome State Fault Refusal :=
  .next (s.runArms { g := g, dsts := [d.spec] } (pureArm (laneWise (laneFn .rsq f16 ftz r d a))))

/-- R162: square root -/
def execFsqrt (f16 : Bool) (ftz : Bool) (r : Rnd) (g : Guard) (d : Dst) (a : Src) (s : State) : Host.Outcome State Fault Refusal :=
  .next (s.runArms { g := g, dsts := [d.spec] } (pureArm (laneWise (laneFn .sqrt f16 ftz r d a))))

/-- R162: power of two -/
def execFex2 (f16 : Bool) (ftz : Bool) (r : Rnd) (g : Guard) (d : Dst) (a : Src) (s : State) : Host.Outcome State Fault Refusal :=
  .next (s.runArms { g := g, dsts := [d.spec] } (pureArm (laneWise (laneFn .ex2 f16 ftz r d a))))

/-- R162: logarithm to base two -/
def execFlg2 (f16 : Bool) (ftz : Bool) (r : Rnd) (g : Guard) (d : Dst) (a : Src) (s : State) : Host.Outcome State Fault Refusal :=
  .next (s.runArms { g := g, dsts := [d.spec] } (pureArm (laneWise (laneFn .lg2 f16 ftz r d a))))

/-- R162: sine -/
def execFsin (f16 : Bool) (ftz : Bool) (r : Rnd) (g : Guard) (d : Dst) (a : Src) (s : State) : Host.Outcome State Fault Refusal :=
  .next (s.runArms { g := g, dsts := [d.spec] } (pureArm (laneWise (laneFn .sin f16 ftz r d a))))

/-- R162: cosine -/
def execFcos (f16 : Bool) (ftz : Bool) (r : Rnd) (g : Guard) (d : Dst) (a : Src) (s : State) : Host.Outcome State Fault Refusal :=
  .next (s.runArms { g := g, dsts := [d.spec] } (pureArm (laneWise (laneFn .cos f16 ftz r d a))))

/-- R162: hyperbolic tangent -/
def execFtanh (f16 : Bool) (ftz : Bool) (r : Rnd) (g : Guard) (d : Dst) (a : Src) (s : State) : Host.Outcome State Fault Refusal :=
  .next (s.runArms { g := g, dsts := [d.spec] } (pureArm (laneWise (laneFn .tanh f16 ftz r d a))))

/-- R162: rounding to an integral value -/
def execFrnd (f16 : Bool) (ftz : Bool) (r : Rnd) (g : Guard) (d : Dst) (a : Src) (s : State) : Host.Outcome State Fault Refusal :=
  .next (s.runArms { g := g, dsts := [d.spec] } (pureArm (laneWise (laneFrnd f16 ftz r d a))))

/-- R166: conversion -/
def execCvt (f : Fmt) (elem : BitVec 3) (r : Rnd) (g : Guard) (d : Dst) (a : Src) (c : Src) (s : State) : Host.Outcome State Fault Refusal :=
  .next (s.runArms { g := g, dsts := [d.spec] } (pureArm (laneWise (laneCvt f elem r d a c))))

/-- R167: quantisation -/
def execQnt (f : Fmt) (rs : Bool) (g : Guard) (d : Dst) (a : Src) (b : Src) (c : Src) (s : State) : Host.Outcome State Fault Refusal :=
  .next (s.runArms { g := g, dsts := [d.spec] } (pureArm (laneWise (laneQnt f rs d a b c))))

/-- R168: de-quantisation -/
def execDqt (f : Fmt) (g : Guard) (d : Dst) (a : Src) (b : Src) (c : Src) (s : State) : Host.Outcome State Fault Refusal :=
  .next (s.runArms { g := g, dsts := [d.spec] } (pureArm (laneWise (laneDqt f d a b c))))

/-- R169: element insert -/
def execPack (g : Guard) (d : Dst) (a : Src) (b : Src) (c : Src) (s : State) : Host.Outcome State Fault Refusal :=
  .next (s.runArms { g := g, dsts := [d.spec] } (pureArm (laneWise (lanePack d a b c))))

/-- R169: element extract -/
def execUnpk (wide : Bool) (g : Guard) (d : Dst) (a : Src) (b : Src) (s : State) : Host.Outcome State Fault Refusal :=
  .next (s.runArms { g := g, dsts := [d.spec] } (pureArm (laneWise (laneUnpk wide d a b))))

/-- R170: tag write -/
def execTagw (f : TagwFmt) (g : Guard) (d : Dst) (a : Src) (b : Src) (s : State) : Host.Outcome State Fault Refusal :=
  .next (s.runArms { g := g, dsts := [d.spec] } (pureArm (laneWise (laneTagw f d a b))))

/-- R64, R67: two compact operations at once -/
def execPair (gp : BitVec 3) (ha : Half) (hb : Half) (s : State) : Host.Outcome State Fault Refusal :=
  .next (s.runArms { g := ⟨gp, false⟩, dsts := [.v ha.dst, .v hb.dst] } (pureArm (laneWise (lanePair ha hb))))

end Sys2Proof.Machine
end

