-- ==== Sys2Proof/Machine/Uses.lean ====
section
/-! DEFINITION. The registers that each instruction names, for the declaration checks of R79 and the paths of R80. -/

namespace Sys2Proof.Machine

/-- The guard, the registers read and those written, each with how many it names in a run. -/
structure Uses where
  guard : Guard
  reads : List (Spec × Nat)
  writes : List (Spec × Nat)
  deriving DecidableEq, Repr

/-- Components of an element of a predefined algebra slot; a loaded slot's is not known at load (R203). -/
def algWidth (n : BitVec 4) : Nat := ((algPredefined[n.toNat]?).map algK).getD 1

def srcIUses : SrcI → List (Spec × Nat)
  | .src s => [(s.spec, 1)]
  | .imm _ => []

def ldhUses : LdhSrc → List (Spec × Nat)
  | .quad q => [(q.spec, 4)]
  | .mem _ i o => [(i.spec, 1), (o.spec, 1)]

def postUses : PostSrc → List (Spec × Nat)
  | .reg a => [(a.spec, 1)]
  | .mem _ => []

def halfSrcUses (s : HalfSrc) : Spec × Nat := (if s.warp then .w (s.idx.setWidth 5) else .v s.idx, 1)
def halfUses (h : Half) : List (Spec × Nat) := [halfSrcUses h.a, halfSrcUses h.b]

def predUse : Option (BitVec 3) → List (Spec × Nat)
  | some p => [(.p p, 1)]
  | none => []

/-- What an instruction names; none for a relay step, an event or a command. -/
def usesOf : Instr → Option Uses
  | .iadd _ _ g d a b => some ⟨g, [(a.spec, 1)] ++ srcIUses b, [(d.spec, 1)]⟩
  | .isub _ _ g d a b => some ⟨g, [(a.spec, 1)] ++ srcIUses b, [(d.spec, 1)]⟩
  | .imul _ _ g d a b => some ⟨g, [(a.spec, 1)] ++ srcIUses b, [(d.spec, 1)]⟩
  | .imad _ _ g d a b c => some ⟨g, [(a.spec, 1), (b.spec, 1), (c.spec, 1)], [(d.spec, 1)]⟩
  | .imulhi _ g d a b => some ⟨g, [(a.spec, 1), (b.spec, 1)], [(d.spec, 1)]⟩
  | .imin _ g d a b => some ⟨g, [(a.spec, 1)] ++ srcIUses b, [(d.spec, 1)]⟩
  | .imax _ g d a b => some ⟨g, [(a.spec, 1)] ++ srcIUses b, [(d.spec, 1)]⟩
  | .iabs _ _ g d a => some ⟨g, [(a.spec, 1)], [(d.spec, 1)]⟩
  | .ineg _ _ g d a => some ⟨g, [(a.spec, 1)], [(d.spec, 1)]⟩
  | .and g d a b => some ⟨g, [(a.spec, 1)] ++ srcIUses b, [(d.spec, 1)]⟩
  | .or g d a b => some ⟨g, [(a.spec, 1)] ++ srcIUses b, [(d.spec, 1)]⟩
  | .xor g d a b => some ⟨g, [(a.spec, 1)] ++ srcIUses b, [(d.spec, 1)]⟩
  | .andn g d a b => some ⟨g, [(a.spec, 1)] ++ srcIUses b, [(d.spec, 1)]⟩
  | .shl g d a b => some ⟨g, [(a.spec, 1)] ++ srcIUses b, [(d.spec, 1)]⟩
  | .shr g d a b => some ⟨g, [(a.spec, 1)] ++ srcIUses b, [(d.spec, 1)]⟩
  | .sar g d a b => some ⟨g, [(a.spec, 1)] ++ srcIUses b, [(d.spec, 1)]⟩
  | .rot g d a b => some ⟨g, [(a.spec, 1)] ++ srcIUses b, [(d.spec, 1)]⟩
  | .popc g d a => some ⟨g, [(a.spec, 1)], [(d.spec, 1)]⟩
  | .clz g d a => some ⟨g, [(a.spec, 1)], [(d.spec, 1)]⟩
  | .brev g d a => some ⟨g, [(a.spec, 1)], [(d.spec, 1)]⟩
  | .bfx _ g d a b c => some ⟨g, [(a.spec, 1), (b.spec, 1), (c.spec, 1)], [(d.spec, 1)]⟩
  | .bfi g d a b c => some ⟨g, [(d.spec, 1), (a.spec, 1), (b.spec, 1), (c.spec, 1)], [(d.spec, 1)]⟩
  | .icmp _ _ g d a b => some ⟨g, [(a.spec, 1)] ++ srcIUses b, [(d.spec, 1)]⟩
  | .sel g d a b c => some ⟨g, [(a.spec, 1), (b.spec, 1), (c.spec, 1)], [(d.spec, 1)]⟩
  | .mov g d a => some ⟨g, [(a.spec, 1)], [(d.spec, 1)]⟩
  | .movk _ g d _ => some ⟨g, [], [(d.spec, 1)]⟩
  | .lea _ x64 g d a b => some ⟨g, [(a.spec, (if x64 then 2 else 1))] ++ srcIUses b, [(d.spec, (if x64 then 2 else 1))]⟩
  | .dp4 _ _ _ g d a b c => some ⟨g, [(a.spec, 1), (b.spec, 1), (c.spec, 1)], [(d.spec, 1)]⟩
  | .dp8 _ _ _ g d a b c => some ⟨g, [(a.spec, 1), (b.spec, 1), (c.spec, 1)], [(d.spec, 1)]⟩
  | .plop _ g d a b => some ⟨g, [(.p a, 1), (.p b, 1)], [(.p d, 1)]⟩
  | .pmov _ g d a => some ⟨g, [(a.spec, 1)], [(d.spec, 1)]⟩
  | .fadd _ _ _ g d a b c => some ⟨g, [(a.spec, 1), (b.spec, 1), (c.spec, 1)], [(d.spec, 1)]⟩
  | .fsub _ _ _ g d a b c => some ⟨g, [(a.spec, 1), (b.spec, 1), (c.spec, 1)], [(d.spec, 1)]⟩
  | .fmul _ _ _ g d a b c => some ⟨g, [(a.spec, 1), (b.spec, 1), (c.spec, 1)], [(d.spec, 1)]⟩
  | .ffma _ _ _ g d a b c => some ⟨g, [(a.spec, 1), (b.spec, 1), (c.spec, 1)], [(d.spec, 1)]⟩
  | .fmin _ _ _ g d a b => some ⟨g, [(a.spec, 1), (b.spec, 1)], [(d.spec, 1)]⟩
  | .fmax _ _ _ g d a b => some ⟨g, [(a.spec, 1), (b.spec, 1)], [(d.spec, 1)]⟩
  | .fcmp _ _ g d a b => some ⟨g, [(a.spec, 1), (b.spec, 1)], [(d.spec, 1)]⟩
  | .fclass _ _ g d a => some ⟨g, [(a.spec, 1)], [(d.spec, 1)]⟩
  | .frcp _ _ _ g d a => some ⟨g, [(a.spec, 1)], [(d.spec, 1)]⟩
  | .frsq _ _ _ g d a => some ⟨g, [(a.spec, 1)], [(d.spec, 1)]⟩
  | .fsqrt _ _ _ g d a => some ⟨g, [(a.spec, 1)], [(d.spec, 1)]⟩
  | .fex2 _ _ _ g d a => some ⟨g, [(a.spec, 1)], [(d.spec, 1)]⟩
  | .flg2 _ _ _ g d a => some ⟨g, [(a.spec, 1)], [(d.spec, 1)]⟩
  | .fsin _ _ _ g d a => some ⟨g, [(a.spec, 1)], [(d.spec, 1)]⟩
  | .fcos _ _ _ g d a => some ⟨g, [(a.spec, 1)], [(d.spec, 1)]⟩
  | .ftanh _ _ _ g d a => some ⟨g, [(a.spec, 1)], [(d.spec, 1)]⟩
  | .frnd _ _ _ g d a => some ⟨g, [(a.spec, 1)], [(d.spec, 1)]⟩
  | .cvt _ _ _ g d a c => some ⟨g, [(a.spec, 1), (c.spec, 1)], [(d.spec, 1)]⟩
  | .qnt _ _ g d a b c => some ⟨g, [(d.spec, 1), (a.spec, 1), (b.spec, 1), (c.spec, 1)], [(d.spec, 1)]⟩
  | .dqt _ g d a b c => some ⟨g, [(a.spec, 1), (b.spec, 1), (c.spec, 1)], [(d.spec, 1)]⟩
  | .pack g d a b c => some ⟨g, [(a.spec, 1), (b.spec, 1), (c.spec, 1)], [(d.spec, 1)]⟩
  | .unpk _ g d a b => some ⟨g, [(a.spec, 1), (b.spec, 1)], [(d.spec, 1)]⟩
  | .tagr g d a => some ⟨g, [(a.spec, 1)], [(d.spec, 1)]⟩
  | .tagw _ g d a b => some ⟨g, [(a.spec, 1), (b.spec, 1)], [(d.spec, 1)]⟩
  | .shfl _ _ g d a b c => some ⟨g, [(a.spec, 1), (b.spec, 1), (c.spec, 1)], [(d.spec, 1)]⟩
  | .vote _ _ g d a => some ⟨g, [(a.spec, 1)], [(d.spec, 1)]⟩
  | .ballot _ g d a => some ⟨g, [(a.spec, 1)], [(d.spec, 1)]⟩
  | .lred _ _ g d a => some ⟨g, [(a.spec, 1)], [(d.spec, 1)]⟩
  | .scan _ _ g d a => some ⟨g, [(a.spec, 1)], [(d.spec, 1)]⟩
  | .matchq _ g d a => some ⟨g, [(a.spec, 1)], [(d.spec, 1)]⟩
  | .elect _ _ g d => some ⟨g, [], [(d.spec, 1)]⟩
  | .sup _ g d a => some ⟨g, [(a.spec, 1)], [(d.spec, 1)]⟩
  | .sred _ _ g d a => some ⟨g, [(a.spec, 1)], [(d.spec, 1)]⟩
  | .rgive g n => some ⟨g, [(n.spec, 1)], []⟩
  | .rclaim g p n => some ⟨g, [(n.spec, 1)], [] ++ predUse p⟩
  | .rpool _ g d => some ⟨g, [], [(d.spec, 1)]⟩
  | .ldh g d a => some ⟨g, [] ++ ldhUses a, [(d.spec, 1)]⟩
  | .ld _ g d _ i o => some ⟨g, [(i.spec, 1), (o.spec, 1)], [(d.spec, 1)]⟩
  | .st _ g v _ i o => some ⟨g, [(v, 1), (i.spec, 1), (o.spec, 1)], []⟩
  | .atom op _ g d _ i v => some ⟨g, [(i.spec, 1), (v.spec, (if op == .cas then 2 else 1))], [(d.spec, 1)]⟩
  | .red _ _ g _ i v => some ⟨g, [(i.spec, 1), (v.spec, 1)], []⟩
  | .fence _ g => some ⟨g, [], []⟩
  | .pfh _ g _ i o => some ⟨g, [(i.spec, 1), (o.spec, 1)], []⟩
  | .res _ g _ i n => some ⟨g, [(i.spec, 1), (n.spec, 1)], []⟩
  | .cpy g _ _ q => some ⟨g, [(q.spec, 4)], []⟩
  | .cpyr _ _ g _ _ q => some ⟨g, [(q.spec, 4)], []⟩
  | .waitt _ g p m => some ⟨g, [(m.spec, 1)], [] ++ predUse p⟩
  | .waita _ g p m => some ⟨g, [(m.spec, 1)], [] ++ predUse p⟩
  | .tfind _ _ g d m => some ⟨g, [(m.spec, 1)], [(d.spec, 1)]⟩
  | .smap _ g q _ x => some ⟨g, [(q.spec, 2), (x.spec, 1)], []⟩
  | .smapOff _ g => some ⟨g, [], []⟩
  | .sflush _ g t => some ⟨g, [(t.spec, 1)], []⟩
  | .sinv _ g => some ⟨g, [], []⟩
  | .send g _ q => some ⟨g, [(q.spec, 4)], []⟩
  | .recv g _ q => some ⟨g, [(q.spec, 4)], []⟩
  | .relay g d _ x q => some ⟨g, [(x.spec, 1), (q.spec, 4)], [(d.spec, 1)]⟩
  | .rlwait g p t => some ⟨g, [(t.spec, 1)], [] ++ predUse p⟩
  | .lload g l _ x q => some ⟨g, [(x.spec, 1), (q.spec, 2)], [(.l l, 1)]⟩
  | .mfence g => some ⟨g, [], []⟩
  | .mma g p => some ⟨g, [(p.spec, 1)], []⟩
  | .mwait _ g a => some ⟨g, [(a.spec, 1)], []⟩
  | .azero _ _ g a => some ⟨g, [], [(.a a, 1)]⟩
  | .amov _ _ g d a i => some ⟨g, [(a.spec, 1), (i.spec, 1)], [(d.spec, 1)]⟩
  | .ast _ _ g _ a t => some ⟨g, [(a.spec, 1), (t.spec, 1)], []⟩
  | .ald _ g a _ t => some ⟨g, [(t.spec, 1)], [(.a a, 1)]⟩
  | .arel _ g a => some ⟨g, [(a.spec, 1)], []⟩
  | .alg _ g p => some ⟨g, [(p.spec, 1)], []⟩
  | .conj n g d a => some ⟨g, [(a.spec, (algWidth n))], [(d.spec, (algWidth n))]⟩
  | .norm n g d a => some ⟨g, [(a.spec, (algWidth n))], [(d.spec, 1)]⟩
  | .amul n _ g d a b => some ⟨g, [(a.spec, (algWidth n)), (b.spec, (algWidth n))], [(d.spec, (algWidth n))]⟩
  | .barB _ g b n => some ⟨g, [(b.spec, 1), (n.spec, 1)], []⟩
  | .barC g => some ⟨g, [], []⟩
  | .barG g => some ⟨g, [], []⟩
  | .carrive g b k => some ⟨g, [(b.spec, 1), (k.spec, 1)], []⟩
  | .cwait g b n => some ⟨g, [(b.spec, 1), (n.spec, 1)], []⟩
  | .rpush g r v => some ⟨g, [(r.spec, 1), (v.spec, 1)], []⟩
  | .rpop _ g d r => some ⟨g, [(r.spec, 1)], [(d.spec, 1)]⟩
  | .enq g _ i => some ⟨g, [(i.spec, 1)], []⟩
  | .enqAt g _ i => some ⟨g, [(i.spec, 1)], []⟩
  | .enqRetry g q t => some ⟨g, [(q.spec, 1), (t.spec, 1)], []⟩
  | .enqCancel g q t => some ⟨g, [(q.spec, 1), (t.spec, 1)], []⟩
  | .tdone g => some ⟨g, [], []⟩
  | .qstat _ g d q t => some ⟨g, [(q.spec, 1), (t.spec, 1)], [(d.spec, 1)]⟩
  | .ask g _ q p => some ⟨g, [(q.spec, 4), (p.spec, 2)], []⟩
  | .annc g _ q p => some ⟨g, [(q.spec, 4), (p.spec, 2)], []⟩
  | .wdrw g q t => some ⟨g, [(q.spec, 4), (t.spec, 1)], []⟩
  | .nmk fld g d v => some ⟨g, [(v.spec, 1)] ++ (if fld == .clr then [] else [(d.spec, 4)]), [(d.spec, 4)]⟩
  | .pslot g p _ t w => some ⟨g, [(t.spec, 1), (w.spec, 1)], [] ++ predUse p⟩
  | .ppost g a q p => some ⟨g, [(q.spec, 4), (p.spec, 2)] ++ postUses a, []⟩
  | .pwait _ g d q => some ⟨g, [(q.spec, 1)], [(d.spec, 1)]⟩
  | .prel _ g q => some ⟨g, [(q.spec, 1)], []⟩
  | .bra g _ => some ⟨g, [], []⟩
  | .brx _ g a => some ⟨g, [(a.spec, 1)], []⟩
  | .call g _ => some ⟨g, [], []⟩
  | .ret g => some ⟨g, [], []⟩
  | .exit g => some ⟨g, [], []⟩
  | .yield g => some ⟨g, [], []⟩
  | .join g => some ⟨g, [], []⟩
  | .sysr g d _ => some ⟨g, [], [(d.spec, 1)]⟩
  | .sysw g a _ => some ⟨g, [(a.spec, 1)], []⟩
  | .trap g _ => some ⟨g, [], []⟩
  | .tret _ g => some ⟨g, [], []⟩
  | .brk g _ => some ⟨g, [], []⟩
  | .evf g => some ⟨g, [], []⟩
  | .nop g => some ⟨g, [], []⟩
  | .pair gp ha hb => some ⟨⟨gp, false⟩, halfUses ha ++ halfUses hb, [(.v ha.dst, 1), (.v hb.dst, 1)]⟩
  | _ => none

end Sys2Proof.Machine
end

