-- ==== Sys2Proof/Machine/Finalise.lean ====
section
/-! DEFINITION. The finaliser's checks of an Abaxon container (R48 to R80, R453), in the order of R71. -/

namespace Sys2Proof.Machine

/-! ## Load errors (R70, R71) -/

/-- A load error, the section entry that holds the offending bytes, and their offset in the container. -/
structure LoadFail where
  err : LoadError
  sect : Nat
  off : Nat
  deriving DecidableEq, Repr

abbrev Load (α : Type) := Except LoadFail α

/-- `n` bytes of the container at an offset, as a number. -/
def imgAt (img : List Byte) (off n : Nat) : Nat := leNat ((img.drop off).take n)

/-- The record of R71: it names the 64-bit word that holds the offending field (log entry 43); a container or section
error has no word. DEDUCED: log entry 115. -/
def LoadFail.record (img : List Byte) (word : Bool) (f : LoadFail) : BitVec 128 :=
  let o := f.off / 8 * 8
  BitVec.ofNat 128 (f.err.code + f.sect * 2 ^ 8 + o * 2 ^ 32 + (if word then imgAt img o 8 * 2 ^ 64 else 0))

def need (c : Bool) (e : LoadError) (sect off : Nat) : Load Unit := if c then .ok () else .error ⟨e, sect, off⟩

/-- Conditions in ascending offset, each with its error and offset: the first 64-bit word with one that does not hold draws
the lowest code among those that it meets (R71). -/
def needAll (sect : Nat) (l : List (Bool × LoadError × Nat)) : Load Unit :=
  match (l.filter fun x => !x.1).map (·.2) with
  | [] => .ok ()
  | x :: r =>
    let y := (r.filter fun y => y.2 / 8 == x.2 / 8).foldl (fun x y => if y.1.code < x.1.code then y else x) x
    .error ⟨y.1, sect, y.2⟩

/-! ## The header and the section table (R73, R74) -/

/-- A section entry: its index, TYPE, OFFSET and SIZE. -/
structure Sect where
  idx : Nat
  ty : Nat
  off : Nat
  size : Nat
  deriving DecidableEq, Repr

/-- The digest of a container: its DIGEST field counts as zero. -/
def containerDigest (img : List Byte) : List Byte :=
  shake256 (img.take 32 ++ List.replicate 32 0 ++ img.drop 64) 32

def nsecOf (img : List Byte) : Nat := imgAt img 12 2

/-- The first step of R71. No section entry holds a byte of the header: its errors name entry 0. DEDUCED: log entry 115.
DESIGN CHOICE: log entry 149. -/
def checkHeader (img : List Byte) : Load Unit :=
  if img.length < 64 then .error ⟨.containerBad, 0, 0⟩
  else needAll 0
    [(imgAt img 0 4 == 0x42415747, .containerBad, 0), (imgAt img 4 2 == 1, .containerBad, 4),
     (imgAt img 6 2 == 0, .sectionReserved, 6),
     (imgAt img 8 4 == img.length && img.length % 64 == 0, .containerBad, 8),
     (decide (64 + 16 * nsecOf img ≤ img.length), .containerBad, 12),
     (imgAt img 14 18 == 0, .sectionReserved, 14),
     ((img.drop 32).take 32 == containerDigest img, .containerBad, 32)]

def sectAt (img : List Byte) (i : Nat) : Sect :=
  ⟨i, imgAt img (64 + 16 * i) 2, imgAt img (68 + 16 * i) 4, imgAt img (72 + 16 * i) 4⟩

/-- Two byte ranges that meet. -/
def meet (a n b m : Nat) : Bool := decide (a < b + m) && decide (b < a + n) && n != 0 && m != 0

/-- The checks of one section entry (R74). A repeated type of any kind is SECTION_RESERVED, an OFFSET that is no multiple of
64 CONTAINER_BAD. DESIGN CHOICE: log entry 135. -/
def checkSect (img : List Byte) (before : List Sect) (x : Sect) : Load Unit :=
  let at' := 64 + 16 * x.idx
  needAll x.idx
    [(decide (1 ≤ x.ty) && decide (x.ty ≤ 5) && !before.any (·.ty == x.ty), .sectionReserved, at'),
     (imgAt img (at' + 2) 2 == 0, .sectionReserved, at' + 2),
     (x.off % 64 == 0 && decide (x.off + x.size ≤ img.length) && !meet x.off x.size 0 (64 + 16 * nsecOf img)
        && !before.any fun y => meet x.off x.size y.off y.size, .containerBad, at' + 4),
     (x.ty != 2 || x.size % 8 == 0, .containerBad, at' + 8),
     (imgAt img (at' + 12) 4 == 0, .sectionReserved, at' + 12)]

/-- The section entries in order, each checked against those before it. -/
def checkSects (img : List Byte) (before : List Sect) : List Sect → Load (List Sect)
  | [] => .ok before
  | x :: r => match checkSect img before x with
    | .error e => .error e
    | .ok _ => checkSects img (before ++ [x]) r

def sectOf (ss : List Sect) (ty : Nat) : Option Sect := ss.find? (·.ty == ty)

/-! ## The data directory (R453) -/

/-- Offset and size of each data object. -/
def dirEntries (img : List Byte) (d : Sect) : List (Nat × Nat) :=
  (List.range (imgAt img d.off 4)).map fun i => (imgAt img (d.off + 8 + 8 * i) 4, imgAt img (d.off + 12 + 8 * i) 4)

/-- Where the directory ends, with its padding. -/
def dirEnd (n : Nat) : Nat := roundUp (8 + 8 * n) 64

/-- The first nonzero byte of a range. -/
def checkZero (img : List Byte) (sect off n : Nat) : Load Unit :=
  match ((img.drop off).take n).findIdx? (· != 0) with
  | some i => .error ⟨.sectionReserved, sect, off + i⟩
  | none => .ok ()

/-- The objects in order, from where the one before ended. -/
def checkObjs (img : List Byte) (d : Sect) : Nat → Nat → List (Nat × Nat) → Load Unit
  | _, _, [] => .ok ()
  | i, e, (o, z) :: r =>
    if o % 64 != 0 || z == 0 || decide (o < e) || decide (d.size < o + z) then .error ⟨.containerBad, d.idx, d.off + 8 + 8 * i⟩
    else match (if i = 0 then .ok () else checkZero img d.idx (d.off + e) (o - e)) with
      | .error x => .error x
      | .ok () => checkObjs img d (i + 1) (o + z) r

def checkData (img : List Byte) (d : Sect) : Load Unit :=
  let n := imgAt img d.off 4
  if d.size < 8 || n = 0 then .error ⟨.containerBad, d.idx, d.off⟩
  else match need (imgAt img (d.off + 4) 4 == 0) .sectionReserved d.idx (d.off + 4) with
    | .error e => .error e
    | .ok () =>
      if d.size < dirEnd n then .error ⟨.containerBad, d.idx, d.off⟩
      else match checkZero img d.idx (d.off + 8 + 8 * n) (dirEnd n - (8 + 8 * n)) with
        | .error e => .error e
        | .ok () => checkObjs img d 0 (dirEnd n) (dirEntries img d)

/-- The second step of R71. A missing KERN or CODE is reported at the start of the table, entry 0. DESIGN CHOICE: log entry
149. -/
def checkTable (img : List Byte) : Load (List Sect) :=
  match checkSects img [] ((List.range (nsecOf img)).map (sectAt img)) with
  | .error e => .error e
  | .ok ss =>
    if (sectOf ss 1).isNone || (sectOf ss 2).isNone then .error ⟨.sectionReserved, 0, 64⟩
    else match sectOf ss 3 with
      | none => .ok ss
      | some d => match checkData img d with
        | .error e => .error e
        | .ok () => .ok ss

/-! ## Kernel descriptors (R75, R76) -/

/-- A stage as read, with the offset of its code in CODE and of its descriptor in the container. -/
structure StageIn where
  base : Nat
  codeOff : Nat
  sc : StageCode
  deriving DecidableEq, Repr

structure KernelIn where
  k : Kernel
  stages : List StageIn
  deriving DecidableEq, Repr

/-- The words of CODE. -/
def codeWords (img : List Byte) (c : Sect) : List Dword :=
  (List.range (c.size / 8)).map fun i => BitVec.ofNat 64 (imgAt img (c.off + 8 * i) 8)

/-- A code is set for a register that is not declared. -/
def redUndeclared (n : Nat) (red decl : Nat) : Bool :=
  (List.range n).any fun i => red / 2 ^ (3 * i) % 8 != 0 && !decl.testBit i

def ones (n : Nat) : Nat → Nat
  | 0 => 0
  | i + 1 => ones n i + if n.testBit i then 1 else 0

/-- The head at `base`, of the kernel at `eoff`. -/
def headIn (d : BitVec 512) (eoff : Nat) : Kernel :=
  { eoff := eoff, ww := 8 * 2 ^ (d.extractLsb' 32 3).toNat, det := d.getLsbD 40, cohab := d.getLsbD 41,
    rings := (d.extractLsb' 48 4).toNat, cdecl := d.extractLsb' 64 16, gdecl := d.extractLsb' 80 16,
    cred := d.extractLsb' 128 48, gred := d.extractLsb' 176 48, stages := [] }

def checkHead (kern : Sect) (base : Nat) (d : BitVec 512) : Load Unit :=
  let f (i n : Nat) : Nat := (d.extractLsb' i n).toNat
  needAll kern.idx
    [(decide (f 32 3 ≤ 4), .descriptorBad, base + 4), (f 35 5 == 0 && f 42 6 == 0, .sectionReserved, base + 4),
     (decide (f 48 4 ≤ 8), .descriptorBad, base + 6), (f 52 4 == 0, .sectionReserved, base + 6),
     (f 56 8 != 0, .descriptorBad, base + 7), (f 96 32 == 0, .sectionReserved, base + 12),
     (!redUndeclared 16 (f 128 48) (f 64 16), .descriptorBad, base + 16),
     (!redUndeclared 16 (f 176 48) (f 80 16), .descriptorBad, base + 22), (f 224 288 == 0, .sectionReserved, base + 28)]

/-- The clause headers that a walk from the first word meets, as word indices. -/
def headers (ws : List Dword) : Nat → Nat → List Nat
  | 0, _ => []
  | fuel + 1, i => match ws[i]? with
    | some w => if w.extractLsb' 56 8 == 0xFF#8 then i :: headers ws fuel (i + (w.extractLsb' 52 4).toNat + 2) else []
    | none => []

def stageIn (d : BitVec 1024) (base : Nat) (code : List Dword) : StageIn :=
  let f (i n : Nat) : Nat := (d.extractLsb' i n).toNat
  { base := base, codeOff := f 64 32
    sc := { stage := f 0 3, role := f 3 2, regs := f 8 8, bars := f 16 5, stash := f 24 14, tags := f 40 7, loft := f 48 4,
            acc := f 52 6, base := f 64 32, words := (code.drop (f 64 32 / 8)).take (f 96 32 / 8),
            handler := if f 128 32 = 0xFFFFFFFF then none else some (f 128 32),
            xdecl := d.extractLsb' 160 16, wdecl := d.extractLsb' 176 32, bdecl := d.extractLsb' 208 32,
            xred := d.extractLsb' 256 48, wred := d.extractLsb' 304 96, bred := d.extractLsb' 400 96,
            own := (List.range 4).map fun i => d.extractLsb' (512 + 128 * i) 128, fix := [] } }

/-- A stage descriptor; `used` holds the code ranges of the stages before it. Ranges that overlap or leave CODE are
DESCRIPTOR_BAD. DESIGN CHOICE: log entry 135. -/
def checkStage (kern : Sect) (base k csize : Nat) (d : BitVec 1024) (x : StageIn) (used : List (Nat × Nat)) : Load Unit :=
  let f (i n : Nat) : Nat := (d.extractLsb' i n).toNat
  needAll kern.idx <|
    [(f 0 3 == k && f 3 2 != 3, .descriptorBad, base), (f 5 3 == 0, .sectionReserved, base),
     (f 8 8 % 8 == 0 && decide (f 8 8 ≤ 128), .descriptorBad, base + 1), (decide (f 16 5 ≤ 16), .descriptorBad, base + 2),
     (f 21 3 == 0, .sectionReserved, base + 2), (decide (f 24 14 ≤ 12288), .descriptorBad, base + 3),
     (f 38 2 == 0, .sectionReserved, base + 4), (decide (f 40 7 ≤ 64), .descriptorBad, base + 5),
     (f 47 1 == 0, .sectionReserved, base + 5), (decide (f 48 4 ≤ 8), .descriptorBad, base + 6),
     (decide (f 52 6 ≤ 32), .descriptorBad, base + 6), (f 58 6 == 0, .sectionReserved, base + 7),
     (f 64 32 % 8 == 0 && decide (f 64 32 + f 96 32 ≤ csize) && f 96 32 % 8 == 0 && f 96 32 != 0
        && !used.any fun u => meet (f 64 32) (f 96 32) u.1 u.2, .descriptorBad, base + 8),
     (x.sc.handler.all fun h => h % 8 == 0 && (headers x.sc.words x.sc.words.length 0).contains (h / 8), .descriptorBad, base + 16),
     (f 240 16 == 0, .sectionReserved, base + 30), (!redUndeclared 16 (f 256 48) (f 160 16), .descriptorBad, base + 32),
     (!redUndeclared 32 (f 304 96) (f 176 32), .descriptorBad, base + 38),
     (!redUndeclared 32 (f 400 96) (f 208 32), .descriptorBad, base + 50), (f 496 16 == 0, .sectionReserved, base + 62)]
    ++ (List.range 4).flatMap fun i =>
      [(f (512 + 128 * i + 5) 27 == 0, .sectionReserved, base + 64 + 16 * i),
       (f (512 + 128 * i + 96) 32 == 0, .sectionReserved, base + 76 + 16 * i)]

/-- The stages of SMASK in order, from byte `p` of KERN. -/
def readStages (img : List Byte) (kern : Sect) (csize : Nat) (code : List Dword) :
    List Nat → Nat → List (Nat × Nat) → Load (List StageIn × List (Nat × Nat))
  | [], _, used => .ok ([], used)
  | k :: r, p, used =>
    let base := kern.off + p
    let d := BitVec.ofNat 1024 (imgAt img base 128)
    let x := stageIn d base code
    match checkStage kern base k csize d x used with
    | .error e => .error e
    | .ok () => match readStages img kern csize code r (p + 128) (used ++ [(x.codeOff, 8 * x.sc.words.length)]) with
      | .error e => .error e
      | .ok (xs, u) => .ok (x :: xs, u)

/-- The descriptors from byte `p` of KERN on; a truncated one is DESCRIPTOR_BAD. DESIGN CHOICE: log entry 135. -/
def readKernels (img : List Byte) (kern : Sect) (csize : Nat) (code : List Dword) :
    Nat → Nat → List (Nat × Nat) → Load (List KernelIn)
  | 0, _, _ => .ok []
  | fuel + 1, p, used =>
    if kern.size ≤ p then .ok []
    else
      let base := kern.off + p
      let d := BitVec.ofNat 512 (imgAt img base 64)
      let smask := (d.extractLsb' 56 8).toNat
      let len := 64 + 128 * ones smask 8
      if kern.size < p + 64 || kern.size < p + len then .error ⟨.descriptorBad, kern.idx, base⟩
      else match checkHead kern base d with
        | .error e => .error e
        | .ok () =>
          match readStages img kern csize code ((List.range 8).filter smask.testBit) (p + 64) used with
          | .error e => .error e
          | .ok (xs, u) => match readKernels img kern csize code fuel (p + len) u with
            | .error e => .error e
            | .ok ks => .ok (⟨headIn d p, xs⟩ :: ks)

/-! ## Fixups (R77) -/

/-- Formats of a word (R60, R61, R64). -/
inductive WordFmt where
  | v | i | k | b | p | header
  deriving DecidableEq, Repr

/-- Opcodes marked V/I (R69). -/
def opcVI : List Nat := [0, 1, 2, 5, 6, 9, 10, 11, 12, 13, 14, 15, 0x10, 0x16, 0x1A]

def wordFmt (w : Dword) : WordFmt :=
  let o := (w.extractLsb' 56 8).toNat
  if o == 0xFF then .header
  else if 0xE0 ≤ o && o ≤ 0xE7 then .p
  else if o == 0xE8 || o == 0xEA then .b
  else if o == 0x19 || o == 0xF0 || o == 0xF2 || o == 0xF4 then .k
  else if o == 0xF1 || (opcVI.contains o && w.getLsbD 55) then .i
  else .v

/-- Where a field of a word lies, how many bits it has, and the values that fit (R30); none where it is not fixable. A
shift takes IMM24[5:0] (R150); a negative value of `movk` fits as the 32 raw bits of R156. DEDUCED: log entry 134. -/
def fixField (w : Dword) (field : Nat) : Option (Nat × Nat × Int × Int) :=
  let src (lo : Nat) : Option (Nat × Nat × Int × Int) :=
    if w.extractLsb' (lo + 9) 3 == 7#3 then some (lo + 2, 7, -64, 63) else none
  let o := (w.extractLsb' 56 8).toNat
  match field, wordFmt w with
  | 0, .v => src 24
  | 0, .i => src 24
  | 1, .v => src 12
  | 2, .v => src 0
  | 3, .i =>
    if o == 0xF1 then some (0, 24, 0, 4095)
    else if 0x0D ≤ o && o ≤ 0x10 then some (0, 24, 0, 63)
    else some (0, 24, -8388608, 8388607)
  | 4, .k =>
    if o == 0x19 then some (0, 36, -2147483648, 4294967295)
    else if o == 0xF0 then some (0, 36, 0, 4095)
    else some (0, 36, 0, 65535)
  | _, _ => none

/-- A fixup's value as its field holds it: IMM36 of `movk` holds 32 bits, [35:32] zero (R156). -/
def fixValue (w : Dword) (v : Int) : Int := if w.extractLsb' 56 8 == 0x19#8 then v % 2 ^ 32 else v

/-- Bits `lo` to `lo + n - 1` of a word replaced. -/
def putBits (w : Dword) (lo n : Nat) (v : Int) : Dword :=
  let m := BitVec.ofNat 64 ((2 ^ n - 1) * 2 ^ lo)
  (w &&& ~~~m) ||| (BitVec.ofNat 64 ((v % 2 ^ n).toNat * 2 ^ lo))

def setImg (img : List Byte) (off : Nat) (bs : List Byte) : List Byte := img.take off ++ bs ++ img.drop (off + bs.length)

/-- An expression is well formed: legal codes, no underflow, one value at the end. -/
def exprShape : Nat → List Byte → Nat → Bool
  | _, [], d => d == 1
  | 0, _ :: _, _ => false
  | n + 1, c :: r, d =>
    if c == 1 then decide (8 ≤ r.length) && exprShape n (r.drop 8) (d + 1)
    else if c == 2 || c == 3 then exprShape n r (d + 1)
    else decide (0x10 ≤ c.toNat) && decide (c.toNat ≤ 0x18) && decide (2 ≤ d) && exprShape n r (d - 1)

/-- An expression that holds `%blk`. -/
def exprBlk : Nat → List Byte → Bool
  | 0, _ => false
  | _, [] => false
  | n + 1, c :: r => c == 3 || exprBlk n (if c == 1 then r.drop 8 else r)

/-- The stage and the `.own` entry that stand at an offset of the container. -/
def ownAt (ks : List KernelIn) (off : Nat) : Option (StageIn × Nat) :=
  (ks.flatMap (·.stages)).findSome? fun x =>
    (List.range 4).findSome? fun i => if off == x.base + 64 + 16 * i then some (x, i) else none

/-- What the fixups so far have made: the container with their values, and the `%blk` ones by their stage's place. -/
structure Fixed where
  img : List Byte
  blk : List (Nat × BlkFix)
  deriving DecidableEq, Repr

/-- One fixup record: its place, target, field and expression. DEDUCED: log entry 134; DESIGN CHOICE: log entry 137. -/
def oneFix (ks : List KernelIn) (kern code fix : Sect) (at' target field : Nat) (expr : List Byte) (f : Fixed) :
    Load Fixed :=
  let bad : Load Fixed := .error ⟨.fixupBad, fix.idx, at'⟩
  if !exprShape expr.length expr 0 then bad
  else if field ≤ 4 then
    if exprBlk expr.length expr || target % 8 != 0 || target < code.off || code.off + code.size < target + 8 then bad
    else
      let w := BitVec.ofNat 64 (imgAt f.img target 8)
      match fixField w field, evalExpr none expr.length expr [] with
      | some (lo, n, l, h), some v =>
        if l ≤ v ∧ v ≤ h then .ok { f with img := setImg f.img target (leBytes 8 (putBits w lo n (fixValue w v)).toNat) }
        else .error ⟨.fixupRange, code.idx, target⟩
      | _, _ => bad
  else match ownAt ks target with
    | none => bad
    | some (x, i) =>
      let e : LoadFail := ⟨.fixupRange, kern.idx, target + if field = 6 then 8 else 0⟩
      if exprBlk expr.length expr then .ok { f with blk := f.blk ++ [(x.base, ⟨i, field == 6, expr, e.record f.img true⟩)] }
      else match evalExpr none expr.length expr [] with
        | none => bad
        | some v =>
          if 0 ≤ v ∧ v < 2 ^ 32 then
            .ok { f with img := setImg f.img (target + if field = 6 then 8 else 4) (leBytes 4 v.toNat) }
          else .error e

/-- The records from byte `p` of FIX on; a nonzero reserved field of a head is FIXUP_BAD. DESIGN CHOICE: log entry 135. -/
def runFixes (img : List Byte) (ks : List KernelIn) (kern code fix : Sect) : Nat → Nat → Fixed → Load Fixed
  | 0, _, f => .ok f
  | fuel + 1, p, f =>
    if fix.size ≤ p then .ok f
    else
      let at' := fix.off + p
      let len := imgAt img (at' + 5) 1
      let whole := roundUp (8 + len) 8
      if fix.size < p + 8 || len = 0 || fix.size < p + whole || 6 < imgAt img (at' + 4) 1 || imgAt img (at' + 6) 2 != 0
          || imgAt img (at' + 8 + len) (whole - 8 - len) != 0 then .error ⟨.fixupBad, fix.idx, at'⟩
      else match oneFix ks kern code fix at' (imgAt img at' 4) (imgAt img (at' + 4) 1) ((img.drop (at' + 8)).take len) f with
        | .error e => .error e
        | .ok f1 => runFixes img ks kern code fix fuel (p + whole) f1

/-! ## Code words (R50 to R79) -/

/-- The clause classes of R69 that a word of an opcode may stand in; none for an opcode that is reserved. -/
def opcEngs (o : Nat) : List Nat :=
  if o ≤ 0x1E || (0x40 ≤ o && o ≤ 0x57) then [0, 1]
  else if 0x80 ≤ o && o ≤ 0x8B then [0]
  else if 0xA0 ≤ o && o ≤ 0xAF then [3]
  else if 0xB8 ≤ o && o ≤ 0xBB then [4]
  else if 0xC0 ≤ o && o ≤ 0xC9 then [2]
  else if 0xCA ≤ o && o ≤ 0xCC then [0]
  else if 0xD0 ≤ o && o ≤ 0xD7 then [5]
  else if 0xD8 ≤ o && o ≤ 0xDF then [4]
  else if 0xF0 ≤ o && o ≤ 0xF5 then [6]
  else [0, 1, 2, 3, 4, 5, 6]

/-- The role an opcode is bound to (R69): 0 copy, 1 matrix, 2 vector. -/
def opcRole (o : Nat) : Option Nat :=
  if [0xA8, 0xA9, 0xAD, 0xAE, 0xAF, 0xC0, 0xB8, 0xB9, 0xBA, 0xBB, 0xD8, 0xD9, 0xDA].contains o then some 0
  else if [0xC1, 0xC2, 0xC3, 0xC4, 0xC7, 0xC9].contains o then some 1
  else if [0xC5, 0xC6, 0xC8, 0xCA, 0xCB, 0xCC, 0xDC, 0xDD, 0xDE, 0xDF].contains o then some 2
  else none

def opcOf (w : Dword) : Nat := (w.extractLsb' 56 8).toNat

/-- A control-flow instruction (R70). -/
def opcControl (o : Nat) : Bool := (0xE8 ≤ o && o ≤ 0xEE) || o == 0xF3

/-- A word with which a stage may end (R50). -/
def endsStage (w : Dword) : Bool :=
  [0xE8, 0xE9, 0xEB, 0xEC, 0xF3].contains (opcOf w) && w.extractLsb' 47 4 == 0b1110#4

/-- A stage whose code holds `rclaim` (R79). -/
def StageCode.claims (sc : StageCode) : Bool := sc.words.any fun w => opcOf w == 0x8A

/-- Register `i` of a specifier's run lies within the declarations. -/
def declared (k : Kernel) (sc : StageCode) (s : Spec) (i : Nat) : Bool :=
  match s with
  | .v n => decide (n.toNat + i < if sc.claims then 128 else sc.regs)
  | .x n => sc.xdecl.getLsbD (n.toNat + i)
  | .w n => sc.wdecl.getLsbD (n.toNat + i)
  | .b n => sc.bdecl.getLsbD (n.toNat + i)
  | .c n => k.cdecl.getLsbD (n.toNat + i)
  | .g n => k.gdecl.getLsbD (n.toNat + i)
  | .a n => decide (n.toNat < sc.acc)
  | .l n => decide (n.toNat < sc.loft)
  | _ => true

def runDeclared (k : Kernel) (sc : StageCode) (u : Spec × Nat) : Bool := (List.range u.2).all (declared k sc u.1)

/-- An immediate source's value, where it is one. -/
def immOf (s : Src) : Option Int :=
  match s.spec with
  | .imm i => some i.toInt
  | _ => none

/-- An immediate is at least 0 and below a limit; a register is judged at run time. -/
def immBelow (s : Src) (n : Nat) : Bool := (immOf s).all fun (v : Int) => decide (0 ≤ v) && decide (v < (n : Int))

/-- The tags an immediate mask names (R227) are declared. -/
def maskBelow (hi : Bool) (m : Src) (n : Nat) : Bool :=
  (immOf m).all fun (v : Int) => (List.range 32).all fun i =>
    !(BitVec.ofInt 32 v).getLsbD i || decide (i + (if hi then 32 else 0) < n)

/-- 64 bytes of stash at an immediate offset. -/
def stashBelow (s : Src) (sc : StageCode) : Bool := (immOf s).all fun (v : Int) => decide (0 ≤ v) && decide (v + 64 ≤ ((64 * sc.stash : Nat) : Int))

/-- The immediates of an instruction lie within the declarations (R79). -/
def immsDeclared (k : Kernel) (sc : StageCode) (i : Instr) : Bool :=
  match i with
  | .barB _ _ b _ => immBelow b sc.bars
  | .barG _ => k.cohab
  | .carrive _ b _ => immBelow b sc.bars
  | .cwait _ b _ => immBelow b sc.bars
  | .rpush _ r _ => immBelow r k.rings
  | .rpop _ _ _ r => immBelow r k.rings
  | .waitt hi _ _ m => maskBelow hi m sc.tags
  | .waita hi _ _ m => maskBelow hi m sc.tags
  | .tfind kind hi _ _ m => if kind == 2#2 then immBelow m sc.tags else maskBelow hi m sc.tags
  | .ast _ _ _ _ _ t => immBelow t sc.tags
  | .ald _ _ _ _ t => immBelow t sc.tags
  | .sflush _ _ t => immBelow t sc.tags
  | .wdrw _ _ t => immBelow t sc.tags
  | .mma _ p => stashBelow p sc
  | .alg _ _ p => stashBelow p sc
  | _ => true

def inDecls (k : Kernel) (sc : StageCode) (i : Instr) : Bool :=
  immsDeclared k sc i && (usesOf i).all fun u => u.reads.all (runDeclared k sc) && u.writes.all (runDeclared k sc)

/-- The lowest of the errors whose condition fails. -/
def lowestErr : List (Bool × LoadError) → Option LoadError
  | [] => none
  | (c, e) :: r => if c then lowestErr r else some (((lowestErr r).map e.lower).getD e)

/-- What an instruction word of a clause of class `eng` draws: `last` of its clause, `final` of its stage. -/
def wordErr (k : Kernel) (sc : StageCode) (eng : Nat) (last final : Bool) (w : Dword) : Option LoadError :=
  let o := opcOf w
  let pair := 0xE0 ≤ o && o ≤ 0xE7
  if o == 0xFF then some .clauseBroken
  else
    let base := [(pair || (opcEngs o).contains eng, LoadError.engMismatch), (last || !opcControl o, .controlPosition),
                 (!final || endsStage w, .fallthroughEnd), (!pair || eng == 0, .pairIllegal)]
    match decodeIn (eng == 1) w with
    | .bad e => lowestErr ((false, e) :: base)
    | .ok i => lowestErr (base ++ [((opcRole o).all (· == sc.role), .roleIllegal), (inDecls k sc i, .declExceeded)])

/-- What a clause header draws (R51, R70, R79). -/
def headerErr (k : Kernel) (sc : StageCode) (n i : Nat) (w : Dword) : Option LoadError :=
  let f (lo m : Nat) : Nat := (w.extractLsb' lo m).toNat
  if opcOf w != 0xFF then some .clauseBroken
  else lowestErr
    [(decide (i + f 52 4 + 2 ≤ n), .clauseBroken), (f 49 3 != 7 && f 0 24 == 0 && (f 29 1 == 1 || (f 26 3 == 0 && f 25 1 == 0)), .headerReserved),
     ((f 29 1 == 0 || decide (f 26 3 < k.rings))
        && (List.range 16).all fun j => !(f 30 16).testBit j || decide (16 * f 46 2 + j < sc.tags), .declExceeded)]

/-- The first error among a clause's instruction words, from word `j` of the stage on, `m` words to go. -/
def clauseErr (k : Kernel) (sc : StageCode) (eng : Nat) : Nat → Nat → Option (Nat × LoadError)
  | _, 0 => none
  | j, m + 1 =>
    match (sc.words[j]?).bind (wordErr k sc eng (m == 0) (j + 1 == sc.words.length)) with
    | some e => some (j, e)
    | none => clauseErr k sc eng (j + 1) m

/-- The first error of a stage's words from the clause at word `i` on. -/
def stageErr (k : Kernel) (sc : StageCode) : Nat → Nat → Option (Nat × LoadError)
  | 0, _ => none
  | fuel + 1, i =>
    match sc.words[i]? with
    | none => none
    | some w => match headerErr k sc sc.words.length i w with
      | some e => some (i, e)
      | none =>
        let m := (w.extractLsb' 52 4).toNat + 1
        match clauseErr k sc (w.extractLsb' 49 3).toNat (i + 1) m with
        | some e => some e
        | none => stageErr k sc fuel (i + 1 + m)

/-- Every stage with its kernel, in ascending offset of its code. -/
def stagesIn (ks : List KernelIn) : List (Kernel × StageIn) :=
  sortBy (fun a b => decide (a.2.codeOff ≤ b.2.codeOff)) (ks.flatMap fun k => k.stages.map fun x => (k.k, x))

/-- The code words in ascending offset from byte `p` of CODE: a word of no stage stands in no clause (R78). -/
def checkWords (code : Sect) : Nat → List (Kernel × StageIn) → Load Unit
  | p, [] => need (decide (code.size ≤ p)) .clauseBroken code.idx (code.off + p)
  | p, (k, x) :: r =>
    if p < x.codeOff then .error ⟨.clauseBroken, code.idx, code.off + p⟩
    else match stageErr k x.sc x.sc.words.length 0 with
      | some (i, e) => .error ⟨e, code.idx, code.off + x.codeOff + 8 * i⟩
      | none => checkWords code (x.codeOff + 8 * x.sc.words.length) r

/-! ## Control flow and regions (R62, R80, R317) -/

/-- A clause of a stage: the word index of its header, IDEM, and its instructions. -/
structure Clause where
  at' : Nat
  idem : Bool
  body : List Instr
  deriving DecidableEq, Repr

/-- The clauses of a stage whose words have passed. -/
def StageCode.clauses (sc : StageCode) : List Clause :=
  (headers sc.words sc.words.length 0).map fun i =>
    let w := sc.words.getD i 0
    let scl := w.extractLsb' 49 3 == 1#3
    ⟨i, w.getLsbD 48, ((sc.words.drop (i + 1)).take ((w.extractLsb' 52 4).toNat + 1)).filterMap fun x =>
      (decodeIn scl x).toOption⟩

/-- Where a clause of that index starts, if a branch may go there (R62, R63): its index among the clauses. -/
def targetOf (cs : List Clause) (at' : Int) : Option Nat :=
  cs.findIdx? fun c => (c.at' : Int) == at' && (c.at' == 0 || !c.idem)

def Clause.last (c : Clause) : Instr := c.body.getLastD (.nop ⟨7, false⟩)

/-- `bar.b.idem`. -/
def isIdemBar : Instr → Bool
  | .barB idem _ _ _ => idem
  | _ => false

/-- A guard that every thread passes. -/
def always (g : Guard) : Bool := g.pred == 7#3 && !g.neg

/-- The places of the tracked registers in a set (R80): classes 0 to 4, predicates, batons, accumulators. -/
def trackOf (s : Spec) (i : Nat) : Option Nat :=
  match s with
  | .v n => some (n.toNat + i)
  | .x n => some (128 + n.toNat + i)
  | .w n => some (144 + n.toNat + i)
  | .b n => some (176 + n.toNat + i)
  | .c n => some (208 + n.toNat + i)
  | .p n => if n.toNat < 7 then some (224 + n.toNat) else none
  | .z n => some (232 + n.toNat)
  | .a n => some (240 + n.toNat)
  | _ => none

def tracks (us : List (Spec × Nat)) : List Nat := us.flatMap fun u => (List.range u.2).filterMap (trackOf u.1)

/-- A set of registers as a number; every register. -/
def setOf (l : List Nat) : Nat := l.foldl (fun a i => a ||| 2 ^ i) 0
def allSet : Nat := 2 ^ 272 - 1

/-- What an instruction reads, its guard's predicate included (R80). -/
def readsOf (i : Instr) : List Nat :=
  ((usesOf i).map fun u => (if u.guard.pred.toNat < 7 then [224 + u.guard.pred.toNat] else []) ++ tracks u.reads).getD []

/-- What an instruction surely writes; a transient write, which no later clause reads, counts as one. DESIGN CHOICE: log entry 150. -/
def surely (i : Instr) : Nat :=
  ((usesOf i).map fun u => if always u.guard then setOf (tracks u.writes) else 0).getD 0

/-- What a clause surely writes. -/
def Clause.gen (c : Clause) : Nat := c.body.foldl (fun a i => a ||| surely i) 0

/-- How control leaves a clause: its next clause, its branch targets, the routines it calls (each returning to the next
clause), whether it returns. -/
structure Exits where
  next : Bool
  jumps : List Nat
  calls : List Nat
  ret : Bool
  deriving DecidableEq, Repr

def Clause.exits (cs : List Clause) (c : Clause) : Exits :=
  let go (off : BitVec 36) : List Nat := (targetOf cs ((c.at' : Int) + off.toInt)).toList
  let any := (List.range cs.length).filter fun i => (cs[i]?).any fun x => x.at' == 0 || !x.idem
  match c.last with
  | .bra g off => ⟨!always g, go off, [], false⟩
  | .call g off => ⟨!always g, [], go off, false⟩
  | .brx call g _ => if call then ⟨!always g, [], any, false⟩ else ⟨!always g, any, [], false⟩
  | .ret g => ⟨!always g, [], [], true⟩
  | .exit g => ⟨!always g, [], [], false⟩
  | .tret _ g => ⟨!always g, [], [], false⟩
  | _ => ⟨true, [], [], false⟩

/-- What is surely written from each clause to the `ret` that ends its routine; every register where none is reached.
One round over all clauses. -/
def toRet (cs : List Clause) (b : List Nat) : List Nat :=
  cs.mapIdx fun i c =>
    let x := c.exits cs
    let at' (j : Nat) : Nat := b.getD j allSet
    let outs := (if x.next then [at' (i + 1)] else []) ++ x.jumps.map at' ++ (if x.ret then [0] else [])
      ++ x.calls.map fun t => at' t ||| at' (i + 1)
    c.gen ||| outs.foldl (· &&& ·) allSet

/-- Rounds until nothing changes. -/
def settled {α : Type} [BEq α] (f : α → α) : Nat → α → α
  | 0, a => a
  | n + 1, a => let b := f a; if b == a then a else settled f n b

/-- What is surely written on every path from the entry before each clause; none where no path goes. One round. -/
def onPaths (cs : List Clause) (b : List Nat) (w : List (Option Nat)) : List (Option Nat) :=
  let flow : List (Nat × Nat) := cs.zipIdx.flatMap fun y =>
    match (w[y.2]?).join with
    | none => []
    | some v =>
      let out := v ||| y.1.gen
      let x := y.1.exits cs
      (if x.next then [(y.2 + 1, out)] else []) ++ x.jumps.map (fun t => (t, out)) ++ x.calls.flatMap fun t =>
        [(t, out), (y.2 + 1, out ||| b.getD t allSet)]
  w.mapIdx fun i v => (flow.filter (·.1 == i)).foldl (fun v f => some ((v.getD allSet) &&& f.2)) v

/-- The words of a clause that read a register not surely written, from word `j` on. -/
def badReads : Nat → Nat → List Instr → List Nat
  | _, _, [] => []
  | j, w, i :: r => (if (readsOf i).all w.testBit then [] else [j]) ++ badReads (j + 1) (w ||| surely i) r

/-- The words that breach R80 on a path from clause `e`: the clause that holds the read draws the error. DESIGN CHOICE: log
entry 136. -/
def regionErrs (cs : List Clause) (e : Nat) : List (Nat × Nat) :=
  let n := 273 * (cs.length + 1)
  let b := settled (toRet cs) n (cs.map fun _ => allSet)
  let w := settled (onPaths cs b) n (cs.mapIdx fun i _ => if i = e then some 0 else none)
  cs.zipIdx.flatMap fun y => match (w[y.2]?).join with
    | some v => (badReads (y.1.at' + 1) v y.1.body).map fun j => (y.1.at', j)
    | none => []

/-- The errors of clause `i` of a stage (R62, R80, R317), as clause, error and word. -/
def clauseErrs (cs : List Clause) (i : Nat) (c : Clause) : List (Nat × LoadError × Nat) :=
  let fin := c.at' + c.body.length
  let target := match c.last with
    | .bra _ off | .call _ off =>
      if (targetOf cs ((c.at' : Int) + off.toInt)).isSome then [] else [(c.at', LoadError.branchTarget, fin)]
    | _ => []
  let next := (cs[i + 1]?).any (·.idem)
  let bars := (c.body.zipIdx.filter fun x => isIdemBar x.1 && !(c.at' + 1 + x.2 == fin && next)).map fun x =>
    (c.at', LoadError.regionEntry, c.at' + 1 + x.2)
  let placed := i == 0 || (0 < i && (cs[i - 1]?).any fun p => isIdemBar p.last)
  target ++ bars ++ (if c.idem && !placed then [(c.at', LoadError.regionEntry, c.at')] else [])
    ++ (if c.idem then (regionErrs cs i).map fun x => (x.1, LoadError.regionEntry, x.2) else [])

/-- DEDUCED: log entry 114. -/
def StageCode.flowErrs (sc : StageCode) : List (Nat × LoadError × Nat) :=
  let cs := sc.clauses
  cs.zipIdx.flatMap fun x => clauseErrs cs x.2 x.1

/-- The first of two: by clause, then the lower error, then by word (R71). -/
def flowBefore (a b : Nat × LoadError × Nat) : Bool :=
  decide (a.1 < b.1) || (a.1 == b.1 && (decide (a.2.1.code < b.2.1.code) || (a.2.1 == b.2.1 && decide (a.2.2 ≤ b.2.2))))

def checkFlow (code : Sect) : List (Kernel × StageIn) → Load Unit
  | [] => .ok ()
  | (_, x) :: r => match (sortBy flowBefore x.sc.flowErrs).head? with
    | some (_, e, j) => .error ⟨e, code.idx, code.off + x.codeOff + 8 * j⟩
    | none => checkFlow code r

/-! ## The whole of it (R71) -/

/-- What a container that passes gives: its kernels, its data objects' bytes, and its code bytes. -/
structure Finalised where
  kernels : List Kernel
  data : List (List Byte)
  code : List Byte
  deriving DecidableEq, Repr

def KernelIn.whole (x : KernelIn) (blk : List (Nat × BlkFix)) : Kernel :=
  { x.k with stages := x.stages.map fun y =>
      { y.sc with fix := (blk.filter (·.1 == y.base)).map (·.2) } }

/-- Steps 1 and 2 of R71. -/
def readTable (img : List Byte) : Load (List Sect) :=
  match checkHeader img with
  | .error e => .error e
  | .ok () => checkTable img

/-- Steps 3 and 4: the kernels as they read once the fixups are resolved. -/
def readKern (img : List Byte) (ss : List Sect) : Load (List KernelIn × Fixed) :=
  match sectOf ss 1, sectOf ss 2 with
  | some kern, some code =>
    match readKernels img kern code.size (codeWords img code) kern.size 0 [] with
    | .error e => .error e
    | .ok ks => match sectOf ss 4 with
      | none => .ok (ks, ⟨img, []⟩)
      | some fix => match runFixes img ks kern code fix fix.size 0 ⟨img, []⟩ with
        | .error e => .error e
        | .ok f => match readKernels f.img kern code.size (codeWords f.img code) kern.size 0 [] with
          | .error e => .error e
          | .ok ks => .ok (ks, f)
  | _, _ => .error ⟨.sectionReserved, 0, 64⟩

/-- R71: the finaliser's verdict on a container: the record of its first error, or what it installs. DEDUCED: log entry 114. -/
def finalise (img : List Byte) : Except (BitVec 128) Finalised :=
  match readTable img with
  | .error e => .error (e.record img false)
  | .ok ss => match readKern img ss with
    | .error e => .error (e.record img true)
    | .ok (ks, f) =>
      let code := (sectOf ss 2).getD ⟨0, 2, 0, 0⟩
      match checkWords code 0 (stagesIn ks) with
      | .error e => .error (e.record f.img true)
      | .ok () => match checkFlow code (stagesIn ks) with
        | .error e => .error (e.record f.img true)
        | .ok () => .ok
            { kernels := ks.map (·.whole f.blk)
              data := match sectOf ss 3 with
                | none => []
                | some d => (dirEntries img d).map fun x => (img.drop (d.off + x.1)).take x.2
              code := (f.img.drop code.off).take code.size }

end Sys2Proof.Machine
end

