-- ==== Sys2Proof/Machine/Install.lean ====
section
/-! DEFINITION. The life of a code object (R81, R282, R283): loading, the finaliser's end, removal. -/

namespace Sys2Proof.Machine

/-- The ids a load replies: 24 bits each, the data objects in order and then the code object (R283, log entry 44). -/
def packIds (l : List Nat) : Nat := l.foldr (fun i a => i + 2 ^ 24 * a) 0
def Code.ids (x : Code) : List Nat := x.data ++ [x.id]

/-- The code object that a container names already: a load in progress of the same bytes, or one installed from them. -/
def Code.sameAs (x : Code) (img digest : List Byte) : Bool :=
  if x.st == .checking then x.image == img else x.digest == digest && (img.drop 32).take 32 == digest

/-- R428: in recovery a load takes a signed recovery image, and nothing else. DESIGN CHOICE: log entry 73. -/
def State.recoveryImage (s : State) (img : List Byte) : Served :=
  if Config.recoverySigned img then (s.modM fun m => { m with recovery := some img }, .done) else (s, .denied)

/-- OP 0x10: a container submitted (R282). -/
def serveLoadContainer (h : CmdHead) (img : List Byte) (s : State) : Served :=
  if s.m.boot == .recovery then s.recoveryImage img
  else checked h (fun s => onContext h (fun c =>
    match s.t.codes.find? fun x => x.ctx == c.id && x.sameAs img (containerDigest img) with
    | some x => (s, if x.st == .checking then .waits c.id x.id else { result := packIds x.ids })
    | none => match s.freeObj c with
      | none => (s, .denied)
      | some id =>
        let x : Code := { ctx := c.id, id := id, st := .checking, digest := containerDigest img, kernels := [], data := [],
                          image := img, removeReq := false }
        (s.modT fun t => { t with codes := t.codes ++ [x] }, .waits c.id id)) s) s

/-- R81: LOAD_CONTAINER. -/
def execLoadContainer (h : CmdHead) (img : List Byte) (s : State) : Host.Outcome State Fault Refusal :=
  .next (s.command h.link (.loadContainer h img) (serveLoadContainer h img))

/-- Removal requested (R282): it is served once no live grid uses the object. -/
def State.removeCode (s : State) (ctx obj : Nat) : State :=
  match s.codeOf ctx obj with
  | none => s
  | some x => match x.st with
    | .checking => s.modCode ctx obj fun x => { x with removeReq := true }
    | .installed => ((s.modCode ctx obj fun x => { x with st := .retiring }).retireCode ctx obj).retireCtx ctx
    | .retiring => s

/-- OP 0x11. -/
def serveRemoveObject (h : CmdHead) (obj : Nat) (s : State) : Served :=
  checked h (fun s => onContext h (fun c => (s.removeCode c.id obj, .done)) s) s

def execRemoveObject (h : CmdHead) (obj : Nat) (s : State) : Host.Outcome State Fault Refusal :=
  .next (s.command h.link (.removeObject h obj) (serveRemoveObject h obj))

/-- The loads that wait for the finaliser reply. DESIGN CHOICE: log entry 44. DEDUCED: log entry 71. -/
def State.answerLoads (s : State) (ctx obj : Nat) (r : Reply) : State :=
  let f (l : Link) : Link := if l.busy == some (1, ctx, obj) then { l with busy := some (r.status, r.cause, r.result) } else l
  s.modM fun m => { m with links := m.links.map f }

/-- The data objects of a container, in order, each under the lowest free id (R283). -/
def State.makeData (s : State) (ctx : Nat) : List (List Byte) → State × List Nat
  | [] => (s, [])
  | bs :: r => match (s.ctxOf ctx).bind s.freeObj with
    | none => s.makeData ctx r
    | some id =>
      let x := (s.makeObject ctx id false true bs).makeData ctx r
      (x.1, id :: x.2)

/-- A container that passed is installed. -/
def State.install (s : State) (x : Code) (f : Finalised) : State :=
  let d := s.makeData x.ctx f.data
  let y : Code := { x with st := .installed, kernels := f.kernels, data := d.2, image := [] }
  let s1 := ((d.1.makeObject x.ctx x.id true false f.code).modCode x.ctx x.id fun _ => y).answerLoads x.ctx x.id
    { result := packIds y.ids }
  if x.removeReq then s1.removeCode x.ctx x.id else s1

/-- R282: the finaliser passes every check of a container, or reports the first error it finds (R71). -/
def execFinaliseComplete (ctx : Nat) (obj : Nat) (s : State) : Host.Outcome State Fault Refusal :=
  .next <|
    match s.codeOf ctx obj with
    | none => s
    | some x =>
      if x.st != .checking then s
      else match finalise x.image with
        | .ok f => s.install x f
        | .error r =>
          let s1 := (s.modT fun t => { t with codes := t.codes.filter fun y => !(y.ctx == ctx && y.id == obj) }).answerLoads ctx
            obj (.loadError (r.toNat % 256))
          (s1.post ctx { src := 0, kind := 1, detail := r.toNat }).retireCtx ctx

end Sys2Proof.Machine
end

