-- ==== Sys2Proof/Machine/QueueCmd.lean ====
section
/-! DEFINITION. The commands on hardware queues (R261, R262), the filter table (R274) and the name route table (R360). -/

namespace Sys2Proof.Machine

def qdStore (d : Dword) : Nat := (d.extractLsb' 0 24).toNat
def qdLogn (d : Dword) : Nat := (d.extractLsb' 24 4).toNat

/-- A create is refused: a LOGN out of range, a queue that is not the paddock's (R389), a 65th queue of the context,
or a store that is no object of the context with room for the slots. DEDUCED: log entry 96. -/
def State.queueRefused (s : State) (c : Ctx) (q : Nat) (d : Dword) : Bool :=
  decide (qdLogn d < 4)
    || !((s.padOf c.pad).any fun p => p.qblk.getLsbD (q / 64))
    || decide (64 ≤ (s.t.queues.filter (·.ctx == c.id)).length)
    || !((c.objOf (qdStore d)).any fun o => !o.exo && decide (64 * 2 ^ qdLogn d ≤ o.size))

/-- The STATE of every slot of a queue's store becomes Void, as far as the store can be written (R266). -/
def State.voidStore (s : State) (q : Queue) : State :=
  (List.range (2 ^ q.logn)).foldl (fun s i =>
    let s := s.objSettle q.ctx q.store (64 * i + 34) 1
    match s.objRead q.ctx q.store (64 * i + 34) 1 with
    | some [b] => if b.extractLsb' 4 4 = 0 then s else s.objWrite q.ctx q.store (64 * i + 34) [b &&& 0x0F#8]
    | _ => s) s

/-- OP 0x20: a Free queue becomes Open, every slot free. -/
def serveCreateQueue (h : CmdHead) (q : Nat) (desc : Dword) (s : State) : Served :=
  checked h (fun s => onContext h (fun c =>
    if 1024 ≤ q || desc.extractLsb' 42 22 != 0 then (s, .badCommand)
    else if (s.queueOf q).isSome then (s, .ctxState)
    else if s.queueRefused c q desc then (s, .denied)
    else
      let x : Queue := { id := q, ctx := c.id, store := qdStore desc, logn := qdLogn desc, stopped := false, dying := false,
                         slots := [] }
      ((s.voidStore x).modT fun t => { t with queues := t.queues ++ [x] }, { result := q })) s) s

def execCreateQueue (h : CmdHead) (q : Nat) (desc : Dword) (s : State) : Host.Outcome State Fault Refusal :=
  .next (s.command h.link (.createQueue h q desc) (serveCreateQueue h q desc))

/-- Every record that is not Running becomes Cancelled; the queue is Free once none is Running (R262). DEDUCED: log entry 97. -/
def State.killQueue (s : State) (q : Queue) : State :=
  let s1 := q.slots.foldl (fun s x =>
    if x.free || x.state == tsRunning then s else s.putSlot q.id { x with state := tsCancelled }) s
  (s1.modQueue q.id fun q => { q with dying := true }).retireQueues

/-- OP 0x21. -/
def serveDestroyQueue (h : CmdHead) (q : Nat) (s : State) : Served :=
  checked h (fun s => onContext h (fun c => match s.liveQueue q with
    | none => (s, .ctxState)
    | some x => if x.ctx != c.id || x.dying then (s, .ctxState) else (s.killQueue x, .done)) s) s

def execDestroyQueue (h : CmdHead) (q : Nat) (s : State) : Host.Outcome State Fault Refusal :=
  .next (s.command h.link (.destroyQueue h q) (serveDestroyQueue h q))

/-- OP 0x22: a filter entry, its bucket full; one with V clear is not listed. -/
def serveWriteFilterEntry (h : CmdHead) (idx : Nat) (ent : Dword) (s : State) : Served :=
  checked h (fun s =>
    if 1024 ≤ idx || ent.extractLsb' 54 10 != 0 then (s, .badCommand)
    else
      let others := s.t.filter.filter (·.idx != idx)
      let l := if feValid ent then sortBy (fun a b => decide (a.idx ≤ b.idx)) (⟨idx, ent, feBurst ent⟩ :: others) else others
      (s.modT fun t => { t with filter := l }, .done)) s

def execWriteFilterEntry (h : CmdHead) (idx : Nat) (ent : Dword) (s : State) : Host.Outcome State Fault Refusal :=
  .next (s.command h.link (.writeFilterEntry h idx ent) (serveWriteFilterEntry h idx ent))

/-- A node that a route entry may name: this package's, where a paddock of the realm is here; whether another node's
Stile holds one is not this package's state. DESIGN CHOICE: log entry 99. -/
def State.realmAt (s : State) (realm node : Nat) : Bool × State :=
  if node = s.node then (s.m.paddocks.any (·.realm == realm), s) else s.drawBit

/-- OP 0x23: a route entry; two valid entries of equal REALM, PLEN and PREFIX are refused. DESIGN CHOICE: log entry 99. -/
def serveWriteRouteEntry (h : CmdHead) (idx : Nat) (ent : BitVec 128) (s : State) : Served :=
  checked h (fun s =>
    let others := s.t.routes.filter (·.1 != idx)
    if 65536 ≤ idx || ent.extractLsb' 116 12 != 0 || decide (72 < routePlen ent) then (s, .badCommand)
    else if !ent.getLsbD 79 then (s.modT fun t => { t with routes := others }, .done)
    else if others.any fun r => r.2.extractLsb' 0 79 == ent.extractLsb' 0 79 && r.2.extractLsb' 80 16 == ent.extractLsb' 80 16 then
      (s, .denied)
    else
      let r := s.realmAt (ent.extractLsb' 80 16).toNat (ent.extractLsb' 96 20).toNat
      if r.1 then (r.2.modT fun t => { t with routes := others ++ [(idx, ent)] }, .done) else (r.2, .denied)) s

def execWriteRouteEntry (h : CmdHead) (idx : Nat) (ent : BitVec 128) (s : State) : Host.Outcome State Fault Refusal :=
  .next (s.command h.link (.writeRouteEntry h idx ent) (serveWriteRouteEntry h idx ent))

end Sys2Proof.Machine
end

