-- ==== Sys2Proof/Machine/Paddock.lean ====
section
/-! DEFINITION. Paddocks: descriptors and their rules (R387, R388), the life cycle (R390, R391), clusters that change
hands (R392), and resizing and core removal (R393). -/

namespace Sys2Proof.Machine

/-! ## Descriptors (R387) -/

/-- The host fields of a descriptor, as a paddock that owns no cluster yet. -/
def padOfDesc (id : Nat) (d : BitVec 512) : Paddock :=
  let f (lo w : Nat) : Nat := (d.extractLsb' lo w).toNat
  let dgib := (List.range 4).map fun i => f (224 + 8 * i) 8
  { id := id, st := .live, imp := false, borrow := d.getLsbD 4, dbg := d.getLsbD 5, rank := 0, realm := f 16 16,
    gcnt := f 32 5, mcnt := f 37 5, gset := 0, slices := d.extractLsb' 72 32, pens := d.extractLsb' 104 4,
    relays := d.extractLsb' 108 4, lgrp := d.extractLsb' 112 72, ishare := f 184 9, fold := f 200 5,
    qblk := d.extractLsb' 208 16, dgib := dgib, cxl := f 256 8, dwt := f 264 8,
    keys := List.replicate 4 ⟨.empty, 0, 0⟩, hgcnt := f 32 5, hdgib := dgib, drain := none, wantLive := false,
    rewrap := [], carve := 0, tenant := [] }

def PadSt.code : PadSt → Nat
  | .live => 1
  | .stopping => 2
  | .stopped => 3
  | .ending => 4

/-- The host fields of a paddock at their places (R387, R431). DESIGN CHOICE: log entry 86. -/
def Paddock.hostBits (p : Paddock) : Nat :=
  p.borrow.toNat * 2 ^ 4 + p.dbg.toNat * 2 ^ 5 + p.realm * 2 ^ 16 + p.gcnt * 2 ^ 32 + p.mcnt * 2 ^ 37
    + p.slices.toNat * 2 ^ 72 + p.pens.toNat * 2 ^ 104 + p.relays.toNat * 2 ^ 108 + p.lgrp.toNat * 2 ^ 112
    + p.ishare * 2 ^ 184 + p.fold * 2 ^ 200 + p.qblk.toNat * 2 ^ 208
    + ((p.dgib.zipIdx.map fun x => x.1 * 2 ^ (224 + 8 * x.2)).sum) + p.cxl * 2 ^ 256 + p.dwt * 2 ^ 264

/-- The whole descriptor of a paddock (R387). -/
def Paddock.descBits (p : Paddock) : Nat :=
  p.hostBits + p.st.code + p.imp.toNat * 2 ^ 3 + p.rank * 2 ^ 8 + p.gset.toNat * 2 ^ 48

/-- A reserved bit of a descriptor is set. -/
def descReserved (d : BitVec 512) : Bool :=
  d.extractLsb' 6 2 != 0 || d.extractLsb' 11 5 != 0 || d.extractLsb' 42 6 != 0 || d.extractLsb' 193 7 != 0
    || d.extractLsb' 205 3 != 0 || d.extractLsb' 272 240 != 0

/-- Every host field lies in its range. -/
def Paddock.inRange (p : Paddock) : Bool :=
  p.realm != 0 && decide (1 ≤ p.gcnt) && decide (p.gcnt ≤ 24) && decide (p.mcnt ≤ p.gcnt) && decide (p.ishare ≤ 256)
    && decide (p.fold ≤ 16) && p.dgib.all (fun n => decide (n ≤ 96)) && decide (p.cxl ≤ 128) && p.dwt != 0

/-! ## What is healthy (R388, R394) -/

def State.healthyClusters (s : State) : List Nat := (List.range Config.clusters).filter s.healthy

/-- DRAM of a die in GiB, less its retired channels; addresses stand in 64 KiB units. DEDUCED: log entry 81. -/
def State.healthyGib (s : State) (die : Nat) : Nat :=
  96 - ((s.m.chansOut.filter (·.1 == die)).map fun c => (c.2.2 + 16383) / 16384).sum

/-- CXL memory in units of 64 GiB: 2 TiB on each of four ports. DEDUCED: log entry 82. -/
def State.healthyCxl (s : State) : Nat := 128 - 32 * s.m.cxlDown.eraseDups.length

/-- The rules of R388 for a paddock beside the others. DEDUCED: log entry 130. -/
def State.padOk (s : State) (p : Paddock) : Bool :=
  let others := s.m.paddocks.filter (·.id != p.id)
  let all := p :: others
  let total (f : Paddock → Nat) : Nat := (all.map f).sum
  let apart {n : Nat} (f : Paddock → BitVec n) : Bool := others.all fun q => f p &&& f q == 0
  let onDies : Bool := (List.range 4).all fun d => (p.slices.extractLsb' (8 * d) 8) != 0
  let dram : Bool := (List.range 4).all fun d => decide (total (fun q => q.dgib.getD d 0) ≤ s.healthyGib d)
  let pens := ((List.range 4).filter p.pens.getLsbD).length
  p.inRange && others.all (fun q => q.realm != p.realm) && onDies && apart (·.slices) && apart (·.pens) && apart (·.relays)
    && apart (·.lgrp) && apart (·.qblk) && decide (total (·.ishare) ≤ 256) && dram && decide (total (·.cxl) ≤ s.healthyCxl)
    && decide (2 * p.fold + pens ≤ 2 * p.dgib.sum) && decide (total (·.gcnt) ≤ s.healthyClusters.length)

/-! ## Clusters given and taken (R392, R393) -/

/-- A healthy cluster that no paddock holds. -/
def State.unheld (s : State) (c : Nat) : Bool := s.healthy c && !(s.m.paddocks.any (·.owns c))

/-- One cluster more for a paddock: an idle one, else one that another leaves or is made to leave (R393). It serves
its new owner once that is done. DESIGN CHOICE: log entry 74. -/
def State.giveCluster (s : State) (pad : Nat) : State :=
  let idle (c : Nat) : Bool := s.unheld c && (s.borrowerOf c).isNone && !s.changing c
  match ((List.range Config.clusters).find? idle).or ((List.range Config.clusters).find? s.unheld) with
  | some c => (s.revoke c).modPad pad fun p => { p with gset := p.gset ||| 1#24 <<< c }
  | none => s

def Paddock.held (p : Paddock) : Nat := ((List.range Config.clusters).filter p.owns).length

/-- Clusters given until the paddock holds its guarantee, or nothing is left. -/
def State.fillSet (s : State) (pad : Nat) : State :=
  match s.padOf pad with
  | some p => (List.range (p.gcnt - p.held)).foldl (fun s _ => s.giveCluster pad) s
  | none => s

/-- A cluster leaves a paddock's GSET; who runs on it has to leave it. DESIGN CHOICE: log entry 74. -/
def State.takeCluster (s : State) (pad c : Nat) : State :=
  let s1 := (s.revoke c).modPad pad fun p => { p with gset := p.gset &&& ~~~(1#24 <<< c) }
  if s1.changing c then s1
  else s1.modM fun m => { m with revokes := m.revokes ++ [⟨c, pad, some (s.now + drainTime)⟩] }

/-- The clusters above the guarantee leave: those that the command names, then the highest-numbered (R393). -/
def State.trimSet (s : State) (pad : Nat) (drop : BitVec 24) : State :=
  match s.padOf pad with
  | some p =>
    let own := ((List.range Config.clusters).filter p.owns).reverse
    let order := own.filter drop.getLsbD ++ own.filter fun c => !drop.getLsbD c
    (order.take (own.length - p.gcnt)).foldl (fun s c => s.takeCluster pad c) s
  | none => s

/-- Every borrowed cluster of an owner is revoked. -/
def State.revokeAll (s : State) (p : Paddock) : State :=
  ((List.range Config.clusters).filter fun c => p.owns c && (s.borrowerOf c).any (· != p.id)).foldl (fun s c => s.revoke c) s

/-! ## Live `.cohabit` grids (R290, R393) -/

/-- The contexts of a paddock. -/
def State.ctxsOf (s : State) (pad : Nat) : List Nat := (s.t.ctxs.filter fun c => c.pad == pad && c.st != .free).map (·.id)

/-- The positions of a paddock on its cores. -/
def State.placedIn (s : State) (pad : Nat) : List Position :=
  s.c.positions.filter fun p => (p.st == .resident || p.st == .stopping) && s.padOfCtx p.ctx == pad

/-- One instance placed on the clusters of a paddock beside what is there. -/
def State.tryInstance (s : State) (k : Kernel) (g : Grid) (c : Ctx) (pd : Paddock) (lin : Nat) (locs : List Nat) : Option State :=
  let n := k.need g.nwarp
  ((s.clustersOf pd).find? fun x => (s.coresFor n locs.length x).isSome).bind fun x =>
    (s.coresFor n locs.length x).map fun cores =>
      (locs.zip cores).foldl (fun s y => s.putPosition k g c lin y.1 y.2 [] []) s

/-- The `.cohabit` grids of a paddock that are live. DEDUCED: log entry 75. -/
def State.cohabits (s : State) (pad : Nat) : List (Grid × Kernel) :=
  (s.c.grids.filter fun g => g.live && s.padOfCtx g.ctx == pad).filterMap fun g =>
    (s.kernel? g).bind fun k => if k.cohab then some (g, k) else none

/-- The part of a grid that has not ended: instances with the local ids of their positions. -/
def State.unended (s : State) (g : Grid) : List (Nat × List Nat) :=
  (s.c.insts.filter fun i => i.ctx == g.ctx && i.grid == g.id).map fun i =>
    (i.lin, (s.instPositions g.ctx g.id i.lin).map (·.loc))

/-- The grids of some that cannot be wholly resident on the paddock's clusters as `s` has them; `old` says what runs. DEDUCED: log entry 75. -/
def State.misfits (old s : State) (pad : Nat) : List Grid :=
  let bare := s.modC fun c => { c with positions := c.positions.filter fun p => s.padOfCtx p.ctx != pad }
  match s.padOf pad with
  | none => []
  | some pd =>
    ((old.cohabits pad).foldl (fun (x : State × List Grid) gk =>
      let place (s : Option State) (i : Nat × List Nat) : Option State :=
        s.bind fun s => (s.ctxOf gk.1.ctx).bind fun c => s.tryInstance gk.2 gk.1 c pd i.1 i.2
      match (old.unended gk.1).foldl place (some x.1) with
      | some s1 => (s1, x.2)
      | none => (x.1, x.2 ++ [gk.1])) (bare, [])).2

/-- Of grids that this package cannot hold whole, those whose drove has other members may stay: what a member can hold is not
this package's state. DESIGN CHOICE: log entry 89. -/
def State.unplaceable (s : State) : List Grid → List Grid × State
  | [] => ([], s)
  | g :: gs =>
    let (w, s1) := if g.drove.length ≤ 1 then ((0 : Word), s) else s.drawWord
    let (bad, s2) := s1.unplaceable gs
    (if w == 0 then g :: bad else bad, s2)

/-! ## Create, resize (R388, R390, R393) -/

/-- OP 0x30: a paddock, with the tenant key that signs its key commands (R430). -/
def servePaddockCreate (h : CmdHead) (d : PadOrder) (s : State) : Served :=
  checked h (fun s =>
    let id := h.pad.toNat
    if (s.padOf id).isSome then (s, .paddockState)
    else
      let p := padOfDesc id d.desc
      if descReserved d.desc || !s.padOk p then (s, .paddockBad)
      else
        let s1 := s.modM fun m => { m with paddocks := m.paddocks ++ [
            { p with rank := m.paddocks.length, carve := s.freeUnits p.carveUnits, tenant := d.tenant }] }
        (s1.fillSet id, .done)) s

def execPaddockCreate (h : CmdHead) (d : PadOrder) (s : State) : Host.Outcome State Fault Refusal :=
  .next (s.command h.link (.paddockCreate h d) (servePaddockCreate h d))

/-- The descriptor a resize would produce: the host fields but for REALM are new. IMP clears when the guarantee that
the host last gave is restored (R395). -/
def Paddock.resized (p : Paddock) (d : BitVec 512) : Paddock :=
  let q := padOfDesc p.id d
  let whole : Bool := decide (p.hgcnt ≤ q.gcnt) && (p.hdgib.zip q.dgib).all fun x => decide (x.1 ≤ x.2)
  { q with st := p.st, imp := p.imp && !whole, rank := p.rank, realm := p.realm, gset := p.gset, keys := p.keys,
           drain := p.drain, wantLive := p.wantLive, rewrap := p.rewrap, carve := p.carve, tenant := p.tenant }

/-- A resize that changes what is carved: the fold and the pen objects lie elsewhere, and the tiles that a smaller fold cannot keep
are evicted. DESIGN CHOICE: log entry 166. -/
def State.recarve (s : State) (p q : Paddock) : State :=
  if p.carveUnits = q.carveUnits then s
  else
    let s1 := s.modPad p.id fun x => { x with carve := (s.modPad p.id fun y => { y with fold := 0, pens := 0 }).freeUnits q.carveUnits }
    ((s1.makeRoom p.id 0 (s1.t.folds.length + 1)).getD s1).packFold p.id

/-- OP 0x31; the command may name the clusters that leave (R393). -/
def servePaddockResize (h : CmdHead) (d : PadChange) (s : State) : Served :=
  checked h (fun s =>
    match s.padOf h.pad.toNat with
    | none => (s, .paddockState)
    | some p =>
      if p.st == .stopping || p.st == .ending then (s, .paddockState)
      else
        let q := p.resized d.desc
        if descReserved d.desc || !s.padOk q then (s, .paddockBad)
        else
          let s1 := ((((s.revokeAll p).modPad p.id fun _ => q).trimSet p.id d.drop).fillSet p.id).recarve p q
          let (bad, s2) := s1.unplaceable (s.misfits s1 p.id)
          if bad.isEmpty then (s2, .done) else (s, .resizeCohabit)) s

def execPaddockResize (h : CmdHead) (d : PadChange) (s : State) : Host.Outcome State Fault Refusal :=
  .next (s.command h.link (.paddockResize h d) (servePaddockResize h d))

/-! ## Stop and start (R391) -/

/-- A thread that the Stile refuses for back-pressure at a `fab`-class instruction (R311). -/
def Thread.refused (t : Thread) (sc : StageCode) : Bool :=
  (t.st == .stalled (some .backPressure) || t.st == .parked .backPressure) && hdrEng (sc.header t) == 4

/-- A thread that a packet holds, or that waits where a packet left it. -/
def Thread.underWay (t : Thread) : Bool :=
  match t.st with
  | .packed | .stalled _ | .parked _ => true
  | _ => false

/-- The threads of a position, each with the code of its stage. -/
def State.threadsOf (s : State) (p : Position) : List (StageCode × Thread) :=
  p.blocks.flatMap fun b => match s.stage? p b.stage with
    | some sc => b.warps.flatMap fun w => w.threads.map fun t => (sc, t)
    | none => []

/-- A position whose packets are all Stalled or Parked on a `fab` instruction that the Stile refuses (R311). DEDUCED: log entry 76. -/
def State.backPressed (s : State) (p : Position) : Bool :=
  let ts := s.threadsOf p
  (ts.any fun x => x.2.refused x.1) && ts.all fun x => if x.2.underWay then x.2.refused x.1 else !p.eligible x.1 x.2

/-- The instruction that a thread stands at. -/
def StageCode.instrAt (sc : StageCode) (t : Thread) : Option Instr :=
  (sc.wordAt (t.pc + 8 * (t.idx + 1))).bind fun w => (decodeIn (hdrScl (sc.header t)) w).toOption

/-- Some thread of a paddock is refused at an instruction of a kind. -/
def State.refusedAt (s : State) (pad : Nat) (kind : Instr → Bool) : Bool :=
  (s.placedIn pad).any fun p => (s.threadsOf p).any fun x => x.2.refused x.1 && (x.1.instrAt x.2).any kind

def isSend : Instr → Bool
  | .send _ _ _ => true
  | _ => false
def isRecv : Instr → Bool
  | .recv _ _ _ => true
  | _ => false
def isRelay : Instr → Bool
  | .relay _ _ _ _ _ => true
  | _ => false
def isAnnc : Instr → Bool
  | .annc _ _ _ _ => true
  | _ => false
def isPpost : Instr → Bool
  | .ppost _ _ _ _ => true
  | _ => false

/-- An operation that only a refused instruction would bring to its end: a message of this node to itself whose other side has
not come, a relay that other dies have yet to join, an ask that nothing answers yet, a pen slot that waits for posts. DEDUCED: log
entry 76. -/
def State.needsRefused (s : State) (pad : Nat) (o : EngOp) : Bool :=
  match o.kind with
  | .recv _ _ => (s.t.recvs.any fun m => m.op == o.id && m.key.src == s.node && (s.sendFor m.key).isNone) && s.refusedAt pad isSend
  | .send _ _ => (s.t.sends.any fun m => m.op == o.id && m.key.dst == s.node && (s.recvFor m.key).isNone) && s.refusedAt pad isRecv
  | .relay .. => (s.relayOfOp o.id).any (·.prog.isEmpty) && s.refusedAt pad isRelay
  | .ask .. => !(s.t.deliveries.any (·.op == o.id)) && s.refusedAt pad isAnnc
  | .slot pen idx => (s.penSlot pen idx).st == .opened && s.refusedAt pad isPpost
  | _ => false

/-- The tags that a thread waits on. -/
def Thread.tagWaits (t : Thread) (sc : StageCode) : List Nat :=
  match t.st with
  | .parked (.tagsAll l) | .parked (.tagsAny l) => l
  | .ready => if t.mid then [] else hdrTags (sc.header t)
  | _ => []

/-- A position that waits on a tag that only a refused instruction would complete (R311), while nothing else of it goes on. -/
def State.waitsRefused (s : State) (pad : Nat) (p : Position) : Bool :=
  let ts := s.threadsOf p
  let held (i : Nat) : Bool := !p.tagDone i && (s.c.ops.filter fun o => o.pos == p.id && o.tags.contains i).all (s.needsRefused pad)
  (ts.any fun x => (x.2.tagWaits x.1).any held) && ts.all fun x => x.2.st == .exited || x.2.blocked p x.1

/-- What back-pressure holds in a paddock that stops is discarded at once (R311). -/
def State.dropPressed (s : State) (pad : Nat) : State :=
  ((s.placedIn pad).filter fun p => s.backPressed p || s.waitsRefused pad p).foldl (fun s p => s.discard p.id) s

/-- The stops under way, after a step. -/
def State.stops (s : State) : State :=
  (s.m.paddocks.filter (·.st == .stopping)).foldl (fun s p => s.dropPressed p.id) s

/-- OP 0x32: the paddock drains; what back-pressure holds is discarded at once. DEDUCED: log entry 76. -/
def servePaddockStop (h : CmdHead) (s : State) : Served :=
  checked h (fun s =>
    match s.padOf h.pad.toNat with
    | none => (s, .paddockState)
    | some p => match p.st with
      | .live =>
        let s1 := s.modPad p.id fun p => { p with st := .stopping, drain := some (s.now + drainTime), wantLive := false }
        (s1.dropPressed p.id, .done)
      | .stopping | .stopped => (s, .done)
      | .ending => (s, .paddockState)) s

def execPaddockStop (h : CmdHead) (s : State) : Host.Outcome State Fault Refusal :=
  .next (s.command h.link (.paddockStop h) (servePaddockStop h))

/-- A paddock is Live again: its held launches go on. -/
def State.startPad (s : State) (pad : Nat) : State :=
  (s.ctxsOf pad).foldl (fun s c => s.serveHeld c) (s.modPad pad fun p => { p with st := .live, wantLive := false })

/-- R391: the drain of a stop ends, at 200 µs or once nothing is resident. -/
def execStopDrainExpiry (pad : Nat) (s : State) : Host.Outcome State Fault Refusal :=
  .next <|
    match s.padOf pad with
    | none => s
    | some p =>
      if p.st != .stopping then s
      else
        let ps := s.placedIn pad
        let s1 := if ps.isEmpty then s else ps.foldl (fun s x => s.discard x.id) (s.at (p.drain.getD s.now))
        let s2 := s1.modPad pad fun p => { p with st := .stopped, drain := none }
        if p.wantLive then s2.startPad pad else s2

/-- OP 0x33. -/
def servePaddockStart (h : CmdHead) (s : State) : Served :=
  checked h (fun s =>
    match s.padOf h.pad.toNat with
    | none => (s, .paddockState)
    | some p => match p.st with
      | .live => (s, .done)
      | .stopping => (s.modPad p.id fun p => { p with wantLive := true }, .done)
      | .stopped => (s.startPad p.id, .done)
      | .ending => (s, .paddockState)) s

def execPaddockStart (h : CmdHead) (s : State) : Host.Outcome State Fault Refusal :=
  .next (s.command h.link (.paddockStart h) (servePaddockStart h))

/-! ## Destroy, and the hand-over of clusters (R390, R392) -/

/-- Bytes of some lines that no key deciphers any more: they read as values the manual leaves open. DESIGN CHOICE: log entry 68. -/
def State.loseLine (s : State) (line : Nat) : State :=
  (List.range 64).foldl (fun s i =>
    let (b, s1) := s.drawByte
    s1.devWrite (64 * line + i) [b]) s

/-- As many open words as a list has. -/
def State.loseWords (s : State) : List Word → List Word × State
  | [] => ([], s)
  | _ :: l =>
    let (w, s1) := s.drawWord
    let (ws, s2) := s1.loseWords l
    (w :: ws, s2)

/-- The contributions of a pen slot lost: they read as values the manual leaves open. DESIGN CHOICE: log entry 68. -/
def State.loseStaged (s : State) (x : PenSlot) : State :=
  x.staged.foldl (fun s c =>
    let (l, s1) := s.loseWords c.2
    s1.modT fun t => { t with pens := upd (·.is x.pen x.idx) (fun y =>
      { y with staged := y.staged.map fun d => if d.1 = c.1 then (c.1, l) else d }) t.pens }) s

/-- Pen slots and fold tiles that stand under a key slot of a paddock. -/
def State.pensUnder (s : State) (pad slot : Nat) : List PenSlot :=
  s.t.pens.filter fun x => x.keys.contains slot && (s.penPad x.pen).any (·.id == pad)

/-- The lines under a key slot whose key is gone; a fold tile there is as if it had never been held. DESIGN CHOICE: log entry 68. -/
def State.loseLines (s : State) (pad slot : Nat) : State :=
  let ls := s.c.lineKey.filter fun k => k.2.1 == pad && k.2.2 == slot
  let s1 := (ls.foldl (fun s k => s.loseLine k.1) s).modC fun c =>
    { c with lineKey := c.lineKey.filter fun k => !(k.2.1 == pad && k.2.2 == slot) }
  let s2 := (s1.pensUnder pad slot).foldl (fun s x => s.loseStaged x) s1
  s2.modT fun t => { t with folds := t.folds.filter fun f => !(f.pad == pad && f.key == some slot) }

/-- The hardware pens and relay engines of a paddock, by number. -/
def bitsSet {n : Nat} (b : BitVec n) : List Nat := (List.range n).filter b.getLsbD

/-- A paddock that is left by every context and whose clusters are scrubbed is Absent: pens, fold and interests are
cleared, its keys are gone, later RANKs fall. DEDUCED: log entry 77. -/
def State.endPad (s : State) (p : Paddock) : State :=
  let s1 := (List.range 4).foldl (fun s k => s.loseLines p.id k) s
  let pens := bitsSet p.pens
  let s2 := s1.modT fun t =>
    { t with pens := t.pens.filter fun x => !pens.contains x.pen
             heldPosts := t.heldPosts.filter fun x => !pens.contains x.pen
             folds := t.folds.filter (·.pad != p.id)
             interests := t.interests.filter (·.pad != p.id)
             deliveries := t.deliveries.filter (·.pad != p.id)
             ports := t.ports.map fun x => { x with replay := x.replay.filter (·.2.pad != p.id) }
             streams := t.streams.filter (·.pad != p.id)
             ctl := t.ctl.filter (·.pad != p.id)
             credits := t.credits.filter (·.1.pad != p.id) }
  s2.modM fun m =>
    { m with paddocks := (m.paddocks.filter (·.id != p.id)).map fun q =>
               if p.rank < q.rank then { q with rank := q.rank - 1 } else q }

/-- Ending paddocks whose contexts are all Free and that hold no cluster. DEDUCED: log entry 77. -/
def State.sweepPads (s : State) : State :=
  let done := s.m.paddocks.filter fun p => p.st == .ending && (s.ctxsOf p.id).isEmpty && p.held == 0
    && !(s.m.borrowed.any (·.2 == p.id))
  done.foldl (fun s p => match s.padOf p.id with
    | some p => s.endPad p
    | none => s) s

/-- OP 0x34. -/
def servePaddockDestroy (h : CmdHead) (s : State) : Served :=
  checked h (fun s =>
    match s.padOf h.pad.toNat with
    | none => (s, .paddockState)
    | some p => match p.st with
      | .ending => (s, .done)
      | .live | .stopping | .stopped =>
        let s1 := (s.revokeAll p).modPad p.id fun p => { p with st := .ending, drain := none, wantLive := false }
        (((s1.ctxsOf p.id).foldl (fun s c => s.destroyCtx c) s1).sweepPads, .done)) s

def execPaddockDestroy (h : CmdHead) (s : State) : Host.Outcome State Fault Refusal :=
  .next (s.command h.link (.paddockDestroy h) (servePaddockDestroy h))

/-- A cluster whose scrub ends: what is on it is gone, and it is handed back, or given back unused. -/
def State.scrubbed (s : State) (c : Nat) : State :=
  let s1 := s.clearTlb c
  match s.m.revokes.find? (·.cluster == c) with
  | some r =>
    if r.drain.isNone then
      s1.modM fun m => { m with revokes := m.revokes.filter (·.cluster != c)
                                borrowed := m.borrowed.filter fun x => !(x.1 == c && x.2 == r.user) }
    else s
  | none => match s.borrowerOf c with
    | some b => if s.padOnCluster b c then s else s1.modM fun m => { m with borrowed := m.borrowed.filter (·.1 != c) }
    | none => match s.m.paddocks.find? fun p => p.owns c && p.st == .ending && (s.ctxsOf p.id).isEmpty with
      | some p => s1.modPad p.id fun p => { p with gset := p.gset &&& ~~~(1#24 <<< c) }
      | none => s

/-- R392: the scrub of a revoked, removed or released cluster ends. -/
def execScrubComplete (cluster : Nat) (s : State) : Host.Outcome State Fault Refusal := .next (s.scrubbed cluster).sweepPads

/-! ## One core taken out (R393) -/

/-- A core out of service: nothing more is placed on it. -/
def State.coreOut (s : State) (core : Nat) : State :=
  (s.modCore core fun c => { c with usable := false }).modM fun m =>
    { m with coresOut := if m.coresOut.contains core then m.coresOut else m.coresOut ++ [core] }

/-- OP 0x35: a core of the paddock's clusters. DEDUCED: log entry 78. -/
def serveRemoveCore (h : CmdHead) (core : Nat) (s : State) : Served :=
  checked h (fun s =>
    match s.padOf h.pad.toNat with
    | none => (s, .paddockState)
    | some p =>
      if p.st == .ending then (s, .paddockState)
      else if !(decide (core < Config.cores) && p.owns (clusterOf core)) then (s, .denied)
      else if s.m.coresOut.contains core then (s, .done)
      else
        let s1 := s.coreOut core
        if (s.misfits s1 p.id).isEmpty then
          (s1.modM fun m => { m with coreDrain := m.coreDrain ++ [(core, s.now + drainTime)] }, .done)
        else (s, .resizeCohabit)) s

def execRemoveCore (h : CmdHead) (core : Nat) (s : State) : Host.Outcome State Fault Refusal :=
  .next (s.command h.link (.removeCore h core) (serveRemoveCore h core))

/-- R393: the drain of a removed core ends. -/
def execCoreRemovalDrainExpiry (core : Nat) (s : State) : Host.Outcome State Fault Refusal :=
  .next <|
    match s.m.coreDrain.find? (·.1 == core) with
    | none => s
    | some d =>
      let ps := s.posOn core
      let s1 := if ps.isEmpty then s else ps.foldl (fun s p => s.discard p.id) (s.at d.2)
      s1.modM fun m => { m with coreDrain := m.coreDrain.filter (·.1 != core) }

end Sys2Proof.Machine
end

