-- ==== Sys2Proof/Machine/Keys.lean ====
section
/-! DEFINITION. The key commands (R396, R397, R430). -/

namespace Sys2Proof.Machine

/-- A key slot of a paddock changed. -/
def Paddock.modKey (p : Paddock) (slot : Nat) (f : KeySlot → KeySlot) : Paddock :=
  { p with keys := p.keys.mapIdx fun i k => if i = slot then f k else k }

/-- The paddock of a key command. DEDUCED: log entry 78. -/
def onPaddock (h : CmdHead) (serve : Paddock → Served) (s : State) : Served :=
  match s.padOf h.pad.toNat with
  | some p => serve p
  | none => (s, .paddockState)

/-- A slot becomes Active for a domain; the domain's Active slot until now becomes Old. -/
def Paddock.install (p : Paddock) (slot dom : Nat) : Paddock :=
  let old : Paddock := { p with keys := p.keys.map fun k => if k.st == .active && k.dom == dom then { k with st := .old } else k }
  { old.modKey slot (fun k => ⟨.active, dom, (k.kgen + 1) % 2 ^ 28⟩) with rewrap := p.rewrap.filter (· != slot) }

/-- The command as its tenant signs it: paddock, slot, domain, and the encapsulated key. DESIGN CHOICE: log entry 73. -/
def installText (pad slot dom : Nat) (wrapped : List Byte) : List Byte :=
  [BitVec.ofNat 8 pad, BitVec.ofNat 8 slot, BitVec.ofNat 8 dom] ++ wrapped

/-- OP 0x36: the key is encapsulated under the device's key, and the command signed by the paddock's tenant (R430). DEDUCED: log entry 69. -/
def serveKeyInstall (h : CmdHead) (slot dom : Nat) (k : KeyOrder) (s : State) : Served :=
  checked h (fun s => onPaddock h (fun p =>
    if 3 < slot || 2 < dom then (s, .badCommand)
    else if !Config.falcon p.tenant k.sig (installText p.id slot dom k.wrapped) || !Config.kemOpens Config.kemKey k.wrapped then (s, .denied)
    else ((s.loseLines p.id slot).modPad p.id (·.install slot dom), .done)) s) s

def execKeyInstall (h : CmdHead) (slot : Nat) (dom : Nat) (k : KeyOrder) (s : State) :
    Host.Outcome State Fault Refusal :=
  .next (s.command h.link (.keyInstall h slot dom k) (serveKeyInstall h slot dom k))

/-- OP 0x37: an Old slot whose domain has an Active key. DEDUCED: log entry 69. -/
def serveKeyRewrap (h : CmdHead) (slot : Nat) (s : State) : Served :=
  checked h (fun s => onPaddock h (fun p =>
    if 3 < slot then (s, .badCommand)
    else match p.keys[slot]? with
      | some k =>
        if k.st == .old && (p.activeKey k.dom).isSome then
          (s.modPad p.id fun p => { p with rewrap := if p.rewrap.contains slot then p.rewrap else p.rewrap ++ [slot] }, .done)
        else (s, .denied)
      | none => (s, .denied)) s) s

def execKeyRewrap (h : CmdHead) (slot : Nat) (s : State) : Host.Outcome State Fault Refusal :=
  .next (s.command h.link (.keyRewrap h slot) (serveKeyRewrap h slot))

/-- Pens and folds of a paddock rewritten from one key slot to another. -/
def State.rewrapStile (s : State) (pad slot a : Nat) : State :=
  let mine := s.pensUnder pad slot
  s.modT fun t =>
    { t with
      folds := upd (fun f => f.pad == pad && f.key == some slot) (fun f => { f with key := some a }) t.folds
      pens := upd (fun x => mine.contains x) (fun x => { x with keys := x.keys.map fun k => if k = slot then a else k }) t.pens }

/-- R397: the rewrap of an Old slot ends: its lines stand under the Active key, and the slot is Empty. -/
def execRewrapDone (pad : Nat) (slot : Nat) (s : State) : Host.Outcome State Fault Refusal :=
  .next <|
    match s.padOf pad with
    | none => s
    | some p =>
      match p.keys[slot]? with
      | none => s
      | some k =>
        match p.activeKey k.dom with
        | some a =>
          if p.rewrap.contains slot && k.st == .old then
            ((if k.dom = 0 then s.rewrapStile pad slot a else s).modC fun c => { c with lineKey := c.lineKey.map fun x =>
                if x.2.1 == pad && x.2.2 == slot then (x.1, pad, a) else x }).modPad pad fun p =>
              { p.modKey slot (fun k => { k with st := .empty }) with rewrap := p.rewrap.filter (· != slot) }
          else s
        | none => s

/-- A flit in a replay buffer that a key slot of a paddock sealed. -/
def sealedBy (pad slot : Nat) (f : Flit) : Bool := f.pad == pad && f.sealKey == some slot

/-- A flit of a message, or of its credit or acknowledgement, which goes the other way. -/
def flitOf (f : Flit) (k : MsgKey) : Bool :=
  f.pad == k.pad && f.chan == k.chan && f.msg == k.num
    && ((f.snode == k.src && f.dnode == k.dst) || (f.snode == k.dst && f.dnode == k.src))

/-- Flits sealed under a revoked fabric key are discarded, and their messages complete with KEY_REVOKED; when it was the
Active key, so do the messages that are still to be sealed. DEDUCED: log entry 69. -/
def State.revokeFabric (s : State) (pad slot : Nat) (active : Bool) : State :=
  let gone := s.t.ports.flatMap fun p => (p.replay.map (·.2)).filter (sealedBy pad slot)
  let s1 := s.modT fun t =>
    { t with ports := t.ports.map fun p => 
      let dead (x : Nat × Nat × List Byte) : Bool := p.replay.any fun f => sealedBy pad slot f.2 && f.1 == x.1 && f.2.sq == x.2.1
      { p with replay := p.replay.filter fun f => !sealedBy pad slot f.2, line := p.line.filter fun x => !dead x } }
  s1.cutMessages .keyRevoked fun k node => k.pad == pad && node != s.node && (active || gone.any fun f => flitOf f k)

/-- OP 0x38: the slot is Revoked at once. -/
def serveKeyRevoke (h : CmdHead) (slot : Nat) (s : State) : Served :=
  checked h (fun s => onPaddock h (fun p =>
    if 3 < slot then (s, .badCommand)
    else
      let s1 := s.modPad p.id fun p =>
        { p.modKey slot (fun k => { k with st := .revoked }) with rewrap := p.rewrap.filter (· != slot) }
      match p.keys[slot]? with
      | some k => (if k.dom == 2 then s1.revokeFabric p.id slot (k.st == .active) else s1, .done)
      | none => (s1, .done)) s) s

def execKeyRevoke (h : CmdHead) (slot : Nat) (s : State) : Host.Outcome State Fault Refusal :=
  .next (s.command h.link (.keyRevoke h slot) (serveKeyRevoke h slot))

end Sys2Proof.Machine
end

