-- ==== Sys2Proof/Machine/Objects.lean ====
section
/-! DEFINITION. The commands on objects and their extents (R324 to R329) and the host's copies (R454). Offsets and
addresses of pages are in units of 64 KiB, as an extent record holds them. -/

namespace Sys2Proof.Machine

/-! ## Extents and pages (R326) -/

def pageUnits (psz : Nat) : Nat := pageBytes psz / 2 ^ 16
def Extent.units (e : Extent) : Nat := e.npg * pageUnits e.psz
def Extent.holds (e : Extent) (u : Nat) : Bool := decide (e.off ≤ u) && decide (u < e.off + e.units)

/-- Pages `j` to `j + n - 1` of an extent. -/
def Extent.sub (e : Extent) (j n : Nat) : Extent :=
  { e with off := e.off + j * pageUnits e.psz, npg := n, pa := e.pa + j * pageUnits e.psz }

/-- An extent with pages `j` to `j + n - 1` replaced. -/
def Extent.around (e : Extent) (j n : Nat) (mid : List Extent) : List Extent :=
  ((e.sub 0 j) :: mid ++ [e.sub (j + n) (e.npg - (j + n))]).filter (·.npg != 0)

/-- The page of an extent that holds a unit. -/
def Extent.pageOf (e : Extent) (u : Nat) : Nat := (u - e.off) / pageUnits e.psz

/-- The rules of R326 for one extent record. -/
def Extent.ok (e : Extent) : Bool :=
  decide (e.psz ≤ 2) && decide (1 ≤ e.npg) && decide (e.npg < 2 ^ 24) && e.off % pageUnits e.psz == 0
    && e.pa % pageUnits e.psz == 0 && decide (e.off + e.units ≤ 2 ^ 24) && decide (e.pa + e.units ≤ 2 ^ 48)

def Extent.meets (a b : Extent) : Bool := decide (a.off < b.off + b.units) && decide (b.off < a.off + a.units)

/-- The rules of R326 for a list. -/
def extentsOk (l : List Extent) : Bool :=
  decide (l.length ≤ 256) && l.all (·.ok) && l.zipIdx.all fun x => (l.drop (x.2 + 1)).all fun y => !x.1.meets y

/-- The extent of a record of R326; none where a reserved bit is set. DEDUCED: log entry 130. -/
def extentOf (b : BitVec 128) : Option Extent :=
  if b.extractLsb' 4 12 == 0 && b.extractLsb' 64 16 == 0 then
    some ⟨(b.extractLsb' 0 2).toNat, b.getLsbD 2, b.getLsbD 3, (b.extractLsb' 16 24).toNat, (b.extractLsb' 40 24).toNat,
      (b.extractLsb' 80 48).toNat⟩
  else none

/-- The extent that holds a unit rewritten, together with the list around it. -/
def Obj.rewrite (o : Obj) (u : Nat) (f : Extent → Option (List Extent)) : Option (List Extent) :=
  (o.ext.find? (·.holds u)).bind fun e => (f e).map fun l => o.ext.flatMap fun x => if x == e then l else [x]

/-! ## The commands (R329) -/

/-- An object of the command's context that its chapter lets change: an installed code object never does (R81). DEDUCED: log entry 95. -/
def onObject (h : CmdHead) (obj : Nat) (serve : Ctx → Obj → Served) (s : State) : Served :=
  onContext h (fun c => match c.objOf obj with
    | some o => if o.exo then (s, .denied) else serve c o
    | none => (s, .denied)) s

def State.modObj (s : State) (ctx obj : Nat) (f : Obj → Obj) : State :=
  s.modCtx ctx fun c => { c with objs := upd (·.id == obj) f c.objs }

/-- A new extent list, in ascending OFF, under the next generation; refused where it would break R326. -/
def State.putExtents (s : State) (c : Ctx) (o : Obj) (l : Option (List Extent)) : Served :=
  match l with
  | some l =>
    if extentsOk l then
      let s1 := s.modObj c.id o.id fun o =>
        { o with ext := sortBy (fun a b => decide (a.off ≤ b.off)) l, gen := (o.gen + 1) % 2 ^ 32 }
      -- race records of pages mapped by now stand with them, and a ring whose page is there takes its records
      ((s1.seatRaces c.id o.id).flushWaiting c.id, .done)
    else (s, .denied)
  | none => (s, .denied)

/-- A change that takes translations away: the accesses through them are performed and their TLB entries dropped
before the reply. `u` and `n` are the changed range. -/
def State.cutExtents (s : State) (c : Ctx) (o : Obj) (u n : Nat) (l : Option (List Extent)) : Served :=
  match s.putExtents c o l with
  | (s1, r) =>
    if r.status == 0 then
      let pas := o.ext.filterMap fun e =>
        let a := max e.off u
        let b := min (e.off + e.units) (u + n)
        if a < b then some (e.pa + (a - e.off), b - a) else none
      let s2 := pas.foldl (fun s x => s.settle (x.1 * 2 ^ 16) (x.2 * 2 ^ 16)) s1
      (s2.dropTlb fun e => e.ctx == c.id && e.obj == o.id && decide (e.off < u + n) && decide (u < e.off + pageUnits e.psz), r)
    else (s1, r)

/-- OP 0x12: an object without extents, under the lowest free id. -/
def serveObjectCreate (h : CmdHead) (paged wr : Bool) (s : State) : Served :=
  checked h (fun s => onContext h (fun c => match s.freeObj c with
    | none => (s, .denied)
    | some id =>
      let o : Obj := { id := id, paged := paged, wr := wr, exo := false, gen := 0, ext := [], size := 2 ^ 40 }
      (s.modCtx c.id fun c => { c with objs := c.objs ++ [o] }, { result := id })) s) s

def execObjectCreate (h : CmdHead) (paged : Bool) (wr : Bool) (s : State) : Host.Outcome State Fault Refusal :=
  .next (s.command h.link (.objectCreate h paged wr) (serveObjectCreate h paged wr))

/-- OP 0x13: an extent added, or P or W of the extent that holds a unit set. DEDUCED: log entry 94. -/
def serveAddExtent (h : CmdHead) (obj : Nat) (c : ExtAdd) (s : State) : Served :=
  checked h (fun s => onObject h obj (fun x o => match c with
    | .add b => match extentOf b with
      | none => (s, .badCommand)
      | some e => s.putExtents x o (some (o.ext ++ [e]))
    | .setP u => s.putExtents x o (o.rewrite u fun e => some [{ e with p := true }])
    | .setW u => s.putExtents x o (o.rewrite u fun e => some [{ e with w := true }])) s) s

def execAddExtent (h : CmdHead) (obj : Nat) (c : ExtAdd) (s : State) : Host.Outcome State Fault Refusal :=
  .next (s.command h.link (.addExtent h obj c) (serveAddExtent h obj c))

/-- A page as the pages of the next smaller size, on the same span. -/
def Extent.halve (e : Extent) : Option Extent :=
  if e.psz == 0 then none
  else some { e with psz := e.psz - 1, npg := e.units / pageUnits (e.psz - 1) }

/-- OP 0x14: the page that holds a unit is split. -/
def serveSplit (h : CmdHead) (obj : Nat) (off : Nat) (s : State) : Served :=
  checked h (fun s => onObject h obj (fun c o =>
    s.putExtents c o (o.rewrite off fun e =>
      let j := e.pageOf off
      (e.sub j 1).halve.map fun p => e.around j 1 [p])) s) s

def execSplit (h : CmdHead) (obj : Nat) (off : Nat) (s : State) : Host.Outcome State Fault Refusal :=
  .next (s.command h.link (.split h obj off) (serveSplit h obj off))

/-- What is left of an extent outside a range of units, where the range cuts it between pages. -/
def Extent.outside (e : Extent) (u n : Nat) : List Extent :=
  let k := pageUnits e.psz
  if e.off + e.units ≤ u || u + n ≤ e.off then [e]
  else
    let a := (u - e.off) / k
    let b := (e.off + e.units - (u + n)) / k
    [e.sub 0 a, e.sub (e.npg - b) b].filter (·.npg != 0)

/-- The page of size `psz` at a unit, where smaller pages cover it on one aligned span with equal P and W (R329). -/
def Obj.mergedPage (o : Obj) (u psz : Nat) : Option Extent :=
  let n := pageUnits psz
  (o.ext.find? (·.holds u)).bind fun e =>
    let pa := e.pa + (u - e.off)
    let covered := o.ext.filter fun x => decide (x.off < u + n) && decide (u < x.off + x.units)
    let len := (covered.map fun x => min (x.off + x.units) (u + n) - max x.off u).sum
    if (psz == 1 || psz == 2) && u % n == 0 && pa % n == 0 && len == n
        && covered.all (fun x => decide (x.psz < psz) && x.p == e.p && x.w == e.w && x.pa + u == pa + x.off) then
      some ⟨psz, e.p, e.w, u, 1, pa⟩
    else none

/-- OP 0x15: smaller pages merged into one; what translated through them is performed before the reply. -/
def serveMerge (h : CmdHead) (obj : Nat) (off psz : Nat) (s : State) : Served :=
  checked h (fun s => onObject h obj (fun c o =>
    match o.mergedPage off psz with
    | none => (s, .denied)
    | some e =>
      let n := pageUnits psz
      s.cutExtents c o off n (some ((o.ext.flatMap (·.outside off n)) ++ [e]))) s) s

def execMerge (h : CmdHead) (obj : Nat) (off : Nat) (psz : Nat) (s : State) : Host.Outcome State Fault Refusal :=
  .next (s.command h.link (.merge h obj off psz) (serveMerge h obj off psz))

/-- Where a number of a range goes with it; one in the place it takes is gone. -/
def carried (src dst n a : Nat) : Option Nat :=
  if src ≤ a ∧ a < src + n then some (dst + (a - src)) else if dst ≤ a ∧ a < dst + n then none else some a

/-- The race records, atomic releases and errors of a range of units kept with its bytes (R237). -/
def Compute.carry (c : Compute) (src dst n : Nat) : Compute :=
  { c with
    sectors := c.sectors.filterMap fun x =>
      if x.pos == 0 then (carried (src * 2 ^ 11) (dst * 2 ^ 11) (n * 2 ^ 11) x.sec).map fun a => { x with sec := a } else some x
    atomFront := c.atomFront.filterMap fun x =>
      if x.pos == 0 then (carried (src * 2 ^ 16) (dst * 2 ^ 16) (n * 2 ^ 16) x.at').map fun a => { x with at' := a } else some x
    bad := c.bad.filterMap (carried (src * 2 ^ 11) (dst * 2 ^ 11) (n * 2 ^ 11)) }

/-- The bytes of a page taken along to its new place, with their race records (log entry 45). -/
def State.copyUnits (s : State) (pad src dst n : Nat) : State :=
  ((s.devWrite (dst * 2 ^ 16) (s.devRead (src * 2 ^ 16) (n * 2 ^ 16))).stampKey pad (dst * 2 ^ 16) (n * 2 ^ 16)).modC
    (·.carry src dst n)

/-- OP 0x16: P or W of the page that holds a unit cleared, its extent removed, or the page moved. DEDUCED: log entry 45. DEDUCED: log entry 94. -/
def serveNarrow (h : CmdHead) (obj : Nat) (c : ExtCut) (s : State) : Served :=
  checked h (fun s => onObject h obj (fun x o =>
    let page (u : Nat) (f : Extent → Extent) : Served :=
      match o.ext.find? (·.holds u) with
      | none => (s, .denied)
      | some e =>
        let j := e.pageOf u
        s.cutExtents x o (e.sub j 1).off (pageUnits e.psz) (o.rewrite u fun e => some (e.around j 1 [f (e.sub j 1)]))
    match c with
    | .clearP u => page u fun e => { e with p := false }
    | .clearW u => page u fun e => { e with w := false }
    | .remove u => match o.ext.find? (·.holds u) with
      | none => (s, .denied)
      | some e => s.cutExtents x o e.off e.units (o.rewrite u fun _ => some [])
    | .move u pa =>
      let r := page u fun e => { e with pa := pa }
      match o.ext.find? (·.holds u), r.2.status with
      | some e, 0 => (r.1.copyUnits x.pad (e.sub (e.pageOf u) 1).pa pa (pageUnits e.psz), r.2)
      | _, _ => r) s) s

def execNarrow (h : CmdHead) (obj : Nat) (c : ExtCut) (s : State) : Host.Outcome State Fault Refusal :=
  .next (s.command h.link (.narrow h obj c) (serveNarrow h obj c))

/-- OP 0x17: V cleared, and every TLB entry of the object dropped. -/
def serveObjectRemove (h : CmdHead) (obj : Nat) (s : State) : Served :=
  checked h (fun s => onObject h obj (fun c o =>
    let s1 := (s.cutExtents c o 0 (2 ^ 24) (some [])).1
    let s2 := (s1.modCtx c.id fun c => { c with objs := c.objs.filter (·.id != obj) }).withholdIds c.id [obj]
    let s3 := s2.modT fun t => { t with codes := upd (·.ctx == c.id) (fun x => { x with data := x.data.erase obj }) t.codes }
    (s3.retireCtx c.id, .done)) s) s

def execObjectRemove (h : CmdHead) (obj : Nat) (s : State) : Host.Outcome State Fault Refusal :=
  .next (s.command h.link (.objectRemove h obj) (serveObjectRemove h obj))

/-! ## The host's copies (R454) -/

def hcCtx (b : BitVec 512) : Nat := (b.extractLsb' 8 12).toNat
def hcObj (b : BitVec 512) : Nat := (b.extractLsb' 64 24).toNat
def hcOff (b : BitVec 512) : Nat := (b.extractLsb' 128 40).toNat
def hcLen (b : BitVec 512) : Nat := (b.extractLsb' 256 32).toNat

def hcBad (b : BitVec 512) : Bool :=
  b.extractLsb' 23 41 != 0 || b.extractLsb' 88 40 != 0 || b.extractLsb' 168 24 != 0 || b.extractLsb' 288 224 != 0
    || hcLen b == 0 || decide (2 ^ 30 < hcLen b)

/-- The object that a host copy names, where it may be copied: the whole range within extents with P set. -/
def State.hostRange (s : State) (b : BitVec 512) : Option (Ctx × Obj) :=
  (s.ctxOf (hcCtx b)).bind fun c => (c.objOf (hcObj b)).bind fun o =>
    if c.st != .free && !o.exo && decide (hcOff b + hcLen b ≤ 2 ^ 40)
        && (List.range (hcLen b)).all fun i => (o.place (hcOff b + i)).isSome then some (c, o)
    else none

/-- Bytes written one by one, up to the first that no Active key covers; how many were written. DEDUCED: log entry 95. -/
def State.hostWrite (s : State) (pad : Nat) (o : Obj) (off : Nat) : List Byte → State × Nat
  | [] => (s, 0)
  | b :: r =>
    match o.place off with
    | none => (s, 0)
    | some pa =>
      if s.keyWrite pad pa then
        let x := ((s.devWrite pa [b]).stampKey pad pa 1).hostWrite pad o (off + 1) r
        (x.1, x.2 + 1)
      else (s, 0)

/-- Bytes that can be read, up to the first under a Revoked key or in error. -/
def State.hostReads (s : State) (o : Obj) (off : Nat) : Nat → Nat
  | 0 => 0
  | n + 1 =>
    match o.place off with
    | none => 0
    | some pa => if s.keyRead pa && s.sound pa 1 then s.hostReads o (off + 1) n + 1 else 0

/-- How a host copy replies: whole, or cut by an error with its count. -/
def copyReply (n len : Nat) : Reply := if n = len then { result := n } else { status := 7, result := n }

/-- OP 0x19: `host` holds the bytes that the link delivers; fewer than LEN where it fails part-way. -/
def serveWriteObject (cmd : BitVec 512) (host : List Byte) (s : State) : Served :=
  if s.m.boot == .recovery then (s, .denied)
  else if hcBad cmd then (s, .badCommand)
  else match s.hostRange cmd with
    | none => (s, .denied)
    | some (c, o) =>
      let bs := host.take (hcLen cmd)
      let r := (s.snoop c.id o.id (hcOff cmd) bs.length true).hostWrite c.pad o (hcOff cmd) bs
      (r.1.repairRange o.place (hcOff cmd) r.2, copyReply r.2 (hcLen cmd))

def execWriteObject (link : Bool) (cmd : BitVec 512) (host : List Byte) (s : State) : Host.Outcome State Fault Refusal :=
  .next (s.command link (.writeObject link cmd host) (serveWriteObject cmd host))

/-- OP 0x1A: the link delivers at most `upto` bytes to the host, whose memory is not the package's. -/
def serveReadObject (link : Bool) (cmd : BitVec 512) (upto : Nat) (s : State) : Served :=
  if s.m.boot == .recovery then (s, .denied)
  else if hcBad cmd then (s, .badCommand)
  else match s.hostRange cmd with
    | none => (s, .denied)
    | some (c, o) =>
      let s1 := s.snoop c.id o.id (hcOff cmd) (hcLen cmd) false
      let n := s1.hostReads o (hcOff cmd) (min upto (hcLen cmd))
      let bs := (List.range n).map fun i => memGet s1.c.mem ((o.place (hcOff cmd + i)).getD 0)
      (s1.modM fun m => { m with hostOut := some (link, (cmd.extractLsb' 192 64).toNat, bs) }, copyReply n (hcLen cmd))

def execReadObject (link : Bool) (cmd : BitVec 512) (upto : Nat) (s : State) : Host.Outcome State Fault Refusal :=
  .next (s.command link (.readObject link cmd upto) (serveReadObject link cmd upto))

end Sys2Proof.Machine
end

