-- ==== Sys2Proof/Machine/Ras.lean ====
section
/-! DEFINITION. Units that fail or are retired (R292, R394, R395, R412, R427), and errors found in memory (R410,
R411). -/

namespace Sys2Proof.Machine

/-! ## Guarantees reduced (R395) -/

def State.lessClusters (s : State) : Bool :=
  decide (s.healthyClusters.length < (s.m.paddocks.map (·.gcnt)).sum)

def State.lessDram (s : State) (die : Nat) : Bool :=
  decide (s.healthyGib die < (s.m.paddocks.map fun p => p.dgib.getD die 0).sum)

/-- One unit taken from a paddock above a floor: a cluster first, then DRAM of a die that has too little left. DEDUCED: log entry 79. -/
def State.reducePad (s : State) (floor : Nat) (p : Paddock) : Option State :=
  if s.lessClusters && decide (floor < p.gcnt) then
    some (s.modPad p.id fun p => { p with gcnt := p.gcnt - 1, imp := true })
  else
    ((List.range 4).find? fun d => s.lessDram d && decide (floor < p.dgib.getD d 0)).map fun d =>
      s.modPad p.id fun p => { p with dgib := p.dgib.set d (p.dgib.getD d 0 - 1), imp := true }

/-- Reductions in descending RANK, down to a floor. -/
def State.reduceTo (s : State) (floor : Nat) : Nat → State
  | 0 => s
  | n + 1 =>
    match (sortBy (fun (a b : Paddock) => decide (b.rank ≤ a.rank)) s.m.paddocks).findSome? (s.reducePad floor) with
    | some s1 => s1.reduceTo floor n
    | none => s

/-- R395: the guarantees are made to fit what is healthy; the paddock interrupt tells the host. DEDUCED: log entry 79. -/
def State.reduce (s : State) : State :=
  if s.lessClusters || (List.range 4).any s.lessDram then
    let most := (s.m.paddocks.map fun p => p.gcnt + p.dgib.sum).sum
    let s1 := (s.reduceTo 1 most).reduceTo 0 most
    let s2 := s1.interrupt
    let s3 := s2.m.paddocks.foldl (fun s p => s.trimSet p.id 0) s2
    (sortBy (fun (a b : Paddock) => decide (a.rank ≤ b.rank)) s3.m.paddocks).foldl (fun s p => s.fillSet p.id) s3
  else s

/-! ## Clusters (R394, R412) -/

/-- A MACHINE_CHECK with no grid to end, to the contexts of some paddocks (R412). DEDUCED: log entry 80. -/
def State.checkPads (s : State) (pads : List Nat) : State :=
  pads.foldl (fun s p => s.postPad p { src := 58, kind := 0, cause := Cause.machineCheck.code.toNat }) s

/-- Positions on a cluster. -/
def State.posOnCluster (s : State) (c : Nat) : List Position :=
  s.c.positions.filter fun p => clusterOf p.core == c && (p.st == .resident || p.st == .stopping)

/-- The paddocks that hold a cluster or run on it. -/
def State.padsOn (s : State) (c : Nat) : List Nat :=
  ((s.m.paddocks.filter (·.owns c)).map (·.id) ++ ((s.borrowerOf c).toList) ++ (s.posOnCluster c).map fun p => s.padOfCtx p.ctx).eraseDups

/-- A cluster that leaves service: its positions are discarded, its owner is given another one where there is one. -/
def State.dropCluster (s : State) (c : Nat) : State :=
  let owners := (s.m.paddocks.filter (·.owns c)).map (·.id)
  let s1 := (s.posOnCluster c).foldl (fun s p => s.discard p.id) s
  let s2 := s1.modM fun m =>
    { m with retired := if m.retired.contains c then m.retired else m.retired ++ [c]
             borrowed := m.borrowed.filter (·.1 != c)
             revokes := m.revokes.filter (·.cluster != c)
             paddocks := m.paddocks.map fun p => { p with gset := p.gset &&& ~~~(1#24 <<< c) } }
  owners.foldl (fun s p => s.fillSet p) s2

/-- `.cohabit` grids of some paddocks that can no longer be wholly resident end. -/
def State.endMisfits (s : State) (pads : List Nat) (core : Nat) : State :=
  pads.foldl (fun s p =>
    let (bad, s1) := s.unplaceable (s.misfits s p)
    bad.foldl (fun s g => s.endFatal g.ctx g.id .machineCheck ⟨dieSrc core, 0, 0, 0⟩) s1) s

/-- R394: a cluster is retired. -/
def execClusterRetire (cluster : Nat) (s : State) : Host.Outcome State Fault Refusal :=
  .next <|
    if s.healthy cluster && decide (cluster < Config.clusters) then
      let pads := s.padsOn cluster
      (((s.dropCluster cluster).reduce).checkPads pads).endMisfits pads (Config.coresPerCluster * cluster)
    else s

/-! ## A die fails (R292) -/

/-- The next die in election order after the Bellwether's. -/
def State.mirrorAfter (s : State) (pd : Paddock) (bell : Nat) : Option Nat := (s.diesFor pd).find? fun d => decide (bell < d)

/-- The grids of a paddock after a die has failed: the mirror takes over as it stands, or there is none. -/
def State.reelect (s : State) (die : Nat) (g : Grid) : State :=
  match s.padOf (s.padOfCtx g.ctx) with
  | none => s
  | some pd =>
    if g.bell == die then
      match g.mirror with
      -- no die of this package is left: the dies of the next member of the drove come next in order (R293)
      | none => match g.drove.find? fun m => m.1 != s.node with
        | some m => if g.far.isSome then s else s.modGrid g.ctx g.id fun g => { g with far := some m.1 }
        | none => s.endFatal g.ctx g.id .machineCheck ⟨dieSrc (48 * die), 0, 0, 0⟩
      | some d => s.modGrid g.ctx g.id fun g => { g with bell := d, mirror := s.mirrorAfter pd d }
    else if g.mirror == some die then s.modGrid g.ctx g.id fun g => { g with mirror := s.mirrorAfter pd g.bell }
    else s

/-- R292: a die fails: its clusters are out, the blocks there are placed anew, Bellwethers are elected. DEDUCED: log entry 80. -/
def execDieFailure (d : Nat) (s : State) : Host.Outcome State Fault Refusal :=
  .next <|
    if s.m.diesOut.contains d || decide (4 ≤ d) then s
    else
      let cs := (List.range Config.clusters).filter fun c => dieOf c == d && !s.m.retired.contains c
      let pads := (cs.flatMap s.padsOn).eraseDups
      let s1 := s.modM fun m => { m with diesOut := m.diesOut ++ [d] }
      let s2 := cs.foldl (fun s c => s.dropCluster c) s1
      let s3 := (s2.c.grids.filter (·.live)).foldl (fun s g => s.reelect d g) s2
      (s3.reduce.checkPads pads).endMisfits pads (48 * d)

/-! ## A DRAM channel is retired (R394) -/

/-- The page at an address, in units of 64 KiB, changed in whatever object it belongs to: moved, or P cleared. DEDUCED: log entry 81. -/
def State.moveAway (s : State) (m : PageMove) : State :=
  s.t.ctxs.foldl (fun s c => c.objs.foldl (fun s o =>
    match o.ext.find? fun e => decide (e.pa ≤ m.pa) && decide (m.pa < e.pa + e.units) with
    | none => s
    | some e =>
      let j := (m.pa - e.pa) / pageUnits e.psz
      let page := e.sub j 1
      let f (x : Extent) : Extent := match m.dst with
        | some pa => { x with pa := pa }
        | none => { x with p := false }
      let s1 := (s.cutExtents c o page.off (pageUnits e.psz) (o.rewrite page.off fun e => some (e.around j 1 [f page]))).1
      match m.dst with
      | some pa => s1.copyUnits c.pad page.pa pa (pageUnits e.psz)
      | none => s1) s) s

/-- The paddocks with an extent in a range of units. -/
def State.padsIn (s : State) (base len : Nat) : List Nat :=
  ((s.t.ctxs.filter fun c => c.objs.any fun o => o.ext.any fun e =>
    decide (e.pa < base + len) && decide (base < e.pa + e.units)).map (·.pad)).eraseDups

/-- The present pages that lie in a range of units, by their first units. -/
def State.pagesIn (s : State) (base len : Nat) : List Nat :=
  s.t.ctxs.flatMap fun c => c.objs.flatMap fun o => o.ext.flatMap fun e =>
    let k := pageUnits e.psz
    let a := (max base e.pa - e.pa) / k
    let b := min e.npg ((base + len - e.pa + k - 1) / k)
    if e.p && decide (e.pa < base + len) && decide (base < e.pa + e.units) then (List.range (b - a)).map fun j => e.pa + (a + j) * k
    else []

/-- Folds and pen objects that lie in a range are carved elsewhere. DESIGN CHOICE: log entry 166. -/
def State.recarveFrom (s : State) (base len : Nat) : State :=
  (s.m.paddocks.filter fun p => decide (p.carve < base + len) && decide (base < p.carve + p.carveUnits)).foldl
    (fun s p => s.modPad p.id fun x => { x with carve := s.freeUnits p.carveUnits }) s

/-- R394: a channel of a die, as the units it holds, leaves the healthy total; `moves` says where its pages go, and a page that it
does not move has P cleared. -/
def execChannelRetire (die : Nat) (base : Nat) (len : Nat) (moves : List PageMove) (s : State) :
    Host.Outcome State Fault Refusal :=
  .next <|
    let pads := s.padsIn base len
    let s1 := s.modM fun m =>
      { m with chansOut := if m.chansOut.contains (die, base, len) then m.chansOut else m.chansOut ++ [(die, base, len)] }
    let s2 := (moves.filter fun m => decide (base ≤ m.pa) && decide (m.pa < base + len)).foldl (fun s m => s.moveAway m) s1
    let s3 := (s2.pagesIn base len).foldl (fun s pa => s.moveAway ⟨pa, none⟩) s2
    ((s3.recarveFrom base len).reduce).checkPads pads

/-! ## CXL (R427) -/

/-- R427: a CXL port goes down: stores to it that have not completed are lost. DEDUCED: log entry 82. -/
def execCxlPortDown (p : Nat) (s : State) : Host.Outcome State Fault Refusal :=
  .next <|
    if s.m.cxlDown.contains p || decide (4 ≤ p) then s
    else
      let units : Nat := 2 ^ 25
      let base := 2 ^ 27 + p * units
      let pads := s.padsIn base units
      let here (e : PStore) : Bool := decide (base * 2 ^ 16 ≤ e.pa) && decide (e.pa < (base + units) * 2 ^ 16)
      let s1 := (s.modC fun c => { c with pend := c.pend.filter fun e => !here e }).modM fun m => { m with cxlDown := m.cxlDown ++ [p] }
      s1.tellPads pads 57 4

/-! ## Errors (R410, R411) -/

/-- The paddocks whose data stand at an address: memory, the stash of a position, or its Loft. The state that a position holds and
the Stile's tables are no lines. DESIGN CHOICE: log entry 116. -/
def State.padsAt (s : State) (pa : Nat) : List Nat :=
  if pa < 2 ^ 64 then s.padsIn (pa / 2 ^ 16) 1
  else if heldAt 0 ≤ pa then []
  else
    let pos := if pa < 2 ^ 128 then (pa - 2 ^ 64) / 2 ^ 20 else (pa - 2 ^ 128) / 2 ^ 25
    ((s.posOf pos).map fun p => s.padOfCtx p.ctx).toList

/-- R410: the scrubber finds an uncorrectable error in the sector that holds an address; one in state that a position holds, or in
a table of the Stile, shows at its use. DESIGN CHOICE: log entry 116. -/
def execScrubberError (pa : Nat) (s : State) : Host.Outcome State Fault Refusal :=
  .next <|
    let s1 := s.modC fun c => { c with bad := if c.bad.contains (pa / 32) then c.bad else c.bad ++ [pa / 32] }
    if heldAt 0 ≤ pa then s1 else s1.tellPads (s.padsAt pa) 57 4

/-- R411: a corrected error changes nothing, and is told to the owner's contexts. DESIGN CHOICE: log entry 116. -/
def execCorrectedError (pad : Nat) (src : Nat) (synd : Nat) (s : State) : Host.Outcome State Fault Refusal :=
  .next (if synd == 1 || synd == 2 || synd == 7 then s.tellPads ((s.padOf pad).map (·.id)).toList src synd else s)

end Sys2Proof.Machine
end

