-- ==== Sys2Proof/Machine/HostCmd.lean ====
section
/-! DEFINITION. Attestation (R431), the power cap and heat (R433), the boot chain (R428, R429), PTP time (R432), the
signal bitmap (R425), and the end of a command with what follows it (R423). -/

namespace Sys2Proof.Machine

/-! ## Attestation (R431) -/

/-- A paddock's descriptor as a report shows it: the host fields as the host last wrote them. -/
def Paddock.reportBits (p : Paddock) : Nat := ({ p with gcnt := p.hgcnt, dgib := p.hdgib } : Paddock).hostBits

/-- The 608 bytes that are signed. DESIGN CHOICE: log entry 86. -/
def State.reportBody (s : State) (nonce : BitVec 256) : List Byte :=
  leBytes 64 s.m.measure.toNat ++ leBytes 32 nonce.toNat
    ++ (List.range 8).flatMap fun i => leBytes 64 (((s.padOf i).map (·.reportBits)).getD 0)

/-- OP 0x50: the report goes to the host address that the command gives. -/
def serveAttest (h : CmdHead) (addr : Nat) (nonce : BitVec 256) (s : State) : Served :=
  checked h (fun s =>
    let body := s.reportBody nonce
    let sig := (Config.signature body ++ List.replicate 1536 0).take 1536
    (s.modM fun m => { m with hostOut := some (h.link, addr, body ++ sig) }, .done)) s

def execAttest (h : CmdHead) (addr : Nat) (nonce : BitVec 256) (s : State) : Host.Outcome State Fault Refusal :=
  .next (s.command h.link (.attest h addr nonce) (serveAttest h addr nonce))

/-! ## Power and heat (R433) -/

/-- OP 0x51: a cap of 1,200 to 2,600 W. DEDUCED: log entry 31. -/
def serveSetPowerCap (h : CmdHead) (watts : Nat) (s : State) : Served :=
  checked h (fun s =>
    if 1200 ≤ watts ∧ watts ≤ 2600 then (s.modM fun m => { m with cap := watts }, .done) else (s, .denied)) s

def execSetPowerCap (h : CmdHead) (watts : Nat) (s : State) : Host.Outcome State Fault Refusal :=
  .next (s.command h.link (.setPowerCap h watts) (serveSetPowerCap h watts))

/-- The cap or 105 °C is exceeded: the clocks slow by one step of 100 MHz. DESIGN CHOICE: log entry 32. -/
def execThermalThrottle (s : State) : Host.Outcome State Fault Refusal :=
  .next (s.modM fun m => { m with slow := min (m.slow + 1) 15 })

/-- 115 °C: every grid ends with MACHINE_CHECK, and the package holds itself in reset. DEDUCED: log entry 33. -/
def execThermalTrip (s : State) : Host.Outcome State Fault Refusal :=
  .next <|
    let s1 := (s.c.grids.filter (·.live)).foldl (fun s g => s.endFatal g.ctx g.id .machineCheck ⟨dieSrc 0, 0, 0, 0⟩) s
    s1.modM fun m => { m with boot := .held }

/-! ## Boot (R428, R429) -/

/-- M ← SHAKE256(M ‖ digest), 64 bytes. -/
def extend (m digest : BitVec 512) : BitVec 512 :=
  BitVec.ofNat 512 (leNat (shake256 (leBytes 64 m.toNat ++ leBytes 64 digest.toNat) 64))

/-- The SHAKE256 digest of an image. -/
def imageDigest (i : BootImage) : BitVec 512 := BitVec.ofNat 512 (leNat (shake256 i.text 64))

/-- An image passes: its key is the vendor's, whose digest stands in fuses, the key's signature over its digest holds, and its version
is not below the fused counter (R428). DESIGN CHOICE: log entry 73. -/
def goodImage (i : BootImage) : Bool :=
  BitVec.ofNat 512 (leNat (shake256 i.key 64)) == Config.vendorDigest
    && Config.falcon i.key i.sig (leBytes 64 (imageDigest i).toNat) && decide (Config.fusedVersion ≤ i.version)

/-- The stages run in turn: one whose image fails leaves the package in recovery. DEDUCED: log entry 131. -/
def bootChain (m : BitVec 512) : Nat → List BootImage → BitVec 512 × BootSt
  | 0, _ => (m, .running)
  | _ + 1, [] => (m, .recovery)
  | n + 1, i :: r => if goodImage i then bootChain (extend m (imageDigest i)) n r else (m, .recovery)

/-- R428: cold reset, and the boot chain: the ROM, and the images of the three stages after it, each verified by the stage before.
DEDUCED: log entry 5. DEDUCED: log entry 131. -/
def execColdReset (images : List BootImage) (s : State) : Host.Outcome State Fault Refusal :=
  .next <|
    let b := bootChain 0 3 images
    { State.reset with free := s.free, node := s.node, m := { State.reset.m with measure := b.1, boot := b.2 } }

/-! ## Time (R432) -/

/-- R432: an IEEE 1588 message. The first sets the time in one step; later ones are slewed, but for a forward step of
more than 1 ms. DESIGN CHOICE: log entry 34. DEDUCED: log entry 35. -/
def execPtpMessage (time : Nat) (s : State) : Host.Outcome State Fault Refusal :=
  .next <|
    let off : Int := (time : Int) - s.now
    let diff : Int := (time : Int) - s.time
    if !s.m.synced || diff > 1000000 then
      s.modM fun m => { m with ptp := off, synced := true, slew := 0, slewFrom := s.now, stepTo := time }
    else
      let (w, s1) := s.drawWord
      s1.modM fun m => { m with ptp := m.ptp + s.slewed, slew := diff, slewFrom := s.now, slewPpm := 1 + w.toNat % 100 }

/-! ## The signal bitmap, and other writes (R425, R423) -/

/-- A word of the signal bitmap: the bits of 64 contexts (R425). -/
def State.signalWord (s : State) (w : Nat) : Dword :=
  (BitVec.ofBoolListLE ((List.range 64).map fun i => (s.ctxOf (64 * w + i)).any (·.signal))).setWidth 64

/-- R425: an 8-byte read returns the bits of 64 contexts and clears them. -/
def execSignalBitmapRead (w : Nat) (s : State) : Host.Outcome State Fault Refusal :=
  .next <|
    if s.m.boot == .running || s.m.boot == .recovery then
      (s.modM fun m => { m with bitmapRead := s.signalWord w }).modT fun t =>
        { t with ctxs := t.ctxs.map fun c => if c.id / 64 == w then { c with signal := false } else c }
    else s

/-- The bytes that a read of an offset of a BAR returns (R421): what the window there shows, and zero elsewhere. -/
def State.windowByte (s : State) (bar off : Nat) : Byte :=
  match hostWindowAt bar off with
  | some (.config l, o) =>
    let x := s.linkAt l
    if s.m.boot == .booting || s.m.boot == .held then 0
    else if 0x040 ≤ o ∧ o < 0x048 then nthByte (x.status + x.cause * 2 ^ 8 + x.result * 2 ^ 16) (o - 0x040)
    else if 0x048 ≤ o ∧ o < 0x04C then nthByte x.done (o - 0x048)
    else if 0x200 ≤ o ∧ o < 0x400 then nthByte (s.signalWord ((o - 0x200) / 8)).toNat ((o - 0x200) % 8)
    else 0
  | some (.launch ctx, o) => s.launchByte ctx o
  | some (.push q, o) => s.pushByte q o
  | some (.readback, o) =>
    if !s.up then 0
    else if o < 8 then nthByte s.m.readback.addr.toNat o
    else if o = 8 then BitVec.ofNat 8 s.m.readback.status
    else if 0x040 ≤ o ∧ o < 0x080 then (s.m.readback.data[o - 0x040]?).getD 0
    else 0
  | none => 0

/-- The OPs of R423. -/
def knownOp (op : Nat) : Bool :=
  (decide (0x01 ≤ op) && decide (op ≤ 0x05)) || (decide (0x10 ≤ op) && decide (op ≤ 0x1A)) || (decide (0x20 ≤ op) && decide (op ≤ 0x23))
    || (decide (0x30 ≤ op) && decide (op ≤ 0x38)) || op == 0x40 || op == 0x50 || op == 0x51

/-- A command of a reserved OP (R423). -/
def serveBadOp (s : State) : Served := (s, if s.m.boot == .recovery then .denied else .badCommand)

/-- A write to an offset that takes none is ignored; one to the command's place under a reserved OP is a bad command (R423). -/
def execWindowWriteOther (b : LinkBar) (w : BarWrite) (s : State) : Host.Outcome State Fault Refusal :=
  .next <|
    if hostWindowAt b.bar w.off == some (.config b.link, 0) && !knownOp (w.data.extractLsb' 0 8).toNat then
      s.command b.link (.windowWriteOther b w) serveBadOp
    else s

/-! ## The end of a command (R423) -/

/-- What serving each command does; what is no command is refused as one. -/
def serveCmd (i : Instr) : State → Served :=
  match i with
  | .createContext h => serveCreateContext h
  | .destroyContext h => serveDestroyContext h
  | .saveContext h => serveSaveContext h
  | .restoreContext h => serveRestoreContext h
  | .writeContextRegister h n v => serveWriteContextRegister h n v
  | .loadContainer h b => serveLoadContainer h b
  | .removeObject h o => serveRemoveObject h o
  | .objectCreate h p w => serveObjectCreate h p w
  | .addExtent h o c => serveAddExtent h o c
  | .split h o u => serveSplit h o u
  | .merge h o u p => serveMerge h o u p
  | .narrow h o c => serveNarrow h o c
  | .objectRemove h o => serveObjectRemove h o
  | .resolveFault h f x => serveResolveFault h f x
  | .writeObject _ c b => serveWriteObject c b
  | .readObject l c n => serveReadObject l c n
  | .createQueue h q d => serveCreateQueue h q d
  | .destroyQueue h q => serveDestroyQueue h q
  | .writeFilterEntry h n e => serveWriteFilterEntry h n e
  | .writeRouteEntry h n e => serveWriteRouteEntry h n e
  | .paddockCreate h d => servePaddockCreate h d
  | .paddockResize h d => servePaddockResize h d
  | .paddockStop h => servePaddockStop h
  | .paddockStart h => servePaddockStart h
  | .paddockDestroy h => servePaddockDestroy h
  | .removeCore h c => serveRemoveCore h c
  | .keyInstall h k d w => serveKeyInstall h k d w
  | .keyRewrap h k => serveKeyRewrap h k
  | .keyRevoke h k => serveKeyRevoke h k
  | .preEmptPosition h g b => servePreEmptPosition h g b
  | .attest h a n => serveAttest h a n
  | .setPowerCap h w => serveSetPowerCap h w
  | _ => serveBadOp

/-- The next command that waits. -/
def State.nextCommand (s : State) : State :=
  match s.m.cmdq with
  | [] => s
  | i :: r =>
    match cmdLink i with
    | some l => (s.modM fun m => { m with cmdq := r }).serveOn l (serveCmd i)
    | none => s.modM fun m => { m with cmdq := r }

/-- R423: a command in progress ends: its reply and the count are written, and the next is served. A load ends once
the finaliser has answered. -/
def execCommandComplete (link : Bool) (s : State) : Host.Outcome State Fault Refusal :=
  .next <|
    match (s.linkAt link).busy with
    | none => s
    | some (st, c, r) =>
      if st = 1 then s
      else (s.modLink link fun l => { status := st, cause := c, result := r % 2 ^ 48, done := (l.done + 1) % 2 ^ 32, busy := none }).nextCommand

end Sys2Proof.Machine
end

