-- ==== Sys2Proof/Machine/Integer.lean ====
section
/-! DEFINITION. The integer, logic, compare, select, move, dot-product and predicate instructions (R149 to R160). -/

namespace Sys2Proof.Machine

/-- R149: integer addition -/
def execIadd (f : IFmt) (sat : Bool) (g : Guard) (d : Dst) (a : Src) (b : SrcI) (s : State) : Host.Outcome State Fault Refusal :=
  .next (s.runArms { g := g, dsts := [d.spec] } (pureArm (laneWise (laneIadd f sat d a b))))

/-- R149: integer subtraction -/
def execIsub (f : IFmt) (sat : Bool) (g : Guard) (d : Dst) (a : Src) (b : SrcI) (s : State) : Host.Outcome State Fault Refusal :=
  .next (s.runArms { g := g, dsts := [d.spec] } (pureArm (laneWise (laneIsub f sat d a b))))

/-- R149: integer product -/
def execImul (f : IFmt) (sat : Bool) (g : Guard) (d : Dst) (a : Src) (b : SrcI) (s : State) : Host.Outcome State Fault Refusal :=
  .next (s.runArms { g := g, dsts := [d.spec] } (pureArm (laneWise (laneImul f sat d a b))))

/-- R149: product and addition -/
def execImad (f : IFmt) (sat : Bool) (g : Guard) (d : Dst) (a : Src) (b : Src) (c : Src) (s : State) : Host.Outcome State Fault Refusal :=
  .next (s.runArms { g := g, dsts := [d.spec] } (pureArm (laneWise (laneImad f sat d a b c))))

/-- R149: high half of the product -/
def execImulhi (f : IFmt) (g : Guard) (d : Dst) (a : Src) (b : Src) (s : State) : Host.Outcome State Fault Refusal :=
  .next (s.runArms { g := g, dsts := [d.spec] } (pureArm (laneWise (laneImulhi f d a b))))

/-- R149: minimum -/
def execImin (f : IFmt) (g : Guard) (d : Dst) (a : Src) (b : SrcI) (s : State) : Host.Outcome State Fault Refusal :=
  .next (s.runArms { g := g, dsts := [d.spec] } (pureArm (laneWise (laneImin f d a b))))

/-- R149: maximum -/
def execImax (f : IFmt) (g : Guard) (d : Dst) (a : Src) (b : SrcI) (s : State) : Host.Outcome State Fault Refusal :=
  .next (s.runArms { g := g, dsts := [d.spec] } (pureArm (laneWise (laneImax f d a b))))

/-- R149: absolute value -/
def execIabs (f : IFmt) (sat : Bool) (g : Guard) (d : Dst) (a : Src) (s : State) : Host.Outcome State Fault Refusal :=
  .next (s.runArms { g := g, dsts := [d.spec] } (pureArm (laneWise (laneIabs f sat d a))))

/-- R149: negation -/
def execIneg (f : IFmt) (sat : Bool) (g : Guard) (d : Dst) (a : Src) (s : State) : Host.Outcome State Fault Refusal :=
  .next (s.runArms { g := g, dsts := [d.spec] } (pureArm (laneWise (laneIneg f sat d a))))

/-- R150: bitwise and -/
def execAnd (g : Guard) (d : Dst) (a : Src) (b : SrcI) (s : State) : Host.Outcome State Fault Refusal :=
  .next (s.runArms { g := g, dsts := [d.spec] } (pureArm (laneWise fun c => logicOp c (· &&& ·) d a b)))

/-- R150: bitwise or -/
def execOr (g : Guard) (d : Dst) (a : Src) (b : SrcI) (s : State) : Host.Outcome State Fault Refusal :=
  .next (s.runArms { g := g, dsts := [d.spec] } (pureArm (laneWise fun c => logicOp c (· ||| ·) d a b)))

/-- R150: bitwise exclusive or -/
def execXor (g : Guard) (d : Dst) (a : Src) (b : SrcI) (s : State) : Host.Outcome State Fault Refusal :=
  .next (s.runArms { g := g, dsts := [d.spec] } (pureArm (laneWise fun c => logicOp c (· ^^^ ·) d a b)))

/-- R150: and with the complement of S2 -/
def execAndn (g : Guard) (d : Dst) (a : Src) (b : SrcI) (s : State) : Host.Outcome State Fault Refusal :=
  .next (s.runArms { g := g, dsts := [d.spec] } (pureArm (laneWise fun c => logicOp c andnW d a b)))

/-- R150: shift left -/
def execShl (g : Guard) (d : Dst) (a : Src) (b : SrcI) (s : State) : Host.Outcome State Fault Refusal :=
  .next (s.runArms { g := g, dsts := [d.spec] } (pureArm (laneWise fun c => logicOp c shlW d a b)))

/-- R150: logical shift right -/
def execShr (g : Guard) (d : Dst) (a : Src) (b : SrcI) (s : State) : Host.Outcome State Fault Refusal :=
  .next (s.runArms { g := g, dsts := [d.spec] } (pureArm (laneWise fun c => logicOp c shrW d a b)))

/-- R150: arithmetic shift right -/
def execSar (g : Guard) (d : Dst) (a : Src) (b : SrcI) (s : State) : Host.Outcome State Fault Refusal :=
  .next (s.runArms { g := g, dsts := [d.spec] } (pureArm (laneWise fun c => logicOp c sarW d a b)))

/-- R150: rotate left -/
def execRot (g : Guard) (d : Dst) (a : Src) (b : SrcI) (s : State) : Host.Outcome State Fault Refusal :=
  .next (s.runArms { g := g, dsts := [d.spec] } (pureArm (laneWise fun c => logicOp c rotW d a b)))

/-- R151: set bits -/
def execPopc (g : Guard) (d : Dst) (a : Src) (s : State) : Host.Outcome State Fault Refusal :=
  .next (s.runArms { g := g, dsts := [d.spec] } (pureArm (laneWise (lanePopc d a))))

/-- R151: leading zeros -/
def execClz (g : Guard) (d : Dst) (a : Src) (s : State) : Host.Outcome State Fault Refusal :=
  .next (s.runArms { g := g, dsts := [d.spec] } (pureArm (laneWise (laneClz d a))))

/-- R151: bit reversal -/
def execBrev (g : Guard) (d : Dst) (a : Src) (s : State) : Host.Outcome State Fault Refusal :=
  .next (s.runArms { g := g, dsts := [d.spec] } (pureArm (laneWise (laneBrev d a))))

/-- R152: bit-field extract -/
def execBfx (sg : Bool) (g : Guard) (d : Dst) (a : Src) (b : Src) (c : Src) (s : State) : Host.Outcome State Fault Refusal :=
  .next (s.runArms { g := g, dsts := [d.spec] } (pureArm (laneWise (laneBfx sg d a b c))))

/-- R152: bit-field insert -/
def execBfi (g : Guard) (d : Dst) (a : Src) (b : Src) (c : Src) (s : State) : Host.Outcome State Fault Refusal :=
  .next (s.runArms { g := g, dsts := [d.spec] } (pureArm (laneWise (laneBfi d a b c))))

/-- R153: integer comparison -/
def execIcmp (cc : ICmp) (uns : Bool) (g : Guard) (d : Dst) (a : Src) (b : SrcI) (s : State) : Host.Outcome State Fault Refusal :=
  .next (s.runArms { g := g, dsts := [d.spec] } (pureArm (laneWise (laneIcmp cc uns d a b))))

/-- R154: select -/
def execSel (g : Guard) (d : Dst) (a : Src) (b : Src) (c : Src) (s : State) : Host.Outcome State Fault Refusal :=
  .next (s.runArms { g := g, dsts := [d.spec] } (pureArm (laneWise (laneSel d a b c))))

/-- R155: move -/
def execMov (g : Guard) (d : Dst) (a : Src) (s : State) : Host.Outcome State Fault Refusal :=
  .next (s.runArms { g := g, dsts := [d.spec] } (pureArm (laneWise (laneMov d a))))

/-- R156: constant -/
def execMovk (f : Fmt) (g : Guard) (d : Dst) (k : Word) (s : State) : Host.Outcome State Fault Refusal :=
  .next (s.runArms { g := g, dsts := [d.spec] } (pureArm (laneWise (laneMovk f d k))))

/-- R157: address arithmetic -/
def execLea (sh : BitVec 3) (x64 : Bool) (g : Guard) (d : Dst) (a : Src) (b : SrcI) (s : State) : Host.Outcome State Fault Refusal :=
  .next (s.runArms { g := g, dsts := if x64 then [d.spec, specSucc d.spec] else [d.spec] } (pureArm (laneWise (laneLea sh x64 d a b))))

/-- R158: dot product of four elements -/
def execDp4 (ua : Bool) (ub : Bool) (sat : Bool) (g : Guard) (d : Dst) (a : Src) (b : Src) (c : Src) (s : State) : Host.Outcome State Fault Refusal :=
  .next (s.runArms { g := g, dsts := [d.spec] } (pureArm (laneWise (laneDp4 ua ub sat d a b c))))

/-- R158: dot product of eight elements -/
def execDp8 (ua : Bool) (ub : Bool) (sat : Bool) (g : Guard) (d : Dst) (a : Src) (b : Src) (c : Src) (s : State) : Host.Outcome State Fault Refusal :=
  .next (s.runArms { g := g, dsts := [d.spec] } (pureArm (laneWise (laneDp8 ua ub sat d a b c))))

/-- R159: predicate logic -/
def execPlop (op : PlopOp) (g : Guard) (d : BitVec 3) (a : BitVec 3) (b : BitVec 3) (s : State) : Host.Outcome State Fault Refusal :=
  .next (s.runArms { g := g, dsts := [.p d] } (pureArm (laneWise (lanePlop op d a b))))

/-- R160: predicate moves -/
def execPmov (k : PmovKind) (g : Guard) (d : Dst) (a : Src) (s : State) : Host.Outcome State Fault Refusal :=
  .next (s.runArms { g := g, dsts := [d.spec] } (pureArm (laneWise (lanePmov k d a))))

end Sys2Proof.Machine
end

