-- ==== Sys2Proof/Machine/Ports.lean ====
section
/-! DEFINITION. The states of fabric ports (R339). -/

namespace Sys2Proof.Machine

/-- A paddock that holds a group of a port. -/
def Paddock.onPort (p : Paddock) (port : Nat) : Bool := p.lgrp.extractLsb' (4 * port) 4 != 0

/-- A grid whose drove keeps these members: the instances of the others are placed anew, and a Bellwether among them passes on.
A `.cohabit` grid that no longer runs whole, and one with no die left, end (R292). -/
def State.cutDrove (s : State) (g : Grid) (ms : List (Nat × Nat)) : State :=
  let gone (n : Nat) : Bool := !ms.any (·.1 == n)
  let cut := g.away.filter fun a => gone a.2
  let rest := ms.filter fun m => m.1 != s.node
  let s1 := s.modGrid g.ctx g.id fun g =>
    { g with drove := ms, away := g.away.filter fun a => !gone a.2, lost := g.lost ++ cut.map (·.1)
             far := if g.far.any gone then rest.head?.map (·.1) else g.far }
  let site : Site := ⟨dieSrc (48 * g.bell), 0, 0, 0⟩
  if g.live && g.far.any gone && rest.isEmpty then s1.endFatal g.ctx g.id .machineCheck site
  else if g.live && !cut.isEmpty && (s.kernel? g).any (·.cohab) then
    match s.kernel? g, s1.gridOf g.ctx g.id, s1.ctxOf g.ctx, s1.padOf (s1.padOfCtx g.ctx) with
    | some k, some x, some c, some pd => (s1.placeRest k x c pd (cut.map (·.1))).getD (s1.endFatal g.ctx g.id .machineCheck site)
    | _, _, _, _ => s1
  else s1

/-- A member of a drove whose link goes down is treated as if all its dies had failed: it leaves its grid's drove (R293). -/
def State.cutDroves (s : State) : State :=
  s.c.grids.foldl (fun s g =>
    let ms := g.drove.filter fun m => m.1 == s.node || s.linkedTo (s.padOfCtx g.ctx) m.1
    if ms == g.drove then s else s.cutDrove g ms) s

/-- A port enters a state: when that is a change, a KIND 6 event to each context of each paddock with a group of it;
flits that it carried are sent again along the new route, and what no route reaches any more completes with LINK_DOWN
(R339, R341, R345). -/
def State.setPort (s : State) (port : Nat) (st : PortSt) (lanes : BitVec 8) (since synd : Nat) : State :=
  let s1 := s.modPort port fun p => { p with st := st, lanes := lanes, since := since }
  let s2 := if (s.portOf port).any (·.st == st) then s1
    else (s.m.paddocks.filter (·.onPort port)).foldl (fun s p =>
      s.postPad p.id { src := 15 + port, kind := 6, synd := synd }) s1
  s2.reroute.loseRoutes.cutDroves

/-- An event of R339 at a port: what it does in the port's state. DEDUCED: log entry 83. -/
def onPort (port : Nat) (f : Port → State) (s : State) : State := ((s.portOf port).map f).getD s

/-- R339: management enables a port. -/
def execPortEnable (p : Nat) (s : State) : Host.Outcome State Fault Refusal :=
  .next (onPort p (fun x => if x.st == .down then s.setPort p .training 0 s.now 0 else s) s)

/-- R339: training ends with these lanes good; without one it is retried after 1 ms. -/
def execTrainingComplete (p : Nat) (good : BitVec 8) (s : State) : Host.Outcome State Fault Refusal :=
  .next (onPort p (fun x =>
    if x.st != .training then s
    else if good == 0 then s.setPort p .down 0 (s.now + us 1000) 0
    else s.setPort p (if good == 0xFF then .up else .degraded) good s.now 0) s)

/-- R339: training lasts over 10 ms. -/
def execTrainingTimeout (p : Nat) (s : State) : Host.Outcome State Fault Refusal :=
  .next (onPort p (fun x =>
    if x.st == .training then
      let s1 := s.at (x.since + us 10000)
      s1.setPort p .down 0 (s1.now + us 1000) 0
    else s) s)

/-- R339: 1 ms after a training that failed, the port trains again. -/
def execTrainingRetry (p : Nat) (s : State) : Host.Outcome State Fault Refusal :=
  .next (onPort p (fun x =>
    if x.st == .down && x.since != 0 then
      let s1 := s.at x.since
      s1.setPort p .training 0 s1.now 0
    else s) s)

/-- R339: a lane fails. -/
def execLaneFailure (p : Nat) (lane : Nat) (s : State) : Host.Outcome State Fault Refusal :=
  .next (onPort p (fun x =>
    if x.carries && x.lanes.getLsbD lane then
      let good := x.lanes &&& ~~~(1#8 <<< lane)
      if good == 0 then s.setPort p .down 0 0 0 else s.setPort p .degraded good x.since 0
    else s) s)

/-- R339: replays on the port exceed 1,024 in 1 ms. DEDUCED: log entry 83. -/
def execReplayThreshold (p : Nat) (s : State) : Host.Outcome State Fault Refusal :=
  .next (onPort p (fun x => if x.carries then s.setPort p .quarantined x.lanes s.now 6 else s) s)

/-- R339: management releases the quarantine, or retrains. -/
def execQuarantineRelease (p : Nat) (s : State) : Host.Outcome State Fault Refusal :=
  .next (onPort p (fun x => if x.carries || x.st == .quarantined then s.setPort p .training 0 s.now 0 else s) s)

/-- R339: management disables the port. -/
def execPortDisable (p : Nat) (s : State) : Host.Outcome State Fault Refusal :=
  .next (onPort p (fun x => if x.st == .down then s else s.setPort p .down 0 0 0) s)

end Sys2Proof.Machine
end

