-- ==== Sys2Proof/Machine/Readback.lean ====
section
/-! DEFINITION. Read-back (R260, R424): the image of each space, byte by byte, as its address selects it. -/

namespace Sys2Proof.Machine

/-- The byte of a table of 8-byte entries. -/
def in8 (off : Nat) (f : Nat → Nat) : Byte := nthByte (f (off / 8)) (off % 8)
def in16 (off : Nat) (f : Nat → Nat) : Byte := nthByte (f (off / 16)) (off % 16)

/-! ## The blocks of a context, as SPACE 0x0B lists them -/

/-- A block as read-back finds it: its grid, block linear id and stage, and its position, if it has one. -/
structure BlkRef where
  grid : Grid
  blk : Nat
  stage : Nat
  pos : Option (Position × Block)
  deriving DecidableEq, Repr

/-- The blocks of a grid that are placed, or were, and have not ended. -/
def State.knownBlocks (s : State) (g : Grid) : List BlkRef :=
  let cn := g.cx * g.cy * g.cz
  let ps := s.c.positions.filter fun p => p.ctx == g.ctx && p.grid == g.id
  let l := ps.flatMap fun p => (p.blocks.filter fun b => !b.ended).map fun b =>
    (⟨g, p.inst * cn + p.loc, b.stage, some (p, b)⟩ : BlkRef)
  sortBy (fun a b => decide (a.blk < b.blk) || (a.blk == b.blk && decide (a.stage ≤ b.stage))) l

def State.stagesOf (s : State) (g : Grid) : List Nat := ((s.kernel? g).map fun k => k.stages.map (·.stage)).getD []

/-- Block `n` of a grid: those known, then those pending. -/
def State.gridBlock (s : State) (g : Grid) (n : Nat) : BlkRef :=
  let l := s.knownBlocks g
  match l[n]? with
  | some b => b
  | none =>
    let st := s.stagesOf g
    let m := n - l.length
    ⟨g, g.next * (g.cx * g.cy * g.cz) + m / st.length, st.getD (m % st.length) 0, none⟩

/-- How many blocks of a grid have not ended. -/
def State.gridBlocks (s : State) (g : Grid) : Nat :=
  (s.knownBlocks g).length + (g.gx * g.gy * g.gz - g.next) * (g.cx * g.cy * g.cz) * (s.stagesOf g).length

def State.nthBlock (s : State) : List Grid → Nat → Option BlkRef
  | [], _ => none
  | g :: r, n => if n < s.gridBlocks g then some (s.gridBlock g n) else s.nthBlock r (n - s.gridBlocks g)

/-- Block slot `n` of a context. -/
def State.blockSlot (s : State) (ctx n : Nat) : Option BlkRef :=
  s.nthBlock (sortBy (fun (a b : Grid) => decide (a.id ≤ b.id)) (s.c.grids.filter fun g => g.ctx == ctx && g.live)) n

/-! ## Images of one block -/

def TV.entry (v : TV) : Nat := v.val.toNat + v.tag.toNat * 2 ^ 32

def Reg.entry (r : Reg) : Nat :=
  r.v.entry + (match r.st with
    | .full => 0
    | .empty => 1
    | .freed => 2) * 2 ^ 37

/-- Thread `t` of a block with its warp. -/
def Block.threadAt (b : Block) (ww t : Nat) : Option (Warp × Thread) :=
  (b.warpOf (t / ww)).bind fun w => (w.threads[t % ww]?).map fun x => (w, x)

/-- SPACE 0x01. -/
def laneImage (ww : Nat) (b : Block) (off : Nat) : Byte :=
  if off < 0x400000 then
    in8 off fun e => match b.threadAt ww (e / 128) with
      | some (w, t) => if e % 128 < 8 * w.gran then ((t.regs[e % 128]?).map (·.entry)).getD 0 else 3 * 2 ^ 37
      | none => 0
  else
    in8 (off - 0x400000) fun e => match b.threadAt ww e with
      | some (_, t) => ((List.range 7).map fun i => (t.preds.getD i false).toNat * 2 ^ i).sum
      | none => 0

def ViewEnt.cls (e : ViewEnt) : Nat × Nat :=
  match e.reg with
  | .x i => (1, i.toNat)
  | .w i => (2, i.toNat)
  | .b i => (3, i.toNat)
  | .c i => (4, i.toNat)
  | .g i => (5, i.toNat)
  | .v i => (0, i.toNat)
  | _ => (6, 0)

/-- A view: its header and its entries, of 16 bytes each. -/
def viewWords (level warp arm : Nat) (l : List ViewEnt) : List Nat :=
  if l.isEmpty then []
  else (level + warp * 2 ^ 8 + arm * 2 ^ 16 + l.length * 2 ^ 24) :: l.map fun e =>
    e.cls.1 + e.cls.2 * 2 ^ 3 + e.sub * 2 ^ 11 + e.v.val.toNat * 2 ^ 64 + e.v.tag.toNat * 2 ^ 96

/-- Every view that a block holds, and its instance's. DESIGN CHOICE: log entry 85. -/
def blockViews (i : Option Inst) (b : Block) : List Nat :=
  (b.warps.flatMap fun w => w.arms.flatMap fun a => viewWords 0 w.idx a.tag a.view)
    ++ (b.warps.flatMap fun w => viewWords 1 w.idx 0 w.view) ++ viewWords 2 0 0 b.view
    ++ viewWords 3 0 0 ((i.map (·.view)).getD [])

/-- Bit 37: some view holds the register. -/
def inViews (l : List (List ViewEnt)) (r : Spec) (sub : Nat) : Nat :=
  if l.any fun v => v.any fun e => e.reg == r && e.sub == sub then 2 ^ 37 else 0

/-- The entries of one warp in SPACE 0x02. -/
def warpScope (w : Warp) (o : Nat) : Nat :=
  let vs := w.arms.map (·.view)
  if o < 0x100 then ((w.w[o / 8]?).map fun v => v.entry + inViews vs (.w (BitVec.ofNat 5 (o / 8))) 0).getD 0
  else if o < 0xA00 then
    let sub := (o - 0x100) / 0x80
    let n := (o - 0x100) % 0x80 / 8
    (((w.x[sub]?).bind (·[n]?)).map fun v => v.entry + inViews vs (.x (BitVec.ofNat 4 n)) sub).getD 0
  else (((w.z[(o - 0xA00) / 8]?).bind id).map fun v => v.entry + 2 ^ 38).getD 0

/-- SPACE 0x02. -/
def scopeImage (g : Grid) (i : Option Inst) (b : Block) (off : Nat) : Byte :=
  let ws := b.warps.map (·.view)
  let up := ws ++ [b.view] ++ (i.map (·.view)).toList
  let one (l : List TV) (r : Nat → Spec) (vs : List (List ViewEnt)) (n : Nat) : Nat :=
    ((l[n]?).map fun v => v.entry + inViews vs (r n) 0).getD 0
  if off < 0x1000 then in8 off (one b.b (fun n => .b (BitVec.ofNat 5 n)) ws)
  else if off < 0x3F000 then
    match b.warpOf (off / 0x1000 - 1) with
    | some w => in8 (off % 0x1000) fun e => warpScope w (8 * e)
    | none => 0
  else if off < 0x3F100 then in8 (off - 0x3F000) (one ((i.map (·.c)).getD []) (fun n => .c (BitVec.ofNat 4 n)) up)
  else if off < 0x40000 then in8 (off - 0x3F100) (one g.g (fun n => .g (BitVec.ofNat 4 n)) up)
  else in16 (off - 0x40000) fun e => (blockViews i b).getD e 0

def causeBits (c : Option Cause) : Nat := (c.map (·.code.toNat)).getD 0

/-- SPACE 0x03. -/
def tagImage (p : Position) (off : Nat) : Byte :=
  in8 off fun j => match p.tags[j]? with
    | some t => t.count + (if t.count = 0 then 2 ^ 8 else 0) + t.tge.toNat * 2 ^ 9 + causeBits t.cause * 2 ^ 10
    | none => 0

/-- SPACE 0x04. -/
def accImage (p : Position) (off : Nat) : Byte :=
  if off < 0x200000 then
    match p.acc[off / 0x10000]? with
    | none => 0
    | some a =>
      let r := off % 0x10000
      match (if r < 0x8000 then a.cur else a.prev) with
      | some t => nthByte ((t.cells.getD (r % 0x8000 / 4) 0).toNat) (r % 4)
      | none => 0
  else
    in16 (off - 0x200000) fun i => match p.acc[i]? with
      | some a => (a.prev.isSome.toNat * 2 ^ 18) + (match a.cur with
          | some t => t.tag.toNat + (if t.pending = 0 then 1 else 2) * 2 ^ 16
          | none => 0)
      | none => 0

def LoftSt.code : LoftSt → Nat
  | .void => 0
  | .loading => 1
  | .full => 2

/-- A byte of a slot's contents: 32 slices of 16 KiB, the columns of a slice one after another (R183). -/
def LoftSlot.byteAt (l : LoftSlot) (o : Nat) : Byte :=
  let cs := (((l.data.headD []).length + 63) / 64) * 64
  if cs = 0 then 0
  else ((l.data[32 * (o % 16384 / cs) + o / 16384]?).bind (·[o % 16384 % cs]?)).getD 0

/-- SPACE 0x05. -/
def loftImage (p : Position) (off : Nat) : Byte :=
  if off < 0x100000 then
    in8 off fun i => match p.loft[i]? with
      | some l => l.ttag.toNat + (l.rows - 1) * 2 ^ 16 + (l.cols - 1) * 2 ^ 29 + l.st.code * 2 ^ 37
      | none => 0
  else match p.loft[(off - 0x100000) / 0x80000]? with
    | some l => l.byteAt ((off - 0x100000) % 0x80000)
    | none => 0

/-- SPACE 0x06. -/
def stashImage (p : Position) (off : Nat) : Byte := if off < p.stashSize then memGet p.stash off else 0

/-- SPACE 0x07. -/
def handleImage (b : Block) (off : Nat) : Byte :=
  match b.warpOf (off / 0x200) with
  | none => 0
  | some w => in16 (off % 0x200) fun i => if i < 16 then (w.h.getD i 0).toNat else (w.m.getD (i - 16) 0).toNat

/-- SPACE 0x0A. -/
def barImage (k : Option StageCode) (p : Position) (b : Block) (off : Nat) : Byte :=
  if off < 0x100 then
    in8 off fun i => if i < ((k.map (·.bars)).getD 0) then
        match b.bars[i]? with
        | some r => r.count.toNat + r.arrived.length * 2 ^ 32 + r.fill.toNat * 2 ^ 38 + r.idm.toNat * 2 ^ 39
            + r.exp * 2 ^ 40 + r.dfl.toNat * 2 ^ 46
        | none => 0
      else 0
  else
    in8 (off - 0x100) fun i => match p.rings[i]? with
      | some r => r.val.entry + r.full.toNat * 2 ^ 37 + r.ph.toNat * 2 ^ 38
          + (r.prod.map fun x => x.2 % 128 * 2 ^ 39 + 2 ^ 46 + x.1 * 2 ^ 55).getD 0
          + (r.cons.map fun x => x.2 % 128 * 2 ^ 47 + 2 ^ 54 + x.1 * 2 ^ 58).getD 0
      | none => 0

/-- SPACE 0x0E. -/
def trapImage (ww : Nat) (b : Block) (off : Nat) : Byte :=
  if off < 0x80 then match b.warpOf (off / 4) with
    | some w => nthByte w.fstat.toNat (off % 4)
    | none => 0
  else if off < 0x100 then nthByte b.mstat.toNat (off - 0x80)
  else match b.threadAt ww ((off - 0x100) / 32) with
    | some (_, t) =>
      let i := (off - 0x100) % 32
      nthByte (([t.tstate, t.tpc, t.tinfo0, t.tinfo1, t.tinfo2, t.tinfo3].getD (i / 4) 0).toNat) (i % 4)
    | none => 0

/-- SPACE 0x12: every party of the frontiers of a warp's arms. -/
def State.frontImage (s : State) (b : Block) (off : Nat) : Byte :=
  match b.warpOf (off / 0x1000) with
  | none => 0
  | some w =>
    let f := w.arms.foldl (fun f a => frontJoin f a.front) []
    in16 (off % 0x1000) fun i => match f[i]? with
      | some x => s.partyBits x.1 + (x.2 % 2 ^ 48) * 2 ^ 64
      | none => 0

/-- SPACE 0x13: what a divergence record holds at a byte the manual does not say, so it is a free value; beyond the
open records stands zero. DESIGN CHOICE: log entry 85. -/
def recImage (free : Nat) (b : Block) (off : Nat) : Byte :=
  match b.warpOf (off / 1024) with
  | none => 0
  | some w => if off % 1024 / 64 < w.recs.length then Config.freeByte free else 0

/-! ## Images of a context -/

/-- SPACE 0x08. -/
def algImage (c : Ctx) (off : Nat) : Byte :=
  match (c.alg[off / 64]?).bind id with
  | some r => nthByte r.toNat (off % 64)
  | none => 0

/-- SPACE 0x09. -/
def regImage (c : Ctx) (off : Nat) : Byte :=
  in8 off fun e =>
    if e < 0x80 then (if (regInfo e).any (·.holder == .context) then (c.reg e).toNat else 0)
    else if e = 0x80 then
      c.evw + c.evr * 2 ^ 21 + c.evlost * 2 ^ 42 + (if c.evlost = 0 then 0 else 2 ^ 63)
    else if e = 0x81 then c.fltcfg.toNat
    else if e = 0x82 then c.fltw + c.fltr * 2 ^ 17
    else 0

def PosSt.code : PosSt → Nat
  | .pending => 0
  | .resident => 1
  | .stopping => 2
  | .held => 3
  | .discarded => 4

/-- SPACE 0x0B. -/
def State.stateImage (s : State) (ctx off : Nat) : Byte :=
  in16 off fun n => match s.blockSlot ctx n with
    | none => 0
    | some r =>
      let st := (r.pos.map (·.1.st)).getD .pending
      let core := match r.pos with
        | some (p, _) => if p.st == .resident then p.core else 0
        | none => 0
      r.grid.id + r.blk * 2 ^ 16 + r.stage * 2 ^ 48 + st.code * 2 ^ 51
        + ((r.pos.map (·.2.region)).getD 0) * 2 ^ 64 + core * 2 ^ 96

/-- SPACE 0x0C. -/
def State.queueImage (s : State) (ctx off : Nat) : Byte :=
  in8 off fun n => match s.queueOf n with
    | some q => if q.ctx == ctx then q.store + q.logn * 2 ^ 24 + q.ctx * 2 ^ 28 + (if q.stopped then 2 else 1) * 2 ^ 40 else 0
    | none => 0

def KeySt.code : KeySt → Nat
  | .empty => 0
  | .active => 1
  | .old => 2
  | .revoked => 3

/-- SPACE 0x0D. -/
def State.padImage (s : State) (pad off : Nat) : Byte :=
  match s.padOf pad with
  | none => 0
  | some p =>
    if off < 0x40 then nthByte p.descBits off
    else match p.keys[(off - 0x40) / 4]? with
      | some k => nthByte (k.st.code + k.dom * 2 ^ 2 + k.kgen * 2 ^ 4) (off % 4)
      | none => 0

/-- The 22 bytes of a race record (R237). -/
def State.sectorBits (s : State) (x : Sector) : Nat :=
  let one (r : ReadMark) : Nat := s.partyBits r.party * 2 ^ 80 + r.epoch % 2 ^ 48 * 2 ^ 112
  (x.writer.map fun w => s.partyBits w.1 + w.2 % 2 ^ 48 * 2 ^ 32).getD 0 + ((x.rcode.map fun a => a.enc.toNat).getD 0) * 2 ^ 26
    + min x.readers.length 2 * 2 ^ 30 + (match x.readers with
      | [r] => one r
      | _ => 0) + x.grid * 2 ^ 160

/-- SPACE 0x10: the record of one sector. -/
def State.raceImage (s : State) (ctx sector off : Nat) : Byte :=
  match s.c.sectors.find? fun x => x.pos == 0 && x.sec == sector && x.ctx == ctx with
  | some x => nthByte (s.sectorBits x) off
  | none => 0

/-- SPACE 0x11: the read table of a context. -/
def State.readsImage (s : State) (ctx off : Nat) : Byte :=
  let l := (s.c.sectors.filter fun x => x.ctx == ctx && decide (2 ≤ x.readers.length)).flatMap (·.readers)
  in16 off fun n => match l[n]? with
    | some r => s.partyBits r.party + r.epoch % 2 ^ 48 * 2 ^ 64
    | none => 0

/-- An object table entry (R324). -/
def Obj.bits (o : Obj) (ctx : Nat) : Nat :=
  1 + o.paged.toNat * 2 + o.wr.toNat * 4 + o.exo.toNat * 8 + o.ext.length * 2 ^ 8 + o.gen * 2 ^ 32
    + (Config.extentList ctx o.id).toNat * 2 ^ 70

/-- An extent record (R326). -/
def Extent.bits (e : Extent) : Nat :=
  e.psz + e.p.toNat * 4 + e.w.toNat * 8 + e.off * 2 ^ 16 + e.npg * 2 ^ 40 + e.pa * 2 ^ 80

/-- SPACE 0x14: byte `i` from an index; a read past the extent list of its object shows zero. -/
def objImage (c : Ctx) (idx i : Nat) : Byte :=
  if idx < 2 ^ 43 then
    if idx + i < 2 ^ 43 then
      match c.objOf ((idx + i) / 64) with
      | some o => nthByte (o.bits c.id) ((idx + i) % 64)
      | none => 0
    else 0
  else
    match c.objOf ((idx - 2 ^ 43) / 2 ^ 19) with
    | some o => in16 (idx % 2 ^ 12 + i) fun n => ((o.ext[n]?).map (·.bits)).getD 0
    | none => 0

/-! ## The window (R424) -/

/-- Spaces that are read only in Saved. -/
def savedOnly (sp : Nat) : Bool := [0x01, 0x02, 0x03, 0x04, 0x05, 0x06, 0x07, 0x08, 0x0A, 0x0E, 0x10, 0x11, 0x12, 0x13].contains sp
def expertSpace (sp : Nat) : Bool := decide (0x10 ≤ sp) && decide (sp ≤ 0x14)
def knownSpace (sp : Nat) : Bool := (decide (0x01 ≤ sp) && decide (sp ≤ 0x0E)) || expertSpace sp

/-- A byte of a space that is laid out per block slot: only a Held block has an image. -/
def State.blockImage (s : State) (ctx sp slot off free : Nat) : Byte :=
  match s.blockSlot ctx slot with
  | some ⟨g, _, _, some (p, b)⟩ =>
    if p.st != .held then 0
    else match sp with
      | 0x01 => laneImage (s.width? p) b off
      | 0x02 => scopeImage g (s.inst? p) b off
      | 0x03 => tagImage p off
      | 0x04 => accImage p off
      | 0x05 => loftImage p off
      | 0x06 => stashImage p off
      | 0x07 => handleImage b off
      | 0x0A => barImage (s.stage? p b.stage) p b off
      | 0x0E => trapImage (s.width? p) b off
      | 0x12 => s.frontImage b off
      | _ => recImage free b off
  | _ => 0

/-- Byte `i` of what an address shows. -/
def State.imageByte (s : State) (c : Ctx) (sp idx i : Nat) : Byte :=
  match sp with
  | 0x08 => algImage c (idx + i)
  | 0x09 => regImage c (idx + i)
  | 0x0B => s.stateImage c.id (idx + i)
  | 0x0C => s.queueImage c.id (idx + i)
  | 0x0D => s.padImage c.pad (idx + i)
  | 0x10 => s.raceImage c.id idx i
  | 0x11 => s.readsImage c.id (idx + i)
  | 0x14 => objImage c idx i
  | _ => s.blockImage c.id sp (idx / 2 ^ 24) (idx % 2 ^ 24 + i) (s.free + i)

/-- The status of a read-back: 1 READBACK_BUSY, 2 READBACK_DENIED, 3 READBACK_BAD. DESIGN CHOICE: log entry 84. -/
def State.readStatus (s : State) (ctx sp : Nat) : Nat :=
  if !knownSpace sp then 3
  else match s.ctxOf ctx with
    | none => 1
    | some c =>
      if c.st == .free || (savedOnly sp && c.st != .saved) then 1
      else if expertSpace sp && !((s.padOf c.pad).any (·.dbg)) then 2
      else 0

/-- R424: an address written to the read-back window selects what it shows. A refused read shows no value. DESIGN CHOICE: log entry 84. -/
def execReadbackAddress (a : AddrWrite) (s : State) : Host.Outcome State Fault Refusal :=
  .next <| s.onWindow (.readbackAddress a) fun s =>
    if s.m.boot != .running then s
    else
      let sp := (a.addr.extractLsb' 56 8).toNat
      let ctx := (a.addr.extractLsb' 44 12).toNat
      let idx := (a.addr.extractLsb' 0 44).toNat
      let st := s.readStatus ctx sp
      let data := match st, s.ctxOf ctx with
        | 0, some c => (List.range 64).map (s.imageByte c sp idx)
        | _, _ => List.replicate 64 0
      { s with free := s.free + 64, m := { s.m with readback := ⟨a.addr, st, data⟩ } }

end Sys2Proof.Machine
end

