-- ==== Sys2Proof/Machine/Dispatch.lean ====
section
/-! DEFINITION. One arm for each row of the opcode table: the direct call of its meaning. -/

namespace Sys2Proof.Machine

def exec (i : Instr) (s : State) : Host.Outcome State Fault Refusal :=
  match i with
  | .iadd f sat g d a b => Sys2Proof.Machine.execIadd f sat g d a b s
  | .isub f sat g d a b => Sys2Proof.Machine.execIsub f sat g d a b s
  | .imul f sat g d a b => Sys2Proof.Machine.execImul f sat g d a b s
  | .imad f sat g d a b c => Sys2Proof.Machine.execImad f sat g d a b c s
  | .imulhi f g d a b => Sys2Proof.Machine.execImulhi f g d a b s
  | .imin f g d a b => Sys2Proof.Machine.execImin f g d a b s
  | .imax f g d a b => Sys2Proof.Machine.execImax f g d a b s
  | .iabs f sat g d a => Sys2Proof.Machine.execIabs f sat g d a s
  | .ineg f sat g d a => Sys2Proof.Machine.execIneg f sat g d a s
  | .and g d a b => Sys2Proof.Machine.execAnd g d a b s
  | .or g d a b => Sys2Proof.Machine.execOr g d a b s
  | .xor g d a b => Sys2Proof.Machine.execXor g d a b s
  | .andn g d a b => Sys2Proof.Machine.execAndn g d a b s
  | .shl g d a b => Sys2Proof.Machine.execShl g d a b s
  | .shr g d a b => Sys2Proof.Machine.execShr g d a b s
  | .sar g d a b => Sys2Proof.Machine.execSar g d a b s
  | .rot g d a b => Sys2Proof.Machine.execRot g d a b s
  | .popc g d a => Sys2Proof.Machine.execPopc g d a s
  | .clz g d a => Sys2Proof.Machine.execClz g d a s
  | .brev g d a => Sys2Proof.Machine.execBrev g d a s
  | .bfx sg g d a b c => Sys2Proof.Machine.execBfx sg g d a b c s
  | .bfi g d a b c => Sys2Proof.Machine.execBfi g d a b c s
  | .icmp cc uns g d a b => Sys2Proof.Machine.execIcmp cc uns g d a b s
  | .sel g d a b c => Sys2Proof.Machine.execSel g d a b c s
  | .mov g d a => Sys2Proof.Machine.execMov g d a s
  | .movk f g d k => Sys2Proof.Machine.execMovk f g d k s
  | .lea sh x64 g d a b => Sys2Proof.Machine.execLea sh x64 g d a b s
  | .dp4 ua ub sat g d a b c => Sys2Proof.Machine.execDp4 ua ub sat g d a b c s
  | .dp8 ua ub sat g d a b c => Sys2Proof.Machine.execDp8 ua ub sat g d a b c s
  | .plop op g d a b => Sys2Proof.Machine.execPlop op g d a b s
  | .pmov k g d a => Sys2Proof.Machine.execPmov k g d a s
  | .fadd f16 ftz r g d a b c => Sys2Proof.Machine.execFadd f16 ftz r g d a b c s
  | .fsub f16 ftz r g d a b c => Sys2Proof.Machine.execFsub f16 ftz r g d a b c s
  | .fmul f16 ftz r g d a b c => Sys2Proof.Machine.execFmul f16 ftz r g d a b c s
  | .ffma f16 ftz r g d a b c => Sys2Proof.Machine.execFfma f16 ftz r g d a b c s
  | .fmin f16 ftz prop g d a b => Sys2Proof.Machine.execFmin f16 ftz prop g d a b s
  | .fmax f16 ftz prop g d a b => Sys2Proof.Machine.execFmax f16 ftz prop g d a b s
  | .fcmp cc ftz g d a b => Sys2Proof.Machine.execFcmp cc ftz g d a b s
  | .fclass sf e1 g d a => Sys2Proof.Machine.execFclass sf e1 g d a s
  | .frcp f16 ftz r g d a => Sys2Proof.Machine.execFrcp f16 ftz r g d a s
  | .frsq f16 ftz r g d a => Sys2Proof.Machine.execFrsq f16 ftz r g d a s
  | .fsqrt f16 ftz r g d a => Sys2Proof.Machine.execFsqrt f16 ftz r g d a s
  | .fex2 f16 ftz r g d a => Sys2Proof.Machine.execFex2 f16 ftz r g d a s
  | .flg2 f16 ftz r g d a => Sys2Proof.Machine.execFlg2 f16 ftz r g d a s
  | .fsin f16 ftz r g d a => Sys2Proof.Machine.execFsin f16 ftz r g d a s
  | .fcos f16 ftz r g d a => Sys2Proof.Machine.execFcos f16 ftz r g d a s
  | .ftanh f16 ftz r g d a => Sys2Proof.Machine.execFtanh f16 ftz r g d a s
  | .frnd f16 ftz r g d a => Sys2Proof.Machine.execFrnd f16 ftz r g d a s
  | .cvt f elem r g d a c => Sys2Proof.Machine.execCvt f elem r g d a c s
  | .qnt f rs g d a b c => Sys2Proof.Machine.execQnt f rs g d a b c s
  | .dqt f g d a b c => Sys2Proof.Machine.execDqt f g d a b c s
  | .pack g d a b c => Sys2Proof.Machine.execPack g d a b c s
  | .unpk wide g d a b => Sys2Proof.Machine.execUnpk wide g d a b s
  | .tagr g d a => Sys2Proof.Machine.execTagr g d a s
  | .tagw f g d a b => Sys2Proof.Machine.execTagw f g d a b s
  | .shfl mode seg g d a b c => Sys2Proof.Machine.execShfl mode seg g d a b c s
  | .vote mode seg g d a => Sys2Proof.Machine.execVote mode seg g d a s
  | .ballot q g d a => Sys2Proof.Machine.execBallot q g d a s
  | .lred op f g d a => Sys2Proof.Machine.execLred op f g d a s
  | .scan op f g d a => Sys2Proof.Machine.execScan op f g d a s
  | .matchq q g d a => Sys2Proof.Machine.execMatchq q g d a s
  | .elect hi seg g d => Sys2Proof.Machine.execElect hi seg g d s
  | .sup f g d a => Sys2Proof.Machine.execSup f g d a s
  | .sred op f g d a => Sys2Proof.Machine.execSred op f g d a s
  | .rgive g n => Sys2Proof.Machine.execRgive g n s
  | .rclaim g p n => Sys2Proof.Machine.execRclaim g p n s
  | .rpool which g d => Sys2Proof.Machine.execRpool which g d s
  | .ldh g d a => Sys2Proof.Machine.execLdh g d a s
  | .ld f g d hs idx o => Sys2Proof.Machine.execLd f g d hs idx o s
  | .st f g v hs idx o => Sys2Proof.Machine.execSt f g v hs idx o s
  | .atom op sys g d hs idx v => Sys2Proof.Machine.execAtom op sys g d hs idx v s
  | .red op sys g hs idx v => Sys2Proof.Machine.execRed op sys g hs idx v s
  | .fence sc g => Sys2Proof.Machine.execFence sc g s
  | .pfh l2 g hs idx o => Sys2Proof.Machine.execPfh l2 g hs idx o s
  | .res kind g hs idx n => Sys2Proof.Machine.execRes kind g hs idx n s
  | .cpy g hd hs q => Sys2Proof.Machine.execCpy g hd hs q s
  | .cpyr op rf g hd hs q => Sys2Proof.Machine.execCpyr op rf g hd hs q s
  | .waitt hi g p m => Sys2Proof.Machine.execWaitt hi g p m s
  | .waita hi g p m => Sys2Proof.Machine.execWaita hi g p m s
  | .tfind kind hi g d m => Sys2Proof.Machine.execTfind kind hi g d m s
  | .smap n g q hs x => Sys2Proof.Machine.execSmap n g q hs x s
  | .smapOff n g => Sys2Proof.Machine.execSmapOff n g s
  | .sflush n g t => Sys2Proof.Machine.execSflush n g t s
  | .sinv n g => Sys2Proof.Machine.execSinv n g s
  | .send g hs q => Sys2Proof.Machine.execSend g hs q s
  | .recv g hd q => Sys2Proof.Machine.execRecv g hd q s
  | .relay g d hp x q => Sys2Proof.Machine.execRelay g d hp x q s
  | .rlwait g p t => Sys2Proof.Machine.execRlwait g p t s
  | .lload g l hs x q => Sys2Proof.Machine.execLload g l hs x q s
  | .mfence g => Sys2Proof.Machine.execMfence g s
  | .mma g p => Sys2Proof.Machine.execMma g p s
  | .mwait prev g a => Sys2Proof.Machine.execMwait prev g a s
  | .azero n new g a => Sys2Proof.Machine.execAzero n new g a s
  | .amov comp prev g d a idx => Sys2Proof.Machine.execAmov comp prev g d a idx s
  | .ast r prev g md a t => Sys2Proof.Machine.execAst r prev g md a t s
  | .ald new g a ms t => Sys2Proof.Machine.execAld new g a ms t s
  | .arel prev g a => Sys2Proof.Machine.execArel prev g a s
  | .alg n g p => Sys2Proof.Machine.execAlg n g p s
  | .conj n g d a => Sys2Proof.Machine.execConj n g d a s
  | .norm n g d a => Sys2Proof.Machine.execNorm n g d a s
  | .amul n rev g d a b => Sys2Proof.Machine.execAmul n rev g d a b s
  | .barB idem g b n => Sys2Proof.Machine.execBarB idem g b n s
  | .barC g => Sys2Proof.Machine.execBarC g s
  | .barG g => Sys2Proof.Machine.execBarG g s
  | .carrive g b k => Sys2Proof.Machine.execCarrive g b k s
  | .cwait g b n => Sys2Proof.Machine.execCwait g b n s
  | .rpush g r v => Sys2Proof.Machine.execRpush g r v s
  | .rpop want g d r => Sys2Proof.Machine.execRpop want g d r s
  | .enq g hs idx => Sys2Proof.Machine.execEnq g hs idx s
  | .enqAt g hs idx => Sys2Proof.Machine.execEnqAt g hs idx s
  | .enqRetry g q t => Sys2Proof.Machine.execEnqRetry g q t s
  | .enqCancel g q t => Sys2Proof.Machine.execEnqCancel g q t s
  | .tdone g => Sys2Proof.Machine.execTdone g s
  | .qstat what g d q t => Sys2Proof.Machine.execQstat what g d q t s
  | .ask g hd q p => Sys2Proof.Machine.execAsk g hd q p s
  | .annc g hs q p => Sys2Proof.Machine.execAnnc g hs q p s
  | .wdrw g q t => Sys2Proof.Machine.execWdrw g q t s
  | .nmk fld g d v => Sys2Proof.Machine.execNmk fld g d v s
  | .pslot g p hs t w => Sys2Proof.Machine.execPslot g p hs t w s
  | .ppost g a q p => Sys2Proof.Machine.execPpost g a q p s
  | .pwait n g d q => Sys2Proof.Machine.execPwait n g d q s
  | .prel n g q => Sys2Proof.Machine.execPrel n g q s
  | .pair gp ha hb => Sys2Proof.Machine.execPair gp ha hb s
  | .bra g off => Sys2Proof.Machine.execBra g off s
  | .brx call g a => Sys2Proof.Machine.execBrx call g a s
  | .call g off => Sys2Proof.Machine.execCall g off s
  | .ret g => Sys2Proof.Machine.execRet g s
  | .exit g => Sys2Proof.Machine.execExit g s
  | .yield g => Sys2Proof.Machine.execYield g s
  | .join g => Sys2Proof.Machine.execJoin g s
  | .sysr g d n => Sys2Proof.Machine.execSysr g d n s
  | .sysw g a n => Sys2Proof.Machine.execSysw g a n s
  | .trap g k => Sys2Proof.Machine.execTrap g k s
  | .tret next g => Sys2Proof.Machine.execTret next g s
  | .brk g k => Sys2Proof.Machine.execBrk g k s
  | .evf g => Sys2Proof.Machine.execEvf g s
  | .nop g => Sys2Proof.Machine.execNop g s
  | .packetFormation core => Sys2Proof.Machine.execPacketFormation core s
  | .fillLands core id => Sys2Proof.Machine.execFillLands core id s
  | .handleFillLands core id => Sys2Proof.Machine.execHandleFillLands core id s
  | .claimServed pos => Sys2Proof.Machine.execClaimServed pos s
  | .regDeadlock pos => Sys2Proof.Machine.execRegDeadlock pos s
  | .copyComplete id => Sys2Proof.Machine.execCopyComplete id s
  | .lloadComplete id => Sys2Proof.Machine.execLloadComplete id s
  | .chainComplete id => Sys2Proof.Machine.execChainComplete id s
  | .aldComplete id => Sys2Proof.Machine.execAldComplete id s
  | .astComplete id => Sys2Proof.Machine.execAstComplete id s
  | .sflushComplete id => Sys2Proof.Machine.execSflushComplete id s
  | .windowLineFill pos win line => Sys2Proof.Machine.execWindowLineFill pos win line s
  | .windowSnoop ctx obj off wr => Sys2Proof.Machine.execWindowSnoop ctx obj off wr s
  | .faultServiceTimeout ctx fid => Sys2Proof.Machine.execFaultServiceTimeout ctx fid s
  | .progressWatchdog pos stage => Sys2Proof.Machine.execProgressWatchdog pos stage s
  | .localityPeriod core => Sys2Proof.Machine.execLocalityPeriod core s
  | .taskStart ctx => Sys2Proof.Machine.execTaskStart ctx s
  | .starterRelease => Sys2Proof.Machine.execStarterRelease s
  | .instancePlacement ctx grid => Sys2Proof.Machine.execInstancePlacement ctx grid s
  | .revocationDrainExpiry cluster => Sys2Proof.Machine.execRevocationDrainExpiry cluster s
  | .saveDrainExpiry ctx => Sys2Proof.Machine.execSaveDrainExpiry ctx s
  | .stopDrainExpiry pad => Sys2Proof.Machine.execStopDrainExpiry pad s
  | .coreRemovalDrainExpiry core => Sys2Proof.Machine.execCoreRemovalDrainExpiry core s
  | .finaliseComplete ctx obj => Sys2Proof.Machine.execFinaliseComplete ctx obj s
  | .gridIdSweepDone ctx grid => Sys2Proof.Machine.execGridIdSweepDone ctx grid s
  | .dataFlit port f => Sys2Proof.Machine.execDataFlit port f s
  | .creditFlit port f => Sys2Proof.Machine.execCreditFlit port f s
  | .acknowledgementFlit port group sq a => Sys2Proof.Machine.execAcknowledgementFlit port group sq a s
  | .relayDataFlit port f => Sys2Proof.Machine.execRelayDataFlit port f s
  | .messageLocalComplete id => Sys2Proof.Machine.execMessageLocalComplete id s
  | .snd pa pb ca cb => Sys2Proof.Machine.execSnd pa pb ca cb s
  | .rcv pa pb ca cb => Sys2Proof.Machine.execRcv pa pb ca cb s
  | .rrs op rf ns pa pb ca cb => Sys2Proof.Machine.execRrs op rf ns pa pb ca cb s
  | .cpys ca cb => Sys2Proof.Machine.execCpys ca cb s
  | .wat => Sys2Proof.Machine.execWat s
  | .loop cnt tgt => Sys2Proof.Machine.execLoop cnt tgt s
  | .endr => Sys2Proof.Machine.execEndr s
  | .relayIssueTimeout eng sq => Sys2Proof.Machine.execRelayIssueTimeout eng sq s
  | .interestArrival pad face name expiry => Sys2Proof.Machine.execInterestArrival pad face name expiry s
  | .tileReturn pad face name t => Sys2Proof.Machine.execTileReturn pad face name t s
  | .announcementDecision id => Sys2Proof.Machine.execAnnouncementDecision id s
  | .nameDeliveryComplete id => Sys2Proof.Machine.execNameDeliveryComplete id s
  | .askLifetimeExpiry id => Sys2Proof.Machine.execAskLifetimeExpiry id s
  | .penPostArrival p => Sys2Proof.Machine.execPenPostArrival p s
  | .penSlotTimeout pen slot => Sys2Proof.Machine.execPenSlotTimeout pen slot s
  | .penRelease pen slot => Sys2Proof.Machine.execPenRelease pen slot s
  | .penReleaseWritten pen slot => Sys2Proof.Machine.execPenReleaseWritten pen slot s
  | .push w whole r => Sys2Proof.Machine.execPush w whole r s
  | .taskRetry w tid => Sys2Proof.Machine.execTaskRetry w tid s
  | .taskCancel w tid => Sys2Proof.Machine.execTaskCancel w tid s
  | .queueStop w => Sys2Proof.Machine.execQueueStop w s
  | .queueStart w => Sys2Proof.Machine.execQueueStart w s
  | .launch w r => Sys2Proof.Machine.execLaunch w r s
  | .readbackAddress a => Sys2Proof.Machine.execReadbackAddress a s
  | .signalBitmapRead w => Sys2Proof.Machine.execSignalBitmapRead w s
  | .windowWriteOther b w => Sys2Proof.Machine.execWindowWriteOther b w s
  | .createContext h => Sys2Proof.Machine.execCreateContext h s
  | .destroyContext h => Sys2Proof.Machine.execDestroyContext h s
  | .saveContext h => Sys2Proof.Machine.execSaveContext h s
  | .restoreContext h => Sys2Proof.Machine.execRestoreContext h s
  | .writeContextRegister h n v => Sys2Proof.Machine.execWriteContextRegister h n v s
  | .loadContainer h image => Sys2Proof.Machine.execLoadContainer h image s
  | .removeObject h obj => Sys2Proof.Machine.execRemoveObject h obj s
  | .objectCreate h paged wr => Sys2Proof.Machine.execObjectCreate h paged wr s
  | .addExtent h obj c => Sys2Proof.Machine.execAddExtent h obj c s
  | .split h obj off => Sys2Proof.Machine.execSplit h obj off s
  | .merge h obj off psz => Sys2Proof.Machine.execMerge h obj off psz s
  | .narrow h obj c => Sys2Proof.Machine.execNarrow h obj c s
  | .objectRemove h obj => Sys2Proof.Machine.execObjectRemove h obj s
  | .resolveFault h fid fatal => Sys2Proof.Machine.execResolveFault h fid fatal s
  | .writeObject link cmd host => Sys2Proof.Machine.execWriteObject link cmd host s
  | .readObject link cmd upto => Sys2Proof.Machine.execReadObject link cmd upto s
  | .createQueue h q desc => Sys2Proof.Machine.execCreateQueue h q desc s
  | .destroyQueue h q => Sys2Proof.Machine.execDestroyQueue h q s
  | .writeFilterEntry h idx ent => Sys2Proof.Machine.execWriteFilterEntry h idx ent s
  | .writeRouteEntry h idx ent => Sys2Proof.Machine.execWriteRouteEntry h idx ent s
  | .paddockCreate h d => Sys2Proof.Machine.execPaddockCreate h d s
  | .paddockResize h d => Sys2Proof.Machine.execPaddockResize h d s
  | .paddockStop h => Sys2Proof.Machine.execPaddockStop h s
  | .paddockStart h => Sys2Proof.Machine.execPaddockStart h s
  | .paddockDestroy h => Sys2Proof.Machine.execPaddockDestroy h s
  | .removeCore h core => Sys2Proof.Machine.execRemoveCore h core s
  | .keyInstall h slot dom k => Sys2Proof.Machine.execKeyInstall h slot dom k s
  | .keyRewrap h slot => Sys2Proof.Machine.execKeyRewrap h slot s
  | .rewrapDone pad slot => Sys2Proof.Machine.execRewrapDone pad slot s
  | .keyRevoke h slot => Sys2Proof.Machine.execKeyRevoke h slot s
  | .preEmptPosition h grid blk => Sys2Proof.Machine.execPreEmptPosition h grid blk s
  | .attest h addr nonce => Sys2Proof.Machine.execAttest h addr nonce s
  | .setPowerCap h watts => Sys2Proof.Machine.execSetPowerCap h watts s
  | .coldReset images => Sys2Proof.Machine.execColdReset images s
  | .ptpMessage time => Sys2Proof.Machine.execPtpMessage time s
  | .thermalThrottle => Sys2Proof.Machine.execThermalThrottle s
  | .thermalTrip => Sys2Proof.Machine.execThermalTrip s
  | .portEnable p => Sys2Proof.Machine.execPortEnable p s
  | .trainingComplete p good => Sys2Proof.Machine.execTrainingComplete p good s
  | .trainingTimeout p => Sys2Proof.Machine.execTrainingTimeout p s
  | .trainingRetry p => Sys2Proof.Machine.execTrainingRetry p s
  | .laneFailure p lane => Sys2Proof.Machine.execLaneFailure p lane s
  | .replayThreshold p => Sys2Proof.Machine.execReplayThreshold p s
  | .quarantineRelease p => Sys2Proof.Machine.execQuarantineRelease p s
  | .portDisable p => Sys2Proof.Machine.execPortDisable p s
  | .dieFailure d => Sys2Proof.Machine.execDieFailure d s
  | .clusterRetire cluster => Sys2Proof.Machine.execClusterRetire cluster s
  | .channelRetire die base len moves => Sys2Proof.Machine.execChannelRetire die base len moves s
  | .cxlPortDown p => Sys2Proof.Machine.execCxlPortDown p s
  | .scrubberError pa => Sys2Proof.Machine.execScrubberError pa s
  | .correctedError pad src synd => Sys2Proof.Machine.execCorrectedError pad src synd s
  | .accessPerformed id lvl => Sys2Proof.Machine.execAccessPerformed id lvl s
  | .scrubComplete cluster => Sys2Proof.Machine.execScrubComplete cluster s
  | .commandComplete link => Sys2Proof.Machine.execCommandComplete link s
  | .filterBucketRefill idx => Sys2Proof.Machine.execFilterBucketRefill idx s

end Sys2Proof.Machine
end

