-- ==== Sys2Proof/Machine/Fetch.lean ====
section
/-! DEFINITION. Fetching: the next word of a packet (R49, R296) and the next step of a relay (R347), and a state in
which a given word comes next. -/

namespace Sys2Proof.Machine

/-- The tables of the Stile that an operation depends on (R410). -/
def OpKind.tables : OpKind → List Nat
  | .ask .. | .annc .. => [0, 1]
  | .post .. | .slot .. => [3]
  | _ => []

/-- The source that stands for a table: the name router, or the pens. -/
def tableSrc (table : Nat) : Nat := if table = 3 then 7 else 6

/-- An operation that depends on a table in error: whether it used the entry in error is free. DESIGN CHOICE: log entry 162. -/
def State.useTables (s : State) (o : EngOp) : State :=
  match o.kind.tables.find? fun k => !s.sound (stileAt k) 1 with
  | none => s
  | some k =>
    let (b, s1) := s.drawBit
    if b then (s1.breakOp o).tellHost (tableSrc k) 0 else s1

/-- The operations that depend on tables in error, after a step. -/
def State.tableErrors (s : State) : State := s.c.ops.foldl State.useTables s

/-- The step that a relay runs next: its program is read and checked before its first (R348). -/
def State.fetchStep (r : Relay) : Option (BitVec 128) := r.prog[r.pc]?

/-! ## The end of a step -/

/-- What follows every step: cross-lane instructions that every lane has issued complete (R171), waits that are met end (R294,
R299), lanes of a fatal fault trap where they park (R335), logged accesses that had to wait are tried again (R336), what a save or a stop
takes away goes (R256, R311), a context with no saved block left is restored (R255), launches that waited for a page go on
(R331), asks and interests that were held take the places freed (R358), returned tiles that waited find room (R362), pens' releases become possible (R378), other members of droves report
(R293), and operations meet tables in error (R410). -/
def State.after (s : State) : State := s.finishEarlies.wake.killLogs.retries.saves.restores.lateReads.stops.admits.admitTiles.markPens.reports.tableErrors

/-- The next state of a step from `s`, unless it passes a last epoch, with what follows it. -/
def stepEnd (s : State) (o : Host.Outcome State Fault Refusal) : Host.Outcome State Fault Refusal :=
  match o with
  | .next t => .next (s.unlessSpent t).after
  | .fault f => .fault f
  | .refused r => .refused r

/-! ## A state in which a word comes next

A kernel of one clause with one warp of 8 threads is resident on core 0: context 0 of paddock 0, grid 0, code object
1. It stands for the load and launch of a program (log entry 1). -/

/-- The clause: its header, and the word. -/
def probeStage (w : Dword) (scl : Bool) : StageCode :=
  { stage := 0, role := 0, regs := 128, bars := 16, stash := 64, tags := 64, loft := 8, acc := 32, base := 0,
    words := [if scl then 0xFF02000000000000 else 0xFF00000000000000, w], handler := none, xdecl := 0xFFFF,
    wdecl := 0xFFFFFFFF, bdecl := 0xFFFFFFFF, xred := 0, wred := 0, bred := 0, own := [], fix := [] }

def probeKernel (w : Dword) (scl : Bool) : Kernel :=
  { eoff := 0, ww := 8, det := false, cohab := false, rings := 8, cdecl := 0xFFFF, gdecl := 0xFFFF, cred := 0, gred := 0,
    stages := [probeStage w scl] }

def probePaddock : Paddock :=
  { id := 0, st := .live, imp := false, borrow := false, dbg := false, rank := 0, realm := 1, gcnt := 1, mcnt := 0, gset := 1,
    slices := 0x01010101, pens := 1, relays := 1, lgrp := 1, ishare := 1, fold := 1, qblk := 1, dgib := [4, 0, 0, 0], cxl := 0,
    dwt := 1, keys := [⟨.active, 0, 1⟩, ⟨.active, 1, 1⟩, ⟨.active, 2, 1⟩, ⟨.empty, 0, 0⟩], hgcnt := 1, hdgib := [4, 0, 0, 0],
    drain := none, wantLive := false, rewrap := [], carve := 0, tenant := [] }

def probeGrid (node : Nat) : Grid :=
  { ctx := 0, id := 0, code := 1, kern := 0, gx := 1, gy := 1, gz := 1, cx := 1, cy := 1, cz := 1,
    nwarp := [1, 0, 0, 0, 0, 0, 0, 0], hmask := 0xFFFF, hinit := List.replicate 16 0, binit := List.replicate 32 .zero,
    cinit := List.replicate 16 .zero, g := List.replicate 16 .zero, next := 1, bell := 0, mirror := none, retire := [],
    arrG := [], fronts := [], start := [], drove := [(node, 0)], away := [], lost := [], far := none, draw := 0, task := none, t0 := 0, t1 := 0, t2 := 0, live := true }

/-- The tables with the kernel, its context, its paddock, its grid and its position in them. -/
def State.probed (s : State) (w : Dword) (scl : Bool) : State :=
  let k := probeKernel w scl
  let g := probeGrid s.node
  let c := Ctx.create 0 0 .live
  let x : Code := { ctx := 0, id := 1, st := .installed, digest := [], kernels := [k], data := [], image := [],
                    removeReq := false }
  let i : Inst := { ctx := 0, grid := 0, lin := 0, hw := 0, c := g.cinit, view := [], arrC := [], fronts := [],
                    gone := [] }
  let s1 : State :=
    { s with
      c := { s.c with grids := g :: s.c.grids.filter (fun y => !(y.ctx == 0 && y.id == 0))
                      insts := i :: s.c.insts.filter (fun y => !(y.ctx == 0 && y.grid == 0)) }
      t := { s.t with ctxs := c :: s.t.ctxs.filter (·.id != 0), codes := x :: s.t.codes.filter (·.ctx != 0) }
      m := { s.m with paddocks := probePaddock :: s.m.paddocks.filter (·.id != 0), boot := .running } }
  s1.putPosition k g c 0 0 0 [] []

/-- A packet of that warp in issue slot 0 of core 0, at the word. DESIGN CHOICE: log entry 1. -/
def State.probePacket (s : State) (w : Dword) : State :=
  let scl : Bool := match decodeIn false w with
    | .ok _ => false
    | .bad _ => true
  let wk : WKey := ⟨s.nextId, 0, 0⟩
  let lanes := List.range 8
  let p : Packet := { ctx := 0, code := 1, kern := 0, stage := 0, hdr := 0, idx := 0, cnt := 1, scl := scl,
                      arms := [⟨wk, 0, lanes⟩], born := 0 }
  let s1 := ((s.probed w scl).modLanes wk lanes fun t => { t with st := .packed }).modCore 0 (·.putSlot 0 (some p))
  { s1 with agenda := [.issue 0 0] }

/-- A relay at the head of engine 0's queue, at the step. -/
def State.probeRelay (s : State) (b : BitVec 128) : State :=
  let id := s.nextId + 100
  let m : RelayMem := { die := 0, op := id, ctx := 0, pos := s.nextId, tag := 0, gen := 1, hin := 0, hout := 0, hgrp := 0 }
  let r : Relay := { eng := 0, seq := 0, pad := 0, rank := 0, size := 1, ch := 1, chan := 0, dmask := 0, hp := 0, first := 0,
                     mems := [m], prog := [b], pc := 0, iter := 0, wait := .none, out := [], due := 0 }
  let o : EngOp := { id := id, ctx := 0, pos := s.nextId, stage := 0, warp := 0, lane := 0, core := 0, party := ⟨0, 0, 0⟩,
                     epoch := 0, front := [], grid := 0, det := false, tags := [0], kind := .relay 0 0, st := .issued,
                     seq := 0, sees := [] }
  let s1 := (s.probed 0 false).modC fun c => { c with ops := o :: c.ops }
  { s1 with agenda := [.relay 0], nextId := id + 1, t := { s1.t with relays := r :: s1.t.relays.filter (·.eng != 0) } }

end Sys2Proof.Machine
end

