-- ==== Sys2Proof/Machine/Step.lean ====
section
/-! DEFINITION. One step: the head of the agenda, or the passing of time. -/

namespace Sys2Proof.Machine

/-- An issue slot issues its packet's next instruction (R296); an empty slot issues nothing. DESIGN CHOICE: log entry 126. -/
def State.issueStep (s : State) (core slot : Nat) : Host.Outcome State Fault Refusal :=
  match s.packet? core slot with
  | none => .next s
  | some p =>
    if !s.codeSound p then .next (s.fetchFails core p)
    else match s.brokenArms p with
      | (a :: l, s1) => .next (s1.failArms core (a :: l))
      | ([], s1) => match s.fetchWord p with
        | none => .fault .noWord
        | some w => match (decodeIn p.scl w).toOption with
          | none => .fault .badWord
          | some i => exec i { s1 with cur := .packet core slot }

/-- A relay engine runs its next step (R347), or takes up the relay at the head of its queue (R348, R349). -/
def State.relayStep (s : State) (eng : Nat) : Host.Outcome State Fault Refusal :=
  match s.relayHead eng with
  | none => .next s
  | some r =>
    if r.prog.isEmpty then .next (s.beginRelay r)
    else if r.wait != .none then .next s
    else match State.fetchStep r with
      | none => .fault .noWord
      | some b => match decodeStep b with
        | none => .fault .badWord
        | some i => exec i { s with cur := .engine eng }

/-- One step. What happens next is the agenda's to say: an event, an issue slot or a relay engine (log entry 2). With
nothing on it a cycle passes. -/
def step (s : State) : Host.Outcome State Fault Refusal :=
  stepEnd { s with agenda := s.agenda.tail, cur := .none } <|
    match s.agenda with
    | [] => .next (s.passCycles 1)
    | .event i :: r => exec i { s with agenda := r, cur := .none }
    | .issue core slot :: r => { s with agenda := r }.issueStep core slot
    | .relay eng :: r => { s with agenda := r }.relayStep eng

/-- `s` with an instruction placed where the next step fetches it (log entry 1). -/
def State.withFetchWord (s : State) (nbits w : Nat) : State :=
  if nbits ≤ 64 then s.probePacket (BitVec.ofNat 64 w) else s.probeRelay (BitVec.ofNat 128 w)

end Sys2Proof.Machine
end

