-- ==== Sys2Proof/Safety.lean ====
section
/-! DEFINITION. The terms claims are stated in: what a safe run is, a packet that stands at an instruction, and the
state in which an instruction leaves it. -/

namespace Sys2Proof.Machine

/-! ## Runs -/

/-- A step answers a next state: it neither stops on a word nor refuses one. -/
def State.Runs (s : State) : Prop := ∃ t, step s = .next t

/-- Device memory and every position's stash are in canonical form. -/
def State.memoryOk (s : State) : Bool := Memory.wf s.c.mem && s.c.positions.all fun p => Memory.wf p.stash

/-- Nothing is due: no event, no issue slot and no relay engine stands on the agenda. -/
def State.Idle (s : State) : Prop := s.agenda = []

/-! ## A packet at an instruction (R144, R296) -/

/-- A thread of a packet at the packet's next instruction. -/
def RCtx.ready (c : RCtx) (idx lane : Nat) : Prop :=
  ∃ t, c.warp.threads[lane]? = some t ∧ t.st = .packed ∧ t.idx = idx

/-- The step runs the instruction of the packet `p`, whose threads are those of the one arm `a`, all of them at that
instruction; `c` is what they share. -/
structure State.At (s : State) (core slot : Nat) (p : Packet) (a : PArm) (c : RCtx) : Prop where
  cur : s.cur = .packet core slot
  packet : s.packet? core slot = some p
  arm : p.arms = [a]
  scene : s.scene a.wk = some c
  ready : ∀ l ∈ a.lanes, c.ready p.idx l

/-- The results of lanes that all have one. -/
def ArmOut.ofLanes (r : List (Nat × LaneOut)) : ArmOut := { lanes := r.map fun x => (x.1, .out x.2) }

/-- A last use that a packet's instruction makes (R197). -/
def Packet.atUse (p : Packet) (u : TileUse) : Bool := u.hdr == p.hdr && u.idx == p.idx

/-- The state an instruction leaves when none of its lanes waits or traps: `s` with the results `o` committed to the
arm's warp, its threads past the instruction, and its packet at the next one. -/
def State.landed (s : State) (core slot : Nat) (p : Packet) (a : PArm) (c : RCtx) (scl : Bool) (dsts early : List Spec)
    (o : ArmOut) : State :=
  ((((s.freeWides a.wk o.lanes).modWarp a.wk (·.commit a.arm (partyOf c.warp a.arm) a.lanes scl dsts early o)).passLanes a.wk a.lanes
    p.idx).passUses a.wk (p.atUse ·) a.lanes).settlePacket core slot


/-- The lanes of an arm that go on with its instructions and do not meet a test. -/
def RCtx.armLiveOf (c : RCtx) (arm : Nat) (on : Nat → Bool) : List Nat :=
  (((c.warp.armOf arm).map fun a => a.lanes.filter c.warp.going).getD []).filter fun l => !on l

/-- Where a packet instruction stands: its issue slot, its packet, the packet's one arm, and what its lanes share. -/
structure Here where
  core : Nat
  slot : Nat
  p : Packet
  a : PArm
  c : RCtx

def State.here (s : State) (h : Here) : Prop := s.At h.core h.slot h.p h.a h.c

/-- The executing lanes under a guard (R54, R144): in a scalar clause the arm's lowest lane stands for all. -/
def Here.lanes (h : Here) (g : Guard) : List RCtx := h.c.executing h.p.scl g h.a

/-- The executing threads of an instruction that acts in each thread even in a scalar clause. -/
def Here.threads (h : Here) (g : Guard) : List RCtx := h.c.executing false g h.a

/-- Every live thread of the arm is in the packet. -/
abbrev Here.whole (h : Here) : Prop := h.a.entire h.c.warp = true

/-- `s` once the packet's arm has acquired the batons that it is about to read among operands (R233). -/
def State.acquires (s : State) (h : Here) (g : Guard) (early : List Spec) : State :=
  s.takesBatons h.a.wk h.a.arm (h.lanes g) early

/-- `s` once the instruction has left the results `o` of its arm, which has acquired the batons among `early` before. -/
def State.left (s : State) (h : Here) (dsts : List Spec) (o : ArmOut) (early : List Spec := []) : State :=
  s.landed h.core h.slot h.p h.a h.c h.p.scl dsts early o

/-- `s` once the instruction has left the results `o` of its lanes. -/
def State.done (s : State) (h : Here) (dsts : List Spec) (o : List (Nat × LaneOut)) (early : List Spec := []) : State :=
  s.left h dsts (.ofLanes o) early

/-- `s` once every executing lane has left its result. -/
def State.wrote (s : State) (h : Here) (g : Guard) (dsts : List Spec) (out : RCtx → LaneOut) : State :=
  s.done h dsts ((h.lanes g).map fun k => (k.lane, out k))

/-- A lane's result that writes one value and frees its last-use sources. -/
def LaneOut.one (d : Dst) (srcs : List Src) (v : TV × Flags) : LaneOut := { writes := [(d, v.1)], frees := srcs, flags := v.2 }

/-- `i` writes the value `val` to its destination `d` in every executing lane, raises the flags beside it, and goes on,
whenever every executing lane may write `d` and the lanes agree on what they write to a baton (R125). -/
def State.Delivers (s : State) (h : Here) (g : Guard) (d : Dst) (srcs : List Src) (i : Instr) (val : RCtx → TV × Flags) : Prop :=
  (∀ k ∈ h.lanes g, wrOk k d srcs = .ok ()) →
  ((∃ z, d.spec = .z z) → ∀ k ∈ h.lanes g, ∀ l ∈ h.lanes g, (val k).1 = (val l).1) →
  exec i s = .next (s.wrote h g [d.spec] fun k => .one d srcs (val k))

/-- A value without flags. -/
def noFlags (v : RCtx → TV) (k : RCtx) : TV × Flags := (v k, {})

/-- Every executing lane reads the operand `src` of a field as `r`. -/
abbrev Here.Reads (h : Here) (g : Guard) (field : Nat) (src : Src) (r : RCtx → RV) : Prop :=
  ∀ k ∈ h.lanes g, rd k field src = .ok (r k)

/-- Every executing lane reads a second operand that may be an immediate. -/
abbrev Here.ReadsI (h : Here) (g : Guard) (b : SrcI) (r : RCtx → RV) : Prop := ∀ k ∈ h.lanes g, rdI k b = .ok (r k)

/-- Every executing lane's operand is an integer source of the format, with these elements (R102). -/
abbrev Here.Ints (h : Here) (g : Guard) (f : IFmt) (r : RCtx → RV) (x : RCtx → List Int) : Prop :=
  ∀ k ∈ h.lanes g, (r k).ints f = .ok (x k)

/-- Every executing lane's operand is a floating source of the format, with these elements (R92, R102). -/
abbrev Here.Floats (h : Here) (g : Guard) (f16 ftz : Bool) (r : RCtx → RV) (x : RCtx → List Exact) : Prop :=
  ∀ k ∈ h.lanes g, (r k).floats f16 ftz = .ok (x k)

/-- Exact results, one for each element, each rounded once in the mode and flushed (R86, R91, R92). -/
def rounded (f16 ftz : Bool) (m : Rnd) (rnd : Word) (l : List (Exact × Flags)) : TV × Flags :=
  let r := l.map (deliver f16 ftz m rnd)
  (floatTV f16 (r.map (·.1)), joinAll (r.map (·.2)))

/-- The random operand of `.rs` as every executing lane reads it; other modes read none (R90). -/
abbrev Here.Random (h : Here) (g : Guard) (m : Rnd) (e : Src) (rnd : RCtx → Word) : Prop :=
  ∀ k ∈ h.lanes g, rndOf k m e = .ok (rnd k)

/-- The values of the present lanes by thread index, for a warp of width W (R109). -/
def Here.byLane (h : Here) (g : Guard) (first w : Nat) (x : RCtx → Word) : List (Option Word) :=
  (List.range w).map fun i => ((h.lanes g).find? fun k => k.lane == first + i).map x

/-- The present lanes of a lane's segment of n lanes (R172). -/
def Here.segment (h : Here) (g : Guard) (n lane : Nat) : List RCtx := (h.lanes g).filter fun l => l.lane / n == lane / n

/-- Every executing lane may write `d`. -/
abbrev Here.Writable (h : Here) (g : Guard) (d : Dst) (srcs : List Src) : Prop := ∀ k ∈ h.lanes g, wrOk k d srcs = .ok ()

/-- The results of an arm whose executing lanes all have the same one. -/
def Here.each (h : Here) (g : Guard) (o : LaneOut) : List (Nat × LaneOut) := (h.lanes g).map fun k => (k.lane, o)

/-- `s` once an instruction that acts in each thread even in a scalar clause has left the results `o`. -/
def State.leftThreads (s : State) (h : Here) (o : List (Nat × LaneOut)) : State :=
  s.landed h.core h.slot h.p h.a h.c false [] [] (.ofLanes o)

/-- `s` once every executing thread has left for its target (R177). -/
def State.went (s : State) (h : Here) (g : Guard) (way : RCtx → Way) : State :=
  s.leftThreads h ((h.threads g).map fun k =>
    (k.lane, { leave := some (way k).pc, calls := some (way k).calls, frees := (way k).frees }))

/-- The clause headers that the arm's threads leave for: their targets, or the next clause for those whose guard is false. -/
def State.heads (s : State) (h : Here) (g : Guard) (way : RCtx → Way) : List Nat :=
  (h.threads g).map (fun k => (way k).pc) ++
    (h.c.armLiveOf h.a.arm (fun l => (h.threads g).any (·.lane == l))).filterMap fun l =>
      (h.c.warp.threads[l]?).map (s.nextOf h.c)

/-- The threads of the packet's arm that trap: in a scalar clause, all of them (R53). -/
def Here.trapping (h : Here) (g : Guard) (x : RCtx → Trap) : List (Nat × Trap) :=
  if h.p.scl then (h.lanes g).flatMap fun k => h.a.lanes.map fun l => (l, x k)
  else (h.lanes g).map fun k => (k.lane, x k)

/-- `s` once every executing lane has trapped: nothing is written, the trap is taken, the other lanes go on
(R146), in deterministic mode after a lower one that has trapped (R134). -/
def State.trapped (s : State) (h : Here) (g : Guard) (x : RCtx → Trap) : State :=
  let ts := h.trapping g x
  let s1 := s.modWarp h.a.wk (·.commit h.a.arm (partyOf h.c.warp h.a.arm) h.a.lanes h.p.scl [] []
    { lanes := (h.lanes g).map fun k => (k.lane, .trap (x k)) })
  let s2 := if ts.isEmpty then s1.passLanes h.a.wk h.a.lanes h.p.idx
    else ((s1.takeTraps h.a.wk ts).passLanes h.a.wk h.a.lanes h.p.idx).holdRest h.core h.a.wk (ts.map (·.1))
  (s2.passUses h.a.wk (h.p.atUse ·) (h.a.lanes.filter fun l => !(ts.map (·.1)).contains l)).settlePacket h.core h.slot

/-- The packet's arm may release and acquire: its warp has epochs left (R240), enough for one lane of any instruction. -/
abbrev Here.epochs (h : Here) : Prop := h.c.warp.epoch + 8 < 2 ^ 48

/-- A lane's result touches a register: it writes it, frees it by a last use, or marks it empty. A transient result
leaves a lane register alone (R124). -/
def LaneOut.touches (o : LaneOut) (r : Spec) : Bool :=
  (o.writes.any fun w => w.1.spec == r && match r with
    | .v _ => !w.1.byp
    | _ => true) ||
  (o.frees.any fun x => x.last && x.spec == r) ||
  (match r with
    | .v i => o.empties.contains i.toNat
    | _ => false)

/-! ## Lanes that act in turn -/

/-- Lanes act one after another, each on the state the lane before it left: `P` relates the state a lane meets, the lane,
its result and the state it leaves, in which the lane's warp has not passed its last epoch (R240). -/
def State.InTurn (P : State → RCtx → LaneOut → State → Prop) : State → List RCtx → List (Nat × LaneOut) → State → Prop
  | s, [], os, t => os = [] ∧ t = s
  | s, k :: ks, os, t => ∃ o u rest, os = (k.lane, o) :: rest ∧ P s k o u ∧ u.overspent k.wk = false ∧
      State.InTurn P u ks rest t

/-- `i` acquires the batons among `early`, acts in its executing lanes in turn, as `P` says of each, and goes on. -/
def State.Turns (s : State) (h : Here) (g : Guard) (dsts early : List Spec) (i : Instr)
    (P : State → RCtx → LaneOut → State → Prop) : Prop :=
  ∀ os t, State.InTurn P (s.acquires h g early) (h.lanes g) os t → exec i s = .next (t.done h dsts os early)

/-- `s` once an arm has read a tile for the last time, where it does (R197): the tile goes once all its lanes have. -/
def State.usedLast (s : State) (h : Here) (g : Guard) (acc : Nat) (prev last : Bool) : State :=
  match last, h.lanes g with
  | true, k :: _ => s.noteUse k acc prev
  | _, _ => s

/-- The packet's arm, as what its lanes share. -/
def Here.lead (h : Here) : RCtx := { h.c with arm := h.a.arm }

/-- A lane register as the state holds it. -/
def State.laneReg (s : State) (wk : WKey) (lane r : Nat) : Option Reg :=
  ((s.warpOf wk).bind (·.threads[lane]?)).bind (·.regs[r]?)

/-- A thread of a warp as the state holds it. -/
def State.threadOf (s : State) (wk : WKey) (lane : Nat) : Option Thread := (s.warpOf wk).bind (·.threads[lane]?)

/-! ## Host commands (R423) -/

/-- The package serves commands, and the link takes one now: neither link has one in progress, and link 0 sends none in this
cycle that goes first. -/
def State.takes (s : State) (link : Bool) : Prop :=
  s.m.boot = .running ∧ s.linkYields link (.config link) = false ∧ s.linkBusy link = false ∧ s.linkBusy (!link) = false ∧ s.m.links.length = 2

/-- The command `i` leaves `u`, and its reply waits on the link. -/
def State.Serves (s : State) (link : Bool) (i : Instr) (u : State) (r : Reply) : Prop :=
  exec i s = .next (u.modLink link fun l => { l with busy := some (r.status, r.cause, r.result) })

/-- The events by which engines, fills and windows reach memory. -/
def memoryEvent : Instr → Bool
  | .fillLands _ _ | .handleFillLands _ _ | .accessPerformed _ _ | .copyComplete _ | .lloadComplete _ | .chainComplete _
  | .aldComplete _ | .astComplete _ | .sflushComplete _ | .windowLineFill _ _ _ | .windowSnoop _ _ _ _ => true
  | _ => false

end Sys2Proof.Machine
end

