-- ==== Sys2Proof/Certificates/Slice0/Obligations.lean ====
section
/-! DEFINITION. The statements for the provers. Each holds for every state, packet and operand that its hypotheses
admit; its docstring names the rules it comes from, or the log entry of a reading it rests on. -/

section Statements

open Sys2Proof Sys2Proof.Machine

/-! ## Lane arithmetic (R144 to R170) -/

/-- R149: each integer operation, exact on the elements of its sources, then brought into the format. The values read are
those of R102; a high half is a floor division by 2^w. R149: in the 32-bit formats the delivered container is the
exact result modulo 2^32, tagged with the format; with SAT a result outside the range of the format becomes the
nearest end of the range and FSTAT.SAT is raised. -/
def Obligations.IntegerArithmetic : Prop :=
  (∀ (s : State) (h : Here) (g : Guard) (f : IFmt) (sat : Bool) (d : Dst) (a : Src) (ra : RCtx → RV) (x : RCtx → List Int),
     s.here h → h.Reads g 1 a ra → h.Ints g f ra x →
     (∀ (b : SrcI) (rb : RCtx → RV) (y : RCtx → List Int), h.ReadsI g b rb → h.Ints g f rb y →
       s.Delivers h g d (srcsI a b) (.iadd f sat g d a b) (fun k => intResult f sat (List.zipWith (· + ·) (x k) (y k))) ∧
       s.Delivers h g d (srcsI a b) (.isub f sat g d a b) (fun k => intResult f sat (List.zipWith (· - ·) (x k) (y k))) ∧
       s.Delivers h g d (srcsI a b) (.imul f sat g d a b) (fun k => intResult f sat (List.zipWith (· * ·) (x k) (y k))) ∧
       s.Delivers h g d (srcsI a b) (.imin f g d a b) (fun k => intResult f false (List.zipWith min (x k) (y k))) ∧
       s.Delivers h g d (srcsI a b) (.imax f g d a b) (fun k => intResult f false (List.zipWith max (x k) (y k)))) ∧
     (∀ (b e : Src) (rb re : RCtx → RV) (y z : RCtx → List Int), h.Reads g 2 b rb → h.Ints g f rb y →
       h.Reads g 3 e re → h.Ints g f re z →
       s.Delivers h g d [a, b, e] (.imad f sat g d a b e)
         (fun k => intResult f sat (List.zipWith (· + ·) (List.zipWith (· * ·) (x k) (y k)) (z k)))) ∧
     (∀ (b : Src) (rb : RCtx → RV) (y : RCtx → List Int), h.Reads g 2 b rb → h.Ints g f rb y →
       s.Delivers h g d [a, b] (.imulhi f g d a b) (fun k => intResult f false
         (List.zipWith (fun u v => u * v / 2 ^ elemBits (ifmtCode f)) (x k) (y k)))) ∧
     s.Delivers h g d [a] (.iabs f sat g d a) (fun k => intResult f sat ((x k).map fun u => if u < 0 then -u else u)) ∧
     s.Delivers h g d [a] (.ineg f sat g d a) (fun k => intResult f sat ((x k).map fun u => -u))) ∧
  (∀ t : Int,
     (∀ f ∈ [IFmt.s32, IFmt.n32], intResult f false [t] = (⟨BitVec.ofInt 32 t, ifmtCode f⟩, {})) ∧
     (-2 ^ 31 ≤ t → t < 2 ^ 31 → intResult .s32 true [t] = (⟨BitVec.ofInt 32 t, F.s32⟩, {})) ∧
     (0 ≤ t → t < 2 ^ 32 → intResult .n32 true [t] = (⟨BitVec.ofInt 32 t, F.n32⟩, {})) ∧
     (t < -2 ^ 31 → intResult .s32 true [t] = (⟨0x80000000, F.s32⟩, { sat := true })) ∧
     (2 ^ 31 ≤ t → intResult .s32 true [t] = (⟨0x7FFFFFFF, F.s32⟩, { sat := true })) ∧
     (t < 0 → intResult .n32 true [t] = (⟨0, F.n32⟩, { sat := true })) ∧
     (2 ^ 32 ≤ t → intResult .n32 true [t] = (⟨0xFFFFFFFF, F.n32⟩, { sat := true })))

/-- R150: logic and shifts act on the 32 bits whatever the tags; a shift by 32 or more leaves zeros, or copies of the sign
bit; the result has the tag of S1, or raw32 where S1 has none. R152: with p the low five bits of S2 and n the lesser
of S3's low six bits and 32 − p, `bfx` writes bits p to p + n − 1 of S1, zero- or sign-extended and tagged n32 or s32;
`bfi` writes D's old contents with these bits replaced by the low bits of S1, under D's own tag. -/
def Obligations.LogicShiftsAndFields : Prop :=
  (∀ (s : State) (h : Here) (g : Guard) (d : Dst) (a : Src) (b : SrcI) (ra rb : RCtx → RV),
     s.here h → h.Reads g 1 a ra → h.ReadsI g b rb →
     let x (k : RCtx) : Word := (ra k).bits
     let y (k : RCtx) : Word := (rb k).bits
     let n (k : RCtx) : Nat := (y k).toNat
     let tagged (v : RCtx → Word) : RCtx → TV × Flags :=
       noFlags fun k => ⟨v k, match (ra k).tag with | .tag f => f | _ => F.raw32⟩
     s.Delivers h g d (srcsI a b) (.and g d a b) (tagged fun k => x k &&& y k) ∧
     s.Delivers h g d (srcsI a b) (.or g d a b) (tagged fun k => x k ||| y k) ∧
     s.Delivers h g d (srcsI a b) (.xor g d a b) (tagged fun k => x k ^^^ y k) ∧
     s.Delivers h g d (srcsI a b) (.andn g d a b) (tagged fun k => x k &&& ~~~ y k) ∧
     s.Delivers h g d (srcsI a b) (.shl g d a b) (tagged fun k => if 32 ≤ n k then 0 else x k <<< n k) ∧
     s.Delivers h g d (srcsI a b) (.shr g d a b) (tagged fun k => if 32 ≤ n k then 0 else x k >>> n k) ∧
     s.Delivers h g d (srcsI a b) (.sar g d a b) (tagged fun k => (x k).sshiftRight (min (n k) 31)) ∧
     s.Delivers h g d (srcsI a b) (.rot g d a b) (tagged fun k => (x k).rotateLeft (n k % 32))) ∧
  (∀ (s : State) (h : Here) (g : Guard) (d : Dst) (a b e : Src) (ra rb re : RCtx → RV),
     s.here h → h.Reads g 1 a ra → h.Reads g 2 b rb → h.Reads g 3 e re →
     let p (k : RCtx) : Nat := (rb k).bits.toNat % 32
     let n (k : RCtx) : Nat := min ((re k).bits.toNat % 64) (32 - p k)
     ∃ (zx sx : Word → Nat → Nat → Word) (ins : Word → Word → Nat → Nat → Word),
       (∀ x p n i, p + n ≤ 32 → i < 32 → (zx x p n).getLsbD i = (decide (i < n) && x.getLsbD (p + i))) ∧
       (∀ x p n i, p + n ≤ 32 → i < 32 → (sx x p n).getLsbD i = (decide (0 < n) && x.getLsbD (p + min i (n - 1)))) ∧
       (∀ old x p n i, p + n ≤ 32 → i < 32 → (ins old x p n).getLsbD i =
         if p ≤ i ∧ i < p + n then x.getLsbD (i - p) else old.getLsbD i) ∧
       s.Delivers h g d [a, b, e] (.bfx false g d a b e) (noFlags fun k => ⟨zx (ra k).bits (p k) (n k), F.n32⟩) ∧
       s.Delivers h g d [a, b, e] (.bfx true g d a b e) (noFlags fun k => ⟨sx (ra k).bits (p k) (n k), F.s32⟩) ∧
       (∀ old : RCtx → RV, h.Reads g 0 ⟨d.spec, false, false⟩ old →
         s.Delivers h g d [a, b, e] (.bfi g d a b e)
           (noFlags fun k => ⟨ins (old k).bits (ra k).bits (p k) (n k), (old k).outTag⟩)))

/-- R151: `popc` and `clz` write the number of set bits and of leading zero bits (32 for zero) tagged n32; `brev`
reverses the bits and keeps the tag of S1, or writes raw32. They are encoded as V with MOD 0 and S2 and S3 absent. -/
def Obligations.BitCounts : Prop :=
  ∀ (s : State) (h : Here) (g : Guard) (d : Dst) (a : Src) (ra : RCtx → RV), s.here h → h.Reads g 1 a ra →
    (∃ pop lead : Word → Nat, ∃ rev : Word → Word,
      (∀ x, pop x = ((List.range 32).filter fun i => x.getLsbD i).length) ∧
      (lead 0 = 32 ∧ ∀ x, x ≠ 0 → x.getLsbD (31 - lead x) = true ∧ lead x < 32 ∧ ∀ i, 31 - lead x < i → x.getLsbD i = false) ∧
      (∀ x i, i < 32 → (rev x).getLsbD i = x.getLsbD (31 - i)) ∧
      s.Delivers h g d [a] (.popc g d a) (noFlags fun k => ⟨BitVec.ofNat 32 (pop (ra k).bits), F.n32⟩) ∧
      s.Delivers h g d [a] (.clz g d a) (noFlags fun k => ⟨BitVec.ofNat 32 (lead (ra k).bits), F.n32⟩) ∧
      s.Delivers h g d [a] (.brev g d a)
        (noFlags fun k => ⟨rev (ra k).bits, match (ra k).tag with | .tag f => f | _ => F.raw32⟩)) ∧
    (∀ x ∈ [(Instr.popc g d a, 0x11#8), (.clz g d a, 0x12#8), (.brev g d a, 0x13#8)],
      (encode x.1).extractLsb' 56 8 = x.2 ∧ (encode x.1).extractLsb' 51 5 = 0#5 ∧ (encode x.1).extractLsb' 0 24 = 0xDFCDFC#24)

/-- R153 to R157: a comparison writes 1 or 0; `sel` reads S3 and then only the source that it chooses, `mov` copies bits
and tag (s32 for an untagged source, raw32 for the zero special), `movk` writes a constant, and `lea` adds a shifted
index modulo 2^32, or modulo 2^64 over register pairs. -/
def Obligations.CompareSelectMove : Prop :=
  ∀ (s : State) (h : Here) (g : Guard) (d : Dst) (a : Src), s.here h →
    (∀ (b : SrcI) (cc : ICmp) (uns : Bool) (ra rb : RCtx → RV) (x y : RCtx → Int), h.Reads g 1 a ra → h.ReadsI g b rb →
      (∀ k ∈ h.lanes g, (ra k).int32 (if uns then F.n32 else F.s32) = .ok (x k) ∧
        (rb k).int32 (if uns then F.n32 else F.s32) = .ok (y k)) →
      s.Delivers h g d (srcsI a b) (.icmp cc uns g d a b) (noFlags fun k => ⟨if (match cc with
        | .eq => decide (x k = y k)
        | .ne => decide (x k ≠ y k)
        | .lt => decide (x k < y k)
        | .le => decide (x k ≤ y k)
        | .gt => decide (x k > y k)
        | .ge => decide (x k ≥ y k)) then 1 else 0, F.n32⟩)) ∧
    (∀ (b e : Src) (chosen re : RCtx → RV), h.Reads g 3 e re →
      (∀ k ∈ h.lanes g, if (re k).bits = 0 then rd k 2 b = .ok (chosen k) else rd k 1 a = .ok (chosen k)) →
      (∀ k ∈ h.lanes g, wrOk k d [e, if (re k).bits = 0 then b else a] = .ok ()) →
      ((∃ z, d.spec = .z z) → ∀ k ∈ h.lanes g, ∀ l ∈ h.lanes g, (chosen k).tv = (chosen l).tv) →
      exec (.sel g d a b e) s = .next (s.wrote h g [d.spec] fun k =>
        { writes := [(d, (chosen k).tv)], frees := [e, if (re k).bits = 0 then b else a] })) ∧
    (∀ ra : RCtx → RV, h.Reads g 1 a ra →
      s.Delivers h g d [a] (.mov g d a) (noFlags fun k => ⟨(ra k).bits, match (ra k).tag with
        | .tag f => f
        | .untagged => F.s32
        | .zeroSp => F.raw32⟩)) ∧
    (∀ (f : Fmt) (v : Word), s.Delivers h g d [] (.movk f g d v) (noFlags fun _ => ⟨v, f⟩)) ∧
    (∀ (sh : BitVec 3) (b : SrcI) (ra rb : RCtx → RV), h.Reads g 1 a ra → h.ReadsI g b rb →
      s.Delivers h g d (srcsI a b) (.lea sh false g d a b)
        (noFlags fun k => ⟨(ra k).bits + ((rb k).bits <<< sh.toNat), F.n32⟩) ∧
      (∀ hi : RCtx → RV, h.Reads g 1 (srcSucc a) hi → (¬ ∃ z, d.spec = .z z) →
        (∀ k ∈ h.lanes g, wrOk k d = .ok () ∧ wrOk k (dstSucc d) = .ok ()) →
        let sum (k : RCtx) : BitVec 64 := ((hi k).bits ++ (ra k).bits) + ((rb k).bits.signExtend 64 <<< sh.toNat)
        exec (.lea sh true g d a b) s = .next (s.wrote h g [d.spec, specSucc d.spec] fun k =>
          { writes := [(d, ⟨(sum k).setWidth 32, F.n32⟩), (dstSucc d, ⟨(sum k >>> 32).setWidth 32, F.n32⟩)]
            frees := a :: srcSucc a :: srcsI ⟨.zero, false, false⟩ b })))

/-- R158 to R160: a dot product adds the products of the packed elements to the accumulator, exactly, then clamps or
wraps; `plop` combines two predicates, and `pmov` moves between predicates and registers. -/
def Obligations.DotProductsAndPredicates : Prop :=
  ∀ (s : State) (h : Here) (g : Guard), s.here h →
    (∀ (ua ub sat : Bool) (d : Dst) (a b e : Src) (ra rb re : RCtx → RV) (x y : RCtx → List Int) (z : RCtx → Int),
      h.Reads g 1 a ra → h.Reads g 2 b rb → h.Reads g 3 e re →
      let fr : Fmt := if ua && ub then F.n32 else F.s32
      let sum (k : RCtx) : Int := z k + (List.zipWith (· * ·) (x k) (y k)).sum
      let lo : Int := if ua && ub then 0 else -2 ^ 31
      let hi : Int := if ua && ub then 2 ^ 32 - 1 else 2 ^ 31 - 1
      let val (k : RCtx) : TV × Flags :=
        if sat then (⟨BitVec.ofInt 32 (max lo (min hi (sum k))), fr⟩, { sat := decide (sum k < lo) || decide (hi < sum k) })
        else (⟨BitVec.ofInt 32 (sum k), fr⟩, {})
      (∀ k ∈ h.lanes g, (re k).int32 fr = .ok (z k)) →
      ((∀ k ∈ h.lanes g, (ra k).packed (if ua then F.n8 else F.s8) = .ok (x k) ∧
          (rb k).packed (if ub then F.n8 else F.s8) = .ok (y k)) →
        s.Delivers h g d [a, b, e] (.dp4 ua ub sat g d a b e) val) ∧
      ((∀ k ∈ h.lanes g, (ra k).packed (if ua then F.n4 else F.s4) = .ok (x k) ∧
          (rb k).packed (if ub then F.n4 else F.s4) = .ok (y k)) →
        s.Delivers h g d [a, b, e] (.dp8 ua ub sat g d a b e) val)) ∧
    (∀ (op : PlopOp) (d a b : BitVec 3) (ra rb : RCtx → RV), h.Reads g 1 ⟨.p a, false, false⟩ ra →
      h.Reads g 2 ⟨.p b, false, false⟩ rb →
      let u (k : RCtx) : Bool := (ra k).bits != 0
      let v (k : RCtx) : Bool := (rb k).bits != 0
      s.Delivers h g ⟨.p d, false⟩ [] (.plop op g d a b) (noFlags fun k => ⟨if (match op with
        | .and => u k && v k
        | .or => u k || v k
        | .xor => xor (u k) (v k)
        | .andn => u k && !v k
        | .nand => !(u k && v k)
        | .nor => !(u k || v k)
        | .xnor => !(xor (u k) (v k))
        | .orn => u k || !v k) then 1 else 0, F.n32⟩)) ∧
    (∀ (d : Dst) (a : Src) (ra : RCtx → RV), h.Reads g 1 a ra →
      s.Delivers h g d [a] (.pmov .r2p g d a) (noFlags fun k => ⟨if (ra k).bits ≠ 0 then 1 else 0, F.n32⟩) ∧
      s.Delivers h g d [a] (.pmov .p2r g d a) (noFlags fun k => ⟨if (ra k).bits ≠ 0 then 1 else 0, F.n32⟩) ∧
      s.Delivers h g d [a] (.pmov .m2p g d a)
        (noFlags fun k => ⟨if (ra k).bits.getLsbD (k.lane % 32) then 1 else 0, F.n32⟩))

/-- R161, R162: each floating operation takes the exact result of every element and rounds it once in the mode of the
instruction; `fmin` and `fmax` choose as R88 states, and `frnd` rounds to an integral value without NX. R86: a sum and
a product of finite numbers, before they are rounded, are exact. -/
def Obligations.FloatArithmetic : Prop :=
  (∀ (s : State) (h : Here) (g : Guard) (f16 ftz : Bool) (m : Rnd) (d : Dst) (a : Src) (ra : RCtx → RV)
     (x : RCtx → List Exact), s.here h → h.Reads g 1 a ra → h.Floats g f16 ftz ra x →
     (∀ (b : Src) (rb : RCtx → RV) (y : RCtx → List Exact), h.Reads g 2 b rb → h.Floats g f16 ftz rb y →
       (∀ (e : Src) (rnd : RCtx → Word), h.Random g m e rnd →
         s.Delivers h g d [a, b, e] (.fadd f16 ftz m g d a b e)
           (fun k => rounded f16 ftz m (rnd k) (List.zipWith (fun u v => ivFlag (exactAdd m u v)) (x k) (y k))) ∧
         s.Delivers h g d [a, b, e] (.fsub f16 ftz m g d a b e)
           (fun k => rounded f16 ftz m (rnd k) (List.zipWith (fun u v => ivFlag (exactAdd m u v.neg)) (x k) (y k))) ∧
         s.Delivers h g d [a, b, e] (.fmul f16 ftz m g d a b e)
           (fun k => rounded f16 ftz m (rnd k) (List.zipWith (fun u v => ivFlag (exactMul u v)) (x k) (y k)))) ∧
       (∀ (e : Src) (re : RCtx → RV) (z : RCtx → List Exact), h.Reads g 3 e re → h.Floats g f16 ftz re z →
         s.Delivers h g d [a, b, e] (.ffma f16 ftz m g d a b e) (fun k => rounded f16 ftz m 0
           (List.zipWith (fun p w => ivFlag (exactFma m p.1 p.2 w)) ((x k).zip (y k)) (z k)))) ∧
       (∀ prop : Bool,
         s.Delivers h g d [a, b] (.fmin f16 ftz prop g d a b)
           (fun k => rounded f16 ftz .rne 0 (List.zipWith (fun u v => ivFlag (minMax false prop u v)) (x k) (y k))) ∧
         s.Delivers h g d [a, b] (.fmax f16 ftz prop g d a b)
           (fun k => rounded f16 ftz .rne 0 (List.zipWith (fun u v => ivFlag (minMax true prop u v)) (x k) (y k))))) ∧
     (let fn (f : Real.Fn) (k : RCtx) : TV × Flags := rounded f16 ftz m 0 ((x k).map (Real.apply f))
      s.Delivers h g d [a] (.frcp f16 ftz m g d a) (fn .rcp) ∧ s.Delivers h g d [a] (.frsq f16 ftz m g d a) (fn .rsq) ∧
      s.Delivers h g d [a] (.fsqrt f16 ftz m g d a) (fn .sqrt) ∧ s.Delivers h g d [a] (.fex2 f16 ftz m g d a) (fn .ex2) ∧
      s.Delivers h g d [a] (.flg2 f16 ftz m g d a) (fn .lg2) ∧ s.Delivers h g d [a] (.fsin f16 ftz m g d a) (fn .sin) ∧
      s.Delivers h g d [a] (.fcos f16 ftz m g d a) (fn .cos) ∧ s.Delivers h g d [a] (.ftanh f16 ftz m g d a) (fn .tanh)) ∧
     s.Delivers h g d [a] (.frnd f16 ftz m g d a) (fun k => rounded f16 false m 0 ((x k).map (integral m)))) ∧
  (∃ val : Exact → ℚ,
     (∀ n num den e, val (.fin n num den e) = (if n then -1 else 1) * (num / den) * 2 ^ e) ∧
     ∀ (m : Rnd) (nx ny : Bool) (ax bx ay b' : Nat) (ex ey : Int), bx ≠ 0 → b' ≠ 0 →
       let u : Exact := .fin nx ax bx ex
       let v : Exact := .fin ny ay b' ey
       (exactAdd m u v).2 = false ∧ (exactAdd m u v).1.isNaN = false ∧ (exactAdd m u v).1.isInf = false ∧
       val (exactAdd m u v).1 = val u + val v ∧
       (exactMul u v).2 = false ∧ val (exactMul u v).1 = val u * val v)

/-- R163, R164: a comparison of two f32 sources writes 1 where the relation holds, raises IV on a signalling NaN, and on
any NaN for the order relations; `fclass` writes the mask of the class of one element. R166 to R168: `cvt` converts
one element, `qnt` divides by the scale and puts the result into one element of D, and `dqt` multiplies an element by
the scale and rounds to nearest even. -/
def Obligations.FloatTestsAndConversions : Prop :=
  (∀ (s : State) (h : Here) (g : Guard) (d : Dst) (a : Src) (ra : RCtx → RV), s.here h → h.Reads g 1 a ra →
     (∀ (cc : FCmp) (ftz : Bool) (b : Src) (rb : RCtx → RV) (x y : RCtx → Exact), h.Reads g 2 b rb →
       (∀ k ∈ h.lanes g, (ra k).f32 = .ok (x k) ∧ (rb k).f32 = .ok (y k)) →
       let u (k : RCtx) : Exact := ftzSource ftz F.f32 (x k)
       let v (k : RCtx) : Exact := ftzSource ftz F.f32 (y k)
       let un (k : RCtx) : Bool := (u k).isNaN || (v k).isNaN
       let sn (k : RCtx) : Bool := (u k).isSNaN || (v k).isSNaN
       s.Delivers h g d [a, b] (.fcmp cc ftz g d a b) (fun k => (⟨if (match cc with
         | .eq => exactEq (u k) (v k)
         | .ne => !exactEq (u k) (v k)
         | .lt => exactLt (u k) (v k)
         | .le => exactLt (u k) (v k) || exactEq (u k) (v k)
         | .gt => exactLt (v k) (u k)
         | .ge => exactLt (v k) (u k) || exactEq (u k) (v k)
         | .num => !un k
         | .nan => un k) then 1 else 0, F.n32⟩, { iv := match cc with
           | .eq | .ne | .num | .nan => sn k
           | _ => un k }))) ∧
     (∀ (sf : SrcFmt) (e1 : Bool), (∀ k ∈ h.lanes g, (ra k).tag = .tag (srcFmtCode sf)) →
       s.Delivers h g d [a] (.fclass sf e1 g d a) (noFlags fun k =>
         ⟨BitVec.ofNat 32 (match ieeeVal (srcFmtCode sf) (elemAt (elemBits (srcFmtCode sf)) (ra k).bits e1.toNat) with
           | .nan sig => if sig then 1 else 2
           | .inf n => if n then 4 else 512
           | .fin n num den e =>
             if num = 0 then (if n then 32 else 64)
             else if exactSubnormal (srcFmtCode sf) (.fin n num den e) then (if n then 16 else 128)
             else (if n then 8 else 256)), F.n32⟩))) ∧
  (∀ (s : State) (h : Here) (g : Guard) (f : Fmt) (d : Dst) (a e : Src) (ra : RCtx → RV), s.here h → h.Reads g 1 a ra →
     (∀ (elem : BitVec 3) (m : Rnd) (rnd : RCtx → Word) (t : RCtx → Fmt), h.Random g m e rnd →
       (∀ k ∈ h.lanes g, (ra k).tag = .tag (t k) ∧ t k ≠ F.raw32 ∧ elem.toNat < elemCount (t k)) →
       s.Delivers h g d [a, e] (.cvt f elem m g d a e) (fun k =>
         let r := convertTo f m (rnd k) (elemVal (t k) (elemAt (elemBits (t k)) (ra k).bits elem.toNat))
         (⟨BitVec.ofNat 32 r.1, f⟩, r.2))) ∧
     (∀ (m : Rnd) (rnd : RCtx → Word), h.Random g m e rnd →
       (∀ k ∈ h.lanes g, (ra k).tag = .untagged ∨ (ra k).tag = .zeroSp) →
       s.Delivers h g d [a, e] (.cvt f 0 m g d a e) (fun k =>
         let r := convertTo f m (rnd k) (.ofInt (ra k).bits.toInt)
         (⟨BitVec.ofNat 32 r.1, f⟩, r.2))) ∧
     (∀ (b : Src) (old rb re : RCtx → RV) (x y : RCtx → Exact), h.Reads g 0 ⟨d.spec, false, false⟩ old → h.Reads g 2 b rb →
       h.Reads g 3 e re → (∀ k ∈ h.lanes g, (ra k).f32 = .ok (x k) ∧ (rb k).f32 = .ok (y k)) →
       let base (k : RCtx) : Word := if (old k).tag = .tag f then (old k).bits else 0
       let val (rs : Bool) (i : RCtx → Nat) (k : RCtx) : TV × Flags :=
         let q := quantize f (if rs then .rs else .rne) (re k).bits (x k) (y k)
         (⟨trimL6 f (setElem (elemBits f) (base k) (i k) q.1), f⟩, q.2)
       s.Delivers h g d [a, b, e] (.qnt f true g d a b e) (val true fun _ => 0) ∧
       ((∀ k ∈ h.lanes g, (re k).bits.toNat < elemCount f) →
         s.Delivers h g d [a, b, e] (.qnt f false g d a b e) (val false fun k => (re k).bits.toNat))) ∧
     (∀ (b : Src) (rb re : RCtx → RV) (y : RCtx → Exact), h.Reads g 2 b rb → h.Reads g 3 e re →
       (∀ k ∈ h.lanes g, (ra k).tag = .tag f ∧ (rb k).f32 = .ok (y k) ∧ (re k).bits.toNat < elemCount f) →
       s.Delivers h g d [a, b, e] (.dqt f g d a b e) (fun k =>
         let p := exactMul (elemVal f (elemAt (elemBits f) (ra k).bits (re k).bits.toNat)) (y k)
         let r := roundRNE F.f32 p.1
         (⟨BitVec.ofNat 32 r.1, F.f32⟩, r.2.join { iv := p.2 }))))

/-- R169, R170, R140, R64 to R67: `pack` and `unpk` move elements, `tagr` and `tagw` read and set format tags, `rpool`
reads the register pool, and a pair computes both halves from the values before either is written. -/
def Obligations.ElementsTagsAndPairs : Prop :=
  ∀ (s : State) (h : Here) (g : Guard) (d : Dst) (a : Src), s.here h →
    (∀ (b e : Src) (ra rb re : RCtx → RV) (f : RCtx → Fmt), h.Reads g 1 a ra → h.Reads g 2 b rb → h.Reads g 3 e re →
      (∀ k ∈ h.lanes g, (ra k).tag = .tag (f k) ∧ 1 < elemCount (f k) ∧ ((rb k).tag = .tag (f k) ∨ (rb k).tag = .zeroSp) ∧
        (re k).bits.toNat < elemCount (f k)) →
      s.Delivers h g d [a, b, e] (.pack g d a b e) (noFlags fun k =>
        ⟨trimL6 (f k) (setElem (elemBits (f k)) (rb k).bits (re k).bits.toNat (elemAt (elemBits (f k)) (ra k).bits 0)), f k⟩)) ∧
    (∀ (b : Src) (ra rb : RCtx → RV) (f : RCtx → Fmt), h.Reads g 1 a ra → h.Reads g 2 b rb →
      (∀ k ∈ h.lanes g, (ra k).tag = .tag (f k) ∧ 1 < elemCount (f k) ∧ (rb k).bits.toNat < elemCount (f k)) →
      let el (k : RCtx) : Nat := elemAt (elemBits (f k)) (ra k).bits (rb k).bits.toNat
      s.Delivers h g d [a, b] (.unpk false g d a b) (noFlags fun k => ⟨BitVec.ofNat 32 (el k), f k⟩) ∧
      s.Delivers h g d [a, b] (.unpk true g d a b) (noFlags fun k => ⟨wideBits (f k) (el k),
        if isSigned (f k) then F.s32 else if isUnsigned (f k) then F.n32 else F.f32⟩)) ∧
    (∀ ra : RCtx → RV, h.Reads g 1 a ra → (∀ i j l, a.spec ≠ .m i ∧ a.spec ≠ .l j ∧ a.spec ≠ .a l) →
      s.Delivers h g d [a] (.tagr g d a) (noFlags fun k => ⟨BitVec.ofNat 32 (ra k).outTag.toNat, F.n32⟩)) ∧
    (∀ i : BitVec 4, a.spec = .m i → h.c.warp.busy.contains (16 + i.toNat) = false →
      s.Delivers h g d [a] (.tagr g d a)
        (noFlags fun _ => ⟨(((h.c.warp.m[i.toNat]?).getD 0).extractLsb' 80 16).setWidth 32, F.n32⟩)) ∧
    (∀ i : BitVec 3, a.spec = .l i → s.Delivers h g d [a] (.tagr g d a)
      (noFlags fun _ => ⟨(((h.c.pos.loft[i.toNat]?).getD .init).ttag).setWidth 32, F.n32⟩)) ∧
    (∀ (i : BitVec 5) (t : Tile), a.spec = .a i → (h.c.pos.accAt i.toNat).cur = some t → t.pending = 0 → h.lanes g ≠ [] →
      h.Writable g d [a] → (¬ ∃ z, d.spec = .z z) →
      let s1 := s.modWarp h.c.wk (·.acquire h.a.arm t.front)
      exec (.tagr g d a) s = .next ((s1.usedLast h g i.toNat false a.last).wrote h g [d.spec]
        fun _ => .one d [a] (⟨BitVec.ofNat 32 t.tag.toNat, F.n32⟩, {}))) ∧
    (∀ (b : Src) (ra rb : RCtx → RV) (f : Fmt), h.Reads g 1 a ra → h.Reads g 2 b rb →
      s.Delivers h g d [a] (.tagw (.fmt f) g d a b) (noFlags fun k => ⟨(ra k).bits, f⟩) ∧
      ((∀ k ∈ h.lanes g, (rb k).bits.toNat < 14) →
        s.Delivers h g d [a, b] (.tagw .reg g d a b) (noFlags fun k => ⟨(ra k).bits, (rb k).bits.setWidth 5⟩))) ∧
    (s.Delivers h g d [] (.rpool 0 g d) (noFlags fun k => ⟨BitVec.ofNat 32 k.warp.gran, F.n32⟩) ∧
     s.Delivers h g d [] (.rpool 1 g d) (noFlags fun k => ⟨BitVec.ofNat 32 k.pos.lent, F.n32⟩) ∧
     s.Delivers h g d [] (.rpool 2 g d) (noFlags fun k => ⟨BitVec.ofNat 32 (k.pos.limit - k.pos.drawn), F.n32⟩) ∧
     s.Delivers h g d [] (.rpool 3 g d) (noFlags fun k => ⟨BitVec.ofNat 32 k.pos.claims.length, F.n32⟩)) ∧
    (∀ (gp : BitVec 3) (ha hb : Half) (a1 a2 b1 b2 : RCtx → RV) (va vb : RCtx → TV × Flags),
      h.Reads ⟨gp, false⟩ 1 (halfSrc ha.a) a1 → h.Reads ⟨gp, false⟩ 2 (halfSrc ha.b) a2 →
      h.Reads ⟨gp, false⟩ 1 (halfSrc hb.a) b1 → h.Reads ⟨gp, false⟩ 2 (halfSrc hb.b) b2 →
      h.Writable ⟨gp, false⟩ ⟨.v ha.dst, false⟩ [] → h.Writable ⟨gp, false⟩ ⟨.v hb.dst, false⟩ [] →
      (∀ k ∈ h.lanes ⟨gp, false⟩, evalHalf ha.op (a1 k) (a2 k) = .ok (va k) ∧ evalHalf hb.op (b1 k) (b2 k) = .ok (vb k)) →
      exec (.pair gp ha hb) s = .next (s.wrote h ⟨gp, false⟩ [.v ha.dst, .v hb.dst] fun k =>
        { writes := [(⟨.v ha.dst, false⟩, (va k).1), (⟨.v hb.dst, false⟩, (vb k).1)], flags := (va k).2.join (vb k).2 }))

/-! ## Cross-lane instructions and upward writes (R171 to R176, R135, R136) -/

/-- R172 to R176: `shfl` reads S1 of the lane its mode chooses in the segment, or the fill; `vote`, `ballot`, `match` and
`elect` are taken over the present lanes, which are the executing lanes of the one arm. R174, R175: `lred` writes to
every present lane the result of the reduction tree of R109 over the warp's width, and `scan` its prefix by the
doubling steps of R110; the flags are those of all steps, for `scan` also of steps at absent
lanes, which is the model's choice (log entry 138). R109: the tree on a warp of 8 lanes adds lane i to lane i +
4, then i + 2, then i + 1, the lower lane on the left; an absent lane passes the other's value on. -/
def Obligations.CrossLane : Prop :=
  (∀ (s : State) (h : Here) (g : Guard) (d : Dst) (a : Src) (seg : Seg), s.here h → h.whole → (¬ ∃ z, d.spec = .z z) →
     let n : Nat := segSize seg h.c.width
     (∀ (mode : ShflMode) (b e : Src) (ra rb re : RCtx → RV) (val : RCtx → TV),
       h.Reads g 1 a ra → h.Reads g 2 b rb → h.Reads g 3 e re → h.Writable g d [a, b, e] →
       let base (k : RCtx) : Nat := n * (k.lane / n)
       let t (k : RCtx) : Int := match mode with
         | .idx => (rb k).bits.toNat
         | .add => (k.lane - base k : Nat) + (rb k).bits.toInt
         | .xor => (BitVec.ofNat 32 (k.lane - base k) ^^^ (rb k).bits).toNat
         | .rev => n - 1 - (k.lane - base k : Nat)
       let from' (k l : RCtx) : Prop := 0 ≤ t k ∧ t k < n ∧ (l.lane : Int) = base k + t k
       (∀ k ∈ h.lanes g, ∀ l ∈ h.lanes g, from' k l → val k = (ra l).tv) →
       (∀ k ∈ h.lanes g, (∀ l ∈ h.lanes g, ¬ from' k l) → val k = (re k).tv) →
       exec (.shfl mode seg g d a b e) s = .next (s.wrote h g [d.spec] fun k => .one d [a, b, e] (val k, {}))) ∧
     (∀ ra : RCtx → RV, h.Reads g 1 a ra → h.Writable g d [a] →
       let present (k : RCtx) : List RCtx := h.segment g n k.lane
       let set (k : RCtx) : Bool := (ra k).bits != 0
       let same (k l : RCtx) : Bool := (ra k).bits == (ra l).bits && (ra k).tag == (ra l).tag
       let gives (i : Instr) (v : RCtx → Word) : Prop :=
         exec i s = .next (s.wrote h g [d.spec] fun k => .one d [a] (⟨v k, F.n32⟩, {}))
       gives (.vote .all seg g d a) (fun k => if (present k).all set then 1 else 0) ∧
       gives (.vote .any seg g d a) (fun k => if (present k).any set then 1 else 0) ∧
       gives (.vote .eq seg g d a) (fun k => if (present k).all fun l => (present k).all (same l) then 1 else 0) ∧
       gives (.vote .cnt seg g d a) (fun k => BitVec.ofNat 32 ((present k).filter set).length) ∧
       (∀ (q : BitVec 2) (mask : RCtx → Word), (∀ k ∈ h.lanes g, ∀ j < 32, (mask k).getLsbD j =
           (h.lanes g).any fun l => l.lane == 32 * q.toNat + j && set l) → gives (.ballot q g d a) mask) ∧
       (∀ (q : BitVec 2) (mask : RCtx → Word), (∀ k ∈ h.lanes g, ∀ j < 32, (mask k).getLsbD j =
           (h.lanes g).any fun l => l.lane == 32 * q.toNat + j && same k l) → gives (.matchq q g d a) mask)) ∧
     (h.Writable g d [] →
       let present (k : RCtx) : List RCtx := h.segment g n k.lane
       exec (.elect false seg g d) s = .next (s.wrote h g [d.spec] fun k =>
         .one d [] (⟨if (present k).all fun l => decide (k.lane ≤ l.lane) then 1 else 0, F.n32⟩, {})) ∧
       exec (.elect true seg g d) s = .next (s.wrote h g [d.spec] fun k =>
         .one d [] (⟨if (present k).all fun l => decide (l.lane ≤ k.lane) then 1 else 0, F.n32⟩, {})))) ∧
  ((∀ (s : State) (h : Here) (g : Guard) (d : Dst) (a : Src) (f : RedFmt) (ra : RCtx → RV) (x : RCtx → Word),
      s.here h → h.whole → (¬ ∃ z, d.spec = .z z) → h.Reads g 1 a ra → h.Writable g d [a] →
      (∀ k ∈ h.lanes g, (ra k).widen (redFmtCode f) = .ok (x k)) →
      let w : Nat := h.c.width
      let vals : List (Option Word) := h.byLane g 0 w x
      let wrote (v : RCtx → Word) (fl : Flags) : State :=
        s.left h [d.spec] { ArmOut.ofLanes ((h.lanes g).map fun k => (k.lane, .one d [a] (⟨v k, redFmtCode f⟩, {}))) with flags := fl }
      h.lanes g ≠ [] →
      (∀ (op : RedOp) (v : Word) (fl : Flags), reduceTree (redStep op f) w.log2 vals = (some v, fl) →
        exec (.lred op f g d a) s = .next (wrote (fun _ => v) fl)) ∧
      (∀ (op : ScanOp) (l : List (Option Word)) (fl : Flags),
        scanSteps (scanOpStep op f) w.log2 1 vals = (l, fl) →
        exec (.scan op f g d a) s = .next (wrote (fun k =>
          if op = .addx then (if k.lane = 0 then 0 else ((l[k.lane - 1]?).getD none).getD 0)
          else ((l[k.lane]?).getD none).getD 0) fl))) ∧
   (∀ (op : Word → Word → Word) (a b c d e f g k : Word),
      let step (x y : Word) : Word × Flags := (op x y, {})
      reduceTree step 3 [some a, some b, some c, some d, some e, some f, some g, some k]
        = (some (op (op (op a e) (op c g)) (op (op b f) (op d k))), {}) ∧
      reduceTree step 3 [none, some b, none, none, some e, none, none, some k] = (some (op e (op b k)), {}) ∧
      reduceTree step 3 (List.replicate 8 none) = (none, {})))

/-- R128, R135, R136: `sup` writes a value its lanes agree on, and `sred` the reduction of the lanes' values, to a scope
register through the arm's view, or to a baton; for an x register each subgroup writes its own. No open record stands in
the warp for a register of the block or wider. -/
def Obligations.UpwardWrites : Prop :=
  ∀ (s : State) (h : Here) (g : Guard) (d : Dst) (a : Src) (ra : RCtx → RV), s.here h → h.whole → h.Reads g 1 a ra →
    h.Writable g d [a] → h.lanes g ≠ [] →
    ((∃ i, d.spec = .b i) ∨ (∃ i, d.spec = .c i) ∨ (∃ i, d.spec = .g i) → h.c.warp.recs = []) →
    let plain : List (Nat × LaneOut) := h.each g { frees := [a] }
    let subs : List Nat := (List.range 16).filter fun i => (h.lanes g).any fun k => k.lane / 8 == i
    let bySub (f : Fmt) (v : Nat → Word) (fl : Flags) : State :=
      s.left h [d.spec] { lanes := subs.flatMap fun i => ((h.lanes g).filter fun k => k.lane / 8 == i).map fun k =>
                            (k.lane, .out { frees := [a] })
                          scope := subs.map fun i => ⟨d.spec, i, ⟨v i, f⟩⟩, flags := fl }
    let filled (f : Fmt) (v : Word) (fl : Flags) (k : RCtx) : State :=
      s.left h [d.spec] { ArmOut.ofLanes ((h.lanes g).map fun l =>
        (l.lane, { writes := if l.lane == k.lane then [(d, ⟨v, f⟩)] else [], frees := [a] })) with flags := fl }
    (∀ (f : Fmt) (v : Word), (∀ k ∈ h.lanes g, (ra k).widen f = .ok v) →
      ((∃ i, d.spec = .w i) ∨ (∃ i, d.spec = .b i) ∨ (∃ i, d.spec = .c i) ∨ (∃ i, d.spec = .g i) →
        exec (.sup f g d a) s = .next (s.left h [d.spec] { ArmOut.ofLanes plain with scope := [⟨d.spec, 0, ⟨v, f⟩⟩] })) ∧
      (∀ z k rest, d.spec = .z z → h.lanes g = k :: rest → exec (.sup f g d a) s = .next (filled f v {} k))) ∧
    (∀ (f : Fmt) (v : Nat → Word) (i : BitVec 4), d.spec = .x i →
      (∀ k ∈ h.lanes g, k.lane < 128 ∧ (ra k).widen f = .ok (v (k.lane / 8))) →
      exec (.sup f g d a) s = .next (bySub f v {})) ∧
    (∀ (op : RedOp) (f : RedFmt) (x : RCtx → Word) (v : Word) (fl : Flags),
      (∀ k ∈ h.lanes g, (ra k).widen (redFmtCode f) = .ok (x k)) →
      reduceTree (redStep op f) h.c.width.log2 (h.byLane g 0 h.c.width x) = (some v, fl) →
      ((∃ i, d.spec = .w i) ∨ (∃ i, d.spec = .b i) ∨ (∃ i, d.spec = .c i) ∨ (∃ i, d.spec = .g i) →
        exec (.sred op f g d a) s = .next (s.left h [d.spec]
          { ArmOut.ofLanes plain with scope := [⟨d.spec, 0, ⟨v, redFmtCode f⟩⟩], flags := fl })) ∧
      (∀ z k rest, d.spec = .z z → h.lanes g = k :: rest →
        exec (.sred op f g d a) s = .next (filled (redFmtCode f) v fl k))) ∧
    (∀ (op : RedOp) (f : RedFmt) (x : RCtx → Word) (v : Nat → Word) (fl : Nat → Flags) (i : BitVec 4), d.spec = .x i →
      (∀ k ∈ h.lanes g, k.lane < 128 ∧ (ra k).widen (redFmtCode f) = .ok (x k)) →
      (∀ j ∈ subs, reduceTree (redStep op f) 3 (h.byLane g (8 * j) 8 x) = (some (v j), fl j)) →
      exec (.sred op f g d a) s = .next (bySub (redFmtCode f) v (joinAll (subs.map fl))))

/-! ## Control flow and traps (R177 to R180, R137, R321, R399 to R406, R417, R418) -/

/-- R177 to R179: each executing thread leaves for its target once the clause is over; the others go on to the next
clause. A call pushes the next clause header, a return pops. The arm may divide only while the warp has a record left,
and epochs for the fork. R180, R321, R137, R420: `exit` ends the executing threads, `yield` marks the warp at a switch point of the deterministic
turn or does nothing further, and `nop` does nothing. A `join` outside every record goes on; in a record all the arm's
threads wait there, also those whose guard is false. Each then leaves the clause as any instruction does. -/
def Obligations.ControlFlow : Prop :=
  (∀ (s : State) (h : Here) (g : Guard) (th : RCtx → Thread), s.here h → h.whole →
     (∀ k ∈ h.threads g, k.thread = some (th k)) →
     let goes (i : Instr) (way : RCtx → Way) : Prop :=
       let heads := (s.heads h g way).eraseDups.length
       (heads ≤ 1 ∨ h.c.warp.recs.length < 16 ∧ h.c.warp.epoch + 1 + heads < 2 ^ 48) → exec i s = .next (s.went h g way)
     (∀ off : BitVec 36, goes (.bra g off) fun k => ⟨branchTarget (th k).pc off, (th k).calls, []⟩) ∧
     (∀ (a : Src) (r : RCtx → RV), (∀ k ∈ h.threads g, rd k 1 a = .ok (r k) ∧
         (s.codeOfLane k).any (·.enters (r k).bits.toNat) = true) →
       goes (.brx false g a) (fun k => ⟨(r k).bits.toNat, (th k).calls, [a]⟩) ∧
       ((∀ k ∈ h.threads g, (th k).calls.length < 32) →
         goes (.brx true g a) fun k => ⟨(r k).bits.toNat, s.nextOf k (th k) :: (th k).calls, [a]⟩)) ∧
     (∀ off : BitVec 36, (∀ k ∈ h.threads g, (th k).calls.length < 32) →
       goes (.call g off) fun k => ⟨branchTarget (th k).pc off, s.nextOf k (th k) :: (th k).calls, []⟩) ∧
     (∀ (top : RCtx → Nat) (rest : RCtx → List Nat), (∀ k ∈ h.threads g, (th k).calls = top k :: rest k ∧
         (s.codeOfLane k).any (·.enters (top k)) = true) → goes (.ret g) fun k => ⟨top k, rest k, []⟩)) ∧
  (∀ (s : State) (h : Here) (g : Guard), s.here h →
     exec (.nop g) s = .next (s.done h [] (h.each g {})) ∧
     (∀ k rest, h.threads g = k :: rest →
       let lanes : List Nat := (h.threads g).map (·.lane)
       (h.epochs → exec (.exit g) s = .next
         (((s.modCore h.c.pos.core (·.dropLanes h.c.wk lanes)).exitLanes h.c.wk lanes).leftThreads h [])) ∧
       (s.det? h.c.pos = false → exec (.yield g) s = .next (s.leftThreads h [])) ∧
       (s.det? h.c.pos = true → exec (.yield g) s = .next ((s.modCore h.c.pos.core fun c =>
         { c with turns := c.turns.map fun t =>
           if t.1 == h.c.pos.ctx && t.2.1 == h.c.pos.grid then (t.1, t.2.1, t.2.2.1, (t.2.2.2 ++ [h.c.wk]).eraseDups) else t }).leftThreads
           h []))) ∧
     (∀ k rest, h.whole → h.epochs → h.threads guardAlways = k :: rest →
       let lanes : List Nat := (h.threads guardAlways).map (·.lane)
       (h.c.warp.innermost h.a.arm = none → exec (.join g) s = .next (s.leftThreads h [])) ∧
       (∀ r t, h.c.warp.innermost h.a.arm = some r → r.trap = false → k.thread = some t →
         exec (.join g) s = .next
           ((((s.arriveJoin k lanes t.pc).settleWarp h.c.wk 40).joinSwitch h.c.pos.core h.c.wk lanes).leftThreads h []))))

/-- R417: `trap` raises SOFT_TRAP with its code in each executing lane; `brk` raises BREAKPOINT while TRAPCFG.BRK is set and is a
`nop` otherwise. BRK is bit 0, and 0 at reset; the other bits are reserved. The register is read as the lane sees it: as it
stands, when no other thread has written a register in its clause (R416; within such a clause log entry 148, the model's choice). -/
def Obligations.TrapInstructions : Prop :=
  ∀ (s : State) (h : Here) (g : Guard), s.here h →
    (∀ c : BitVec 16, exec (.trap g c) s = .next (s.trapped h g fun _ => { cause := .softTrap, info0 := c.setWidth 32 })) ∧
    (∀ (c : BitVec 16) (x : Ctx), s.ctxOf h.c.pos.ctx = some x →
      ((∀ k ∈ h.lanes g, (k.seen 0x027 x.trapcfg).getLsbD 0 = true) →
        exec (.brk g c) s = .next (s.trapped h g fun _ => { cause := .breakpoint, info0 := c.setWidth 32 })) ∧
      ((∀ k ∈ h.lanes g, (k.seen 0x027 x.trapcfg).getLsbD 0 = false) → exec (.brk g c) s = exec (.nop g) s) ∧
      ∀ k : RCtx, k.thread.any (·.stale == []) = true → k.seen 0x027 x.trapcfg = x.trapcfg) ∧
    (∀ (id pad : Nat) (st : CtxSt), (Ctx.create id pad st).trapcfg = 0) ∧
    ∀ (x : Ctx) (v : Word), (x.putReg 0x027 v).trapcfg = v &&& 1

/-- R400, R401: a lane that traps on a cause that is not fatal, in a stage with a handler and outside it, saves the cause,
bit 7, the instruction index and the half in TSTATE, its clause in TPC, the operands in TINFO0 to TINFO3, sets IN, and
stands Ready at the handler's first clause; its registers, predicates and call stack stay as they were. R406, R400,
R404: a trap inside a handler is DOUBLE_TRAP; that, a fatal cause, or any cause in a stage without a handler ends the
grid, with the cause of the lowest lane that meets one. That the lowest lane counts (log entry 128), and the source code of the
cluster in the event (log entry 117), are the model's choice. -/
def Obligations.TrapEntry : Prop :=
  (∀ (s : State) (wk : WKey) (p : Position) (w : Warp) (ts : List (Nat × Trap)) (hd l : Nat) (x : Trap) (t : Thread),
     s.posOf wk.pos = some p → s.warpOf wk = some w → (s.stage? p wk.stage).bind (·.handler) = some hd →
     (∀ y ∈ ts, y.2.cause.fatal (s.det? p) = false ∧ ∀ u, w.threads[y.1]? = some u → u.inHandler = false) →
     w.recs.length < 16 → ts.lookup l = some x → w.threads[l]? = some t →
     ∃ u, (s.takeTraps wk ts).threadOf wk l = some u ∧ u.st = .ready ∧ u.pc = hd ∧ u.idx = 0 ∧
       u.tpc = BitVec.ofNat 32 t.pc ∧ u.tinfo0 = x.info0 ∧ u.tinfo1 = x.info1 ∧ u.tinfo2 = x.info2 ∧ u.tinfo3 = x.info3 ∧
       u.tstate.extractLsb' 0 7 = x.cause.code ∧ u.tstate.getLsbD 7 = true ∧
       u.tstate.extractLsb' 8 4 = BitVec.ofNat 4 t.idx ∧ u.tstate.getLsbD 12 = x.halfB ∧
       u.regs = t.regs ∧ u.preds = t.preds ∧ u.calls = t.calls) ∧
  (∀ (s : State) (wk : WKey) (p : Position) (w : Warp) (ts : List (Nat × Trap)) (l : Nat) (x : Trap) (t : Thread),
     s.posOf wk.pos = some p → s.warpOf wk = some w → (ts.map (·.1)).Nodup → (l, x) ∈ ts → w.threads[l]? = some t →
     let ends (t : Thread) (x : Trap) : Prop :=
       t.inHandler = true ∨ x.cause.fatal (s.det? p) = true ∨ (s.stage? p wk.stage).bind (·.handler) = none
     ends t x → (∀ y ∈ ts, y.1 < l → ∀ u, w.threads[y.1]? = some u → ¬ ends u y.2) →
     ∃ site : Site, site.src = clusterSrc p.core ∧
       s.takeTraps wk ts = s.endFatal p.ctx p.grid (if t.inHandler then .doubleTrap else x.cause) site)

/-- R415, R416, R418, R419: `sysr` writes the register of the lane's holder, tagged n32; `sysw` writes the bits that all lanes of
a holder deliver; FSTAT holds the flags of the reductions that the warp has issued (R93); `evf` posts a KIND 10 event once its party has nothing in flight. `tret` returns every
executing lane that is in its handler; a lane that goes on after its trapped instruction is not waited for at a last use there
(R197). The model's choice: a thread that did not write sees a write from its next clause on (`showOld`, log entry 148), and the
source code in the event is the cluster's (log entry 117). -/
def Obligations.SystemRegisters : Prop :=
  ∀ (s : State) (h : Here) (g : Guard), s.here h →
    (∀ (d : Dst) (n : BitVec 12) (v : RCtx → Word), h.lanes g ≠ [] → h.Writable g d [] →
      let s1 := s.flagged h.c.wk n.toNat
      (∀ k ∈ h.lanes g, s1.sysRead k n.toNat = some (v k)) →
      ((∃ z, d.spec = .z z) → ∀ k ∈ h.lanes g, ∀ l ∈ h.lanes g, v k = v l) →
      exec (.sysr g d n) s = .next (s1.wrote h g [d.spec] fun k => .one d [] (⟨v k, F.n32⟩, {}))) ∧
    (∀ (a : Src) (n : BitVec 12) (i : RegInfo) (r : RCtx → RV), h.Reads g 1 a r → regInfo n.toNat = some i →
      i.writable = true → h.epochs → (∀ k ∈ h.lanes g, ∀ l ∈ h.lanes g, (r k).bits = (r l).bits) →
      exec (.sysw g a n) s = .next (((h.lanes g).foldl (fun s k =>
        ((s.flagged k.wk n.toNat).showOld i.holder k n.toNat (r k).bits (h.lanes g)).sysWrite k n.toNat (r k).bits) s).done h []
        (h.each g { frees := [a] }))) ∧
    (h.whole → h.lanes g ≠ [] →
      let p : Party := partyOf h.c.warp h.a.arm
      s.partyQuiet h.c.pos.core p = true →
      exec (.evf g) s = .next ((s.post h.c.pos.ctx
        { src := clusterSrc h.c.pos.core, kind := 10, party := s.partyBits p }).done h [] [])) ∧
    (∀ (next : Bool) (sc : StageCode), h.whole → h.epochs → s.codeOfLane h.c = some sc →
      (∀ k ∈ h.threads g, ∀ t, k.thread = some t → t.inHandler = true) →
      let back (s : State) (k : RCtx) : State :=
        let s1 := s.modLanes h.c.wk [k.lane] (·.trapReturn sc next)
        if next then s1.passUses h.c.wk (fun u => k.thread.any fun t =>
          u.hdr == t.tpc.toNat && u.idx == (t.tstate.extractLsb' 8 4).toNat) [k.lane] else s1
      exec (.tret next g) s = .next (((h.threads g).foldl back s).leftThreads h ((h.threads g).map fun k => (k.lane, {}))))

/-! ## Memory (R206, R220 to R225, R244 to R246) -/

/-- R222: a load delivers the four bytes at A(i, o), read as a little-endian word, to its lane register, which is empty
until the fill lands; a store writes the four bytes of the widened value there. Out of bounds under OOB = 1 a load
delivers 0 and a store does nothing. `reach` is the order of checks of R220. That the value is taken as the load issues is the
model's choice (log entry 61). -/
def Obligations.LoadsAndStores : Prop :=
  ∀ (s : State) (h : Here) (g : Guard) (f : Fmt) (hs : BitVec 4) (i o : Src) (r : RCtx → BitVec 128) (x y : RCtx → Nat),
    s.here h → (∀ k ∈ h.lanes g, handleOf k hs = .ok (r k) ∧ rdNat k 2 i = .ok (x k) ∧ rdNat k 3 o = .ok (y k)) →
    let req (k : RCtx) (wr : Bool) : AccReq := { handle := r k, i := x k, o := y k, n := 4, align := 4, wr := wr }
    (∀ d : Dst, h.Writable g (fileDst d) [] →
      s.Turns h g [d.spec] [i.spec, o.spec] (.ld f g d hs i o) fun s k out u =>
        ∃ v bs s1, s.viewer k.wk k.arm = some v ∧ out = { empties := emptied d.spec, frees := [i, o] } ∧
          u = s1.addFill k.pos.core k.wk k.lane d.spec ⟨BitVec.ofNat 32 (leNat bs), f⟩ v.party ∧
          match s.reach v k.pos k.block (s.stashLimit k) (req k false) .read with
          | .ok l => s.loadAt v k.pos (r k) l 4 = (bs, s1)
          | .oob => bs = [] ∧ s1 = s
          | _ => False) ∧
    (∀ (vs : Spec) (rv : RCtx → RV) (val : RCtx → Word),
      (∀ k ∈ h.lanes g, rd k 0 ⟨vs, false, false⟩ = .ok (rv k) ∧ (rv k).widen f = .ok (val k)) →
      s.Turns h g [] [vs, i.spec, o.spec] (.st f g vs hs i o) fun s k out u =>
        ∃ v, s.viewer k.wk k.arm = some v ∧ out = { frees := [i, o] } ∧
          match s.reach v k.pos k.block (s.stashLimit k) (req k true) .write with
          | .ok l => u = s.storeAt v k.pos (r k) l (val k)
          | .oob => u = s
          | _ => False)

/-- R223: `atom` delivers the word that stood at the location and leaves the operation's result there; `red` leaves its
operand to be performed. Each releases, so the arm must have an epoch left (R240). R223: an atomic on the stash
in no window returns the little-endian word at the byte and leaves the new word there; no other stash byte and nothing of
device memory changes. -/
def Obligations.Atomics : Prop :=
  (∀ (s : State) (h : Here) (g : Guard) (op : AtomOp) (sys : Bool) (hs : BitVec 4) (i vs : Src) (r : RCtx → BitVec 128)
     (x : RCtx → Nat) (vals : RCtx → List TV), s.here h → h.epochs →
     (∀ k ∈ h.lanes g, handleOf k hs = .ok (r k) ∧ rdNat k 2 i = .ok (x k) ∧ rdOperand k op vs = .ok (vals k)) →
     let acc (k : RCtx) : Acc := ⟨r k, x k, 0, vals k⟩
     let val (k : RCtx) (n : Nat) : Word := (((vals k)[n]?).getD .zero).val
     (∀ d : Dst, h.Writable g (fileDst d) [] →
       let kind : AccKind := if s.det? h.c.pos then .red sys op else .atom sys
       s.Turns h g [d.spec] [i.spec, vs.spec] (.atom op sys g d hs i vs) fun s k out u =>
         ∃ v old fl s1, s.viewer k.wk k.arm = some v ∧
           out = { empties := emptied d.spec, frees := i :: operandSrcs op vs, flags := fl } ∧
           u = s1.addFill k.pos.core k.wk k.lane d.spec ⟨old, atomFmt op⟩ v.party ∧
           match s.reach v k.pos k.block (s.stashLimit k) (atomReq s k op (d.spec != .zero) (acc k)) kind with
           | .ok l => s.atomAt v k.arm k.pos (r k) l kind op sys (val k 0) (val k 1) = (old, fl, s1)
           | .oob => old = 0 ∧ fl = {} ∧ s1 = s
           | _ => False) ∧
     (s.Turns h g [] [i.spec, vs.spec] (.red op sys g hs i vs) fun s k out u =>
       ∃ v fl, s.viewer k.wk k.arm = some v ∧ out = { frees := [i, vs], flags := fl } ∧
         match s.reach v k.pos k.block (s.stashLimit k) (atomReq s k op false (acc k)) (.red sys op) with
         | .ok l => s.redAt v k.arm k.pos (r k) l (.red sys op) op sys (val k 0) = (fl, u)
         | .oob => fl = {} ∧ u = s
         | _ => False)) ∧
  (∀ (s t : State) (v : Viewer) (p : Position) (b : Nat) (op : AtomOp) (sys : Bool) (x y old : Word) (fl : Flags),
     s.posOf p.id = some p → p.windowAt b = none → s.atomWord v p (.stash b) op sys x y = (old, fl, t) →
     old = BitVec.ofNat 32 (leNat (memRead p.stash b 4)) ∧ fl = (atomStep op old x y).2 ∧ t.c.mem = s.c.mem ∧
       t.c.pend = s.c.pend ∧
       ∃ q, t.posOf p.id = some q ∧ memRead q.stash b 4 = bytesOf (atomStep op old x y).1 ∧
         ∀ a, a < b ∨ b + 4 ≤ a → memGet q.stash a = memGet p.stash a)

/-- R244 to R246: a store to an object enters device memory for its own party and its block at once: for every byte of the
object's page every such viewer reads the stored byte, and every other byte, and every other viewer, reads what it
read before. No window maps the bytes, no reduction that comes before it waits on them, and no line lies under a Revoked key. R222:
a load delivers what its own party reads, and changes memory nowhere; it changes no byte that any viewer reads, unless it shows
its party a store of another that has not reached the cluster (R244). No TLB holds two entries of one generation for its page
(R330), and nothing that comes before the load is still on its way. R234: where one store happens before the load, the load reads
it. R211, R222: a store to the stash, in no window, changes its bytes alone. That a load takes its value as it issues (log entry
61), and the levels at which others see a store (log entry 62), are the model's choice. -/
def Obligations.MemoryBytes : Prop :=
  (∀ (s : State) (v : Viewer) (p : Position) (obj off pa : Nat) (bs : List Byte),
     ((s.ctxOf p.ctx).bind (·.objOf obj)).bind (·.translate off true) = some pa → s.linesMet p.ctx obj off bs.length = [] →
     (∀ e ∈ s.c.pend, e.red.isSome = true → e.overlaps pa bs.length = true → v.follows e = false) →
     (∀ l, pa / 64 ≤ l → l ≤ (pa + bs.length - 1) / 64 → s.keyRead (64 * l) = true) →
     let t := s.writeLoc v p (.glob obj off) bs
     t.c.mem = s.c.mem ∧ t.c.positions = s.c.positions ∧
     ∀ (w : Viewer) (a : Nat), t.c.byteFor w a =
       if pa ≤ a ∧ a < pa + bs.length ∧ (w.party = v.party ∨ (w.wk.pos = v.wk.pos ∧ w.wk.stage = v.wk.stage)) then
         (bs[a - pa]?).getD 0
       else s.c.byteFor w a) ∧
  (∀ (s t : State) (v : Viewer) (p : Position) (r : BitVec 128) (obj off pa n : Nat) (bs : List Byte),
     ((s.ctxOf p.ctx).bind (·.objOf obj)).bind (·.translate off false) = some pa → s.linesMet p.ctx obj off n = [] →
     (∀ e ∈ s.c.pend, e.overlaps pa n = true → before v.front e.owner e.epoch = false ∧ (e.owner = v.party → e.red = none)) →
     (s.useTlb p (.glob obj off)).2 = 0 →
     s.loadAt v p r (.glob obj off) n = (bs, t) →
     bs = (List.range n).map (fun i => s.c.byteFor v (pa + i)) ∧ t.c.mem = s.c.mem ∧ t.c.positions = s.c.positions ∧
       ((∀ e ∈ s.c.pend, e.overlaps pa n = true → e.visible v = true → e.owner = v.party) →
         ∀ (w : Viewer) (a : Nat), t.c.byteFor w a = s.c.byteFor w a)) ∧
  (∀ (s : State) (v : Viewer) (p : Position) (r : BitVec 128) (obj off pa n : Nat) (e : PStore),
     ((s.ctxOf p.ctx).bind (·.objOf obj)).bind (·.translate off false) = some pa → s.linesMet p.ctx obj off n = [] →
     s.c.pend = [e] → e.red = none → before v.front e.owner e.epoch = true →
     (s.loadAt v p r (.glob obj off) n).1 = (List.range n).map fun i => (e.byteAt (pa + i)).getD (memGet s.c.mem (pa + i))) ∧
  (∀ (s : State) (v : Viewer) (p : Position) (b : Nat) (bs : List Byte), s.posOf p.id = some p → p.windowAt b = none →
     let t := s.writeLoc v p (.stash b) bs
     t.c.mem = s.c.mem ∧ t.c.pend = s.c.pend ∧
       (∀ q, q ≠ p.id → t.posOf q = s.posOf q) ∧
       ∃ q, t.posOf p.id = some q ∧ ∀ a, memGet q.stash a =
         if b ≤ a ∧ a < b + bs.length then (bs[a - b]?).getD 0 else memGet p.stash a)

/-- R224, R199, R225: `fence` performs at its scope what its party must make visible; `mfence` waits for the loads of the
Loft and then marks the stash writes; a hint that names a bad range is counted in HINTDROP, and no hint changes
memory. R206, R221: `ldh` from a quad writes the 128 bits that its lanes agree on to a handle (below 16) or an
m-handle; from memory, the handle is busy until its fill lands. -/
def Obligations.HandleLoadsFencesHints : Prop :=
  (∀ (s : State) (h : Here) (g : Guard), s.here h →
     (∀ v k rest, h.lanes g = k :: rest → s.viewer k.wk k.arm = some v →
       (∀ sc : BitVec 2, exec (.fence sc g) s = .next ((s.fenceBy v sc.toNat).done h [] [])) ∧
       (s.loading v = false → exec (.mfence g) s = .next ((s.mfenceBy v (actors (h.lanes g))).done h [] []))) ∧
     (∀ (hs : BitVec 4) (i o : Src) (r : RCtx → BitVec 128) (x y : RCtx → Nat),
       (∀ k ∈ h.lanes g, handleOf k hs = .ok (r k) ∧ rdNat k 2 i = .ok (x k) ∧ rdNat k 3 o = .ok (y k)) →
       (∀ l2 : Bool, s.Turns h g [] [] (.pfh l2 g hs i o) fun s k out u => out = { frees := [i, o] } ∧
         let good : Bool := (s.checkRec k.pos.ctx (r k) 0 false).isNone && recInBounds (r k) (x k) (y k) 1 &&
           s.hintBytes k (r k) (recAddr (r k) (x k) (y k)) 1
         (good = false → u = s.modCtx k.pos.ctx fun c => { c with hintdrop := BitVec.ofNat 32 (min (c.hintdrop.toNat + 1) (2 ^ 32 - 1)) }) ∧
         (good = true → recStash (r k) = false → u = s) ∧
         (good = true → recStash (r k) = true → u = (match k.pos.windowAt (recAddr (r k) (x k) (y k)) with
           | some (_, w) => if (w.st (w.lineOf (recAddr (r k) (x k) (y k)))).isSome then s
               else s.wantLine k.pos (recAddr (r k) (x k) (y k)) k.party false
           | none => s))) ∧
       (∀ kind : BitVec 2, s.Turns h g [] [] (.res kind g hs i o) fun s k out u => out = { frees := [i, o] } ∧
         let good : Bool := (s.checkRec k.pos.ctx (r k) 0 false).isNone && (List.range (y k)).all fun e =>
           recInBounds (r k) (x k + e) 0 (recStride (r k)) &&
             s.hintBytes k (r k) (recBase (r k) + (x k + e) * recStride (r k)) (recStride (r k))
         u = if y k = 0 ∨ good = true then s
           else s.modCtx k.pos.ctx fun c => { c with hintdrop := BitVec.ofNat 32 (min (c.hintdrop.toNat + 1) (2 ^ 32 - 1)) }))) ∧
  (∀ (s : State) (h : Here) (g : Guard) (d : Dst) (k : RCtx) (rest : List RCtx), s.here h → h.whole →
     h.lanes g = k :: rest → k.warp.busy.contains (handleNo d.spec) = false →
     (∀ (q : Src) (r : BitVec 128), (∀ l ∈ h.lanes g, rdQuad l 1 q = .ok r) → badRecord (handleNo d.spec) r = false →
       exec (.ldh g d (.quad q)) s = .next ((s.modWarp k.wk fun w =>
         if handleNo d.spec < 16 then { w with h := w.h.set (handleNo d.spec) r }
         else { w with m := w.m.set (handleNo d.spec - 16) r }).done h [] (h.each g { frees := srcRun q 4 }))) ∧
     (∀ (hs : BitVec 4) (i o : Src) (a : Acc) (bs : List Byte) (s1 : State) (v : Viewer) (l : Loc), rest = [] →
       rdAcc k hs i o [] = .ok a →
       let s0 := s.acquires h g [i.spec, o.spec]
       s0.viewer k.wk k.arm = some v →
       s0.reach v k.pos k.block (s0.stashLimit k) { handle := a.r, i := a.i, o := a.o, n := 16, align := 16, wr := false } .read
         = .ok l → s0.loadAt v k.pos a.r l 16 = (bs, s1) →
       badRecord (handleNo d.spec) (BitVec.ofNat 128 (leNat bs)) = false →
       exec (.ldh g d (.mem hs i o)) s = .next ((s1.addHFill k.pos.core k.wk (handleNo d.spec)
         (BitVec.ofNat 128 (leNat bs)) k.party).done h [] (h.each g { frees := [i, o] }) [i.spec, o.spec])))

/-- R122, R206: a fill that lands makes its lane register full with value and tag, or its handle free with its bits; the
fill is gone, and no other register changes; the packet that waits for it tries its instruction again (R294). R244, R245: an event performs an access issued earlier for a wider set of
observers: a store that no other waits beside enters memory once it is performed for the whole system, and stays
pending before. The levels at which an access is performed are the model's choice (log entry 62). -/
def Obligations.FillsAndPerformedAccesses : Prop :=
  (∀ (s : State) (core id : Nat) (c : CoreSt), s.coreOf core = some c →
     (∀ f, c.fills.find? (·.id == id) = some f → ∃ t, exec (.fillLands core id) s = .next t ∧
       t.c.mem = s.c.mem ∧ t.c.pend = s.c.pend ∧
       ((t.coreOf core).map (·.fills) = some (c.fills.filter (·.id != id))) ∧
       (∀ th, s.threadOf f.wk f.lane = some th → (∃ r, th.regs[f.reg]? = some r ∧ r.st = .empty) →
         ∃ u, t.threadOf f.wk f.lane = some u ∧
           ({ u with st := th.st } : Thread) = { th with regs := th.regs.set f.reg ⟨.full, f.v⟩ }) ∧
       (∀ wk lane th, s.threadOf wk lane = some th → (wk ≠ f.wk ∨ lane ≠ f.lane) →
         ∃ u, t.threadOf wk lane = some u ∧ ({ u with st := th.st } : Thread) = th)) ∧
     (∀ f, c.hfills.find? (·.id == id) = some f → ∃ t, exec (.handleFillLands core id) s = .next t ∧
       t.c.mem = s.c.mem ∧ t.c.pend = s.c.pend ∧
       (∀ w, s.warpOf f.wk = some w → ∃ u, t.warpOf f.wk = some u ∧
         ({ u with threads := w.threads } : Warp) = w.landHandle f.h f.v) ∧
       (∀ wk w, wk ≠ f.wk → s.warpOf wk = some w → ∃ u, t.warpOf wk = some u ∧ ({ u with threads := w.threads } : Warp) = w))) ∧
  (∀ (s : State) (lvl : Nat) (e : PStore), s.c.pend = [e] → e.red = none → e.lvl < lvl →
     ∃ t, exec (.accessPerformed e.id lvl) s = .next t ∧ t.c.positions = s.c.positions ∧
       (lvl < 4 → t.c.mem = s.c.mem ∧ t.c.pend = [{ e with lvl := lvl }]) ∧
       (lvl = 4 → t.c.mem = memWrite s.c.mem e.pa e.bytes ∧ t.c.pend = []) ∧
       (5 ≤ lvl → t.c.mem = s.c.mem ∧ ∃ q, t.c.pend = [q] ∧ q.clus.contains (lvl - 5) = true ∧ { q with clus := e.clus } = e))

/-! ## What the results of lanes leave, and what they leave alone (R122 to R125, R144) -/

/-- R144: committing the results of an arm, within a clause or at its end, leaves alone device memory, pending stores,
engine operations, the Stile and the management processor, every other warp, every position's stash, tags, Loft, rings and
windows, its accumulators where no last use of one waits for lanes (R197), and in its own warp every register that no
result touches. -/
def Obligations.ResultsFrame : Prop :=
  ∀ (s : State) (h : Here) (dsts : List Spec) (os : List (Nat × LaneOut)), s.here h →
    (h.p.idx + 1 < h.p.cnt ∨ (h.c.warp.recs = [] ∧ ∀ o ∈ os, o.2.leave = none)) →
    let t := s.done h dsts os
    t.c.mem = s.c.mem ∧ t.c.pend = s.c.pend ∧ t.c.ops = s.c.ops ∧ t.c.sectors = s.c.sectors ∧ t.t = s.t ∧ t.m = s.m ∧
      t.now = s.now ∧ t.agenda = s.agenda ∧ (∀ k, k ≠ h.a.wk → t.warpOf k = s.warpOf k) ∧
      (∀ i p, s.posOf i = some p → ∃ q, t.posOf i = some q ∧ q.stash = p.stash ∧ q.tags = p.tags ∧ q.loft = p.loft ∧
        (h.c.warp.uses = [] → q.acc = p.acc) ∧ q.rings = p.rings ∧ q.wins = p.wins ∧ q.core = p.core) ∧
      (∀ w, s.warpOf h.a.wk = some w → ∃ u, t.warpOf h.a.wk = some u ∧
        u.h = w.h ∧ u.m = w.m ∧ u.busy = w.busy ∧ u.gran = w.gran ∧ u.recs = w.recs ∧
        u.fstat = raiseFstat w.fstat (armFlags (.ofLanes os)) ∧
        (∀ i, (∀ o ∈ os, o.2.touches (.w i) = false) → u.w[i.toNat]? = w.w[i.toNat]?) ∧
        ((∀ i, ∀ o ∈ os, o.2.touches (.x i) = false) → u.x = w.x) ∧
        (∀ i, (∀ o ∈ os, o.2.touches (.z i) = false) → u.z[i.toNat]? = w.z[i.toNat]?)) ∧
      (∀ lane th, s.threadOf h.a.wk lane = some th → ∃ u, t.threadOf h.a.wk lane = some u ∧
        (lane ∉ h.a.lanes → os.lookup lane = none → u = th) ∧
        (∀ i, (∀ o, os.lookup lane = some o → o.touches (.v i) = false) → u.regs[i.toNat]? = th.regs[i.toNat]?) ∧
        (∀ i, (∀ o, os.lookup lane = some o → o.touches (.p i) = false) → u.preds[i.toNat]? = th.preds[i.toNat]?) ∧
        ((∀ o, os.lookup lane = some o → o.calls = none) → u.calls = th.calls) ∧
        u.tstate = th.tstate ∧ u.tpc = th.tpc ∧ u.tinfo0 = th.tinfo0 ∧ u.tinfo1 = th.tinfo1 ∧ u.tinfo2 = th.tinfo2 ∧
        u.tinfo3 = th.tinfo3)

/-- R122 to R124: a lane whose result writes one value has it, with its tag, in its full lane register or as its
predicate; the result of a transient write stays out of the register file; a register a load fills is empty; one freed
by its last use is freed. R122 to R124: a lane register reads the newest bypass entry that holds a result for it, else
the file: its value and tag when full, 0 with tag raw32 when freed; an empty one traps EMPTY_READ where T is 1 and
stalls the packet otherwise, or parks the arm where an access that awaits its page left it empty (R335); one beyond the warp's
registers is REG_UNDECLARED. -/
def Obligations.RegistersReadAndWritten : Prop :=
  (∀ (s : State) (h : Here) (d : Dst) (v : TV) (o : LaneOut) (os : List (Nat × LaneOut)) (lane : Nat) (th : Thread),
     s.here h → h.p.scl = false → h.p.idx + 1 < h.p.cnt → s.threadOf h.a.wk lane = some th → os.lookup lane = some o →
     ∃ u, (s.done h [d.spec] os).threadOf h.a.wk lane = some u ∧
       (∀ i, d.spec = .v i → o.writes = [(d, v)] → o.empties = [] → i.toNat < th.regs.length →
         (d.byp = false → u.regs[i.toNat]? = some ⟨.full, v⟩) ∧
         (d.byp = true → o.leave = none → (∀ x ∈ o.frees, x.last = false) →
           u.regs[i.toNat]? = th.regs[i.toNat]? ∧ u.byp.head? = some ⟨d.spec, some v⟩)) ∧
       (∀ i, d.spec = .p i → o.writes = [(d, v)] → i.toNat < th.preds.length → u.preds[i.toNat]? = some (v.val != 0)) ∧
       (∀ i, d.spec = .v i → o.empties = [i.toNat] → i.toNat < th.regs.length →
         (u.regs[i.toNat]?).map (·.st) = some .empty) ∧
       (∀ i b, o.frees = [⟨.v i, true, b⟩] → o.writes = [] → o.empties = [] → i.toNat < th.regs.length →
         (u.regs[i.toNat]?).map (·.st) = some .freed)) ∧
  (∀ (c : RCtx) (t : Thread) (field : Nat) (i : BitVec 7) (src : Src), c.thread = some t → src.spec = .v i →
     (t.regs.length ≤ i.toNat → rd c field src = .trap (opTrap .regUndeclared field (.v i))) ∧
     (∀ e v, i.toNat < t.regs.length → t.byp.find? (fun e => e.dst == .v i && e.v.isSome) = some e → e.v = some v →
       rd c field src = .ok ⟨v.val, .tag v.tag, opndInfo field (.v i)⟩) ∧
     (t.byp.find? (fun e => e.dst == .v i && e.v.isSome) = none →
       (∀ r, t.regs[i.toNat]? = some r → r.st = .full → rd c field src = .ok ⟨r.v.val, .tag r.v.tag, opndInfo field (.v i)⟩) ∧
       (∀ r, t.regs[i.toNat]? = some r → r.st = .freed → rd c field src = .ok ⟨0, .tag F.raw32, opndInfo field (.v i)⟩) ∧
       (∀ r, t.regs[i.toNat]? = some r → r.st = .empty → src.trap = true →
         rd c field src = .trap (opTrap .emptyRead field (.v i))) ∧
       (∀ r, t.regs[i.toNat]? = some r → r.st = .empty → src.trap = false →
         (t.logOf i.toNat = none → rd c field src = .stall) ∧
         ∀ e, t.logOf i.toNat = some e → rd c field src = .park (.pageFault e))))

/-! ## The copy engine, copy tags and windows (R213, R214, R226 to R228) -/

/-- R226: a copy that passes its checks, with a place among the 32 of its core and on its tag, issues: its ranges enter
the race records and one operation is in flight on its tag; a copy of no element is done at once. Deterministic mode
fences first, and forbids a floating sum (R250). R214: an operation that issues on a tag makes it not done, clears TGE
on a tag that was done, and counts one more (no other party's reduction that happens before it is still to be performed). R227: `waitt` goes on once every tag of its mask is done, `waita` (and
not in deterministic mode) once one is: its lowest done tag. Each acquires what those tags' operations released, and
writes 1 to Pd, or 0 where the lowest of them that failed says so; `tfind` finds the lowest done tag, the lowest that
failed, or a tag's cause, else −1. -/
def Obligations.CopyInstructions : Prop :=
  ((∀ (s : State) (h : Here) (g : Guard) (hd hs : BitVec 4) (q : Src) (x : RCtx → BitVec 128 × BitVec 128 × BitVec 128),
      s.here h → h.epochs → (∀ k ∈ h.lanes g, rdCopy k hd hs q = .ok (x k)) →
      let issues (red : Option (CpyOp × RelFmt)) (s : State) (k : RCtx) (out : LaneOut) (u : State) : Prop :=
        let (d, r, w) := x k
        ∃ v p, s.viewer k.wk k.arm = some v ∧ s.posOf k.pos.id = some p ∧ s.copyCheck k d r w red = none ∧
          (s.copiesOf k.pos.core).length < 32 ∧ p.tagsTake [cpyTag w] = true ∧
          let from' := recBytes r (cpySrce w) (cpyCount w) (cpyBytes w)
          let onto := recBytes d (cpyDste w) (cpyCount w) (cpyBytes w)
          s.racesAt v p r from' .read = none ∧ s.racesAt v p d onto .write = none ∧ out = { frees := srcRun q 4 } ∧
          let s1 := ((if v.det then s.fenceBy v 3 else s).recordAll v p r from' .read).recordAll v p d onto .write
          u = if cpyCount w = 0 then
                ((s1.modPos p.id (·.modTag (cpyTag w) (·.issue (s.releaseOf v.wk k.arm v)))).modPos p.id
                  (·.modTag (cpyTag w) (·.complete none))).modWarp v.wk (·.tick k.arm)
              else s1.issueOp v k [cpyTag w] (.copy d r w red) 1 false
      s.Turns h g [] [] (.cpy g hd hs q) (issues none) ∧
      (∀ (op : CpyOp) (f : RelFmt), ((op = .add ∧ (f = .f32 ∨ f = .bf16)) → s.det? h.c.pos = false) →
        s.Turns h g [] [] (.cpyr op f g hd hs q) (issues (some (op, f))))) ∧
   (∀ (s : State) (v : Viewer) (c : RCtx) (tag need : Nat) (k : OpKind) (mtx : Bool) (p : Position) (t : CTag),
      s.posOf v.wk.pos = some p → p.tags[tag]? = some t →
      (∀ e ∈ s.c.pend, e.red.isSome = true → e.owner ≠ v.party → before v.front e.owner e.epoch = false) →
      let u := s.issueOp v c [tag] k need mtx
      u.c.ops.length = s.c.ops.length + 1 ∧ u.c.mem = s.c.mem ∧ u.c.pend = s.c.pend ∧
        (∃ o ∈ u.c.ops, o.id = s.nextId ∧ o.kind = k ∧ o.tags = [tag] ∧ o.st = .issued ∧ o.party = v.party) ∧
        ∃ q x, u.posOf v.wk.pos = some q ∧ q.tags[tag]? = some x ∧ q.stash = p.stash ∧ x.count = t.count + 1 ∧
          (t.count = 0 → x.tge = false ∧ x.cause = none) ∧ (t.count ≠ 0 → x.tge = t.tge ∧ x.cause = t.cause))) ∧
  (∀ (s : State) (h : Here) (g : Guard) (hi : Bool) (m : Src) (tags : RCtx → List Nat), s.here h → h.epochs →
     (∀ k ∈ h.lanes g, rdMask s k hi m = .ok (tags k)) →
     (∀ pd : Option (BitVec 3), s.Turns h g (pd.toList.map .p) [] (.waitt hi g pd m) fun s k out u =>
       ∃ q, s.posOf k.pos.id = some q ∧ (∀ t ∈ tags k, q.tagDone t = true) ∧ u = s.acquireTags k (tags k) ∧
         match pd with
         | none => q.tge (tags k) = none ∧ out = { frees := [m] }
         | some d => out = { writes := [(⟨.p d, false⟩, ⟨if (q.tge (tags k)).isNone then 1 else 0, F.n32⟩)], frees := [m] }) ∧
     (∀ pd : Option (BitVec 3), s.det? h.c.pos = false →
       s.Turns h g (pd.toList.map .p) [] (.waita hi g pd m) fun s k out u =>
         (tags k = [] ∧ (∃ q, s.posOf k.pos.id = some q) ∧ u = s ∧ out =
           { writes := pd.toList.map fun d => (⟨.p d, false⟩, ⟨0, F.n32⟩), frees := [m] }) ∨
         ∃ q t, s.posOf k.pos.id = some q ∧ (tags k).find? q.tagDone = some t ∧ u = s.acquireTags k [t] ∧
           match pd with
           | none => q.tge [t] = none ∧ out = { frees := [m] }
           | some d => out = { writes := [(⟨.p d, false⟩, ⟨if (q.tge [t]).isNone then 1 else 0, F.n32⟩)], frees := [m] }) ∧
     (∀ d : Dst, s.det? h.c.pos = false →
       s.Delivers h g d [m] (.tfind 0 hi g d m) (noFlags fun k => ⟨match (tags k).find? k.pos.tagDone with
         | some t => BitVec.ofNat 32 t
         | none => 0xFFFFFFFF, F.n32⟩) ∧
       s.Delivers h g d [m] (.tfind 1 hi g d m) (noFlags fun k => ⟨match k.pos.tge (tags k) with
         | some (t, _) => BitVec.ofNat 32 t
         | none => 0xFFFFFFFF, F.n32⟩)) ∧
     (∀ (d : Dst) (n : RCtx → Nat), (∀ k ∈ h.lanes g, rdCount k m = .ok (n k) ∧ n k < s.stageTags k) →
       s.Delivers h g d [m] (.tfind 2 hi g d m) (noFlags fun k => ⟨match (k.pos.tags[n k]?).bind (·.cause) with
         | some c => c.code.setWidth 32
         | none => 0xFFFFFFFF, F.n32⟩)))

/-- R214, R226: the oldest copy of its core completes: its elements are moved, its tag counts one less, and the operation
is gone. An element that fails ends it: the elements before it stand, and the tag keeps the first cause. R226: one
element copied within a stash without windows, every write of which the engine may see: the bytes at the destination
are those that stood at the source, and no other stash byte changes. R226: each word of a reducing copy is op(dst,
src), dst first; the integer and logic operations are those of the word modulo 2^32. That a copy writes only as it completes is
the model's choice (log entry 64). -/
def Obligations.CopiesComplete : Prop :=
  (∀ (s : State) (o : EngOp) (p : Position) (hd hs q : BitVec 128) (red : Option (CpyOp × RelFmt)) (rest : List EngOp),
     s.opOf o.id = some o → o.kind = .copy hd hs q red → s.posOf o.pos = some p → s.copiesOf o.core = o :: rest →
     s.opWaits o = false →
     (∀ n, firstBad s p hd hs q (cpyCount q) 0 = (n, none) →
       exec (.copyComplete o.id) s = .next ((s.moveCopy o p hd hs q red n).finishOp o none)) ∧
     (∀ n c, firstBad s p hd hs q (cpyCount q) 0 = (n, some (.err c)) →
       exec (.copyComplete o.id) s = .next ((s.moveCopy o p hd hs q red n).finishOp o (some c))) ∧
     (∀ (u : State) (tag : Nat) (t : CTag) (c : Option Cause), u.posOf o.pos = some p → o.tags = [tag] → p.tags[tag]? = some t →
       ∃ x y, (u.finishOp o c).posOf o.pos = some x ∧ x.tags[tag]? = some y ∧ y.count = t.count - 1 ∧ x.stash = p.stash ∧
         (u.finishOp o c).opOf o.id = none ∧ (c = none → y.tge = t.tge ∧ y.cause = t.cause) ∧
         (∀ k, c = some k → y.tge = true ∧ y.cause = if t.tge then t.cause else some k))) ∧
  (∀ (s : State) (o : EngOp) (p : Position) (hd hs q : BitVec 128), s.posOf o.pos = some p → p.id = o.pos → p.unfenced = [] →
     (∀ w ∈ p.wins, w = none) → recStash hd = true → recStash hs = true → recSwz hd = 0 → recSwz hs = 0 →
     let n := cpyBytes q
     let a := recAddr hs (cpySrce q) 0
     let b := recAddr hd (cpyDste q) 0
     recInBounds hs (cpySrce q) 0 n = true → recInBounds hd (cpyDste q) 0 n = true →
     let t := s.moveCopy o p hd hs q none 1
     t.c.mem = s.c.mem ∧ ∃ u, t.posOf o.pos = some u ∧ u.tags = p.tags ∧ ∀ i, memGet u.stash i =
       if b ≤ i ∧ i < b + n then memGet p.stash (a + (i - b)) else memGet p.stash i) ∧
  (∀ (s : State) (o : EngOp) (p : Position) (hd hs q : BitVec 128) (op : CpyOp) (f : RelFmt), s.posOf o.pos = some p → p.id = o.pos →
     p.unfenced = [] → (∀ w ∈ p.wins, w = none) → recStash hd = true → recStash hs = true → recSwz hd = 0 → recSwz hs = 0 →
     let n := cpyBytes q
     let w : Nat := if f = .bf16 then 2 else 4
     let a := recAddr hs (cpySrce q) 0
     let b := recAddr hd (cpyDste q) 0
     recInBounds hs (cpySrce q) 0 n = true → recInBounds hd (cpyDste q) 0 n = true → n % w = 0 →
     let t := s.moveCopy o p hd hs q (some (op, f)) 1
     t.c.mem = s.c.mem ∧ ∃ u, t.posOf o.pos = some u ∧ u.tags = p.tags ∧
       (∀ i, i < b ∨ b + n ≤ i → memGet u.stash i = memGet p.stash i) ∧
       ∀ j, j < n / w → leNat (memRead u.stash (b + w * j) w) =
         relStep op f (leNat (memRead p.stash (b + w * j) w)) (leNat (memRead p.stash (a + w * j) w)) % 2 ^ (8 * w)) ∧
  (∀ (x y : Word) (f : RelFmt), f = .s32 ∨ f = .n32 →
     relStep .add f x.toNat y.toNat = (x + y).toNat ∧
     relStep .and f x.toNat y.toNat = (x &&& y).toNat ∧
     relStep .or f x.toNat y.toNat = (x ||| y).toNat ∧
     relStep .xor f x.toNat y.toNat = (x ^^^ y).toNat ∧
     relStep .min .n32 x.toNat y.toNat = min x.toNat y.toNat ∧
     relStep .max .n32 x.toNat y.toNat = max x.toNat y.toNat ∧
     relStep .min .s32 x.toNat y.toNat = (BitVec.ofInt 32 (min x.toInt y.toInt)).toNat ∧
     relStep .max .s32 x.toNat y.toNat = (BitVec.ofInt 32 (max x.toInt y.toInt)).toNat)

/-- R228: `smap` maps a window whose lines are all Invalid, after the write-backs of the one it replaces; `smap.off`
unmaps one; `sinv` makes every line Invalid; `sflush` writes Dirty lines back in the background, on its tag. R213: a
wanted line is filled with the 64 bytes that the whole system sees at its place, and is Clean; an `sflush` completes
with its lines written back; an access of another agent writes Dirty lines back and, when it writes, makes the lines
it meets Invalid. -/
def Obligations.Windows : Prop :=
  (∀ (s : State) (h : Here) (g : Guard) (n : BitVec 3), s.here h →
     (∀ (q : Src) (hs : BitVec 4) (x : Src) (d : RCtx → List Word) (r : RCtx → BitVec 128) (i : RCtx → Nat),
       (∀ k ∈ h.lanes g, rdRaws k 1 q 2 = .ok (d k) ∧ handleOf k hs = .ok (r k) ∧ rdNat k 3 x = .ok (i k)) →
       s.Turns h g [] [x.spec] (.smap n g q hs x) fun s k out u =>
         ∃ p v, s.posOf k.pos.id = some p ∧ s.viewer k.wk k.arm = some v ∧
           let w : BitVec 64 := (quadBits (d k)).setWidth 64
           let k1 : RCtx := { k with pos := p }
           s.smapCheck k1 n.toNat w (r k) (i k) = none ∧ s.unmapEnd k1 n.toNat = none ∧ out = { frees := x :: srcRun q 2 } ∧
           u = ((if v.det then s.fenceBy v 3 else s).unmap p.id n.toNat).mapWindow k1 n.toNat w (r k) (i k)) ∧
     (s.Turns h g [] [] (.smapOff n g) fun s k out u => ∃ p, s.posOf k.pos.id = some p ∧
       s.unmapEnd { k with pos := p } n.toNat = none ∧ out = {} ∧ u = s.unmap p.id n.toNat) ∧
     (s.Turns h g [] [] (.sinv n g) fun s k out u => ∃ p, s.posOf k.pos.id = some p ∧ out = {} ∧
       match (p.wins[n.toNat]?).getD none with
       | none => u = s
       | some w => s.windowLent p w = false ∧
           u = s.modPos p.id (·.modWin n.toNat fun w => { w with lines := [], want := [], failed := [] })) ∧
     (h.epochs → ∀ (t : Src) (i : RCtx → Nat), (∀ k ∈ h.lanes g, rdCount k t = .ok (i k) ∧ i k < s.stageTags k) →
       s.Turns h g [] [t.spec] (.sflush n g t) fun s k out u =>
         ∃ v p, s.viewer k.wk k.arm = some v ∧ s.posOf k.pos.id = some p ∧ out = { frees := [t] } ∧
           match (p.wins[n.toNat]?).getD none with
           | none => u = s
           | some w => p.tagsTake [i k] = true ∧ u = s.issueOp v k [i k] (.sflush n.toNat w.dirty) 1 false)) ∧
  (∀ (s : State),
     (∀ (p : Position) (n line pa : Nat) (w : Window), s.posOf p.id = some p → p.wins[n]? = some (some w) →
       (w.want.any fun x => x.1 == line) = true → w.st line = none → s.engMem p.ctx w.obj (w.goff + 64 * line) false false = .ok →
       s.winPa p w line false = some pa → s.c.pend = [] → s.linesMet p.ctx w.obj (w.goff + 64 * line) 64 = [] →
       ∃ t q x, exec (.windowLineFill p.id n line) s = .next t ∧ t.posOf p.id = some q ∧ q.wins[n]? = some (some x) ∧
         x.st line = some .clean ∧ memRead q.stash (w.soff + 64 * line) 64 = memRead s.c.mem pa 64 ∧ t.c.mem = s.c.mem) ∧
     (∀ (o : EngOp) (n line : Nat) (p : Position) (w : Window), s.opOf o.id = some o → o.kind = .sflush n [line] →
       s.posOf o.pos = some p → s.opWaits o = false → (p.wins[n]?).getD none = some w → p.id = o.pos →
       s.lineMeets p w line = .ok →
       exec (.sflushComplete o.id) s = .next ((s.writeBack p.id n line).finishOp o none)) ∧
     (∀ (ctx obj off : Nat) (wr : Bool), exec (.windowSnoop ctx obj off wr) s =
       .next ((s.linesMet ctx obj (off / 64 * 64) 64).foldl (fun s l =>
         let s1 := s.writeBack l.1 l.2.1 l.2.2
         if wr then s1.modPos l.1 (·.modWin l.2.1 (·.setLine l.2.2 none)) else s1) s)) ∧
     (∀ (p : Position) (n line pa : Nat) (w : Window), s.posOf p.id = some p → (p.wins[n]?).getD none = some w →
       w.st line = some .dirty → s.winPa p w line true = some pa → s.c.pend = [] →
       (∀ l, pa / 64 ≤ l → l ≤ (pa + 63) / 64 → s.keyRead (64 * l) = true) →
       (s.writeBack p.id n line).c.mem = memWrite s.c.mem pa (memRead p.stash (w.soff + 64 * line) 64)))

/-! ## The matrix engine (R183 to R203) -/

/-- R183, R184, R198: `lload` sets its Loft slot loading, with the tag, rows and columns of its descriptor, and issues on
its copy tag; the load that completes fills the slot with its columns, or leaves it void with the cause in the tag.
R200: `ald` and `ast` issue on their tag: a tile is bound for the load, pending; the store keeps the cells as they are
and sets the handle's algebra to the tile's. A load that completes widens the elements to f32 and leaves +0 elsewhere;
a store that completes writes the converted elements, bit by bit where no other element of the tile lies, and raises MSTAT. That
a store takes the cells, and sets the handle's algebra, as it issues is the model's choice (log entry 52). -/
def Obligations.LoftLoadsAndTileTransfers : Prop :=
  ((∀ (s : State) (h : Here) (g : Guard) (l : BitVec 3) (hs : BitVec 4) (x q : Src) (r : RCtx → BitVec 128) (i : RCtx → Nat)
       (w : RCtx → List Word), s.here h → h.epochs →
     (∀ k ∈ h.lanes g, handleOf k hs = .ok (r k) ∧ rdNat k 2 x = .ok (i k) ∧ rdRaws k 3 q 2 = .ok (w k)) →
     s.Turns h g [] [x.spec] (.lload g l hs x q) fun s k out u =>
       let d : BitVec 64 := (quadBits (w k)).setWidth 64
       ∃ v p n cols, s.viewer k.wk k.arm = some v ∧ s.posOf k.pos.id = some p ∧ s.lloadCheck k (r k) (i k) d q = .ok (n, cols) ∧
         (p.loftAt l.toNat).st ≠ .loading ∧ s.slotRead p.id l.toNat = false ∧ p.tagsTake [ldCtag d] = true ∧
         (p.loftAt l.toNat).clash v .write = none ∧ s.racesAt v p (r k) cols.flatten .read = none ∧
         out = { frees := x :: srcRun q 2 } ∧
         u = ((s.recordAll v p (r k) cols.flatten .read).modPos p.id (·.modLoft l.toNat fun y =>
           { (y.note v .write) with st := .loading, ttag := ldTtag d, rows := ldRows d, cols := ldCols d, data := [] })).issueOp
             v k [ldCtag d] (.lload l.toNat (r k) (i k) d n) 1 false) ∧
   (∀ (s : State) (o : EngOp) (p : Position) (l first k : Nat) (hs : BitVec 128) (d : BitVec 64),
     s.opOf o.id = some o → o.kind = .lload l hs first d k → s.posOf o.pos = some p → s.opWaits o = false → p.id = o.pos →
     let n := columnBytes (ldRows d) k (elemBits (tagFmt (ldTtag d)))
     let cols := (List.range (ldCols d)).map fun c => loadColumn hs first (ldOff d) n c
     (s.engMeets p hs cols.flatten false = .ok → recStash hs = true → p.unfenced = [] → l < p.loft.length →
       ∃ t x, exec (.lloadComplete o.id) s = .next t ∧ t.posOf o.pos = some x ∧ t.c.mem = s.c.mem ∧ x.stash = p.stash ∧
         (x.loftAt l).st = .full ∧ (x.loftAt l).data = cols.map fun c => c.map fun b => b.elim 0 (memGet p.stash)) ∧
     (∀ c, s.engMeets p hs cols.flatten false = .err c →
       exec (.lloadComplete o.id) s = .next ((s.modPos p.id (·.modLoft l fun y => { y with st := .void })).finishOp o (some c))))) ∧
  ((∀ (s : State) (h : Here) (g : Guard) (t : Src) (mr : BitVec 4) (m : RCtx → BitVec 128) (n : RCtx → Nat), s.here h →
     h.epochs → (∀ k ∈ h.lanes g, mhandleOf k mr = .ok (m k) ∧ rdNat k 2 t = .ok (n k)) →
     (∀ (new : Bool) (a : BitVec 5), s.Turns h g [] [t.spec] (.ald new g a mr t) fun s k out u =>
       ∃ v p r bs s0 tid s1, s.tileCheck k (m k) (n k) 1 (.m mr) = .ok (r, bs) ∧ s.viewer k.wk k.arm = some v ∧
         s.posOf k.pos.id = some p ∧ s.detFence v k.lane = some s0 ∧
         let meets := s.meetAcc p a.toNat new (algK r)
         meets ≠ .wait ∧ p.tagsTake [n k] = true ∧ meets.clash v = none ∧ s0.racesAt v p stashRec (stashOffs bs) .read = none ∧
         s0.bindAcc p.id a.toNat meets (algK r) (tagAlg (mhTag (m k))) = (tid, s1) ∧ out = { frees := [t] } ∧
         u = (((s1.wroteTile k v tid fun t => { t with pending := t.pending + 1, tag := (Tile.fresh 0 0 (tagAlg (mhTag (m k)))).tag }).recordAll
           v p stashRec (stashOffs bs) .read)).issueOp v k [n k] (.ald a.toNat tid (m k) (algK r)) 1 true) ∧
     (∀ (rnd : Rnd) (prev : Bool) (a : Src) (x : RCtx → Tile), (∀ k ∈ h.lanes g, readTile k a prev = .ok (x k)) →
       ∀ os u, State.InTurn (fun s k out u => ∃ v p r bs, s.tileCheck k (m k) (n k) 0 (.m mr) = .ok (r, bs) ∧
           s.viewer k.wk k.arm = some v ∧ s.posOf k.pos.id = some p ∧ algK r = (x k).k ∧ p.tagsTake [n k] = true ∧
           (x k).clash (v.after (x k).front) (tileKind a) = none ∧
           s.racesAt (v.after (x k).front) p stashRec (stashOffs bs) .write = none ∧ out = { frees := [a, t] } ∧
           u = (((s.tookTile k v (x k)).recordAll v p stashRec (stashOffs bs) .write).modWarp v.wk
             (·.putHandle (16 + mr.toNat) (mhSetAlg (m k) (tagAlg (x k).tag)))).issueOp v k [n k]
               (.ast (m k) rnd (x k).k (x k).cells) 1 false) (s.acquires h g [t.spec]) (h.lanes g) os u →
         exec (.ast rnd prev g mr a t) s = .next ((u.usedLast h g (accName a) prev a.last).done h [] os [t.spec]))) ∧
   (∀ (s : State) (o : EngOp) (p : Position), s.opOf o.id = some o → s.posOf o.pos = some p → s.opWaits o = false →
     (∀ a tid m k vs s1, o.kind = .ald a tid m k → s.tileTurn o = true →
       let bs := tileBytes m k 0 (mhSpan m).1 0 (mhSpan m).2
       s.stashMeets p bs false = .ok → s.engReads o p stashRec (stashOffs bs) = (vs, s1) →
       exec (.aldComplete o.id) s = .next ((s1.modPos p.id (·.modTile tid (·.landed (aldCells m k (byteMap bs vs)) none))).finishOp
         o none)) ∧
     (∀ m r k cells, o.kind = .ast m r k cells →
       let es := astElems m r k cells
       let w := elemBits (tagFmt (mhTag m))
       let bs := (es.flatMap fun e => elemBytes w e.1 e.2.1).eraseDups
       s.stashMeets p bs true = .ok → (∀ b ∈ bs, p.windowAt b = none) →
       ∃ s1 : State, exec (.astComplete o.id) s = .next ((s1.modBlock o.pos o.stage fun b =>
           { b with mstat := raiseMstat b.mstat (joinAll (es.map (·.2.2.2))) }).finishOp o none) ∧
         s1.c.mem = s.c.mem ∧
         (∀ b, b ∉ bs → (s1.posOf p.id).map (fun q => memGet q.stash b) = (s.posOf p.id).map fun q => memGet q.stash b) ∧
         ∀ e ∈ es, ∀ i, i < w →
           let bit := 8 * e.1 + w * e.2.1 + i
           (∀ x ∈ es, 8 * x.1 + w * x.2.1 ≤ bit → bit < 8 * x.1 + w * x.2.1 + w → x = e) →
           (s1.posOf p.id).map (fun q => (memGet q.stash (bit / 8)).getLsbD (bit % 8)) = some (e.2.2.1.testBit i))))

/-- R186, R200, R202: `azero` leaves +0 in every cell of a tile of the slot's algebra, with its tile tag; `alg` loads the
64 bytes at a stash address as the record of a slot from 5 up. R186, R197, R199, R201: reads of a full tile. `mwait`
goes on, unless its last writer failed; `amov` delivers one f32 cell; a last use, and `arel`, unbind the tile once
every lane has it. -/
def Obligations.Tiles : Prop :=
  (∀ (s : State) (h : Here) (g : Guard), s.here h →
     (h.epochs → ∀ (n : BitVec 4) (new : Bool) (a : BitVec 5), s.Turns h g [] [] (.azero n new g a) fun s k out u =>
       ∃ v p r s0 tid s1, s.viewer k.wk k.arm = some v ∧ s.posOf k.pos.id = some p ∧ s.algUse v n.toNat = (some r, s0) ∧
         let m := s0.meetAcc p a.toNat new (algK r)
         m ≠ .wait ∧ (∀ t, m = .here t → t.pending = 0) ∧ m.clash v = none ∧
         s0.bindAcc p.id a.toNat m (algK r) n.toNat = (tid, s1) ∧ out = {} ∧
         u = (s1.wroteTile k v tid fun t => { t with
           tag := BitVec.ofNat 16 (1 + n.toNat * 2 ^ 8 + 2 ^ 12), cells := List.replicate (1024 * algK r) 0 }).modWarp
             v.wk (·.tick k.arm)) ∧
     (∀ (n : BitVec 4) (p : Src) (off : RCtx → Nat), 5 ≤ n.toNat → (∀ k ∈ h.lanes g, rdNat k 1 p = .ok (off k)) →
       s.Turns h g [] [p.spec] (.alg n g p) fun s k out u =>
         let line : List (Option Nat) := (List.range 64).map fun i => some (off k + i)
         ∃ v bs s1, s.viewer k.wk k.arm = some v ∧ off k % 64 = 0 ∧ off k + 64 ≤ s.stashLimit k ∧
           (∃ x, s.checkLine k.pos (off k) 64 = .ok x) ∧ s.racesAt v k.pos stashRec line .read = none ∧
           s.peekStash v k.lane k.pos.id (off k) 64 = (bs, s1) ∧
           algBad (BitVec.ofNat 512 (leNat bs)) = false ∧ out = { frees := [p] } ∧
           u = (s1.recordAll v k.pos stashRec line .read).modCtx v.ctx (·.putAlg n.toNat (BitVec.ofNat 512 (leNat bs)) v))) ∧
  (∀ (s : State) (h : Here) (g : Guard) (prev : Bool) (a : Src), s.here h →
     (∀ os t, State.InTurn (fun s k out u => ∃ v p x, s.viewer k.wk k.arm = some v ∧ s.posOf k.pos.id = some p ∧
         readTile { k with pos := p } { a with trap := false } prev = .ok x ∧ x.clash v .write = none ∧ out = {} ∧ u = s) s (h.lanes g) os t →
       exec (.arel prev g a) s = .next ((t.usedLast h g (accName a) prev true).done h [] os)) ∧
     (h.epochs → ∀ x : RCtx → Tile, (∀ k ∈ h.lanes g, readTile k a prev = .ok (x k)) →
       (∀ os t, State.InTurn (fun s k out u => ∃ v, s.viewer k.wk k.arm = some v ∧
           (x k).clash (v.after (x k).front) (tileKind a) = none ∧ (x k).cause = none ∧ out = { frees := [a] } ∧
           u = s.tookTile k v (x k)) s (h.lanes g) os t →
         exec (.mwait prev g a) s = .next ((t.usedLast h g (accName a) prev a.last).done h [] os)) ∧
       (∀ (comp : BitVec 3) (d : Dst) (i : Src) (n : RCtx → Nat), h.Writable g (fileDst d) [] →
         (∀ k ∈ h.lanes g, rdNat k 2 i = .ok (n k) ∧ n k < 1024 ∧ comp.toNat < (x k).k) →
         ∀ os t, State.InTurn (fun s k out u => ∃ v, s.viewer k.wk k.arm = some v ∧
             (x k).clash (v.after (x k).front) (tileKind a) = none ∧ out = { empties := emptied d.spec, frees := [a, i] } ∧
             u = (s.tookTile k v (x k)).addFill k.pos.core k.wk k.lane d.spec
               ⟨((x k).cells[1024 * comp.toNat + n k]?).getD 0, F.f32⟩ v.party) (s.acquires h g [i.spec]) (h.lanes g) os t →
           exec (.amov comp prev g d a i) s = .next
             ((t.usedLast h g (accName a) prev a.last).done h [d.spec] os [i.spec]))))

/-- The instructions on elements, tags, tiles and Loft slots, and the events that end a load or a store of them, complete: in
an arm with one executing lane, whose operands are readable and whose destination may be written, each leaves the state that
R140, R169, R170, R64 to R67 and R198 to R202 give it. That `ast` takes the cells and sets the handle's algebra as it issues is
the model's choice (log entry 52). -/
def Obligations.TileFormsComplete : Prop :=
  (∀ (s : State) (h : Here) (g : Guard) (k : RCtx) (v : Viewer) (p : Position), s.here h → h.lanes g = [k] → h.epochs →
    s.viewer k.wk k.arm = some v → k.pos = p → s.posOf p.id = some p →
    let put (d : Dst) (srcs : List Src) (x : TV) : State := s.done h [d.spec] [(k.lane, .one d srcs (x, {}))]
    (∀ (d : Dst) (a b e : Src) (ra rb re : RV) (f : Fmt), rd k 1 a = .ok ra → rd k 2 b = .ok rb → rd k 3 e = .ok re →
      ra.tag = .tag f → 1 < elemCount f →
      (wrOk k d [a, b, e] = .ok () → (rb.tag = .tag f ∨ rb.tag = .zeroSp) → re.bits.toNat < elemCount f →
        exec (.pack g d a b e) s = .next (put d [a, b, e]
          ⟨trimL6 f (setElem (elemBits f) rb.bits re.bits.toNat (elemAt (elemBits f) ra.bits 0)), f⟩)) ∧
      (wrOk k d [a, b] = .ok () → rb.bits.toNat < elemCount f →
        let el : Nat := elemAt (elemBits f) ra.bits rb.bits.toNat
        exec (.unpk false g d a b) s = .next (put d [a, b] ⟨BitVec.ofNat 32 el, f⟩) ∧
        exec (.unpk true g d a b) s = .next (put d [a, b] ⟨wideBits f el,
          if isSigned f then F.s32 else if isUnsigned f then F.n32 else F.f32⟩))) ∧
    (∀ (d : Dst) (a b : Src) (ra rb : RV), rd k 1 a = .ok ra → rd k 2 b = .ok rb →
      (wrOk k d [a] = .ok () → ∀ f : Fmt, exec (.tagw (.fmt f) g d a b) s = .next (put d [a] ⟨ra.bits, f⟩)) ∧
      (wrOk k d [a, b] = .ok () → rb.bits.toNat < 14 →
        exec (.tagw .reg g d a b) s = .next (put d [a, b] ⟨ra.bits, rb.bits.setWidth 5⟩)) ∧
      (wrOk k d [a] = .ok () → (∀ i j l, a.spec ≠ .m i ∧ a.spec ≠ .l j ∧ a.spec ≠ .a l) →
        exec (.tagr g d a) s = .next (put d [a] ⟨BitVec.ofNat 32 ra.outTag.toNat, F.n32⟩))) ∧
    (∀ d : Dst, wrOk k d [] = .ok () → exec (.rpool 0 g d) s = .next (put d [] ⟨BitVec.ofNat 32 k.warp.gran, F.n32⟩)) ∧
    (∀ (ha hb : Half) (a1 a2 b1 b2 : RV) (va vb : TV × Flags), g.neg = false → rd k 1 (halfSrc ha.a) = .ok a1 →
      rd k 2 (halfSrc ha.b) = .ok a2 → rd k 1 (halfSrc hb.a) = .ok b1 → rd k 2 (halfSrc hb.b) = .ok b2 →
      wrOk k ⟨.v ha.dst, false⟩ [] = .ok () → wrOk k ⟨.v hb.dst, false⟩ [] = .ok () →
      evalHalf ha.op a1 a2 = .ok va → evalHalf hb.op b1 b2 = .ok vb →
      exec (.pair g.pred ha hb) s = .next (s.done h [.v ha.dst, .v hb.dst] [(k.lane,
        { writes := [(⟨.v ha.dst, false⟩, va.1), (⟨.v hb.dst, false⟩, vb.1)], flags := va.2.join vb.2 })])) ∧
    (∀ (n : BitVec 4) (new : Bool) (a : BitVec 5) (r : BitVec 512) (s0 s1 : State) (tid : Nat),
      s.algUse v n.toNat = (some r, s0) →
      let m := s0.meetAcc p a.toNat new (algK r)
      m ≠ .wait → (∀ t, m = .here t → t.pending = 0) → m.clash v = none → s0.bindAcc p.id a.toNat m (algK r) n.toNat = (tid, s1) →
      exec (.azero n new g a) s = .next (((s1.wroteTile k v tid fun t =>
        { t with tag := BitVec.ofNat 16 (1 + n.toNat * 2 ^ 8 + 2 ^ 12), cells := List.replicate (1024 * algK r) 0 }).modWarp v.wk
          (·.tick k.arm)).done h [] [(k.lane, {})])) ∧
    (∀ (n : BitVec 4) (a : Src) (off : Nat) (bs : List Byte) (s1 : State), 5 ≤ n.toNat → rdNat k 1 a = .ok off →
      off % 64 = 0 → batonsOf [a.spec] = [] → off + 64 ≤ s.stashLimit k →
      let line : List (Option Nat) := (List.range 64).map fun i => some (off + i)
      (∃ x, s.checkLine p off 64 = .ok x) → s.racesAt v p stashRec line .read = none →
      s.peekStash v k.lane p.id off 64 = (bs, s1) → algBad (BitVec.ofNat 512 (leNat bs)) = false →
      exec (.alg n g a) s = .next (((s1.recordAll v p stashRec line .read).modCtx v.ctx
        (·.putAlg n.toNat (BitVec.ofNat 512 (leNat bs)) v)).done h [] [(k.lane, { frees := [a] })])) ∧
    (∀ (prev : Bool) (a : Src) (t : Tile), (p.accAt (accName a)).tile prev = some t → t.pending = 0 →
      (t.clash v .write = none →
        exec (.arel prev g a) s = .next ((s.usedLast h g (accName a) prev true).done h [] [(k.lane, {})])) ∧
      (t.clash (v.after t.front) (tileKind a) = none → t.cause = none →
        exec (.mwait prev g a) s = .next (((s.tookTile k v t).usedLast h g (accName a) prev a.last).done h []
          [(k.lane, { frees := [a] })])) ∧
      (t.clash (v.after t.front) (tileKind a) = none → ∀ (comp : BitVec 3) (d : Dst) (i : Src) (n : Nat),
        wrOk k (fileDst d) [] = .ok () → rdNat k 2 i = .ok n → n < 1024 → comp.toNat < t.k → batonsOf [i.spec] = [] →
        exec (.amov comp prev g d a i) s = .next ((((s.tookTile k v t).addFill k.pos.core k.wk k.lane d.spec
          ⟨(t.cells[1024 * comp.toNat + n]?).getD 0, F.f32⟩ v.party).usedLast h g (accName a) prev a.last).done h [d.spec]
            [(k.lane, { empties := emptied d.spec, frees := [a, i] })]))) ∧
    (∀ (l : BitVec 3) (hs : BitVec 4) (x q : Src) (r : BitVec 128) (i n : Nat) (w : List Word) (cols : List (List (Option Nat))),
      handleOf k hs = .ok r → rdNat k 2 x = .ok i → rdRaws k 3 q 2 = .ok w → batonsOf [x.spec] = [] →
      let d : BitVec 64 := (quadBits w).setWidth 64
      s.lloadCheck k r i d q = .ok (n, cols) → (p.loftAt l.toNat).st ≠ .loading → s.slotRead p.id l.toNat = false →
      p.tagsTake [ldCtag d] = true → (p.loftAt l.toNat).clash v .write = none → s.racesAt v p r cols.flatten .read = none →
      exec (.lload g l hs x q) s = .next ((((s.recordAll v p r cols.flatten .read).modPos p.id (·.modLoft l.toNat fun y =>
        { (y.note v .write) with st := .loading, ttag := ldTtag d, rows := ldRows d, cols := ldCols d, data := [] })).issueOp v k
          [ldCtag d] (.lload l.toNat r i d n) 1 false).done h [] [(k.lane, { frees := x :: srcRun q 2 })])) ∧
    (∀ (mr : BitVec 4) (t : Src) (m : BitVec 128) (n : Nat), mhandleOf k mr = .ok m → rdNat k 2 t = .ok n →
      batonsOf [t.spec] = [] → p.tagsTake [n] = true →
      (∀ (new : Bool) (a : BitVec 5) (r : BitVec 512) (bs : List Nat) (s0 s1 : State) (tid : Nat),
        s.tileCheck k m n 1 (.m mr) = .ok (r, bs) → s.detFence v k.lane = some s0 →
        let meets := s.meetAcc p a.toNat new (algK r)
        meets ≠ .wait → meets.clash v = none → s0.racesAt v p stashRec (stashOffs bs) .read = none →
        s0.bindAcc p.id a.toNat meets (algK r) (tagAlg (mhTag m)) = (tid, s1) →
        exec (.ald new g a mr t) s = .next ((((s1.wroteTile k v tid fun t =>
          { t with pending := t.pending + 1, tag := (Tile.fresh 0 0 (tagAlg (mhTag m))).tag }).recordAll v p stashRec (stashOffs bs)
            .read).issueOp v k [n] (.ald a.toNat tid m (algK r)) 1 true).done h [] [(k.lane, { frees := [t] })])) ∧
      (∀ (rnd : Rnd) (prev : Bool) (a : Src) (x : Tile) (r : BitVec 512) (bs : List Nat), readTile k a prev = .ok x →
        s.tileCheck k m n 0 (.m mr) = .ok (r, bs) → algK r = x.k → x.clash (v.after x.front) (tileKind a) = none →
        s.racesAt (v.after x.front) p stashRec (stashOffs bs) .write = none →
        exec (.ast rnd prev g mr a t) s = .next ((((((s.tookTile k v x).recordAll v p stashRec (stashOffs bs) .write).modWarp v.wk
          (·.putHandle (16 + mr.toNat) (mhSetAlg m (tagAlg x.tag)))).issueOp v k [n] (.ast m rnd x.k x.cells) 1 false).usedLast h g
            (accName a) prev a.last).done h [] [(k.lane, { frees := [a, t] })])))) ∧
  (∀ (s : State) (o : EngOp) (p : Position), s.opOf o.id = some o → s.posOf o.pos = some p → s.opWaits o = false →
    (∀ (l first k : Nat) (hs : BitVec 128) (d : BitVec 64), o.kind = .lload l hs first d k →
      let n := columnBytes (ldRows d) k (elemBits (tagFmt (ldTtag d)))
      let cols := (List.range (ldCols d)).map fun c => loadColumn hs first (ldOff d) n c
      s.engMeets p hs cols.flatten false = .ok → ∃ t, exec (.lloadComplete o.id) s = .next t ∧ t.opOf o.id = none) ∧
    (∀ a tid m k, o.kind = .ald a tid m k → s.tileTurn o = true →
      s.stashMeets p (tileBytes m k 0 (mhSpan m).1 0 (mhSpan m).2) false = .ok →
      ∃ t, exec (.aldComplete o.id) s = .next t ∧ t.opOf o.id = none) ∧
    (∀ m r k cells, o.kind = .ast m r k cells →
      s.stashMeets p ((astElems m r k cells).flatMap fun e => elemBytes (elemBits (tagFmt (mhTag m))) e.1 e.2.1).eraseDups true = .ok →
      ∃ t, exec (.astComplete o.id) s = .next t ∧ t.opOf o.id = none))

/-- R187, R188, R199: `mma` reads its parameter block from the stash and, its checks passed, starts a chain: the tile is
bound and one more write of it pends, and one operation is in flight on the block's tag. A void slot ends the chain at
once, its tag failed with LOFT_VOID. -/
def Obligations.MatrixMultiply : Prop :=
  ∀ (s : State) (h : Here) (g : Guard) (a : Src) (off : RCtx → Nat), s.here h → h.epochs →
    (∀ k ∈ h.lanes g, rdNat k 1 a = .ok (off k)) →
    s.Turns h g [] [a.spec] (.mma g a) fun s k out u =>
      ∃ v p s0 bs s1 r s2, s.viewer k.wk k.arm = some v ∧ s.posOf k.pos.id = some p ∧ off k % 64 = 0 ∧
        off k + 64 ≤ s.stashLimit k ∧ (∃ x, s.checkLine p (off k) 64 = .ok x) ∧ s.detFence v k.lane = some s0 ∧
        s0.peekStash v k.lane p.id (off k) 64 = (bs, s1) ∧
        let b : BitVec 512 := BitVec.ofNat 512 (leNat bs)
        let mh (i : Nat) : BitVec 128 := (k.warp.m[i]?).getD 0
        let used : List Nat := pbAh b :: ((if pbSav b then [pbSah b] else []) ++ if pbSbv b then [pbSbh b] else [])
        (∀ i ∈ used, k.warp.busy.contains (16 + i) = false) ∧ s1.algUse v (pbAlg b) = (some r, s2) ∧
        s2.mmaCheck k p b (some r) (mh (pbAh b)) (mh (pbSah b)) (mh (pbSbh b)) = none ∧ p.tagsTake [pbCtag b] = true ∧
        out = { frees := [a] } ∧
        let slot := p.loftAt (pbSlot b)
        if slot.st = .void then u = s2.voidChain k v (pbCtag b)
        else
          let m := s2.meetAcc p (pbAcc b) (pbNew b) (algK r)
          let reads := chainBytes b (mh (pbAh b)) (mh (pbSah b)) (mh (pbSbh b)) slot (algK r) 0 (pbKe b)
          m ≠ .wait ∧ (s2.chainsOf k.pos.core).length < 16 ∧ m.clash v = none ∧ slot.clash v .read = none ∧
            s2.racesAt v p stashRec (stashOffs reads) .read = none ∧
            ∃ tid s3, s2.bindAcc p.id (pbAcc b) m (algK r) (pbAlg b) = (tid, s3) ∧
              u = ((((s3.wroteTile k v tid fun t => { t with pending := t.pending + 1 }).modPos p.id
                (·.modLoft (pbSlot b) (·.note v .read))).recordAll v p stashRec (stashOffs reads) .read)).issueOp v k [pbCtag b]
                  (.chain ⟨b, tid, r, mh (pbAh b), mh (pbSah b), mh (pbSbh b), (reads.map (· / 64)).eraseDups⟩) 1 true

/-- R189 to R192: a chain that may run completes all its chunks: every cell of its M by N corner has gone through them,
the other cells of its tile are as they were, MSTAT takes the flags, and its tag counts one less. R189: a chunk adds
to a cell the rounded sum of its products, each in its own rounding: a chain of two chunks is the chain of the first,
then that of the second. -/
def Obligations.ChainsComplete : Prop :=
  (∀ (s : State) (o : EngOp) (c : ChainOp) (p : Position) (n : Nat), s.opOf o.id = some o → o.kind = .chain c →
     s.posOf o.pos = some p → s.opWaits o = false → s.chainReady o = true →
     (∀ q ∈ s.chainsOf o.core, q.seq < o.seq → s.chainReady q = false) →
     let slot := p.loftAt (pbSlot c.block)
     let k := algK c.algRec
     let e := chunkElems (tagFmt (mhTag c.hA)) k
     slot.st ≠ .void → slotCheck c.block c.hA c.hSB slot k = none →
     s.chunksDone p c slot e (pbKe c.block / e) 0 = (n, .ok) →
     exec (.chainComplete o.id) s = .next (s.endChain o c n none) ∧
     (∀ (pn : Panels) (cells : List Word) (i : Nat) (w : Word), cells[i]? = some w →
       (chainCells c.block c.algRec pn e n cells)[i]? = some
         (if i % 1024 / 32 < pbM c.block ∧ i % 32 < pbN c.block then
           chainCell c.block c.algRec pn e (i % 1024 / 32) (i % 32) (i / 1024) n 0 w {} else (w, {})))) ∧
  (∀ (b rec' : BitVec 512) (pn : Panels) (e r n c q m1 m2 : Nat) (w : Word) (fl : Flags),
     let first := chainCell b rec' pn e r n c m1 q w fl
     chainCell b rec' pn e r n c (m1 + m2) q w fl = chainCell b rec' pn e r n c m2 (q + m1) first.1 first.2)

/-- R203, R115, R116: the group instructions on the K lane registers of an algebra element: `conj` flips the signs the record
names, `norm` writes component 0 of x ⊗ x*, `amul` the product in the order the instruction gives. -/
def Obligations.GroupInstructions : Prop :=
  ∀ (s : State) (h : Here) (g : Guard) (n : BitVec 4) (d : Dst) (a : Src) (v : Viewer) (k0 : RCtx) (rest : List RCtx)
    (r : BitVec 512) (s1 : State) (x : RCtx → List Word), s.here h → h.lanes g = k0 :: rest →
    s.viewer k0.wk k0.arm = some v → s.algUse v n.toNat = (some r, s1) → (¬ ∃ z, d.spec = .z z) →
    let kk := algK r
    (∀ k ∈ h.lanes g, rdGroup k 1 a kk = .ok (x k)) →
    let left (dk : Nat) (dsts : List Spec) (srcs : List Src) (out : RCtx → List (Nat × Flags)) : State :=
      s1.done h dsts ((h.lanes g).map fun k => (k.lane,
        { writes := (groupDsts d dk).zip ((out k).map fun x => ⟨BitVec.ofNat 32 x.1, F.f32⟩), frees := srcs
          flags := joinAll ((out k).map (·.2)) }))
    ((∀ k ∈ h.lanes g, wrGroup k d kk = .ok () ∧ checkGroups n kk [(1, a.spec), (0, d.spec)] = .ok ()) →
      exec (.conj n g d a) s = .next (left kk (s.slotDsts n d) (srcRun a kk) fun k =>
        (x k).zipIdx.map fun w => ((if algConj r w.2 then w.1 ^^^ 0x80000000 else w.1).toNat, {})) ∧
      (∀ (rev : Bool) (b : Src) (y : RCtx → List Word),
        (∀ k ∈ h.lanes g, rdGroup k 2 b kk = .ok (y k) ∧ checkGroups n kk [(1, a.spec), (2, b.spec), (0, d.spec)] = .ok ()) →
        exec (.amul n rev g d a b) s = .next (left kk (s.slotDsts n d) (srcRun a kk ++ srcRun b kk) fun k =>
          (List.range kk).map fun c => algProduct r rev (f32Vals (x k)) (f32Vals (y k)) c))) ∧
    ((∀ k ∈ h.lanes g, wrGroup k d 1 = .ok () ∧
        checkGroups n kk ((1, a.spec) :: if kk = 1 then [(0, d.spec)] else []) = .ok ()) →
      exec (.norm n g d a) s = .next (left 1 [d.spec] (srcRun a kk) fun k =>
        [algProduct r false (f32Vals (x k)) (algConjugate r (f32Vals (x k))) 0]))

/-! ## Barriers, counters, rings and the register pool (R138 to R142, R312 to R320) -/

/-- R313, R315, R316: a warp without an open record arrives at a barrier: what its party must make visible is performed
for the threads it meets, its live threads wait there, and the last arrival completes it. The count of `bar.b`, absent
or not, is agreed with the earlier arrivals. R318: `carrive` adds its increment, 1 where it gives none, to the counter
modulo 2^32; `cwait` goes on once (COUNT − target) mod 2^32 is below 2^31, and acquires what the arrivals released. The level at
which an arrival performs what it carries (1 for `bar.b` and `carrive`, 2 for `bar.c`, 4 for `bar.g`) is the model's reading (log
entry 65). -/
def Obligations.BarriersAndCounters : Prop :=
  (∀ (s : State) (h : Here) (g : Guard) (k : RCtx) (rest : List RCtx), s.here h → h.whole → h.epochs → h.lanes g = k :: rest →
     k.warp.recs = [] →
     (∀ (idem : Bool) (b n : Src) (i : Nat) (count : Option Nat) (r : BarRes),
       (∀ l ∈ h.lanes g, rdNat l 1 b = .ok i ∧ rdOpt l 2 n = .ok count) → k.block.bars[i]? = some r →
       let need : Nat := count.getD k.block.liveWarps.length
       0 < need → need ≤ k.block.liveWarps.length → (r.fill = true → need = r.exp ∧ count.isNone = r.dfl ∧ idem = r.idm) →
       ∀ f s1, (s.acquires h g [b.spec, n.spec]).releaseTo k 1 = (f, s1) →
       let s2 := (s1.modBlock k.pos.id k.block.stage (·.modBar i (·.arrive k.warp.idx need count.isNone idem f))).parkLanes
         k.pos.core k.wk k.armLive (.barB i)
       exec (.barB idem g b n) s = .next
         ((if (if r.fill then r.arrived.length else 0) + 1 = need then s2.completeB k.pos.id k.block.stage i else s2).done h []
           (h.each g { frees := [b, n] }) [b.spec, n.spec])) ∧
     (∀ f s1, s.releaseTo k 2 = (f, s1) →
       exec (.barC g) s = .next (((((s1.modBlock k.pos.id k.block.stage fun b => { b with atC := b.atC ++ [k.warp.idx] }).modInst
         k.pos.ctx k.pos.grid k.pos.inst fun i =>
         { i with fronts := i.fronts ++ [((k.pos.loc, k.block.stage, k.warp.idx), f)] }).parkLanes k.pos.core k.wk k.armLive
           .barC).arriveC k.pos k.block.stage).done h [] (h.each g {}))) ∧
     (∀ f s1, s.releaseTo k 4 = (f, s1) →
       exec (.barG g) s = .next (((((s1.modBlock k.pos.id k.block.stage fun b => { b with atG := b.atG ++ [k.warp.idx] }).modGrid
         k.pos.ctx k.pos.grid fun i =>
         { i with fronts := i.fronts ++ [((k.pos.inst, k.pos.loc, k.block.stage, k.warp.idx), f)] }).parkLanes k.pos.core k.wk
           k.armLive .barG).arriveG k.pos k.block.stage).done h [] (h.each g {})))) ∧
  (∀ (s : State) (h : Here) (g : Guard) (b n : Src) (k : RCtx) (rest : List RCtx) (i : Nat) (r : BarRes), s.here h → h.whole →
     h.epochs → h.lanes g = k :: rest → (∀ l ∈ h.lanes g, rdNat l 1 b = .ok i) → k.block.bars[i]? = some r →
     (∀ (inc : Option Nat) (f : Frontier) (s1 : State), (∀ l ∈ h.lanes g, rdOpt l 2 n = .ok inc) →
       (s.acquires h g [b.spec, n.spec]).releaseTo k 1 = (f, s1) →
       exec (.carrive g b n) s = .next ((s1.modBlock k.pos.id k.block.stage (·.modBar i fun r =>
         { r with count := r.count + BitVec.ofNat 32 (inc.getD 1), cfront := frontJoin r.cfront f })).done h []
           (h.each g { frees := [b, n] }) [b.spec, n.spec])) ∧
     (∀ target : Nat, (∀ l ∈ h.lanes g, rdNat l 2 n = .ok target) →
       ((r.count.toNat + 2 ^ 32 - target % 2 ^ 32) % 2 ^ 32 < 2 ^ 31) →
       exec (.cwait g b n) s = .next ((s.modWarp k.wk (·.acquire k.arm r.cfront)).done h [] (h.each g { frees := [b, n] }))))

/-- R319, R320: `rpush` fills an empty ring with the one value of its lanes and flips its phase; `rpop` takes the entry of
a full ring whose phase is the wanted one, and acquires what the push released. In deterministic mode a ring belongs
to its first producer and its first consumer. R138, R139: `rgive` moves the warp's top n granules to the lent pool;
`rclaim` gains n granules that read 0, from the lent pool first, where the claim can be met and none waits; `.try`
writes 1, or 0 where it cannot be met. A claim that waits is served once it can be met. That `rclaim.try` of 0 granules writes 1
(log entry 28), and that `rpush` performs at the cluster's level (log entry 65), is the model's reading. -/
def Obligations.RingsAndRegisterPool : Prop :=
  (∀ (s : State) (h : Here) (g : Guard) (r : BitVec 7) (k : RCtx) (rest : List RCtx), s.here h → h.whole →
     h.epochs → h.lanes g = k :: rest →
     let ring : Ring := (k.pos.rings[r.toNat]?).getD Ring.init
     let mine : Nat × Nat := (k.block.stage, k.warp.slot)
     let det : Bool := s.det? k.pos
     (∀ (l t : Bool) (v : Src) (x : TV), (det = true → ∀ w, ring.prod = some w → w = mine) →
       (∀ c ∈ h.lanes g, ∃ y, rd c 2 v = .ok y ∧ y.tv = x) → ring.entry = none →
       ∀ f s1, (s.acquires h g [v.spec]).releaseTo k 2 = (f, s1) →
       exec (.rpush g ⟨.imm r, l, t⟩ v) s = .next ((s1.modPos k.pos.id (·.modRing r.toNat fun y =>
         { y with val := x, full := true, ph := !y.ph, prod := if det then some (ring.prod.getD mine) else ring.prod
                  front := f })).done h [] (h.each g { frees := [v] }) [v.spec])) ∧
     (∀ (l t : Bool) (want : RingWant) (d : Dst) (x : TV), (det = true → ∀ w, ring.cons = some w → w = mine) →
       h.Writable g d [] → ring.entry = some x → (want = .ph0 → ring.ph = true) → (want = .ph1 → ring.ph = false) →
       exec (.rpop want g d ⟨.imm r, l, t⟩) s = .next
         (((s.modPos k.pos.id (·.modRing r.toNat fun y =>
           { y with full := false, cons := if det then some (ring.cons.getD mine) else ring.cons })).modWarp k.wk
             (·.acquire k.arm ring.front)).done h [d.spec] (h.each g { writes := [(d, x)] })))) ∧
  ((∀ (s : State) (h : Here) (g : Guard) (n : Src) (k : RCtx) (rest : List RCtx) (c : Nat), s.here h → h.whole →
     h.lanes g = k :: rest → k.warp.recs = [] → rdCount k n = .ok c →
     let units : Nat := c * k.warp.threads.length
     (c ≤ k.warp.gran → (∀ t ∈ k.warp.threads, ∀ x ∈ t.regs.drop (8 * (k.warp.gran - c)), x.st ≠ .empty) →
       exec (.rgive g n) s = .next ((if c = 0 then s else
         (s.modPos k.pos.id fun p => { p with lent := p.lent + units }).modWarp k.wk fun w =>
           { w with gran := w.gran - c, threads := w.threads.map fun t =>
             { t.dropByp (fun i => decide (8 * (w.gran - c) ≤ i)) with regs := t.regs.take (8 * (w.gran - c)) } }).done
             h [] (h.each g { frees := [n] }))) ∧
     (∀ pd : Option (BitVec 3), (pd.isSome = true → s.det? h.c.pos = false) → k.warp.gran + c ≤ 16 →
       let wrote (b : Bool) : List (Nat × LaneOut) :=
         h.each g { writes := pd.toList.map fun i => (⟨.p i, false⟩, ⟨if b then 1 else 0, F.n32⟩), frees := [n] }
       (c = 0 → exec (.rclaim g pd n) s = .next (s.done h (pd.toList.map .p) (wrote true))) ∧
       (c ≠ 0 → k.pos.claims = [] → units ≤ k.pos.lent + min (k.pos.limit - k.pos.drawn) (s.coreFree k.pos.core) →
         exec (.rclaim g pd n) s = .next ((s.grant k.wk c).done h (pd.toList.map .p) (wrote true))) ∧
       (c ≠ 0 → pd.isSome = true →
         k.pos.claims ≠ [] ∨ k.pos.lent + min (k.pos.limit - k.pos.drawn) (s.coreFree k.pos.core) < units →
         exec (.rclaim g pd n) s = .next (s.done h (pd.toList.map .p) (wrote false))))) ∧
   (∀ (s : State) (p : Position) (c : Claim) (rest : List Claim) (sc : StageCode) (w : Warp), s.posOf p.id = some p →
     p.claims = c :: rest → s.claimFits p (s.claimUnits p c) = true → s.stage? p c.stage = some sc →
     s.warpOf ⟨p.id, c.stage, c.warp⟩ = some w →
     ∃ t q u, exec (.claimServed p.id) s = .next t ∧ t.posOf p.id = some q ∧ q.claims = rest ∧ q.stash = p.stash ∧
       t.warpOf ⟨p.id, c.stage, c.warp⟩ = some u ∧ u.gran = w.gran + c.n ∧ u.threads.length = w.threads.length) ∧
   (∀ (s : State) (p : Position), s.posOf p.id = some p → s.claimDeadlock p = true →
     exec (.regDeadlock p.id) s = .next (p.claims.foldl (fun s k =>
       s.trapLanes ⟨p.id, k.stage, k.warp⟩ .regDeadlock fun _ t => t.waits .claim) (s.modPos p.id fun p => { p with claims := [] }))))

/-! ## Queues, tasks and launches (R261 to R292) -/

/-- R277: `enq` and `enq.at` read a 64-byte record, set its TIMED bit and enter it in its queue as a release; `enq.retry` makes
a Faulted task of the context Ready again and `enq.cancel` cancels it; `tdone` notifies the task's successors once; `qstat`
writes a count. The last four, but `tdone`, are not for deterministic mode (R250). -/
def Obligations.QueueInstructions : Prop :=
  ∀ (s : State) (h : Here) (g : Guard), s.here h →
    (h.epochs → ∀ (timed : Bool) (hs : BitVec 4) (i : Src) (r : RCtx → BitVec 128) (n : RCtx → Nat),
      (∀ k ∈ h.lanes g, handleOf k hs = .ok (r k) ∧ rdNat k 2 i = .ok (n k)) →
      ∀ os t, State.InTurn (fun s k out u => ∃ v l bs s1 s2, s.viewer k.wk k.arm = some v ∧
          s.reach v k.pos k.block (s.stashLimit k)
            { handle := r k, i := n k, o := 0, n := 64, align := 64, wr := false } .read = .ok l ∧
          s.loadAt v k.pos (r k) l 64 = (bs, s1) ∧
          let s0 := s1.fenceBy v 3
          s0.enqueue v.ctx (putTimed (BitVec.ofNat 512 (leNat bs)) timed) (s0.releaseOf v.wk k.arm v) = .ok s2 ∧
            out = { frees := [i] } ∧ u = s2.modWarp v.wk (·.tick k.arm)) (s.acquires h g [i.spec]) (h.lanes g) os t →
        exec (if timed then .enqAt g hs i else .enq g hs i) s = .next ((t.done h [] os [i.spec]).tickReady)) ∧
    (s.det? h.c.pos = false → ∀ (q t : Src) (n : RCtx → Nat) (tid : RCtx → Nat),
      (∀ k ∈ h.lanes g, rdNat k 1 q = .ok (n k) ∧ rdNat k 2 t = .ok (tid k)) →
      let faulted (s : State) (k : RCtx) (x : QSlot) : Prop := ∃ y, s.liveQueue (n k) = some y ∧ y.ctx = k.pos.ctx ∧
        y.held (BitVec.ofNat 32 (tid k)) = some x ∧ x.state = tsFaulted
      (s.Turns h g [] [] (.enqRetry g q t) fun s k out u => ∃ x, faulted s k x ∧ out = { frees := [q, t] } ∧
        u = (s.putSlot (n k) { x with state := tsReady, readyAt := s.t.moment }).tickReady) ∧
      (s.Turns h g [] [] (.enqCancel g q t) fun s k out u => ∃ x, faulted s k x ∧ out = { frees := [q, t] } ∧
        u = (s.putSlot (n k) { x with state := tsCancelled }).cancelList k.pos.ctx (s.cancelFuel k.pos.ctx)
          (s.succOf k.pos.ctx x.word)) ∧
      (∀ (what : QSel) (d : Dst), (what = .task ∨ what = .armed) → ∀ x : RCtx → Queue,
        (∀ k ∈ h.lanes g, s.liveQueue (n k) = some (x k) ∧ (x k).ctx = k.pos.ctx) →
        s.Delivers h g d [q, t] (.qstat what g d q t)
          (noFlags fun k => ⟨s.queueStat (x k) what (BitVec.ofNat 32 (tid k)), F.n32⟩)) ∧
      (∀ (what : QSel) (d : Dst), what ≠ .task → what ≠ .armed → ∀ x : RCtx → Queue,
        (∀ k ∈ h.lanes g, s.liveQueue (n k) = some (x k) ∧ (x k).ctx = k.pos.ctx) →
        s.Delivers h g d [q] (.qstat what g d q t) (noFlags fun k => ⟨s.queueStat (x k) what 0, F.n32⟩))) ∧
    (h.epochs → ∀ (k : RCtx) (v : Viewer) (q i : Nat) (x : QSlot), h.lanes g = [k] → s.viewer k.wk k.arm = some v →
      s.ownTask k = some (q, i, x) →
      (x.tdn = true → exec (.tdone g) s = .next (s.done h [] (h.each g {}))) ∧
      (∀ s1, x.tdn = false → s.succFault v.ctx x.word = none →
        (s.fenceBy v 3).notify q i (s.releaseOf v.wk k.arm v)
          (fun obj off => (s.fenceBy v 3).checkRace v k.pos 0 (.glob obj off) 8 .read) = (s1, none) →
        let s2 := (List.range (taskNsucc x.word)).foldl (fun s j => s.recordRace v k.pos 0
          (.glob (taskSucc x.word / 2 ^ 40) (taskSucc x.word % 2 ^ 40 + 8 * j)) 8 .read false) s1
        exec (.tdone g) s = .next ((s2.modWarp v.wk (·.tick k.arm)).done h [] (h.each g {}))))

/-- R262, R272, R273, R275: the host's push windows, for a write that does not yield to link 0's of its cycle (R422; one that
does takes its place after it). A whole record that its queue accepts enters it; any other push is
dropped and counted, up to 2^32 − 1. A retry or a cancel answers 0 where the task was Faulted, 1 where it was not, 2
where the queue does not know it; a queue stops and starts; a push in Ending is dropped with reply 3 (R256). The window reads
the counts, the dropped pushes and the reply. Nothing of it happens before the package has booted, when the window reads zero. An
entry of RATE 0 allows no enqueue (R274). R266 to R268, R271, R275: a record that enters a queue without credits stands in its slot: Armed while its ARMED count is
not 0; else Timed while its release time is ahead, and Ready otherwise. A bucket refills by RATE up to BURST; the
Starter goes to the first tick of its 16 ns wheel at or after a release time, or after a step of the clock that passed it (R432),
and makes the records whose tick has come Ready. -/
def Obligations.PushWindowsAndQueues : Prop :=
  (∀ (s : State) (link : Bool) (q : Nat), s.linkYields link (.push q) = false → s.m.boot = .running →
     (∀ (r : BitVec 512) (x : Queue), s.liveQueue q = some x → x.dying = false → taskQueue r = q →
       (∀ c, s.ctxOf x.ctx = some c → c.st ≠ .ending) →
       (∀ slot, s.accept x r = .ok slot → exec (.push ⟨link, q⟩ true r) s = .next ((s.enter x r slot []).tickReady)) ∧
       (∀ e, s.accept x r = .error e → exec (.push ⟨link, q⟩ true r) s =
         .next (s.modPush q fun w => { w with dropped := min (w.dropped + 1) (2 ^ 32 - 1) })) ∧
       exec (.push ⟨link, q⟩ false r) s = .next (s.modPush q fun w => { w with dropped := min (w.dropped + 1) (2 ^ 32 - 1) })) ∧
     (∀ (r : BitVec 512) (x : Queue) (c : Ctx) (whole : Bool), s.liveQueue q = some x → s.ctxOf x.ctx = some c → c.st = .ending →
       exec (.push ⟨link, q⟩ whole r) s = .next ((s.modPush q fun w => { w with dropped := min (w.dropped + 1) (2 ^ 32 - 1) }).modPush q
         fun w => { w with reply := 3 })) ∧
     (∀ x, s.liveQueue q = some x →
       let word (at' : Nat) : Nat := leNat ((List.range 8).map fun i => s.pushByte q (at' + i))
       (x.freeCount < 2 ^ 17 → x.readyCount < 2 ^ 17 → word 0x080 = x.freeCount + x.readyCount * 2 ^ 17) ∧
       ((s.pushWin q).dropped < 2 ^ 32 → word 0x088 = (s.pushWin q).dropped) ∧
       ((s.pushWin q).reply < 2 ^ 32 → word 0x090 = (s.pushWin q).reply) ∧
       ∀ off, off < 0x080 ∨ 0x098 ≤ off → s.pushByte q off = 0) ∧
     (∀ (x : Queue) (tid : Word) (y : QSlot), s.liveQueue q = some x → x.held tid = some y →
       (y.state = tsFaulted →
         exec (.taskRetry ⟨link, q⟩ tid) s = .next (((s.putSlot q { y with state := tsReady, readyAt := s.t.moment }).tickReady).modPush q
           fun w => { w with reply := 0 }) ∧
         exec (.taskCancel ⟨link, q⟩ tid) s = .next (((s.putSlot q { y with state := tsCancelled }).cancelList x.ctx (s.cancelFuel x.ctx)
           (s.succOf x.ctx y.word)).modPush q fun w => { w with reply := 0 }))) ∧
     (∀ (tid : Word) (n : Nat), (match (s.liveQueue q).bind (·.known tid) with
         | none => n = 2
         | some y => n = 1 ∧ y.state ≠ tsFaulted) →
       exec (.taskRetry ⟨link, q⟩ tid) s = .next (s.modPush q fun w => { w with reply := n }) ∧
       exec (.taskCancel ⟨link, q⟩ tid) s = .next (s.modPush q fun w => { w with reply := n })) ∧
     (∀ x, s.queueOf q = some x → x.dying = false →
       exec (.queueStop ⟨link, q⟩) s = .next ((s.modQueue q fun x => { x with stopped := true }).modPush q fun w => { w with reply := 0 }) ∧
       exec (.queueStart ⟨link, q⟩) s = .next ((s.modQueue q fun x => { x with stopped := false }).modPush q
         fun w => { w with reply := 0 })) ∧
     (s.queueOf q = none → exec (.queueStop ⟨link, q⟩) s = .next (s.modPush q fun w => { w with reply := 3 }) ∧
       exec (.queueStart ⟨link, q⟩) s = .next (s.modPush q fun w => { w with reply := 3 }))) ∧
  (∀ (s : State) (link : Bool) (q : Nat) (r : BitVec 512) (tid : Word) (whole : Bool) (i : Instr),
     i ∈ [.push ⟨link, q⟩ whole r, .taskRetry ⟨link, q⟩ tid, .taskCancel ⟨link, q⟩ tid, .queueStop ⟨link, q⟩, .queueStart ⟨link, q⟩] →
     (s.linkYields link (.push q) = true → exec i s = .next { s with agenda := s.agenda ++ [.event i] }) ∧
     (s.linkYields link (.push q) = false → s.m.boot ≠ .running → exec i s = .next s ∧ ∀ off, s.pushByte q off = 0)) ∧
  ((∀ (s : State) (q : Queue) (r : BitVec 512) (slot : Nat), s.queueOf q.id = some q →
     (∀ x ∈ q.slots, x.state ≠ tsCredit) →
     ∃ p x, (s.enter q r slot []).queueOf q.id = some p ∧ p.slotAt slot = some x ∧ x.word = r ∧ x.armed = taskArmed r ∧
       x.tdn = false ∧ x.ndone = 0 ∧
       x.state = (if taskArmed r ≠ 0 then tsArmed else if taskTimed r = true ∧ s.time < taskRtime r then tsTimed else tsReady)) ∧
   (∀ (s : State) (i : Nat), ∃ t, exec (.filterBucketRefill i) s = .next t ∧ t.c = s.c ∧ t.m = s.m ∧
     ∀ f, s.t.filter.find? (·.idx == i) = some f →
       let full : Nat := min (max 1 (f.ent.extractLsb' 46 8).toNat) (f.bucket + (f.ent.extractLsb' 30 16).toNat)
       t.t.filter.find? (·.idx == i) = some { f with bucket := full }) ∧
   (∀ (s : State) (pad : Nat) (r : BitVec 512) (f : FilterEnt), s.filterFor pad (taskQueue r) = some f →
     f.ent.extractLsb' 30 16 = 0 → s.filterAllows pad r = none) ∧
   (∀ (s : State) (t : Nat), (s.timedSlots.map fun x => (max (taskRtime x.2.word) s.m.stepTo + 15) / 16 * 16).min? = some t →
     exec .starterRelease s = .next ({ s with now := s.now + (t - s.time) } : State).releaseTimed))

/-- R270, R284, R286, R287: a launch that names no kernel or breaks a rule of the record answers 1; one whose argument block
cannot be read answers 2 with the cause; one of which no cluster could hold an instance answers 3. One held by a context or paddock
that is not Live waits with status 8 (for the paddock: R391; the status is the model's, log entry 88); an accepted one has a fresh
grid id and status 0, and its grid is Live. The sweep of a grid id frees it. The first task in R270's order starts while its context
and paddock are Live and no discarded block of the paddock waits (R309). The window reads the last launch and the live bitmap. -/
def Obligations.Launches : Prop :=
  ∀ (s : State) (ctx : Nat) (c : Ctx) (pd : Paddock), s.ctxOf ctx = some c → s.padOf (s.padOfCtx ctx) = some pd →
    (∀ (link : Bool) (r : BitVec 1024), s.linkYields link (.launch ctx) = false → s.m.boot = .running →
      (c.st = .live → pd.st = .live → ∀ k, s.kernelAt ctx (lrEobj r) (lrEoff r) = k →
        (launchBad k r = true → exec (.launch ⟨link, ctx⟩ r) s =
          .next (s.modCtx ctx fun c => { c with lstat := 1, lcause := 0, lgrid := 0 })) ∧
        ∀ j, k = some j → launchBad k r = false →
          (∀ e, s.readArgs ctx (lrArg r) (lrHmask r) j = .error (.cause e) → exec (.launch ⟨link, ctx⟩ r) s =
            .next (s.modCtx ctx fun c => { c with lstat := 2, lcause := e.code.toNat, lgrid := 0 })) ∧
          (∀ a, s.readArgs ctx (lrArg r) (lrHmask r) j = .ok a →
            s.holdsInstance pd (j.need ((List.range 8).map (lrNwarp r))) (lrCn r) = false → exec (.launch ⟨link, ctx⟩ r) s =
            .next (s.modCtx ctx fun c => { c with lstat := 3, lcause := 0, lgrid := 0 }))) ∧
      (c.st = .saving ∨ c.st = .saved ∨ c.st = .restoring ∨ (c.st = .live ∧ pd.st ≠ .live) →
        ∃ t d, exec (.launch ⟨link, ctx⟩ r) s = .next t ∧ t.ctxOf ctx = some d ∧ d.lstat = 8 ∧ d.heldL = c.heldL ++ [r] ∧ t.c = s.c) ∧
      (∀ k a ms s1 id, c.st = .live → pd.st = .live → s.kernelAt ctx (lrEobj r) (lrEoff r) = some k →
        launchBad (some k) r = false → s.readArgs ctx (lrArg r) (lrHmask r) k = .ok a →
        s.holdsInstance pd (k.need ((List.range 8).map (lrNwarp r))) (lrCn r) = true → k.cohab = false →
        k.badFix (lrInsts r * lrCn r) = none → s.droveMembers ctx r = (.ok (some ms), s1) → s1.freeGrid ctx = some id →
        ∃ t d x, exec (.launch ⟨link, ctx⟩ r) s = .next t ∧ t.ctxOf ctx = some d ∧ d.lstat = 0 ∧ d.lgrid = id ∧
          t.gridOf ctx id = some x ∧ x.live = true ∧ x.gx = lrGx r ∧ x.gy = lrGy r ∧ x.gz = lrGz r ∧ x.hinit = a.h ∧
          x.g = a.g ∧ x.next = 0)) ∧
    (∀ grid, s.m.boot = .running → c.swept.contains grid = true → c.waitL = [] →
      ∃ t d, exec (.gridIdSweepDone ctx grid) s = .next t ∧ t.ctxOf ctx = some d ∧ d.swept.contains grid = false ∧
        t.c.mem = s.c.mem ∧ ∀ x ∈ t.c.sectors, ¬ (x.ctx = ctx ∧ x.grid = grid)) ∧
    (s.m.boot = .running →
      (c.lstat < 16 → c.lcause < 256 → c.lgrid < 4096 →
        leNat ((List.range 8).map fun i => s.launchByte ctx (0x080 + i)) = c.lstat + c.lcause * 2 ^ 8 + c.lgrid * 2 ^ 16) ∧
      ∀ n, n < 4096 → (s.launchByte ctx (0x100 + n / 8)).getLsbD (n % 8) = (s.gridOf ctx n).any (·.live)) ∧
    (∀ q x rest, s.m.boot = .running → s.readySlots ctx = (q, x) :: rest → c.st = .live → pd.st = .live → s.someDiscarded pd.id = false →
      exec (.taskStart ctx) s = .next (s.startTask ctx c pd q x))

/-! ## Messages and relays (R338 to R354) -/

/-- R351, R352: a message that passes its checks issues on its tags and enters its stream; a send takes the stream's next
number and waits for its credit, a receive gives one. R348, R353, R354: a relay that passes its checks gets its
ticket, engine + 4·SEQ, at the engine with the fewest relays, and issues on its tag; `rlwait` goes on once the relay
of its ticket has ended, with 1 in Pd unless the relay failed. -/
def Obligations.MessagesAndRelaysIssue : Prop :=
  (∀ (s : State) (h : Here) (g : Guard) (hs : BitVec 4) (q : Src) (r x : RCtx → BitVec 128), s.here h → h.epochs →
     (∀ k ∈ h.lanes g, handleOf k hs = .ok (r k) ∧ rdQuad k 2 q = .ok (x k)) →
     let issues (recv : Bool) (s : State) (k : RCtx) (out : LaneOut) (u : State) : Prop :=
       ∃ v p, s.viewer k.wk k.arm = some v ∧ s.posOf k.pos.id = some p ∧ s.msgCheck k recv (r k) (x k) = none ∧
         (if recv then s.recvsFull (s.padOfCtx k.pos.ctx) else s.sendsFull (s.padOfCtx k.pos.ctx)) = false ∧
         p.tagsTake (msgTags recv (x k)) = true ∧
         let kind : AccKind := if recv then .write else .read
         s.racesAt v p (r k) (msgBytes (r k) (x k)) kind = none ∧ out = { frees := srcRun q 4 } ∧
         let s1 := (s.recordAll v p (r k) (msgBytes (r k) (x k)) kind).issueOp v k (msgTags recv (x k))
           (if recv then .recv (r k) (x k) else .send (r k) (x k)) 4 false
         u = if recv then s1.addRecv s.nextId 0 (s.msgKey k.pos.ctx true (x k)) (msgLen (x k))
           else (s1.addSend s.nextId 0 (s.msgKey k.pos.ctx false (x k)) (msgLen (x k))).2
     s.Turns h g [] [] (.send g hs q) (issues false) ∧ s.Turns h g [] [] (.recv g hs q) (issues true)) ∧
  (∀ (s : State) (h : Here) (g : Guard), s.here h → h.epochs →
     (∀ (d : Dst) (hp : BitVec 4) (x q : Src) (a : RCtx → RelayArgs),
       (∀ k ∈ h.lanes g, wrOk k d (x :: srcRun q 4) = .ok () ∧ rdRelay k hp x q = .ok (a k)) → (¬ ∃ z, d.spec = .z z) →
       s.Turns h g [d.spec] [x.spec] (.relay g d hp x q) fun s k out u =>
         ∃ v p eng, s.viewer k.wk k.arm = some v ∧ s.posOf k.pos.id = some p ∧ s.relayCheck k (a k) = none ∧
           s.floatBan k v (a k) = none ∧
           let bytes (h : BitVec 128) : List (Option Nat) := recBytes h 0 (rlSize (a k).q * rlCh (a k).q) (2 ^ recEs h)
           s.racesAt v p (a k).hin (bytes (a k).hin) .read = none ∧ s.racesAt v p (a k).hout (bytes (a k).hout) .write = none ∧
           p.tagsTake [rlTag (a k).q] = true ∧ s.joinable k (a k) = none ∧ s.pickEngine (s.padOfCtx k.pos.ctx) = some eng ∧
           let sq : Nat := (s.t.relaySeq[eng]?).getD 0
           let m : RelayMem :=
             { die := k.pos.core / 48, op := s.nextId, ctx := k.pos.ctx, pos := p.id, tag := rlTag (a k).q
               gen := ((p.tags[rlTag (a k).q]?).elim 0 (·.gen)) + 1, hin := (a k).hin, hout := (a k).hout, hgrp := (a k).hgrp }
           let r : Relay :=
             { eng := eng, seq := sq, pad := s.padOfCtx k.pos.ctx, rank := rlRank (a k).q, size := rlSize (a k).q
               ch := rlCh (a k).q, chan := rlChan (a k).q, dmask := rlDmask (a k).q, hp := (a k).hp, first := (a k).first
               mems := [m], prog := [], pc := 0, iter := 0, wait := .none, out := [], due := s.now + us (2 ^ 20) }
           out = { writes := [(d, ⟨BitVec.ofNat 32 (eng + 4 * sq), F.n32⟩)], frees := x :: srcRun q 4 } ∧
           u = (((s.recordAll v p (a k).hin (bytes (a k).hin) .read).recordAll v p (a k).hout (bytes (a k).hout) .write).issueOp v k
             [rlTag (a k).q] (.relay eng sq) 4 false).modT fun t =>
               { t with relaySeq := t.relaySeq.set eng ((sq + 1) % 2 ^ 30), relays := t.relays ++ [r] }) ∧
     (∀ (pd : Option (BitVec 3)) (t : Src) (n : RCtx → Nat), (∀ k ∈ h.lanes g, rdNat k 1 t = .ok (n k)) →
       s.Turns h g (pd.toList.map .p) [] (.rlwait g pd t) fun s k out u =>
         ∃ e, s.ticket k (n k) = .ended e ∧ (pd = none → e.cause = none) ∧
           out = { writes := pd.toList.map fun d => (⟨.p d, false⟩, ⟨if e.cause.isNone then 1 else 0, F.n32⟩), frees := [t] } ∧
           u = match (s.posOf e.pos).bind (·.tags[e.tag]?) with
             | some y => s.modWarp k.wk (·.acquire k.arm y.front)
             | none => s))

/-- R342, R343: the sends of a stream are numbered in order, modulo 2^16; a credit of the receive's length lets the send go, and
one of another length ends it with MSG_SIZE and comes back to the receiver with the send's. R341, R343: the flits of a message. A
flit of a group's next SEQ moves the SEQ on; a data flit is then written at its offset, and one for another node is sent on (R18).
Any other is discarded: one after a gap is asked for again, a copy is not, and one whose tag fails is told to the paddock with
SYND 5 (R398). A message with its credit is pumped into the
replay buffer and completes locally with its last flit; an acknowledgement frees the flits up to its SEQ, a request makes the
buffer's be transmitted again from its SEQ on, and the acknowledgement of a whole message completes it remotely. How a credit
carries a length is the model's choice (log entry 103). -/
def Obligations.MessageFlits : Prop :=
  (∀ (s : State) (k : MsgKey) (n : MsgKey) (t : State), s.takeNumber k false = (n, t) →
     n = { k with num := (s.streamOf k).sends } ∧ t.c = s.c ∧
       (t.streamOf k).sends = ((s.streamOf k).sends + 1) % 2 ^ 16 ∧ (t.streamOf k).recvs = (s.streamOf k).recvs) ∧
  (∀ (s : State) (port : Nat) (f : Flit),
     let took (s : State) : State := s.modPort port fun p =>
       { p with rxseq := p.rxseq.set f.group ((f.sq + 1) % 2 ^ 16), asked := p.asked.set f.group false }
     let arrives (i : Instr) : Prop := (f.kind = 0 ∧ i = .dataFlit port f) ∨ (f.kind = 1 ∧ i = .creditFlit port f) ∨
       (f.kind = 2 ∧ i = .acknowledgementFlit port f.group f.sq (.flit f)) ∨ (f.kind = 3 ∧ i = .relayDataFlit port f)
     (∀ i, arrives i → s.accepts port f = false →
       (f.ok = true → ∃ t, exec i s = .next t ∧ t.c = s.c ∧ t.t.recvs = s.t.recvs ∧ t.t.sends = s.t.sends ∧
         ∀ p next, s.portOf port = some p → (s.groupsOf f.pad p).contains f.group = true → p.rxseq[f.group]? = some next →
           t.portOf port = some (if (f.sq + 2 ^ 16 - next) % 2 ^ 16 < 2 ^ 15 then { p with asked := p.asked.set f.group true }
             else p)) ∧
       (f.ok = false → exec i s = .next ((s.tellPads ((s.padOf f.pad).map (·.id)).toList (15 + port) 5).modPort port fun p =>
         if (p.rxseq[f.group]?).isSome ∧ (s.groupsOf f.pad p).contains f.group = true then
           { p with asked := p.asked.set f.group true } else p))) ∧
     (∀ i s1, arrives i → s.accepts port f = true → f.dnode ≠ s.node → s.enterFlit f = some s1 → exec i s = .next (took s1)) ∧
     (s.accepts port f = true → f.dnode = s.node →
       (∀ (m : RecvMsg) (s1 : State) (relay : Bool), f.kind = (if relay then 3 else 0) → s.recvFor (flitKey f relay) = some m →
         s.takePart m f.moff (f.payload.take f.len) = (true, s1) →
         exec (if relay then .relayDataFlit port f else .dataFlit port f) s = .next (took s1)) ∧
       (f.kind = 1 → flitBack f = false →
         (∀ m, s.sendFor (ctlKey f) = some m →
           (m.len = ctlLen f → ∃ t, exec (.creditFlit port f) s = .next t ∧ t.c = s.c ∧
             t.sendFor (ctlKey f) = some { m with credit := true }) ∧
           (m.len ≠ ctlLen f → f.snode ≠ s.node → exec (.creditFlit port f) s =
             .next (((took s).failSend m .msgSize).sendCtl (ctlKey f) 1 m.len true))) ∧
         (s.sendFor (ctlKey f) = none → exec (.creditFlit port f) s =
           .next ((took s).modT fun t => { t with credits := t.credits ++ [(ctlKey f, ctlLen f)] }))) ∧
       (f.kind = 1 → flitBack f = true → ∀ m, s.recvFor (ctlKey f) = some m → exec (.creditFlit port f) s =
         .next (if m.len = ctlLen f then took s else (took s).failRecv m .msgSize)) ∧
       (f.kind = 2 → ∀ m, s.sendFor (ctlKey f) = some m → exec (.acknowledgementFlit port f.group f.sq (.flit f)) s =
         .next (if m.len ≤ m.sent then (took s).remoteDone (ctlKey f) else took s)))) ∧
  (∀ (s : State),
     (∀ m : SendMsg, s.t.sends.find? (·.id == m.id) = some m → m.credit = true → m.key.dst ≠ s.node → m.sent < m.len →
       ∀ s1, s.pumpSend m.key (m.len / 224 + 1) = s1 →
       (∀ x, s1.sendFor m.key = some x → x.len ≤ x.sent → exec (.messageLocalComplete m.id) s = .next (s1.localDone x)) ∧
       (∀ x, s1.sendFor m.key = some x → x.sent < x.len → exec (.messageLocalComplete m.id) s = .next s1)) ∧
     (∀ (port g sq : Nat),
       (s.t.recvs = [] → s.t.ctl = [] → exec (.acknowledgementFlit port g sq .upTo) s = .next
         (s.modPort port fun p =>
           { p with replay := p.replay.filter fun f => !(f.1 == g && decide ((sq + 2 ^ 16 - f.2.sq) % 2 ^ 16 < 2 ^ 15))
                    line := p.line.filter fun f => !(f.1 == g && decide ((sq + 2 ^ 16 - f.2.1) % 2 ^ 16 < 2 ^ 15)) }).reroute) ∧
       exec (.acknowledgementFlit port g sq .again) s = .next (s.modPort port fun p =>
         { p with line := p.line ++ (p.replay.filter fun f =>
             f.1 == g && decide ((f.2.sq + 2 ^ 16 - sq) % 2 ^ 16 < 2 ^ 15)).map fun f => s.lineOf f.2 })))

/-- R346 to R349: the steps of a relay's program, with peers (rank + a·iter + b) mod SIZE. `snd` and `rcv` with the
relay's own rank, and `rrs` with it, do nothing but go on; `loop` goes back or starts its counter over; `wat` and
`endr` wait for the earlier sends; a relay of one die ends with every participant's tag done. R349: a relay whose dies
have not all issued in time ends with RELAY_TIMEOUT in every participant's tag. -/
def Obligations.RelaySteps : Prop :=
  (∀ (s : State) (e : Nat) (r : Relay), s.cur = .engine e → s.relayHead e = some r → r.wait = .none → r.prog ≠ [] →
     let peer (a b : BitVec 16) : Nat := (((r.rank : Int) + a.toInt * r.iter + b.toInt) % (r.size : Int)).toNat
     let source (a b : BitVec 16) : Nat := (((r.rank : Int) - a.toInt * r.iter - b.toInt) % (r.size : Int)).toNat
     let next (s : State) : State := s.modRelay r fun r => { r with pc := r.pc + 1, wait := .none }
     (∀ pa pb ca cb : BitVec 16,
       (peer pa pb = r.rank → exec (.snd pa pb ca cb) s = .next (next s)) ∧
       (peer pa pb ≠ r.rank → exec (.snd pa pb ca cb) s = .next (s.relaySend r (peer pa pb) (peer ca cb))) ∧
       (source pa pb = r.rank → exec (.rcv pa pb ca cb) s = .next (next s) ∧
         ∀ op f ns, exec (.rrs op f ns pa pb ca cb) s = .next (next s)) ∧
       (source pa pb ≠ r.rank →
         exec (.rcv pa pb ca cb) s = .next (s.relayRecv r (source pa pb) (peer ca cb) none none) ∧
         (∀ op f, exec (.rrs op f true pa pb ca cb) s = .next (s.relayRecv r (source pa pb) (peer ca cb) (some (op, f)) none)) ∧
         (∀ op f, peer pa pb ≠ r.rank → exec (.rrs op f false pa pb ca cb) s =
           .next (s.relayRecv r (source pa pb) (peer ca cb) (some (op, f)) (some (peer pa pb)))) ∧
         (∀ op f, peer pa pb = r.rank → exec (.rrs op f false pa pb ca cb) s = .next (next s)))) ∧
     (∀ cnt tgt : BitVec 16,
       (r.iter + 1 < cnt.toNat →
         exec (.loop cnt tgt) s = .next (s.modRelay r fun r => { r with iter := r.iter + 1, pc := tgt.toNat })) ∧
       (cnt.toNat ≤ r.iter + 1 → exec (.loop cnt tgt) s = .next (next (s.modRelay r fun r => { r with iter := 0 })))) ∧
     (r.out = [] → exec .wat s = .next (next s)) ∧ (r.out ≠ [] → exec .wat s = .next s ∧ exec .endr s = .next s) ∧
     (∀ ca cb : BitVec 16, r.dmask ≠ 0 → exec (.cpys ca cb) s = .next (next s)) ∧
     (∀ (ca cb : BitVec 16) (m : RelayMem) (o : EngOp) (p : Position) (data : List Byte) (s3 : State), r.dmask = 0 →
       r.lead = some m → s.opOf m.op = some o → s.posOf m.pos = some p →
       let src := r.chunkBytes m.hin (recEs m.hout) (peer ca cb)
       let dst := r.chunkBytes m.hout (recEs m.hout) (peer ca cb)
       s.meets o p m.hin src false = .go s → s.meets o p m.hout dst true = .go s → s.engReads o p m.hin src = (data, s3) →
       exec (.cpys ca cb) s = .next (next (s3.engWrites o.ctx o.pos m.hout (dst.zip data)))) ∧
     (∀ (m : RelayMem) (o : EngOp) (p : Position), r.out = [] → r.mems = [m] → s.opOf m.op = some o → s.posOf m.pos = some p →
       exec .endr s = .next (s.endRelay r none))) ∧
  (∀ (s : State) (r : Relay), s.t.relays.find? (·.is r.eng r.seq) = some r → r.prog = [] → r.allJoined = false →
     exec (.relayIssueTimeout r.eng r.seq) s = .next (({ s with now := max s.now r.due } : State).endRelay r (some .relayTimeout)))

/-! ## Named tiles and pens (R356 to R386) -/

/-- R356, R359, R367 to R370: `ask` and `annc` issue on their tag under the name in the paddock's realm; `wdrw` withdraws the
position's waiting requester of a name and tag, if there is one and no tile of the name comes in this cycle (R364); `nmk` replaces one field of a name, or clears it. -/
def Obligations.NameInstructions : Prop :=
  ∀ (s : State) (h : Here) (g : Guard), s.here h →
    (h.epochs → ∀ (hs : BitVec 4) (q p : Src) (a : RCtx → NameArgs), (∀ k ∈ h.lanes g, rdName k hs q p = .ok (a k)) →
      let issues (ask : Bool) (s : State) (k : RCtx) (out : LaneOut) (u : State) : Prop :=
        let pad := s.padOfCtx k.pos.ctx
        let bs := nameBytes (a k).r (a k).first ((a k).size ask)
        let kind : AccKind := if ask then .write else .read
        ∃ v x n, s.viewer k.wk k.arm = some v ∧ s.posOf k.pos.id = some x ∧ s.nameCheck k ask (a k) = none ∧
          stampRealm (s.realmOf pad) (a k).name = some n ∧ s.unaccepted pad < 4096 ∧ x.tagsTake [(a k).tag] = true ∧
          s.racesAt v x (a k).r bs kind = none ∧ out = { frees := srcRun q 4 ++ srcRun p 2 } ∧
          let expiry := s.now + 1000 * 2 ^ (a k).life
          let s1 := (s.recordAll v x (a k).r bs kind).issueOp v k [(a k).tag]
            (if ask then .ask (a k).r n (a k).first ((a k).size true) expiry else .annc (a k).r n (a k).first ((a k).size false))
            4 false
          if ask then ∃ o, s1.opOf s.nextId = some o ∧ u = s1.acceptAsk o n expiry else u = s1
      s.Turns h g [] [] (.ask g hs q p) (issues true) ∧ s.Turns h g [] [] (.annc g hs q p) (issues false)) ∧
    (s.det? h.c.pos = false → ∀ (q t : Src) (n m : RCtx → BitVec 128) (tag : RCtx → Nat),
      (∀ k ∈ h.lanes g, rdQuad k 1 q = .ok (n k) ∧ rdNat k 2 t = .ok (tag k) ∧ tag k < s.stageTags k ∧
        stampRealm (s.realmOf (s.padOfCtx k.pos.ctx)) (n k) = some (m k)) →
      s.Turns h g [] [] (.wdrw g q t) fun s k out u => out = { frees := srcRun q 4 ++ [t] } ∧
        let mine (o : EngOp) : Prop := o ∈ s.c.ops ∧ o.pos = k.pos.id ∧ o.tags.contains (tag k) = true ∧ s.askWaits o = true ∧
          s.comes (s.padOfCtx o.ctx) (m k) = false ∧ ∃ r first cap e, o.kind = .ask r (m k) first cap e
        ((∀ o, ¬ mine o) ∧ u = s) ∨ ∃ o, mine o ∧ u = s.endAsk o .nameWithdrawn) ∧
    (∀ (d : Dst) (v : Src), (¬ ∃ z, d.spec = .z z) → (∀ k ∈ h.lanes g, quadOk k d = .ok ()) →
      let quad : List Spec := [d.spec, specSucc d.spec, specSucc (specSucc d.spec), specSucc (specSucc (specSucc d.spec))]
      let wrote (n : BitVec 128) : List (Dst × TV) :=
        [(d, ⟨n.extractLsb' 0 32, F.raw32⟩), (dstSucc d, ⟨n.extractLsb' 32 32, F.raw32⟩),
          (dstSucc (dstSucc d), ⟨n.extractLsb' 64 32, F.raw32⟩), (dstSucc (dstSucc (dstSucc d)), ⟨n.extractLsb' 96 32, F.raw32⟩)]
      exec (.nmk .clr g d v) s = .next (s.wrote h g quad fun _ => { writes := wrote 0 }) ∧
      (∀ (f : NmkField) (n : RCtx → BitVec 128) (x : RCtx → Nat) (lo w : Nat),
        (f, lo, w) ∈ [(NmkField.tensor, 88, 24), (.t0, 40, 16), (.t1, 56, 16), (.t2, 72, 16), (.iter, 16, 24), (.var, 0, 16)] →
        (∀ k ∈ h.lanes g, rdQuad k 0 ⟨d.spec, false, false⟩ = .ok (n k) ∧ rdNat k 1 v = .ok (x k) ∧ x k < 2 ^ w) →
        ∃ put : BitVec 128 → Nat → BitVec 128,
          (∀ m y i, y < 2 ^ w → i < 128 → (put m y).getLsbD i = if lo ≤ i ∧ i < lo + w then y.testBit (i - lo) else m.getLsbD i) ∧
          exec (.nmk f g d v) s = .next (s.wrote h g quad fun k => { writes := wrote (put (n k) (x k)), frees := [v] })))

/-- R359, R361, R363: an interest of the paddock's realm is resolved, or waits for a place while the share is full; a tile that
returns is announced there under an Active key, and waits while the fold has no room; on a conflict the event goes to the context
that announced it, or word of it back to where the tile came from. The digest
of an announced tile stores it, merges it or reports a conflict, and its tag is done; a delivery's bytes are written
and its tag is done; a requester whose lifetime ends has NAME_NEVER_PRODUCED in its tag. Of one cycle, an announcement goes
before an expiry of its name, and announcements of one name go by SRC and lane (R364). Names of other realms do
nothing. R361: a fold holds at most one tile of a name: an announcement of a name already there changes nothing, and
merges exactly when its digest is the stored one. That an interest waits in its order (log entry 107), and that the digest is
decided at one event and a conflict of a returned tile goes by its origin (log entry 109), are the model's choices. -/
def Obligations.NameEvents : Prop :=
  (∀ (s : State),
     (∀ (pad face : Nat) (n : BitVec 128) (expiry : Nat) (tile : List Byte) (origin : Option Nat), s.nameHere pad n = false →
       exec (.interestArrival pad face n expiry) s = .next s ∧ exec (.tileReturn pad face n ⟨tile, origin⟩) s = .next s) ∧
     (∀ (pad face : Nat) (n : BitVec 128) (expiry : Nat), s.nameHere pad n = true →
       (∀ u, s.dropFaces.request pad n ⟨none, face, expiry⟩ = some u → exec (.interestArrival pad face n expiry) s = .next u) ∧
       (s.dropFaces.request pad n ⟨none, face, expiry⟩ = none → ∃ t id, exec (.interestArrival pad face n expiry) s = .next t ∧
         t.t.heldFaces = s.dropFaces.t.heldFaces ++ [⟨id, pad, n, face, expiry⟩] ∧ t.t.interests = s.dropFaces.t.interests)) ∧
     (∀ (pad face : Nat) (n : BitVec 128) (tile : List Byte) (origin : Option Nat) (pd : Paddock) (key : Nat),
       s.nameHere pad n = true → face ≠ s.node → 0 < tile.length → tile.length ≤ 262144 → s.padOf pad = some pd →
       pd.activeKey 0 = some key →
       (∀ u, s.announce pad n tile = some (true, u) → exec (.tileReturn pad face n ⟨tile, origin⟩) s = .next u) ∧
       (∀ u, s.announce pad n tile = some (false, u) →
         (∀ ctx c, origin = some ctx → u.ctxOf ctx = some c → c.pad = pad → c.st ≠ .free →
           exec (.tileReturn pad face n ⟨tile, origin⟩) s =
             .next (u.post ctx { src := 6, kind := 4, cause := Cause.nameConflict.code.toNat })) ∧
         (∀ v, origin = none → u.sendName pad face n 0 none true = some v →
           exec (.tileReturn pad face n ⟨tile, origin⟩) s = .next v)) ∧
       (s.announce pad n tile = none → ∃ t, exec (.tileReturn pad face n ⟨tile, origin⟩) s = .next t ∧
         t.t.heldTiles = s.t.heldTiles ++ [⟨pad, face, n, tile, origin⟩] ∧ t.t.folds = s.t.folds ∧ t.c = s.c)) ∧
     (∀ (o : EngOp) (r n : BitVec 128) (first len : Nat) (p : Position), s.opOf o.id = some o → o.kind = .annc r n first len →
       s.posOf o.pos = some p → s.laterAnnc o n = true →
       exec (.announcementDecision o.id) s = .next { s with agenda := s.agenda ++ [.event (.announcementDecision o.id)] }) ∧
     (∀ (o : EngOp) (p : Position) (r n : BitVec 128) (first len : Nat) (data : List Byte) (pd : Paddock) (key : Nat) (s2 s3 : State),
       s.opOf o.id = some o → o.kind = .annc r n first len → s.posOf o.pos = some p → s.laterAnnc o n = false →
       s.padOf (s.padOfCtx o.ctx) = some pd → pd.activeKey 0 = some key →
       s.meets o p r (nameBytes r first len) false = .go s → s.engReads o p r (nameBytes r first len) = (data, s2) →
       (s2.announce (s.padOfCtx o.ctx) n data = some (true, s3) →
         exec (.announcementDecision o.id) s = .next (s3.finishOp o none)) ∧
       (s2.announce (s.padOfCtx o.ctx) n data = some (false, s3) → exec (.announcementDecision o.id) s = .next
         ((s3.post o.ctx { src := 6, kind := 4, cause := Cause.nameConflict.code.toNat, party := s3.partyBits o.party }).finishOp
           o none))) ∧
     (∀ (o : EngOp) (p : Position) (r n : BitVec 128) (first cap e : Nat) (d : Delivery), s.opOf o.id = some o →
       s.t.deliveries.find? (·.op == o.id) = some d → o.kind = .ask r n first cap e → s.posOf o.pos = some p →
       p.st ≠ .discarded → (∀ f, s.foldOf d.pad d.name = some f → s.tileSound f = d.data.length) →
       s.opWaits o = false → s.foldRevoked d.pad d.name = false → s.engMeets p r (nameBytes r first d.data.length) true = .ok →
       exec (.nameDeliveryComplete o.id) s = .next
         ((s.engWrites o.ctx o.pos r ((nameBytes r first d.data.length).zip d.data)).endDelivery o none)) ∧
     (∀ (o : EngOp) (r n : BitVec 128) (first cap e : Nat), s.opOf o.id = some o → o.kind = .ask r n first cap e →
       s.askWaits o = true →
       (s.comes (s.padOfCtx o.ctx) n = false →
         exec (.askLifetimeExpiry o.id) s = .next (({ s with now := max s.now e } : State).endAsk o .nameNeverProduced)) ∧
       (s.comes (s.padOfCtx o.ctx) n = true →
         exec (.askLifetimeExpiry o.id) s = .next { s with agenda := s.agenda ++ [.event (.askLifetimeExpiry o.id)] }))) ∧
  (∀ (s : State) (pad : Nat) (n : BitVec 128) (data : List Byte) (f : FoldTile), s.foldOf pad n = some f →
     s.announce pad n data = some (decide (f.digest = BitVec.ofNat 64 (leNat (shake256 data 8))), s))

/-- R372 to R374, R382, R384: `pslot` opens a Free slot for a newer SEQ; `.try` writes 0 while the slot is not Free, or its tag is full;
`pwait` frees a Released slot and writes its arrival bitmap; `prel` gives up an Open slot, once the lane's own
posts to it have arrived (R377), and its tag fails with PEN_ABANDONED; or it frees a Released one. R375, R383: `ppost` issues a post on its tag, of registers or of a record's
elements. -/
def Obligations.PenInstructions : Prop :=
  (∀ (s : State) (h : Here) (g : Guard), s.here h →
     (h.epochs → ∀ (pd : Option (BitVec 3)) (hs : BitVec 4) (t w : Src) (a : RCtx → SlotArgs),
       (pd.isSome = true → s.det? h.c.pos = false) →
       (∀ k ∈ h.lanes g, rdSlot (s.acquires h g [t.spec, w.spec]) k hs t w = .ok (a k)) →
       ∀ os u, State.InTurn (fun s k out u => ∃ v l s1 pen q, s.viewer k.wk k.arm = some v ∧
           let req : AccReq := { handle := (a k).r, i := 0, o := 0, n := 64, align := 64, wr := false }
           s.checkRec k.pos.ctx (a k).r (recAddr (a k).r 0 0) false = none ∧ s.slotPage k (a k).r v = .ok l ∧
           s.raceCheck v k.pos req .read (.ok l) = .ok l ∧ (s.loadAt v k.pos (a k).r l 64).2 = s1 ∧
           let raw := s.peekRecord k (a k).r v
           let r := pnTake raw (a k).tok (a k).ws
           s.slotCheck k (a k) raw r = none ∧ (s1.pensOf (s1.padOfCtx k.pos.ctx))[pnPen r]? = some pen ∧
           s1.posOf k.pos.id = some q ∧
           let x := s1.penSlot pen ((pnSeq r).toNat % 16384)
           let wrote (b : Bool) : LaneOut :=
             { writes := pd.toList.map fun d => (⟨.p d, false⟩, ⟨if b then 1 else 0, F.n32⟩), frees := slotSrcs t w (a k) }
           seqNewer (pnSeq r) x.seq = true ∧
           ((x.st = .free ∧ q.tagsTake [pnCtag r] = true ∧ s1.racesAt v k.pos (a k).hd (pnDest r (a k).hd) .write = none ∧
               out = wrote true ∧ u = s1.openSlot k v (a k) r x false) ∨
             (x.st = .free ∧ q.tagsTake [pnCtag r] = false ∧ pd.isSome = true ∧ out = wrote false ∧ u = s) ∨
             (x.st ≠ .free ∧ pd.isSome = true ∧ out = wrote false ∧ u = s1))) (s.acquires h g [t.spec, w.spec]) (h.lanes g) os u →
         exec (.pslot g pd hs t w) s = .next (u.done h (pd.toList.map .p) os [t.spec, w.spec])) ∧
     (h.epochs → ∀ (n : BitVec 2) (d : Dst) (q : Src) (sq : RCtx → Nat), (¬ ∃ z, d.spec = .z z) →
       (∀ k ∈ h.lanes g, wrOk k d [q] = .ok () ∧ rdNat k 1 q = .ok (sq k)) →
       s.Turns h g [d.spec] [] (.pwait n g d q) fun s k out u => ∃ x, s.heldSlot k.pos.ctx n.toNat (BitVec.ofNat 32 (sq k)) = .ok x ∧
         x.st = .released ∧ x.cause = none ∧
         out = { writes := [(d, ⟨BitVec.ofNat 32 ((x.staged.map fun c => 2 ^ c.1).sum), F.n32⟩)], frees := [q] } ∧
         u = (s.putPen { x with st := .free, staged := [], keys := [], pos := none, since := none }).modWarp k.wk (·.acquire k.arm x.front)) ∧
     (∀ (n : BitVec 2) (q : Src) (sq : RCtx → Nat), (∀ k ∈ h.lanes g, rdNat k 1 q = .ok (sq k)) →
       s.Turns h g [] [] (.prel n g q) fun s k out u => ∃ x, s.heldSlot k.pos.ctx n.toNat (BitVec.ofNat 32 (sq k)) = .ok x ∧
         out = { frees := [q] } ∧
         let freed := s.putPen { x with st := .free, staged := [], keys := [], pos := none, since := none }
         ((x.st = .opened ∧ s.postUnderway k n.toNat x.seq = false ∧ u = freed.slotTag { x with st := .opened } (some .penAbandoned)) ∨ (x.st = .released ∧ u = freed)))) ∧
  (∀ (s : State) (h : Here) (g : Guard) (x : PostSrc) (q p : Src) (a : RCtx → PostArgs), s.here h → h.epochs →
     (∀ k ∈ h.lanes g, rdPost k x q p = .ok (a k)) →
     let regs : List Spec := match x with
       | .mem _ => []
       | .reg b => [b.spec]
     s.Turns h g [] regs (.ppost g x q p) fun s k out u =>
       let r := (a k).r.getD 0
       let bs := if (a k).r.isSome then recBytes r (a k).first (a k).len 4 else []
       ∃ v y, s.viewer k.wk k.arm = some v ∧ s.posOf k.pos.id = some y ∧ s.postCheck k (a k) = none ∧
         y.tagsTake [(a k).tag] = true ∧ s.racesAt v y r bs .read = none ∧ out = { frees := postSrcs x q p (a k) } ∧
         u = (s.recordAll v y r bs .read).issueOp v k [(a k).tag]
           (.post (s.postNode (a k).q) (ptPen (a k).q) (ptSeq (a k).q) (ptExpert (a k).q) r (a k).first (a k).len (a k).regs) 4 false)

/-- R374 to R379: the life of a slot. A post of its SEQ is staged at its expert's position, and the last one makes the
slot releasing; a repeated one is dropped, a malformed one is PEN_POST_BAD in its poster's tag, one of an older SEQ, or to a slot that
is not Open, is late: it is counted in its poster's PENLATE with an event of KIND 5, and its tag is done; one of a newer SEQ is held
for the slot's opening, with its SRC and lane (R377). A slot whose time runs out is releasing; the weighted sum is written when its
turn has come, unless the slot is deterministic and timed out; then it is Released, and its tag is done. R378: an element of the sum
is the left fold, in ascending expert order and in f32, of each weight times its contribution, +0 where none has arrived; with REN
and a substitution the weights of those that arrived are divided by their sum, where that is finite and not zero. That what stands
under no readable key ends in KEY_REVOKED (R397) is the model's choice (log entry 110). -/
def Obligations.PenEvents : Prop :=
  (∀ (s : State) (pad no expert pen key : Nat) (sq : Word) (data : List Word), (s.pensOf pad)[no]? = some pen →
     (s.penPad pen).bind (·.activeKey 0) = some key →
     let x := s.penSlot pen (sq.toNat % 16384)
     let mine (k : Nat) : Prop := sq = x.seq ∧ x.st = .opened ∧ (pnExperts x.word).findIdx? (· == expert) = some k ∧
       data.length = pnLen x.word
     let arrived (k : Nat) : Bool := x.staged.any (·.1 == k)
     let staged (k : Nat) (f : Frontier) : State :=
       let y := { x with staged := x.staged ++ [(k, data)], keys := x.keys ++ [key], front := frontJoin x.front f }
       (s.repairSpan (s.penAt pen x.idx k) (4 * data.length)).putPen (if y.full then { y with st := .releasing } else y)
     let late : Prop := seqNewer sq x.seq = false ∧ (sq ≠ x.seq ∨ x.st ≠ .opened)
     (let i : Instr := .penPostArrival (.far pad no sq expert data)
      (late → exec i s = .next s) ∧
      (∀ k, mine k → exec i s = .next (if arrived k then s else staged k [])) ∧
      (seqNewer sq x.seq = true → (s.t.heldPosts.filter (·.pen == pen)).length < 4096 → exec i s = .next (s.modT fun t =>
        { t with heldPosts := t.heldPosts ++ [⟨pen, sq, expert, data, none, 0, [], 15, 0, 0⟩] }))) ∧
     (∀ (o : EngOp) (hs : BitVec 128) (first len : Nat), s.opOf o.id = some o → s.padOfCtx o.ctx = pad →
      o.kind = .post none no sq expert hs first len (some data) → s.t.heldPosts.any (·.op == some o.id) = false →
      let i : Instr := .penPostArrival (.op o.id)
      (late → exec i s = .next (((s.modCtx o.ctx fun c => { c with penlate := BitVec.ofNat 32 (min (c.penlate.toNat + 1) (2 ^ 32 - 1)) }).post
        o.ctx { src := 7 + pen, kind := 5, object := no, offset := sq.toNat }).postDone (some o.id) none)) ∧
      (∀ k, mine k → exec i s = .next (if arrived k then s.finishOp o none else (staged k o.front).postDone (some o.id) none)) ∧
      (sq = x.seq → x.st = .opened → (pnExperts x.word).findIdx? (· == expert) = none ∨ data.length ≠ pnLen x.word →
        exec i s = .next (s.finishOp o (some .penPostBad))) ∧
      (seqNewer sq x.seq = true → (s.t.heldPosts.filter (·.pen == pen)).length < 4096 → exec i s = .next (s.modT fun t =>
        { t with heldPosts := t.heldPosts ++
          [⟨pen, sq, expert, data, some o.id, o.ctx, o.front, clusterSrc o.core, o.core, o.lane⟩] })))) ∧
  (∀ (s : State) (pen i : Nat), let x := s.penSlot pen i
     (x.st = .opened → exec (.penSlotTimeout pen i) s =
       .next (({ s with now := max s.now x.due } : State).putPen { x with st := .releasing, timed := true })) ∧
     (x.st = .releasing → s.notNext x = true → exec (.penRelease pen i) s = .next s) ∧
     (x.st = .releasing → s.notNext x = false → x.det = true → x.timed = true →
       exec (.penRelease pen i) s = .next (s.putPen { x with st := .formed, cause := some .penTimeout })) ∧
     (x.st = .releasing → s.notNext x = false → (x.det = false ∨ x.timed = false) →
       (s.penRevoked x = true → exec (.penRelease pen i) s = .next (s.putPen { x with st := .formed, cause := some .keyRevoked })) ∧
       (s.penRevoked x = false → s.penSpoilt x = true →
         exec (.penRelease pen i) s = .next (s.putPen { x with st := .formed, cause := some .ueRead })) ∧
       (∀ bs, s.penRevoked x = false → s.penSpoilt x = false → s.releaseReach x (pnDest x.word x.hd) = (bs, .ok) →
         exec (.penRelease pen i) s = .next
           ((s.engWrites x.ctx (x.pos.getD 0) x.hd (bs.zip x.result)).putPen { x with st := .formed, cause := none }))) ∧
     (x.st = .formed → s.notNext x = false → exec (.penReleaseWritten pen i) s =
       .next ((s.putPen { x with st := .released }).slotTag x x.cause))) ∧
  (∀ (x : PenSlot) (e : Nat) (ks : List Nat), (∀ k, k ∈ ks ↔ k < pnNe x.word) →
     ks.Pairwise (fun a b => pnExpert x.word a < pnExpert x.word b) →
     let sum (l : List Word) : Word := l.tail.foldl f32Add (l.headD 0)
     let arrived (k : Nat) : Bool := x.staged.any (·.1 == k)
     let total := sum ((ks.filter arrived).map (pnWeight x.word))
     let weight (k : Nat) : Word :=
       if pnRen x.word = true ∧ x.full = false ∧ f32Counts total = true then
         (if arrived k then f32Div (pnWeight x.word k) total else 0)
       else pnWeight x.word k
     x.elem e = sum (ks.map fun k => f32Mul (weight k) ((((x.staged.lookup k).getD [])[e]?).getD 0)))

/-! ## Host commands (R255 to R262, R324 to R333, R360, R388 to R397, R423, R428 to R433, R454) -/

/-- R423, R428: a command that reaches a link of a booted package is served at once: its effect is made, and its reply
waits. While the link's own command is in progress the window shows BUSY; while the other link's is, the command waits its
turn. COMMAND_COMPLETE writes the reply, counts the command, and serves the next one. A command of link 1 goes after one that link 0 writes
in the same cycle (R422). Before the boot the window is not
answered; in recovery every command is denied but a load, and a reserved bit makes a command bad. That the effect is made as a command
is served and only the reply waits (log entry 70), and that nothing is answered while the package boots or is held (log entry 72), are
the model's choices. -/
def Obligations.HostCommandsServed : Prop :=
  (∀ (s : State) (i : Instr) (link : Bool), cmdLink i = some link →
    (∀ l bar off d, i = .windowWriteOther ⟨l, bar⟩ ⟨off, d⟩ → knownOp (d.extractLsb' 0 8).toNat = false) →
    (s.m.boot = .booting ∨ s.m.boot = .held → exec i s = .next s) ∧
    (s.m.boot = .running ∨ s.m.boot = .recovery →
      (s.linkYields link (.config link) = true → exec i s = .next { s with agenda := s.agenda ++ [.event i] }) ∧
      (s.linkYields link (.config link) = false →
        (s.linkBusy link = true →
          exec i s = .next (s.modLink link fun l => { l with status := 1, cause := 0, result := 0 })) ∧
        (s.linkBusy link = false → s.linkBusy (!link) = true →
          exec i s = .next (s.modM fun m => { m with cmdq := m.cmdq ++ [i] })) ∧
        (s.linkBusy link = false → s.linkBusy (!link) = false → exec i s = .next (s.serveOn link (serveCmd i)) ∧
          (s.m.boot = .recovery → (∀ h img, i ≠ .loadContainer h img) →
            exec i s = .next (s.modLink link fun l => { l with busy := some (7, 0, 0) })))))) ∧
  (∀ (s : State) (h : CmdHead) (serve : State → Served), s.m.boot = .running → h.rsv ≠ 0 → checked h serve s = (s, { status := 2 })) ∧
  (∀ (s : State) (link : Bool) (st c r : Nat), (s.linkAt link).busy = some (st, c, r) → st ≠ 1 →
    let t := s.modLink link fun l => { status := st, cause := c, result := r % 2 ^ 48, done := (l.done + 1) % 2 ^ 32, busy := none }
    (s.m.cmdq = [] → exec (.commandComplete link) s = .next t) ∧
    (∀ i rest l, s.m.cmdq = i :: rest → cmdLink i = some l →
      exec (.commandComplete link) s = .next ((t.modM fun m => { m with cmdq := rest }).serveOn l (serveCmd i))))

/-- R255 to R257, R282, R309, R332, R333: the commands on contexts. Create makes a Free context Live in its paddock, with the
registers of R7 at their reset values, but for a signal bit that the host has not read (R425); destroy ends a Live or Saved one; save begins the drain; restore begins placement. A
context register is written, a container is submitted for the finaliser, a code object is removed, a block's position is
discarded, a fault is resolved. -/
def Obligations.ContextCommands : Prop :=
  ∀ (s : State) (h : CmdHead), s.takes h.link → h.rsv = 0 →
    (∀ pd : Paddock, (∀ c, s.ctxOf h.ctx.toNat = some c → c.st = .free) → s.padOf h.pad.toNat = some pd → pd.st ≠ .ending →
      ∃ t, exec (.createContext h) s = .next t ∧ t.ctxOf h.ctx.toNat = some
          { Ctx.create h.ctx.toNat pd.id .live with
            swept := ((s.ctxOf h.ctx.toNat).map (·.swept)).getD [], signal := (s.ctxOf h.ctx.toNat).any (·.signal) } ∧
        (t.linkAt h.link).busy = some (0, 0, h.ctx.toNat) ∧ t.c = s.c) ∧
    (∀ c : Ctx, s.ctxOf h.ctx.toNat = some c →
      (c.st = .live ∨ c.st = .saved → s.Serves h.link (.destroyContext h) (s.endCtx c.id) .done) ∧
      (c.st = .saving ∨ c.st = .restoring →
        s.Serves h.link (.destroyContext h) (s.modCtx c.id fun c => { c with wantEnd := true }) .done) ∧
      (c.st = .live → ∃ t d, exec (.saveContext h) s = .next t ∧ t.ctxOf c.id = some d ∧ d.st = .saving ∧
        d.drain = some (s.now + 200000) ∧ t.c.mem = s.c.mem ∧
        ∀ p ∈ t.c.positions, p.ctx = c.id → p.st ≠ .resident) ∧
      (c.st = .saved → s.Serves h.link (.restoreContext h) (s.beginRestore c.id) .done) ∧
      (c.st ≠ .free →
        (∀ (n : BitVec 12) (v : Dword) (d : Ctx), c.hostReg n.toNat v = some d → c.faults = [] →
          s.Serves h.link (.writeContextRegister h n v) (s.modCtx c.id fun _ => d) .done) ∧
        (∀ (img : List Byte) (id : Nat), (s.t.codes.find? fun x => x.ctx == c.id && x.sameAs img (containerDigest img)) = none →
          s.freeObj c = some id → ∃ t x, exec (.loadContainer h img) s = .next t ∧ t.codeOf c.id id = some x ∧
            x.st = .checking ∧ x.image = img ∧ t.c = s.c) ∧
        (∀ (id : Nat) (x : Code), s.codeOf c.id id = some x → x.st = .installed →
          s.Serves h.link (.removeObject h id)
            (((s.modCode c.id id fun x => { x with st := .retiring }).retireCode c.id id).retireCtx c.id) .done) ∧
        (∀ (grid blk : Nat) (g : Grid) (p : Position), s.gridOf c.id grid = some g → g.live = true →
          let n := g.cx * g.cy * g.cz
          blk < g.gx * g.gy * g.gz * n →
          (s.c.positions.find? fun p => p.ctx == c.id && p.grid == grid && p.inst * n + p.loc == blk) = some p →
          s.Serves h.link (.preEmptPosition h grid blk) (s.discard p.id) .done) ∧
        (∀ (fid : Nat) (fatal : Bool) (f : FaultRec), c.faults.find? (·.fid == fid) = some f →
          s.Serves h.link (.resolveFault h fid fatal) (s.resolve c.id f fatal) .done)))

/-- R325 to R329, R454: the commands on objects. Create takes the lowest free id; an extent is added, a page split or merged,
P and W set, each in the next generation; what translated through the pages that a merge replaces is performed before the reply;
clearing P of a page takes away the translation of its bytes and of no others (that it is one page: log entry 94); a
removed object is no longer one of the context. The host's copies write and read an object's bytes and reply how many; one that stops
part-way is denied with its count (log entry 95, the model's choice). -/
def Obligations.ObjectCommands : Prop :=
  (∀ (s : State) (h : CmdHead) (c : Ctx), s.takes h.link → h.rsv = 0 → s.ctxOf h.ctx.toNat = some c → c.st ≠ .free →
    let changed (o : Obj) (l : List Extent) : State := ((s.modObj c.id o.id fun o =>
      { o with ext := sortBy (fun a b => decide (a.off ≤ b.off)) l, gen := (o.gen + 1) % 2 ^ 32 }).seatRaces c.id o.id).flushWaiting c.id
    (∀ (paged wr : Bool) (id : Nat), s.freeObj c = some id → ∃ t d o, exec (.objectCreate h paged wr) s = .next t ∧
      t.ctxOf c.id = some d ∧ d.objOf id = some o ∧ o.paged = paged ∧ o.wr = wr ∧ o.ext = [] ∧
      (t.linkAt h.link).busy = some (0, 0, id) ∧ t.c = s.c) ∧
    (∀ (obj : Nat) (o : Obj), c.objOf obj = some o → o.exo = false →
      (∀ (b : BitVec 128) (e : Extent), extentOf b = some e → extentsOk (o.ext ++ [e]) = true →
        s.Serves h.link (.addExtent h obj (.add b)) (changed o (o.ext ++ [e])) .done) ∧
      (∀ (u : Nat) (l : List Extent), o.rewrite u (fun e => some [{ e with p := true }]) = some l → extentsOk l = true →
        s.Serves h.link (.addExtent h obj (.setP u)) (changed o l) .done) ∧
      (∀ (u : Nat) (l : List Extent), o.rewrite u (fun e => some [{ e with w := true }]) = some l → extentsOk l = true →
        s.Serves h.link (.addExtent h obj (.setW u)) (changed o l) .done) ∧
      (∀ (u : Nat) (l : List Extent), extentsOk l = true →
        o.rewrite u (fun e => (e.sub (e.pageOf u) 1).halve.map fun p => e.around (e.pageOf u) 1 [p]) = some l →
        s.Serves h.link (.split h obj u) (changed o l) .done) ∧
      (∀ (u psz : Nat) (e : Extent), o.mergedPage u psz = some e →
        let n := pageUnits psz
        let l := (o.ext.flatMap (·.outside u n)) ++ [e]
        let held : List (Nat × Nat) := o.ext.filterMap fun x =>
          let a := max x.off u
          let b := min (x.off + x.units) (u + n)
          if a < b then some (x.pa + (a - x.off), b - a) else none
        extentsOk l = true → s.Serves h.link (.merge h obj u psz)
          ((held.foldl (fun s x => s.settle (x.1 * 2 ^ 16) (x.2 * 2 ^ 16)) (changed o l)).dropTlb fun x =>
            x.ctx == c.id && x.obj == o.id && decide (x.off < u + n) && decide (u < x.off + pageUnits x.psz)) .done) ∧
      (∀ (u : Nat) (e : Extent), extentsOk o.ext = true → o.ext.length ≤ 254 → o.ext.find? (·.holds u) = some e →
        let first : Nat := (e.off + e.pageOf u * pageUnits e.psz) * 2 ^ 16
        ∃ t d q, exec (.narrow h obj (.clearP u)) s = .next t ∧ t.ctxOf c.id = some d ∧ d.objOf obj = some q ∧
          (t.linkAt h.link).busy = some (0, 0, 0) ∧ ∀ x wr, q.translate x wr =
            if first ≤ x ∧ x < first + pageBytes e.psz then none else o.translate x wr) ∧
      (c.st = .live → ∃ t d, exec (.objectRemove h obj) s = .next t ∧ t.ctxOf c.id = some d ∧ d.objOf obj = none ∧
        (t.linkAt h.link).busy = some (0, 0, 0)))) ∧
  (∀ (s : State) (link : Bool) (cmd : BitVec 512) (c : Ctx) (o : Obj), s.takes link → hcBad cmd = false →
    s.hostRange cmd = some (c, o) →
    (∀ host : List Byte,
      let r := (s.snoop c.id o.id (hcOff cmd) (host.take (hcLen cmd)).length true).hostWrite c.pad o (hcOff cmd)
        (host.take (hcLen cmd))
      s.Serves link (.writeObject link cmd host) (r.1.repairRange o.place (hcOff cmd) r.2)
        (if r.2 = hcLen cmd then { result := r.2 } else { status := 7, result := r.2 })) ∧
    (∀ upto : Nat, hcLen cmd ≤ upto → (∀ i < hcLen cmd, ∀ pa, o.place (hcOff cmd + i) = some pa →
        s.keyRead pa = true ∧ s.sound pa 1 = true) → s.linesMet c.id o.id (hcOff cmd) (hcLen cmd) = [] →
      ∃ t, exec (.readObject link cmd upto) s = .next t ∧ (t.linkAt link).busy = some (0, 0, hcLen cmd) ∧ t.c.mem = s.c.mem ∧
        t.m.hostOut = some (link, (cmd.extractLsb' 192 64).toNat,
          (List.range (hcLen cmd)).map fun i => memGet s.c.mem ((o.place (hcOff cmd + i)).getD 0))))

/-- R261, R262, R274, R360, R431, R433: the commands on queues and tables, the report and the cap. A queue is made empty over
its store, whose records become Void, or destroyed; a filter entry, or a route to this package, is written; attest answers the report and its signature;
the power cap is 1,200 to 2,600 W, and a cap outside that is denied (a reading: log entry 31). -/
def Obligations.TableCommands : Prop :=
  ∀ (s : State) (h : CmdHead), s.takes h.link → h.rsv = 0 →
    (∀ (c : Ctx) (q : Nat), s.ctxOf h.ctx.toNat = some c → c.st ≠ .free →
      (∀ d : Dword, q < 1024 → d.extractLsb' 42 22 = 0 → s.queueOf q = none → s.queueRefused c q d = false →
        let x : Queue := { id := q, ctx := c.id, store := qdStore d, logn := qdLogn d, stopped := false, dying := false, slots := [] }
        s.Serves h.link (.createQueue h q d) ((s.voidStore x).modT fun t => { t with queues := t.queues ++ [x] }) { result := q }) ∧
      (∀ x : Queue, s.liveQueue q = some x → x.ctx = c.id → x.dying = false →
        s.Serves h.link (.destroyQueue h q) (s.killQueue x) .done)) ∧
    (∀ (i : Nat) (ent : Dword), i < 1024 → ent.extractLsb' 54 10 = 0 → ∃ t, exec (.writeFilterEntry h i ent) s = .next t ∧
      t.c = s.c ∧ t.t.filter.find? (·.idx == i) = (if feValid ent then some ⟨i, ent, feBurst ent⟩ else none) ∧
      ∀ j, j ≠ i → t.t.filter.find? (·.idx == j) = s.t.filter.find? (·.idx == j)) ∧
    (∀ (i : Nat) (ent : BitVec 128), i < 65536 → ent.extractLsb' 116 12 = 0 → routePlen ent ≤ 72 →
      let others := s.t.routes.filter (·.1 != i)
      (ent.getLsbD 79 = false → s.Serves h.link (.writeRouteEntry h i ent) (s.modT fun t => { t with routes := others }) .done) ∧
      (ent.getLsbD 79 = true → (ent.extractLsb' 96 20).toNat = s.node →
        s.m.paddocks.any (·.realm == (ent.extractLsb' 80 16).toNat) = true →
        (∀ r ∈ others, ¬ (r.2.extractLsb' 0 79 = ent.extractLsb' 0 79 ∧ r.2.extractLsb' 80 16 = ent.extractLsb' 80 16)) →
        s.Serves h.link (.writeRouteEntry h i ent) (s.modT fun t => { t with routes := others ++ [(i, ent)] }) .done)) ∧
    (∀ (addr : Nat) (nonce : BitVec 256), ∃ t bs, exec (.attest h addr nonce) s = .next t ∧ t.c = s.c ∧ t.t = s.t ∧
      t.m.hostOut = some (h.link, addr, bs) ∧ bs.length = 608 + 1536 ∧ bs.take 64 = leBytes 64 s.m.measure.toNat ∧
      (bs.drop 64).take 32 = leBytes 32 nonce.toNat) ∧
    (∀ watts : Nat, (1200 ≤ watts → watts ≤ 2600 →
        s.Serves h.link (.setPowerCap h watts) (s.modM fun m => { m with cap := watts }) .done) ∧
      (watts < 1200 ∨ 2600 < watts → s.Serves h.link (.setPowerCap h watts) s .denied))

/-- R388 to R397, R430: the commands on paddocks and keys. Create makes a paddock of a valid descriptor, Live and last in RANK;
resize, stop, start and destroy follow the life cycle; a resize is refused for a grid that could not stay whole, but what a drove's
other members hold is open (log entry 89). A removed core takes no position and drains for 200 µs. A key that the paddock's tenant
signed and the device's key opens is installed as the Active one of its domain, any other is denied; an Old key is rewrapped; a revoked one is Revoked at once. -/
def Obligations.PaddockCommands : Prop :=
  ∀ (s : State) (h : CmdHead), s.takes h.link → h.rsv = 0 →
    (∀ d : BitVec 512, s.padOf h.pad.toNat = none → descReserved d = false → s.padOk (padOfDesc h.pad.toNat d) = true →
      ∀ key : List Byte, ∃ t p, exec (.paddockCreate h ⟨d, key⟩) s = .next t ∧ t.padOf h.pad.toNat = some p ∧
        ({ p with gset := 0 } : Paddock) = { padOfDesc h.pad.toNat d with
          rank := s.m.paddocks.length, carve := s.freeUnits (padOfDesc h.pad.toNat d).carveUnits, tenant := key } ∧
        (t.linkAt h.link).busy = some (0, 0, 0) ∧ t.c = s.c) ∧
    (∀ p : Paddock, s.padOf h.pad.toNat = some p →
      (∀ (d : BitVec 512) (drop : BitVec 24), p.st = .live ∨ p.st = .stopped → descReserved d = false → s.padOk (p.resized d) = true →
        let s1 := ((((s.revokeAll p).modPad p.id fun _ => p.resized d).trimSet p.id drop).fillSet p.id).recarve p (p.resized d)
        ∀ bad s2, s1.unplaceable (s.misfits s1 p.id) = (bad, s2) →
          (bad = [] → s.Serves h.link (.paddockResize h ⟨d, drop⟩) s2 .done) ∧
          (bad ≠ [] → s.Serves h.link (.paddockResize h ⟨d, drop⟩) s .resizeCohabit)) ∧
      (p.st = .live → s.placedIn p.id = [] → s.Serves h.link (.paddockStop h)
        (s.modPad p.id fun p => { p with st := .stopping, drain := some (s.now + 200000), wantLive := false }) .done) ∧
      (p.st = .stopping → s.Serves h.link (.paddockStart h) (s.modPad p.id fun p => { p with wantLive := true }) .done) ∧
      (p.st = .stopped → s.Serves h.link (.paddockStart h) (s.startPad p.id) .done) ∧
      (p.st ≠ .ending → s.Serves h.link (.paddockDestroy h)
        (let s1 := (s.revokeAll p).modPad p.id fun p => { p with st := .ending, drain := none, wantLive := false }
         ((s1.ctxsOf p.id).foldl (fun s c => s.destroyCtx c) s1).sweepPads) .done) ∧
      (∀ core : Nat, p.st ≠ .ending → core < Config.cores → p.owns (clusterOf core) = true → s.m.coresOut.contains core = false →
        s.misfits (s.coreOut core) p.id = [] → ∃ t, exec (.removeCore h core) s = .next t ∧ core ∈ t.m.coresOut ∧
          (core, s.now + 200000) ∈ t.m.coreDrain ∧ (∀ c, t.coreOf core = some c → c.usable = false) ∧ t.c.mem = s.c.mem) ∧
      (∀ slot : Nat, slot ≤ 3 → p.keys.length = 4 →
        (∀ (dom : Nat) (wrapped sig : List Byte), dom ≤ 2 → ∃ t q, exec (.keyInstall h slot dom ⟨wrapped, sig⟩) s = .next t ∧
          t.padOf h.pad.toNat = some q ∧
          let good : Bool := Config.falcon p.tenant sig (installText p.id slot dom wrapped) && Config.kemOpens Config.kemKey wrapped
          (good = false → q = p ∧ (t.linkAt h.link).busy = some (7, 0, 0)) ∧
          (good = true → (∃ k, q.keys[slot]? = some k ∧ k.st = .active ∧ k.dom = dom) ∧
            ∀ (i : Nat) (x : KeySlot), i ≠ slot → q.keys[i]? = some x → ¬ (x.st = .active ∧ x.dom = dom))) ∧
        (∀ k : KeySlot, p.keys[slot]? = some k → k.st = .old → (p.activeKey k.dom).isSome = true →
          s.Serves h.link (.keyRewrap h slot) (s.modPad p.id fun p =>
            { p with rewrap := if p.rewrap.contains slot then p.rewrap else p.rewrap ++ [slot] }) .done) ∧
        (∀ k : KeySlot, p.keys[slot]? = some k → k.dom ≠ 2 → ∃ t q x, exec (.keyRevoke h slot) s = .next t ∧
          t.padOf h.pad.toNat = some q ∧ q.keys[slot]? = some x ∧ x.st = .revoked ∧ t.c = s.c)))

/-! ## The picker, drains, placement and services (R289 to R309, R333, R391 to R397) -/

/-- R296 to R301, R306: the picker fills the first free slot of a core with a packet of its first candidate's arms, at that
candidate's next instruction, or does nothing; a clause header in error is fatal to those that fetch it (R410); a failed tag met at a header traps first. A block whose counter runs out has
its blocked threads trapped, in every warp. A period of 1,024 cycles gives each resident warp a new score, from the misses
that met the victim tags (which lines the L1 evicts is a free value: log entry 36), and moves the throttle by one: down to MINW while the
scores exceed HI, up to the resident warps while they lie below LO. -/
def Obligations.CoreEvents : Prop :=
  ∀ (s : State) (core : Nat) (c : CoreSt), s.coreOf core = some c →
    (s.headerTrap core = none →
      (∀ (slot : Nat) (x : Cand) (l : List Cand) (sc : StageCode), c.slots.findIdx? (·.isNone) = some slot →
        s.packetArms (s.order c) = x :: l → s.stage? x.pos x.stage = some sc →
        ∃ t p, exec (.packetFormation core) s = .next (if t.wordSound p p.hdr = true then t else t.fetchFails core p) ∧
          t.packet? core slot = some p ∧
          (p.ctx, p.code, p.kern, p.stage, p.hdr, p.idx) = s.candKey x ∧ p.cnt = sc.count x.pc ∧
          p.arms = ((x :: l).map fun y => ⟨y.wk, y.arm, y.lanes⟩) ∧ t.c.mem = s.c.mem ∧
          ∀ i, i ≠ slot → t.packet? core i = s.packet? core i) ∧
      ((c.slots.all (·.isSome) = true ∨ s.packetArms (s.order c) = []) → exec (.packetFormation core) s = .next s)) ∧
    (∀ wk ts, s.headerTrap core = some (wk, ts) → exec (.packetFormation core) s = .next (s.takeTraps wk ts)) ∧
    (∀ (p : Position) (b : Block) (sc : StageCode), s.posOf p.id = some p → p.blockOf b.stage = some b →
      s.stage? p b.stage = some sc → p.st = .resident → s.blockBlocked p b = true →
      let s1 := (s.passCycles (2 ^ b.wd - b.dog)).modBlock p.id b.stage fun b => { b with dog := 0 }
      exec (.progressWatchdog p.id b.stage) s = .next (b.warps.foldl (fun s w =>
        let lanes := (List.range w.threads.length).filter fun l => (w.threads[l]?).any (·.blocked p sc)
        if lanes.isEmpty then s
        else (s.abandon p b w lanes).takeTraps ⟨p.id, b.stage, w.idx⟩ (lanes.map fun l => (l, { cause := .progressWatchdog }))) s1)) ∧
    (∀ (p : Position) (rest : List Position) (k : Ctx), s.posOn core = p :: rest → s.ctxOf p.ctx = some k →
      ∃ t d, exec (.localityPeriod core) s = .next t ∧ t.coreOf core = some d ∧ t.cyc = s.cyc + 1024 ∧
        d.scores.map (·.1) = (s.warpsOn core).map (·.slot) ∧
        (let sum := (d.scores.map (·.2)).sum
         let warps := (s.warpsOn core).length
         let n := min (c.limit.getD warps) warps
         d.limit = some (if locHi k ≤ locLo k then n
           else if locHi k < sum then max (n - 1) (min n (max 1 (k.loccfg.extractLsb' 1 7).toNat))
           else if sum < locLo k then min (n + 1) warps else n)) ∧ t.c.mem = s.c.mem)

/-- R256, R289, R309, R333, R391 to R393, R397: drains and placement. A save whose positions have stopped ends with none
of them on a core and the context Saved; a stop, a revocation and a core removal end once nothing is placed; a scrub
hands the cluster over; a rewrapped slot is Empty and its lines stand under the Active key. The Bellwether places the
next instance, or a discarded position first. A fault id that stays unresolved is resolved as fatal. R282, R283, R71:
the finaliser's answer to a container that waits. One that passes is installed with its kernels; one that fails is
gone, and its loads reply LOAD_ERROR with the low byte of the report. -/
def Obligations.DrainsAndPlacement : Prop :=
  (∀ s : State,
     (∀ (ctx : Nat) (c : Ctx) (due : Nat), s.ctxOf ctx = some c → c.drain = some due → c.wantEnd = false → c.wantRestore = false →
       (s.c.positions.map (·.id)).Nodup →
       ∃ t d, exec (.saveDrainExpiry ctx) s = .next t ∧ t.ctxOf ctx = some d ∧ d.st = .saved ∧ d.drain = none ∧
         ∀ p ∈ t.c.positions, p.ctx = ctx → p.st ≠ .resident ∧ p.st ≠ .stopping) ∧
     (∀ (pad : Nat) (p : Paddock), s.padOf pad = some p → p.st = .stopping → s.placedIn pad = [] → p.wantLive = false →
       exec (.stopDrainExpiry pad) s = .next (s.modPad pad fun p => { p with st := .stopped, drain := none })) ∧
     (∀ (k : Nat) (r : Revoke) (due : Nat), s.m.revokes.find? (·.cluster == k) = some r → r.drain = some due →
       (s.onCluster r.user k = [] → exec (.revocationDrainExpiry k) s = .next (s.modM fun m =>
         { m with revokes := upd (·.cluster == k) (fun r => { r with drain := none }) m.revokes })) ∧
       (s.onCluster r.user k ≠ [] → exec (.revocationDrainExpiry k) s = .next
         (((s.onCluster r.user k).foldl (fun s p => s.discard p.id) (s.at due)).modM fun m =>
           { m with revokes := upd (·.cluster == k) (fun r => { r with drain := none }) m.revokes }))) ∧
     (∀ (core : Nat) (d : Nat × Nat), s.m.coreDrain.find? (·.1 == core) = some d → s.posOn core = [] →
       exec (.coreRemovalDrainExpiry core) s = .next (s.modM fun m => { m with coreDrain := m.coreDrain.filter (·.1 != core) })) ∧
     (∀ (k : Nat) (r : Revoke), s.m.revokes.find? (·.cluster == k) = some r → r.drain = none →
       ∃ t, exec (.scrubComplete k) s = .next t ∧ (∀ x ∈ t.m.revokes, x.cluster ≠ k) ∧ (k, r.user) ∉ t.m.borrowed) ∧
     (∀ (pad slot a : Nat) (p : Paddock) (k : KeySlot), s.padOf pad = some p → p.keys[slot]? = some k → k.st = .old →
       p.activeKey k.dom = some a → p.rewrap.contains slot = true →
       ∃ t q x, exec (.rewrapDone pad slot) s = .next t ∧ t.padOf pad = some q ∧ q.keys[slot]? = some x ∧ x.st = .empty ∧
         t.c.mem = s.c.mem ∧ (∀ y ∈ t.c.lineKey, ¬ (y.2.1 = pad ∧ y.2.2 = slot)) ∧
         ∀ l, (l, pad, slot) ∈ s.c.lineKey → (l, pad, a) ∈ t.c.lineKey) ∧
     (∀ (ctx grid : Nat) (c : Ctx) (g : Grid) (pd : Paddock) (k : Kernel), s.ctxOf ctx = some c → s.gridOf ctx grid = some g →
       s.padOf (s.padOfCtx ctx) = some pd → g.live = true → pd.st = .live → s.kernel? g = some k → c.st = .live →
       let waiting := s.c.positions.filter fun p => p.ctx == ctx && p.grid == grid && p.waits
       (waiting = [] → s.someDiscarded pd.id = false →
         exec (.instancePlacement ctx grid) s = .next (s.placeNext k g c pd)) ∧
       (∀ p, waiting = [p] → p.st ≠ .held → exec (.instancePlacement ctx grid) s = .next (s.replace k g c pd p))) ∧
     (∀ (ctx fid : Nat) (f : FaultRec), s.faultOf ctx fid = some f →
       exec (.faultServiceTimeout ctx fid) s = .next (({ s with now := max s.now f.due } : State).resolve ctx f true))) ∧
  (∀ (s : State) (ctx obj : Nat) (x : Code) (c : Ctx), s.codeOf ctx obj = some x → x.st = .checking → s.ctxOf ctx = some c →
     c.st = .live →
     (∀ f : Finalised, finalise x.image = .ok f → x.removeReq = false → ∃ t y, exec (.finaliseComplete ctx obj) s = .next t ∧
       t.codeOf ctx obj = some y ∧ y.st = .installed ∧ y.kernels = f.kernels) ∧
     (∀ r : BitVec 128, finalise x.image = .error r → ∃ t, exec (.finaliseComplete ctx obj) s = .next t ∧
       t.codeOf ctx obj = none ∧ ∀ (i : Nat) (l : Link), s.m.links[i]? = some l → l.busy = some (1, ctx, obj) →
         t.m.links[i]? = some { l with busy := some (8, r.toNat % 256, 0) }))

/-! ## Ports and failures (R292, R339, R394, R410 to R412, R427) -/

/-- R339: the table of a port's states. R292, R394, R410, R427: a retired cluster, or the clusters of a failed die, are no
paddock's from then on; a retired channel leaves the healthy total, once; a CXL port that goes down loses the stores to it
that no one has completed (where its addresses lie is the model's choice: log entry 20); the scrubber's error marks its sector, and one
that no paddock holds is logged for the host (R398). -/
def Obligations.PortsAndFailedUnits : Prop :=
  (∀ (s : State) (n : Nat) (x : Port), s.portOf n = some x →
     let enters (i : Instr) (st : PortSt) (lanes : BitVec 8) : Prop :=
       ∃ t y, exec i s = .next t ∧ t.portOf n = some y ∧ y.st = st ∧ y.lanes = lanes
     (x.st = .down → enters (.portEnable n) .training 0 ∧ exec (.portDisable n) s = .next s ∧
       (x.since ≠ 0 → enters (.trainingRetry n) .training 0)) ∧
     (x.st ≠ .down → exec (.portEnable n) s = .next s ∧ enters (.portDisable n) .down 0) ∧
     (x.st = .training → enters (.trainingComplete n 0xFF) .up 0xFF ∧ enters (.trainingComplete n 0) .down 0 ∧
       enters (.trainingTimeout n) .down 0 ∧ ∀ good : BitVec 8, good ≠ 0xFF → good ≠ 0 →
         enters (.trainingComplete n good) .degraded good) ∧
     (x.st = .up ∨ x.st = .degraded → enters (.replayThreshold n) .quarantined x.lanes ∧
       enters (.quarantineRelease n) .training 0 ∧
       ∀ lane : Nat, x.lanes.getLsbD lane = true →
         let rest : BitVec 8 := x.lanes &&& ~~~(1#8 <<< lane)
         (rest = 0 → enters (.laneFailure n lane) .down 0) ∧ (rest ≠ 0 → enters (.laneFailure n lane) .degraded rest)) ∧
     (x.st = .quarantined → enters (.quarantineRelease n) .training 0)) ∧
  (∀ s : State,
     (∀ k, s.healthy k = true → k < Config.clusters → ∃ t, exec (.clusterRetire k) s = .next t ∧ k ∈ t.m.retired ∧
       ∀ p ∈ t.m.paddocks, p.owns k = false) ∧
     (∀ d, d < 4 → s.m.diesOut.contains d = false → ∃ t, exec (.dieFailure d) s = .next t ∧ d ∈ t.m.diesOut ∧
       ∀ p ∈ t.m.paddocks, ∀ k < Config.clusters, dieOf k = d → s.m.retired.contains k = false → p.owns k = false) ∧
     (∀ (die base len : Nat) (moves : List PageMove), ∃ t, exec (.channelRetire die base len moves) s = .next t ∧
       t.m.chansOut = if (die, base, len) ∈ s.m.chansOut then s.m.chansOut else s.m.chansOut ++ [(die, base, len)]) ∧
     (∀ p, p < 4 → s.m.cxlDown.contains p = false → ∃ t, exec (.cxlPortDown p) s = .next t ∧ t.m.cxlDown = s.m.cxlDown ++ [p] ∧
       ∀ e ∈ t.c.pend, e.pa < 2 ^ 43 + p * 2 ^ 41 ∨ 2 ^ 43 + (p + 1) * 2 ^ 41 ≤ e.pa) ∧
     (∀ pa, pa < 2 ^ 64 → s.padsAt pa = [] → s.c.bad.contains (pa / 32) = false →
       exec (.scrubberError pa) s = .next ((s.modC fun c => { c with bad := c.bad ++ [pa / 32] }).modM fun m =>
         { m with vectors := m.vectors ++ [0], hostLog := m.hostLog ++ [(57, 4)] })))

/-- R411: a corrected error posts a KIND 7 event, with SYND 1, 2 or 7, to each context of the owning paddock; one in a unit that no
paddock holds is logged for the host alone (R398). No thread, no tile, no instance and no grid changes. -/
def Obligations.CorrectedErrors : Prop :=
  ∀ (s : State) (pad src : Nat) (synd : Nat), synd = 1 ∨ synd = 2 ∨ synd = 7 →
    ∃ t, exec (.correctedError pad src synd) s = .next t ∧
      ((s.padOf pad).isSome = true → t = (((s.t.ctxs.filter fun c => c.pad == pad && c.st != .free).map (·.id)).foldl
        (fun s c => s.post c { src := src, kind := 7, synd := synd }) s)) ∧
      (s.padOf pad = none → t = s.modM fun m => { m with vectors := m.vectors ++ [0], hostLog := m.hostLog ++ [(src, synd)] }) ∧
      t.c.grids = s.c.grids ∧ t.c.insts = s.c.insts ∧ t.c.ops = s.c.ops ∧ (∀ wk l, t.threadOf wk l = s.threadOf wk l) ∧
      ∀ i p, s.posOf i = some p → ∃ q, t.posOf i = some q ∧ q.acc = p.acc ∧ q.loft = p.loft ∧ q.tags = p.tags

/-- R421, R424, R425, R428, R429, R432, R433: the package. A cold reset starts the machine afresh and extends the measurement with
each image of the three stages that the boot chain verifies, up to the first bad one, which leaves it in recovery. The first PTP
message sets the time at once; a later correction of at most 1 ms leaves the time as it stands, to be slewed. Heat slows the clocks, by
one step of at most 15 at a time (log entry 32, the model's choice), and a trip
holds the package in reset. The read-back window shows 64 bytes of its address, or none, and then zeros (log entry 84, the model's
choice); a read of the signal bitmap returns the bits of 64 contexts and clears them. Where the windows lie behind the links' BARs; a
write elsewhere does nothing, and one to a command's place under a reserved OP is a bad command (R423). -/
def Obligations.PackageEvents : Prop :=
  ∀ s : State,
    (∀ images : List BootImage, ∃ t, exec (.coldReset images) s = .next t ∧ t.c = State.reset.c ∧ t.t = State.reset.t ∧ t.now = 0 ∧
      t.m.cap = 2600 ∧ t.m.paddocks = [] ∧
      (∀ a b c rest, images = a :: b :: c :: rest →
        let m1 := extend 0 (imageDigest a)
        let m2 := extend m1 (imageDigest b)
        (t.m.boot, t.m.measure) = if goodImage a = false then (.recovery, 0) else if goodImage b = false then (.recovery, m1)
          else if goodImage c = false then (.recovery, m2) else (.running, extend m2 (imageDigest c)))) ∧
    (∀ time : Nat, ∃ t, exec (.ptpMessage time) s = .next t ∧ t.c = s.c ∧ t.t = s.t ∧
      (s.m.synced = false ∨ (s.time : Int) + 1000000 < time → t.m.synced = true ∧ t.time = time) ∧
      (s.m.synced = true → (time : Int) ≤ s.time + 1000000 → t.time = s.time ∧ t.m.slew = time - s.time)) ∧
    (∃ t, exec .thermalThrottle s = .next t ∧ t.c = s.c ∧ t.m.slow = min (s.m.slow + 1) 15) ∧
    (s.c.grids.filter (·.live) = [] → exec .thermalTrip s = .next (s.modM fun m => { m with boot := .held })) ∧
    (∀ g, s.c.grids.filter (·.live) = [g] → ∃ site, exec .thermalTrip s =
      .next ((s.endFatal g.ctx g.id .machineCheck site).modM fun m => { m with boot := .held })) ∧
    (∀ (link : Bool) (addr : Dword) (c : Ctx), s.linkYields link .readback = false → s.m.boot = .running → s.ctxOf (addr.extractLsb' 44 12).toNat = some c →
      let sp := (addr.extractLsb' 56 8).toNat
      let idx := (addr.extractLsb' 0 44).toNat
      ∃ t, exec (.readbackAddress ⟨link, addr⟩) s = .next t ∧ t.c = s.c ∧ t.t = s.t ∧ t.m.readback.addr = addr ∧
        (s.readStatus c.id sp = 0 → t.m.readback = ⟨addr, 0, (List.range 64).map (s.imageByte c sp idx)⟩) ∧
        (s.readStatus c.id sp ≠ 0 → t.m.readback = ⟨addr, s.readStatus c.id sp, List.replicate 64 0⟩)) ∧
    (∀ w : Nat, s.m.boot = .running → ∃ t, exec (.signalBitmapRead w) s = .next t ∧ t.c = s.c ∧
      (∀ j, j < 64 → t.m.bitmapRead.getLsbD j = (s.ctxOf (64 * w + j)).any (·.signal)) ∧
      ∀ i c, s.ctxOf i = some c → t.ctxOf i = some (if i / 64 = w then { c with signal := false } else c)) ∧
    (∀ o : Nat, (∀ link : Bool, o < 2 ^ 15 → hostWindowAt 0 ((if link then 2 ^ 15 else 0) + o) = some (.config link, o)) ∧
      (o < 4096 → (∀ ctx, ctx < 4096 → hostWindowAt 2 (4096 * ctx + o) = some (.launch ctx, o)) ∧
        (∀ q, q < 1024 → hostWindowAt 2 (2 ^ 24 + 4096 * q + o) = some (.push q, o)) ∧ hostWindowAt 4 o = some (.readback, o))) ∧
    (∀ (link : Bool) (bar off : Nat) (d : BitVec 512),
      let bad : Bool := hostWindowAt bar off == some (.config link, 0) && !knownOp (d.extractLsb' 0 8).toNat
      (bad = false → exec (.windowWriteOther ⟨link, bar⟩ ⟨off, d⟩) s = .next s) ∧
      (bad = true → s.takes link → s.Serves link (.windowWriteOther ⟨link, bar⟩ ⟨off, d⟩) s .badCommand))

/-! ## Encodings (R54 to R68, R346) -/

/-- R54 to R68, R346: words written out from the spec's encodings, field by field, decode to the instructions they stand for. -/
def Obligations.DecodesSpecWords : Prop :=
  let always : Guard := ⟨7, false⟩
  let v (i : BitVec 7) : Src := ⟨.v i, false, false⟩
  decodeIn false (0x00#8 ++ 0b00000#5 ++ 14#4 ++ (0b000#3 ++ 9#7 ++ 0#1) ++ (0b000#3 ++ 3#7 ++ 0#2) ++ (0b010#3 ++ 1#7 ++ 0#2) ++ 0xDFC#12)
    = .ok (.iadd .s32 false always ⟨.v 9, false⟩ (v 3) (.src ⟨.w 1, false, false⟩)) ∧
  decodeIn false (0x00#8 ++ 0b10000#5 ++ 14#4 ++ (0b000#3 ++ 5#7 ++ 0#1) ++ (0b000#3 ++ 5#7 ++ 0#2) ++ 1000#24)
    = .ok (.iadd .s32 false always ⟨.v 5, false⟩ (v 5) (.imm 1000)) ∧
  decodeIn false (0x4B#8 ++ 0b00000#5 ++ 14#4 ++ (0b000#3 ++ 4#7 ++ 0#1) ++ (0b000#3 ++ 3#7 ++ 0#2) ++ 0xDFC#12 ++ 0xDFC#12)
    = .ok (.fex2 false false .rne always ⟨.v 4, false⟩ (v 3)) ∧
  decodeIn false (0xE8#8 ++ 0#5 ++ 14#4 ++ 0x6FE#11 ++ 0xFFFFFFFF8#36) = .ok (.bra always 0xFFFFFFFF8) ∧
  decodeIn false (0xF2#8 ++ 0#5 ++ 14#4 ++ 0x6FE#11 ++ 7#36) = .ok (.trap always 7) ∧
  decodeIn false 0xEC076FEDFCDFCDFC#64 = .ok (.exit always) ∧
  decodeIn false 0xD0276FEE00DFCDFC#64 = .ok (.barB true always ⟨.imm 0, false, false⟩ ⟨.zero, false, false⟩) ∧
  decodeIn false 0xB8076FEC50020DFC#64 = .ok (.send always 4 (v 8)) ∧
  decodeIn false 0xF007002000000001#64 = .ok (.sysr always ⟨.v 1, false⟩ 1) ∧
  decodeStep (0#48 ++ 4#16 ++ 3#16 ++ 2#16 ++ 1#16 ++ 0#12 ++ 0#4) = some (.snd 1 2 3 4) ∧ decodeStep (1#16 ++ 0#112) = none ∧
  decodeStep (0#16 ++ 5#16 ++ 4#16 ++ 0#64 ++ 0#12 ++ 5#4) = some (.loop 4 5)

/-- R54 to R68: an instruction that is well formed in a scalar or vector clause decodes from its word, and a word that decodes
is the word of its instruction: no bit of an accepted word is without meaning. Events, commands and relay steps have no word:
they encode as 0, which is the word of no instruction. -/
def Obligations.WordRoundTrip : Prop :=
  (∀ (scl : Bool) (i : Instr), i.wf scl = true → encode i ≠ 0 → decodeIn scl (encode i) = .ok i) ∧
  (∀ (scl : Bool) (w : Dword) (i : Instr), decodeIn scl w = .ok i → encode i = w ∧ i.wf scl = true)

/-- R346, R348: every relay step decodes from its 16 bytes, with every field at every value; a `loop` of no turns and a pair of
ROP and RF that R226 refuses decode to nothing; and a step that decodes is the encoding of what it decodes to. -/
def Obligations.RelayStepRoundTrip : Prop :=
  (∀ pa pb ca cb : BitVec 16, decodeStep (encodeStep (.snd pa pb ca cb)) = some (.snd pa pb ca cb) ∧
    decodeStep (encodeStep (.rcv pa pb ca cb)) = some (.rcv pa pb ca cb) ∧
    decodeStep (encodeStep (.cpys ca cb)) = some (.cpys ca cb) ∧
    ∀ (op : CpyOp) (f : RelFmt) (ns : Bool), decodeStep (encodeStep (.rrs op f ns pa pb ca cb)) =
      if cpyrOk op f = true then some (.rrs op f ns pa pb ca cb) else none) ∧
  (∀ cnt tgt : BitVec 16, decodeStep (encodeStep (.loop cnt tgt)) = if cnt = 0 then none else some (.loop cnt tgt)) ∧
  decodeStep (encodeStep .wat) = some .wat ∧ decodeStep (encodeStep .endr) = some .endr ∧
  (∀ (b : BitVec 128) (i : Instr), decodeStep b = some i → encodeStep i = b)

/-- R68, R70: a word whose opcode is marked reserved draws OPC_RESERVED, whatever its other bits. -/
def Obligations.ReservedOpcodes : Prop :=
  ∀ (scl : Bool) (w : Dword), let row : Nat := (w.extractLsb' 60 4).toNat
    let col : Nat := (w.extractLsb' 56 4).toNat
    (row ∈ [2, 3, 6, 7, 9] ∨ (row = 1 ∧ col = 15) ∨ (row = 5 ∧ 8 ≤ col) ∨ (row = 8 ∧ 12 ≤ col) ∨ (row = 11 ∧ (col < 8 ∨ 12 ≤ col)) ∨
      (row = 12 ∧ 13 ≤ col) ∨ (row = 14 ∧ col = 15) ∨ (row = 15 ∧ 7 ≤ col ∧ col < 15)) → decodeIn scl w = .bad .opcReserved

/-! ## The machine -/

/-- R49, R296, R347: a step runs what the agenda names (log entry 2): an event; the decoded word of a packet, at its header
plus 8 bytes for each word before it; or the decoded step of a relay. With nothing on it a cycle passes, and no more. After
each, a step that would pass a warp's last epoch is undone and its grid ends (R240), and what follows it takes place: waits that are
met end, logged accesses that had to wait are tried again, what a save or a stop takes away goes (`State.after`: R294, R299, R336,
R256, R311). -/
def Obligations.StepRunsDecoded : Prop :=
  (∀ (s : State) (i : Instr) (rest : List Act), s.agenda = .event i :: rest →
    step s = stepEnd { s with agenda := rest, cur := .none } (exec i { s with agenda := rest, cur := .none })) ∧
  (∀ (s : State) (core slot : Nat) (rest : List Act) (p : Packet) (sc : StageCode) (w : Dword) (i : Instr),
    s.agenda = .issue core slot :: rest → s.packet? core slot = some p → s.packetStage p = some sc →
    sc.wordAt (p.hdr + 8 * (p.idx + 1)) = some w → s.codeSound p = true → (∀ a ∈ p.arms, s.sound (heldAt a.wk.pos) 1 = true) →
    decodeIn p.scl w = .ok i →
    step s = stepEnd { s with agenda := rest, cur := .none } (exec i { s with agenda := rest, cur := .packet core slot })) ∧
  (∀ (s : State) (eng : Nat) (rest : List Act) (r : Relay) (b : BitVec 128) (i : Instr),
    s.agenda = .relay eng :: rest → s.relayHead eng = some r → r.prog ≠ [] → r.wait = .none → r.prog[r.pc]? = some b →
    decodeStep b = some i →
    step s = stepEnd { s with agenda := rest, cur := .none } (exec i { s with agenda := rest, cur := .engine eng })) ∧
  (∀ s : State, s.agenda = [] → ∃ t : State, step s = stepEnd { s with cur := .none } (.next t) ∧ t.cyc = s.cyc + 1 ∧ s.now < t.now ∧ t.t = s.t ∧ t.m = s.m ∧
    t.agenda = [] ∧ t.c.cores = s.c.cores ∧ t.c.mem = s.c.mem ∧ t.c.ops = s.c.ops ∧
    ∀ k, t.warpOf k = s.warpOf k)

/-- Every step that an engine, a fill, a window or the passing of time makes keeps memory and every stash in canonical form:
addresses strictly rising, no entry at the value that an unlisted address reads as (log entry 3). -/
def Obligations.MemoryStaysCanonical : Prop :=
  ∀ s t : State, s.memoryOk = true → (∀ a ∈ s.agenda, ∃ i, a = .event i ∧ memoryEvent i = true) → step s = .next t →
    t.memoryOk = true ∧ ∀ a ∈ t.agenda, ∃ i, a = .event i ∧ memoryEvent i = true

/-- The invariant of `MemoryStaysCanonical` holds at reset. -/
def Obligations.ResetKeepsInvariant : Prop :=
  State.reset.memoryOk = true ∧ State.reset.agenda = [] ∧ ∀ a ∈ State.reset.agenda, ∃ i, a = .event i ∧ memoryEvent i = true

/-- R7, R428, R429, R432: what reset leaves: no context, no paddock, no queue, no code and no thread; every port Down, both
links idle with status 0 and no command counted (log entry 4, the model's choice); the boot under way (log entry 5, a reading); the
measurement and the time 0; the power cap 2,600 W (a reading: log entry 31). That
memory then reads 0 everywhere is the model's choice (log entry 3). -/
def Obligations.ResetState : Prop :=
  let r : State := State.reset
  r.t.ctxs = [] ∧ r.t.codes = [] ∧ r.t.queues = [] ∧ r.m.paddocks = [] ∧ r.c.positions = [] ∧ r.c.grids = [] ∧ r.c.ops = [] ∧
    r.c.cores.length = 192 ∧ (∀ c ∈ r.c.cores, c.slots.all (·.isNone) = true ∧ c.usable = true) ∧
    r.t.ports.length = 18 ∧ (∀ p ∈ r.t.ports, p.st = .down) ∧ r.m.links = [⟨0, 0, 0, 0, none⟩, ⟨0, 0, 0, 0, none⟩] ∧
    r.m.boot = .booting ∧ r.m.measure = 0 ∧ r.time = 0 ∧ r.m.cap = 2600 ∧ ∀ a, memGet r.c.mem a = 0

end Statements
end

