-- ==== Sys2Proof/Laws/State.lean ====
section
/-! SUPPORT. One lemma for each field and each named change of the state: what the change leaves alone. -/

namespace Sys2Proof.Machine

/-! ### modC -/

@[simp] theorem State.modC_now (s : State) (f : Compute → Compute) : (s.modC f).now = s.now := rfl
@[simp] theorem State.modC_cyc (s : State) (f : Compute → Compute) : (s.modC f).cyc = s.cyc := rfl
@[simp] theorem State.modC_agenda (s : State) (f : Compute → Compute) : (s.modC f).agenda = s.agenda := rfl
@[simp] theorem State.modC_cur (s : State) (f : Compute → Compute) : (s.modC f).cur = s.cur := rfl
@[simp] theorem State.modC_free (s : State) (f : Compute → Compute) : (s.modC f).free = s.free := rfl
@[simp] theorem State.modC_nextId (s : State) (f : Compute → Compute) : (s.modC f).nextId = s.nextId := rfl
@[simp] theorem State.modC_node (s : State) (f : Compute → Compute) : (s.modC f).node = s.node := rfl
@[simp] theorem State.modC_t (s : State) (f : Compute → Compute) : (s.modC f).t = s.t := rfl
@[simp] theorem State.modC_m (s : State) (f : Compute → Compute) : (s.modC f).m = s.m := rfl
@[simp] theorem State.modC_c (s : State) (f : Compute → Compute) : (s.modC f).c = f s.c := rfl

/-! ### modT -/

@[simp] theorem State.modT_now (s : State) (f : Stile → Stile) : (s.modT f).now = s.now := rfl
@[simp] theorem State.modT_cyc (s : State) (f : Stile → Stile) : (s.modT f).cyc = s.cyc := rfl
@[simp] theorem State.modT_agenda (s : State) (f : Stile → Stile) : (s.modT f).agenda = s.agenda := rfl
@[simp] theorem State.modT_cur (s : State) (f : Stile → Stile) : (s.modT f).cur = s.cur := rfl
@[simp] theorem State.modT_free (s : State) (f : Stile → Stile) : (s.modT f).free = s.free := rfl
@[simp] theorem State.modT_nextId (s : State) (f : Stile → Stile) : (s.modT f).nextId = s.nextId := rfl
@[simp] theorem State.modT_node (s : State) (f : Stile → Stile) : (s.modT f).node = s.node := rfl
@[simp] theorem State.modT_c (s : State) (f : Stile → Stile) : (s.modT f).c = s.c := rfl
@[simp] theorem State.modT_m (s : State) (f : Stile → Stile) : (s.modT f).m = s.m := rfl
@[simp] theorem State.modT_t (s : State) (f : Stile → Stile) : (s.modT f).t = f s.t := rfl

/-! ### modM -/

@[simp] theorem State.modM_now (s : State) (f : Mgmt → Mgmt) : (s.modM f).now = s.now := rfl
@[simp] theorem State.modM_cyc (s : State) (f : Mgmt → Mgmt) : (s.modM f).cyc = s.cyc := rfl
@[simp] theorem State.modM_agenda (s : State) (f : Mgmt → Mgmt) : (s.modM f).agenda = s.agenda := rfl
@[simp] theorem State.modM_cur (s : State) (f : Mgmt → Mgmt) : (s.modM f).cur = s.cur := rfl
@[simp] theorem State.modM_free (s : State) (f : Mgmt → Mgmt) : (s.modM f).free = s.free := rfl
@[simp] theorem State.modM_nextId (s : State) (f : Mgmt → Mgmt) : (s.modM f).nextId = s.nextId := rfl
@[simp] theorem State.modM_node (s : State) (f : Mgmt → Mgmt) : (s.modM f).node = s.node := rfl
@[simp] theorem State.modM_c (s : State) (f : Mgmt → Mgmt) : (s.modM f).c = s.c := rfl
@[simp] theorem State.modM_t (s : State) (f : Mgmt → Mgmt) : (s.modM f).t = s.t := rfl
@[simp] theorem State.modM_m (s : State) (f : Mgmt → Mgmt) : (s.modM f).m = f s.m := rfl

/-! ### modPos -/

@[simp] theorem State.modPos_now (s : State) (i : Nat) (f : Position → Position) : (s.modPos i f).now = s.now := rfl
@[simp] theorem State.modPos_cyc (s : State) (i : Nat) (f : Position → Position) : (s.modPos i f).cyc = s.cyc := rfl
@[simp] theorem State.modPos_agenda (s : State) (i : Nat) (f : Position → Position) : (s.modPos i f).agenda = s.agenda := rfl
@[simp] theorem State.modPos_cur (s : State) (i : Nat) (f : Position → Position) : (s.modPos i f).cur = s.cur := rfl
@[simp] theorem State.modPos_free (s : State) (i : Nat) (f : Position → Position) : (s.modPos i f).free = s.free := rfl
@[simp] theorem State.modPos_nextId (s : State) (i : Nat) (f : Position → Position) : (s.modPos i f).nextId = s.nextId := rfl
@[simp] theorem State.modPos_node (s : State) (i : Nat) (f : Position → Position) : (s.modPos i f).node = s.node := rfl
@[simp] theorem State.modPos_t (s : State) (i : Nat) (f : Position → Position) : (s.modPos i f).t = s.t := rfl
@[simp] theorem State.modPos_m (s : State) (i : Nat) (f : Position → Position) : (s.modPos i f).m = s.m := rfl
@[simp] theorem State.modPos_c_cores (s : State) (i : Nat) (f : Position → Position) : (s.modPos i f).c.cores = s.c.cores := rfl
@[simp] theorem State.modPos_c_insts (s : State) (i : Nat) (f : Position → Position) : (s.modPos i f).c.insts = s.c.insts := rfl
@[simp] theorem State.modPos_c_grids (s : State) (i : Nat) (f : Position → Position) : (s.modPos i f).c.grids = s.c.grids := rfl
@[simp] theorem State.modPos_c_ops (s : State) (i : Nat) (f : Position → Position) : (s.modPos i f).c.ops = s.c.ops := rfl
@[simp] theorem State.modPos_c_mem (s : State) (i : Nat) (f : Position → Position) : (s.modPos i f).c.mem = s.c.mem := rfl
@[simp] theorem State.modPos_c_pend (s : State) (i : Nat) (f : Position → Position) : (s.modPos i f).c.pend = s.c.pend := rfl
@[simp] theorem State.modPos_c_sectors (s : State) (i : Nat) (f : Position → Position) : (s.modPos i f).c.sectors = s.c.sectors := rfl
@[simp] theorem State.modPos_c_atomFront (s : State) (i : Nat) (f : Position → Position) : (s.modPos i f).c.atomFront = s.c.atomFront := rfl
@[simp] theorem State.modPos_c_homes (s : State) (i : Nat) (f : Position → Position) : (s.modPos i f).c.homes = s.c.homes := rfl
@[simp] theorem State.modPos_c_bad (s : State) (i : Nat) (f : Position → Position) : (s.modPos i f).c.bad = s.c.bad := rfl
@[simp] theorem State.modPos_c_lineKey (s : State) (i : Nat) (f : Position → Position) : (s.modPos i f).c.lineKey = s.c.lineKey := rfl
@[simp] theorem State.modPos_c_l2tlb (s : State) (i : Nat) (f : Position → Position) : (s.modPos i f).c.l2tlb = s.c.l2tlb := rfl

/-! ### modBlock -/

@[simp] theorem State.modBlock_now (s : State) (p st : Nat) (f : Block → Block) : (s.modBlock p st f).now = s.now := rfl
@[simp] theorem State.modBlock_cyc (s : State) (p st : Nat) (f : Block → Block) : (s.modBlock p st f).cyc = s.cyc := rfl
@[simp] theorem State.modBlock_agenda (s : State) (p st : Nat) (f : Block → Block) : (s.modBlock p st f).agenda = s.agenda := rfl
@[simp] theorem State.modBlock_cur (s : State) (p st : Nat) (f : Block → Block) : (s.modBlock p st f).cur = s.cur := rfl
@[simp] theorem State.modBlock_free (s : State) (p st : Nat) (f : Block → Block) : (s.modBlock p st f).free = s.free := rfl
@[simp] theorem State.modBlock_nextId (s : State) (p st : Nat) (f : Block → Block) : (s.modBlock p st f).nextId = s.nextId := rfl
@[simp] theorem State.modBlock_node (s : State) (p st : Nat) (f : Block → Block) : (s.modBlock p st f).node = s.node := rfl
@[simp] theorem State.modBlock_t (s : State) (p st : Nat) (f : Block → Block) : (s.modBlock p st f).t = s.t := rfl
@[simp] theorem State.modBlock_m (s : State) (p st : Nat) (f : Block → Block) : (s.modBlock p st f).m = s.m := rfl
@[simp] theorem State.modBlock_c_cores (s : State) (p st : Nat) (f : Block → Block) : (s.modBlock p st f).c.cores = s.c.cores := rfl
@[simp] theorem State.modBlock_c_insts (s : State) (p st : Nat) (f : Block → Block) : (s.modBlock p st f).c.insts = s.c.insts := rfl
@[simp] theorem State.modBlock_c_grids (s : State) (p st : Nat) (f : Block → Block) : (s.modBlock p st f).c.grids = s.c.grids := rfl
@[simp] theorem State.modBlock_c_ops (s : State) (p st : Nat) (f : Block → Block) : (s.modBlock p st f).c.ops = s.c.ops := rfl
@[simp] theorem State.modBlock_c_mem (s : State) (p st : Nat) (f : Block → Block) : (s.modBlock p st f).c.mem = s.c.mem := rfl
@[simp] theorem State.modBlock_c_pend (s : State) (p st : Nat) (f : Block → Block) : (s.modBlock p st f).c.pend = s.c.pend := rfl
@[simp] theorem State.modBlock_c_sectors (s : State) (p st : Nat) (f : Block → Block) : (s.modBlock p st f).c.sectors = s.c.sectors := rfl
@[simp] theorem State.modBlock_c_atomFront (s : State) (p st : Nat) (f : Block → Block) : (s.modBlock p st f).c.atomFront = s.c.atomFront := rfl
@[simp] theorem State.modBlock_c_homes (s : State) (p st : Nat) (f : Block → Block) : (s.modBlock p st f).c.homes = s.c.homes := rfl
@[simp] theorem State.modBlock_c_bad (s : State) (p st : Nat) (f : Block → Block) : (s.modBlock p st f).c.bad = s.c.bad := rfl
@[simp] theorem State.modBlock_c_lineKey (s : State) (p st : Nat) (f : Block → Block) : (s.modBlock p st f).c.lineKey = s.c.lineKey := rfl
@[simp] theorem State.modBlock_c_l2tlb (s : State) (p st : Nat) (f : Block → Block) : (s.modBlock p st f).c.l2tlb = s.c.l2tlb := rfl

/-! ### modWarp -/

@[simp] theorem State.modWarp_now (s : State) (k : WKey) (f : Warp → Warp) : (s.modWarp k f).now = s.now := rfl
@[simp] theorem State.modWarp_cyc (s : State) (k : WKey) (f : Warp → Warp) : (s.modWarp k f).cyc = s.cyc := rfl
@[simp] theorem State.modWarp_agenda (s : State) (k : WKey) (f : Warp → Warp) : (s.modWarp k f).agenda = s.agenda := rfl
@[simp] theorem State.modWarp_cur (s : State) (k : WKey) (f : Warp → Warp) : (s.modWarp k f).cur = s.cur := rfl
@[simp] theorem State.modWarp_free (s : State) (k : WKey) (f : Warp → Warp) : (s.modWarp k f).free = s.free := rfl
@[simp] theorem State.modWarp_nextId (s : State) (k : WKey) (f : Warp → Warp) : (s.modWarp k f).nextId = s.nextId := rfl
@[simp] theorem State.modWarp_node (s : State) (k : WKey) (f : Warp → Warp) : (s.modWarp k f).node = s.node := rfl
@[simp] theorem State.modWarp_t (s : State) (k : WKey) (f : Warp → Warp) : (s.modWarp k f).t = s.t := rfl
@[simp] theorem State.modWarp_m (s : State) (k : WKey) (f : Warp → Warp) : (s.modWarp k f).m = s.m := rfl
@[simp] theorem State.modWarp_c_cores (s : State) (k : WKey) (f : Warp → Warp) : (s.modWarp k f).c.cores = s.c.cores := rfl
@[simp] theorem State.modWarp_c_insts (s : State) (k : WKey) (f : Warp → Warp) : (s.modWarp k f).c.insts = s.c.insts := rfl
@[simp] theorem State.modWarp_c_grids (s : State) (k : WKey) (f : Warp → Warp) : (s.modWarp k f).c.grids = s.c.grids := rfl
@[simp] theorem State.modWarp_c_ops (s : State) (k : WKey) (f : Warp → Warp) : (s.modWarp k f).c.ops = s.c.ops := rfl
@[simp] theorem State.modWarp_c_mem (s : State) (k : WKey) (f : Warp → Warp) : (s.modWarp k f).c.mem = s.c.mem := rfl
@[simp] theorem State.modWarp_c_pend (s : State) (k : WKey) (f : Warp → Warp) : (s.modWarp k f).c.pend = s.c.pend := rfl
@[simp] theorem State.modWarp_c_sectors (s : State) (k : WKey) (f : Warp → Warp) : (s.modWarp k f).c.sectors = s.c.sectors := rfl
@[simp] theorem State.modWarp_c_atomFront (s : State) (k : WKey) (f : Warp → Warp) : (s.modWarp k f).c.atomFront = s.c.atomFront := rfl
@[simp] theorem State.modWarp_c_homes (s : State) (k : WKey) (f : Warp → Warp) : (s.modWarp k f).c.homes = s.c.homes := rfl
@[simp] theorem State.modWarp_c_bad (s : State) (k : WKey) (f : Warp → Warp) : (s.modWarp k f).c.bad = s.c.bad := rfl
@[simp] theorem State.modWarp_c_lineKey (s : State) (k : WKey) (f : Warp → Warp) : (s.modWarp k f).c.lineKey = s.c.lineKey := rfl
@[simp] theorem State.modWarp_c_l2tlb (s : State) (k : WKey) (f : Warp → Warp) : (s.modWarp k f).c.l2tlb = s.c.l2tlb := rfl

/-! ### modCore -/

@[simp] theorem State.modCore_now (s : State) (i : Nat) (f : CoreSt → CoreSt) : (s.modCore i f).now = s.now := rfl
@[simp] theorem State.modCore_cyc (s : State) (i : Nat) (f : CoreSt → CoreSt) : (s.modCore i f).cyc = s.cyc := rfl
@[simp] theorem State.modCore_agenda (s : State) (i : Nat) (f : CoreSt → CoreSt) : (s.modCore i f).agenda = s.agenda := rfl
@[simp] theorem State.modCore_cur (s : State) (i : Nat) (f : CoreSt → CoreSt) : (s.modCore i f).cur = s.cur := rfl
@[simp] theorem State.modCore_free (s : State) (i : Nat) (f : CoreSt → CoreSt) : (s.modCore i f).free = s.free := rfl
@[simp] theorem State.modCore_nextId (s : State) (i : Nat) (f : CoreSt → CoreSt) : (s.modCore i f).nextId = s.nextId := rfl
@[simp] theorem State.modCore_node (s : State) (i : Nat) (f : CoreSt → CoreSt) : (s.modCore i f).node = s.node := rfl
@[simp] theorem State.modCore_t (s : State) (i : Nat) (f : CoreSt → CoreSt) : (s.modCore i f).t = s.t := rfl
@[simp] theorem State.modCore_m (s : State) (i : Nat) (f : CoreSt → CoreSt) : (s.modCore i f).m = s.m := rfl
@[simp] theorem State.modCore_c_positions (s : State) (i : Nat) (f : CoreSt → CoreSt) : (s.modCore i f).c.positions = s.c.positions := rfl
@[simp] theorem State.modCore_c_past (s : State) (i : Nat) (f : CoreSt → CoreSt) : (s.modCore i f).c.past = s.c.past := rfl
@[simp] theorem State.modCore_c_insts (s : State) (i : Nat) (f : CoreSt → CoreSt) : (s.modCore i f).c.insts = s.c.insts := rfl
@[simp] theorem State.modCore_c_grids (s : State) (i : Nat) (f : CoreSt → CoreSt) : (s.modCore i f).c.grids = s.c.grids := rfl
@[simp] theorem State.modCore_c_ops (s : State) (i : Nat) (f : CoreSt → CoreSt) : (s.modCore i f).c.ops = s.c.ops := rfl
@[simp] theorem State.modCore_c_mem (s : State) (i : Nat) (f : CoreSt → CoreSt) : (s.modCore i f).c.mem = s.c.mem := rfl
@[simp] theorem State.modCore_c_pend (s : State) (i : Nat) (f : CoreSt → CoreSt) : (s.modCore i f).c.pend = s.c.pend := rfl
@[simp] theorem State.modCore_c_sectors (s : State) (i : Nat) (f : CoreSt → CoreSt) : (s.modCore i f).c.sectors = s.c.sectors := rfl
@[simp] theorem State.modCore_c_atomFront (s : State) (i : Nat) (f : CoreSt → CoreSt) : (s.modCore i f).c.atomFront = s.c.atomFront := rfl
@[simp] theorem State.modCore_c_homes (s : State) (i : Nat) (f : CoreSt → CoreSt) : (s.modCore i f).c.homes = s.c.homes := rfl
@[simp] theorem State.modCore_c_bad (s : State) (i : Nat) (f : CoreSt → CoreSt) : (s.modCore i f).c.bad = s.c.bad := rfl
@[simp] theorem State.modCore_c_lineKey (s : State) (i : Nat) (f : CoreSt → CoreSt) : (s.modCore i f).c.lineKey = s.c.lineKey := rfl
@[simp] theorem State.modCore_c_l2tlb (s : State) (i : Nat) (f : CoreSt → CoreSt) : (s.modCore i f).c.l2tlb = s.c.l2tlb := rfl

/-! ### modGrid -/

@[simp] theorem State.modGrid_now (s : State) (x i : Nat) (f : Grid → Grid) : (s.modGrid x i f).now = s.now := rfl
@[simp] theorem State.modGrid_cyc (s : State) (x i : Nat) (f : Grid → Grid) : (s.modGrid x i f).cyc = s.cyc := rfl
@[simp] theorem State.modGrid_agenda (s : State) (x i : Nat) (f : Grid → Grid) : (s.modGrid x i f).agenda = s.agenda := rfl
@[simp] theorem State.modGrid_cur (s : State) (x i : Nat) (f : Grid → Grid) : (s.modGrid x i f).cur = s.cur := rfl
@[simp] theorem State.modGrid_free (s : State) (x i : Nat) (f : Grid → Grid) : (s.modGrid x i f).free = s.free := rfl
@[simp] theorem State.modGrid_nextId (s : State) (x i : Nat) (f : Grid → Grid) : (s.modGrid x i f).nextId = s.nextId := rfl
@[simp] theorem State.modGrid_node (s : State) (x i : Nat) (f : Grid → Grid) : (s.modGrid x i f).node = s.node := rfl
@[simp] theorem State.modGrid_t (s : State) (x i : Nat) (f : Grid → Grid) : (s.modGrid x i f).t = s.t := rfl
@[simp] theorem State.modGrid_m (s : State) (x i : Nat) (f : Grid → Grid) : (s.modGrid x i f).m = s.m := rfl
@[simp] theorem State.modGrid_c_cores (s : State) (x i : Nat) (f : Grid → Grid) : (s.modGrid x i f).c.cores = s.c.cores := rfl
@[simp] theorem State.modGrid_c_positions (s : State) (x i : Nat) (f : Grid → Grid) : (s.modGrid x i f).c.positions = s.c.positions := rfl
@[simp] theorem State.modGrid_c_past (s : State) (x i : Nat) (f : Grid → Grid) : (s.modGrid x i f).c.past = s.c.past := rfl
@[simp] theorem State.modGrid_c_insts (s : State) (x i : Nat) (f : Grid → Grid) : (s.modGrid x i f).c.insts = s.c.insts := rfl
@[simp] theorem State.modGrid_c_ops (s : State) (x i : Nat) (f : Grid → Grid) : (s.modGrid x i f).c.ops = s.c.ops := rfl
@[simp] theorem State.modGrid_c_mem (s : State) (x i : Nat) (f : Grid → Grid) : (s.modGrid x i f).c.mem = s.c.mem := rfl
@[simp] theorem State.modGrid_c_pend (s : State) (x i : Nat) (f : Grid → Grid) : (s.modGrid x i f).c.pend = s.c.pend := rfl
@[simp] theorem State.modGrid_c_sectors (s : State) (x i : Nat) (f : Grid → Grid) : (s.modGrid x i f).c.sectors = s.c.sectors := rfl
@[simp] theorem State.modGrid_c_atomFront (s : State) (x i : Nat) (f : Grid → Grid) : (s.modGrid x i f).c.atomFront = s.c.atomFront := rfl
@[simp] theorem State.modGrid_c_homes (s : State) (x i : Nat) (f : Grid → Grid) : (s.modGrid x i f).c.homes = s.c.homes := rfl
@[simp] theorem State.modGrid_c_bad (s : State) (x i : Nat) (f : Grid → Grid) : (s.modGrid x i f).c.bad = s.c.bad := rfl
@[simp] theorem State.modGrid_c_lineKey (s : State) (x i : Nat) (f : Grid → Grid) : (s.modGrid x i f).c.lineKey = s.c.lineKey := rfl
@[simp] theorem State.modGrid_c_l2tlb (s : State) (x i : Nat) (f : Grid → Grid) : (s.modGrid x i f).c.l2tlb = s.c.l2tlb := rfl

/-! ### modInst -/

@[simp] theorem State.modInst_now (s : State) (x g l : Nat) (f : Inst → Inst) : (s.modInst x g l f).now = s.now := rfl
@[simp] theorem State.modInst_cyc (s : State) (x g l : Nat) (f : Inst → Inst) : (s.modInst x g l f).cyc = s.cyc := rfl
@[simp] theorem State.modInst_agenda (s : State) (x g l : Nat) (f : Inst → Inst) : (s.modInst x g l f).agenda = s.agenda := rfl
@[simp] theorem State.modInst_cur (s : State) (x g l : Nat) (f : Inst → Inst) : (s.modInst x g l f).cur = s.cur := rfl
@[simp] theorem State.modInst_free (s : State) (x g l : Nat) (f : Inst → Inst) : (s.modInst x g l f).free = s.free := rfl
@[simp] theorem State.modInst_nextId (s : State) (x g l : Nat) (f : Inst → Inst) : (s.modInst x g l f).nextId = s.nextId := rfl
@[simp] theorem State.modInst_node (s : State) (x g l : Nat) (f : Inst → Inst) : (s.modInst x g l f).node = s.node := rfl
@[simp] theorem State.modInst_t (s : State) (x g l : Nat) (f : Inst → Inst) : (s.modInst x g l f).t = s.t := rfl
@[simp] theorem State.modInst_m (s : State) (x g l : Nat) (f : Inst → Inst) : (s.modInst x g l f).m = s.m := rfl
@[simp] theorem State.modInst_c_cores (s : State) (x g l : Nat) (f : Inst → Inst) : (s.modInst x g l f).c.cores = s.c.cores := rfl
@[simp] theorem State.modInst_c_positions (s : State) (x g l : Nat) (f : Inst → Inst) : (s.modInst x g l f).c.positions = s.c.positions := rfl
@[simp] theorem State.modInst_c_past (s : State) (x g l : Nat) (f : Inst → Inst) : (s.modInst x g l f).c.past = s.c.past := rfl
@[simp] theorem State.modInst_c_grids (s : State) (x g l : Nat) (f : Inst → Inst) : (s.modInst x g l f).c.grids = s.c.grids := rfl
@[simp] theorem State.modInst_c_ops (s : State) (x g l : Nat) (f : Inst → Inst) : (s.modInst x g l f).c.ops = s.c.ops := rfl
@[simp] theorem State.modInst_c_mem (s : State) (x g l : Nat) (f : Inst → Inst) : (s.modInst x g l f).c.mem = s.c.mem := rfl
@[simp] theorem State.modInst_c_pend (s : State) (x g l : Nat) (f : Inst → Inst) : (s.modInst x g l f).c.pend = s.c.pend := rfl
@[simp] theorem State.modInst_c_sectors (s : State) (x g l : Nat) (f : Inst → Inst) : (s.modInst x g l f).c.sectors = s.c.sectors := rfl
@[simp] theorem State.modInst_c_atomFront (s : State) (x g l : Nat) (f : Inst → Inst) : (s.modInst x g l f).c.atomFront = s.c.atomFront := rfl
@[simp] theorem State.modInst_c_homes (s : State) (x g l : Nat) (f : Inst → Inst) : (s.modInst x g l f).c.homes = s.c.homes := rfl
@[simp] theorem State.modInst_c_bad (s : State) (x g l : Nat) (f : Inst → Inst) : (s.modInst x g l f).c.bad = s.c.bad := rfl
@[simp] theorem State.modInst_c_lineKey (s : State) (x g l : Nat) (f : Inst → Inst) : (s.modInst x g l f).c.lineKey = s.c.lineKey := rfl
@[simp] theorem State.modInst_c_l2tlb (s : State) (x g l : Nat) (f : Inst → Inst) : (s.modInst x g l f).c.l2tlb = s.c.l2tlb := rfl

/-! ### modOp -/

@[simp] theorem State.modOp_now (s : State) (i : Nat) (f : EngOp → EngOp) : (s.modOp i f).now = s.now := rfl
@[simp] theorem State.modOp_cyc (s : State) (i : Nat) (f : EngOp → EngOp) : (s.modOp i f).cyc = s.cyc := rfl
@[simp] theorem State.modOp_agenda (s : State) (i : Nat) (f : EngOp → EngOp) : (s.modOp i f).agenda = s.agenda := rfl
@[simp] theorem State.modOp_cur (s : State) (i : Nat) (f : EngOp → EngOp) : (s.modOp i f).cur = s.cur := rfl
@[simp] theorem State.modOp_free (s : State) (i : Nat) (f : EngOp → EngOp) : (s.modOp i f).free = s.free := rfl
@[simp] theorem State.modOp_nextId (s : State) (i : Nat) (f : EngOp → EngOp) : (s.modOp i f).nextId = s.nextId := rfl
@[simp] theorem State.modOp_node (s : State) (i : Nat) (f : EngOp → EngOp) : (s.modOp i f).node = s.node := rfl
@[simp] theorem State.modOp_t (s : State) (i : Nat) (f : EngOp → EngOp) : (s.modOp i f).t = s.t := rfl
@[simp] theorem State.modOp_m (s : State) (i : Nat) (f : EngOp → EngOp) : (s.modOp i f).m = s.m := rfl
@[simp] theorem State.modOp_c_cores (s : State) (i : Nat) (f : EngOp → EngOp) : (s.modOp i f).c.cores = s.c.cores := rfl
@[simp] theorem State.modOp_c_positions (s : State) (i : Nat) (f : EngOp → EngOp) : (s.modOp i f).c.positions = s.c.positions := rfl
@[simp] theorem State.modOp_c_past (s : State) (i : Nat) (f : EngOp → EngOp) : (s.modOp i f).c.past = s.c.past := rfl
@[simp] theorem State.modOp_c_insts (s : State) (i : Nat) (f : EngOp → EngOp) : (s.modOp i f).c.insts = s.c.insts := rfl
@[simp] theorem State.modOp_c_grids (s : State) (i : Nat) (f : EngOp → EngOp) : (s.modOp i f).c.grids = s.c.grids := rfl
@[simp] theorem State.modOp_c_mem (s : State) (i : Nat) (f : EngOp → EngOp) : (s.modOp i f).c.mem = s.c.mem := rfl
@[simp] theorem State.modOp_c_pend (s : State) (i : Nat) (f : EngOp → EngOp) : (s.modOp i f).c.pend = s.c.pend := rfl
@[simp] theorem State.modOp_c_sectors (s : State) (i : Nat) (f : EngOp → EngOp) : (s.modOp i f).c.sectors = s.c.sectors := rfl
@[simp] theorem State.modOp_c_atomFront (s : State) (i : Nat) (f : EngOp → EngOp) : (s.modOp i f).c.atomFront = s.c.atomFront := rfl
@[simp] theorem State.modOp_c_homes (s : State) (i : Nat) (f : EngOp → EngOp) : (s.modOp i f).c.homes = s.c.homes := rfl
@[simp] theorem State.modOp_c_bad (s : State) (i : Nat) (f : EngOp → EngOp) : (s.modOp i f).c.bad = s.c.bad := rfl
@[simp] theorem State.modOp_c_lineKey (s : State) (i : Nat) (f : EngOp → EngOp) : (s.modOp i f).c.lineKey = s.c.lineKey := rfl
@[simp] theorem State.modOp_c_l2tlb (s : State) (i : Nat) (f : EngOp → EngOp) : (s.modOp i f).c.l2tlb = s.c.l2tlb := rfl

/-! ### dropOp -/

@[simp] theorem State.dropOp_now (s : State) (i : Nat) : (s.dropOp i).now = s.now := rfl
@[simp] theorem State.dropOp_cyc (s : State) (i : Nat) : (s.dropOp i).cyc = s.cyc := rfl
@[simp] theorem State.dropOp_agenda (s : State) (i : Nat) : (s.dropOp i).agenda = s.agenda := rfl
@[simp] theorem State.dropOp_cur (s : State) (i : Nat) : (s.dropOp i).cur = s.cur := rfl
@[simp] theorem State.dropOp_free (s : State) (i : Nat) : (s.dropOp i).free = s.free := rfl
@[simp] theorem State.dropOp_nextId (s : State) (i : Nat) : (s.dropOp i).nextId = s.nextId := rfl
@[simp] theorem State.dropOp_node (s : State) (i : Nat) : (s.dropOp i).node = s.node := rfl
@[simp] theorem State.dropOp_t (s : State) (i : Nat) : (s.dropOp i).t = s.t := rfl
@[simp] theorem State.dropOp_m (s : State) (i : Nat) : (s.dropOp i).m = s.m := rfl
@[simp] theorem State.dropOp_c_cores (s : State) (i : Nat) : (s.dropOp i).c.cores = s.c.cores := rfl
@[simp] theorem State.dropOp_c_positions (s : State) (i : Nat) : (s.dropOp i).c.positions = s.c.positions := rfl
@[simp] theorem State.dropOp_c_past (s : State) (i : Nat) : (s.dropOp i).c.past = s.c.past := rfl
@[simp] theorem State.dropOp_c_insts (s : State) (i : Nat) : (s.dropOp i).c.insts = s.c.insts := rfl
@[simp] theorem State.dropOp_c_grids (s : State) (i : Nat) : (s.dropOp i).c.grids = s.c.grids := rfl
@[simp] theorem State.dropOp_c_mem (s : State) (i : Nat) : (s.dropOp i).c.mem = s.c.mem := rfl
@[simp] theorem State.dropOp_c_pend (s : State) (i : Nat) : (s.dropOp i).c.pend = s.c.pend := rfl
@[simp] theorem State.dropOp_c_sectors (s : State) (i : Nat) : (s.dropOp i).c.sectors = s.c.sectors := rfl
@[simp] theorem State.dropOp_c_atomFront (s : State) (i : Nat) : (s.dropOp i).c.atomFront = s.c.atomFront := rfl
@[simp] theorem State.dropOp_c_homes (s : State) (i : Nat) : (s.dropOp i).c.homes = s.c.homes := rfl
@[simp] theorem State.dropOp_c_bad (s : State) (i : Nat) : (s.dropOp i).c.bad = s.c.bad := rfl
@[simp] theorem State.dropOp_c_lineKey (s : State) (i : Nat) : (s.dropOp i).c.lineKey = s.c.lineKey := rfl
@[simp] theorem State.dropOp_c_l2tlb (s : State) (i : Nat) : (s.dropOp i).c.l2tlb = s.c.l2tlb := rfl

/-! ### modCtx -/

@[simp] theorem State.modCtx_now (s : State) (i : Nat) (f : Ctx → Ctx) : (s.modCtx i f).now = s.now := rfl
@[simp] theorem State.modCtx_cyc (s : State) (i : Nat) (f : Ctx → Ctx) : (s.modCtx i f).cyc = s.cyc := rfl
@[simp] theorem State.modCtx_agenda (s : State) (i : Nat) (f : Ctx → Ctx) : (s.modCtx i f).agenda = s.agenda := rfl
@[simp] theorem State.modCtx_cur (s : State) (i : Nat) (f : Ctx → Ctx) : (s.modCtx i f).cur = s.cur := rfl
@[simp] theorem State.modCtx_free (s : State) (i : Nat) (f : Ctx → Ctx) : (s.modCtx i f).free = s.free := rfl
@[simp] theorem State.modCtx_nextId (s : State) (i : Nat) (f : Ctx → Ctx) : (s.modCtx i f).nextId = s.nextId := rfl
@[simp] theorem State.modCtx_node (s : State) (i : Nat) (f : Ctx → Ctx) : (s.modCtx i f).node = s.node := rfl
@[simp] theorem State.modCtx_c (s : State) (i : Nat) (f : Ctx → Ctx) : (s.modCtx i f).c = s.c := rfl
@[simp] theorem State.modCtx_m (s : State) (i : Nat) (f : Ctx → Ctx) : (s.modCtx i f).m = s.m := rfl
@[simp] theorem State.modCtx_t_codes (s : State) (i : Nat) (f : Ctx → Ctx) : (s.modCtx i f).t.codes = s.t.codes := rfl
@[simp] theorem State.modCtx_t_queues (s : State) (i : Nat) (f : Ctx → Ctx) : (s.modCtx i f).t.queues = s.t.queues := rfl
@[simp] theorem State.modCtx_t_late (s : State) (i : Nat) (f : Ctx → Ctx) : (s.modCtx i f).t.late = s.t.late := rfl
@[simp] theorem State.modCtx_t_reads (s : State) (i : Nat) (f : Ctx → Ctx) : (s.modCtx i f).t.reads = s.t.reads := rfl
@[simp] theorem State.modCtx_t_moment (s : State) (i : Nat) (f : Ctx → Ctx) : (s.modCtx i f).t.moment = s.t.moment := rfl
@[simp] theorem State.modCtx_t_pushes (s : State) (i : Nat) (f : Ctx → Ctx) : (s.modCtx i f).t.pushes = s.t.pushes := rfl
@[simp] theorem State.modCtx_t_filter (s : State) (i : Nat) (f : Ctx → Ctx) : (s.modCtx i f).t.filter = s.t.filter := rfl
@[simp] theorem State.modCtx_t_streams (s : State) (i : Nat) (f : Ctx → Ctx) : (s.modCtx i f).t.streams = s.t.streams := rfl
@[simp] theorem State.modCtx_t_sends (s : State) (i : Nat) (f : Ctx → Ctx) : (s.modCtx i f).t.sends = s.t.sends := rfl
@[simp] theorem State.modCtx_t_recvs (s : State) (i : Nat) (f : Ctx → Ctx) : (s.modCtx i f).t.recvs = s.t.recvs := rfl
@[simp] theorem State.modCtx_t_credits (s : State) (i : Nat) (f : Ctx → Ctx) : (s.modCtx i f).t.credits = s.t.credits := rfl
@[simp] theorem State.modCtx_t_relays (s : State) (i : Nat) (f : Ctx → Ctx) : (s.modCtx i f).t.relays = s.t.relays := rfl
@[simp] theorem State.modCtx_t_relayEnds (s : State) (i : Nat) (f : Ctx → Ctx) : (s.modCtx i f).t.relayEnds = s.t.relayEnds := rfl
@[simp] theorem State.modCtx_t_relaySeq (s : State) (i : Nat) (f : Ctx → Ctx) : (s.modCtx i f).t.relaySeq = s.t.relaySeq := rfl
@[simp] theorem State.modCtx_t_ports (s : State) (i : Nat) (f : Ctx → Ctx) : (s.modCtx i f).t.ports = s.t.ports := rfl
@[simp] theorem State.modCtx_t_ctl (s : State) (i : Nat) (f : Ctx → Ctx) : (s.modCtx i f).t.ctl = s.t.ctl := rfl
@[simp] theorem State.modCtx_t_interests (s : State) (i : Nat) (f : Ctx → Ctx) : (s.modCtx i f).t.interests = s.t.interests := rfl
@[simp] theorem State.modCtx_t_deliveries (s : State) (i : Nat) (f : Ctx → Ctx) : (s.modCtx i f).t.deliveries = s.t.deliveries := rfl
@[simp] theorem State.modCtx_t_folds (s : State) (i : Nat) (f : Ctx → Ctx) : (s.modCtx i f).t.folds = s.t.folds := rfl
@[simp] theorem State.modCtx_t_routes (s : State) (i : Nat) (f : Ctx → Ctx) : (s.modCtx i f).t.routes = s.t.routes := rfl
@[simp] theorem State.modCtx_t_nameOut (s : State) (i : Nat) (f : Ctx → Ctx) : (s.modCtx i f).t.nameOut = s.t.nameOut := rfl
@[simp] theorem State.modCtx_t_heldFaces (s : State) (i : Nat) (f : Ctx → Ctx) : (s.modCtx i f).t.heldFaces = s.t.heldFaces := rfl
@[simp] theorem State.modCtx_t_heldTiles (s : State) (i : Nat) (f : Ctx → Ctx) : (s.modCtx i f).t.heldTiles = s.t.heldTiles := rfl
@[simp] theorem State.modCtx_t_pens (s : State) (i : Nat) (f : Ctx → Ctx) : (s.modCtx i f).t.pens = s.t.pens := rfl
@[simp] theorem State.modCtx_t_heldPosts (s : State) (i : Nat) (f : Ctx → Ctx) : (s.modCtx i f).t.heldPosts = s.t.heldPosts := rfl

/-! ### modCode -/

@[simp] theorem State.modCode_now (s : State) (x i : Nat) (f : Code → Code) : (s.modCode x i f).now = s.now := rfl
@[simp] theorem State.modCode_cyc (s : State) (x i : Nat) (f : Code → Code) : (s.modCode x i f).cyc = s.cyc := rfl
@[simp] theorem State.modCode_agenda (s : State) (x i : Nat) (f : Code → Code) : (s.modCode x i f).agenda = s.agenda := rfl
@[simp] theorem State.modCode_cur (s : State) (x i : Nat) (f : Code → Code) : (s.modCode x i f).cur = s.cur := rfl
@[simp] theorem State.modCode_free (s : State) (x i : Nat) (f : Code → Code) : (s.modCode x i f).free = s.free := rfl
@[simp] theorem State.modCode_nextId (s : State) (x i : Nat) (f : Code → Code) : (s.modCode x i f).nextId = s.nextId := rfl
@[simp] theorem State.modCode_node (s : State) (x i : Nat) (f : Code → Code) : (s.modCode x i f).node = s.node := rfl
@[simp] theorem State.modCode_c (s : State) (x i : Nat) (f : Code → Code) : (s.modCode x i f).c = s.c := rfl
@[simp] theorem State.modCode_m (s : State) (x i : Nat) (f : Code → Code) : (s.modCode x i f).m = s.m := rfl
@[simp] theorem State.modCode_t_ctxs (s : State) (x i : Nat) (f : Code → Code) : (s.modCode x i f).t.ctxs = s.t.ctxs := rfl
@[simp] theorem State.modCode_t_queues (s : State) (x i : Nat) (f : Code → Code) : (s.modCode x i f).t.queues = s.t.queues := rfl
@[simp] theorem State.modCode_t_late (s : State) (x i : Nat) (f : Code → Code) : (s.modCode x i f).t.late = s.t.late := rfl
@[simp] theorem State.modCode_t_reads (s : State) (x i : Nat) (f : Code → Code) : (s.modCode x i f).t.reads = s.t.reads := rfl
@[simp] theorem State.modCode_t_moment (s : State) (x i : Nat) (f : Code → Code) : (s.modCode x i f).t.moment = s.t.moment := rfl
@[simp] theorem State.modCode_t_pushes (s : State) (x i : Nat) (f : Code → Code) : (s.modCode x i f).t.pushes = s.t.pushes := rfl
@[simp] theorem State.modCode_t_filter (s : State) (x i : Nat) (f : Code → Code) : (s.modCode x i f).t.filter = s.t.filter := rfl
@[simp] theorem State.modCode_t_streams (s : State) (x i : Nat) (f : Code → Code) : (s.modCode x i f).t.streams = s.t.streams := rfl
@[simp] theorem State.modCode_t_sends (s : State) (x i : Nat) (f : Code → Code) : (s.modCode x i f).t.sends = s.t.sends := rfl
@[simp] theorem State.modCode_t_recvs (s : State) (x i : Nat) (f : Code → Code) : (s.modCode x i f).t.recvs = s.t.recvs := rfl
@[simp] theorem State.modCode_t_credits (s : State) (x i : Nat) (f : Code → Code) : (s.modCode x i f).t.credits = s.t.credits := rfl
@[simp] theorem State.modCode_t_relays (s : State) (x i : Nat) (f : Code → Code) : (s.modCode x i f).t.relays = s.t.relays := rfl
@[simp] theorem State.modCode_t_relayEnds (s : State) (x i : Nat) (f : Code → Code) : (s.modCode x i f).t.relayEnds = s.t.relayEnds := rfl
@[simp] theorem State.modCode_t_relaySeq (s : State) (x i : Nat) (f : Code → Code) : (s.modCode x i f).t.relaySeq = s.t.relaySeq := rfl
@[simp] theorem State.modCode_t_ports (s : State) (x i : Nat) (f : Code → Code) : (s.modCode x i f).t.ports = s.t.ports := rfl
@[simp] theorem State.modCode_t_ctl (s : State) (x i : Nat) (f : Code → Code) : (s.modCode x i f).t.ctl = s.t.ctl := rfl
@[simp] theorem State.modCode_t_interests (s : State) (x i : Nat) (f : Code → Code) : (s.modCode x i f).t.interests = s.t.interests := rfl
@[simp] theorem State.modCode_t_deliveries (s : State) (x i : Nat) (f : Code → Code) : (s.modCode x i f).t.deliveries = s.t.deliveries := rfl
@[simp] theorem State.modCode_t_folds (s : State) (x i : Nat) (f : Code → Code) : (s.modCode x i f).t.folds = s.t.folds := rfl
@[simp] theorem State.modCode_t_routes (s : State) (x i : Nat) (f : Code → Code) : (s.modCode x i f).t.routes = s.t.routes := rfl
@[simp] theorem State.modCode_t_nameOut (s : State) (x i : Nat) (f : Code → Code) : (s.modCode x i f).t.nameOut = s.t.nameOut := rfl
@[simp] theorem State.modCode_t_heldFaces (s : State) (x i : Nat) (f : Code → Code) : (s.modCode x i f).t.heldFaces = s.t.heldFaces := rfl
@[simp] theorem State.modCode_t_heldTiles (s : State) (x i : Nat) (f : Code → Code) : (s.modCode x i f).t.heldTiles = s.t.heldTiles := rfl
@[simp] theorem State.modCode_t_pens (s : State) (x i : Nat) (f : Code → Code) : (s.modCode x i f).t.pens = s.t.pens := rfl
@[simp] theorem State.modCode_t_heldPosts (s : State) (x i : Nat) (f : Code → Code) : (s.modCode x i f).t.heldPosts = s.t.heldPosts := rfl

/-! ### modQueue -/

@[simp] theorem State.modQueue_now (s : State) (i : Nat) (f : Queue → Queue) : (s.modQueue i f).now = s.now := rfl
@[simp] theorem State.modQueue_cyc (s : State) (i : Nat) (f : Queue → Queue) : (s.modQueue i f).cyc = s.cyc := rfl
@[simp] theorem State.modQueue_agenda (s : State) (i : Nat) (f : Queue → Queue) : (s.modQueue i f).agenda = s.agenda := rfl
@[simp] theorem State.modQueue_cur (s : State) (i : Nat) (f : Queue → Queue) : (s.modQueue i f).cur = s.cur := rfl
@[simp] theorem State.modQueue_free (s : State) (i : Nat) (f : Queue → Queue) : (s.modQueue i f).free = s.free := rfl
@[simp] theorem State.modQueue_nextId (s : State) (i : Nat) (f : Queue → Queue) : (s.modQueue i f).nextId = s.nextId := rfl
@[simp] theorem State.modQueue_node (s : State) (i : Nat) (f : Queue → Queue) : (s.modQueue i f).node = s.node := rfl
@[simp] theorem State.modQueue_c (s : State) (i : Nat) (f : Queue → Queue) : (s.modQueue i f).c = s.c := rfl
@[simp] theorem State.modQueue_m (s : State) (i : Nat) (f : Queue → Queue) : (s.modQueue i f).m = s.m := rfl
@[simp] theorem State.modQueue_t_ctxs (s : State) (i : Nat) (f : Queue → Queue) : (s.modQueue i f).t.ctxs = s.t.ctxs := rfl
@[simp] theorem State.modQueue_t_codes (s : State) (i : Nat) (f : Queue → Queue) : (s.modQueue i f).t.codes = s.t.codes := rfl
@[simp] theorem State.modQueue_t_late (s : State) (i : Nat) (f : Queue → Queue) : (s.modQueue i f).t.late = s.t.late := rfl
@[simp] theorem State.modQueue_t_reads (s : State) (i : Nat) (f : Queue → Queue) : (s.modQueue i f).t.reads = s.t.reads := rfl
@[simp] theorem State.modQueue_t_moment (s : State) (i : Nat) (f : Queue → Queue) : (s.modQueue i f).t.moment = s.t.moment := rfl
@[simp] theorem State.modQueue_t_pushes (s : State) (i : Nat) (f : Queue → Queue) : (s.modQueue i f).t.pushes = s.t.pushes := rfl
@[simp] theorem State.modQueue_t_filter (s : State) (i : Nat) (f : Queue → Queue) : (s.modQueue i f).t.filter = s.t.filter := rfl
@[simp] theorem State.modQueue_t_streams (s : State) (i : Nat) (f : Queue → Queue) : (s.modQueue i f).t.streams = s.t.streams := rfl
@[simp] theorem State.modQueue_t_sends (s : State) (i : Nat) (f : Queue → Queue) : (s.modQueue i f).t.sends = s.t.sends := rfl
@[simp] theorem State.modQueue_t_recvs (s : State) (i : Nat) (f : Queue → Queue) : (s.modQueue i f).t.recvs = s.t.recvs := rfl
@[simp] theorem State.modQueue_t_credits (s : State) (i : Nat) (f : Queue → Queue) : (s.modQueue i f).t.credits = s.t.credits := rfl
@[simp] theorem State.modQueue_t_relays (s : State) (i : Nat) (f : Queue → Queue) : (s.modQueue i f).t.relays = s.t.relays := rfl
@[simp] theorem State.modQueue_t_relayEnds (s : State) (i : Nat) (f : Queue → Queue) : (s.modQueue i f).t.relayEnds = s.t.relayEnds := rfl
@[simp] theorem State.modQueue_t_relaySeq (s : State) (i : Nat) (f : Queue → Queue) : (s.modQueue i f).t.relaySeq = s.t.relaySeq := rfl
@[simp] theorem State.modQueue_t_ports (s : State) (i : Nat) (f : Queue → Queue) : (s.modQueue i f).t.ports = s.t.ports := rfl
@[simp] theorem State.modQueue_t_ctl (s : State) (i : Nat) (f : Queue → Queue) : (s.modQueue i f).t.ctl = s.t.ctl := rfl
@[simp] theorem State.modQueue_t_interests (s : State) (i : Nat) (f : Queue → Queue) : (s.modQueue i f).t.interests = s.t.interests := rfl
@[simp] theorem State.modQueue_t_deliveries (s : State) (i : Nat) (f : Queue → Queue) : (s.modQueue i f).t.deliveries = s.t.deliveries := rfl
@[simp] theorem State.modQueue_t_folds (s : State) (i : Nat) (f : Queue → Queue) : (s.modQueue i f).t.folds = s.t.folds := rfl
@[simp] theorem State.modQueue_t_routes (s : State) (i : Nat) (f : Queue → Queue) : (s.modQueue i f).t.routes = s.t.routes := rfl
@[simp] theorem State.modQueue_t_nameOut (s : State) (i : Nat) (f : Queue → Queue) : (s.modQueue i f).t.nameOut = s.t.nameOut := rfl
@[simp] theorem State.modQueue_t_heldFaces (s : State) (i : Nat) (f : Queue → Queue) : (s.modQueue i f).t.heldFaces = s.t.heldFaces := rfl
@[simp] theorem State.modQueue_t_heldTiles (s : State) (i : Nat) (f : Queue → Queue) : (s.modQueue i f).t.heldTiles = s.t.heldTiles := rfl
@[simp] theorem State.modQueue_t_pens (s : State) (i : Nat) (f : Queue → Queue) : (s.modQueue i f).t.pens = s.t.pens := rfl
@[simp] theorem State.modQueue_t_heldPosts (s : State) (i : Nat) (f : Queue → Queue) : (s.modQueue i f).t.heldPosts = s.t.heldPosts := rfl

/-! ### modPort -/

@[simp] theorem State.modPort_now (s : State) (i : Nat) (f : Port → Port) : (s.modPort i f).now = s.now := rfl
@[simp] theorem State.modPort_cyc (s : State) (i : Nat) (f : Port → Port) : (s.modPort i f).cyc = s.cyc := rfl
@[simp] theorem State.modPort_agenda (s : State) (i : Nat) (f : Port → Port) : (s.modPort i f).agenda = s.agenda := rfl
@[simp] theorem State.modPort_cur (s : State) (i : Nat) (f : Port → Port) : (s.modPort i f).cur = s.cur := rfl
@[simp] theorem State.modPort_free (s : State) (i : Nat) (f : Port → Port) : (s.modPort i f).free = s.free := rfl
@[simp] theorem State.modPort_nextId (s : State) (i : Nat) (f : Port → Port) : (s.modPort i f).nextId = s.nextId := rfl
@[simp] theorem State.modPort_node (s : State) (i : Nat) (f : Port → Port) : (s.modPort i f).node = s.node := rfl
@[simp] theorem State.modPort_c (s : State) (i : Nat) (f : Port → Port) : (s.modPort i f).c = s.c := rfl
@[simp] theorem State.modPort_m (s : State) (i : Nat) (f : Port → Port) : (s.modPort i f).m = s.m := rfl
@[simp] theorem State.modPort_t_ctxs (s : State) (i : Nat) (f : Port → Port) : (s.modPort i f).t.ctxs = s.t.ctxs := rfl
@[simp] theorem State.modPort_t_codes (s : State) (i : Nat) (f : Port → Port) : (s.modPort i f).t.codes = s.t.codes := rfl
@[simp] theorem State.modPort_t_queues (s : State) (i : Nat) (f : Port → Port) : (s.modPort i f).t.queues = s.t.queues := rfl
@[simp] theorem State.modPort_t_late (s : State) (i : Nat) (f : Port → Port) : (s.modPort i f).t.late = s.t.late := rfl
@[simp] theorem State.modPort_t_reads (s : State) (i : Nat) (f : Port → Port) : (s.modPort i f).t.reads = s.t.reads := rfl
@[simp] theorem State.modPort_t_moment (s : State) (i : Nat) (f : Port → Port) : (s.modPort i f).t.moment = s.t.moment := rfl
@[simp] theorem State.modPort_t_pushes (s : State) (i : Nat) (f : Port → Port) : (s.modPort i f).t.pushes = s.t.pushes := rfl
@[simp] theorem State.modPort_t_filter (s : State) (i : Nat) (f : Port → Port) : (s.modPort i f).t.filter = s.t.filter := rfl
@[simp] theorem State.modPort_t_streams (s : State) (i : Nat) (f : Port → Port) : (s.modPort i f).t.streams = s.t.streams := rfl
@[simp] theorem State.modPort_t_sends (s : State) (i : Nat) (f : Port → Port) : (s.modPort i f).t.sends = s.t.sends := rfl
@[simp] theorem State.modPort_t_recvs (s : State) (i : Nat) (f : Port → Port) : (s.modPort i f).t.recvs = s.t.recvs := rfl
@[simp] theorem State.modPort_t_credits (s : State) (i : Nat) (f : Port → Port) : (s.modPort i f).t.credits = s.t.credits := rfl
@[simp] theorem State.modPort_t_relays (s : State) (i : Nat) (f : Port → Port) : (s.modPort i f).t.relays = s.t.relays := rfl
@[simp] theorem State.modPort_t_relayEnds (s : State) (i : Nat) (f : Port → Port) : (s.modPort i f).t.relayEnds = s.t.relayEnds := rfl
@[simp] theorem State.modPort_t_relaySeq (s : State) (i : Nat) (f : Port → Port) : (s.modPort i f).t.relaySeq = s.t.relaySeq := rfl
@[simp] theorem State.modPort_t_ctl (s : State) (i : Nat) (f : Port → Port) : (s.modPort i f).t.ctl = s.t.ctl := rfl
@[simp] theorem State.modPort_t_interests (s : State) (i : Nat) (f : Port → Port) : (s.modPort i f).t.interests = s.t.interests := rfl
@[simp] theorem State.modPort_t_deliveries (s : State) (i : Nat) (f : Port → Port) : (s.modPort i f).t.deliveries = s.t.deliveries := rfl
@[simp] theorem State.modPort_t_folds (s : State) (i : Nat) (f : Port → Port) : (s.modPort i f).t.folds = s.t.folds := rfl
@[simp] theorem State.modPort_t_routes (s : State) (i : Nat) (f : Port → Port) : (s.modPort i f).t.routes = s.t.routes := rfl
@[simp] theorem State.modPort_t_nameOut (s : State) (i : Nat) (f : Port → Port) : (s.modPort i f).t.nameOut = s.t.nameOut := rfl
@[simp] theorem State.modPort_t_heldFaces (s : State) (i : Nat) (f : Port → Port) : (s.modPort i f).t.heldFaces = s.t.heldFaces := rfl
@[simp] theorem State.modPort_t_heldTiles (s : State) (i : Nat) (f : Port → Port) : (s.modPort i f).t.heldTiles = s.t.heldTiles := rfl
@[simp] theorem State.modPort_t_pens (s : State) (i : Nat) (f : Port → Port) : (s.modPort i f).t.pens = s.t.pens := rfl
@[simp] theorem State.modPort_t_heldPosts (s : State) (i : Nat) (f : Port → Port) : (s.modPort i f).t.heldPosts = s.t.heldPosts := rfl

/-! ### modPad -/

@[simp] theorem State.modPad_now (s : State) (i : Nat) (f : Paddock → Paddock) : (s.modPad i f).now = s.now := rfl
@[simp] theorem State.modPad_cyc (s : State) (i : Nat) (f : Paddock → Paddock) : (s.modPad i f).cyc = s.cyc := rfl
@[simp] theorem State.modPad_agenda (s : State) (i : Nat) (f : Paddock → Paddock) : (s.modPad i f).agenda = s.agenda := rfl
@[simp] theorem State.modPad_cur (s : State) (i : Nat) (f : Paddock → Paddock) : (s.modPad i f).cur = s.cur := rfl
@[simp] theorem State.modPad_free (s : State) (i : Nat) (f : Paddock → Paddock) : (s.modPad i f).free = s.free := rfl
@[simp] theorem State.modPad_nextId (s : State) (i : Nat) (f : Paddock → Paddock) : (s.modPad i f).nextId = s.nextId := rfl
@[simp] theorem State.modPad_node (s : State) (i : Nat) (f : Paddock → Paddock) : (s.modPad i f).node = s.node := rfl
@[simp] theorem State.modPad_c (s : State) (i : Nat) (f : Paddock → Paddock) : (s.modPad i f).c = s.c := rfl
@[simp] theorem State.modPad_t (s : State) (i : Nat) (f : Paddock → Paddock) : (s.modPad i f).t = s.t := rfl
@[simp] theorem State.modPad_m_revokes (s : State) (i : Nat) (f : Paddock → Paddock) : (s.modPad i f).m.revokes = s.m.revokes := rfl
@[simp] theorem State.modPad_m_borrowed (s : State) (i : Nat) (f : Paddock → Paddock) : (s.modPad i f).m.borrowed = s.m.borrowed := rfl
@[simp] theorem State.modPad_m_retired (s : State) (i : Nat) (f : Paddock → Paddock) : (s.modPad i f).m.retired = s.m.retired := rfl
@[simp] theorem State.modPad_m_coresOut (s : State) (i : Nat) (f : Paddock → Paddock) : (s.modPad i f).m.coresOut = s.m.coresOut := rfl
@[simp] theorem State.modPad_m_diesOut (s : State) (i : Nat) (f : Paddock → Paddock) : (s.modPad i f).m.diesOut = s.m.diesOut := rfl
@[simp] theorem State.modPad_m_chansOut (s : State) (i : Nat) (f : Paddock → Paddock) : (s.modPad i f).m.chansOut = s.m.chansOut := rfl
@[simp] theorem State.modPad_m_coreDrain (s : State) (i : Nat) (f : Paddock → Paddock) : (s.modPad i f).m.coreDrain = s.m.coreDrain := rfl
@[simp] theorem State.modPad_m_cxlDown (s : State) (i : Nat) (f : Paddock → Paddock) : (s.modPad i f).m.cxlDown = s.m.cxlDown := rfl
@[simp] theorem State.modPad_m_links (s : State) (i : Nat) (f : Paddock → Paddock) : (s.modPad i f).m.links = s.m.links := rfl
@[simp] theorem State.modPad_m_cmdq (s : State) (i : Nat) (f : Paddock → Paddock) : (s.modPad i f).m.cmdq = s.m.cmdq := rfl
@[simp] theorem State.modPad_m_readback (s : State) (i : Nat) (f : Paddock → Paddock) : (s.modPad i f).m.readback = s.m.readback := rfl
@[simp] theorem State.modPad_m_vectors (s : State) (i : Nat) (f : Paddock → Paddock) : (s.modPad i f).m.vectors = s.m.vectors := rfl
@[simp] theorem State.modPad_m_bitmapRead (s : State) (i : Nat) (f : Paddock → Paddock) : (s.modPad i f).m.bitmapRead = s.m.bitmapRead := rfl
@[simp] theorem State.modPad_m_boot (s : State) (i : Nat) (f : Paddock → Paddock) : (s.modPad i f).m.boot = s.m.boot := rfl
@[simp] theorem State.modPad_m_measure (s : State) (i : Nat) (f : Paddock → Paddock) : (s.modPad i f).m.measure = s.m.measure := rfl
@[simp] theorem State.modPad_m_ptp (s : State) (i : Nat) (f : Paddock → Paddock) : (s.modPad i f).m.ptp = s.m.ptp := rfl
@[simp] theorem State.modPad_m_synced (s : State) (i : Nat) (f : Paddock → Paddock) : (s.modPad i f).m.synced = s.m.synced := rfl
@[simp] theorem State.modPad_m_slew (s : State) (i : Nat) (f : Paddock → Paddock) : (s.modPad i f).m.slew = s.m.slew := rfl
@[simp] theorem State.modPad_m_slewFrom (s : State) (i : Nat) (f : Paddock → Paddock) : (s.modPad i f).m.slewFrom = s.m.slewFrom := rfl
@[simp] theorem State.modPad_m_slewPpm (s : State) (i : Nat) (f : Paddock → Paddock) : (s.modPad i f).m.slewPpm = s.m.slewPpm := rfl
@[simp] theorem State.modPad_m_hostOut (s : State) (i : Nat) (f : Paddock → Paddock) : (s.modPad i f).m.hostOut = s.m.hostOut := rfl
@[simp] theorem State.modPad_m_cap (s : State) (i : Nat) (f : Paddock → Paddock) : (s.modPad i f).m.cap = s.m.cap := rfl
@[simp] theorem State.modPad_m_slow (s : State) (i : Nat) (f : Paddock → Paddock) : (s.modPad i f).m.slow = s.m.slow := rfl
@[simp] theorem State.modPad_m_hostLog (s : State) (i : Nat) (f : Paddock → Paddock) : (s.modPad i f).m.hostLog = s.m.hostLog := rfl
@[simp] theorem State.modPad_m_stepTo (s : State) (i : Nat) (f : Paddock → Paddock) : (s.modPad i f).m.stepTo = s.m.stepTo := rfl
@[simp] theorem State.modPad_m_recovery (s : State) (i : Nat) (f : Paddock → Paddock) : (s.modPad i f).m.recovery = s.m.recovery := rfl

/-! ### Records of one field -/

@[simp] theorem State.drawWord_now (s : State) : s.drawWord.2.now = s.now := rfl
@[simp] theorem State.drawWord_cyc (s : State) : s.drawWord.2.cyc = s.cyc := rfl
@[simp] theorem State.drawWord_agenda (s : State) : s.drawWord.2.agenda = s.agenda := rfl
@[simp] theorem State.drawWord_cur (s : State) : s.drawWord.2.cur = s.cur := rfl
@[simp] theorem State.drawWord_nextId (s : State) : s.drawWord.2.nextId = s.nextId := rfl
@[simp] theorem State.drawWord_node (s : State) : s.drawWord.2.node = s.node := rfl
@[simp] theorem State.drawWord_c (s : State) : s.drawWord.2.c = s.c := rfl
@[simp] theorem State.drawWord_t (s : State) : s.drawWord.2.t = s.t := rfl
@[simp] theorem State.drawWord_m (s : State) : s.drawWord.2.m = s.m := rfl
@[simp] theorem State.drawWord_free (s : State) : s.drawWord.2.free = s.free + 1 := rfl
@[simp] theorem State.drawByte_now (s : State) : s.drawByte.2.now = s.now := rfl
@[simp] theorem State.drawByte_cyc (s : State) : s.drawByte.2.cyc = s.cyc := rfl
@[simp] theorem State.drawByte_agenda (s : State) : s.drawByte.2.agenda = s.agenda := rfl
@[simp] theorem State.drawByte_cur (s : State) : s.drawByte.2.cur = s.cur := rfl
@[simp] theorem State.drawByte_nextId (s : State) : s.drawByte.2.nextId = s.nextId := rfl
@[simp] theorem State.drawByte_node (s : State) : s.drawByte.2.node = s.node := rfl
@[simp] theorem State.drawByte_c (s : State) : s.drawByte.2.c = s.c := rfl
@[simp] theorem State.drawByte_t (s : State) : s.drawByte.2.t = s.t := rfl
@[simp] theorem State.drawByte_m (s : State) : s.drawByte.2.m = s.m := rfl
@[simp] theorem State.drawByte_free (s : State) : s.drawByte.2.free = s.free + 1 := rfl
@[simp] theorem State.drawBit_now (s : State) : s.drawBit.2.now = s.now := rfl
@[simp] theorem State.drawBit_cyc (s : State) : s.drawBit.2.cyc = s.cyc := rfl
@[simp] theorem State.drawBit_agenda (s : State) : s.drawBit.2.agenda = s.agenda := rfl
@[simp] theorem State.drawBit_cur (s : State) : s.drawBit.2.cur = s.cur := rfl
@[simp] theorem State.drawBit_nextId (s : State) : s.drawBit.2.nextId = s.nextId := rfl
@[simp] theorem State.drawBit_node (s : State) : s.drawBit.2.node = s.node := rfl
@[simp] theorem State.drawBit_c (s : State) : s.drawBit.2.c = s.c := rfl
@[simp] theorem State.drawBit_t (s : State) : s.drawBit.2.t = s.t := rfl
@[simp] theorem State.drawBit_m (s : State) : s.drawBit.2.m = s.m := rfl
@[simp] theorem State.drawBit_free (s : State) : s.drawBit.2.free = s.free + 1 := rfl
@[simp] theorem State.fresh_now (s : State) : s.fresh.2.now = s.now := rfl
@[simp] theorem State.fresh_cyc (s : State) : s.fresh.2.cyc = s.cyc := rfl
@[simp] theorem State.fresh_agenda (s : State) : s.fresh.2.agenda = s.agenda := rfl
@[simp] theorem State.fresh_cur (s : State) : s.fresh.2.cur = s.cur := rfl
@[simp] theorem State.fresh_free (s : State) : s.fresh.2.free = s.free := rfl
@[simp] theorem State.fresh_node (s : State) : s.fresh.2.node = s.node := rfl
@[simp] theorem State.fresh_c (s : State) : s.fresh.2.c = s.c := rfl
@[simp] theorem State.fresh_t (s : State) : s.fresh.2.t = s.t := rfl
@[simp] theorem State.fresh_m (s : State) : s.fresh.2.m = s.m := rfl
@[simp] theorem State.fresh_nextId (s : State) : s.fresh.2.nextId = s.nextId + 1 := rfl

end Sys2Proof.Machine
end

