-- ==== Sys2Proof/Laws/Tables.lean ====
section
/-! SUPPORT. The tables: an entry changed in place is found again, and no other entry has moved. -/

namespace Sys2Proof.Machine

/-- A lookup of the changed key finds the entry changed. -/
theorem find?_upd_same {α : Type} (p : α → Bool) (f : α → α) (hf : ∀ a, p a = true → p (f a) = true) :
    ∀ l : List α, (upd p f l).find? p = (l.find? p).map f
  | [] => rfl
  | a :: l => by
    by_cases h : p a = true
    · simp [upd, h, hf a h]
    · have := find?_upd_same p f hf l
      simp only [upd] at this
      simp [upd, h, this]

/-- A lookup of another key is not touched. -/
theorem find?_upd_other {α : Type} (p q : α → Bool) (f : α → α)
    (hf : ∀ a, p a = true → q a = false ∧ q (f a) = false) : ∀ l : List α, (upd p f l).find? q = l.find? q
  | [] => rfl
  | a :: l => by
    have ih := find?_upd_other p q f hf l
    simp only [upd] at ih
    by_cases h : p a = true
    · simp [upd, h, (hf a h).1, (hf a h).2, ih]
    · by_cases hq : q a = true <;> simp [upd, h, hq, ih]

theorem State.posOf_modPos (s : State) (i : Nat) (f : Position → Position) (hf : ∀ p, (f p).id = p.id) :
    (s.modPos i f).posOf i = (s.posOf i).map f :=
  find?_upd_same _ f (fun a h => by simpa [hf] using h) _

theorem State.posOf_modPos_ne (s : State) {i j : Nat} (f : Position → Position) (hf : ∀ p, (f p).id = p.id) (h : j ≠ i) :
    (s.modPos i f).posOf j = s.posOf j :=
  find?_upd_other _ _ f (fun a ha => by
    have : a.id = i := by simpa using ha
    simp [hf, this, Ne.symm h]) _

@[simp] theorem Position.modBlock_id (p : Position) (st : Nat) (f : Block → Block) : (p.modBlock st f).id = p.id := rfl

theorem Position.blockOf_modBlock (p : Position) (st : Nat) (f : Block → Block) (hf : ∀ b, (f b).stage = b.stage) :
    (p.modBlock st f).blockOf st = (p.blockOf st).map f :=
  find?_upd_same _ f (fun a h => by simpa [hf] using h) _

theorem Block.warpOf_modWarp (b : Block) (i : Nat) (f : Warp → Warp) (hf : ∀ w, (f w).idx = w.idx) :
    (b.modWarp i f).warpOf i = (b.warpOf i).map f :=
  find?_upd_same _ f (fun a h => by simpa [hf] using h) _

@[simp] theorem Block.modWarp_stage (b : Block) (i : Nat) (f : Warp → Warp) : (b.modWarp i f).stage = b.stage := rfl

/-- A warp changed in place is found changed. -/
theorem State.warpOf_modWarp (s : State) (k : WKey) (f : Warp → Warp) (hf : ∀ w, (f w).idx = w.idx) :
    (s.modWarp k f).warpOf k = (s.warpOf k).map f := by
  simp only [State.modWarp, State.modBlock, State.warpOf]
  rw [State.posOf_modPos s k.pos (fun p => p.modBlock k.stage fun b => b.modWarp k.warp f) (fun p => rfl)]
  cases s.posOf k.pos with
  | none => rfl
  | some p =>
    simp only [Option.map_some, Option.bind_some]
    rw [Position.blockOf_modBlock p k.stage (fun b => b.modWarp k.warp f) (fun b => rfl)]
    cases p.blockOf k.stage with
    | none => rfl
    | some b => simpa using Block.warpOf_modWarp b k.warp f hf

end Sys2Proof.Machine
end

