-- ==== Sys2Proof/Laws/Issue.lean ====
section
/-! SUPPORT. What an instruction does through its packet: the one lemma that proofs about packet instructions cite. -/

namespace Sys2Proof.Machine

theorem pending_of_ready {c : RCtx} {a : PArm} {idx : Nat} (h : ∀ l ∈ a.lanes, c.ready idx l) :
    a.pending c.warp idx = a := by
  have : (a.lanes.filter fun l => (c.warp.threads[l]?).any fun t => t.idx == idx) = a.lanes := by
    rw [List.filter_eq_self]
    intro l hl
    obtain ⟨t, ht, -, hi⟩ := h l hl
    simp [ht, hi]
  simp [PArm.pending, this]

/-- Operands without a baton acquire nothing. -/
theorem takesBatons_none {s : State} {wk : WKey} {arm : Nat} {cs : List RCtx} {l : List Spec} (h : batonsOf l = []) :
    s.takesBatons wk arm cs l = s := by
  simp [State.takesBatons, h]

@[simp] theorem batonsOf_nil : batonsOf [] = [] := rfl

/-- A packet of one arm, none of whose lanes waits or traps: the arm's results are committed and the packet goes on. -/
theorem runArms_done {s s1 : State} {core slot : Nat} {p : Packet} {a : PArm} {c : RCtx} {h : How} {f : ArmFn} {o : ArmOut}
    (hat : s.At core slot p a c) (hw : h.whole = true → a.entire c.warp = true)
    (hf : h.act f a.wk a.arm s (c.executing (p.scl && !h.threads) h.g a) = (.done o, s1)) (hp : parksOf o = [])
    (ht : trapsOf o = []) : s.runArms h f = s1.landed core slot p a c (p.scl && !h.threads) h.dsts h.early o := by
  have hpend := pending_of_ready hat.ready
  have hcond : (h.whole && !a.entire c.warp) = false := by
    cases hh : h.whole
    · rfl
    · simp [hw hh]
  have hspan : (h.whole && h.span.isNone && !a.entire c.warp) = false := by
    cases hh : h.whole
    · rfl
    · simp [hw hh]
  have hstall : s.armStalls p h f a = none := by
    simp only [State.armStalls, hat.scene, hspan, hpend, hf]
    simp
  have hrun : s.runArm core p h f a =
      (((s1.freeWides a.wk o.lanes).modWarp a.wk (·.commit a.arm (partyOf c.warp a.arm) a.lanes (p.scl && !h.threads) h.dsts
        h.early o)).passLanes a.wk a.lanes p.idx).passUses a.wk (p.atUse ·) a.lanes := by
    have hsp (on : List Nat) (b : Bool) : spread b on ([] : List (Nat × Wait)) = [] := by cases b <;> rfl
    have hst (on : List Nat) (b : Bool) : spread b on ([] : List (Nat × Trap)) = [] := by cases b <;> rfl
    simp only [State.runArm, hat.scene, hcond, hpend, hf, State.armEnds, hp, ht, hsp, hst]
    simp [Packet.atUse]
  have hone : s.inOrder h.byId [a] = [a] := rfl
  simp only [State.runArms, State.onPacket, hat.cur, hat.packet, hat.arm, List.findSome?_cons, hstall, List.findSome?_nil,
    hone, List.foldl_cons, List.foldl_nil, hrun, State.landed]

/-- Lanes that all have a result. -/
theorem laneEnds_ok {f : RCtx → LaneStep LaneOut} {r : RCtx → LaneOut} :
    ∀ {cs : List RCtx}, (∀ k ∈ cs, f k = .ok (r k)) →
      laneEnds (cs.map fun c => (c.lane, f c)) = .done (ArmOut.ofLanes (cs.map fun k => (k.lane, r k)))
  | [], _ => rfl
  | k :: cs, h => by
    have ih := laneEnds_ok (f := f) (r := r) (cs := cs) fun x hx => h x (List.mem_cons_of_mem _ hx)
    have hk := h k List.mem_cons_self
    simp only [List.map_cons, laneEnds, hk, ih, ArmOut.ofLanes]

theorem parksOf_ofLanes (r : List (Nat × LaneOut)) : parksOf (ArmOut.ofLanes r) = [] := by
  simp [parksOf, ArmOut.ofLanes, List.filterMap_map]

theorem trapsOf_ofLanes (r : List (Nat × LaneOut)) : trapsOf (ArmOut.ofLanes r) = [] := by
  simp [trapsOf, ArmOut.ofLanes, List.filterMap_map]

/-- An instruction that acts in each lane on its own, in a packet of one arm whose executing lanes all have a result. -/
theorem laneWise_ok {f : RCtx → LaneStep LaneOut} {r : RCtx → LaneOut} {cs : List RCtx} (h : ∀ k ∈ cs, f k = .ok (r k))
    (hb : allEqual (batonWrites (ArmOut.ofLanes (cs.map fun k => (k.lane, r k))).lanes) = true) :
    laneWise f cs = .done (ArmOut.ofLanes (cs.map fun k => (k.lane, r k))) := by
  simp only [laneWise, laneEnds_ok h, ArmRes.settle, hb, if_true]

theorem allEqual_of {α : Type} [DecidableEq α] {l : List α} (h : ∀ a ∈ l, ∀ b ∈ l, a = b) : allEqual l = true := by
  cases l with
  | nil => rfl
  | cons a l =>
    simp only [allEqual, List.all_eq_true, decide_eq_true_eq]
    exact fun b hb => h b (List.mem_cons_of_mem _ hb) a List.mem_cons_self

/-- The baton writes of results that each write one value. -/
theorem batonWrites_one {cs : List RCtx} {d : Dst} {srcs : List Src} {val : RCtx → TV × Flags}
    (h : (∃ z, d.spec = .z z) → ∀ k ∈ cs, ∀ l ∈ cs, (val k).1 = (val l).1) :
    allEqual (batonWrites (ArmOut.ofLanes (cs.map fun k => (k.lane, .one d srcs (val k)))).lanes) = true := by
  apply allEqual_of
  intro x hx y hy
  simp only [batonWrites, ArmOut.ofLanes, List.mem_filterMap, List.mem_map, batonWrite, LaneOut.one] at hx hy
  obtain ⟨_, ⟨_, ⟨k, hk, rfl⟩, rfl⟩, hx⟩ := hx
  obtain ⟨_, ⟨_, ⟨l, hl, rfl⟩, rfl⟩, hy⟩ := hy
  cases hd : d.spec <;> simp [hd] at hx hy
  rw [← hx, ← hy, h ⟨_, hd⟩ k hk l hl]

/-- A packet instruction none of whose lanes waits or traps, as `Here` says it. -/
theorem runArms_left {s s1 : State} {h : Here} {w : How} {f : ArmFn} {o : ArmOut} (hat : s.here h)
    (ht : w.threads = false) (hw : w.whole = true → h.whole) (hf : f (s.acquires h w.g w.early) (h.lanes w.g) = (.done o, s1))
    (hp : parksOf o = []) (hx : trapsOf o = []) : s.runArms w f = s1.left h w.dsts o w.early := by
  have := runArms_done (s1 := s1) (f := f) hat hw (by simpa [ht, Here.lanes, How.act, State.acquires] using hf) hp hx
  simpa [ht, State.left] using this

/-- The same, of results given lane by lane. -/
theorem runArms_here {s s1 : State} {h : Here} {w : How} {f : ArmFn} {o : List (Nat × LaneOut)} (hat : s.here h)
    (ht : w.threads = false) (hw : w.whole = true → h.whole)
    (hf : f (s.acquires h w.g w.early) (h.lanes w.g) = (.done (.ofLanes o), s1)) : s.runArms w f = s1.done h w.dsts o w.early :=
  runArms_left hat ht hw hf (parksOf_ofLanes o) (trapsOf_ofLanes o)

/-- The same, of an instruction that acts in each thread. -/
theorem runArms_threads {s s1 : State} {h : Here} {w : How} {f : ArmFn} {o : List (Nat × LaneOut)} (hat : s.here h)
    (ht : w.threads = true) (hd : w.dsts = []) (he : w.early = []) (hw : w.whole = true → h.whole)
    (hf : f s (h.threads w.g) = (.done (.ofLanes o), s1)) : s.runArms w f = s1.leftThreads h o := by
  have := runArms_done (s1 := s1) (f := f) hat hw (by simpa [ht, he, Here.threads, How.act, takesBatons_none batonsOf_nil] using hf)
    (parksOf_ofLanes o) (trapsOf_ofLanes o)
  simpa [ht, hd, he, State.leftThreads] using this

/-- Lanes that all can read. -/
theorem gather_ok {α : Type} {f : RCtx → LaneStep α} {v : RCtx → α} :
    ∀ {cs : List RCtx}, (∀ k ∈ cs, f k = .ok (v k)) → gather f cs = .got (cs.map fun k => (k, v k)) []
  | [], _ => rfl
  | k :: cs, h => by
    simp only [gather, h k List.mem_cons_self, gather_ok fun x hx => h x (List.mem_cons_of_mem _ hx), List.map_cons]

/-- One executing lane that reads and acts. -/
theorem perLane_one {α : Type} {read : State → RCtx → LaneStep α} {act : State → RCtx → α → LaneEnd × State} {s s1 : State}
    {k : RCtx} {x : α} {o : LaneOut} (hr : read s k = .ok x) (ha : act s k x = (.out o, s1)) (hs : s1.overspent k.wk = false) :
    perLane read act s [k] = (.done (.ofLanes [(k.lane, o)]), s1) := by
  simp [perLane, gather, hr, actLanes, ha, hs, trapEnds, ArmOut.ofLanes]

/-- An instruction that acts in each lane on its own and writes one value. -/
theorem delivers_of {s : State} {h : Here} {g : Guard} {d : Dst} {srcs : List Src} {val : RCtx → TV × Flags}
    {f : RCtx → LaneStep LaneOut} (hat : s.here h)
    (hf : ∀ k ∈ h.lanes g, wrOk k d srcs = .ok () → f k = .ok (.one d srcs (val k))) {i : Instr}
    (he : exec i s = .next (s.runArms { g := g, dsts := [d.spec] } fun s cs => (laneWise f cs, s))) :
    s.Delivers h g d srcs i val := by
  intro hw hb
  rw [he, runArms_here (s1 := s) (o := (h.lanes g).map fun k => (k.lane, .one d srcs (val k))) hat rfl (by simp)]
  · rfl
  · simp only [laneWise_ok (r := fun k => .one d srcs (val k)) (fun k hk => hf k hk (hw k hk)) (batonWrites_one hb),
      State.acquires, takesBatons_none batonsOf_nil]

/-- Lanes that act in turn, each with a result. -/
theorem actLanes_turn {α : Type} {act : State → RCtx → α → LaneEnd × State} {x : RCtx → α}
    {P : State → RCtx → LaneOut → State → Prop} (h : ∀ s k o u, P s k o u → act s k (x k) = (.out o, u)) :
    ∀ {ks : List RCtx} {s t : State} {os : List (Nat × LaneOut)}, State.InTurn P s ks os t →
      actLanes act none (ks.map fun k => (k, x k)) s = (os.map fun o => (o.1, .out o.2), t)
  | [], _, _, _, ⟨ho, ht⟩ => by subst ho; subst ht; rfl
  | _ :: _, _, _, _, ⟨_, _, _, ho, hp, hs, hr⟩ => by
    subst ho
    simp only [List.map_cons, actLanes, h _ _ _ _ hp, hs, Bool.false_eq_true, if_false, actLanes_turn h hr]

/-- An instruction that reads in every lane and then acts in turn. -/
theorem perLane_turn {α : Type} {read : State → RCtx → LaneStep α} {act : State → RCtx → α → LaneEnd × State} {x : RCtx → α}
    {P : State → RCtx → LaneOut → State → Prop} {ks : List RCtx} {s t : State} {os : List (Nat × LaneOut)}
    (hr : ∀ k ∈ ks, read s k = .ok (x k)) (ha : ∀ s k o u, P s k o u → act s k (x k) = (.out o, u))
    (ht : State.InTurn P s ks os t) : perLane read act s ks = (.done (.ofLanes os), t) := by
  simp only [perLane, gather_ok hr, actLanes_turn ha ht, trapEnds, List.map_nil, List.nil_append, ArmOut.ofLanes]

/-- The lanes of a memory instruction that all have a result, without a fault. -/
theorem memArm_turn {m : MemOp} {x : RCtx → Acc} {P : State → RCtx → LaneOut → State → Prop} {ks : List RCtx} {s t : State}
    {os : List (Nat × LaneOut)} (hr : ∀ k ∈ ks, m.read k = .ok (x k))
    (ha : ∀ s k o u, P s k o u → s.memLane m k (x k) = (.out o, none, u)) (ht : State.InTurn P s ks os t) :
    memArm m s ks = (.done (.ofLanes os), t) := by
  have key : ∀ {ks : List RCtx} {s t : State} {os : List (Nat × LaneOut)} (acc : List (Nat × LaneEnd))
      (log : List (Nat × Acc × Nat)), State.InTurn P s ks os t →
      (ks.map fun k => (k, x k)).foldl (memTurn m) (acc, log, s) =
        (acc ++ os.map (fun o => (o.1, .out o.2)), log ++ ks.map (fun k => (k.lane, x k, noFid)), t) := by
    intro ks
    induction ks with
    | nil => rintro s t os acc log ⟨rfl, rfl⟩; simp
    | cons k ks ih =>
      rintro s t os acc log ⟨o, u, rest, rfl, hp, hs, hr⟩
      simp only [List.map_cons, List.foldl_cons, memTurn, ha _ _ _ _ hp, hs, Bool.false_eq_true, if_false, Option.getD_none]
      have := ih (acc ++ [(k.lane, .out o)]) (log ++ [(k.lane, x k, noFid)]) hr
      simp only [List.append_assoc, List.cons_append, List.nil_append] at this
      exact this
  have none_waits (c : RCtx) (v : Viewer) (done : List Nat) :
      t.addLog c v m.instr (ks.map fun k => (k.lane, x k, noFid)) done = t := by
    have : ((ks.map fun k => (k.lane, x k, noFid)).any fun l => l.2.2 != noFid) = false := by simp
    unfold State.addLog
    rw [this]
    split
    · rename_i h; cases h
    · rfl
  simp only [memArm, gather_ok hr, key [] [] ht, trapEnds, List.map_nil, List.nil_append, none_waits, ArmOut.ofLanes]
  split <;> rfl

/-- Each executing lane shares what the packet's warp has. -/
theorem lanes_warp {h : Here} {g : Guard} {k : RCtx} (hk : k ∈ h.lanes g) :
    k.warp = h.c.warp ∧ k.pos = h.c.pos ∧ k.block = h.c.block ∧ k.arm = h.a.arm := by
  unfold Here.lanes RCtx.executing at hk
  split at hk
  · split at hk
    · simp only [List.mem_singleton] at hk; subst hk; simp
    · simp at hk
  · simp only [List.mem_filterMap] at hk
    obtain ⟨l, -, hl⟩ := hk
    split at hl
    · split at hl
      · simp only [Option.some.injEq] at hl; subst hl; simp
      · simp at hl
    · simp at hl

/-- A guard on epochs lets an arm through that has epochs left. -/
theorem epochGuard_ok {f : ArmFn} {h : Here} {g : Guard} {s : State} (he : h.epochs) :
    epochGuard f s (h.lanes g) = f s (h.lanes g) := by
  have : (h.lanes g).any (fun c => decide (2 ^ 48 - 1 ≤ c.warp.epoch)) = false := by
    rw [List.any_eq_false]
    intro k hk
    simp only [(lanes_warp hk).1, decide_eq_true_eq]
    unfold Here.epochs at he
    omega
  simp only [epochGuard, this, Bool.false_eq_true, if_false]

/-- An instruction whose lanes act in turn. -/
theorem turns_of {s : State} {h : Here} {g : Guard} {dsts early : List Spec} {f : ArmFn}
    {P : State → RCtx → LaneOut → State → Prop} (hat : s.here h)
    (hf : ∀ os s0 t, State.InTurn P s0 (h.lanes g) os t → f s0 (h.lanes g) = (.done (.ofLanes os), t)) {i : Instr}
    (he : exec i s = .next (s.runArms { g := g, dsts := dsts, early := early } f)) : s.Turns h g dsts early i P := by
  intro os t ht
  rw [he, runArms_here hat rfl (by simp) (hf os _ t ht)]

end Sys2Proof.Machine
end

