-- ==== Sys2Proof/Laws/Memory.lean ====
section
/-! SUPPORT. Memory: what a write changes and leaves alone, and that it keeps the canonical form. -/

namespace Sys2Proof.Machine

theorem memWfFrom_mono {lo hi : Nat} (h : lo ≤ hi) : ∀ {m : List Host.Cell}, memWfFrom hi m = true → memWfFrom lo m = true
  | [], _ => rfl
  | (k, v) :: r, hm => by
    simp only [memWfFrom, Bool.and_eq_true, decide_eq_true_eq] at hm ⊢
    exact ⟨⟨by omega, hm.1.2⟩, hm.2⟩

/-- Removing an address keeps the canonical form. -/
theorem memDel_wfFrom (a : Nat) : ∀ {m : List Host.Cell} {lo : Nat}, memWfFrom lo m = true → memWfFrom lo (memDel m a) = true
  | [], _, _ => rfl
  | (k, w) :: r, lo, hm => by
    simp only [memWfFrom, Bool.and_eq_true, decide_eq_true_eq] at hm
    by_cases h : k = a
    · simpa only [memDel, if_pos h] using memDel_wfFrom a (memWfFrom_mono (by omega) hm.2)
    · simp only [memDel, if_neg h, memWfFrom, Bool.and_eq_true, decide_eq_true_eq]
      exact ⟨hm.1, memDel_wfFrom a hm.2⟩

/-- An address removed is not listed. -/
theorem memDel_not_mem (a : Nat) : ∀ (m : List Host.Cell), ∀ c ∈ memDel m a, c.1 ≠ a
  | [], c, hc => by cases hc
  | x :: r, c, hc => by
    by_cases h : x.1 = a
    · rw [memDel, if_pos h] at hc; exact memDel_not_mem a r c hc
    · rw [memDel, if_neg h] at hc
      rcases List.mem_cons.1 hc with rfl | hc
      · exact h
      · exact memDel_not_mem a r c hc

/-- Inserting an address that is not listed keeps the canonical form. -/
theorem memIns_wfFrom (a : Nat) {v : Byte} (hv : v ≠ unlisted) : ∀ {m : List Host.Cell} {lo : Nat}, lo ≤ a →
    (∀ c ∈ m, c.1 ≠ a) → memWfFrom lo m = true → memWfFrom lo (memIns m a v) = true
  | [], lo, hlo, _, _ => by simp [memIns, memWfFrom, hlo, hv]
  | (k, w) :: r, lo, hlo, hn, hm => by
    have hk : k ≠ a := hn (k, w) (List.mem_cons_self ..)
    simp only [memWfFrom, Bool.and_eq_true, decide_eq_true_eq] at hm
    by_cases h : a < k
    · simp only [memIns, if_pos h, memWfFrom, Bool.and_eq_true, decide_eq_true_eq]
      exact ⟨⟨hlo, by simpa using hv⟩, ⟨by omega, hm.1.2⟩, hm.2⟩
    · simp only [memIns, if_neg h, memWfFrom, Bool.and_eq_true, decide_eq_true_eq]
      exact ⟨hm.1, memIns_wfFrom a hv (by omega) (fun c hc => hn c (List.mem_cons_of_mem _ hc)) hm.2⟩

/-- A write keeps the canonical form. -/
theorem memSet_wf {m : List Host.Cell} (a : Nat) (v : Byte) (h : Memory.wf m = true) : Memory.wf (memSet m a v) = true := by
  unfold Memory.wf memSet at *
  split
  · exact memDel_wfFrom a h
  · exact memIns_wfFrom a ‹_› (Nat.zero_le a) (memDel_not_mem a m) (memDel_wfFrom a h)

theorem memWrite_wf : ∀ (bs : List Byte) {m : List Host.Cell} (a : Nat), Memory.wf m = true →
    Memory.wf (memWrite m a bs) = true
  | [], _, _, h => h
  | b :: bs, _, a, h => memWrite_wf bs (a + 1) (memSet_wf a b h)

theorem memGet_memDel_same (a : Nat) : ∀ (m : List Host.Cell), memGet (memDel m a) a = unlisted
  | [] => rfl
  | (k, w) :: r => by
    by_cases h : k = a
    · simpa only [memDel, if_pos h] using memGet_memDel_same a r
    · simpa only [memDel, if_neg h, memGet] using memGet_memDel_same a r

theorem memGet_memDel_other {a b : Nat} (hab : b ≠ a) : ∀ (m : List Host.Cell), memGet (memDel m a) b = memGet m b
  | [] => rfl
  | (k, w) :: r => by
    by_cases h : k = a
    · have hk : k ≠ b := fun e => hab (e.symm.trans h)
      simpa only [memDel, if_pos h, memGet, if_neg hk] using memGet_memDel_other hab r
    · simp only [memDel, if_neg h, memGet, memGet_memDel_other hab r]

theorem memGet_memIns_same (a : Nat) (v : Byte) :
    ∀ (m : List Host.Cell), (∀ c ∈ m, c.1 ≠ a) → memGet (memIns m a v) a = v
  | [], _ => by simp [memIns, memGet]
  | (k, w) :: r, hn => by
    have hk : k ≠ a := hn (k, w) (List.mem_cons_self ..)
    by_cases h : a < k
    · simp [memIns, h, memGet]
    · simp only [memIns, if_neg h, memGet, if_neg hk]
      exact memGet_memIns_same a v r fun c hc => hn c (List.mem_cons_of_mem _ hc)

theorem memGet_memIns_other {a b : Nat} (v : Byte) (hab : b ≠ a) :
    ∀ (m : List Host.Cell), memGet (memIns m a v) b = memGet m b
  | [] => by simp [memIns, memGet, hab.symm]
  | (k, w) :: r => by
    by_cases h : a < k
    · simp [memIns, h, memGet, hab.symm]
    · simp only [memIns, if_neg h, memGet, memGet_memIns_other v hab r]

/-- Reading the byte written, of any list of cells. -/
theorem memGet_memSet_same (m : List Host.Cell) (a : Nat) (v : Byte) : memGet (memSet m a v) a = v := by
  unfold memSet
  split
  · rw [memGet_memDel_same]; exact Eq.symm ‹_›
  · exact memGet_memIns_same a v _ (memDel_not_mem a m)

/-- Reading any other byte. -/
theorem memGet_memSet_other {a b : Nat} (v : Byte) (hab : b ≠ a) (m : List Host.Cell) : memGet (memSet m a v) b = memGet m b := by
  unfold memSet
  split
  · exact memGet_memDel_other hab m
  · rw [memGet_memIns_other v hab, memGet_memDel_other hab]

theorem memRead_length (m : List Host.Cell) (a : Nat) : ∀ n, (memRead m a n).length = n
  | 0 => rfl
  | n + 1 => by simp [memRead, memRead_length m (a + 1) n]

@[simp] theorem leBytes_length (n v : Nat) : (leBytes n v).length = n := by
  induction n generalizing v with
  | zero => rfl
  | succ n ih => simp [leBytes, ih]

end Sys2Proof.Machine
end

