-- ==== Sys2Proof/Tests/Slice0.lean ====
section
/-! SUPPORT. Tests: words the spec's encodings give, terms that are not well formed, single steps, and for each statement
a state and operands that meet its hypotheses. Expected values are worked out by hand from the rules. -/

namespace Sys2Proof.Tests

open Machine

/-! ## Small states -/

/-- A package with one core and one port, and a warp of 8 threads at an instruction of core 0 (log entry 1). -/
def base : State :=
  let s : State := { State.reset with
    c := { State.reset.c with cores := [CoreSt.reset 0] }, t := { State.reset.t with ports := [Port.reset 0] } }
  { s.probePacket 0xF6076FEDFCDFCDFC with agenda := [], cur := .packet 0 0 }

/-- The warp's key. -/
def wk : WKey := ⟨1, 0, 0⟩

/-- `s` with lane registers of every thread set. -/
def regs (s : State) (l : List (Nat × TV)) : State :=
  s.modLanes wk (List.range 8) fun t => l.foldl (fun t x => { t with regs := t.regs.set x.1 ⟨.full, x.2⟩ }) t

def warpSet (s : State) (f : Warp → Warp) : State := s.modWarp wk f
def posSet (s : State) (f : Position → Position) : State := s.modPos 1 f

/-- Where the packet of core 0, slot 0 stands. -/
def stands (s : State) : Option Here :=
  (s.packet? 0 0).bind fun p => (p.arms.head?).bind fun a => (s.scene a.wk).map fun c => ⟨0, 0, p, a, c⟩

def ready (c : RCtx) (idx l : Nat) : Bool := (c.warp.threads[l]?).any fun t => t.st == .packed && t.idx == idx

/-- The packet's one arm stands at its instruction, all of its threads in it. -/
def standsAt (s : State) (h : Here) : Bool :=
  s.cur == .packet h.core h.slot && s.packet? h.core h.slot == some h.p && h.p.arms == [h.a] && s.scene h.a.wk == some h.c
    && h.a.lanes.all fun l => ready h.c h.p.idx l

theorem here_of {s : State} {h : Here} (x : standsAt s h = true) : s.here h := by
  simp only [standsAt, Bool.and_eq_true, beq_iff_eq, List.all_eq_true] at x
  obtain ⟨⟨⟨⟨h1, h2⟩, h3⟩, h4⟩, h5⟩ := x
  refine ⟨h1, h2, h3, h4, fun l hl => ?_⟩
  have h6 := h5 l hl
  simp only [ready, Option.any_eq_true, Bool.and_eq_true, beq_iff_eq] at h6
  exact h6

def always : Guard := ⟨7, false⟩
def src (i : BitVec 7) : Src := ⟨.v i, false, false⟩
def dst (i : BitVec 7) : Dst := ⟨.v i, false⟩
/-- Lane register `i` as the operand of a field reads: its bits, its tag, and what TINFO says of the operand. -/
def val (field i : Nat) (x : Word) (f : Fmt) (_ : RCtx) : RV := ⟨x, .tag f, BitVec.ofNat 32 (field * 2 ^ 10 + i)⟩

/-- What an operand reads as, where it can be read. -/
def got (field : Nat) (x : Src) (k : RCtx) : RV :=
  match rd k field x with
  | .ok r => r
  | _ => ⟨0, .untagged, 0⟩
def pr (i : BitVec 3) : Src := ⟨.p i, false, false⟩
def zeroS : Src := ⟨.zero, false, false⟩

/-- Registers of the arithmetic tests: v1 = 7 and v2 = −2 as s32, v3 = 1.5 and v4 = −2.0 as f32, v5 = 3 as n32. -/
def sA : State := regs base [(1, ⟨7, F.s32⟩), (2, ⟨0xFFFFFFFE, F.s32⟩), (3, ⟨0x3FC00000, F.f32⟩), (4, ⟨0xC0000000, F.f32⟩),
  (5, ⟨3, F.n32⟩), (6, ⟨0x01020304, F.s8⟩), (7, ⟨0xF1, F.s4⟩), (8, ⟨0x3C00BC00, F.f16⟩), (9, ⟨1, F.n32⟩), (10, ⟨0, F.n32⟩)]
def hA : Here := (stands sA).get (by decide +kernel)
theorem stands_A : sA.here hA := here_of (by decide +kernel)

/-- A result, where there is one. -/
def out {α : Type} (d : α) : LaneStep α → α
  | .ok a => a
  | _ => d
/-- The first thread of the warp. -/
def th0 : Thread := (sA.threadOf wk 0).get (by decide +kernel)
def th (k : RCtx) : Thread := k.thread.getD th0

/-! ## Words (R54 to R69, and each entry's own MOD), written out field by field -/

/-- A word with the guard `always`: OPC, MOD, D, S1, S2, S3 (R60). -/
def word (opc : BitVec 8) (mod : BitVec 5) (d : BitVec 11) (s1 s2 s3 : BitVec 12) : Dword := opc ++ mod ++ 14#4 ++ d ++ s1 ++ s2 ++ s3
def nd : BitVec 11 := 0x6FE#11
def ns : BitVec 12 := 0xDFC#12
/-- Class and index of a destination (R54, R56), and of a source. -/
def D (c : BitVec 3) (i : BitVec 7) : BitVec 11 := c ++ i ++ 0#1
def S (c : BitVec 3) (i : BitVec 7) : BitVec 12 := c ++ i ++ 0#2
/-- A format of whole words: OPC, MOD, D, IMM36 (R60). -/
def wordK (opc : BitVec 8) (mod : BitVec 5) (d : BitVec 11) (k : BitVec 36) : Dword := opc ++ mod ++ 14#4 ++ d ++ k
def fs (i : BitVec 7) : Src := ⟨.v i, false, false⟩
def fw (i : BitVec 5) : Src := ⟨.w i, false, false⟩
def fi (i : BitVec 7) : Src := ⟨.imm i, false, false⟩
def fp (i : BitVec 3) : Src := ⟨.p i, false, false⟩
def fa (i : BitVec 5) : Src := ⟨.a i, false, false⟩
def ab : Src := ⟨.zero, false, false⟩

def decodesAll (l : List (Dword × Instr)) : Bool := l.all fun x => decodeIn false x.1 == .ok x.2 && encode x.2 == x.1

theorem test_decode_integer : decodesAll [
    (word 0x00 0b01001 (D 0 9) (S 0 3) (S 2 1) ns, .iadd .n32 true always (dst 9) (fs 3) (.src (fw 1))),
    (word 0x01 0b00010 (D 0 9) (S 0 3) (S 0 1) ns, .isub .s16 false always (dst 9) (fs 3) (.src (fs 1))),
    (word 0x02 0b10000 (D 0 9) (S 0 3) 0xFFF 0xFFF, .imul .s32 false always (dst 9) (fs 3) (.imm 0xFFFFFF)),
    (word 0x03 0b01011 (D 0 9) (S 0 3) (S 0 1) (S 0 2), .imad .n16 true always (dst 9) (fs 3) (fs 1) (fs 2)),
    (word 0x04 0b00001 (D 0 9) (S 0 3) (S 0 1) ns, .imulhi .n32 always (dst 9) (fs 3) (fs 1)),
    (word 0x05 0b00000 (D 0 9) (S 0 3) (S 7 0x7F) ns, .imin .s32 always (dst 9) (fs 3) (.src (fi 0x7F))),
    (word 0x06 0b00001 (D 0 9) (S 0 3) (S 0 1) ns, .imax .n32 always (dst 9) (fs 3) (.src (fs 1))),
    (word 0x07 0b01000 (D 0 9) (S 0 3) ns ns, .iabs .s32 true always (dst 9) (fs 3)),
    (word 0x08 0b00010 (D 0 9) (S 0 3) ns ns, .ineg .s16 false always (dst 9) (fs 3)),
    (word 0x09 0 (D 0 9) (S 0 3) (S 0 1) ns, .and always (dst 9) (fs 3) (.src (fs 1))),
    (word 0x0A 0b10000 (D 0 9) (S 0 3) 0x001 0x002, .or always (dst 9) (fs 3) (.imm 0x001002)),
    (word 0x0B 0 (D 0 9) (S 0 3) (S 0 1) ns, .xor always (dst 9) (fs 3) (.src (fs 1))),
    (word 0x0C 0 (D 0 9) (S 0 3) (S 0 1) ns, .andn always (dst 9) (fs 3) (.src (fs 1))),
    (word 0x0D 0b10000 (D 0 9) (S 0 3) 0x000 0x020, .shl always (dst 9) (fs 3) (.imm 32)),
    (word 0x0E 0 (D 0 9) (S 0 3) (S 0 1) ns, .shr always (dst 9) (fs 3) (.src (fs 1))),
    (word 0x0F 0 (D 0 9) (S 0 3) (S 0 1) ns, .sar always (dst 9) (fs 3) (.src (fs 1))),
    (word 0x10 0 (D 0 9) (S 0 3) (S 0 1) ns, .rot always (dst 9) (fs 3) (.src (fs 1))),
    (word 0x11 0 (D 0 9) (S 0 3 ||| 2) ns ns, .popc always (dst 9) ⟨.v 3, true, false⟩),
    (word 0x12 0 (D 0 9 ||| 1) (S 0 3 ||| 1) ns ns, .clz always ⟨.v 9, true⟩ ⟨.v 3, false, true⟩),
    (word 0x13 0 (D 0 9) (S 1 15) ns ns, .brev always (dst 9) ⟨.x 15, false, false⟩),
    (word 0x14 1 (D 0 9) (S 0 3) (S 0 1) (S 0 2), .bfx true always (dst 9) (fs 3) (fs 1) (fs 2)),
    (word 0x15 0 (D 0 9) (S 0 3) (S 0 1) (S 0 2), .bfi always (dst 9) (fs 3) (fs 1) (fs 2)),
    (word 0x16 0b00101 (D 6 2) (S 0 3) (S 0 1) ns, .icmp .lt true always ⟨.p 2, false⟩ (fs 3) (.src (fs 1))),
    (word 0x17 0 (D 0 9) (S 0 3) (S 0 1) (S 6 4), .sel always (dst 9) (fs 3) (fs 1) (fp 4)),
    (word 0x18 0 (D 0 9) (S 6 121) ns ns, .mov always (dst 9) ⟨.laneid, false, false⟩),
    (wordK 0x19 1 (D 0 9) 0x03F000000, .movk 1 always (dst 9) 0x3F000000),
    (word 0x1A 0b01010 (D 0 8) (S 0 4) (S 0 1) ns, .lea 2 true always (dst 8) (fs 4) (.src (fs 1))),
    (word 0x1B 0b00110 (D 0 9) (S 0 3) (S 0 1) (S 0 2), .dp4 false true true always (dst 9) (fs 3) (fs 1) (fs 2)),
    (word 0x1C 0b00001 (D 0 9) (S 0 3) (S 0 1) (S 0 2), .dp8 true false false always (dst 9) (fs 3) (fs 1) (fs 2)),
    (word 0x1D 0b00011 (D 6 1) (S 6 2) (S 6 7) ns, .plop .andn always 1 2 7),
    (word 0x1E 1 (D 0 9) (S 6 7) ns ns, .pmov .p2r always (dst 9) (fp 7))] = true := by decide +kernel

theorem test_decode_float : decodesAll [
    (word 0x40 0b01001 (D 0 9) (S 0 3) (S 0 1) ns, .fadd false true .rtz always (dst 9) (fs 3) (fs 1) ab),
    (word 0x41 0b00100 (D 0 9) (S 0 3) (S 0 1) (S 0 2), .fsub false false .rs always (dst 9) (fs 3) (fs 1) (fs 2)),
    (word 0x42 0b10010 (D 0 9) (S 0 3) (S 0 1) ns, .fmul true false .rdn always (dst 9) (fs 3) (fs 1) ab),
    (word 0x43 0b00011 (D 0 9) (S 0 3) (S 0 1) (S 0 2), .ffma false false .rup always (dst 9) (fs 3) (fs 1) (fs 2)),
    (word 0x44 0b00001 (D 0 9) (S 0 3) (S 0 1) ns, .fmin false false true always (dst 9) (fs 3) (fs 1)),
    (word 0x45 0b11000 (D 0 9) (S 0 3) (S 0 1) ns, .fmax true true false always (dst 9) (fs 3) (fs 1)),
    (word 0x46 0b00110 (D 6 0) (S 0 3) (S 0 1) ns, .fcmp .num false always ⟨.p 0, false⟩ (fs 3) (fs 1)),
    (word 0x47 0b00101 (D 0 9) (S 0 3) ns ns, .fclass .f16 true always (dst 9) (fs 3)),
    (word 0x48 0 (D 0 9) (S 0 3) ns ns, .frcp false false .rne always (dst 9) (fs 3)),
    (word 0x49 1 (D 0 9) (S 0 3) ns ns, .frsq false false .rtz always (dst 9) (fs 3)),
    (word 0x4A 2 (D 0 9) (S 0 3) ns ns, .fsqrt false false .rdn always (dst 9) (fs 3)),
    (word 0x4B 3 (D 0 9) (S 0 3) ns ns, .fex2 false false .rup always (dst 9) (fs 3)),
    (word 0x4C 8 (D 0 9) (S 0 3) ns ns, .flg2 false true .rne always (dst 9) (fs 3)),
    (word 0x4D 16 (D 0 9) (S 0 3) ns ns, .fsin true false .rne always (dst 9) (fs 3)),
    (word 0x4E 0 (D 0 9) (S 0 3) ns ns, .fcos false false .rne always (dst 9) (fs 3)),
    (word 0x4F 0 (D 0 9) (S 0 3) ns ns, .ftanh false false .rne always (dst 9) (fs 3)),
    (word 0x50 1 (D 0 9) (S 0 3) ns ns, .frnd false false .rtz always (dst 9) (fs 3)),
    (word 0x51 1 (D 0 9) (S 0 3) (S 7 (3 * 8 + 2)) ns, .cvt 1 3 .rdn always (dst 9) (fs 3) ab),
    (word 0x52 0b10010 (D 0 9) (S 0 3) (S 0 1) (S 0 2), .qnt 2 true always (dst 9) (fs 3) (fs 1) (fs 2)),
    (word 0x53 6 (D 0 9) (S 0 3) (S 0 1) ns, .dqt 6 always (dst 9) (fs 3) (fs 1) ab),
    (word 0x54 0 (D 0 9) (S 0 3) (S 0 1) (S 0 2), .pack always (dst 9) (fs 3) (fs 1) (fs 2)),
    (word 0x55 1 (D 0 9) (S 0 3) (S 0 1) ns, .unpk true always (dst 9) (fs 3) (fs 1)),
    (word 0x56 0 (D 0 9) (S 6 64) ns ns, .tagr always (dst 9) ⟨.m 0, false, false⟩),
    (word 0x57 31 (D 0 9) (S 0 3) (S 0 1) ns, .tagw .reg always (dst 9) (fs 3) (fs 1))] = true := by decide +kernel

theorem test_decode_lanes : decodesAll [
    (word 0x80 0b00101 (D 0 9) (S 0 3) (S 0 1) (S 0 2), .shfl .add .s8 always (dst 9) (fs 3) (fs 1) (fs 2)),
    (word 0x81 0b00011 (D 0 9) (S 6 2) ns ns, .vote .cnt .whole always (dst 9) (fp 2)),
    (word 0x82 2 (D 0 9) (S 6 2) ns ns, .ballot 2 always (dst 9) (fp 2)),
    (word 0x83 0b10001 (D 0 9) (S 0 3) ns ns, .lred .min .f32 always (dst 9) (fs 3)),
    (word 0x84 0b01110 (D 0 9) (S 0 3) ns ns, .scan .addx .n32 always (dst 9) (fs 3)),
    (word 0x85 1 (D 0 9) (S 0 3) ns ns, .matchq 1 always (dst 9) (fs 3)),
    (word 0x86 0b00011 (D 6 3) ns ns ns, .elect true .s8 always ⟨.p 3, false⟩),
    (word 0x87 1 (D 2 5) (S 0 6) ns ns, .sup 1 always ⟨.w 5, false⟩ (fs 6)),
    (word 0x88 0b10010 (D 2 1) (S 0 2) ns ns, .sred .max .f32 always ⟨.w 1, false⟩ (fs 2)),
    (word 0x89 0 nd (S 7 2) ns ns, .rgive always (fi 2)),
    (word 0x8A 1 (D 6 4) (S 2 1) ns ns, .rclaim always (some 4) (fw 1)),
    (word 0x8B 3 (D 0 9) ns ns ns, .rpool 3 always (dst 9))] = true := by decide +kernel

theorem test_decode_memory : decodesAll [
    (word 0xA0 0 (D 6 18) (S 6 16) (S 7 1) (S 0 2), .ldh always ⟨.h 2, false⟩ (.mem 0 (fi 1) (fs 2))),
    (word 0xA1 1 (D 0 9) (S 6 19) (S 0 1) (S 6 127), .ld 1 always (dst 9) 3 (fs 1) ab),
    (word 0xA2 1 (D 0 1) (S 6 19) (S 0 0) (S 7 0), .st 1 always (.v 1) 3 (fs 0) (fi 0)),
    (word 0xA3 0b11101 (D 0 9) (S 6 19) (S 0 1) (S 0 2), .atom .cas true always (dst 9) 3 (fs 1) (fs 2)),
    (word 0xA4 2 nd (S 6 19) (S 0 1) (S 0 2), .red .addF32 false always 3 (fs 1) (fs 2)),
    (word 0xA5 3 nd ns ns ns, .fence 3 always),
    (word 0xA6 1 nd (S 6 19) (S 0 1) (S 0 2), .pfh true always 3 (fs 1) (fs 2)),
    (word 0xA7 2 nd (S 6 19) (S 0 1) (S 0 2), .res 2 always 3 (fs 1) (fs 2)),
    (word 0xA8 0 nd (S 6 18) (S 6 19) (S 0 8), .cpy always 2 3 (fs 8)),
    (word 0xA9 0b10011 nd (S 6 18) (S 6 19) (S 0 8), .cpyr .and .s32 always 2 3 (fs 8)),
    (word 0xAA 0b00011 (D 6 1) (S 0 3) ns ns, .waitt true always (some 1) (fs 3)),
    (word 0xAB 0 nd (S 7 5) ns ns, .waita false always none (fi 5)),
    (word 0xAC 0b00101 (D 0 9) (S 0 3) ns ns, .tfind 2 true always (dst 9) (fs 3)),
    (word 0xAD 5 nd (S 0 4) (S 6 19) (S 0 1), .smap 5 always (fs 4) 3 (fs 1)),
    (word 0xAD 0b01101 nd ns ns ns, .smapOff 5 always),
    (word 0xAE 5 nd (S 7 2) ns ns, .sflush 5 always (fi 2)),
    (word 0xAF 5 nd ns ns ns, .sinv 5 always),
    (word 0xB8 0 nd (S 6 20) (S 0 8) ns, .send always 4 (fs 8)),
    (word 0xB9 0 nd (S 6 20) (S 0 8) ns, .recv always 4 (fs 8)),
    (word 0xBA 0 (D 0 9) (S 6 21) (S 7 0) (S 0 12), .relay always (dst 9) 5 (fi 0) (fs 12)),
    (word 0xBB 1 (D 6 3) (S 0 5) ns ns, .rlwait always (some 3) (fs 5))] = true := by decide +kernel

theorem test_decode_matrix : decodesAll [
    (word 0xC0 0 (D 6 80) (S 6 19) (S 7 0) (S 0 4), .lload always 0 3 (fi 0) (fs 4)),
    (word 0xC1 0 nd ns ns ns, .mfence always),
    (word 0xC2 0 nd (S 0 3) ns ns, .mma always (fs 3)),
    (word 0xC3 1 nd (S 6 36) ns ns, .mwait true always (fa 4)),
    (word 0xC4 0b10011 (D 6 36) ns ns ns, .azero 3 true always 4),
    (word 0xC5 0b01101 (D 0 8) (S 6 36) (S 0 0) ns, .amov 5 true always (dst 8) (fa 4) (fs 0)),
    (word 0xC6 0b00110 (D 6 66) (S 6 36) (S 7 1) ns, .ast .rdn true always 2 (fa 4) (fi 1)),
    (word 0xC7 1 (D 6 36) (S 6 66) (S 7 1) ns, .ald true always 4 2 (fi 1)),
    (word 0xC8 0 nd (S 6 36) ns ns, .arel false always (fa 4)),
    (word 0xC9 3 nd (S 7 0) ns ns, .alg 3 always (fi 0)),
    (word 0xCA 3 (D 0 8) (S 0 4) ns ns, .conj 3 always (dst 8) (fs 4)),
    (word 0xCB 3 (D 0 9) (S 2 4) ns ns, .norm 3 always (dst 9) (fw 4)),
    (word 0xCC 0b10011 (D 0 0) (S 2 4) (S 0 0) ns, .amul 3 true always (dst 0) (fw 4) (fs 0)),
    (0xCC1F000410000DFC, .amul 3 false always (dst 0) (fw 4) (fs 0))] = true := by decide +kernel

theorem test_decode_control : decodesAll [
    (word 0xD0 0 nd (S 7 1) (S 7 4) ns, .barB false always (fi 1) (fi 4)),
    (word 0xD0 1 nd ns ns ns, .barC always),
    (word 0xD0 2 nd ns ns ns, .barG always),
    (word 0xD1 0 nd (S 7 1) ns ns, .carrive always (fi 1) ab),
    (word 0xD2 0 nd (S 7 1) (S 0 2) ns, .cwait always (fi 1) (fs 2)),
    (word 0xD3 0 nd (S 7 1) (S 0 2) ns, .rpush always (fi 1) (fs 2)),
    (word 0xD4 2 (D 6 127) (S 7 1) ns ns, .rpop .ph1 always ⟨.zero, false⟩ (fi 1)),
    (word 0xD5 0 nd (S 6 20) (S 0 2) ns, .enq always 4 (fs 2)),
    (word 0xD5 1 nd (S 6 20) (S 0 2) ns, .enqAt always 4 (fs 2)),
    (word 0xD5 2 nd (S 7 3) (S 0 2) ns, .enqRetry always (fi 3) (fs 2)),
    (word 0xD5 3 nd (S 7 3) (S 0 2) ns, .enqCancel always (fi 3) (fs 2)),
    (0xD6076FEDFCDFCDFC, .tdone always),
    (word 0xD7 3 (D 0 9) (S 7 3) (S 0 2) ns, .qstat .armed always (dst 9) (fi 3) (fs 2)),
    (word 0xD8 0 nd (S 6 19) (S 0 0) (S 0 4), .ask always 3 (fs 0) (fs 4)),
    (word 0xD9 0 nd (S 6 19) (S 0 0) (S 0 4), .annc always 3 (fs 0) (fs 4)),
    (word 0xDA 0 nd (S 0 0) (S 7 2) ns, .wdrw always (fs 0) (fi 2)),
    (word 0xDB 6 (D 0 0) (S 7 5) ns ns, .nmk .var always (dst 0) (fi 5)),
    (word 0xDC 1 (D 6 2) (S 6 21) (S 6 122) (S 0 5), .pslot always (some 2) 5 ⟨.warpid, false, false⟩ (fs 5)),
    (word 0xDD 0 nd (S 6 21) (S 0 8) (S 0 12), .ppost always (.mem 5) (fs 8) (fs 12)),
    (word 0xDE 1 (D 0 14) (S 6 121) ns ns, .pwait 1 always (dst 14) ⟨.laneid, false, false⟩),
    (word 0xDF 2 nd (S 0 5) ns ns, .prel 2 always (fs 5)),
    (0xE210401028090381, .pair 2 ⟨2, 4, ⟨false, 1⟩, ⟨false, 2⟩⟩ ⟨16, 9, ⟨false, 3⟩, ⟨true, 1⟩⟩),
    (wordK 0xE8 0 nd 0xFFFFFFFF8, .bra always 0xFFFFFFFF8),
    (word 0xE9 1 nd (S 0 3) ns ns, .brx true always (fs 3)),
    (wordK 0xEA 0 nd 12, .call always 12),
    (word 0xEB 0 nd ns ns ns, .ret always),
    (word 0xEC 0 nd ns ns ns, .exit always),
    (0xED076FEDFCDFCDFC, .yield always),
    (0xEE076FEDFCDFCDFC, .join always),
    (0xF007002000000001, .sysr always (dst 1) 1),
    (0xF1076FEDFC000001, .sysw always ab 1),
    (0xF2076FE000000007, .trap always 7),
    (0xF30F6FEDFCDFCDFC, .tret true always),
    (0xF4076FE000000000, .brk always 0),
    (0xF5076FEDFCDFCDFC, .evf always),
    (0xF6076FEDFCDFCDFC, .nop always)] = true := by decide +kernel

/-- R58: a guard. R346: the relay steps' 16 bytes. -/
theorem test_decode_guard_and_steps :
    decodeIn false (0xF6#8 ++ 0#5 ++ 0b0111#4 ++ nd ++ ns ++ ns ++ ns) = .ok (.nop ⟨3, true⟩) ∧
    decodeIn true (word 0x18 0 (D 2 9) (S 3 31) ns ns) = .ok (.mov always ⟨.w 9, false⟩ ⟨.b 31, false, false⟩) ∧
    decodeStep (0#48 ++ 8#16 ++ 7#16 ++ 6#16 ++ 5#16 ++ 0#12 ++ 1#4) = some (.rcv 5 6 7 8) ∧
    decodeStep (0#112 ++ 0#12 ++ 4#4) = some .wat ∧ decodeStep (0#112 ++ 0#12 ++ 6#4) = some .endr ∧
    decodeStep (0#48 ++ 8#16 ++ 7#16 ++ 0#32 ++ 0#12 ++ 3#4) = some (.cpys 7 8) := by decide +kernel

/-! ## Terms that are not well formed, one for each check, and the load errors (R70) -/

theorem test_wf_refuses :
    ([(true, Instr.nop ⟨0, false⟩), (false, .mov always ⟨.w 1, false⟩ (fs 3)), (false, .mov always ⟨.v 1, false⟩ ⟨.imm 1, true, false⟩),
      (false, .mov always ⟨.z 1, true⟩ (fs 3)), (true, .mov always ⟨.w 1, false⟩ (fs 3)), (false, .shl always (dst 9) (fs 3) (.imm 64)),
      (false, .iadd .s16 false always (dst 9) (fs 3) (.imm 1)), (false, .iabs .n32 false always (dst 9) (fs 3)),
      (false, .movk 14 always (dst 9) 0), (true, .plop .and always 1 7 7), (false, .plop .and always 7 1 1),
      (false, .fadd true false .rs always (dst 9) (fs 3) (fs 1) (fs 2)), (false, .fadd false false .rne always (dst 9) (fs 3) (fs 1) (fs 2)),
      (false, .ffma false false .rs always (dst 9) (fs 3) (fs 1) (fs 2)), (false, .fclass .f32 true always (dst 9) (fs 3)),
      (false, .cvt 0 0 .rne always (dst 9) (fs 3) ab), (false, .cvt 5 0 .rtz always (dst 9) (fs 3) ab),
      (false, .qnt 1 false always (dst 9) (fs 3) (fs 1) ab), (false, .dqt 6 always (dst 9) (fi 1) (fs 1) ab),
      (false, .tagw .reg always (dst 9) (fs 3) ⟨.p 1, false, false⟩), (false, .tagw (.fmt 0) always (dst 9) (fs 3) (fs 1)),
      (false, .lred .and .f32 always (dst 9) (fs 3)), (false, .scan .and .f32 always (dst 9) (fs 3)),
      (false, .sup 1 always (dst 5) (fs 6)), (false, .rgive always (fs 1)), (false, .rclaim always (some 7) (fi 1)),
      (false, .ldh always (dst 1) (.quad (fs 4))), (false, .ld 5 always (dst 9) 3 (fs 1) ab), (false, .ld 1 always (dst 9) 3 (fp 1) ab),
      (false, .red .xchg false always 3 (fs 1) (fs 2)), (false, .res 3 always 3 (fs 1) (fs 2)), (false, .cpy always 2 3 (fs 9)),
      (false, .cpyr .and .f32 always 2 3 (fs 8)), (false, .tfind 3 false always (dst 9) (fs 3)), (false, .lload always 0 3 (fi 0) (fs 5)),
      (false, .mwait false always (fs 4)), (false, .ast .rs false always 2 (fa 4) (fi 1)), (false, .amul 3 false always (dst 0) (fp 4) (fs 0)),
      (false, .barB false always ⟨.p 1, false, false⟩ ab), (false, .rpush always (fs 1) (fs 2)), (false, .qstat .free always (dst 9) (fi 3) (fs 2)),
      (false, .nmk .clr always (dst 0) (fi 5)), (false, .pslot always none 5 (fs 1) (fi 5)), (false, .ppost always (.reg (fi 5)) (fs 8) (fs 12)),
      (true, .pair 7 ⟨2, 4, ⟨true, 1⟩, ⟨false, 2⟩⟩ ⟨16, 9, ⟨false, 3⟩, ⟨false, 1⟩⟩), (false, .pair 2 ⟨2, 4, ⟨false, 1⟩, ⟨false, 2⟩⟩ ⟨16, 8, ⟨false, 3⟩, ⟨true, 1⟩⟩),
      (false, .sysr always ⟨.p 1, false⟩ 1), (false, .sysw always ⟨.laneid, false, false⟩ 1), (false, .brx false always (fp 1)),
      (false, .loop 0 3)].all fun x => !x.2.wf x.1) = true := by decide +kernel

/-- The error of a word that decodes to nothing. -/
def badOf (scl : Bool) (w : Dword) : Option LoadError := match decodeIn scl w with
  | .bad e => some e
  | .ok _ => none

theorem test_decode_refuses :
    badOf false (word 0x18 1 (D 0 9) (S 0 3) ns ns) = some .modReserved ∧ badOf false (word 0x18 0 (D 0 9) (S 0 3) (S 0 1) ns) = some .fieldReserved ∧
    badOf false (word 0x18 0 (D 0 9) (S 1 16) ns ns) = some .specReserved ∧ badOf false (word 0x18 0 (D 2 9) (S 0 3) ns ns) = some .scopeIllegal ∧
    badOf false (word 0x18 0 (D 6 7) (S 0 3) ns ns) = some .operandClass ∧ badOf false (0x1F#8 ++ 0#56) = some .opcReserved ∧
    decodeStep (7#128) = none := by decide +kernel

/-! ## Single steps; the expected values are worked out from the rules -/

/-- Lane register `r` of thread `l` after an instruction: its bits and its tag. -/
def after (s : State) (i : Instr) (l r : Nat) : Option TV := match exec i s with
  | .next t => ((t.threadOf wk l).bind (·.regs[r]?)).map (·.v)
  | _ => none

/-- R149: 7 + (−2) is 5; 0 − 1 in n32 wraps, and saturates to 0; the least s32 has no absolute value in s32. -/
theorem test_integer :
    after sA (.iadd .s32 false always (dst 40) (fs 1) (.src (fs 2))) 0 40 = some ⟨5, F.s32⟩ ∧
    after sA (.isub .n32 false always (dst 40) (fs 10) (.src (fs 9))) 7 40 = some ⟨0xFFFFFFFF, F.n32⟩ ∧
    after sA (.isub .n32 true always (dst 40) (fs 10) (.src (fs 9))) 7 40 = some ⟨0, F.n32⟩ ∧
    after (regs sA [(1, ⟨0x80000000, F.s32⟩)]) (.iabs .s32 false always (dst 40) (fs 1)) 0 40 = some ⟨0x80000000, F.s32⟩ ∧
    after (regs sA [(1, ⟨0x80000000, F.s32⟩)]) (.iabs .s32 true always (dst 40) (fs 1)) 0 40 = some ⟨0x7FFFFFFF, F.s32⟩ ∧
    after sA (.imulhi .s32 always (dst 40) (fs 1) (fs 2)) 0 40 = some ⟨0xFFFFFFFF, F.s32⟩ := by decide +kernel

/-- R150 to R152: shifts by 32 and more, rotation, and a field. -/
theorem test_bits :
    after sA (.sar always (dst 40) (fs 2) (.imm 32)) 0 40 = some ⟨0xFFFFFFFF, F.s32⟩ ∧
    after sA (.shl always (dst 40) (fs 1) (.imm 32)) 0 40 = some ⟨0, F.s32⟩ ∧
    after sA (.rot always (dst 40) (fs 6) (.imm 40)) 0 40 = some ⟨0x02030401, F.s8⟩ ∧
    after sA (.clz always (dst 40) (fs 10)) 0 40 = some ⟨32, F.n32⟩ ∧
    after sA (.brev always (dst 40) (fs 9)) 0 40 = some ⟨0x80000000, F.n32⟩ := by decide +kernel

/-- R161, R162, R166: 1.5 + (−2), 1.5 × (−2), 1 ÷ (−2), and −2 to s32. -/
theorem test_float :
    after sA (.fadd false false .rne always (dst 40) (fs 3) (fs 4) ab) 0 40 = some ⟨0xBF000000, F.f32⟩ ∧
    after sA (.fmul false false .rne always (dst 40) (fs 3) (fs 4) ab) 0 40 = some ⟨0xC0400000, F.f32⟩ ∧
    after sA (.frcp false false .rne always (dst 40) (fs 4)) 0 40 = some ⟨0xBF000000, F.f32⟩ ∧
    after sA (.cvt F.s32 0 .rne always (dst 40) (fs 4) ab) 0 40 = some ⟨0xFFFFFFFE, F.s32⟩ := by decide +kernel

/-- A guard that reads false leaves the lane as it was (R58). -/
theorem test_guard : after sA (.mov ⟨7, true⟩ (dst 1) (fs 3)) 0 1 = some ⟨7, F.s32⟩ := by decide +kernel

/-! ## Hypotheses of the arithmetic statements -/

theorem witness_IntegerArithmetic :
    sA.here hA ∧ hA.Reads always 1 (src 1) (val 1 1 7 F.s32) ∧ hA.Ints always .s32 (val 1 1 7 F.s32) (fun _ => [7]) ∧
      hA.ReadsI always (.src (src 2)) (val 2 2 0xFFFFFFFE F.s32) ∧ hA.Reads always 2 (src 2) (val 2 2 0xFFFFFFFE F.s32) ∧
      hA.Ints always .s32 (val 2 2 0xFFFFFFFE F.s32) (fun _ => [-2]) ∧ hA.Reads always 3 (src 1) (val 3 1 7 F.s32) ∧
      hA.Writable always (dst 9) [src 1, src 2] ∧ (hA.lanes always).length = 8 :=
  ⟨stands_A, by decide +kernel⟩

theorem witness_LogicShiftsAndFields :
    sA.here hA ∧ hA.Reads always 1 (src 1) (val 1 1 7 F.s32) ∧ hA.ReadsI always (.src (src 5)) (val 2 5 3 F.n32) ∧
      hA.Reads always 2 (src 5) (val 2 5 3 F.n32) ∧ hA.Reads always 3 (src 5) (val 3 5 3 F.n32) ∧
      hA.Reads always 0 (src 2) (val 0 2 0xFFFFFFFE F.s32) ∧ hA.Writable always (dst 2) [src 1, src 5] :=
  ⟨stands_A, by decide +kernel⟩

theorem witness_BitCounts :
    sA.here hA ∧ hA.Reads always 1 (src 2) (val 1 2 0xFFFFFFFE F.s32) ∧ hA.Writable always (dst 9) [src 2] :=
  ⟨stands_A, by decide +kernel⟩

theorem witness_CompareSelectMove :
    sA.here hA ∧ hA.Reads always 1 (src 1) (val 1 1 7 F.s32) ∧ hA.ReadsI always (.src (src 2)) (val 2 2 0xFFFFFFFE F.s32) ∧
      (∀ k ∈ hA.lanes always, (val 1 1 7 F.s32 k).int32 F.s32 = .ok 7 ∧ (val 2 2 0xFFFFFFFE F.s32 k).int32 F.s32 = .ok (-2)) ∧
      hA.Reads always 3 (src 5) (val 3 5 3 F.n32) ∧
      (∀ k ∈ hA.lanes always, rd k 1 (src 1) = .ok (val 1 1 7 F.s32 k) ∧ wrOk k (dst 9) [src 5, src 1] = .ok ()) ∧
      hA.Reads always 1 (srcSucc (src 1)) (val 1 2 0xFFFFFFFE F.s32) ∧
      (∀ k ∈ hA.lanes always, wrOk k (dst 9) = .ok () ∧ wrOk k (dstSucc (dst 9)) = .ok ()) ∧ ¬ ∃ z, (dst 9).spec = .z z := by
  refine ⟨stands_A, ?_⟩
  and_intros <;> decide +kernel

theorem witness_DotProductsAndPredicates :
    sA.here hA ∧ hA.Reads always 1 (src 6) (val 1 6 0x01020304 F.s8) ∧ hA.Reads always 2 (src 6) (val 2 6 0x01020304 F.s8) ∧
      hA.Reads always 3 (src 1) (val 3 1 7 F.s32) ∧
      (∀ k ∈ hA.lanes always, (val 3 1 7 F.s32 k).int32 F.s32 = .ok 7 ∧
        (val 1 6 0x01020304 F.s8 k).packed F.s8 = .ok [4, 3, 2, 1] ∧ (val 2 6 0x01020304 F.s8 k).packed F.s8 = .ok [4, 3, 2, 1]) ∧
      hA.Reads always 1 (src 7) (val 1 7 0x000000F1 F.s4) ∧
      (∀ k ∈ hA.lanes always, (val 1 7 0xF1 F.s4 k).packed F.s4 = .ok [1, -1, 0, 0, 0, 0, 0, 0]) ∧
      hA.Reads always 1 (pr 0) (got 1 (pr 0)) ∧ hA.Reads always 2 (pr 7) (got 2 (pr 7)) :=
  ⟨stands_A, by decide +kernel⟩

theorem witness_FloatArithmetic :
    sA.here hA ∧ hA.Reads always 1 (src 3) (val 1 3 0x3FC00000 F.f32) ∧
      hA.Floats always false false (val 1 3 0x3FC00000 F.f32) (fun _ => [.fin false 12582912 1 (-23)]) ∧
      hA.Reads always 2 (src 4) (val 2 4 0xC0000000 F.f32) ∧
      hA.Floats always false false (val 2 4 0xC0000000 F.f32) (fun _ => [.fin true 8388608 1 (-22)]) ∧
      hA.Reads always 3 (src 3) (val 3 3 0x3FC00000 F.f32) ∧ hA.Random always .rne (src 0) (fun _ => 0) ∧
      hA.Writable always (dst 9) [src 3, src 4, src 3] :=
  ⟨stands_A, by decide +kernel⟩

theorem witness_FloatTestsAndConversions :
    sA.here hA ∧ hA.Reads always 1 (src 3) (val 1 3 0x3FC00000 F.f32) ∧ hA.Reads always 2 (src 4) (val 2 4 0xC0000000 F.f32) ∧
      (∀ k ∈ hA.lanes always, (val 1 3 0x3FC00000 F.f32 k).f32 = .ok (.fin false 12582912 1 (-23)) ∧
        (val 2 4 0xC0000000 F.f32 k).f32 = .ok (.fin true 8388608 1 (-22))) ∧
      hA.Reads always 1 (src 8) (val 1 8 0x3C00BC00 F.f16) ∧ srcFmtCode .f16 = F.f16 ∧ elemCount F.f16 = 2 ∧
      hA.Reads always 0 (src 6) (val 0 6 0x01020304 F.s8) ∧ hA.Reads always 3 (src 5) (val 3 5 3 F.n32) ∧
      (3 : Word).toNat < elemCount F.s8 ∧ hA.Reads always 1 (src 6) (val 1 6 0x01020304 F.s8) ∧
      hA.Reads always 2 (src 3) (val 2 3 0x3FC00000 F.f32) ∧
      hA.Reads always 1 zeroS (got 1 zeroS) ∧ (∀ k ∈ hA.lanes always, (got 1 zeroS k).tag = .zeroSp) :=
  ⟨stands_A, by decide +kernel⟩

/-- A tile is bound to accumulator 0, written and done. -/
def sT : State := posSet sA fun p =>
  { p with acc := p.acc.set 0 ⟨some ⟨1, 0x1101, List.replicate 1024 0, 0, none, [], none, []⟩, none⟩ }
def hT : Here := (stands sT).get (by decide +kernel)
theorem stands_T : sT.here hT := here_of (by decide +kernel)
def acc0 : Src := ⟨.a 0, false, false⟩

theorem witness_ElementsTagsAndPairs :
    sA.here hA ∧ hA.Reads always 1 (src 8) (val 1 8 0x3C00BC00 F.f16) ∧ hA.Reads always 2 (src 8) (val 2 8 0x3C00BC00 F.f16) ∧
      hA.Reads always 3 (src 9) (val 3 9 1 F.n32) ∧ hA.Reads always 2 (src 9) (val 2 9 1 F.n32) ∧ 1 < elemCount F.f16 ∧
      (1 : Word).toNat < elemCount F.f16 ∧ (1 : Word).toNat < 14 ∧ hA.c.warp.busy.contains (16 + 0) = false ∧
      hA.Reads always 1 (halfSrc ⟨false, 3⟩) (val 1 3 0x3FC00000 F.f32) ∧
      hA.Reads always 2 (halfSrc ⟨false, 4⟩) (val 2 4 0xC0000000 F.f32) ∧
      hA.Reads always 1 (halfSrc ⟨false, 1⟩) (val 1 1 7 F.s32) ∧
      hA.Reads always 2 (halfSrc ⟨false, 2⟩) (val 2 2 0xFFFFFFFE F.s32) ∧
      evalHalf 0 (val 1 3 0x3FC00000 F.f32 hA.c) (val 2 4 0xC0000000 F.f32 hA.c) = .ok (⟨0xBF000000, F.f32⟩, {}) ∧
      evalHalf 16 (val 1 1 7 F.s32 hA.c) (val 2 2 0xFFFFFFFE F.s32 hA.c) = .ok (⟨5, F.s32⟩, {}) ∧
      hA.Writable always (dst 9) [] ∧ hA.Writable always (dst 10) [] :=
  ⟨stands_A, by decide +kernel⟩

theorem witness_ElementsTagsAndPairs_tile :
    sT.here hT ∧ ((hT.c.pos.accAt 0).cur.map (·.pending)) = some 0 ∧ hT.lanes always ≠ [] ∧ hT.Writable always (dst 9) [acc0] :=
  ⟨stands_T, by decide +kernel⟩

theorem witness_CrossLane :
    sA.here hA ∧ hA.whole ∧ hA.Reads always 1 (src 1) (val 1 1 7 F.s32) ∧ hA.Reads always 2 (src 5) (val 2 5 3 F.n32) ∧
      hA.Reads always 3 (src 2) (val 3 2 0xFFFFFFFE F.s32) ∧ hA.Writable always (dst 9) [src 1, src 5, src 2] ∧
      segSize .whole hA.c.width = 8 ∧
      (∀ k ∈ hA.lanes always, ∀ l ∈ hA.lanes always, l.lane = 8 * (k.lane / 8) + 3 →
        (⟨7, F.s32⟩ : TV) = (val 1 1 7 F.s32 l).tv) ∧
      (∀ k ∈ hA.lanes always, ∃ l ∈ hA.lanes always, l.lane = 8 * (k.lane / 8) + 3) ∧
      (∀ k ∈ hA.lanes always, ∀ j < 32, (0xFF : Word).getLsbD j =
        (hA.lanes always).any fun l => l.lane == 32 * 0 + j && (val 1 1 7 F.s32 l).bits != 0) ∧
      (∀ k ∈ hA.lanes always, (val 1 1 7 F.s32 k).widen F.s32 = .ok 7) ∧
      reduceTree (redStep .add .s32) 3 (hA.byLane always 0 8 fun _ => 7) = (some 56, {}) ∧
      scanSteps (scanOpStep .add .s32) 3 1 (hA.byLane always 0 8 fun _ => 7)
        = ([some 7, some 14, some 21, some 28, some 35, some 42, some 49, some 56], {}) ∧ hA.lanes always ≠ [] :=
  ⟨stands_A, by decide +kernel⟩

theorem witness_UpwardWrites :
    sA.here hA ∧ hA.whole ∧ hA.Reads always 1 (src 1) (val 1 1 7 F.s32) ∧ hA.Writable always ⟨.w 0, false⟩ [src 1] ∧
      hA.Writable always ⟨.b 0, false⟩ [src 1] ∧ hA.Writable always ⟨.z 0, false⟩ [src 1] ∧
      hA.Writable always ⟨.x 0, false⟩ [src 1] ∧ hA.lanes always ≠ [] ∧
      hA.c.warp.recs = [] ∧ (∀ k ∈ hA.lanes always, k.lane < 128 ∧ (val 1 1 7 F.s32 k).widen F.s32 = .ok 7) ∧
      reduceTree (redStep .max .s32) 3 (hA.byLane always 0 8 fun _ => 7) = (some 7, {}) :=
  ⟨stands_A, by decide +kernel⟩

/-- Each thread has called from clause 0. -/
def sC : State := sA.modLanes wk (List.range 8) fun t => { t with calls := [0] }
def hC : Here := (stands sC).get (by decide +kernel)
theorem stands_C : sC.here hC := here_of (by decide +kernel)

theorem witness_ControlFlow :
    (sA.here hA ∧ hA.whole ∧ (∀ k ∈ hA.threads always, k.thread = some (th k)) ∧ hA.c.warp.recs.length < 16 ∧
      hA.Reads always 1 (src 10) (val 1 10 0 F.n32) ∧
      (∀ k ∈ hA.threads always, rd k 1 (src 10) = .ok (val 1 10 0 F.n32 k) ∧ (sA.codeOfLane k).any (·.enters 0) = true ∧
        (th k).calls.length < 32) ∧ (hA.threads always ≠ []) ∧ sA.det? hA.c.pos = false ∧
      hA.c.warp.innermost hA.a.arm = none ∧ hA.epochs ∧ hA.c.warp.epoch + 1 + 2 < 2 ^ 48) ∧
    (sC.here hC ∧ hC.whole ∧ ∀ k ∈ hC.threads always, (k.thread.map (·.calls)) = some [0] ∧
      (sC.codeOfLane k).any (·.enters 0) = true) :=
  ⟨⟨stands_A, by decide +kernel⟩, stands_C, by decide +kernel⟩

/-- The grid is deterministic. -/
def det (s : State) : State := s.modCode 0 1 fun x => { x with kernels := x.kernels.map fun k => { k with det := true } }
def sD : State := det sA
def hD : Here := (stands sD).get (by decide +kernel)
theorem stands_D : sD.here hD := here_of (by decide +kernel)

/-- The packet's arm is one of an open record. -/
def sR : State := warpSet sA fun w => { w with arms := w.arms.map fun a => { a with inRec := some 7 }, recs := [⟨7, 0, false⟩] }
def hR : Here := (stands sR).get (by decide +kernel)
theorem stands_R : sR.here hR := here_of (by decide +kernel)

theorem witness_ControlFlow_join :
    (sD.here hD ∧ sD.det? hD.c.pos = true ∧ hD.threads always ≠ []) ∧
    (sR.here hR ∧ hR.whole ∧ hR.epochs ∧ hR.c.warp.innermost hR.a.arm = some ⟨7, 0, false⟩ ∧ hR.threads guardAlways ≠ [] ∧
      ∀ k ∈ hR.threads guardAlways, k.thread.isSome = true) :=
  ⟨⟨stands_D, by decide +kernel⟩, stands_R, by decide +kernel⟩

/-- TRAPCFG.BRK is set, and the stage has a handler. -/
def sB : State := (sA.modCtx 0 fun c => { c with trapcfg := 1 }).modCode 0 1 fun x =>
  { x with kernels := x.kernels.map fun k => { k with stages := k.stages.map fun c => { c with handler := some 0 } } }
def hB : Here := (stands sB).get (by decide +kernel)
theorem stands_B : sB.here hB := here_of (by decide +kernel)

theorem witness_TrapInstructions :
    (sA.here hA ∧ ((sA.ctxOf hA.c.pos.ctx).map (·.trapcfg)) = some 0 ∧ ∀ k ∈ hA.lanes always, (k.seen 0x027 0).getLsbD 0 = false) ∧
    (sB.here hB ∧ ((sB.ctxOf hB.c.pos.ctx).map (·.trapcfg)) = some 1 ∧ ∀ k ∈ hB.lanes always, (k.seen 0x027 1).getLsbD 0 = true ∧
      k.thread.any (·.stale == []) = true) :=
  ⟨⟨stands_A, by decide +kernel⟩, stands_B, by decide +kernel⟩

/-- Lane 0 meets a cause that its handler takes, and lane 2 a fatal one. -/
def traps2 : List (Nat × Trap) := [(0, { cause := .softTrap }), (2, { cause := .machineCheck })]

theorem witness_TrapEntry :
    (sB.posOf 1).isSome = true ∧ (sB.warpOf wk).isSome = true ∧
    (((sB.posOf 1).bind (sB.stage? · 0)).bind (·.handler)) = some 0 ∧ (((sA.posOf 1).bind (sA.stage? · 0)).bind (·.handler)) = none ∧
    Cause.softTrap.fatal ((sB.posOf 1).any sB.det?) = false ∧ Cause.machineCheck.fatal false = true ∧
    ((sB.threadOf wk 0).map (·.inHandler)) = some false ∧ ((sB.warpOf wk).map (·.recs.length)) = some 0 ∧
    [(0, ({ cause := .softTrap } : Trap))].lookup 0 = some { cause := .softTrap } ∧ (traps2.map (·.1)).Nodup ∧
    (2, ({ cause := .machineCheck } : Trap)) ∈ traps2 ∧ (∀ y ∈ traps2, y.1 < 2 → y.2.cause.fatal false = false) := by decide +kernel

/-- Every thread is in its handler. -/
def sH : State := sB.modLanes wk (List.range 8) fun t => { t with tstate := 0x80 }
def hH : Here := (stands sH).get (by decide +kernel)
theorem stands_H : sH.here hH := here_of (by decide +kernel)

theorem witness_SystemRegisters :
    (sA.here hA ∧ (∀ k ∈ hA.lanes always, (sA.flagged hA.c.wk 0x001).sysRead k 0x001 = some 0) ∧ hA.Writable always (dst 9) [] ∧
      hA.Reads always 1 (src 10) (val 1 10 0 F.n32) ∧ (regInfo 0x001).map (·.writable) = some true ∧ hA.whole ∧
      hA.epochs ∧ hA.lanes always ≠ [] ∧ sA.partyQuiet hA.c.pos.core (partyOf hA.c.warp hA.a.arm) = true) ∧
    (sH.here hH ∧ hH.whole ∧ hH.epochs ∧ (sH.codeOfLane hH.c).isSome = true ∧
      ∀ k ∈ hH.threads always, (k.thread.map (·.inHandler)) = some true) :=
  ⟨⟨stands_A, by decide +kernel⟩, stands_H, by decide +kernel⟩

/-! ## Hypotheses of the memory statements -/

/-- A handle record (R207): object, stride, extent, es, and whether it is of the stash. -/
def record (obj stride extent es : Nat) (stash : Bool) : BitVec 128 :=
  BitVec.ofNat 128 (obj + stride * 2 ^ 64 + extent * 2 ^ 84 + es * 2 ^ 116 + (if stash then 2 ^ 127 else 0))
def recG : BitVec 128 := record 5 4 1024 0 false
/-- Elements of 64 bytes. -/
def recL : BitVec 128 := record 5 64 64 0 false
def recS : BitVec 128 := record 0 4 1024 0 true

/-- Object 5 of context 0: one page, writable. -/
def obj5 : Obj := ⟨5, false, true, false, 0, [⟨0, true, true, 0, 1, 16⟩], 65536⟩

/-- h0 and h2 name object 5, h1 the stash; p0 is set in lane 0 alone. -/
def sM : State := (warpSet (sA.modCtx 0 fun c => { c with objs := [obj5] }) fun w =>
  { w with h := ((w.h.set 0 recG).set 1 recS).set 2 recL }).modLanes wk [0] fun t => { t with preds := t.preds.set 0 true }
def hM : Here := (stands sM).get (by decide +kernel)
theorem stands_M : sM.here hM := here_of (by decide +kernel)
def g0 : Guard := ⟨0, false⟩
def k0 : RCtx := (hM.lanes g0).headD hM.c
def v0 : Viewer := (sM.viewer wk 0).get (by decide +kernel)
/-- The stage's stash in bytes, and the request of one access. -/
def reach0 (r : BitVec 128) (i n : Nat) (wr : Bool) (kind : AccKind) : Checked :=
  sM.reach v0 k0.pos k0.block (sM.stashLimit k0) { handle := r, i := i, o := 0, n := n, align := n, wr := wr } kind

theorem witness_LoadsAndStores :
    sM.here hM ∧ (∀ k ∈ hM.lanes g0, handleOf k 0 = .ok recG ∧ rdNat k 2 (src 5) = .ok 3 ∧ rdNat k 3 (src 10) = .ok 0) ∧
      hM.Writable g0 (fileDst (dst 9)) [] ∧ rd k0 0 (src 1) = .ok (val 0 1 7 F.s32 k0) ∧
      (val 0 1 7 F.s32 k0).widen F.s32 = .ok 7 ∧ hM.lanes g0 = [k0] ∧ sM.viewer k0.wk k0.arm = some v0 ∧
      reach0 recG 3 4 false .read = .ok (.glob 5 12) ∧ reach0 recG 3 4 true .write = .ok (.glob 5 12) :=
  ⟨stands_M, by decide +kernel⟩

theorem witness_Atomics :
    (sM.here hM ∧ hM.epochs ∧
      (∀ k ∈ hM.lanes g0, handleOf k 0 = .ok recG ∧ rdNat k 2 (src 5) = .ok 3 ∧ rdOperand k .addS32 (src 1) = .ok [⟨7, F.s32⟩]) ∧
      hM.Writable g0 (fileDst (dst 9)) [] ∧ hM.lanes g0 = [k0] ∧
      reach0 recG 3 4 true (.atom false) = .ok (.glob 5 12) ∧ reach0 recG 3 4 true (.red false .addS32) = .ok (.glob 5 12)) ∧
    (sM.posOf k0.pos.id = some k0.pos ∧
      ((sM.atomWord v0 k0.pos (.stash 64) .addS32 false 7 0).1, (sM.atomWord v0 k0.pos (.stash 64) .addS32 false 7 0).2.1)
        = (0, {})) :=
  ⟨⟨stands_M, by decide +kernel⟩, by decide +kernel⟩

/-- A store of another warp to the same word, which nothing orders before the accesses of this one. -/
def late12 : PStore := ⟨50, ⟨9, 0, 0⟩, 0, 0, ⟨2, 0, 0⟩, 3, 2 ^ 20 + 12, [1, 2, 3, 4], none, 1, [], [], 0, none⟩

theorem witness_MemoryBytes :
    ((sM.ctxOf k0.pos.ctx).bind (·.objOf 5)).bind (·.translate 12 true) = some (2 ^ 20 + 12) ∧
      ((sM.ctxOf k0.pos.ctx).bind (·.objOf 5)).bind (·.translate 12 false) = some (2 ^ 20 + 12) ∧
      sM.linesMet k0.pos.ctx 5 12 4 = [] ∧ sM.c.pend = [] ∧ sM.keyRead (64 * ((2 ^ 20 + 12) / 64)) = true ∧
      (2 ^ 20 + 12) / 64 = (2 ^ 20 + 12 + 4 - 1) / 64 ∧ v0.follows late12 = false ∧ before v0.front late12.owner late12.epoch = false ∧
      late12.overlaps (2 ^ 20 + 12) 4 = true ∧ before [(late12.owner, late12.epoch)] late12.owner late12.epoch = true ∧ late12.red = none ∧
      (sM.loadAt v0 k0.pos recG (.glob 5 12) 4).1 = [0, 0, 0, 0] ∧ (sM.useTlb k0.pos (.glob 5 12)).2 = 0 ∧ sM.posOf k0.pos.id = some k0.pos ∧
      k0.pos.windowAt 64 = none := by decide +kernel

/-- `s` with v12 to v15 set to the words of a quad. -/
def quad (s : State) (b : BitVec 128) : State := regs s ((List.range 4).map fun i => (12 + i, ⟨b.extractLsb' (32 * i) 32, F.raw32⟩))
def sQ : State := quad sM recG
def hQ : Here := (stands sQ).get (by decide +kernel)
theorem stands_Q : sQ.here hQ := here_of (by decide +kernel)

theorem witness_HandleLoadsFencesHints :
    (sM.here hM ∧ hM.lanes g0 = [k0] ∧ sM.viewer k0.wk k0.arm = some v0 ∧ sM.loading v0 = false ∧
      ∀ k ∈ hM.lanes g0, handleOf k 0 = .ok recG ∧ rdNat k 2 (src 5) = .ok 3 ∧ rdNat k 3 (src 10) = .ok 0) ∧
    (sQ.here hQ ∧ hQ.whole ∧ hQ.lanes always ≠ [] ∧ (hQ.c.warp.busy.contains (handleNo (.h 3)) = false) ∧
      (∀ l ∈ hQ.lanes always, rdQuad l 1 (src 12) = .ok recG) ∧ badRecord (handleNo (.h 3)) recG = false) ∧
    (hM.whole ∧ k0.warp.busy.contains (handleNo (.h 3)) = false ∧
      rdAcc k0 2 (src 10) (src 10) [] = .ok ⟨recL, 0, 0, []⟩ ∧ reach0 recL 0 16 false .read = .ok (.glob 5 0) ∧
      badRecord (handleNo (.h 3)) (BitVec.ofNat 128 (leNat (sM.loadAt v0 k0.pos recL (.glob 5 0) 16).1)) = false) :=
  ⟨⟨stands_M, by decide +kernel⟩, ⟨stands_Q, by decide +kernel⟩, by decide +kernel⟩

/-! ## Hypotheses of the results and copy statements -/

/-- A packet of two words. -/
def sP : State := sA.modCore 0 fun c => { c with slots := c.slots.map fun p => p.map fun p => { p with cnt := 2 } }
def hP : Here := (stands sP).get (by decide +kernel)
theorem stands_P : sP.here hP := here_of (by decide +kernel)

theorem witness_ResultsFrame :
    sP.here hP ∧ hP.p.idx + 1 < hP.p.cnt ∧ (sP.warpOf hP.a.wk).isSome = true ∧ hP.c.warp.recs = [] ∧
      (∀ o ∈ hP.each always (.one (dst 9) [src 1] (⟨5, F.s32⟩, {})), o.2.leave = none) :=
  ⟨stands_P, by decide +kernel⟩

def byp1 : Thread := { th0 with byp := [⟨.v 1, none⟩, ⟨.v 1, some ⟨9, F.n32⟩⟩] }
def holds (st : RegSt) : Thread := { th0 with regs := th0.regs.set 1 ⟨st, ⟨7, F.s32⟩⟩ }

theorem witness_RegistersReadAndWritten :
    (sP.here hP ∧ hP.p.scl = false ∧ hP.p.idx + 1 < hP.p.cnt ∧ (sP.threadOf hP.a.wk 0).isSome = true ∧
      (hP.each always (.one (dst 9) [src 1] (⟨5, F.s32⟩, {}))).lookup 0 = some (.one (dst 9) [src 1] (⟨5, F.s32⟩, {})) ∧
      (9 : BitVec 7).toNat < th0.regs.length ∧ (1 : BitVec 3).toNat < th0.preds.length) ∧
    (byp1.byp.find? (fun e => e.dst == .v 1 && e.v.isSome) = some ⟨.v 1, some ⟨9, F.n32⟩⟩ ∧
      th0.byp.find? (fun e => e.dst == .v 1 && e.v.isSome) = none ∧
      (∀ st : RegSt, ((holds st).regs[1]?).map (·.st) = some st) ∧ th0.logOf 1 = none ∧
      { th0 with fault := [(4, [1])] }.logOf 1 = some 4 ∧
      { th0 with regs := th0.regs.take 1 }.regs.length ≤ (1 : BitVec 7).toNat) :=
  ⟨⟨stands_P, by decide +kernel⟩, by decide +kernel, by decide +kernel, fun st => by cases st <;> decide +kernel,
    by decide +kernel⟩

/-- Two words from element 3 of h0 to element 0 of h1, on tag 3. -/
def cpyQ : BitVec 128 := BitVec.ofNat 128 (0 + 3 * 2 ^ 32 + 2 * 2 ^ 64 + 4 * 2 ^ 96 + 3 * 2 ^ 112)
def sE : State := quad sM cpyQ
def hE : Here := (stands sE).get (by decide +kernel)
theorem stands_E : sE.here hE := here_of (by decide +kernel)
def kE : RCtx := (hE.lanes g0).headD hE.c
def vE : Viewer := (sE.viewer wk 0).get (by decide +kernel)

theorem witness_CopyInstructions :
    (sE.here hE ∧ hE.epochs ∧ hE.lanes g0 = [kE] ∧ (∀ k ∈ hE.lanes g0, rdCopy k 1 0 (src 12) = .ok (recS, recG, cpyQ)) ∧
      sE.viewer kE.wk kE.arm = some vE ∧ sE.copyCheck kE recS recG cpyQ none = none ∧ sE.copyCheck kE recS recG cpyQ (some (.add, .s32)) = none ∧
      (sE.copiesOf kE.pos.core).length < 32 ∧ kE.pos.tagsTake [3] = true ∧ sE.posOf kE.pos.id = some kE.pos ∧
      sE.racesAt vE kE.pos recG (recBytes recG 3 2 4) .read = none ∧ sE.racesAt vE kE.pos recS (recBytes recS 0 2 4) .write = none ∧
      kE.pos.tags[3]? = some CTag.init ∧ sE.c.pend = [] ∧ sE.det? hE.c.pos = false) ∧
    (sE.here hE ∧ (∀ k ∈ hE.lanes g0, rdMask sE k false (src 5) = .ok [0, 1] ∧ (∀ t ∈ [0, 1], kE.pos.tagDone t = true) ∧
      kE.pos.tge [0, 1] = none ∧ rdCount k (src 5) = .ok 3 ∧ 3 < sE.stageTags k) ∧ hE.Writable g0 (dst 9) [src 5]) :=
  ⟨⟨stands_E, by decide +kernel⟩, stands_E, by decide +kernel⟩

/-- The copy is in flight, to the stash from memory; and one within the stash. -/
def sF : State := (sE.issueOp vE kE [3] (.copy recS recG cpyQ none) 1 false)
def oF : EngOp := (sF.c.ops.head?).get (by decide +kernel)
def pF : Position := (sF.posOf 1).get (by decide +kernel)
def cpy1 : BitVec 128 := BitVec.ofNat 128 (0 + 3 * 2 ^ 32 + 1 * 2 ^ 64 + 4 * 2 ^ 96 + 3 * 2 ^ 112)

theorem witness_CopiesComplete :
    (sF.opOf oF.id = some oF ∧ oF.kind = .copy recS recG cpyQ none ∧ sF.posOf oF.pos = some pF ∧ sF.copiesOf oF.core = oF :: [] ∧
      sF.opWaits oF = false ∧ firstBad sF pF recS recG cpyQ (cpyCount cpyQ) 0 = (2, none) ∧ oF.tags = [3] ∧
      (pF.tags[3]?).map (·.count) = some 1) ∧
    (pF.id = oF.pos ∧ pF.unfenced = [] ∧ (∀ w ∈ pF.wins, w = none) ∧ recStash recS = true ∧ recSwz recS = 0 ∧
      recInBounds recS (cpySrce cpy1) 0 (cpyBytes cpy1) = true ∧ recInBounds recS (cpyDste cpy1) 0 (cpyBytes cpy1) = true ∧
      cpyBytes cpy1 % 4 = 0 ∧ cpyBytes cpy1 % 2 = 0) := by
  decide +kernel

/-- v12 holds the descriptor of a window of one line at stash byte 128, v10 = 0 the element of h2. -/
def winD : BitVec 128 := BitVec.ofNat 128 (128 + 64 * 2 ^ 20)
def sW : State := quad sM winD
def hW : Here := (stands sW).get (by decide +kernel)
theorem stands_W : sW.here hW := here_of (by decide +kernel)
def kW : RCtx := (hW.lanes g0).headD hW.c
def vW : Viewer := (sW.viewer wk 0).get (by decide +kernel)
/-- The window is mapped, its line wanted; and the line is Dirty. -/
def sX : State := ((sW.mapWindow kW 2 (winD.setWidth 64) recL 0).modPos 1 (·.modWin 2 fun w => { w with want := [(0, vW.party, false)] }))
def sY : State := ((sW.mapWindow kW 2 (winD.setWidth 64) recL 0).modPos 1 (·.modWin 2 fun w => { w with lines := [(0, .dirty)] }))
def hY : Here := (stands sY).get (by decide +kernel)
theorem stands_Y : sY.here hY := here_of (by decide +kernel)
def kY : RCtx := (hY.lanes g0).headD hY.c
def vY : Viewer := (sY.viewer wk 0).get (by decide +kernel)
def pX : Position := (sX.posOf 1).get (by decide +kernel)
def wX : Window := ((pX.wins[2]?).getD none).get (by decide +kernel)
def wY : Window := { wX with want := [], lines := [(0, .dirty)] }
/-- An `sflush` of that line is in flight. -/
def sZ : State := sY.issueOp vY kY [1] (.sflush 2 [0]) 1 false
def oZ : EngOp := (sZ.c.ops.head?).get (by decide +kernel)
def pZ : Position := (sZ.posOf 1).get (by decide +kernel)

theorem witness_Windows :
    (sW.here hW ∧ hW.lanes g0 = [kW] ∧
      (∀ k ∈ hW.lanes g0, rdRaws k 1 (src 12) 2 = .ok [128 + 64 * 2 ^ 20, 0] ∧ handleOf k 2 = .ok recL ∧ rdNat k 3 (src 10) = .ok 0) ∧
      sW.smapCheck kW 2 (winD.setWidth 64) recL 0 = none ∧ (sW.unmapEnd kW 2).isNone = true ∧ sW.posOf kW.pos.id = some kW.pos) ∧
    (sY.here hY ∧ hY.epochs ∧ hY.lanes g0 = [kY] ∧ (sY.unmapEnd kY 2).isNone = true ∧ sY.posOf kY.pos.id = some kY.pos ∧
      (kY.pos.wins[2]?).getD none = some wY ∧ sY.windowLent kY.pos wY = false ∧ kY.pos.tagsTake [1] = true ∧
      (∀ k ∈ hY.lanes g0, rdCount k (src 9) = .ok 1 ∧ 1 < sY.stageTags k)) ∧
    (sX.posOf pX.id = some pX ∧ pX.wins[2]? = some (some wX) ∧ (wX.want.any fun x => x.1 == 0) = true ∧ wX.st 0 = none ∧
      sX.engMem pX.ctx wX.obj (wX.goff + 64 * 0) false false = .ok ∧ (sX.winPa pX wX 0 false) = some (2 ^ 20) ∧ sX.c.pend = [] ∧
      sX.linesMet pX.ctx wX.obj (wX.goff + 64 * 0) 64 = []) ∧
    (sZ.opOf oZ.id = some oZ ∧ oZ.kind = .sflush 2 [0] ∧ sZ.posOf oZ.pos = some pZ ∧ sZ.opWaits oZ = false ∧
      (pZ.wins[2]?).getD none = some wY ∧ pZ.id = oZ.pos ∧ sZ.lineMeets pZ wY 0 = .ok ∧ wY.st 0 = some .dirty ∧
      sZ.winPa pZ wY 0 true = some (2 ^ 20) ∧ sZ.c.pend = [] ∧ 2 ^ 20 / 64 = (2 ^ 20 + 63) / 64 ∧
      sZ.keyRead (64 * (2 ^ 20 / 64)) = true) :=
  ⟨⟨stands_W, by decide +kernel⟩, ⟨stands_Y, by decide +kernel⟩, by decide +kernel, by decide +kernel⟩

/-! ## Hypotheses of the matrix statements -/

/-- A record of m-handles: 2 rows of 4 f32 elements, 16 bytes apart, from stash byte 128. -/
def mrec : BitVec 128 := BitVec.ofNat 128 (128 + 16 * 2 ^ 24 + 2 * 2 ^ 40 + 4 * 2 ^ 64 + 1 * 2 ^ 80)
/-- A stash record of 16-byte elements. -/
def recP : BitVec 128 := record 0 16 64 0 true
/-- Load 2 columns of 4 f32 elements on tag 2. -/
def ldD : BitVec 128 := BitVec.ofNat 128 (1 + 3 * 2 ^ 16 + 1 * 2 ^ 29 + 2 * 2 ^ 37)
/-- A parameter block: A is m0, M = N = 2, K = 4, accumulator 0 anew, Loft slot 0, tag 5. -/
def pblk : BitVec 512 := BitVec.ofNat 512 (1 * 2 ^ 88 + 1 * 2 ^ 96 + 4 * 2 ^ 104 + 2 ^ 124 + 5 * 2 ^ 144)
def tile0 : Tile := ⟨1, 0x1001, 0x3FC00000 :: List.replicate 1023 0, 0, none, [], none, []⟩
def col0 : List Byte := [0, 0, 0x80, 0x3F, 0, 0, 0x80, 0x3F, 0, 0, 0x80, 0x3F, 0, 0, 0x80, 0x3F]

/-- Accumulator 0 holds a tile, Loft slot 0 two columns of ones; the stash has a block at 256 and a record at 320. -/
def sG : State := posSet (warpSet (quad sM ldD) fun w => { w with h := w.h.set 3 recP, m := w.m.set 0 mrec }) fun p => { p with
  acc := p.acc.set 0 ⟨some tile0, none⟩, loft := p.loft.set 0 ⟨1, 4, 2, .full, [col0, col0], [], none, []⟩,
  stash := memWrite (memWrite (memWrite p.stash 128 (col0 ++ col0)) 256 (leBytes 64 pblk.toNat)) 320
    (leBytes 64 ((algPredefined[1]?).getD 0).toNat) }
def sG1 : State := regs sG [(16, ⟨256, F.n32⟩), (17, ⟨320, F.n32⟩)]
def hG : Here := (stands sG1).get (by decide +kernel)
theorem stands_G : sG1.here hG := here_of (by decide +kernel)
def kG : RCtx := (hG.lanes g0).headD hG.c
def vG : Viewer := (sG1.viewer wk 0).get (by decide +kernel)
/-- A load of Loft slot 1, of a tile, and a store of one are in flight. -/
def sG2 : State := sG1.issueOp vG kG [2] (.lload 1 recP 8 (ldD.setWidth 64) 1) 1 false
def oG2 : EngOp := (sG2.c.ops.head?).get (by decide +kernel)
def sG3 : State := (posSet sG1 fun p => { p with acc := p.acc.set 0 ⟨some { tile0 with pending := 1 }, none⟩ }).issueOp vG kG [2] (.ald 0 1 mrec 1) 1 true
def oG3 : EngOp := (sG3.c.ops.head?).get (by decide +kernel)
def sG4 : State := sG1.issueOp vG kG [2] (.ast mrec .rne 1 tile0.cells) 1 false
def oG4 : EngOp := (sG4.c.ops.head?).get (by decide +kernel)
def posG (s : State) : Position := (s.posOf 1).getD kG.pos
def errOf {ε α : Type} (x : Except ε α) : Bool := match x with
  | .ok _ => false
  | .error _ => true

theorem witness_LoftLoadsAndTileTransfers :
    (sG1.here hG ∧ hG.epochs ∧ hG.lanes g0 = [kG] ∧
      (∀ k ∈ hG.lanes g0, handleOf k 3 = .ok recP ∧ rdNat k 2 (src 5) = .ok 3 ∧ rdRaws k 3 (src 12) 2 = .ok [0x20030001, 0x40] ∧
        mhandleOf k 0 = .ok mrec ∧ rdNat k 2 (src 5) = .ok 3) ∧
      sG1.viewer kG.wk kG.arm = some vG ∧ sG1.posOf kG.pos.id = some kG.pos ∧ errOf (sG1.lloadCheck kG recP 3 (ldD.setWidth 64) (src 12)) = false ∧
      (kG.pos.loftAt 1).st ≠ .loading ∧ sG1.slotRead 1 1 = false ∧ kG.pos.tagsTake [2] = true ∧ (kG.pos.loftAt 1).clash vG .write = none ∧
      errOf (sG1.tileCheck kG mrec 3 1 (.m 0)) = false ∧ errOf (sG1.tileCheck kG mrec 3 0 (.m 0)) = false ∧
      sG1.meetAcc kG.pos 0 true 1 ≠ .wait ∧ (sG1.detFence vG kG.lane).isSome = true) ∧
    (sG2.opOf oG2.id = some oG2 ∧ oG2.kind = .lload 1 recP 8 (ldD.setWidth 64) 1 ∧ oG2.pos = (posG sG2).id ∧ sG2.opWaits oG2 = false ∧
      recStash recP = true ∧ (posG sG2).unfenced = [] ∧ 1 < (posG sG2).loft.length) ∧
    (sG3.opOf oG3.id = some oG3 ∧ oG3.kind = .ald 0 1 mrec 1 ∧ sG3.opWaits oG3 = false ∧ sG3.tileTurn oG3 = true ∧
      sG3.stashMeets (posG sG3) (tileBytes mrec 1 0 2 0 4) false = .ok ∧ sG3.posOf oG3.pos = some (posG sG3)) ∧
    (sG4.opOf oG4.id = some oG4 ∧ oG4.kind = .ast mrec .rne 1 tile0.cells ∧ sG4.opWaits oG4 = false ∧
      sG4.stashMeets (posG sG4) (((astElems mrec .rne 1 tile0.cells).flatMap fun e => elemBytes 32 e.1 e.2.1).eraseDups) true = .ok ∧
      sG4.posOf oG4.pos = some (posG sG4) ∧
      (∀ b ∈ ((astElems mrec .rne 1 tile0.cells).flatMap fun e => elemBytes 32 e.1 e.2.1).eraseDups, (posG sG4).windowAt b = none) ∧
      (astElems mrec .rne 1 tile0.cells).length = 8 ∧ ∀ e ∈ astElems mrec .rne 1 tile0.cells, ∀ x ∈ astElems mrec .rne 1 tile0.cells,
        8 * x.1 + 32 * x.2.1 < 8 * e.1 + 32 * e.2.1 + 32 → 8 * e.1 + 32 * e.2.1 < 8 * x.1 + 32 * x.2.1 + 32 → x = e) :=
  ⟨⟨stands_G, by decide +kernel⟩, by decide +kernel, by decide +kernel, by decide +kernel⟩

theorem witness_Tiles :
    sG1.here hG ∧ hG.epochs ∧ hG.lanes g0 = [kG] ∧ sG1.viewer kG.wk kG.arm = some vG ∧ ((sG1.algUse vG 1).1).isSome = true ∧
      sG1.meetAcc kG.pos 3 true 2 ≠ .wait ∧ 5 ≤ (6 : BitVec 4).toNat ∧
      (∀ k ∈ hG.lanes g0, rdNat k 1 (src 17) = .ok 320 ∧ readTile k acc0 false = .ok tile0 ∧ rdNat k 2 (src 10) = .ok 0) ∧
      320 % 64 = 0 ∧ 320 + 64 ≤ sG1.stashLimit kG ∧
      algBad (BitVec.ofNat 512 (leNat (sG1.peekStash vG kG.lane 1 320 64).1)) = false ∧ tile0.clash (vG.after tile0.front) (tileKind acc0) = none ∧
      tile0.clash vG .write = none ∧ tile0.cause = none ∧ hG.Writable g0 (fileDst (dst 9)) [] ∧ (0 : BitVec 3).toNat < tile0.k :=
  ⟨stands_G, by decide +kernel⟩

def passes (x : Checked) : Bool := match x with
  | .ok _ => true
  | _ => false
/-- The value of a check that passes, tested. -/
def okAnd {ε α : Type} (x : Except ε α) (p : α → Bool) : Bool := match x with
  | .ok a => p a
  | .error _ => false

theorem witness_TileFormsComplete :
    sG1.here hG ∧ hG.lanes g0 = [kG] ∧ hG.epochs ∧ sG1.viewer kG.wk kG.arm = some vG ∧ sG1.posOf kG.pos.id = some kG.pos ∧
      (rd kG 1 (src 8) = .ok (val 1 8 0x3C00BC00 F.f16 kG) ∧ rd kG 2 (src 8) = .ok (val 2 8 0x3C00BC00 F.f16 kG) ∧
        rd kG 2 (src 9) = .ok (val 2 9 1 F.n32 kG) ∧ rd kG 3 (src 9) = .ok (val 3 9 1 F.n32 kG) ∧ 1 < elemCount F.f16 ∧
        wrOk kG (dst 9) [src 8, src 8, src 9] = .ok () ∧ wrOk kG (dst 9) [src 8, src 9] = .ok () ∧
        wrOk kG (dst 9) [src 8] = .ok () ∧ wrOk kG (dst 9) [] = .ok () ∧ (1 : Word).toNat < 14) ∧
      (rd kG 1 (halfSrc ⟨false, 3⟩) = .ok (val 1 3 0x3FC00000 F.f32 kG) ∧ rd kG 2 (halfSrc ⟨false, 4⟩) = .ok (val 2 4 0xC0000000 F.f32 kG) ∧
        rd kG 1 (halfSrc ⟨false, 1⟩) = .ok (val 1 1 7 F.s32 kG) ∧ rd kG 2 (halfSrc ⟨false, 2⟩) = .ok (val 2 2 0xFFFFFFFE F.s32 kG) ∧
        evalHalf 0 (val 1 3 0x3FC00000 F.f32 kG) (val 2 4 0xC0000000 F.f32 kG) = .ok (⟨0xBF000000, F.f32⟩, {}) ∧
        evalHalf 16 (val 1 1 7 F.s32 kG) (val 2 2 0xFFFFFFFE F.s32 kG) = .ok (⟨5, F.s32⟩, {}) ∧ wrOk kG (dst 10) [] = .ok ()) ∧
      ((sG1.algUse vG 1).1.any fun r => (sG1.algUse vG 1).2.meetAcc kG.pos 3 true (algK r) == .bind false) = true ∧
      (5 ≤ (6 : BitVec 4).toNat ∧ rdNat kG 1 (src 17) = .ok 320 ∧ batonsOf [(src 17).spec] = [] ∧ 320 + 64 ≤ sG1.stashLimit kG ∧
        passes (sG1.checkLine kG.pos 320 64) = true ∧
        sG1.racesAt vG kG.pos stashRec ((List.range 64).map fun i => some (320 + i)) .read = none ∧
        algBad (BitVec.ofNat 512 (leNat (sG1.peekStash vG kG.lane 1 320 64).1)) = false) ∧
      ((kG.pos.accAt (accName acc0)).tile false = some tile0 ∧ tile0.pending = 0 ∧ tile0.clash vG .write = none ∧
        tile0.clash (vG.after tile0.front) (tileKind acc0) = none ∧ tile0.cause = none ∧ wrOk kG (fileDst (dst 9)) [] = .ok () ∧
        rdNat kG 2 (src 10) = .ok 0 ∧ (0 : BitVec 3).toNat < tile0.k ∧ batonsOf [(src 10).spec] = []) ∧
      (handleOf kG 3 = .ok recP ∧ rdNat kG 2 (src 5) = .ok 3 ∧ rdRaws kG 3 (src 12) 2 = .ok [0x20030001, 0x40] ∧
        okAnd (sG1.lloadCheck kG recP 3 (ldD.setWidth 64) (src 12)) (fun x => sG1.racesAt vG kG.pos recP x.2.flatten .read == none) = true ∧
        (kG.pos.loftAt 1).st ≠ .loading ∧ sG1.slotRead 1 1 = false ∧ kG.pos.tagsTake [2] = true ∧
        (kG.pos.loftAt 1).clash vG .write = none) ∧
      (mhandleOf kG 0 = .ok mrec ∧ batonsOf [(src 5).spec] = [] ∧ kG.pos.tagsTake [3] = true ∧
        (sG1.detFence vG kG.lane).isSome = true ∧ readTile kG acc0 false = .ok tile0 ∧
        okAnd (sG1.tileCheck kG mrec 3 1 (.m 0)) (fun x => sG1.racesAt vG kG.pos stashRec (stashOffs x.2) .read == none &&
          sG1.meetAcc kG.pos 3 true (algK x.1) == .bind false) = true ∧
        okAnd (sG1.tileCheck kG mrec 3 0 (.m 0)) (fun x => algK x.1 == tile0.k &&
          sG1.racesAt (vG.after tile0.front) kG.pos stashRec (stashOffs x.2) .write == none) = true) ∧
      (sG2.opOf oG2.id = some oG2 ∧ sG2.posOf oG2.pos = some (posG sG2) ∧ sG2.opWaits oG2 = false ∧
        sG2.engMeets (posG sG2) recP (((List.range 2).map fun c => loadColumn recP 8 (ldOff (ldD.setWidth 64)) 16 c).flatten) false = .ok) := by
  refine ⟨stands_G, ?_⟩
  and_intros <;> decide +kernel

theorem witness_MatrixMultiply :
    sG1.here hG ∧ hG.epochs ∧ hG.lanes g0 = [kG] ∧ (∀ k ∈ hG.lanes g0, rdNat k 1 (src 16) = .ok 256) ∧ 256 + 64 ≤ sG1.stashLimit kG ∧
      sG1.detFence vG kG.lane = some sG1 ∧ BitVec.ofNat 512 (leNat (sG1.peekStash vG kG.lane 1 256 64).1) = pblk ∧
      kG.warp.busy.contains (16 + pbAh pblk) = false ∧ (sG1.algUse vG 0).1 = algPredefined[0]? ∧
      sG1.mmaCheck kG kG.pos pblk (algPredefined[0]?) mrec mrec mrec = none ∧ kG.pos.tagsTake [pbCtag pblk] = true ∧
      (kG.pos.loftAt 0).st = .full ∧ sG1.meetAcc kG.pos 0 true 1 ≠ .wait ∧ (sG1.chainsOf 0).length < 16 :=
  ⟨stands_G, by decide +kernel⟩

/-- The chain is in flight. -/
def ch0 : ChainOp := ⟨pblk, 1, (algPredefined[0]?).getD 0, mrec, 0, 0, []⟩
def sG5 : State := (posSet sG1 fun p => { p with acc := p.acc.set 0 ⟨some { tile0 with pending := 1 }, none⟩ }).issueOp vG kG [5] (.chain ch0) 1 true
def oG5 : EngOp := (sG5.c.ops.head?).get (by decide +kernel)

theorem witness_ChainsComplete :
    sG5.opOf oG5.id = some oG5 ∧ oG5.kind = .chain ch0 ∧ sG5.posOf oG5.pos = some (posG sG5) ∧ sG5.opWaits oG5 = false ∧
      sG5.chainReady oG5 = true ∧ (∀ q ∈ sG5.chainsOf oG5.core, q.seq < oG5.seq → sG5.chainReady q = false) ∧
      ((posG sG5).loftAt 0).st ≠ .void ∧ slotCheck pblk mrec 0 ((posG sG5).loftAt 0) 1 = none ∧
      sG5.chunksDone (posG sG5) ch0 ((posG sG5).loftAt 0) 4 1 0 = (1, .ok) ∧ tile0.cells[0]? = some 0x3FC00000 := by
  decide +kernel

theorem witness_GroupInstructions :
    sA.here hA ∧ ((hA.lanes always).head?).isSome = true ∧ (sA.viewer wk 0).isSome = true ∧
      ((sA.viewer wk 0).bind fun v => (sA.algUse v 0).1) = algPredefined[0]? ∧ (¬ ∃ z, (Spec.v 9) = .z z) ∧
      (∀ k ∈ hA.lanes always, rdGroup k 1 (src 3) 1 = .ok [0x3FC00000] ∧ rdGroup k 2 (src 4) 1 = .ok [0xC0000000] ∧
        wrGroup k (dst 9) 1 = .ok () ∧ checkGroups 0 1 [(1, .v 3), (0, .v 9)] = .ok () ∧
        checkGroups 0 1 [(1, .v 3), (2, .v 4), (0, .v 9)] = .ok ()) :=
  ⟨stands_A, by decide +kernel, by decide +kernel, by decide +kernel, (fun ⟨_, h⟩ => nomatch h), by decide +kernel⟩

/-! ## Hypotheses of the barrier, pool and queue statements -/

def imm1 : Src := ⟨.imm 1, false, false⟩
def kA : RCtx := (hA.lanes always).headD hA.c

theorem witness_BarriersAndCounters :
    sA.here hA ∧ hA.whole ∧ hA.epochs ∧ (hA.lanes always).head? = some kA ∧ kA.warp.recs = [] ∧
      (∀ l ∈ hA.lanes always, rdNat l 1 imm1 = .ok 1 ∧ rdOpt l 2 zeroS = .ok none ∧ rdOpt l 2 (src 9) = .ok (some 1) ∧
        rdNat l 2 zeroS = .ok 0) ∧
      kA.block.bars[1]? = some .idle ∧ kA.block.liveWarps.length = 1 ∧ BarRes.idle.fill = false ∧
      (BarRes.idle.count.toNat + 2 ^ 32 - 0 % 2 ^ 32) % 2 ^ 32 < 2 ^ 31 :=
  ⟨stands_A, by decide +kernel⟩

/-- Ring 0 is full, its phase 1; and the warp has given a granule to the lent pool. -/
def sJ : State := posSet (warpSet sA fun w => { w with gran := 15, threads := w.threads.map fun t => { t with regs := t.regs.take 120 } })
  fun p => { p with rings := p.rings.set 0 ⟨⟨7, F.s32⟩, true, true, none, none, []⟩, lent := 8 }
def hJ : Here := (stands sJ).get (by decide +kernel)
theorem stands_J : sJ.here hJ := here_of (by decide +kernel)
def kJ : RCtx := (hJ.lanes always).headD hJ.c
/-- The warp waits in `rclaim`: for a granule it can have, and for more than the core can give. -/
def claiming (n : Nat) : State := (posSet sJ fun p => { p with claims := [⟨0, 0, n, src 9⟩] }).modLanes wk (List.range 8) fun t =>
  { t with st := .parked .claim }
def tight : State := posSet (claiming 4) fun p => { p with lent := 0, limit := p.drawn }
def posJ (s : State) : Position := (s.posOf 1).getD kJ.pos

theorem witness_RingsAndRegisterPool :
    (sJ.here hJ ∧ hJ.epochs ∧ hJ.whole ∧ (hJ.lanes always).head? = some kJ ∧ sJ.det? kJ.pos = false ∧
      (kJ.pos.rings[1]?).bind (·.entry) = none ∧ ((kJ.pos.rings[0]?).getD Ring.init).entry = some ⟨7, F.s32⟩ ∧
      (∀ c ∈ hJ.lanes always, rd c 2 (src 1) = .ok (val 2 1 7 F.s32 c)) ∧ hJ.Writable always (dst 9) []) ∧
    (kJ.warp.recs = [] ∧ rdCount kJ (src 9) = .ok 1 ∧ rdCount kJ (src 10) = .ok 0 ∧ 1 ≤ kJ.warp.gran ∧ kJ.warp.gran + 1 ≤ 16 ∧
      (∀ t ∈ kJ.warp.threads, ∀ x ∈ t.regs.drop (8 * (kJ.warp.gran - 1)), x.st ≠ .empty) ∧ kJ.pos.claims = [] ∧
      1 * kJ.warp.threads.length ≤ kJ.pos.lent + min (kJ.pos.limit - kJ.pos.drawn) (sJ.coreFree kJ.pos.core)) ∧
    ((claiming 1).posOf (posJ (claiming 1)).id = some (posJ (claiming 1)) ∧ (posJ (claiming 1)).claims = [⟨0, 0, 1, src 9⟩] ∧
      (claiming 1).claimFits (posJ (claiming 1)) ((claiming 1).claimUnits (posJ (claiming 1)) ⟨0, 0, 1, src 9⟩) = true ∧
      ((claiming 1).stage? (posJ (claiming 1)) 0).isSome = true ∧ ((claiming 1).warpOf ⟨1, 0, 0⟩).isSome = true) ∧
    (tight.posOf 1 = some (posJ tight) ∧ tight.claimDeadlock (posJ tight) = true) :=
  ⟨⟨stands_J, by decide +kernel⟩, by decide +kernel, by decide +kernel, by decide +kernel⟩

/-- A record of task `tid` for queue 3: code object 1, no successor. -/
def task (tid : Nat) : BitVec 512 := BitVec.ofNat 512 (1 + tid * 2 ^ 288 + 3 * 2 ^ 384)
def slotOf (tid i st : Nat) : QSlot := ⟨i, putField (task tid) 276 4 st, st, 0, false, 0, 0, []⟩
def queueOf3 (l : List QSlot) : Queue := ⟨3, 0, 6, 4, false, false, l⟩
def queue3 : Queue := queueOf3 [slotOf 7 0 tsFaulted, slotOf 8 1 tsRunning]
/-- Queue 3 holds the records `l`, which stand in object 6. -/
def inQueue (s : State) (l : List QSlot) : State := (s.modT fun t => { t with queues := [queueOf3 l] }).modC fun c =>
  { c with mem := l.foldl (fun m x => memWrite m (2 ^ 21 + 64 * x.idx) (leBytes 64 x.word.toNat)) c.mem }
/-- Queue 3 over object 6, with a Faulted and a Running task; element 0 of h2 is the record of task 9. -/
def sU : State := ((inQueue sM queue3.slots).modCtx 0 fun c =>
    { c with objs := c.objs ++ [⟨6, false, true, false, 0, [⟨0, true, true, 0, 1, 32⟩], 65536⟩] }).modC fun c =>
  { c with mem := memWrite c.mem (2 ^ 20) (leBytes 64 (task 9).toNat) }
def sU1 : State := (regs sU [(18, ⟨3, F.n32⟩)]).modGrid 0 0 fun g => { g with task := some (3, 1) }
def hU : Here := (stands sU1).get (by decide +kernel)
theorem stands_U : sU1.here hU := here_of (by decide +kernel)
def kU : RCtx := (hU.lanes g0).headD hU.c
def vU : Viewer := (sU1.viewer wk 0).get (by decide +kernel)

theorem witness_QueueInstructions :
    sU1.here hU ∧ hU.epochs ∧ hU.lanes g0 = [kU] ∧ sU1.viewer kU.wk kU.arm = some vU ∧ sU1.det? hU.c.pos = false ∧
      (∀ k ∈ hU.lanes g0, handleOf k 2 = .ok recL ∧ rdNat k 2 (src 10) = .ok 0 ∧ rdNat k 1 (src 18) = .ok 3 ∧
        rdNat k 2 (src 1) = .ok 7) ∧
      sU1.reach vU kU.pos kU.block (sU1.stashLimit kU)
        { handle := recL, i := 0, o := 0, n := 64, align := 64, wr := false } .read = .ok (.glob 5 0) ∧
      BitVec.ofNat 512 (leNat (sU1.loadAt vU kU.pos recL (.glob 5 0) 64).1) = task 9 ∧
      errOf ((sU1.fenceBy vU 3).enqueue 0 (putTimed (task 9) false) []) = false ∧
      sU1.liveQueue 3 = some queue3 ∧ queue3.ctx = kU.pos.ctx ∧ queue3.held 7 = some (slotOf 7 0 tsFaulted) ∧
      sU1.ownTask kU = some (3, 1, slotOf 8 1 tsRunning) ∧ sU1.succFault 0 (slotOf 8 1 tsRunning).word = none ∧ (slotOf 8 1 tsRunning).tdn = false ∧
      ((sU1.fenceBy vU 3).notify 3 1 [] fun _ _ => none).2 = none ∧ hU.Writable g0 (dst 9) [src 18] :=
  ⟨stands_U, by decide +kernel⟩

/-- A Timed record stands in queue 3, and filter entry 2 is valid. -/
def timed9 : QSlot := { slotOf 9 2 tsTimed with word := (slotOf 9 2 tsTimed).word ||| BitVec.ofNat 512 (100 * 2 ^ 320 + 2 ^ 404) }
def sV : State := (inQueue sU (queue3.slots ++ [timed9])).modT fun t => { t with filter := [⟨2, 1, 0⟩] }

/-- In this cycle link 0 also writes to queue 3. -/
def written0 : State := { sU with agenda := [.event (.queueStop ⟨false, 3⟩)] }

theorem witness_PushWindowsAndQueues :
    sU.m.boot = .running ∧ sU.liveQueue 3 = some queue3 ∧ sU.queueOf 3 = some queue3 ∧ queue3.dying = false ∧ taskQueue (task 9) = 3 ∧
      ((sU.ctxOf queue3.ctx).map (·.st)) = some .live ∧ errOf (sU.accept queue3 (task 9)) = false ∧
      errOf (sU.accept queue3 (task 7)) = true ∧ queue3.held 7 = some (slotOf 7 0 tsFaulted) ∧
      queue3.held 8 = some (slotOf 8 1 tsRunning) ∧ tsRunning ≠ tsFaulted ∧ sU.queueOf 4 = none ∧
      (∀ x ∈ queue3.slots, x.state ≠ tsCredit) ∧ (sV.t.filter.find? (·.idx == 2)) = some ⟨2, 1, 0⟩ ∧
      (sV.timedSlots.map fun x => (max (taskRtime x.2.word) sV.m.stepTo + 15) / 16 * 16).min? = some 112 ∧
      sU.linkYields false (.push 3) = false ∧ written0.linkYields true (.push 3) = true ∧ State.reset.m.boot ≠ .running ∧
      (sU.liveQueue 3).bind (·.known 8) = some (slotOf 8 1 tsRunning) ∧ (sU.liveQueue 3).bind (·.known 70) = none ∧
      (((sU.modCtx 0 fun c => { c with st := .ending }).liveQueue 3 = some queue3) ∧
        (((sU.modCtx 0 fun c => { c with st := .ending }).ctxOf queue3.ctx).map (·.st)) = some .ending) ∧
      (queue3.freeCount < 2 ^ 17 ∧ queue3.readyCount < 2 ^ 17 ∧ (sU.pushWin 3).dropped < 2 ^ 32 ∧ (sU.pushWin 3).reply < 2 ^ 32) ∧
      (sV.filterFor 0 (taskQueue 0) = some ⟨2, 1, 0⟩ ∧ (1 : Dword).extractLsb' 30 16 = 0) := by decide +kernel

/-- One instance of one position, with no argument block. -/
def launch1 : BitVec 1024 := BitVec.ofNat 1024 (1 + 2 ^ 128 + 2 ^ 144 + 2 ^ 160 + 2 ^ 176 + 2 ^ 180 + 2 ^ 184 + 2 ^ 192)
/-- Its arguments in an object that is not there; and a cluster of eight blocks where one core is. -/
def launchA : BitVec 1024 := launch1 + BitVec.ofNat 1024 (9 * 2 ^ 40 * 2 ^ 64 + 2 ^ 240)
def launch8 : BitVec 1024 := launch1 + BitVec.ofNat 1024 (7 * 2 ^ 176)
def bare : Option Kernel := sA.kernelAt 0 1 0
/-- Grid id 5 waits for its sweep, and a record of queue 3 is Ready. -/
def sL : State := (inQueue sU [slotOf 9 2 tsReady]).modCtx 0 fun c => { c with swept := [5] }

theorem witness_Launches :
    sA.m.boot = .running ∧ ((sA.ctxOf 0).map (·.st)) = some .live ∧ ((sA.padOf (sA.padOfCtx 0)).map (·.st)) = some .live ∧
      sA.kernelAt 0 (lrEobj 9) (lrEoff 9) = none ∧ bare.isSome = true ∧ sA.kernelAt 0 (lrEobj launch1) (lrEoff launch1) = bare ∧
      (∀ k ∈ bare, launchBad (some k) launch1 = false ∧ errOf (sA.readArgs 0 (lrArg launch1) (lrHmask launch1) k) = false ∧
        sA.holdsInstance probePaddock (k.need ((List.range 8).map (lrNwarp launch1))) (lrCn launch1) = true ∧
        k.badFix (lrInsts launch1 * lrCn launch1) = none ∧ k.cohab = false ∧
        launchBad (some k) launchA = false ∧ sA.readArgs 0 (lrArg launchA) (lrHmask launchA) k = .error (.cause .objectInvalid) ∧
        launchBad (some k) launch8 = false ∧
        sA.holdsInstance probePaddock (k.need ((List.range 8).map (lrNwarp launch8))) (lrCn launch8) = false) ∧
      launchBad none launch1 = true ∧ sA.linkYields false (.launch 0) = false ∧ sL.m.boot = .running ∧
      (∀ st : CtxSt, ((sA.modCtx 0 fun c => { c with st := st }).ctxOf 0).map (·.st) = some st) ∧
      sA.freeGrid 0 = some 1 ∧ (match (sA.droveMembers 0 launch1).1 with
        | .ok ms => ms == some [(0, 0)]
        | .error _ => false) = true ∧
      ((sL.ctxOf 0).map fun c => (c.swept, c.waitL, c.st)) = some ([5], [], .live) ∧
      sL.readySlots 0 = [(3, slotOf 9 2 tsReady)] ∧ sL.someDiscarded 0 = false ∧
      (∀ c ∈ sA.ctxOf 0, c.lstat < 16 ∧ c.lcause < 256 ∧ c.lgrid < 4096) := by
  and_intros
  all_goals first | decide +kernel | exact fun st => by cases st <;> decide +kernel

/-! ## Hypotheses of the message, relay, name and pen statements -/

/-- One word to and from this node itself, on tag 1. -/
def msgQ : BitVec 128 := BitVec.ofNat 128 (2 ^ 32 + 4 * 2 ^ 64 + 1 * 2 ^ 80)
def sS : State := quad sM msgQ
def hS : Here := (stands sS).get (by decide +kernel)
theorem stands_S : sS.here hS := here_of (by decide +kernel)
def kS : RCtx := (hS.lanes g0).headD hS.c
def vS : Viewer := (sS.viewer wk 0).get (by decide +kernel)

/-- A relay of rank 0 of 2 with chunks of 16 bytes, from h0 to h1, on tag 2; its program in h4. -/
def relQ : BitVec 128 := BitVec.ofNat 128 (2 * 2 ^ 16 + 0 * 2 ^ 32 + 1 * 2 ^ 36 + 0 * 2 ^ 40 + 2 * 2 ^ 44 + 16 * 2 ^ 64)
def recR : BitVec 128 := record 5 16 256 4 false
/-- Relay 3 of engine 0 has ended on tag 0. -/
def sO : State := (warpSet (quad (regs sM [(19, ⟨12, F.n32⟩)]) relQ) fun w => { w with h := w.h.set 4 recR }).modT fun t =>
  { t with relayEnds := [⟨0, 3, 0, 1, 0, 0, none⟩] }
def hO : Here := (stands sO).get (by decide +kernel)
theorem stands_O : sO.here hO := here_of (by decide +kernel)
def kO : RCtx := (hO.lanes g0).headD hO.c
def vO : Viewer := (sO.viewer wk 0).get (by decide +kernel)
def relA : RelayArgs := ⟨recR, recG, recS, recG, 0, relQ⟩

theorem witness_MessagesAndRelaysIssue :
    (sS.here hS ∧ hS.epochs ∧ hS.lanes g0 = [kS] ∧ (∀ k ∈ hS.lanes g0, handleOf k 0 = .ok recG ∧ rdQuad k 2 (src 12) = .ok msgQ) ∧
      sS.viewer kS.wk kS.arm = some vS ∧ sS.msgCheck kS false recG msgQ = none ∧ sS.msgCheck kS true recG msgQ = none ∧
      sS.sendsFull 0 = false ∧ sS.recvsFull 0 = false ∧ kS.pos.tagsTake [1] = true) ∧
    (sO.here hO ∧ hO.epochs ∧ hO.lanes g0 = [kO] ∧
      (∀ k ∈ hO.lanes g0, wrOk k (dst 9) (src 10 :: srcRun (src 12) 4) = .ok () ∧ rdRelay k 4 (src 10) (src 12) = .ok relA ∧
        rdNat k 1 (src 19) = .ok 12) ∧
      sO.relayCheck kO relA = none ∧ (sO.floatBan kO vO relA).isNone = true ∧ sO.joinable kO relA = none ∧ sO.pickEngine 0 = some 0 ∧
      sO.ticket kO 12 = .ended ⟨0, 3, 0, 1, 0, 0, none⟩) :=
  ⟨⟨stands_S, by decide +kernel⟩, stands_O, by decide +kernel⟩

/-- A send to node 9 waits for its credit, and one that has it; a receive from node 9 is pending. Port 0 is up. -/
def key9 (src dst n : Nat) : MsgKey := ⟨0, src, dst, 0, n, false⟩
def sK : State := ((sS.issueOp vS kS [1] (.send recG msgQ) 4 false).issueOp vS kS [2] (.recv recG msgQ) 4 false).modT fun t => { t with
  sends := [⟨70, sS.nextId, key9 0 9 0, 4, 0, false, 0⟩, ⟨71, sS.nextId, key9 0 9 1, 4, 0, true, 0⟩]
  recvs := [⟨sS.nextId + 1, key9 9 0 0, 4, 0, [], true, false⟩]
  ports := t.ports.map fun p => { p with st := .up, lanes := 0xFF } }
def flit9 : Flit := { sealKey := none, group := 0, sq := 0, kind := 0, len := 4, chan := 0, pad := 0, dnode := 0, snode := 9, msg := 0, moff := 0,
                      payload := [1, 2, 3, 4], ok := true }

/-- A send that has all its bytes in flits, and no receive; its port is not there. -/
def sK2 : State := sS.modT fun t => { t with sends := [⟨72, sS.nextId, key9 0 9 2, 4, 0, true, 4⟩], ports := [] }
/-- A credit of a length, and an acknowledgement, of message `n`: to its sender, or back from it. -/
def cred9 (n len : Nat) (back : Bool) : Flit := { flit9 with kind := 1, len := 5, msg := n, payload := ctlPayload len back false }
def ack9 : Flit := { cred9 0 4 false with kind := 2 }
/-- A flit for node 9 that passes here. -/
def pass9 : Flit := { flit9 with snode := 8, dnode := 9 }

theorem witness_MessageFlits :
    (sK.accepts 0 { flit9 with sq := 7 } = false ∧ sK.accepts 0 { flit9 with ok := false } = false ∧
      (∀ p ∈ sK.portOf 0, (sK.groupsOf 0 p).contains 0 = true ∧ p.rxseq[0]? = some 0) ∧ (sK.portOf 0).isSome = true ∧
      (7 + 2 ^ 16 - 0) % 2 ^ 16 < 2 ^ 15 ∧ ¬ (0xFFFF + 2 ^ 16 - 0) % 2 ^ 16 < 2 ^ 15) ∧
    ([flit9, { flit9 with kind := 3 }, cred9 0 4 false, cred9 0 8 false, cred9 5 4 false, cred9 0 4 true, ack9].all
      fun f => sK.accepts 0 f && f.dnode == sK.node) = true ∧
    (sK.accepts 0 pass9 = true ∧ pass9.dnode ≠ sK.node) ∧
    (sK.recvFor (flitKey flit9 false) = some ⟨sS.nextId + 1, key9 9 0 0, 4, 0, [], true, false⟩ ∧
      (sK.takePart ⟨sS.nextId + 1, key9 9 0 0, 4, 0, [], true, false⟩ 0 (flit9.payload.take flit9.len)).1 = true) ∧
    (flitBack (cred9 0 4 false) = false ∧ sK.sendFor (ctlKey (cred9 0 4 false)) = some ⟨70, sS.nextId, key9 0 9 0, 4, 0, false, 0⟩ ∧
      4 = ctlLen (cred9 0 4 false) ∧ sK.sendFor (ctlKey (cred9 0 8 false)) = some ⟨70, sS.nextId, key9 0 9 0, 4, 0, false, 0⟩ ∧
      4 ≠ ctlLen (cred9 0 8 false) ∧ (cred9 0 8 false).snode ≠ sK.node ∧ sK.sendFor (ctlKey (cred9 5 4 false)) = none ∧
      flitBack (cred9 0 4 true) = true ∧
      sK.recvFor (ctlKey (cred9 0 4 true)) = some ⟨sS.nextId + 1, key9 9 0 0, 4, 0, [], true, false⟩ ∧
      (sK.sendFor (ctlKey ack9)).isSome = true) ∧
    (sK.t.sends.find? (·.id == 71) = some ⟨71, sS.nextId, key9 0 9 1, 4, 0, true, 0⟩ ∧ (key9 0 9 1).dst ≠ sK.node ∧ 0 < 4 ∧
      ((sK.modT fun t => { t with ports := [] }).pumpSend (key9 0 9 1) 1).sendFor (key9 0 9 1)
        = some ⟨71, sS.nextId, key9 0 9 1, 4, 0, true, 0⟩) ∧
    (sK2.t.recvs = [] ∧ sK2.t.ctl = []) := by decide +kernel

/-- Where the network leads to a node by port 0, the one port of a state, flits for it go there. -/
theorem hops_of {s : State} {p : Port} {n : Nat} (hp : s.t.ports = [p]) (h0 : p.id = 0) (g : s.groupsOf 0 p = [0])
    (x : Config.leads 0 n = true) : s.hops 0 n = [(0, 0)] := by
  rw [State.hops, hp, List.flatMap_singleton, h0, x, g]
  rfl

def portK : Port := (sK.t.ports.head?).get (by decide +kernel)
theorem hops_K {n : Nat} (x : Config.leads 0 n = true) : sK.hops 0 n = [(0, 0)] :=
  hops_of (p := portK) (by decide +kernel) (by decide +kernel) (by decide +kernel) x

def m71 : SendMsg := ⟨71, sS.nextId, key9 0 9 1, 4, 0, true, 0⟩
def place71 : EngOp × Position × BitVec 128 × List (Option Nat) := (sK.msgPlace m71.op m71.chunk).get (by decide +kernel)

/-- There a flit for node 9 enters the port's buffer, and a message of one flit is sent whole. -/
theorem witness_MessageFlits_routed (x : Config.leads 0 9 = true) :
    (sK.enterFlit pass9).isSome = true ∧ ((sK.pumpSend m71.key 1).sendFor m71.key).any (fun m => m.len ≤ m.sent) = true := by
  have h : ∀ f : Flit, f.pad = 0 → f.dnode = 9 → ∃ g, sK.enterFlit f = some (sK.modPort 0 g) := by
    intro f h1 h2
    have : [(0, 0)].find? sK.hasRoom = some (0, 0) := by decide +kernel
    simp only [State.enterFlit, h1, h2, hops_K x, this]
    exact ⟨_, rfl⟩
  refine ⟨?_, ?_⟩
  · obtain ⟨g, hg⟩ := h pass9 rfl rfl
    rw [hg]; rfl
  · have h1 : sK.sendFor m71.key = some m71 := by decide +kernel
    have h2 : sK.msgPlace m71.op m71.chunk = some place71 := by decide +kernel
    have h3 : sK.meets place71.1 place71.2.1 place71.2.2.1 ((place71.2.2.2.drop m71.sent).take 224) false = .go sK := by decide +kernel
    have h4 : (sK.engReads place71.1 place71.2.1 place71.2.2.1 ((place71.2.2.2.drop m71.sent).take 224)).2 = sK := by decide +kernel
    have h5 : ((place71.2.2.2.drop m71.sent).take 224).length = 4 := by decide +kernel
    obtain ⟨g, hg⟩ := h (msgFlit m71.key (kindOf m71.key.relay) 4 m71.sent
      (sK.engReads place71.1 place71.2.1 place71.2.2.1 ((place71.2.2.2.drop m71.sent).take 224)).1) rfl rfl
    have h6 : ¬ m71.len ≤ m71.sent := by decide
    simp only [State.pumpSend, h1, h2, h3, h4, h5, h6, hg, if_false]
    have : ∀ (s : State) g k f, ((s.modPort 0 g).modSend k f).sendFor k = (s.modSend k f).sendFor k := fun _ _ _ _ => rfl
    rw [this]
    decide +kernel

/-- A relay of rank 0 of 4 stands at a step, from the stash to the stash. -/
def baseR : State :=
  let s : State := { State.reset with
    c := { State.reset.c with cores := [CoreSt.reset 0] }, t := { State.reset.t with ports := [Port.reset 0] } }
  { s.probeRelay 0 with agenda := [], cur := .engine 0 }
def sI : State := baseR.modT fun t => { t with relays := t.relays.map fun r =>
  { r with size := 4, ch := 4, iter := 1, mems := r.mems.map fun m => { m with hin := recS, hout := recS } } }
def rI : Relay := (sI.relayHead 0).get (by decide +kernel)
def mI : RelayMem := (rI.mems.head?).get (by decide +kernel)
def oI : EngOp := (sI.opOf mI.op).get (by decide +kernel)
def pI : Position := (sI.posOf mI.pos).get (by decide +kernel)
/-- Its other die has not issued. -/
def sI2 : State := sI.modT fun t => { t with relays := t.relays.map fun r => { r with dmask := 3, prog := [] } }
def rI2 : Relay := (sI2.relayHead 0).get (by decide +kernel)

theorem witness_RelaySteps :
    (sI.cur = .engine 0 ∧ sI.relayHead 0 = some rI ∧ rI.wait = .none ∧ rI.prog ≠ [] ∧ rI.out = [] ∧ rI.mems = [mI] ∧ rI.dmask = 0 ∧
      rI.lead = some mI ∧ sI.opOf mI.op = some oI ∧ sI.posOf mI.pos = some pI ∧
      rI.iter + 1 < (5 : BitVec 16).toNat ∧ (2 : BitVec 16).toNat ≤ rI.iter + 1 ∧
      sI.meets oI pI mI.hin (rI.chunkBytes mI.hin (recEs mI.hout) 1) false = .go sI ∧
      sI.meets oI pI mI.hout (rI.chunkBytes mI.hout (recEs mI.hout) 1) true = .go sI) ∧
    (sI2.t.relays.find? (·.is rI2.eng rI2.seq) = some rI2 ∧ rI2.prog = [] ∧ rI2.allJoined = false) := by decide +kernel

/-- The name of tensor 5; 8 bytes asked for on tag 2, and announced on tag 3. -/
def name5 : BitVec 128 := BitVec.ofNat 128 (5 * 2 ^ 88)
def name5r : BitVec 128 := BitVec.ofNat 128 (5 * 2 ^ 88 + 2 ^ 112)
def sN : State := quad (regs sM [(20, ⟨0, F.n32⟩), (21, ⟨2 + 3 * 64 + 8 * 2048, F.n32⟩), (22, ⟨0, F.n32⟩), (23, ⟨3 + 8 * 64, F.n32⟩),
  (24, ⟨2, F.n32⟩)]) name5
def hN : Here := (stands sN).get (by decide +kernel)
theorem stands_N : sN.here hN := here_of (by decide +kernel)
def kN : RCtx := (hN.lanes g0).headD hN.c
def vN : Viewer := (sN.viewer wk 0).get (by decide +kernel)
def askA : NameArgs := ⟨recG, name5, 0, 2 + 3 * 64 + 8 * 2048⟩
def annA : NameArgs := ⟨recG, name5, 0, 3 + 8 * 64⟩

theorem witness_NameInstructions :
    sN.here hN ∧ hN.epochs ∧ hN.lanes g0 = [kN] ∧
      (∀ k ∈ hN.lanes g0, rdName k 0 (src 12) (src 20) = .ok askA ∧ rdName k 0 (src 12) (src 22) = .ok annA ∧
        rdQuad k 1 (src 12) = .ok name5 ∧ rdQuad k 0 (src 12) = .ok name5 ∧ rdNat k 2 (src 24) = .ok 2 ∧ rdNat k 1 (src 24) = .ok 2 ∧
        2 < sN.stageTags k ∧ quadOk k (dst 12) = .ok ()) ∧
      sN.nameCheck kN true askA = none ∧ sN.nameCheck kN false annA = none ∧ stampRealm (sN.realmOf 0) name5 = some name5r ∧
      sN.unaccepted 0 < 4096 ∧ kN.pos.tagsTake [2] = true ∧ kN.pos.tagsTake [3] = true ∧ sN.det? hN.c.pos = false ∧
      ¬ ∃ z, (dst 12).spec = .z z := by
  refine ⟨stands_N, ?_⟩
  and_intros <;> decide +kernel

/-- An ask waits, an announcement stands for its decision; and a delivery of the ask is under way. -/
def sN2 : State := ((sN.issueOp vN kN [2] (.ask recG name5r 0 8 8000) 4 false).issueOp vN kN [3] (.annc recG name5r 0 8) 4 false).modT fun t =>
  { t with interests := [⟨0, name5r, [⟨some sN.nextId, 0, 8000⟩], none⟩] }
def oAsk : EngOp := (sN2.opOf sN.nextId).get (by decide +kernel)
def oAnn : EngOp := (sN2.opOf (sN.nextId + 1)).get (by decide +kernel)
def sN3 : State := sN2.modT fun t => { t with interests := [], deliveries := [⟨oAsk.id, 0, name5r, [1, 2, 3]⟩] }
def fold5 : FoldTile := ⟨0, name5r, 0, [1], 0, none, [0]⟩
/-- The share of interests, or the fold, has no room. -/
def noShare (s : State) : State := s.modPad 0 fun p => { p with ishare := 0 }
def noFold (s : State) : State := s.modPad 0 fun p => { p with fold := 0 }
/-- The announcement is still to be decided in this cycle; and so is that of a lower lane. -/
def sN4 : State := { sN2 with agenda := [.event (.announcementDecision oAnn.id)] }
def oAnn3 : EngOp := { oAnn with id := 90, lane := 3 }
def sN5 : State := { (sN2.modC fun c => { c with ops := c.ops ++ [oAnn3] }) with agenda := [.event (.announcementDecision oAnn.id)] }

def posN (s : State) : Position := (s.posOf 1).getD kN.pos

theorem witness_NameEvents :
    (sN2.nameHere 0 name5r = true ∧ sN2.nameHere 0 name5 = false ∧ (sN2.dropFaces.request 0 name5r ⟨none, 4, 9000⟩).isSome = true ∧
      ((noShare sN3).dropFaces.request 0 name5r ⟨none, 4, 9000⟩).isNone = true ∧ (noShare sN3).nameHere 0 name5r = true ∧
      ((sN2.padOf 0).bind (·.activeKey 0)) = some 0 ∧ (((noFold sN2).padOf 0).bind (·.activeKey 0)) = some 0 ∧
      ((sN2.announce 0 name5r [1, 2]).map (·.1)) = some true ∧ ((noFold sN2).announce 0 name5r [1, 2]).isNone = true ∧ 4 ≠ sN2.node ∧
      (((sN2.modT fun t => { t with folds := [fold5] }).announce 0 name5r [1, 2]).map (·.1)) = some false ∧
      (∀ c ∈ sN2.ctxOf 0, c.pad = 0 ∧ c.st ≠ .free)) ∧
    (sN2.laterAnnc oAnn name5r = false ∧ sN5.laterAnnc oAnn3 name5r = true ∧ sN5.opOf oAnn3.id = some oAnn3 ∧
      oAnn3.kind = .annc recG name5r 0 8 ∧ (sN5.posOf oAnn3.pos).isSome = true) ∧
    (sN2.opOf oAnn.id = some oAnn ∧ oAnn.kind = .annc recG name5r 0 8 ∧ sN2.posOf oAnn.pos = some (posN sN2) ∧
      sN2.meets oAnn (posN sN2) recG (nameBytes recG 0 8) false = .go sN2 ∧
      ((sN2.engReads oAnn (posN sN2) recG (nameBytes recG 0 8)).2.announce 0 name5r [0, 0, 0, 0, 0, 0, 0, 0]).isSome = true ∧
      sN2.padOfCtx oAnn.ctx = 0) ∧
    (sN3.opOf oAsk.id = some oAsk ∧ sN3.t.deliveries.find? (·.op == oAsk.id) = some ⟨oAsk.id, 0, name5r, [1, 2, 3]⟩ ∧
      oAsk.kind = .ask recG name5r 0 8 8000 ∧ sN3.posOf oAsk.pos = some (posN sN3) ∧ sN3.opWaits oAsk = false ∧
      (posN sN3).st ≠ .discarded ∧ (sN3.foldOf 0 name5r).isNone = true ∧
      (sN3.modT fun t => { t with folds := [fold5] }).tileSound fold5 = 1 ∧
      sN3.foldRevoked 0 name5r = false ∧ sN3.engMeets (posN sN3) recG (nameBytes recG 0 3) true = .ok) ∧
    (sN2.opOf oAsk.id = some oAsk ∧ sN2.askWaits oAsk = true ∧ sN2.comes 0 name5r = false ∧ sN4.comes 0 name5r = true ∧
      sN4.opOf oAsk.id = some oAsk ∧ sN4.askWaits oAsk = true) ∧
    (sN2.modT fun t => { t with folds := [fold5] }).foldOf 0 name5r = some fold5 := by decide +kernel

/-- Where the network leads to node 4 by port 0, word of a conflict goes back there. -/
def sN6 : State := sN2.modT fun t => { t with ports := t.ports.map fun p => { p with st := .up, lanes := 0xFF }, folds := [fold5] }
def portN : Port := (sN6.t.ports.head?).get (by decide +kernel)
theorem witness_NameEvents_routed (x : Config.leads 0 4 = true) :
    (sN6.announce 0 name5r [1, 2]).map (·.1) = some false ∧ (sN6.announce 0 name5r [1, 2]).map (·.2) = some sN6 ∧
      (sN6.sendName 0 4 name5r 0 none true).isSome = true := by
  refine ⟨by decide +kernel, by decide +kernel, ?_⟩
  have h : (sN6.padOf 0).bind (·.activeKey 2) = some 2 := by decide +kernel
  simp only [State.sendName, hops_of (p := portN) (s := sN6) (by decide +kernel) (by decide +kernel) (by decide +kernel) x, h]
  rfl

/-- A slot record: SEQ 1, experts 4 and 9 of weight 1, 4 elements, tag 4, to element 8 of h0. -/
def slot1 : BitVec 512 := BitVec.ofNat 512 (1 + 1 * 2 ^ 32 + 3 * 2 ^ 40 + 4 * 2 ^ 48 + 8 * 2 ^ 64 + 3 * 2 ^ 96 + 4 * 2 ^ 128 + 9 * 2 ^ 144
  + 0x3F800000 * 2 ^ 256 + 0x3F800000 * 2 ^ 288)
/-- A post of expert 4 to SEQ 1 of pen 0 of this package: 4 elements on tag 5. -/
def postQ : BitVec 128 := BitVec.ofNat 128 (2 ^ 31 + 1 * 2 ^ 32 + 4 * 2 ^ 64)
def sPen0 : State := (quad (regs sM [(20, ⟨0, F.n32⟩), (21, ⟨5 + 3 * 64, F.n32⟩)]) postQ).modC fun c =>
  { c with mem := memWrite c.mem (2 ^ 20) (leBytes 64 slot1.toNat) }
def hPen : Here := (stands sPen0).get (by decide +kernel)
theorem stands_Pen0 : sPen0.here hPen := here_of (by decide +kernel)
def kPen : RCtx := (hPen.lanes g0).headD hPen.c
def vPen : Viewer := (sPen0.viewer wk 0).get (by decide +kernel)
def pen1 (st : SlotSt) (staged : List (Nat × List Word)) : PenSlot :=
  { pen := 0, idx := 1, st := st, seq := 1, word := slot1, hd := recG, dfirst := 8, ctx := 0, pos := some 1, party := vPen.party, op := 0, staged := staged, keys := [],
    det := false, timed := false, since := none, due := 9000, cause := none, front := [] }
/-- Pen slot 1 in a state, with contributions. -/
def sPen (st : SlotSt) (staged : List (Nat × List Word)) : State := sPen0.putPen (pen1 st staged)
theorem here_putPen {s : State} {h : Here} (x : s.here h) (y : PenSlot) : (s.putPen y).here h :=
  ⟨x.cur, x.packet, x.arm, x.scene, x.ready⟩
def slotA : SlotArgs := ⟨recL, 0, none, false, recG⟩
def postA : PostArgs := ⟨some recG, none, postQ, 0, 5 + 3 * 64, false⟩

theorem witness_PenInstructions :
    (sPen0.here hPen ∧ hPen.epochs ∧ hPen.lanes g0 = [kPen] ∧ (∀ k ∈ hPen.lanes g0, rdSlot sPen0 k 2 (src 10) zeroS = .ok slotA ∧
        rdNat k 1 (src 9) = .ok 1 ∧ wrOk k (dst 9) [src 9] = .ok () ∧ rdPost k (.mem 0) (src 12) (src 20) = .ok postA) ∧
      sPen0.checkRec kPen.pos.ctx recL (recAddr recL 0 0) false = none ∧ sPen0.slotPage kPen recL vPen = .ok (.glob 5 0) ∧
      sPen0.raceCheck vPen kPen.pos { handle := recL, i := 0, o := 0, n := 64, align := 64, wr := false } .read (.ok (.glob 5 0))
        = .ok (.glob 5 0) ∧
      sPen0.peekRecord kPen recL vPen = slot1 ∧ pnTake slot1 0 none = slot1 ∧
      ({ kPen.pos with tags := kPen.pos.tags.map fun t => { t with count := 255 } } : Position).tagsTake [4] = false ∧
      sPen0.slotCheck kPen slotA slot1 slot1 = none ∧ (sPen0.pensOf 0)[0]? = some 0 ∧ seqNewer 1 (sPen0.penSlot 0 1).seq = true ∧
      (sPen0.penSlot 0 1).st = .free ∧ kPen.pos.tagsTake [4] = true ∧ sPen0.det? hPen.c.pos = false ∧
      sPen0.postCheck kPen postA = none ∧ kPen.pos.tagsTake [5] = true) ∧
    ((sPen .released []).here hPen ∧ ((sPen .released []).heldSlot 0 0 1) = .ok (pen1 .released [])) ∧
    ((sPen .opened []).here hPen ∧ ((sPen .opened []).heldSlot 0 0 1) = .ok (pen1 .opened []) ∧
      (sPen .opened []).postUnderway kPen 0 1 = false) :=
  ⟨⟨stands_Pen0, by decide +kernel⟩, ⟨here_putPen stands_Pen0 _, by decide +kernel⟩, here_putPen stands_Pen0 _,
    by decide +kernel⟩

/-- A revoked key in slot 2 of a state's paddocks. -/
def revoked2 (s : State) : State := s.modM fun m => { m with paddocks := m.paddocks.map (·.modKey 2 fun k => { k with st := .revoked }) }

/-- R377: a `prel` waits while a post of its own lane to the slot is on its way. -/
theorem test_prel_waits_for_own_post :
    ((sPen .opened []).issueOp vPen kPen [5] (.post none 0 1 4 recG 0 4 none) 4 false).postUnderway kPen 0 1 = true := by
  decide +kernel

/-- The post of expert 4 to SEQ 1 has issued, from registers; and one of a newer SEQ, and of a wrong length. -/
def posted (st : SlotSt) (sq : Word) (data : List Word) : State :=
  (sPen st []).issueOp vPen kPen [5] (.post none 0 sq 4 recG 0 4 (some data)) 4 false
def arrives (st : SlotSt) (sq : Word) (data : List Word) : Bool :=
  ((posted st sq data).opOf (sPen .opened []).nextId).any fun o => o.id == (sPen .opened []).nextId && (posted st sq data).padOfCtx o.ctx == 0
    && o.kind == .post none 0 sq 4 recG 0 4 (some data) && !(posted st sq data).t.heldPosts.any (·.op == some o.id)
/-- Slot 1 is releasing, and so is one of the same pen that could be released before. -/
def before1 : State := (sPen .releasing []).modT fun t => { t with pens := t.pens ++ [{ pen1 .releasing [] with idx := 2, seq := 2, since := some 5 }] }

theorem witness_PenEvents :
    ((sPen0.pensOf 0)[0]? = some 0 ∧ (sPen0.penPad 0).bind (·.activeKey 0) = some 0 ∧ (sPen .opened []).penSlot 0 ((1 : Word).toNat % 16384) = pen1 .opened [] ∧
      (0xFFFFC001 : Word).toNat % 16384 = 1 ∧ seqNewer 0xFFFFC001 (pen1 .opened []).seq = false ∧
      (0xFFFFC001 : Word) ≠ (pen1 .opened []).seq ∧
      (pnExperts slot1).findIdx? (· == 4) = some 0 ∧ [1, 2, 3, 4].length = pnLen slot1 ∧ [1].length ≠ pnLen slot1 ∧
      (pnExperts slot1).findIdx? (· == 5) = none ∧ seqNewer 0x4001 (pen1 .opened []).seq = true ∧ (0x4001 : Word).toNat % 16384 = 1 ∧
      ((sPen .opened []).t.heldPosts.filter (·.pen == 0)).length < 4096) ∧
    (arrives .opened 1 [1, 2, 3, 4] = true ∧ arrives .released 1 [1, 2, 3, 4] = true ∧ arrives .opened 1 [1] = true ∧
      arrives .opened 0x4001 [1, 2, 3, 4] = true ∧ (1 : Word) = (pen1 .released []).seq ∧ (pen1 .released []).st ≠ .opened) ∧
    ((sPen .releasing []).penSlot 0 1 = pen1 .releasing [] ∧ (sPen .releasing []).notNext (pen1 .releasing []) = false ∧
      before1.penSlot 0 1 = pen1 .releasing [] ∧ before1.notNext (pen1 .releasing []) = true ∧
      (sPen .releasing []).penSpoilt (pen1 .releasing []) = false ∧
      ((sPen .releasing []).modC fun c => { c with bad := [(sPen .releasing []).penAt 0 1 0 / 32] }).penSpoilt
        (pen1 .releasing [(0, [1, 2, 3, 4])]) = true ∧ (sPen .formed []).notNext (pen1 .formed []) = false ∧
      ((sPen .releasing []).releaseReach (pen1 .releasing []) (pnDest slot1 recG)).2 = .ok ∧
      (sPen .releasing []).penRevoked (pen1 .releasing []) = false ∧
      (revoked2 (sPen .releasing [])).penRevoked { pen1 .releasing [] with keys := [2] } = true ∧
      (sPen .formed []).penSlot 0 1 = pen1 .formed []) ∧
    (pnNe slot1 = 2 ∧ [0, 1].Pairwise (fun a b => pnExpert slot1 a < pnExpert slot1 b) ∧ pnRen slot1 = false) := by decide +kernel

/-! ## Hypotheses of the statements on commands -/

def hd0 : CmdHead := ⟨false, 0, 0, 0⟩
theorem takes_of {s : State} (x : (s.m.boot == .running && !s.linkYields false (.config false) && !s.linkBusy false && !s.linkBusy true && s.m.links.length == 2) = true) :
    s.takes false := by
  simpa [State.takes, and_assoc] using x

theorem witness_HostCommandsServed :
    (cmdLink (.setPowerCap hd0 1300) = some false ∧ sA.m.boot = .running ∧ sA.linkBusy false = false ∧ sA.linkBusy (!false) = false) ∧
    (sA.modLink false fun l => { l with busy := some (0, 0, 0) }).linkBusy false = true ∧
    (sA.modLink true fun l => { l with busy := some (0, 0, 0) }).linkBusy (!false) = true ∧
    base.m.boot = .running ∧ State.reset.m.boot = .booting ∧ (∀ h img, Instr.setPowerCap hd0 1300 ≠ .loadContainer h img) ∧
    (⟨false, 0, 0, 1⟩ : CmdHead).rsv ≠ 0 ∧ sA.linkYields false (.config false) = false ∧
    ({ sA with agenda := [.event (.setPowerCap hd0 1300)] } : State).linkYields true (.config true) = true ∧
    (∀ l bar off d, Instr.setPowerCap hd0 1300 = .windowWriteOther ⟨l, bar⟩ ⟨off, d⟩ → knownOp (d.extractLsb' 0 8).toNat = false) ∧
    ((sA.modLink false fun l => { l with busy := some (0, 0, 7) }).linkAt false).busy = some (0, 0, 7) ∧ sA.m.cmdq = [] :=
  ⟨by decide +kernel, by decide +kernel, by decide +kernel, rfl, rfl, (fun _ _ h => nomatch h), by decide +kernel,
    by decide +kernel, by decide +kernel, (fun _ _ _ _ h => nomatch h), by decide +kernel⟩

/-- Context 0 in a state, nothing else changed. -/
def inCtx (st : CtxSt) : State := sA.modCtx 0 fun c => { c with st := st, faults := [⟨3, 5, 0, false, false, 0, 0, 0, true, 9000⟩] }

theorem witness_ContextCommands :
    ((inCtx .live).takes false ∧ hd0.rsv = 0) ∧
    (∀ st : CtxSt, ((inCtx st).ctxOf hd0.ctx.toNat).map (·.st) = some st) ∧ (∀ c ∈ (inCtx .free).ctxOf 0, c.st = .free) ∧
    sA.padOf hd0.pad.toNat = some probePaddock ∧ probePaddock.st ≠ .ending ∧
    (∀ c ∈ sA.ctxOf 0, c.faults = [] ∧ (c.hostReg 0x022 5).isSome = true ∧ sA.freeObj c = some 2 ∧
      (sA.t.codes.find? fun x => x.ctx == c.id && x.sameAs [] (containerDigest [])) = none) ∧
    ((sA.codeOf 0 1).map (·.st)) = some .installed ∧ ((sA.gridOf 0 0).map fun g => (g.live, g.gx * g.gy * g.gz)) = some (true, 1) ∧
    (sA.c.positions.find? fun p => p.ctx == 0 && p.grid == 0 && p.inst * 1 + p.loc == 0).isSome = true ∧
    (∀ c ∈ (inCtx .live).ctxOf 0, (c.faults.find? (·.fid == 3)).isSome = true) := by
  refine ⟨⟨takes_of (by decide +kernel), rfl⟩, fun st => by cases st <;> decide +kernel, ?_⟩
  and_intros <;> decide +kernel

/-- Object 6 has a page of 2 MiB, object 7 the 32 pages of one. -/
def obj6 : Obj := ⟨6, false, true, false, 0, [⟨1, true, true, 0, 1, 32⟩], 2 ^ 40⟩
def obj7 : Obj := ⟨7, false, true, false, 0, [⟨0, true, true, 0, 32, 64⟩], 2 ^ 40⟩
def sObj : State := sM.modCtx 0 fun c => { c with objs := c.objs ++ [obj6, obj7] }
/-- An extent of one 64 KiB page at unit 4. -/
def ext4 : BitVec 128 := BitVec.ofNat 128 (12 + 4 * 2 ^ 16 + 1 * 2 ^ 40 + 200 * 2 ^ 80)
/-- The host copies 4 bytes at offset 12 of object 5. -/
def copy4 : BitVec 512 := BitVec.ofNat 512 (5 * 2 ^ 64 + 12 * 2 ^ 128 + 4 * 2 ^ 256)

theorem witness_ObjectCommands :
    sObj.takes false ∧ hd0.rsv = 0 ∧
    (∀ c ∈ sObj.ctxOf 0, c.st = .live ∧ sObj.freeObj c = some 2 ∧ c.objOf 5 = some obj5 ∧ c.objOf 6 = some obj6 ∧ c.objOf 7 = some obj7) ∧
    obj5.exo = false ∧ extentOf ext4 = some ⟨0, true, true, 4, 1, 200⟩ ∧ extentsOk (obj5.ext ++ [⟨0, true, true, 4, 1, 200⟩]) = true ∧
    (obj5.rewrite 0 fun e => some [{ e with p := true }]) = some obj5.ext ∧ extentsOk obj5.ext = true ∧
    ((obj6.rewrite 0 fun e => (e.sub (e.pageOf 0) 1).halve.map fun p => e.around (e.pageOf 0) 1 [p]).any extentsOk) = true ∧
    obj7.mergedPage 0 1 = some ⟨1, true, true, 0, 1, 64⟩ ∧
    extentsOk ((obj7.ext.flatMap (·.outside 0 (pageUnits 1))) ++ [⟨1, true, true, 0, 1, 64⟩]) = true ∧ obj7.ext.length ≤ 254 ∧
    (obj7.ext.find? (·.holds 3)).isSome = true ∧
    hcBad copy4 = false ∧ ((sObj.hostRange copy4).map (·.2)) = some obj5 ∧ hcLen copy4 ≤ 8 ∧
    (∀ i < hcLen copy4, ∀ pa ∈ obj5.place (hcOff copy4 + i), sObj.keyRead pa = true ∧ sObj.sound pa 1 = true) ∧
    sObj.linesMet 0 5 (hcOff copy4) (hcLen copy4) = [] :=
  ⟨takes_of (by decide +kernel), rfl, by decide +kernel⟩

/-- A route of the paddock's realm to this package. -/
def route1 : BitVec 128 := BitVec.ofNat 128 (8 * 2 ^ 72 + 2 ^ 79 + 1 * 2 ^ 80)

theorem witness_TableCommands :
    sU.takes false ∧ hd0.rsv = 0 ∧
    (∀ c ∈ sU.ctxOf 0, c.st ≠ .free ∧ sU.queueRefused c 4 (BitVec.ofNat 64 (6 + 4 * 2 ^ 24)) = false) ∧ sU.queueOf 4 = none ∧
    (BitVec.ofNat 64 (6 + 4 * 2 ^ 24)).extractLsb' 42 22 = 0 ∧ sU.liveQueue 3 = some queue3 ∧ queue3.dying = false ∧
    (1 : Dword).extractLsb' 54 10 = 0 ∧ route1.extractLsb' 116 12 = 0 ∧ routePlen route1 ≤ 72 ∧ route1.getLsbD 79 = true ∧
    (route1.extractLsb' 96 20).toNat = sU.node ∧ (sU.m.paddocks.any (·.realm == (route1.extractLsb' 80 16).toNat)) = true ∧
    sU.t.routes = [] :=
  ⟨takes_of (by decide +kernel), rfl, by decide +kernel⟩

/-- A descriptor beside the paddock that is there: one cluster, its own slices, pen, relay engine, lane group and queues. -/
def desc2 : BitVec 512 := BitVec.ofNat 512 (2 * 2 ^ 16 + 1 * 2 ^ 32 + 0x02020202 * 2 ^ 72 + 2 * 2 ^ 104 + 2 * 2 ^ 108 + 2 * 2 ^ 112 +
  1 * 2 ^ 184 + 1 * 2 ^ 200 + 2 * 2 ^ 208 + 4 * 2 ^ 224 + 1 * 2 ^ 264)
def hd2 : CmdHead := ⟨false, 0, 2, 0⟩
/-- The paddock in a state, its first key slot Old and rewrapped; no position is on a core. -/
def inPad (st : PadSt) : State := (sA.modC fun c => { c with positions := [], insts := [], grids := [] }).modPad 0 fun p =>
  { p with st := st, keys := p.keys.set 3 ⟨.old, 0, 0⟩, rewrap := [3] }
def misfitsOf (s : State) (d : BitVec 512) : Bool := (s.padOf 0).any fun p =>
  let s1 := ((((s.revokeAll p).modPad p.id fun _ => p.resized d).trimSet p.id 0).fillSet p.id).recarve p (p.resized d)
  ((s1.unplaceable (s.misfits s1 p.id)).1).isEmpty && s.padOk (p.resized d)

theorem witness_PaddockCommands :
    sA.takes false ∧ (inPad .live).takes false ∧ hd2.rsv = 0 ∧ sA.padOf hd2.pad.toNat = none ∧ descReserved desc2 = false ∧
    sA.padOk (padOfDesc 2 desc2) = true ∧ misfitsOf (inPad .live) desc2 = true ∧
    (∀ st : PadSt, ((inPad st).padOf 0).map (·.st) = some st) ∧ (inPad .live).placedIn 0 = [] ∧
    (0 < Config.cores ∧ (probePaddock.owns (clusterOf 0)) = true ∧ sA.m.coresOut.contains 0 = false ∧
      (inPad .live).misfits ((inPad .live).coreOut 0) 0 = []) ∧
    probePaddock.keys.length = 4 ∧ ((inPad .live).padOf 0).bind (·.keys[3]?) = some ⟨.old, 0, 0⟩ ∧
    (((inPad .live).padOf 0).bind (·.activeKey 0)) = some 0 ∧ probePaddock.keys[0]? = some ⟨.active, 0, 1⟩ := by
  refine ⟨takes_of (by decide +kernel), takes_of (by decide +kernel), rfl, ?_⟩
  and_intros
  all_goals first | decide +kernel | exact fun st => by cases st <;> decide +kernel

/-! ## Hypotheses of the statements on events -/

/-- The warp waits at its clause, no packet formed; and with tag 0, which the header waits for, failed. -/
def free8 : State := (sA.modCore 0 fun c => { c with slots := c.slots.map fun _ => none }).modLanes wk (List.range 8) fun t =>
  { t with st := .ready, mid := false }
def stuck8 : State := (free8.modLanes wk (List.range 8) fun t => { t with st := .parked (.barB 1) }).modPos 1 fun p =>
  { p with blocks := p.blocks.map fun b => { b with wd := 20 } }
def core0 : CoreSt := (free8.coreOf 0).get (by decide +kernel)
/-- The header of the clause waits for tag 0, which has failed. -/
def failed8 : State := (free8.modCode 0 1 fun x => { x with kernels := x.kernels.map fun k =>
    { k with stages := k.stages.map fun c => { c with words := [0xFF00000040000000, 0xF6076FEDFCDFCDFC] } } }).modPos 1 fun p =>
  { p with tags := p.tags.set 0 { CTag.init with tge := true, cause := some .loftVoid } }

theorem witness_CoreEvents :
    free8.coreOf 0 = some core0 ∧ free8.headerTrap 0 = none ∧ core0.slots.findIdx? (·.isNone) = some 0 ∧
      (free8.packetArms (free8.order core0)).length = 1 ∧
      (∀ x ∈ free8.packetArms (free8.order core0), (free8.stage? x.pos x.stage).isSome = true) ∧
      (∀ c ∈ (stuck8.coreOf 0), stuck8.packetArms (stuck8.order c) = []) ∧
      (∀ p ∈ stuck8.posOf 1, p.st = .resident ∧ ∀ b ∈ p.blockOf 0, (stuck8.stage? p 0).isSome = true ∧ stuck8.blockBlocked p b = true) ∧
      ((free8.posOn 0).head?.bind fun p => free8.ctxOf p.ctx).isSome = true ∧
      (failed8.headerTrap 0).map (·.1) = some wk := by decide +kernel

/-- A save drains; the cluster of the paddock is lent, revoked, and scrubbed; core 0 has been removed. -/
def draining : State := ((free8.modCtx 0 fun c => { c with st := .saving, drain := some 100 }).modPos 1 fun p => { p with st := .stopping })
def revoked (drain : Option Nat) : State := (inPad .live).modM fun m =>
  { m with revokes := [⟨0, 0, drain⟩], borrowed := [(0, 0)], coreDrain := [(0, 500)] }
/-- One instance more to place; and a discarded position to place again. -/
def placing : State := (sA.modGrid 0 0 fun g => { g with gx := 2 })
def discarded : State := placing.modPos 1 fun p => { p with st := .discarded }
/-- A container of no bytes waits for the finaliser, and a link for its load. -/
def loading : State := (sA.modT fun t => { t with codes := t.codes ++ [⟨0, 2, .checking, [], [], [], [], false⟩] }).modLink false fun l =>
  { l with busy := some (1, 0, 2) }

theorem witness_DrainsAndPlacement :
    (∀ c ∈ draining.ctxOf 0, c.drain = some 100 ∧ c.wantEnd = false ∧ c.wantRestore = false) ∧
    (draining.c.positions.map (·.id)).Nodup ∧
    ((inPad .stopping).placedIn 0 = [] ∧ ∀ p ∈ (inPad .stopping).padOf 0, p.st = .stopping ∧ p.wantLive = false) ∧
    ((revoked (some 300)).m.revokes.find? (·.cluster == 0) = some ⟨0, 0, some 300⟩ ∧ (revoked (some 300)).onCluster 0 0 = [] ∧
      ((sA.modM fun m => { m with revokes := [⟨0, 0, some 300⟩] }).onCluster 0 0).length = 1) ∧
    ((revoked none).m.coreDrain.find? (·.1 == 0) = some (0, 500) ∧ (revoked none).posOn 0 = [] ∧
      (revoked none).m.revokes.find? (·.cluster == 0) = some ⟨0, 0, none⟩) ∧
    (∀ p ∈ (inPad .live).padOf 0, p.keys[3]? = some ⟨.old, 0, 0⟩ ∧ p.activeKey 0 = some 0 ∧ p.rewrap.contains 3 = true) ∧
    ((placing.c.positions.filter fun p => p.ctx == 0 && p.grid == 0 && p.waits) = [] ∧ placing.someDiscarded 0 = false ∧
      ((placing.gridOf 0 0).bind placing.kernel?).isSome = true ∧
      (discarded.c.positions.filter fun p => p.ctx == 0 && p.grid == 0 && p.waits).length = 1) ∧
    (((inCtx .live).faultOf 0 3).isSome = true) ∧
    ((∀ x ∈ loading.codeOf 0 2, x.st = .checking ∧ ((finalise x.image).toOption).isNone = true) ∧
      ((loading.m.links[0]?).bind (·.busy)) = some (1, 0, 2)) := by decide +kernel

/-- Port 0 in a state. -/
def port (st : PortSt) (lanes : BitVec 8) : State := sA.modPort 0 fun p => { p with st := st, lanes := lanes, since := 5 }

theorem witness_PortsAndFailedUnits :
    (∀ st : PortSt, ((port st 0xFF).portOf 0).map (·.st) = some st) ∧
    (∀ x ∈ (port .down 0).portOf 0, x.since ≠ 0) ∧ (0x0F : BitVec 8) ≠ 0xFF ∧ (0x0F : BitVec 8) ≠ 0 ∧
    (0xFF : BitVec 8).getLsbD 3 = true ∧ (8 : BitVec 8) &&& ~~~(1#8 <<< 3) = 0 ∧ (0xFF : BitVec 8) &&& ~~~(1#8 <<< 3) ≠ 0 ∧
    sA.healthy 0 = true ∧ 0 < Config.clusters ∧ sA.m.diesOut.contains 1 = false ∧ sA.m.cxlDown.contains 2 = false ∧
    State.reset.padsAt 4096 = [] ∧ State.reset.c.bad.contains (4096 / 32) = false :=
  ⟨fun st => by cases st <;> decide +kernel, by decide +kernel⟩

theorem witness_CorrectedErrors : ((7 : Nat) = 1 ∨ (7 : Nat) = 2 ∨ (7 : Nat) = 7) ∧ (sA.padOf 0).isSome = true ∧ sA.padOf 5 = none := by
  decide +kernel

theorem witness_PackageEvents :
    sA.m.boot = .running ∧ ((sA.ctxOf ((0x0B00000000000000 : Dword).extractLsb' 44 12).toNat)).isSome = true ∧
      sA.readStatus 0 0x0B = 0 ∧ sA.readStatus 0 0xFF ≠ 0 ∧ sA.m.synced = false ∧ (sA.c.grids.filter (·.live)).length = 1 ∧
      (State.reset.c.grids.filter (·.live)) = [] ∧ sA.linkYields false .readback = false ∧ sA.takes false ∧
      (hostWindowAt 0 0 == some (.config false, 0) && !knownOp 0xFF) = true ∧ (hostWindowAt 4 0 == some (.config false, 0)) = false := by
  and_intros
  all_goals first | exact takes_of (by decide +kernel) | decide +kernel

/-- A fill and a handle fill are in flight; a store is pending. -/
def filling : State := (sA.modCore 0 fun c => { c with
    fills := [⟨40, wk, 2, 9, ⟨5, F.s32⟩, ⟨0, 0, 0⟩⟩], hfills := [⟨41, wk, 3, recG, ⟨0, 0, 0⟩⟩] }).modLanes wk [2] fun t =>
  { t with regs := t.regs.set 9 ⟨.empty, .zero⟩ }
def store12 : PStore := ⟨50, ⟨0, 0, 0⟩, 0, 0, wk, 0, 4096, [1, 2, 3, 4], none, 1, [], [], 0, none⟩
def storing : State := sA.modC fun c => { c with pend := [store12] }

theorem witness_FillsAndPerformedAccesses :
    (∀ c ∈ filling.coreOf 0, (c.fills.find? (·.id == 40)).isSome = true ∧ (c.hfills.find? (·.id == 41)).isSome = true) ∧
      ((filling.threadOf wk 2).bind (·.regs[9]?)).map (·.st) = some .empty ∧
      storing.c.pend = [store12] ∧ store12.red = none ∧ store12.lvl < 3 ∧ store12.lvl < 4 ∧ store12.lvl < 5 := by decide +kernel

/-! ## Hypotheses of the statements on encodings and on the machine -/

def goesOn (o : Host.Outcome State Fault Refusal) : Bool := match o with
  | .next _ => true
  | _ => false

theorem witness_WordRoundTrip :
    (Instr.iadd .s32 false always (dst 9) (src 3) (.src (src 1))).wf false = true ∧
      encode (.iadd .s32 false always (dst 9) (src 3) (.src (src 1))) ≠ 0 ∧
      decodeIn false 0xEC076FEDFCDFCDFC = .ok (.exit always) := by decide +kernel

theorem witness_RelayStepRoundTrip : decodeStep (encodeStep .wat) = some .wat := by decide +kernel

theorem witness_ReservedOpcodes :
    ((0xA5FFFFFFFFFFFFFF : Dword).extractLsb' 60 4).toNat ∉ [2, 3, 6, 7, 9] ∧ ((0x25FFFFFFFFFFFFFF : Dword).extractLsb' 60 4).toNat ∈ [2, 3, 6, 7, 9] ∧
      decodeIn false 0x25FFFFFFFFFFFFFF = .bad .opcReserved ∧ decodeIn true 0xF9FFFFFFFFFFFFFF = .bad .opcReserved := by decide +kernel

/-- The packet, the relay, and an event stand on the agenda. -/
def turn : State := { sA with agenda := [.issue 0 0], cur := .none }
def turnR : State := { (sI.modT fun t => { t with relays := t.relays.map fun r => { r with prog := [encodeStep .wat] } }) with
  agenda := [.relay 0], cur := .none }

theorem witness_StepRunsDecoded :
    (turn.agenda = [.issue 0 0] ∧ (∀ p ∈ turn.packet? 0 0, turn.codeSound p = true ∧ (∀ a ∈ p.arms, turn.sound (heldAt a.wk.pos) 1 = true) ∧ decodeIn p.scl 0xF6076FEDFCDFCDFC = .ok (.nop always) ∧
      ∀ sc ∈ turn.packetStage p, sc.wordAt (p.hdr + 8 * (p.idx + 1)) = some 0xF6076FEDFCDFCDFC) ∧ goesOn (step turn) = true) ∧
    ((∀ r ∈ turnR.relayHead 0, r.prog ≠ [] ∧ r.wait = .none ∧ r.prog[r.pc]? = some (encodeStep .wat)) ∧ goesOn (step turnR) = true) ∧
    (sA.agenda = [] ∧ goesOn (step sA) = true) := by decide +kernel

theorem witness_MemoryStaysCanonical :
    let s : State := { sF with agenda := [.event (.copyComplete oF.id)] }
    s.memoryOk = true ∧ memoryEvent (.copyComplete oF.id) = true ∧ goesOn (step s) = true := by decide +kernel

end Sys2Proof.Tests
end

/-! PROOF. Counting and reversing the bits of a word (R151), instructions of one source, and the fields of a word. -/

namespace Sys2Proof.Machine

/-! ### Set bits, leading zeros and the reversal of a word -/

theorem popcW_eq_length_filter (x : Word) : popcW x = ((List.range 32).filter fun i => x.getLsbD i).length :=
  List.countP_eq_length_filter

theorem clzW_zero : clzW 0 = 32 := rfl

/-- A word other than zero has its highest set bit below bit 32. -/
theorem log2_toNat_lt {x : Word} (hx : x ≠ 0) : x.toNat.log2 < 32 :=
  (Nat.log2_lt (BitVec.toNat_ne.1 hx)).2 x.isLt

theorem clzW_lt {x : Word} (hx : x ≠ 0) : clzW x < 32 := by
  simp only [clzW, if_neg hx]
  omega

/-- The bit just below the leading zeros is the highest set bit. -/
theorem sub_clzW {x : Word} (hx : x ≠ 0) : 31 - clzW x = x.toNat.log2 := by
  have := log2_toNat_lt hx
  simp only [clzW, if_neg hx]
  omega

theorem getLsbD_sub_clzW {x : Word} (hx : x ≠ 0) : x.getLsbD (31 - clzW x) = true := by
  rw [sub_clzW hx]
  exact Nat.testBit_log2 (BitVec.toNat_ne.1 hx)

theorem getLsbD_of_sub_clzW_lt {x : Word} (hx : x ≠ 0) {i : Nat} (hi : 31 - clzW x < i) : x.getLsbD i = false := by
  rw [sub_clzW hx] at hi
  exact Nat.testBit_lt_two_pow ((Nat.log2_lt (BitVec.toNat_ne.1 hx)).1 hi)

/-- Shifting in the bits `f 0`, …, `f (n − 1)` from the right leaves them in reverse order. -/
theorem testBit_foldl_shiftIn (f : Nat → Bool) : ∀ n i, i < n →
    ((List.range n).foldl (fun acc j => 2 * acc + (f j).toNat) 0).testBit i = f (n - 1 - i)
  | n + 1, 0, _ => by
    rw [List.range_succ, List.foldl_append, List.foldl_cons, List.foldl_nil, ← Nat.bit_val, Nat.testBit_bit_zero]
    rfl
  | n + 1, i + 1, hi => by
    have ih := testBit_foldl_shiftIn f n i (by omega)
    rw [List.range_succ, List.foldl_append, List.foldl_cons, List.foldl_nil, ← Nat.bit_val, Nat.testBit_bit_succ, ih]
    congr 1
    omega

theorem brevW_getLsbD (x : Word) {i : Nat} (hi : i < 32) : (brevW x).getLsbD i = x.getLsbD (31 - i) := by
  simp only [brevW, BitVec.getLsbD_ofNat, hi, decide_true, Bool.true_and]
  exact testBit_foldl_shiftIn x.getLsbD 32 i hi

/-! ### Instructions of one source -/

/-- A lane that may write its destination has its value as the result. -/
theorem outD_ok {c : RCtx} {d : Dst} {srcs : List Src} (h : wrOk c d srcs = .ok ()) (v : TV) (fl : Flags) :
    outD c d v srcs fl = .ok (.one d srcs (v, fl)) := by
  simp only [outD, h, LaneStep.bind, LaneOut.one]

/-- An instruction that writes a function of its first source. -/
theorem delivers_ofSource {s : State} {h : Here} {g : Guard} {d : Dst} {a : Src} {ra : RCtx → RV} (f : RV → TV)
    {val : RCtx → TV} (hat : s.here h) (ha : h.Reads g 1 a ra) (hv : ∀ k, f (ra k) = val k) {i : Instr}
    (he : exec i s = .next (s.runArms { g := g, dsts := [d.spec] }
      (pureArm (laneWise fun c => (rd c 1 a).bind fun r => outD c d (f r) [a])))) :
    s.Delivers h g d [a] i (noFlags val) := by
  refine delivers_of hat (fun k hk hw => ?_) he
  simp only [ha k hk, LaneStep.bind, outD_ok hw, hv, noFlags]

/-- The tag of a bitwise result: that of S1, or raw32 (R150, R151). -/
theorem logicTag_eq (r : RV) : logicTag r = match r.tag with | .tag f => f | _ => F.raw32 := by
  unfold logicTag
  cases r.tag <;> rfl

/-! ### The fields of an encoded word (R51) -/

theorem toWord_opc (f : Fields) : f.toWord.extractLsb' 56 8 = f.opc := by
  unfold Fields.toWord
  iterate 5 rw [BitVec.extractLsb'_append_eq_of_le (by decide)]
  exact BitVec.extractLsb'_append_eq_left

theorem toWord_mod (f : Fields) : f.toWord.extractLsb' 51 5 = f.mod := by
  unfold Fields.toWord
  iterate 5 rw [BitVec.extractLsb'_append_eq_of_le (by decide)]
  exact BitVec.extractLsb'_append_eq_right

/-- The low 24 bits hold the second and the third source. -/
theorem toWord_s2_s3 (f : Fields) : f.toWord.extractLsb' 0 24 = f.s2 ++ f.s3 := by
  apply BitVec.eq_of_getLsbD_eq
  intro i hi
  simp only [Fields.toWord, BitVec.getLsbD_extractLsb', BitVec.getLsbD_append, Nat.zero_add, hi, decide_true, Bool.true_and]
  split
  · rfl
  · rw [if_pos (by omega)]

theorem sAbsent_append_sAbsent : (sAbsent ++ sAbsent : BitVec 24) = 0xDFCDFC#24 := by decide

/-- A word with MOD 0 and without a second and a third source. -/
theorem toWord_ofSource (opc : BitVec 8) (g : BitVec 4) (d : BitVec 11) (s1 : BitVec 12) :
    (Fields.toWord ⟨opc, 0#5, g, d, s1, sAbsent, sAbsent⟩).extractLsb' 56 8 = opc ∧
      (Fields.toWord ⟨opc, 0#5, g, d, s1, sAbsent, sAbsent⟩).extractLsb' 51 5 = 0#5 ∧
      (Fields.toWord ⟨opc, 0#5, g, d, s1, sAbsent, sAbsent⟩).extractLsb' 0 24 = 0xDFCDFC#24 :=
  ⟨toWord_opc _, toWord_mod _, (toWord_s2_s3 _).trans sAbsent_append_sAbsent⟩

/-- Settles O3: the model's `popcW`, `clzW` and `brevW` are the three functions of R151, each written by a lane that reads
S1; the words' fields are those that `encode` joins. -/
theorem bitCounts : Obligations.BitCounts := by
  intro s h g d a ra hat ha
  refine ⟨⟨popcW, clzW, brevW, popcW_eq_length_filter,
    ⟨clzW_zero, fun x hx => ⟨getLsbD_sub_clzW hx, clzW_lt hx, fun i => getLsbD_of_sub_clzW_lt hx⟩⟩,
    fun x i => brevW_getLsbD x, ?_, ?_, ?_⟩, ?_⟩
  · exact delivers_ofSource (fun r => ⟨BitVec.ofNat 32 (popcW r.bits), F.n32⟩) hat ha (fun _ => rfl) rfl
  · exact delivers_ofSource (fun r => ⟨BitVec.ofNat 32 (clzW r.bits), F.n32⟩) hat ha (fun _ => rfl) rfl
  · exact delivers_ofSource (fun r => ⟨brevW r.bits, logicTag r⟩) hat ha
      (fun k => congrArg (TV.mk (brevW (ra k).bits)) (logicTag_eq (ra k))) rfl
  · simp only [List.forall_mem_cons]
    exact ⟨toWord_ofSource .., toWord_ofSource .., toWord_ofSource .., List.forall_mem_nil _⟩

end Sys2Proof.Machine

/-! PROOF. Packet instructions that trap in every executing lane (R146), and `trap` and `brk` (R417). -/

namespace Sys2Proof.Machine

/-! ### An arm whose executing lanes all trap -/

/-- The ends of lanes that all trap. -/
def ArmOut.trapping (cs : List RCtx) (x : RCtx → Trap) : ArmOut := { lanes := cs.map fun k => (k.lane, .trap (x k)) }

theorem trapsOf_trapping (cs : List RCtx) (x : RCtx → Trap) :
    trapsOf (.trapping cs x) = cs.map fun k => (k.lane, x k) := by
  simp [trapsOf, ArmOut.trapping, List.filterMap_map]

theorem parksOf_trapping (cs : List RCtx) (x : RCtx → Trap) : parksOf (.trapping cs x) = [] := by
  simp [parksOf, ArmOut.trapping, List.filterMap_map]

theorem batonWrites_trapping (cs : List RCtx) (x : RCtx → Trap) : batonWrites (ArmOut.trapping cs x).lanes = [] := by
  simp [batonWrites, ArmOut.trapping, List.filterMap_map]

theorem wideFrees_trapping (cs : List RCtx) (x : RCtx → Trap) : wideFrees (ArmOut.trapping cs x).lanes = [] := by
  simp [wideFrees, ArmOut.trapping, List.flatMap_map]

theorem laneEnds_trap {f : RCtx → LaneStep LaneOut} {x : RCtx → Trap} :
    ∀ {cs : List RCtx}, (∀ k ∈ cs, f k = .trap (x k)) →
      laneEnds (cs.map fun c => (c.lane, f c)) = .done (.trapping cs x)
  | [], _ => rfl
  | k :: cs, h => by
    have ih := laneEnds_trap (f := f) (x := x) (cs := cs) fun y hy => h y (List.mem_cons_of_mem _ hy)
    simp only [List.map_cons, laneEnds, h k List.mem_cons_self, ih, ArmOut.trapping]

theorem laneWise_trap {f : RCtx → LaneStep LaneOut} {x : RCtx → Trap} {cs : List RCtx}
    (h : ∀ k ∈ cs, f k = .trap (x k)) : laneWise f cs = .done (.trapping cs x) := by
  simp only [laneWise, laneEnds_trap h, ArmRes.settle, batonWrites_trapping, allEqual, if_true]

@[simp] theorem spread_nil {α : Type} (scl : Bool) (on : List Nat) : spread scl on ([] : List (Nat × α)) = [] := by
  cases scl <;> rfl

/-- In a scalar clause, whose one lane stands for the arm, every lane of the arm traps (R53). -/
theorem spread_traps (h : Here) (g : Guard) (x : RCtx → Trap) (on : List Nat) (hon : h.p.scl = true → on = h.a.lanes) :
    spread h.p.scl on ((h.lanes g).map fun k => (k.lane, x k)) = h.trapping g x := by
  cases hs : h.p.scl with
  | false => simp [spread, Here.trapping, hs]
  | true => simp [spread, Here.trapping, hs, hon hs, List.flatMap_map]

/-- A packet of one arm does not stall on an arm that is done. -/
theorem armStalls_done {s s1 : State} {h : Here} {w : How} {f : ArmFn} {o : ArmOut} (hat : s.here h)
    (ht : w.threads = false) (hw : w.whole = false) (hf : w.act f h.a.wk h.a.arm s (h.lanes w.g) = (.done o, s1)) :
    s.armStalls h.p w f h.a = none := by
  have hpend := pending_of_ready hat.ready
  simp only [Here.lanes] at hf
  simp [State.armStalls, hat.scene, hw, ht, hpend, hf]

/-- A packet instruction that acts lane by lane and traps in every executing lane. -/
theorem runArms_trapped {s : State} {h : Here} {g : Guard} {f : ArmFn} {x : RCtx → Trap} (hat : s.here h)
    (hf : f s (h.lanes g) = (.done (.trapping (h.lanes g) x), s)) : s.runArms { g := g } f = s.trapped h g x := by
  have hpend := pending_of_ready hat.ready
  have hact : How.act { g := g } f h.a.wk h.a.arm s (h.lanes g) = (.done (.trapping (h.lanes g) x), s) := by
    simp only [How.act, takesBatons_none batonsOf_nil, hf]
  have hstall := armStalls_done hat rfl rfl hact
  have hone : s.inOrder false [h.a] = [h.a] := rfl
  have hspread := spread_traps h g x (if h.p.scl then h.a.lanes else (h.lanes g).map (·.lane)) (fun e => by simp [e])
  have hrun : (s.runArm h.core h.p { g := g } f h.a).settlePacket h.core h.slot = s.trapped h g x := by
    simp only [Here.lanes] at hact hspread
    simp only [State.runArm, hat.scene, hpend, Bool.false_and, Bool.false_eq_true, if_false, Bool.not_false, Bool.and_true, hact,
      State.armEnds, trapsOf_trapping, parksOf_trapping, spread_nil, hspread, State.freeWides, wideFrees_trapping]
    simp [State.trapped, Packet.atUse, ArmOut.trapping, Here.lanes]
  simp only [State.runArms, State.onPacket, hat.cur, hat.packet, hat.arm, List.findSome?_cons, hstall, List.findSome?_nil,
    hone, List.foldl_cons, List.foldl_nil, hrun]

/-- A packet instruction that leaves every executing lane as it was. -/
theorem runArms_idle {s : State} {h : Here} {g : Guard} {f : ArmFn} {step : RCtx → LaneStep LaneOut} (hat : s.here h)
    (hf : f s (h.lanes g) = (laneWise step (h.lanes g), s)) (hstep : ∀ k ∈ h.lanes g, step k = .ok {}) :
    s.runArms { g := g } f = s.done h [] (h.each g {}) := by
  have hb : batonWrites (ArmOut.ofLanes ((h.lanes g).map fun k => (k.lane, ({} : LaneOut)))).lanes = [] := by
    simp [batonWrites, ArmOut.ofLanes, List.filterMap_map, Function.comp_def, batonWrite]
  refine runArms_here hat rfl (by simp) ?_
  rw [State.acquires, takesBatons_none batonsOf_nil, hf, laneWise_ok hstep (by rw [hb]; rfl)]
  rfl

/-! ### `trap`, `brk` and `nop` -/

/-- `trap` traps in every executing lane. -/
theorem exec_trap {s : State} {h : Here} (g : Guard) (c : BitVec 16) (hat : s.here h) :
    exec (.trap g c) s = .next (s.trapped h g fun _ => { cause := .softTrap, info0 := c.setWidth 32 }) :=
  congrArg _ (runArms_trapped hat (congrArg (·, s) (laneWise_trap fun _ _ => rfl)))

theorem exec_nop {s : State} {h : Here} (g : Guard) (hat : s.here h) :
    exec (.nop g) s = .next (s.done h [] (h.each g {})) :=
  congrArg _ (runArms_idle hat rfl fun _ _ => rfl)

/-- What `brk` does in a lane: the lane reads TRAPCFG of its context. -/
def brkLane (c : BitVec 16) (s : State) (k : RCtx) : LaneStep LaneOut :=
  if (k.seen 0x027 (((s.ctxOf k.pos.ctx).map (·.trapcfg)).getD 0)).getLsbD 0 then
    .trap { cause := .breakpoint, info0 := c.setWidth 32 }
  else .ok {}

theorem exec_brk (g : Guard) (c : BitVec 16) (s : State) :
    exec (.brk g c) s = .next (s.runArms { g := g } fun s cs => (laneWise (brkLane c s) cs, s)) := rfl

/-- A lane of the packet reads TRAPCFG of the packet's context. -/
theorem brkLane_here {s : State} {h : Here} {g : Guard} {k : RCtx} {x : Ctx} (c : BitVec 16) (hk : k ∈ h.lanes g)
    (hx : s.ctxOf h.c.pos.ctx = some x) :
    brkLane c s k = if (k.seen 0x027 x.trapcfg).getLsbD 0 then .trap { cause := .breakpoint, info0 := c.setWidth 32 } else .ok {} := by
  obtain ⟨-, hpos, -, -⟩ := lanes_warp hk
  simp only [brkLane, hpos, hx, Option.map_some, Option.getD_some]

/-- `brk` traps where every executing lane sees BRK set. -/
theorem exec_brk_set {s : State} {h : Here} {g : Guard} {x : Ctx} (c : BitVec 16) (hat : s.here h)
    (hx : s.ctxOf h.c.pos.ctx = some x) (hbrk : ∀ k ∈ h.lanes g, (k.seen 0x027 x.trapcfg).getLsbD 0 = true) :
    exec (.brk g c) s = .next (s.trapped h g fun _ => { cause := .breakpoint, info0 := c.setWidth 32 }) := by
  have hlane : ∀ k ∈ h.lanes g, brkLane c s k = .trap { cause := .breakpoint, info0 := c.setWidth 32 } := fun k hk => by
    rw [brkLane_here c hk hx, hbrk k hk, if_pos rfl]
  rw [exec_brk, runArms_trapped hat (congrArg (·, s) (laneWise_trap hlane))]

/-- `brk` is a `nop` where no executing lane sees BRK set. -/
theorem exec_brk_clear {s : State} {h : Here} {g : Guard} {x : Ctx} (c : BitVec 16) (hat : s.here h)
    (hx : s.ctxOf h.c.pos.ctx = some x) (hbrk : ∀ k ∈ h.lanes g, (k.seen 0x027 x.trapcfg).getLsbD 0 = false) :
    exec (.brk g c) s = exec (.nop g) s := by
  have hlane : ∀ k ∈ h.lanes g, brkLane c s k = .ok {} := fun k hk => by
    rw [brkLane_here c hk hx, hbrk k hk]
    rfl
  rw [exec_brk, exec_nop g hat, runArms_idle hat rfl hlane]

/-- A thread that has recorded no write of another thread sees every register as it stands. -/
theorem seen_of_stale_nil {k : RCtx} (hk : k.thread.any (·.stale == []) = true) (n : Nat) (now : Word) :
    k.seen n now = now := by
  obtain ⟨t, ht, hs⟩ := (Option.any_eq_true _ _).1 hk
  have hnil : t.stale = [] := by simpa using hs
  simp [RCtx.seen, ht, hnil]

/-- Settles O12: every executing lane traps in `trap`, and in `brk` as it sees BRK; `brk` with BRK clear commits the same
empty results as `nop`. -/
theorem trapInstructions : Obligations.TrapInstructions := by
  intro s h g hat
  exact ⟨fun c => exec_trap g c hat,
    fun c _ hx => ⟨exec_brk_set c hat hx, exec_brk_clear c hat hx, fun _ hk => seen_of_stale_nil hk 0x027 _⟩,
    fun _ _ _ => rfl, fun _ _ => rfl⟩

end Sys2Proof.Machine

/-! PROOF. What the device's own writes, an event and a corrected error leave alone (R411): the grids, the clusters' hubs, the
operations, every thread, and the accumulators, Loft slots and copy tags of every position. -/

namespace Sys2Proof.Machine

/-! ### The work in progress -/

/-- The threads of a block's warps, by warp. -/
def Block.work (b : Block) (warp : Nat) : Option (List Thread) := (b.warpOf warp).map (·.threads)

/-- The accumulators, the Loft slots, the copy tags and the threads of a position, those by stage. -/
structure PositionWork where
  acc : List AccName
  loft : List LoftSlot
  tags : List CTag
  threads : Nat → Option (Nat → Option (List Thread))

def Position.work (p : Position) : PositionWork :=
  { acc := p.acc, loft := p.loft, tags := p.tags, threads := fun stage => (p.blockOf stage).map (·.work) }

/-- The grids, the clusters' hubs, the operations, and the work of the positions, by id. -/
structure ComputeWork where
  grids : List Grid
  insts : List Inst
  ops : List EngOp
  positions : Nat → Option PositionWork

def Compute.work (c : Compute) : ComputeWork :=
  { grids := c.grids, insts := c.insts, ops := c.ops, positions := fun i => (c.positions.find? (·.id == i)).map (·.work) }

theorem Compute.work_congr {c d : Compute} (hg : d.grids = c.grids) (hi : d.insts = c.insts) (ho : d.ops = c.ops)
    (hp : d.positions = c.positions) : d.work = c.work := by
  simp only [Compute.work, hg, hi, ho, hp]

/-- Two states of the same work have the same work at each position. -/
theorem posOf_work {s t : State} (h : t.c.work = s.c.work) (i : Nat) :
    (t.posOf i).map (·.work) = (s.posOf i).map (·.work) :=
  congrFun (congrArg ComputeWork.positions h) i

/-- A thread as the work of its position holds it. -/
theorem threadOf_eq_work (s : State) (wk : WKey) (lane : Nat) :
    s.threadOf wk lane =
      ((((s.posOf wk.pos).map (·.work)).bind (·.threads wk.stage)).bind fun b => b wk.warp).bind (·[lane]?) := by
  simp only [State.threadOf, State.warpOf, Option.bind_map, Option.bind_assoc, Position.work, Block.work, Function.comp_def]

theorem threadOf_of_work {s t : State} (h : t.c.work = s.c.work) (wk : WKey) (lane : Nat) :
    t.threadOf wk lane = s.threadOf wk lane := by
  rw [threadOf_eq_work, threadOf_eq_work, posOf_work h]

theorem exists_posOf_of_work {s t : State} (h : t.c.work = s.c.work) {i : Nat} {p : Position} (hp : s.posOf i = some p) :
    ∃ q, t.posOf i = some q ∧ q.acc = p.acc ∧ q.loft = p.loft ∧ q.tags = p.tags := by
  have hw := posOf_work h i
  rw [hp, Option.map_some, Option.map_eq_some_iff] at hw
  obtain ⟨q, hq, hqp⟩ := hw
  exact ⟨q, hq, congrArg PositionWork.acc hqp, congrArg PositionWork.loft hqp, congrArg PositionWork.tags hqp⟩

/-! ### Changes in place and in turn that a view does not see -/

/-- A lookup does not see a change in place that keeps the keys and what is viewed. -/
theorem map_find?_upd {α β : Type} (p : α → Bool) {q : α → Bool} {f : α → α} {view : α → β} (hq : ∀ a, q (f a) = q a)
    (hv : ∀ a, view (f a) = view a) (l : List α) : ((upd p f l).find? q).map view = (l.find? q).map view := by
  have hq' : (q ∘ fun a => if p a then f a else a) = q := by
    funext a
    simp only [Function.comp_apply, apply_ite q, hq, ite_self]
  have hv' : (view ∘ fun a => if p a then f a else a) = view := by
    funext a
    simp only [Function.comp_apply, apply_ite view, hv, ite_self]
  rw [upd, List.find?_map, hq', Option.map_map, hv']

/-- Steps in turn, none of which a view sees. -/
theorem foldl_unseen {σ α β : Type} (view : σ → β) {f : σ → α → σ} (hf : ∀ s a, view (f s a) = view s) (l : List α) (s : σ) :
    view (l.foldl f s) = view s := by
  rw [← List.foldl_hom view (g₂ := fun v _ => v) (fun s a => (hf s a).symm), List.foldl_fixed]

theorem modPos_work (s : State) (i : Nat) {f : Position → Position} (hid : ∀ p, (f p).id = p.id)
    (hf : ∀ p, (f p).work = p.work) : (s.modPos i f).c.work = s.c.work := by
  refine congrArg (ComputeWork.mk s.c.grids s.c.insts s.c.ops) ?_
  funext j
  exact map_find?_upd _ (fun p => congrArg (· == j) (hid p)) hf s.c.positions

theorem modWarp_work (s : State) (k : WKey) {f : Warp → Warp} (hidx : ∀ w, (f w).idx = w.idx)
    (hf : ∀ w, (f w).threads = w.threads) : (s.modWarp k f).c.work = s.c.work := by
  have hblock (b : Block) : (b.modWarp k.warp f).work = b.work := by
    funext i
    exact map_find?_upd _ (fun w => congrArg (· == i) (hidx w)) hf b.warps
  refine modPos_work s k.pos (fun _ => rfl) fun p => congrArg (PositionWork.mk p.acc p.loft p.tags) ?_
  funext stage
  exact map_find?_upd _ (q := (·.stage == stage)) (f := (·.modWarp k.warp f)) (fun _ => rfl) hblock p.blocks

@[simp] theorem modWin_work (s : State) (pos n : Nat) (f : Window → Window) :
    (s.modPos pos (·.modWin n f)).c.work = s.c.work :=
  modPos_work s pos (fun _ => rfl) fun _ => rfl

/-! ### Pending stores -/

@[simp] theorem Compute.raise_work (c : Compute) (p : PStore → Bool) (lvl : Nat) : (c.raise p lvl).work = c.work := rfl

@[simp] theorem Compute.expose_work (c : Compute) (lvl : Nat) (e : PStore) : (c.expose lvl e).work = c.work := rfl

@[simp] theorem Compute.exposeAll_work (c : Compute) (p : PStore → Bool) (lvl : Nat) : (c.exposeAll p lvl).work = c.work :=
  foldl_unseen Compute.work (fun c e => c.expose_work lvl e) _ c

@[simp] theorem Compute.retire_work (c : Compute) : c.retire.work = c.work := rfl

@[simp] theorem Compute.leave_work (c : Compute) (ctx : Nat) (w : Nat × Nat) (sys : Bool) (hw : Nat) (f : Frontier) :
    (c.leave ctx w sys hw f).work = c.work := rfl

theorem Compute.with_pend_work (c : Compute) (l : List PStore) : Compute.work { c with pend := l } = c.work := rfl

theorem Compute.performRed_work (c : Compute) (id : Nat) : (c.performRed id).1.work = c.work := by
  unfold Compute.performRed
  split
  case h_2 => rfl
  case h_1 e _ =>
    split
    case h_2 => rfl
    case h_1 op x sys _ =>
      rw [Compute.with_pend_work]
      cases e.rel with
      | none => exact Compute.exposeAll_work ..
      | some r => exact Compute.exposeAll_work ..

@[simp] theorem raiseIn_work (s : State) (k : WKey) (f : Flags) : (s.raiseIn k f).c.work = s.c.work :=
  modWarp_work s k (fun _ => rfl) fun _ => rfl

@[simp] theorem performRed_work (s : State) (id : Nat) : (s.performRed id).c.work = s.c.work := by
  have hc := Compute.performRed_work s.c id
  unfold State.performRed
  split
  case h_1 h => rw [raiseIn_work, ← hc, h]
  case h_2 h => rw [← hc, h]

@[simp] theorem settle_work (s : State) (pa n : Nat) : (s.settle pa n).c.work = s.c.work := by
  simp only [State.settle, State.modC_c, Compute.retire_work, Compute.exposeAll_work]
  exact foldl_unseen (·.c.work) performRed_work _ s

/-! ### The device's own writes -/

@[simp] theorem devWrite_work (s : State) (pa : Nat) (bs : List Byte) : (s.devWrite pa bs).c.work = s.c.work :=
  settle_work s pa bs.length

@[simp] theorem loseRest_work (s : State) (line pa n : Nat) : (s.loseRest line pa n).c.work = s.c.work := by
  unfold State.loseRest
  split
  · rfl
  · refine foldl_unseen (·.c.work) (fun s i => ?_) _ s
    split
    · rfl
    · rw [devWrite_work, State.drawByte_c]

@[simp] theorem stampKey_work (s : State) (pad pa n : Nat) : (s.stampKey pad pa n).c.work = s.c.work := by
  unfold State.stampKey
  split
  · exact foldl_unseen (·.c.work) (fun s l => loseRest_work s l pa n) _ s
  · rfl

@[simp] theorem repair_work (s : State) (pa : Nat) : (s.repair pa).c.work = s.c.work := rfl

@[simp] theorem repairRange_work (s : State) (place : Nat → Option Nat) (off n : Nat) :
    (s.repairRange place off n).c.work = s.c.work := by
  refine foldl_unseen (·.c.work) (fun s i => ?_) _ s
  split
  · split <;> rfl
  · rfl

@[simp] theorem writeBack_work (s : State) (pos n line : Nat) : (s.writeBack pos n line).c.work = s.c.work := by
  unfold State.writeBack
  split
  case h_2 => rfl
  case h_1 =>
    split
    case h_2 => rfl
    case h_1 =>
      split
      · split <;> simp only [modWin_work, stampKey_work, devWrite_work]
      · rfl

@[simp] theorem snoop_work (s : State) (ctx obj off n : Nat) (wr : Bool) : (s.snoop ctx obj off n wr).c.work = s.c.work := by
  refine foldl_unseen (·.c.work) (fun s l => ?_) _ s
  split <;> simp only [modWin_work, writeBack_work]

@[simp] theorem objWrite_work (s : State) (ctx obj off : Nat) (bs : List Byte) :
    (s.objWrite ctx obj off bs).c.work = s.c.work := by
  unfold State.objWrite
  split
  · rfl
  · rw [repairRange_work]
    refine (foldl_unseen (fun s : State => s.c.work) (fun s b => ?_) _ _).trans (snoop_work ..)
    split
    · rw [stampKey_work, devWrite_work]
    · rfl

/-! ### Events (R258, R259, R398) -/

@[simp] theorem modCtx_work (s : State) (ctx : Nat) (f : Ctx → Ctx) : (s.modCtx ctx f).c.work = s.c.work := rfl

@[simp] theorem interrupt_work (s : State) : s.interrupt.c.work = s.c.work := rfl

@[simp] theorem signal_work (s : State) (ctx : Nat) : (s.signal ctx).c.work = s.c.work := by
  unfold State.signal
  split <;> rfl

@[simp] theorem post_work (s : State) (ctx : Nat) (e : Event) : (s.post ctx e).c.work = s.c.work := by
  have hinterrupt : (if e.src = 58 then s.interrupt else s).c.work = s.c.work := by split <;> rfl
  unfold State.post
  dsimp only
  refine Eq.trans ?_ hinterrupt
  split
  case h_1 => rfl
  case h_2 =>
    split
    case h_1 => rw [modCtx_work, modCtx_work]
    case h_2 =>
      split
      · rw [modCtx_work, modCtx_work]
      · rw [signal_work, modCtx_work, objWrite_work, modCtx_work]

@[simp] theorem postPad_work (s : State) (pad : Nat) (e : Event) : (s.postPad pad e).c.work = s.c.work :=
  foldl_unseen (·.c.work) (fun s c => post_work s c e) _ s

/-- Telling an error changes no result. -/
@[simp] theorem tellPads_work (s : State) (pads : List Nat) (src synd : Nat) : (s.tellPads pads src synd).c.work = s.c.work := by
  unfold State.tellPads
  split
  · rfl
  · exact foldl_unseen (·.c.work) (fun s q => postPad_work s q _) _ s

/-! ### Corrected errors -/

/-- A corrected error of one of the three syndromes is told to the paddock that holds the unit. -/
theorem exec_correctedError {synd : Nat} (h : synd = 1 ∨ synd = 2 ∨ synd = 7) (s : State) (pad src : Nat) :
    exec (.correctedError pad src synd) s = .next (s.tellPads ((s.padOf pad).map (·.id)).toList src synd) := by
  have hs : (synd == 1 || synd == 2 || synd == 7) = true := by simpa [or_assoc] using h
  change execCorrectedError pad src synd s = _
  rw [execCorrectedError, if_pos hs]

theorem id_of_padOf {s : State} {pad : Nat} {p : Paddock} (h : s.padOf pad = some p) : p.id = pad := by
  simpa using List.find?_some h

/-- Settles O51: telling an error posts to the contexts of one paddock, or logs for the host, and leaves all work as it was. -/
theorem correctedErrors : Obligations.CorrectedErrors := by
  intro s pad src synd hsynd
  have hwork := tellPads_work s ((s.padOf pad).map (·.id)).toList src synd
  refine ⟨_, exec_correctedError hsynd s pad src, ?held, ?unheld, congrArg ComputeWork.grids hwork,
    congrArg ComputeWork.insts hwork, congrArg ComputeWork.ops hwork, threadOf_of_work hwork,
    fun _ _ => exists_posOf_of_work hwork⟩
  case held =>
    intro h
    obtain ⟨p, hp⟩ := Option.isSome_iff_exists.1 h
    rw [hp, Option.map_some, id_of_padOf hp]
    rfl
  case unheld =>
    intro h
    rw [h]
    rfl

end Sys2Proof.Machine

/-! PROOF. The word of an instruction (R54 to R68). Each decoder of a field is characterised twice: what it accepts (`…_eq_ok`)
and that it accepts what its encoder writes (`…_enc`). The entries of the opcode map are chains of these decoders, so both
directions of the round trip follow entry by entry. -/

namespace Sys2Proof
open Machine


/-! ### Parts of a word that are checked -/

section
variable {α β : Type} {a : α} {b : β}

@[simp] theorem Chk.ap_eq_ok {f : Chk (α → β)} {x : Chk α} : f.ap x = .ok b ↔ ∃ a, x = .ok a ∧ ∃ g, f = .ok g ∧ g a = b := by
  cases f <;> cases x <;> simp [Chk.ap, Chk.worst]

@[simp] theorem Chk.also_eq_ok {f : Chk α} {x : Chk Unit} : f.also x = .ok a ↔ f = .ok a ∧ x = .ok () := by
  cases x <;> cases f <;> simp [Chk.also, Chk.ap, Chk.worst]

@[simp] theorem Chk.need_eq_ok {f : Chk α} {e : LoadError} {c : Bool} : f.need e c = .ok a ↔ f = .ok a ∧ c = true := by
  cases c <;> simp [Chk.need]

@[simp] theorem Chk.ofFate_eq_ok {f : Permit.Fate} {a' : α} : Chk.ofFate f a' = .ok a ↔ f = .ok ∧ a' = a := by
  cases f <;> simp [Chk.ofFate]
end

/-! ### Bits -/

@[simp] theorem eq_bit_iff {x : BitVec 1} {b : Bool} : x = bit b ↔ x[0] = b := by
  revert x; cases b <;> decide

theorem eq_append_iff {n m : Nat} {x : BitVec (n + m)} {a : BitVec n} {b : BitVec m} :
    x = a ++ b ↔ x.extractLsb' m n = a ∧ x.extractLsb' 0 m = b := by
  constructor
  · rintro rfl
    exact ⟨BitVec.extractLsb'_append_eq_left, BitVec.extractLsb'_append_eq_right⟩
  · rintro ⟨rfl, rfl⟩
    apply BitVec.eq_of_getLsbD_eq
    intro i hi
    simp only [BitVec.getLsbD_append, BitVec.getLsbD_extractLsb']
    grind

@[simp] theorem eq_mod11111 {m : BitVec 5} {a b c d e : BitVec 1} :
    m = a ++ b ++ c ++ d ++ e ↔ m.extractLsb' 4 1 = a ∧ m.extractLsb' 3 1 = b ∧ m.extractLsb' 2 1 = c ∧ m.extractLsb' 1 1 = d ∧ m.extractLsb' 0 1 = e := by
  revert m a b c d e; decide +kernel

@[simp] theorem eq_mod113 {m : BitVec 5} {a b : BitVec 1} {c : BitVec 3} :
    m = a ++ b ++ c ↔ m.extractLsb' 4 1 = a ∧ m.extractLsb' 3 1 = b ∧ m.extractLsb' 0 3 = c := by
  revert m a b c; decide +kernel

@[simp] theorem eq_mod1112 {m : BitVec 5} {a b c : BitVec 1} {d : BitVec 2} :
    m = a ++ b ++ c ++ d ↔ m.extractLsb' 4 1 = a ∧ m.extractLsb' 3 1 = b ∧ m.extractLsb' 2 1 = c ∧ m.extractLsb' 0 2 = d := by
  revert m a b c d; decide +kernel

@[simp] theorem eq_mod23 {m : BitVec 5} {a : BitVec 2} {b : BitVec 3} :
    m = a ++ b ↔ m.extractLsb' 3 2 = a ∧ m.extractLsb' 0 3 = b := by
  revert m a b; decide +kernel

@[simp] theorem eq_mod32 {m : BitVec 5} {a : BitVec 3} {b : BitVec 2} :
    m = a ++ b ↔ m.extractLsb' 2 3 = a ∧ m.extractLsb' 0 2 = b := by
  revert m a b; decide +kernel

@[simp] theorem eq_mod14 {m : BitVec 5} {a : BitVec 1} {b : BitVec 4} :
    m = a ++ b ↔ m.extractLsb' 4 1 = a ∧ m.extractLsb' 0 4 = b := by
  revert m a b; decide +kernel

@[simp] theorem eq_mod1121 {m : BitVec 5} {a b d : BitVec 1} {c : BitVec 2} :
    m = a ++ b ++ c ++ d ↔ m.extractLsb' 4 1 = a ∧ m.extractLsb' 3 1 = b ∧ m.extractLsb' 1 2 = c ∧ m.extractLsb' 0 1 = d := by
  revert m a b c d; decide +kernel

@[simp] theorem eq_mod131 {m : BitVec 5} {a c : BitVec 1} {b : BitVec 3} :
    m = a ++ b ++ c ↔ m.extractLsb' 4 1 = a ∧ m.extractLsb' 1 3 = b ∧ m.extractLsb' 0 1 = c := by
  revert m a b c; decide +kernel

/-- One bit of a word. -/
@[simp] theorem extractLsb'_eq_bit {n k : Nat} {x : BitVec n} {b : Bool} : x.extractLsb' k 1 = bit b ↔ x.getLsbD k = b := by
  simp

@[simp] theorem extractLsb'_eq_zero {n k : Nat} {x : BitVec n} : x.extractLsb' k 1 = 0#1 ↔ x.getLsbD k = false :=
  extractLsb'_eq_bit (b := false)

/-! ### Specifiers -/

theorem Spec.dec_enc (s : Spec) : Spec.dec s.enc = some s := by
  cases s
  case v i | imm i => revert i; decide
  case x i | c i | g i | h i | m i => revert i; decide
  case w i | b i | a i => revert i; decide
  case p i | z i | l i => revert i; decide
  all_goals rfl

theorem Spec.enc_of_dec_all : ∀ b : BitVec 10, (Spec.dec b).all (fun s => s.enc == b) = true := by decide +kernel

theorem Spec.dec_eq_some {b : BitVec 10} {s : Spec} : Spec.dec b = some s ↔ b = s.enc := by
  constructor
  · intro h
    have := Spec.enc_of_dec_all b
    rw [h, Option.all_some] at this
    exact (eq_of_beq this).symm
  · rintro rfl
    exact dec_enc s


/-! ### Operand fields -/

theorem Fields.toWord_inj {f f' : Fields} : f.toWord = f'.toWord ↔ f = f' := by
  constructor
  · intro h
    have key (g : Fields) : Fields.ofWord g.toWord = g := by
      cases g
      simp only [Fields.ofWord, Fields.toWord, Fields.mk.injEq]
      refine ⟨?_, ?_, ?_, ?_, ?_, ?_, ?_⟩ <;>
      · ext i hi
        simp only [BitVec.getElem_extractLsb', BitVec.getLsbD_append]
        grind
    rw [← key f, h, key]
  · rintro rfl; rfl

@[simp] theorem absS_eq_ok {f : BitVec 12} {u : Unit} : absS f = .ok u ↔ f = sAbsent := by
  simp [absS]

@[simp] theorem absD_eq_ok {f : BitVec 11} {u : Unit} : absD f = .ok u ↔ f = dAbsent := by
  simp [absD]

@[simp] theorem decGuard_eq_ok {scl : Bool} {x : BitVec 4} {g : Guard} :
    decGuard scl x = .ok g ↔ x = g.enc ∧ g.wf scl = true := by
  obtain ⟨p, n⟩ := g
  simp only [decGuard, Guard.enc, eq_append_iff (n := 3) (m := 1), eq_bit_iff]
  split <;> simp_all <;> grind

theorem eq_srcEnc {f : BitVec 12} {s : Src} :
    f = s.enc ↔ f.extractLsb' 2 10 = s.spec.enc ∧ f[1] = s.last ∧ f[0] = s.trap := by
  have : (f.extractLsb' 1 11).extractLsb' 1 10 = f.extractLsb' 2 10 := by
    ext i hi
    simp only [BitVec.getElem_extractLsb', BitVec.getLsbD_extractLsb']
    grind
  rw [Src.enc, eq_append_iff (n := 11) (m := 1), eq_append_iff (n := 10) (m := 1)]
  simp [and_assoc, this]

theorem eq_dstEnc {f : BitVec 11} {d : Dst} : f = d.enc ↔ f.extractLsb' 1 10 = d.spec.enc ∧ f[0] = d.byp := by
  rw [Dst.enc, eq_append_iff (n := 10) (m := 1)]
  simp


/-! ### Codes of the modifiers -/

@[simp] theorem IFmt.dec_eq_some {c : BitVec 2} {x : IFmt} : IFmt.dec c = some x ↔ c = x.enc := by
  revert c; cases x <;> decide

@[simp] theorem ICmp.dec_eq_some {c : BitVec 3} {x : ICmp} : ICmp.dec c = some x ↔ c = x.enc := by
  revert c; cases x <;> decide

@[simp] theorem PlopOp.dec_eq_some {c : BitVec 3} {x : PlopOp} : PlopOp.dec c = some x ↔ c = x.enc := by
  revert c; cases x <;> decide

@[simp] theorem PmovKind.dec_eq_some {c : BitVec 2} {x : PmovKind} : PmovKind.dec c = some x ↔ c = x.enc := by
  revert c; cases x <;> decide

@[simp] theorem Rnd.dec_eq_some {c : BitVec 3} {x : Rnd} : Rnd.dec c = some x ↔ c = x.enc := by
  revert c; cases x <;> decide

@[simp] theorem FCmp.dec_eq_some {c : BitVec 3} {x : FCmp} : FCmp.dec c = some x ↔ c = x.enc := by
  revert c; cases x <;> decide

@[simp] theorem SrcFmt.dec_eq_some {c : BitVec 2} {x : SrcFmt} : SrcFmt.dec c = some x ↔ c = x.enc := by
  revert c; cases x <;> decide

@[simp] theorem Seg.dec_eq_some {c : BitVec 3} {x : Seg} : Seg.dec c = some x ↔ c = x.enc := by
  revert c; cases x <;> decide

@[simp] theorem ShflMode.dec_eq_some {c : BitVec 2} {x : ShflMode} : ShflMode.dec c = some x ↔ c = x.enc := by
  revert c; cases x <;> decide

@[simp] theorem VoteMode.dec_eq_some {c : BitVec 2} {x : VoteMode} : VoteMode.dec c = some x ↔ c = x.enc := by
  revert c; cases x <;> decide

@[simp] theorem RedOp.dec_eq_some {c : BitVec 3} {x : RedOp} : RedOp.dec c = some x ↔ c = x.enc := by
  revert c; cases x <;> decide

@[simp] theorem RedFmt.dec_eq_some {c : BitVec 2} {x : RedFmt} : RedFmt.dec c = some x ↔ c = x.enc := by
  revert c; cases x <;> decide

@[simp] theorem ScanOp.dec_eq_some {c : BitVec 3} {x : ScanOp} : ScanOp.dec c = some x ↔ c = x.enc := by
  revert c; cases x <;> decide

@[simp] theorem AtomOp.dec_eq_some {c : BitVec 4} {x : AtomOp} : AtomOp.dec c = some x ↔ c = x.enc := by
  revert c; cases x <;> decide

@[simp] theorem CpyOp.dec_eq_some {c : BitVec 3} {x : CpyOp} : CpyOp.dec c = some x ↔ c = x.enc := by
  revert c; cases x <;> decide

@[simp] theorem RelFmt.dec_eq_some {c : BitVec 2} {x : RelFmt} : RelFmt.dec c = some x ↔ c = x.enc := by
  revert c; cases x <;> decide

@[simp] theorem RingWant.dec_eq_some {c : BitVec 2} {x : RingWant} : RingWant.dec c = some x ↔ c = x.enc := by
  revert c; cases x <;> decide

@[simp] theorem QSel.dec_eq_some {c : BitVec 3} {x : QSel} : QSel.dec c = some x ↔ c = x.enc := by
  revert c; cases x <;> decide

@[simp] theorem NmkField.dec_eq_some {c : BitVec 3} {x : NmkField} : NmkField.dec c = some x ↔ c = x.enc := by
  revert c; cases x <;> decide


@[simp] theorem decSrc_eq_ok {scl : Bool} {p : Spec → Bool} {f : BitVec 12} {s : Src} :
    decSrc scl p f = .ok s ↔ f = s.enc ∧ s.wf scl p = true := by
  obtain ⟨x, l, t⟩ := s
  rw [eq_srcEnc, ← Spec.dec_eq_some]
  unfold decSrc
  split
  case h_1 h => simp [h]
  case h_2 y h =>
    simp [Src.wf, h]
    grind

@[simp] theorem decDst_eq_ok {scl dual : Bool} {p : Spec → Bool} {f : BitVec 11} {d : Dst} :
    decDst scl dual p f = .ok d ↔ f = d.enc ∧ d.wf scl dual p = true := by
  obtain ⟨x, l⟩ := d
  rw [eq_dstEnc, ← Spec.dec_eq_some]
  unfold decDst
  split
  case h_1 h => simp [h]
  case h_2 y h =>
    simp [Dst.wf, h]
    grind

@[simp] theorem decSrcI_eq_ok {scl i shift : Bool} {f2 f3 : BitVec 12} {b : SrcI} :
    decSrcI scl i shift f2 f3 = .ok b ↔ i = b.isImm ∧ f2 = b.encHi ∧ f3 = b.encLo ∧ b.wf scl shift = true := by
  cases b <;> cases i <;> simp [decSrcI, SrcI.isImm, SrcI.encHi, SrcI.encLo, SrcI.wf]
  case src.false => grind
  case imm.true k =>
    constructor
    · rintro ⟨rfl, hs⟩
      exact ⟨BitVec.extractLsb'_append_eq_left.symm, BitVec.extractLsb'_append_eq_right.symm, hs⟩
    · rintro ⟨rfl, rfl, hs⟩
      rw [← (eq_append_iff (n := 12) (m := 12)).2 ⟨rfl, rfl⟩]
      exact ⟨rfl, hs⟩
/-! more -/
@[simp] theorem decSrcO_eq_ok {scl c : Bool} {p : Spec → Bool} {f : BitVec 12} {s : Src} :
    decSrcO scl c p f = .ok s ↔ f = s.enc ∧ (if c then s.wf scl p = true else s = Src.absent) := by
  cases c
  · simp only [decSrcO, Bool.false_eq_true, if_false, Chk.also_eq_ok, Chk.ok.injEq, absS_eq_ok]
    constructor
    · rintro ⟨rfl, rfl⟩; exact ⟨rfl, rfl⟩
    · rintro ⟨rfl, rfl⟩; exact ⟨rfl, rfl⟩
  · simp [decSrcO]

theorem decKind_eq_ok {α : Type} {scl : Bool} {sel : Spec → Option α} {f : BitVec 12} {a : α} {s : Spec}
    (hs : ∀ x, sel x = some a ↔ x = s) (hm : Permit.markable s = false) :
    decKind scl sel f = .ok a ↔ f = s.enc ++ 0#2 ∧ Permit.outOfScope scl s = false := by
  rw [eq_append_iff (n := 10) (m := 2), ← Spec.dec_eq_some]
  unfold decKind
  split
  case h_1 h => simp [h]
  case h_2 y h =>
    rw [h, Chk.need_eq_ok, Option.some.injEq, ← hs]
    by_cases ho : Permit.outOfScope scl y = true
    · simp [ho]
      rintro hy -
      obtain rfl := (hs y).1 hy
      exact ho
    · cases hy : sel y with
      | none => simp [ho]
      | some b =>
        simp [ho]
        constructor
        · rintro ⟨rfl, h2⟩
          obtain rfl := (hs y).1 hy
          simp_all
        · rintro ⟨⟨rfl, h2⟩, h3⟩
          simp_all

theorem decKindD_eq_ok {α : Type} {scl : Bool} {sel : Spec → Option α} {f : BitVec 11} {a : α} {s : Spec} {q : Prop}
    (hs : ∀ x, sel x = some a ↔ x = s ∧ q) (hm : Permit.isV s = false) (hc : Permit.c15 s = false) :
    decKindD scl sel f = .ok a ↔ f = s.enc ++ 0#1 ∧ Permit.outOfScope scl s = false ∧ q := by
  rw [eq_append_iff (n := 10) (m := 1), ← Spec.dec_eq_some]
  unfold decKindD
  split
  case h_1 h => simp [h]
  case h_2 y h =>
    rw [h, Chk.need_eq_ok, Option.some.injEq]
    cases hy : sel y with
    | none =>
      have : ¬ (y = s ∧ q) := by simp [← hs, hy]
      grind
    | some b =>
      have := hs y
      by_cases ho : (Permit.outOfScope scl y || Permit.c15 y) = true
      · grind
      · rw [extractLsb'_eq_zero]
        grind



@[simp] theorem IFmt.dec_enc (x : IFmt) : IFmt.dec x.enc = some x := IFmt.dec_eq_some.2 rfl
@[simp] theorem ICmp.dec_enc (x : ICmp) : ICmp.dec x.enc = some x := ICmp.dec_eq_some.2 rfl
@[simp] theorem PlopOp.dec_enc (x : PlopOp) : PlopOp.dec x.enc = some x := PlopOp.dec_eq_some.2 rfl
@[simp] theorem PmovKind.dec_enc (x : PmovKind) : PmovKind.dec x.enc = some x := PmovKind.dec_eq_some.2 rfl
@[simp] theorem Rnd.dec_enc (x : Rnd) : Rnd.dec x.enc = some x := Rnd.dec_eq_some.2 rfl
@[simp] theorem FCmp.dec_enc (x : FCmp) : FCmp.dec x.enc = some x := FCmp.dec_eq_some.2 rfl
@[simp] theorem SrcFmt.dec_enc (x : SrcFmt) : SrcFmt.dec x.enc = some x := SrcFmt.dec_eq_some.2 rfl
@[simp] theorem Seg.dec_enc (x : Seg) : Seg.dec x.enc = some x := Seg.dec_eq_some.2 rfl
@[simp] theorem ShflMode.dec_enc (x : ShflMode) : ShflMode.dec x.enc = some x := ShflMode.dec_eq_some.2 rfl
@[simp] theorem VoteMode.dec_enc (x : VoteMode) : VoteMode.dec x.enc = some x := VoteMode.dec_eq_some.2 rfl
@[simp] theorem RedOp.dec_enc (x : RedOp) : RedOp.dec x.enc = some x := RedOp.dec_eq_some.2 rfl
@[simp] theorem RedFmt.dec_enc (x : RedFmt) : RedFmt.dec x.enc = some x := RedFmt.dec_eq_some.2 rfl
@[simp] theorem ScanOp.dec_enc (x : ScanOp) : ScanOp.dec x.enc = some x := ScanOp.dec_eq_some.2 rfl
@[simp] theorem AtomOp.dec_enc (x : AtomOp) : AtomOp.dec x.enc = some x := AtomOp.dec_eq_some.2 rfl
@[simp] theorem CpyOp.dec_enc (x : CpyOp) : CpyOp.dec x.enc = some x := CpyOp.dec_eq_some.2 rfl
@[simp] theorem RelFmt.dec_enc (x : RelFmt) : RelFmt.dec x.enc = some x := RelFmt.dec_eq_some.2 rfl
@[simp] theorem RingWant.dec_enc (x : RingWant) : RingWant.dec x.enc = some x := RingWant.dec_eq_some.2 rfl
@[simp] theorem QSel.dec_enc (x : QSel) : QSel.dec x.enc = some x := QSel.dec_eq_some.2 rfl
@[simp] theorem NmkField.dec_enc (x : NmkField) : NmkField.dec x.enc = some x := NmkField.dec_eq_some.2 rfl

@[simp] theorem Chk.ok_ap_ok {α β : Type} (f : α → β) (a : α) : (Chk.ok f).ap (.ok a) = .ok (f a) := rfl
@[simp] theorem Chk.ok_also_ok {α : Type} (a : α) (u : Unit) : (Chk.ok a).also (.ok u) = .ok a := rfl
@[simp] theorem Chk.ok_need_true {α : Type} (a : α) (e : LoadError) : (Chk.ok a).need e true = .ok a := rfl

variable {scl : Bool}

theorem selH_eq {x : Spec} {i : BitVec 4} : selH x = some i ↔ x = .h i := by cases x <;> simp [selH]
theorem selM_eq {x : Spec} {i : BitVec 4} : selM x = some i ↔ x = .m i := by cases x <;> simp [selM]
theorem selL_eq {x : Spec} {i : BitVec 3} : selL x = some i ↔ x = .l i := by cases x <;> simp [selL]
theorem selA_eq {x : Spec} {i : BitVec 5} : selA x = some i ↔ x = .a i := by cases x <;> simp [selA]
theorem selP_eq {x : Spec} {i : BitVec 3} : selP x = some i ↔ x = .p i := by cases x <;> simp [selP]

@[simp] theorem decH_eq_ok {f : BitVec 12} {i : BitVec 4} : decH scl f = .ok i ↔ f = encH i := by
  rw [decH, decKind_eq_ok (fun _ => selH_eq) rfl]
  simp [encH, Permit.outOfScope, Permit.isV, Permit.isX, Permit.lowPred]

@[simp] theorem decM_eq_ok {f : BitVec 12} {i : BitVec 4} : decM scl f = .ok i ↔ f = encM i := by
  rw [decM, decKind_eq_ok (fun _ => selM_eq) rfl]
  simp [encM, Permit.outOfScope, Permit.isV, Permit.isX, Permit.lowPred]

@[simp] theorem decP_eq_ok {f : BitVec 12} {i : BitVec 3} :
    decP scl f = .ok i ↔ f = encP i ∧ Permit.outOfScope scl (.p i) = false := by
  rw [decP, decKind_eq_ok (fun _ => selP_eq) rfl, encP]

@[simp] theorem decMD_eq_ok {f : BitVec 11} {i : BitVec 4} : decMD scl f = .ok i ↔ f = encMD i := by
  rw [decMD, decKindD_eq_ok (fun _ => selM_eq.trans (and_iff_left trivial).symm) rfl rfl]
  simp [encMD, Permit.outOfScope, Permit.isV, Permit.isX, Permit.lowPred]

@[simp] theorem decLD_eq_ok {f : BitVec 11} {i : BitVec 3} : decLD scl f = .ok i ↔ f = encLD i := by
  rw [decLD, decKindD_eq_ok (fun _ => selL_eq.trans (and_iff_left trivial).symm) rfl rfl]
  simp [encLD, Permit.outOfScope, Permit.isV, Permit.isX, Permit.lowPred]

@[simp] theorem decAD_eq_ok {f : BitVec 11} {i : BitVec 5} : decAD scl f = .ok i ↔ f = encAD i := by
  rw [decAD, decKindD_eq_ok (fun _ => selA_eq.trans (and_iff_left trivial).symm) rfl rfl]
  simp [encAD, Permit.outOfScope, Permit.isV, Permit.isX, Permit.lowPred]

theorem selP6_eq {x : Spec} {i : BitVec 3} : selP6 x = some i ↔ x = .p i ∧ i ≠ 7 := by cases x <;> simp [selP6]; grind

@[simp] theorem decPD_eq_ok {f : BitVec 11} {i : BitVec 3} :
    decPD scl f = .ok i ↔ f = encPD i ∧ scl = false ∧ i ≠ 7 := by
  rw [decPD, decKindD_eq_ok (fun _ => selP6_eq) rfl rfl, encPD]
  simp [Permit.outOfScope, Permit.isV, Permit.isX, Permit.lowPred]
  grind

@[simp] theorem decPO_eq_ok {p : Bool} {f : BitVec 11} {x : Option (BitVec 3)} :
    decPO scl p f = .ok x ↔ p = x.isSome ∧ f = encPO x ∧ predOptOk scl x = true := by
  cases p <;> cases x <;> simp [decPO, encPO, predOptOk]

@[simp] theorem decStv_eq_ok {f : BitVec 11} {s : Spec} :
    decStv scl f = .ok s ↔ f = s.enc ++ 0#1 ∧ Permit.srcFate scl Permit.gen s = .ok := by
  rw [eq_append_iff (n := 10) (m := 1), ← Spec.dec_eq_some]
  unfold decStv
  split
  case h_1 h => simp [h]
  case h_2 y h =>
    rw [h, Chk.need_eq_ok, Option.some.injEq, Chk.ofFate_eq_ok, extractLsb'_eq_zero]
    grind

/-- The 36 bits of S1, S2 and S3. -/
theorem eq_append_s1_s2_s3 {k : BitVec 36} {a b c : BitVec 12} :
    k = a ++ b ++ c ↔ a = k.extractLsb' 24 12 ∧ b = k.extractLsb' 12 12 ∧ c = k.extractLsb' 0 12 := by
  rw [eq_append_iff (n := 24) (m := 12), eq_append_iff (n := 12) (m := 12)]
  have h1 : (k.extractLsb' 12 24).extractLsb' 12 12 = k.extractLsb' 24 12 := by
    ext i hi; simp only [BitVec.getElem_extractLsb', BitVec.getLsbD_extractLsb']; grind
  have h2 : (k.extractLsb' 12 24).extractLsb' 0 12 = k.extractLsb' 12 12 := by
    ext i hi; simp only [BitVec.getElem_extractLsb', BitVec.getLsbD_extractLsb']; grind
  rw [h1, h2, and_assoc, eq_comm, eq_comm (b := b), eq_comm (b := c)]

@[simp] theorem decOff_eq_ok {a b c : BitVec 12} {k : BitVec 36} : decOff a b c = .ok k ↔
    a = k.extractLsb' 24 12 ∧ b = k.extractLsb' 12 12 ∧ c = k.extractLsb' 0 12 := by
  rw [← eq_append_s1_s2_s3, decOff, Chk.ok.injEq, eq_comm]

@[simp] theorem decK32_eq_ok {a b c : BitVec 12} {k : Word} : decK32 a b c = .ok k ↔
    a = (0#4 ++ k : BitVec 36).extractLsb' 24 12 ∧ b = (0#4 ++ k : BitVec 36).extractLsb' 12 12 ∧
      c = (0#4 ++ k : BitVec 36).extractLsb' 0 12 := by
  rw [← eq_append_s1_s2_s3, eq_comm (a := (0#4 ++ k : BitVec 36)), eq_append_iff (n := 4) (m := 32), decK32, Chk.need_eq_ok, Chk.ok.injEq, beq_iff_eq,
    and_comm]
  have : (a ++ b ++ c : BitVec 36).extractLsb' 32 4 = a.extractLsb' 8 4 := by
    ext i hi; simp only [BitVec.getElem_extractLsb', BitVec.getLsbD_append]; grind
  rw [this]

@[simp] theorem decK12_eq_ok {a b c k : BitVec 12} : decK12 a b c = .ok k ↔
    a = (k.setWidth 36).extractLsb' 24 12 ∧ b = (k.setWidth 36).extractLsb' 12 12 ∧ c = (k.setWidth 36).extractLsb' 0 12 := by
  have h2 : (k.setWidth 36).extractLsb' 24 12 = 0#12 := by ext i hi; simp; grind
  have h1 : (k.setWidth 36).extractLsb' 12 12 = 0#12 := by ext i hi; simp
  have h0 : (k.setWidth 36).extractLsb' 0 12 = k := by ext i hi; simp; grind
  rw [h2, h1, h0, decK12, Chk.need_eq_ok, Chk.ok.injEq]
  simp
  grind

@[simp] theorem decK16_eq_ok {a b c : BitVec 12} {k : BitVec 16} : decK16 a b c = .ok k ↔
    a = (k.setWidth 36).extractLsb' 24 12 ∧ b = (k.setWidth 36).extractLsb' 12 12 ∧ c = (k.setWidth 36).extractLsb' 0 12 := by
  have hk : k.setWidth 36 = (0#20 ++ k : BitVec 36) := by ext i hi; simp only [BitVec.getElem_setWidth]; grind
  have h20 : (a ++ b ++ c : BitVec 36).extractLsb' 16 20 = (a ++ b.extractLsb' 4 8 : BitVec 20) := by
    ext i hi; simp only [BitVec.getElem_extractLsb', BitVec.getLsbD_append]; grind
  have h16 : (a ++ b ++ c : BitVec 36).extractLsb' 0 16 = (b ++ c : BitVec 24).extractLsb' 0 16 := by
    ext i hi; simp only [BitVec.getElem_extractLsb', BitVec.getLsbD_append]; grind
  have h0 : (a ++ b.extractLsb' 4 8 : BitVec 20) = 0#20 ↔ a = 0#12 ∧ b.extractLsb' 4 8 = 0#8 := by
    rw [eq_comm, eq_append_iff (n := 12) (m := 8), eq_comm, eq_comm (b := b.extractLsb' 4 8)]
    rfl
  rw [← eq_append_s1_s2_s3, hk, eq_comm (a := (0#20 ++ k : BitVec 36)), eq_append_iff (n := 20) (m := 16), h20, h16, h0, decK16, Chk.need_eq_ok,
    Chk.ok.injEq, and_comm]
  simp

@[simp] theorem decI12_eq_ok {a b k : BitVec 12} : decI12 a b = .ok k ↔ a = 0#12 ∧ b = k := by
  simp [decI12]
  grind

@[simp] theorem decLdhSrc_eq_ok {reg : Bool} {a b c : BitVec 12} {x : LdhSrc} : decLdhSrc scl reg a b c = .ok x ↔
    reg = x.isReg ∧ a = x.enc1 ∧ b = x.enc2 ∧ c = x.enc3 ∧ x.wf scl = true := by
  cases reg <;> cases x <;> simp [decLdhSrc, LdhSrc.isReg, LdhSrc.enc1, LdhSrc.enc2, LdhSrc.enc3, LdhSrc.wf] <;> grind

@[simp] theorem decPostSrc_eq_ok {reg : Bool} {a : BitVec 12} {x : PostSrc} : decPostSrc scl reg a = .ok x ↔
    reg = x.isReg ∧ a = x.enc1 ∧ x.wf scl = true := by
  cases reg <;> cases x <;> simp [decPostSrc, PostSrc.isReg, PostSrc.enc1, PostSrc.wf]

@[simp] theorem TagwFmt.dec_eq_some {c : BitVec 5} {x : TagwFmt} : TagwFmt.dec c = some x ↔ c = x.enc ∧ x.ok = true := by
  cases x with
  | reg => revert c; decide
  | fmt f => revert c f; decide +kernel

@[simp] theorem decGuard_enc {g : Guard} (h : g.wf scl = true) : decGuard scl g.enc = .ok g := decGuard_eq_ok.2 ⟨rfl, h⟩
@[simp] theorem decSrc_enc {p : Spec → Bool} {s : Src} (h : s.wf scl p = true) : decSrc scl p s.enc = .ok s :=
  decSrc_eq_ok.2 ⟨rfl, h⟩
@[simp] theorem decSrcO_enc {c : Bool} {p : Spec → Bool} {s : Src} (h : if c then s.wf scl p = true else s = Src.absent) :
    decSrcO scl c p s.enc = .ok s := decSrcO_eq_ok.2 ⟨rfl, h⟩
@[simp] theorem decDst_enc {dual : Bool} {p : Spec → Bool} {d : Dst} (h : d.wf scl dual p = true) :
    decDst scl dual p d.enc = .ok d := decDst_eq_ok.2 ⟨rfl, h⟩
@[simp] theorem decSrcI_enc {shift : Bool} {b : SrcI} (h : b.wf scl shift = true) :
    decSrcI scl b.isImm shift b.encHi b.encLo = .ok b := decSrcI_eq_ok.2 ⟨rfl, rfl, rfl, h⟩
@[simp] theorem decH_enc (i : BitVec 4) : decH scl (encH i) = .ok i := decH_eq_ok.2 rfl
@[simp] theorem decM_enc (i : BitVec 4) : decM scl (encM i) = .ok i := decM_eq_ok.2 rfl
@[simp] theorem decMD_enc (i : BitVec 4) : decMD scl (encMD i) = .ok i := decMD_eq_ok.2 rfl
@[simp] theorem decLD_enc (i : BitVec 3) : decLD scl (encLD i) = .ok i := decLD_eq_ok.2 rfl
@[simp] theorem decAD_enc (i : BitVec 5) : decAD scl (encAD i) = .ok i := decAD_eq_ok.2 rfl
@[simp] theorem decPO_enc {x : Option (BitVec 3)} (h : predOptOk scl x = true) : decPO scl x.isSome (encPO x) = .ok x :=
  decPO_eq_ok.2 ⟨rfl, rfl, h⟩
@[simp] theorem decStv_enc {s : Spec} (h : Permit.srcFate scl Permit.gen s = .ok) : decStv scl (s.enc ++ 0#1) = .ok s :=
  decStv_eq_ok.2 ⟨rfl, h⟩
@[simp] theorem decLdhSrc_enc {x : LdhSrc} (h : x.wf scl = true) : decLdhSrc scl x.isReg x.enc1 x.enc2 x.enc3 = .ok x :=
  decLdhSrc_eq_ok.2 ⟨rfl, rfl, rfl, rfl, h⟩
@[simp] theorem decPostSrc_enc {x : PostSrc} (h : x.wf scl = true) : decPostSrc scl x.isReg x.enc1 = .ok x :=
  decPostSrc_eq_ok.2 ⟨rfl, rfl, h⟩
@[simp] theorem absS_sAbsent : absS sAbsent = .ok () := absS_eq_ok.2 rfl
@[simp] theorem absD_dAbsent : absD dAbsent = .ok () := absD_eq_ok.2 rfl

@[simp] theorem decP_enc {i : BitVec 3} (h : scl = false) : decP scl (encP i) = .ok i :=
  decP_eq_ok.2 ⟨rfl, by rw [h]; rfl⟩
@[simp] theorem decPD_enc {i : BitVec 3} (h : scl = false) (hi : i ≠ 7) : decPD scl (encPD i) = .ok i :=
  decPD_eq_ok.2 ⟨rfl, h, hi⟩
@[simp] theorem decK32_enc (k : Word) : decK32 ((0#4 ++ k : BitVec 36).extractLsb' 24 12)
    ((0#4 ++ k : BitVec 36).extractLsb' 12 12) ((0#4 ++ k : BitVec 36).extractLsb' 0 12) = .ok k := decK32_eq_ok.2 ⟨rfl, rfl, rfl⟩
@[simp] theorem TagwFmt.dec_enc {x : TagwFmt} (h : x.ok = true) : TagwFmt.dec x.enc = some x := TagwFmt.dec_eq_some.2 ⟨rfl, h⟩

/-- A format code takes four bits. -/
@[simp] theorem setWidth_setWidth_of_fmtOk {f : Fmt} (h : fmtOk f = true) : (f.setWidth 4).setWidth 5 = f := by
  revert f; decide +kernel

/-- The rounding mode of `ast`, which has two bits (R200). -/
@[simp] theorem setWidth_eq_rndEnc {c : BitVec 2} {r : Rnd} : c.setWidth 3 = r.enc ↔ r ≠ .rs ∧ c = r.enc.setWidth 2 := by
  revert c; cases r <;> decide
@[simp] theorem Rnd.dec_setWidth {r : Rnd} (h : r ≠ .rs) : Rnd.dec ((r.enc.setWidth 2).setWidth 3) = some r := by
  rw [Rnd.dec_eq_some]
  exact setWidth_eq_rndEnc.2 ⟨h, rfl⟩

/-- S2 of `cvt` (R166). -/
theorem eq_encCvt {f : BitVec 12} {e : BitVec 3} {r : Rnd} : f = encCvt e r ↔
    f.extractLsb' 8 4 = 0xE#4 ∧ f.extractLsb' 5 3 = e ∧ f.extractLsb' 2 3 = r.enc ∧ f.extractLsb' 0 2 = 0#2 := by
  have h1 : (f.extractLsb' 5 7).extractLsb' 3 4 = f.extractLsb' 8 4 := by
    ext i hi; simp only [BitVec.getElem_extractLsb', BitVec.getLsbD_extractLsb']; grind
  have h2 : (f.extractLsb' 2 10).extractLsb' 3 7 = f.extractLsb' 5 7 := by
    ext i hi; simp only [BitVec.getElem_extractLsb', BitVec.getLsbD_extractLsb']; grind
  have h3 : (f.extractLsb' 5 7).extractLsb' 0 3 = f.extractLsb' 5 3 := by
    ext i hi; simp only [BitVec.getElem_extractLsb', BitVec.getLsbD_extractLsb']; grind
  have h4 : (f.extractLsb' 2 10).extractLsb' 0 3 = f.extractLsb' 2 3 := by
    ext i hi; simp only [BitVec.getElem_extractLsb', BitVec.getLsbD_extractLsb']; grind
  rw [encCvt, eq_append_iff (n := 10) (m := 2), eq_append_iff (n := 7) (m := 3), h2, h4, eq_append_iff (n := 4) (m := 3), h1, h3,
    and_assoc, and_assoc]

/-- The ROUND field of `cvt` is read where S2 is no operand. -/
theorem top_of_encCvt {f : BitVec 12} (h : f.extractLsb' 8 4 = 0xE#4) : f.extractLsb' 9 3 = 7#3 := by
  have : f.extractLsb' 9 3 = (f.extractLsb' 8 4).extractLsb' 1 3 := by
    ext i hi; simp only [BitVec.getElem_extractLsb', BitVec.getLsbD_extractLsb']; grind
  rw [this, h]
  rfl

/-! ### What a row of the opcode map decodes is encoded by the fields it decodes from -/

section
variable {scl : Bool} {w : Fields} {i : Instr}

theorem decCvt_sound (h : decCvt scl w = .ok i) : i.wf scl = true ∧ Fields.toWord { w with opc := 0x51#8 } = encode i := by
  unfold decCvt at h
  split at h
  · cases h
  next r hr =>
    simp only [Chk.need_eq_ok, Chk.ap_eq_ok, Chk.ok.injEq] at h
    casesm* _ ∧ _, ∃ _, _
    subst_vars
    delta Instr.wf encode
    simp_all [Fields.toWord_inj, eq_encCvt, top_of_encCvt]

theorem decSmap_sound (h : decSmap scl w = .ok i) : i.wf scl = true ∧ Fields.toWord { w with opc := 0xAD#8 } = encode i := by
  unfold decSmap at h
  simp only [Chk.need_eq_ok, Chk.ap_eq_ok, Chk.also_eq_ok, Chk.ok.injEq] at h
  casesm* _ ∧ _, ∃ _, _
  subst_vars
  delta Instr.wf encode
  simp_all [Fields.toWord_inj, -BitVec.reduceAppend]

theorem decSmapOff_sound (h : decSmapOff scl w = .ok i) : i.wf scl = true ∧ Fields.toWord { w with opc := 0xAD#8 } = encode i :=
  by
  unfold decSmapOff at h
  simp only [Chk.need_eq_ok, Chk.ap_eq_ok, Chk.also_eq_ok, Chk.ok.injEq] at h
  casesm* _ ∧ _, ∃ _, _
  subst_vars
  delta Instr.wf encode
  simp_all [Fields.toWord_inj, -BitVec.reduceAppend]

theorem decBarB_sound (h : decBarB scl w = .ok i) : i.wf scl = true ∧ Fields.toWord { w with opc := 0xD0#8 } = encode i := by
  unfold decBarB at h
  simp only [Chk.need_eq_ok, Chk.ap_eq_ok, Chk.also_eq_ok, Chk.ok.injEq] at h
  casesm* _ ∧ _, ∃ _, _
  subst_vars
  delta Instr.wf encode
  simp_all [Fields.toWord_inj, -BitVec.reduceAppend]

theorem decBarC_sound (h : decBarC scl w = .ok i) : i.wf scl = true ∧ Fields.toWord { w with opc := 0xD0#8 } = encode i := by
  unfold decBarC at h
  simp only [Chk.need_eq_ok, Chk.ap_eq_ok, Chk.also_eq_ok, Chk.ok.injEq] at h
  casesm* _ ∧ _, ∃ _, _
  subst_vars
  delta Instr.wf encode
  simp_all [Fields.toWord_inj, -BitVec.reduceAppend]

theorem decBarG_sound (h : decBarG scl w = .ok i) : i.wf scl = true ∧ Fields.toWord { w with opc := 0xD0#8 } = encode i := by
  unfold decBarG at h
  simp only [Chk.need_eq_ok, Chk.ap_eq_ok, Chk.also_eq_ok, Chk.ok.injEq] at h
  casesm* _ ∧ _, ∃ _, _
  subst_vars
  delta Instr.wf encode
  simp_all [Fields.toWord_inj, -BitVec.reduceAppend]

theorem decEnq_sound (h : decEnq scl w = .ok i) : i.wf scl = true ∧ Fields.toWord { w with opc := 0xD5#8 } = encode i := by
  unfold decEnq at h
  simp only [Chk.need_eq_ok, Chk.ap_eq_ok, Chk.also_eq_ok, Chk.ok.injEq] at h
  casesm* _ ∧ _, ∃ _, _
  subst_vars
  delta Instr.wf encode
  simp_all [-BitVec.reduceAppend]

theorem decEnqAt_sound (h : decEnqAt scl w = .ok i) : i.wf scl = true ∧ Fields.toWord { w with opc := 0xD5#8 } = encode i := by
  unfold decEnqAt at h
  simp only [Chk.need_eq_ok, Chk.ap_eq_ok, Chk.also_eq_ok, Chk.ok.injEq] at h
  casesm* _ ∧ _, ∃ _, _
  subst_vars
  delta Instr.wf encode
  simp_all [-BitVec.reduceAppend]

theorem decEnqRetry_sound (h : decEnqRetry scl w = .ok i) : i.wf scl = true ∧ Fields.toWord { w with opc := 0xD5#8 } = encode i :=
  by
  unfold decEnqRetry at h
  simp only [Chk.need_eq_ok, Chk.ap_eq_ok, Chk.also_eq_ok, Chk.ok.injEq] at h
  casesm* _ ∧ _, ∃ _, _
  subst_vars
  delta Instr.wf encode
  simp_all [-BitVec.reduceAppend]

theorem decEnqCancel_sound (h : decEnqCancel scl w = .ok i) : i.wf scl = true ∧ Fields.toWord { w with opc := 0xD5#8 } = encode i
  := by
  unfold decEnqCancel at h
  simp only [Chk.need_eq_ok, Chk.ap_eq_ok, Chk.also_eq_ok, Chk.ok.injEq] at h
  casesm* _ ∧ _, ∃ _, _
  subst_vars
  delta Instr.wf encode
  simp_all [-BitVec.reduceAppend]

/-- Row 0x0_ of the opcode map. -/
theorem decRow0_sound {lo : Nat} (h : decRow0 scl w lo = .ok i) :
    i.wf scl = true ∧ Fields.toWord { w with opc := BitVec.ofNat 8 (0x00 + lo) } = encode i := by
  unfold decRow0 at h
  split at h
  case h_17 => cases h
  all_goals
    simp only [decIadd, decIsub, decImul, decImad, decImulhi, decImin, decImax, decIabs, decIneg, decAnd, decOr, decXor, decAndn,
      decShl, decShr, decSar] at h
    repeat (split at h; · cases h)
    simp only [Chk.need_eq_ok, Chk.ap_eq_ok, Chk.also_eq_ok, Chk.ok.injEq] at h
    casesm* _ ∧ _, ∃ _, _
    subst_vars
    delta Instr.wf encode
    simp_all [Fields.toWord_inj, -BitVec.reduceAppend]

/-- Row 0x1_ of the opcode map. -/
theorem decRow1_sound {lo : Nat} (h : decRow1 scl w lo = .ok i) :
    i.wf scl = true ∧ Fields.toWord { w with opc := BitVec.ofNat 8 (0x10 + lo) } = encode i := by
  unfold decRow1 at h
  split at h
  case h_16 => cases h
  all_goals
    simp only [decRot, decPopc, decClz, decBrev, decBfx, decBfi, decIcmp, decSel, decMov, decMovk, decLea, decDp4, decDp8,
      decPlop, decPmov] at h
    repeat (split at h; · cases h)
    simp only [Chk.need_eq_ok, Chk.ap_eq_ok, Chk.also_eq_ok, Chk.ok.injEq] at h
    casesm* _ ∧ _, ∃ _, _
    subst_vars
    delta Instr.wf encode
    simp_all [Fields.toWord_inj, -BitVec.reduceAppend]

/-- Row 0x4_ of the opcode map. -/
theorem decRow4_sound {lo : Nat} (h : decRow4 scl w lo = .ok i) :
    i.wf scl = true ∧ Fields.toWord { w with opc := BitVec.ofNat 8 (0x40 + lo) } = encode i := by
  unfold decRow4 at h
  split at h
  case h_17 => cases h
  all_goals
    simp only [decFadd, decFsub, decFmul, decFfma, decFmin, decFmax, decFcmp, decFclass, decFrcp, decFrsq, decFsqrt, decFex2,
      decFlg2, decFsin, decFcos, decFtanh] at h
    repeat (split at h; · cases h)
    simp only [Chk.need_eq_ok, Chk.ap_eq_ok, Chk.also_eq_ok, Chk.ok.injEq] at h
    casesm* _ ∧ _, ∃ _, _
    subst_vars
    delta Instr.wf encode
    simp_all [Fields.toWord_inj, -BitVec.reduceAppend]

/-- Row 0x5_ of the opcode map. -/
theorem decRow5_sound {lo : Nat} (h : decRow5 scl w lo = .ok i) :
    i.wf scl = true ∧ Fields.toWord { w with opc := BitVec.ofNat 8 (0x50 + lo) } = encode i := by
  unfold decRow5 at h
  split at h
  case h_9 => cases h
  case h_2 => exact decCvt_sound h
  all_goals
    simp only [decFrnd, decQnt, decDqt, decPack, decUnpk, decTagr, decTagw] at h
    repeat (split at h; · cases h)
    simp only [Chk.need_eq_ok, Chk.ap_eq_ok, Chk.also_eq_ok, Chk.ok.injEq] at h
    casesm* _ ∧ _, ∃ _, _
    subst_vars
    delta Instr.wf encode
    simp_all [Fields.toWord_inj, -BitVec.reduceAppend]

/-- Row 0x8_ of the opcode map. -/
theorem decRow8_sound {lo : Nat} (h : decRow8 scl w lo = .ok i) :
    i.wf scl = true ∧ Fields.toWord { w with opc := BitVec.ofNat 8 (0x80 + lo) } = encode i := by
  unfold decRow8 at h
  split at h
  case h_13 => cases h
  all_goals
    simp only [decShfl, decVote, decBallot, decLred, decScan, decMatchq, decElect, decSup, decSred, decRgive, decRclaim, decRpool]
      at h
    repeat (split at h; · cases h)
    simp only [Chk.need_eq_ok, Chk.ap_eq_ok, Chk.also_eq_ok, Chk.ok.injEq] at h
    casesm* _ ∧ _, ∃ _, _
    subst_vars
    delta Instr.wf encode
    simp_all [Fields.toWord_inj, -BitVec.reduceAppend]

/-- Row 0xA_ of the opcode map. -/
theorem decRowA_sound {lo : Nat} (h : decRowA scl w lo = .ok i) :
    i.wf scl = true ∧ Fields.toWord { w with opc := BitVec.ofNat 8 (0xA0 + lo) } = encode i := by
  unfold decRowA at h
  split at h
  case h_17 => cases h
  case h_14 =>
    repeat' split at h
    · exact decSmapOff_sound h
    · exact decSmap_sound h
  all_goals
    simp only [decLdh, decLd, decSt, decAtom, decRed, decFence, decPfh, decRes, decCpy, decCpyr, decWaitt, decWaita, decTfind,
      decSflush, decSinv] at h
    repeat (split at h; · cases h)
    simp only [Chk.need_eq_ok, Chk.ap_eq_ok, Chk.also_eq_ok, Chk.ok.injEq] at h
    casesm* _ ∧ _, ∃ _, _
    subst_vars
    delta Instr.wf encode
    simp_all [Fields.toWord_inj, -BitVec.reduceAppend]

/-- Row 0xB_ of the opcode map. -/
theorem decRowB_sound {lo : Nat} (h : decRowB scl w lo = .ok i) :
    i.wf scl = true ∧ Fields.toWord { w with opc := BitVec.ofNat 8 (0xB0 + lo) } = encode i := by
  unfold decRowB at h
  split at h
  case h_5 => cases h
  all_goals
    simp only [decSend, decRecv, decRelay, decRlwait] at h
    simp only [Chk.need_eq_ok, Chk.ap_eq_ok, Chk.also_eq_ok, Chk.ok.injEq] at h
    casesm* _ ∧ _, ∃ _, _
    subst_vars
    delta Instr.wf encode
    simp_all [Fields.toWord_inj, -BitVec.reduceAppend]

/-- Row 0xC_ of the opcode map. -/
theorem decRowC_sound {lo : Nat} (h : decRowC scl w lo = .ok i) :
    i.wf scl = true ∧ Fields.toWord { w with opc := BitVec.ofNat 8 (0xC0 + lo) } = encode i := by
  unfold decRowC at h
  split at h
  case h_14 => cases h
  all_goals
    simp only [decLload, decMfence, decMma, decMwait, decAzero, decAmov, decAst, decAld, decArel, decAlg, decConj, decNorm,
      decAmul] at h
    repeat (split at h; · cases h)
    simp only [Chk.need_eq_ok, Chk.ap_eq_ok, Chk.also_eq_ok, Chk.ok.injEq] at h
    casesm* _ ∧ _, ∃ _, _
    subst_vars
    delta Instr.wf encode
    simp_all [Fields.toWord_inj, -BitVec.reduceAppend]

/-- Row 0xD_ of the opcode map. -/
theorem decRowD_sound {lo : Nat} (h : decRowD scl w lo = .ok i) :
    i.wf scl = true ∧ Fields.toWord { w with opc := BitVec.ofNat 8 (0xD0 + lo) } = encode i := by
  unfold decRowD at h
  split at h
  case h_17 => cases h
  case h_1 =>
    repeat' split at h
    · exact decBarC_sound h
    · exact decBarG_sound h
    · exact decBarB_sound h
  case h_6 =>
    repeat' split at h
    · exact decEnqAt_sound h
    · exact decEnqRetry_sound h
    · exact decEnqCancel_sound h
    · exact decEnq_sound h
  all_goals
    simp only [decCarrive, decCwait, decRpush, decRpop, decTdone, decQstat, decAsk, decAnnc, decWdrw, decNmk, decPslot, decPpost,
      decPwait, decPrel] at h
    repeat (split at h; · cases h)
    simp only [Chk.need_eq_ok, Chk.ap_eq_ok, Chk.also_eq_ok, Chk.ok.injEq] at h
    casesm* _ ∧ _, ∃ _, _
    subst_vars
    delta Instr.wf encode
    simp_all [Fields.toWord_inj, -BitVec.reduceAppend]

/-- Row 0xE_ of the opcode map. -/
theorem decRowE_sound {lo : Nat} (h : decRowE scl w lo = .ok i) :
    i.wf scl = true ∧ Fields.toWord { w with opc := BitVec.ofNat 8 (0xE0 + lo) } = encode i := by
  unfold decRowE at h
  split at h
  case h_8 => cases h
  all_goals
    simp only [decBra, decBrx, decCall, decRet, decExit, decYield, decJoin] at h
    simp only [Chk.need_eq_ok, Chk.ap_eq_ok, Chk.also_eq_ok, Chk.ok.injEq] at h
    casesm* _ ∧ _, ∃ _, _
    subst_vars
    delta Instr.wf encode
    simp_all [Fields.toWord_inj, -BitVec.reduceAppend]

/-- Row 0xF_ of the opcode map. -/
theorem decRowF_sound {lo : Nat} (h : decRowF scl w lo = .ok i) :
    i.wf scl = true ∧ Fields.toWord { w with opc := BitVec.ofNat 8 (0xF0 + lo) } = encode i := by
  unfold decRowF at h
  split at h
  case h_8 => cases h
  all_goals
    simp only [decSysr, decSysw, decTrap, decTret, decBrk, decEvf, decNop] at h
    simp only [Chk.need_eq_ok, Chk.ap_eq_ok, Chk.also_eq_ok, Chk.ok.injEq] at h
    casesm* _ ∧ _, ∃ _, _
    subst_vars
    delta Instr.wf encode
    simp_all [Fields.toWord_inj, -BitVec.reduceAppend]

end

/-! ### What is encoded is read back -/

section

@[simp] theorem Guard.wf_false (g : Guard) : g.wf false = true := rfl

@[simp] theorem extractLsb'_eq_one {n k : Nat} {x : BitVec n} : x.extractLsb' k 1 = 1#1 ↔ x.getLsbD k = true :=
  extractLsb'_eq_bit (b := true)

/-- The decoder reads `i` back from the fields that `i` is encoded in. -/
def Instr.ReadBack (i : Instr) : Prop :=
  ∀ (scl : Bool) (opc : BitVec 8) (mod : BitVec 5) (g : BitVec 4) (d : BitVec 11) (s1 s2 s3 : BitVec 12), i.wf scl = true →
    Fields.toWord ⟨opc, mod, g, d, s1, s2, s3⟩ = encode i → decFields scl ⟨opc, mod, g, d, s1, s2, s3⟩ = .ok i

theorem Instr.readBack_iadd_to_iabs :
    (∀ f sat g d a b, ReadBack (.iadd f sat g d a b)) ∧ (∀ f sat g d a b, ReadBack (.isub f sat g d a b)) ∧
    (∀ f sat g d a b, ReadBack (.imul f sat g d a b)) ∧ (∀ f sat g d a b c, ReadBack (.imad f sat g d a b c)) ∧
    (∀ f g d a b, ReadBack (.imulhi f g d a b)) ∧ (∀ f g d a b, ReadBack (.imin f g d a b)) ∧
    (∀ f g d a b, ReadBack (.imax f g d a b)) ∧ (∀ f sat g d a, ReadBack (.iabs f sat g d a)) := by
  and_intros
  all_goals
    intros
    intro scl opc mod guard dst s1 s2 s3 h hw
    delta Instr.wf encode at *
    simp [Fields.toWord_inj, -BitVec.reduceAppend] at h hw
    simp [decFields, decRow0, decIadd, decIsub, decImul, decImad, decImulhi, decImin, decImax, decIabs, h, hw]

theorem Instr.readBack_ineg_to_sar :
    (∀ f sat g d a, ReadBack (.ineg f sat g d a)) ∧ (∀ g d a b, ReadBack (.and g d a b)) ∧ (∀ g d a b, ReadBack (.or g d a b)) ∧
    (∀ g d a b, ReadBack (.xor g d a b)) ∧ (∀ g d a b, ReadBack (.andn g d a b)) ∧ (∀ g d a b, ReadBack (.shl g d a b)) ∧
    (∀ g d a b, ReadBack (.shr g d a b)) ∧ (∀ g d a b, ReadBack (.sar g d a b)) := by
  and_intros
  all_goals
    intros
    intro scl opc mod guard dst s1 s2 s3 h hw
    delta Instr.wf encode at *
    simp [Fields.toWord_inj, -BitVec.reduceAppend] at h hw
    simp [decFields, decRow0, decIneg, decAnd, decOr, decXor, decAndn, decShl, decShr, decSar, h, hw]

theorem Instr.readBack_rot_to_sel :
    (∀ g d a b, ReadBack (.rot g d a b)) ∧ (∀ g d a, ReadBack (.popc g d a)) ∧ (∀ g d a, ReadBack (.clz g d a)) ∧
    (∀ g d a, ReadBack (.brev g d a)) ∧ (∀ sg g d a b c, ReadBack (.bfx sg g d a b c)) ∧ (∀ g d a b c, ReadBack (.bfi g d a b c))
    ∧ (∀ cc uns g d a b, ReadBack (.icmp cc uns g d a b)) ∧ (∀ g d a b c, ReadBack (.sel g d a b c)) := by
  and_intros
  all_goals
    intros
    intro scl opc mod guard dst s1 s2 s3 h hw
    delta Instr.wf encode at *
    simp [Fields.toWord_inj, -BitVec.reduceAppend] at h hw
    simp [decFields, decRow1, decRot, decPopc, decClz, decBrev, decBfx, decBfi, decIcmp, decSel, h, hw]

theorem Instr.readBack_mov_to_pmov :
    (∀ g d a, ReadBack (.mov g d a)) ∧ (∀ f g d k, ReadBack (.movk f g d k)) ∧ (∀ sh x64 g d a b, ReadBack (.lea sh x64 g d a b))
    ∧ (∀ ua ub sat g d a b c, ReadBack (.dp4 ua ub sat g d a b c)) ∧ (∀ ua ub sat g d a b c, ReadBack (.dp8 ua ub sat g d a b c))
    ∧ (∀ op g d a b, ReadBack (.plop op g d a b)) ∧ (∀ k g d a, ReadBack (.pmov k g d a)) := by
  and_intros
  all_goals
    intros
    intro scl opc mod guard dst s1 s2 s3 h hw
    delta Instr.wf encode at *
    simp [Fields.toWord_inj, -BitVec.reduceAppend] at h hw
    simp [decFields, decRow1, decMov, decMovk, decLea, decDp4, decDp8, decPlop, decPmov, h, hw]

theorem Instr.readBack_fadd_to_fclass :
    (∀ f16 ftz r g d a b c, ReadBack (.fadd f16 ftz r g d a b c)) ∧ (∀ f16 ftz r g d a b c, ReadBack (.fsub f16 ftz r g d a b c))
    ∧ (∀ f16 ftz r g d a b c, ReadBack (.fmul f16 ftz r g d a b c)) ∧
    (∀ f16 ftz r g d a b c, ReadBack (.ffma f16 ftz r g d a b c)) ∧
    (∀ f16 ftz prop g d a b, ReadBack (.fmin f16 ftz prop g d a b)) ∧
    (∀ f16 ftz prop g d a b, ReadBack (.fmax f16 ftz prop g d a b)) ∧ (∀ cc ftz g d a b, ReadBack (.fcmp cc ftz g d a b)) ∧
    (∀ sf e1 g d a, ReadBack (.fclass sf e1 g d a)) := by
  and_intros
  all_goals
    intros
    intro scl opc mod guard dst s1 s2 s3 h hw
    delta Instr.wf encode at *
    simp [Fields.toWord_inj, -BitVec.reduceAppend] at h hw
    simp [decFields, decRow4, decFadd, decFsub, decFmul, decFfma, decFmin, decFmax, decFcmp, decFclass, h, hw]

theorem Instr.readBack_frcp_to_ftanh :
    (∀ f16 ftz r g d a, ReadBack (.frcp f16 ftz r g d a)) ∧ (∀ f16 ftz r g d a, ReadBack (.frsq f16 ftz r g d a)) ∧
    (∀ f16 ftz r g d a, ReadBack (.fsqrt f16 ftz r g d a)) ∧ (∀ f16 ftz r g d a, ReadBack (.fex2 f16 ftz r g d a)) ∧
    (∀ f16 ftz r g d a, ReadBack (.flg2 f16 ftz r g d a)) ∧ (∀ f16 ftz r g d a, ReadBack (.fsin f16 ftz r g d a)) ∧
    (∀ f16 ftz r g d a, ReadBack (.fcos f16 ftz r g d a)) ∧ (∀ f16 ftz r g d a, ReadBack (.ftanh f16 ftz r g d a)) := by
  and_intros
  all_goals
    intros
    intro scl opc mod guard dst s1 s2 s3 h hw
    delta Instr.wf encode at *
    simp [Fields.toWord_inj, -BitVec.reduceAppend] at h hw
    simp [decFields, decRow4, decFrcp, decFrsq, decFsqrt, decFex2, decFlg2, decFsin, decFcos, decFtanh, h, hw]

theorem Instr.readBack_frnd_to_tagw :
    (∀ f16 ftz r g d a, ReadBack (.frnd f16 ftz r g d a)) ∧ (∀ f elem r g d a c, ReadBack (.cvt f elem r g d a c)) ∧
    (∀ f rs g d a b c, ReadBack (.qnt f rs g d a b c)) ∧ (∀ f g d a b c, ReadBack (.dqt f g d a b c)) ∧
    (∀ g d a b c, ReadBack (.pack g d a b c)) ∧ (∀ wide g d a b, ReadBack (.unpk wide g d a b)) ∧
    (∀ g d a, ReadBack (.tagr g d a)) ∧ (∀ f g d a b, ReadBack (.tagw f g d a b)) := by
  and_intros
  all_goals
    intros
    intro scl opc mod guard dst s1 s2 s3 h hw
    delta Instr.wf encode at *
    simp [Fields.toWord_inj, -BitVec.reduceAppend, eq_encCvt] at h hw
    simp [decFields, decRow5, decFrnd, decCvt, decQnt, decDqt, decPack, decUnpk, decTagr, decTagw, h, hw, top_of_encCvt]

theorem Instr.readBack_shfl_to_matchq :
    (∀ mode seg g d a b c, ReadBack (.shfl mode seg g d a b c)) ∧ (∀ mode seg g d a, ReadBack (.vote mode seg g d a)) ∧
    (∀ q g d a, ReadBack (.ballot q g d a)) ∧ (∀ op f g d a, ReadBack (.lred op f g d a)) ∧
    (∀ op f g d a, ReadBack (.scan op f g d a)) ∧ (∀ q g d a, ReadBack (.matchq q g d a)) := by
  and_intros
  all_goals
    intros
    intro scl opc mod guard dst s1 s2 s3 h hw
    delta Instr.wf encode at *
    simp [Fields.toWord_inj, -BitVec.reduceAppend] at h hw
    simp [decFields, decRow8, decShfl, decVote, decBallot, decLred, decScan, decMatchq, h, hw]

theorem Instr.readBack_elect_to_rpool :
    (∀ hi seg g d, ReadBack (.elect hi seg g d)) ∧ (∀ f g d a, ReadBack (.sup f g d a)) ∧
    (∀ op f g d a, ReadBack (.sred op f g d a)) ∧ (∀ g n, ReadBack (.rgive g n)) ∧ (∀ g p n, ReadBack (.rclaim g p n)) ∧
    (∀ which g d, ReadBack (.rpool which g d)) := by
  and_intros
  all_goals
    intros
    intro scl opc mod guard dst s1 s2 s3 h hw
    delta Instr.wf encode at *
    simp [Fields.toWord_inj, -BitVec.reduceAppend] at h hw
    simp [decFields, decRow8, decElect, decSup, decSred, decRgive, decRclaim, decRpool, h, hw]

theorem Instr.readBack_ldh_to_fence :
    (∀ g d a, ReadBack (.ldh g d a)) ∧ (∀ f g d hs i o, ReadBack (.ld f g d hs i o)) ∧
    (∀ f g v hs i o, ReadBack (.st f g v hs i o)) ∧ (∀ op sys g d hs i v, ReadBack (.atom op sys g d hs i v)) ∧
    (∀ op sys g hs i v, ReadBack (.red op sys g hs i v)) ∧ (∀ sc g, ReadBack (.fence sc g)) := by
  and_intros
  all_goals
    intros
    intro scl opc mod guard dst s1 s2 s3 h hw
    delta Instr.wf encode at *
    simp [Fields.toWord_inj, -BitVec.reduceAppend] at h hw
    simp [decFields, decRowA, decLdh, decLd, decSt, decAtom, decRed, decFence, h, hw]

theorem Instr.readBack_pfh_to_waita :
    (∀ l2 g hs i o, ReadBack (.pfh l2 g hs i o)) ∧ (∀ kind g hs i n, ReadBack (.res kind g hs i n)) ∧
    (∀ g hd hs q, ReadBack (.cpy g hd hs q)) ∧ (∀ op rf g hd hs q, ReadBack (.cpyr op rf g hd hs q)) ∧
    (∀ hi g p m, ReadBack (.waitt hi g p m)) ∧ (∀ hi g p m, ReadBack (.waita hi g p m)) := by
  and_intros
  all_goals
    intros
    intro scl opc mod guard dst s1 s2 s3 h hw
    delta Instr.wf encode at *
    simp [Fields.toWord_inj, -BitVec.reduceAppend] at h hw
    simp [decFields, decRowA, decPfh, decRes, decCpy, decCpyr, decWaitt, decWaita, h, hw]

theorem Instr.readBack_tfind_to_sinv :
    (∀ kind hi g d m, ReadBack (.tfind kind hi g d m)) ∧ (∀ n g q hs x, ReadBack (.smap n g q hs x)) ∧
    (∀ n g, ReadBack (.smapOff n g)) ∧ (∀ n g t, ReadBack (.sflush n g t)) ∧ (∀ n g, ReadBack (.sinv n g)) := by
  and_intros
  all_goals
    intros
    intro scl opc mod guard dst s1 s2 s3 h hw
    delta Instr.wf encode at *
    simp [Fields.toWord_inj, -BitVec.reduceAppend] at h hw
    simp [decFields, decRowA, decTfind, decSmap, decSmapOff, decSflush, decSinv, h, hw]

theorem Instr.readBack_send_to_rlwait :
    (∀ g hs q, ReadBack (.send g hs q)) ∧ (∀ g hd q, ReadBack (.recv g hd q)) ∧ (∀ g d hp x q, ReadBack (.relay g d hp x q)) ∧
    (∀ g p t, ReadBack (.rlwait g p t)) := by
  and_intros
  all_goals
    intros
    intro scl opc mod guard dst s1 s2 s3 h hw
    delta Instr.wf encode at *
    simp [Fields.toWord_inj, -BitVec.reduceAppend] at h hw
    simp [decFields, decRowB, decSend, decRecv, decRelay, decRlwait, h, hw]

theorem Instr.readBack_lload_to_ast :
    (∀ g l hs x q, ReadBack (.lload g l hs x q)) ∧ (∀ g, ReadBack (.mfence g)) ∧ (∀ g p, ReadBack (.mma g p)) ∧
    (∀ prev g a, ReadBack (.mwait prev g a)) ∧ (∀ n new g a, ReadBack (.azero n new g a)) ∧
    (∀ comp prev g d a i, ReadBack (.amov comp prev g d a i)) ∧ (∀ r prev g md a t, ReadBack (.ast r prev g md a t)) := by
  and_intros
  all_goals
    intros
    intro scl opc mod guard dst s1 s2 s3 h hw
    delta Instr.wf encode at *
    simp [Fields.toWord_inj, -BitVec.reduceAppend] at h hw
    simp [decFields, decRowC, decLload, decMfence, decMma, decMwait, decAzero, decAmov, decAst, h, hw]

theorem Instr.readBack_ald_to_amul :
    (∀ new g a ms t, ReadBack (.ald new g a ms t)) ∧ (∀ prev g a, ReadBack (.arel prev g a)) ∧ (∀ n g p, ReadBack (.alg n g p)) ∧
    (∀ n g d a, ReadBack (.conj n g d a)) ∧ (∀ n g d a, ReadBack (.norm n g d a)) ∧
    (∀ n rev g d a b, ReadBack (.amul n rev g d a b)) := by
  and_intros
  all_goals
    intros
    intro scl opc mod guard dst s1 s2 s3 h hw
    delta Instr.wf encode at *
    simp [Fields.toWord_inj, -BitVec.reduceAppend] at h hw
    simp [decFields, decRowC, decAld, decArel, decAlg, decConj, decNorm, decAmul, h, hw]

theorem Instr.readBack_barB_to_rpop :
    (∀ idem g b n, ReadBack (.barB idem g b n)) ∧ (∀ g, ReadBack (.barC g)) ∧ (∀ g, ReadBack (.barG g)) ∧
    (∀ g b k, ReadBack (.carrive g b k)) ∧ (∀ g b n, ReadBack (.cwait g b n)) ∧ (∀ g r v, ReadBack (.rpush g r v)) ∧
    (∀ want g d r, ReadBack (.rpop want g d r)) := by
  and_intros
  all_goals
    intros
    intro scl opc mod guard dst s1 s2 s3 h hw
    delta Instr.wf encode at *
    simp [Fields.toWord_inj, -BitVec.reduceAppend] at h hw
    simp [decFields, decRowD, decBarB, decBarC, decBarG, decCarrive, decCwait, decRpush, decRpop, h, hw]

theorem Instr.readBack_enq_to_ask :
    (∀ g hs i, ReadBack (.enq g hs i)) ∧ (∀ g hs i, ReadBack (.enqAt g hs i)) ∧ (∀ g q t, ReadBack (.enqRetry g q t)) ∧
    (∀ g q t, ReadBack (.enqCancel g q t)) ∧ (∀ g, ReadBack (.tdone g)) ∧ (∀ what g d q t, ReadBack (.qstat what g d q t)) ∧
    (∀ g hd q p, ReadBack (.ask g hd q p)) := by
  and_intros
  all_goals
    intros
    intro scl opc mod guard dst s1 s2 s3 h hw
    delta Instr.wf encode at *
    simp [Fields.toWord_inj, -BitVec.reduceAppend] at h hw
    simp [decFields, decRowD, decEnq, decEnqAt, decEnqRetry, decEnqCancel, decTdone, decQstat, decAsk, h, hw]

theorem Instr.readBack_annc_to_prel :
    (∀ g hs q p, ReadBack (.annc g hs q p)) ∧ (∀ g q t, ReadBack (.wdrw g q t)) ∧ (∀ fld g d v, ReadBack (.nmk fld g d v)) ∧
    (∀ g p hs t w, ReadBack (.pslot g p hs t w)) ∧ (∀ g a q p, ReadBack (.ppost g a q p)) ∧ (∀ n g d q, ReadBack (.pwait n g d q))
    ∧ (∀ n g q, ReadBack (.prel n g q)) := by
  and_intros
  all_goals
    intros
    intro scl opc mod guard dst s1 s2 s3 h hw
    delta Instr.wf encode at *
    simp [Fields.toWord_inj, -BitVec.reduceAppend] at h hw
    simp [decFields, decRowD, decAnnc, decWdrw, decNmk, decPslot, decPpost, decPwait, decPrel, h, hw]

theorem Instr.readBack_bra_to_join :
    (∀ g off, ReadBack (.bra g off)) ∧ (∀ call g a, ReadBack (.brx call g a)) ∧ (∀ g off, ReadBack (.call g off)) ∧
    (∀ g, ReadBack (.ret g)) ∧ (∀ g, ReadBack (.exit g)) ∧ (∀ g, ReadBack (.yield g)) ∧ (∀ g, ReadBack (.join g)) := by
  and_intros
  all_goals
    intros
    intro scl opc mod guard dst s1 s2 s3 h hw
    delta Instr.wf encode at *
    simp [Fields.toWord_inj, -BitVec.reduceAppend] at h hw
    simp [decFields, decRowE, decBra, decBrx, decCall, decRet, decExit, decYield, decJoin, h, hw]

theorem Instr.readBack_sysr_to_nop :
    (∀ g d n, ReadBack (.sysr g d n)) ∧ (∀ g a n, ReadBack (.sysw g a n)) ∧ (∀ g k, ReadBack (.trap g k)) ∧
    (∀ next g, ReadBack (.tret next g)) ∧ (∀ g k, ReadBack (.brk g k)) ∧ (∀ g, ReadBack (.evf g)) ∧ (∀ g, ReadBack (.nop g)) := by
  and_intros
  all_goals
    intros
    intro scl opc mod guard dst s1 s2 s3 h hw
    delta Instr.wf encode at *
    simp [Fields.toWord_inj, -BitVec.reduceAppend] at h hw
    simp [decFields, decRowF, decSysr, decSysw, decTrap, decTret, decBrk, decEvf, decNop, h, hw]

end

section
variable {scl : Bool} {f : Fields} {w : Dword} {i : Instr}

theorem decFields_sound (h : decFields scl f = .ok i) : i.wf scl = true ∧ f.toWord = encode i := by
  have row {n b : Nat} (hn : f.opc.toNat / 16 = n) (hb : 16 * n = b)
      (hs : i.wf scl = true ∧ Fields.toWord { f with opc := BitVec.ofNat 8 (b + f.opc.toNat % 16) } = encode i) :
      i.wf scl = true ∧ f.toWord = encode i := by
    rwa [← hb, ← hn, Nat.div_add_mod, BitVec.ofNat_toNat, BitVec.setWidth_eq] at hs
  unfold decFields at h
  split at h
  next hn => exact row hn rfl (decRow0_sound h)
  next hn => exact row hn rfl (decRow1_sound h)
  next hn => exact row hn rfl (decRow4_sound h)
  next hn => exact row hn rfl (decRow5_sound h)
  next hn => exact row hn rfl (decRow8_sound h)
  next hn => exact row hn rfl (decRowA_sound h)
  next hn => exact row hn rfl (decRowB_sound h)
  next hn => exact row hn rfl (decRowC_sound h)
  next hn => exact row hn rfl (decRowD_sound h)
  next hn => exact row hn rfl (decRowE_sound h)
  next hn => exact row hn rfl (decRowF_sound h)
  · cases h

theorem Instr.readBack (h0 : encode i ≠ 0) (hp : ∀ gp a b, i ≠ .pair gp a b) : i.ReadBack := by
  cases i
  case pair => exact absurd rfl (hp _ _ _)
  all_goals try exact absurd rfl h0
  all_goals
    simp only [Instr.readBack_iadd_to_iabs, Instr.readBack_ineg_to_sar, Instr.readBack_rot_to_sel, Instr.readBack_mov_to_pmov,
      Instr.readBack_fadd_to_fclass, Instr.readBack_frcp_to_ftanh, Instr.readBack_frnd_to_tagw, Instr.readBack_shfl_to_matchq,
      Instr.readBack_elect_to_rpool, Instr.readBack_ldh_to_fence, Instr.readBack_pfh_to_waita, Instr.readBack_tfind_to_sinv,
      Instr.readBack_send_to_rlwait, Instr.readBack_lload_to_ast, Instr.readBack_ald_to_amul, Instr.readBack_barB_to_rpop,
      Instr.readBack_enq_to_ask, Instr.readBack_annc_to_prel, Instr.readBack_bra_to_join, Instr.readBack_sysr_to_nop]

theorem Fields.toWord_ofWord (w : Dword) : (Fields.ofWord w).toWord = w := by
  ext i hi
  simp only [Fields.ofWord, Fields.toWord]
  grind

/-! ### Pair words -/

theorem HalfSrc.ofBits_enc (s : HalfSrc) : HalfSrc.ofBits s.enc = s := by
  obtain ⟨b, n⟩ := s
  simp only [HalfSrc.ofBits, HalfSrc.enc, HalfSrc.mk.injEq]
  constructor
  · rw [BitVec.getLsbD_append]
    cases b <;> rfl
  · ext k hk
    simp only [BitVec.getElem_extractLsb', BitVec.getLsbD_append]
    grind

theorem HalfSrc.enc_ofBits (b : BitVec 8) : (HalfSrc.ofBits b).enc = b := by
  ext k hk
  simp only [HalfSrc.ofBits, HalfSrc.enc]
  grind [bit]

theorem Half.ofBits_enc (h : Half) : Half.ofBits h.enc = h := by
  obtain ⟨op, dst, a, b⟩ := h
  have ha : (op ++ dst ++ a.enc ++ b.enc).extractLsb' 8 8 = a.enc := by
    ext k hk
    simp only [BitVec.getElem_extractLsb', BitVec.getLsbD_append]
    grind
  have hb : (op ++ dst ++ a.enc ++ b.enc).extractLsb' 0 8 = b.enc := by
    ext k hk
    simp only [BitVec.getElem_extractLsb', BitVec.getLsbD_append]
    grind
  simp only [Half.ofBits, Half.enc, Half.mk.injEq, ha, hb, HalfSrc.ofBits_enc, and_true]
  constructor
  all_goals
    ext k hk
    simp only [BitVec.getElem_extractLsb', BitVec.getLsbD_append]
    grind

theorem Half.enc_ofBits (b : BitVec 28) : (Half.ofBits b).enc = b := by
  ext k hk
  simp only [Half.ofBits, Half.enc, HalfSrc.enc_ofBits]
  grind

/-- The parts of a pair word (R64). -/
theorem eq_pair_word {gp : BitVec 3} {a b : BitVec 28} :
    0b11100#5 ++ gp ++ a ++ b = w ↔
      w.extractLsb' 59 5 = 0b11100#5 ∧ w.extractLsb' 56 3 = gp ∧ w.extractLsb' 28 28 = a ∧ w.extractLsb' 0 28 = b := by
  constructor
  · rintro rfl
    refine ⟨?_, ?_, ?_, ?_⟩
    all_goals
      ext k hk
      simp only [BitVec.getElem_extractLsb', BitVec.getLsbD_append]
      grind
  · rintro ⟨h5, rfl, rfl, rfl⟩
    rw [← h5]
    ext k hk
    simp only [BitVec.getElem_append, BitVec.getElem_extractLsb']
    grind

theorem decPair_eq_ok (h5 : w.extractLsb' 59 5 = 0b11100#5) :
    decPair scl w = .ok i ↔ ∃ gp ha hb, i = .pair gp ha hb ∧ i.wf scl = true ∧ encode i = w := by
  constructor
  · intro h
    unfold decPair at h
    dsimp only at h
    split at h
    next hok =>
      cases h
      exact ⟨_, _, _, rfl, hok, eq_pair_word.2 ⟨h5, rfl, (Half.enc_ofBits _).symm, (Half.enc_ofBits _).symm⟩⟩
    next => cases h
  · rintro ⟨gp, ha, hb, rfl, hok, hw⟩
    obtain ⟨-, rfl, h1, h2⟩ := eq_pair_word.1 hw
    have hok : (!scl && pairOk ha hb) = true := hok
    simp only [decPair, h1, h2, Half.ofBits_enc, hok, if_true]

/-! ### Words -/

theorem decFields_of_pair (h : w.extractLsb' 59 5 = 0b11100#5) : decFields scl (Fields.ofWord w) = .bad .opcReserved := by
  have hopc : (Fields.ofWord w).opc.toNat / 8 = 28 := by
    have := congrArg BitVec.toNat h
    simp only [Fields.ofWord, BitVec.extractLsb'_toNat, BitVec.toNat_ofNat, Nat.shiftRight_eq_div_pow] at this ⊢
    omega
  have hrow : (Fields.ofWord w).opc.toNat / 16 = 14 := by omega
  have hcol : (Fields.ofWord w).opc.toNat % 16 < 8 := by omega
  simp only [decFields, hrow]
  unfold decRowE
  split
  case h_8 => rfl
  all_goals omega

theorem decodeIn_sound (h : decodeIn scl w = .ok i) : encode i = w ∧ i.wf scl = true := by
  unfold decodeIn at h
  split at h
  next h5 =>
    obtain ⟨_, _, _, -, hwf, henc⟩ := (decPair_eq_ok (eq_of_beq h5)).1 h
    exact ⟨henc, hwf⟩
  next =>
    obtain ⟨hwf, hw⟩ := decFields_sound h
    exact ⟨(hw.symm.trans (Fields.toWord_ofWord w)), hwf⟩

theorem decodeIn_encode (hwf : i.wf scl = true) (h0 : encode i ≠ 0) : decodeIn scl (encode i) = .ok i := by
  unfold decodeIn
  by_cases hp : ∃ gp a b, i = .pair gp a b
  · obtain ⟨gp, a, b, rfl⟩ := hp
    have h5 : (encode (.pair gp a b)).extractLsb' 59 5 = 0b11100#5 :=
      (eq_pair_word.1 (rfl : 0b11100#5 ++ gp ++ a.enc ++ b.enc = _)).1
    rw [if_pos (beq_iff_eq.2 h5)]
    exact (decPair_eq_ok h5).2 ⟨gp, a, b, rfl, hwf, rfl⟩
  · have hdec : decFields scl (Fields.ofWord (encode i)) = .ok i :=
      Instr.readBack h0 (fun gp a b h => hp ⟨gp, a, b, h⟩) scl _ _ _ _ _ _ _ hwf (Fields.toWord_ofWord _)
    split
    next h5 => cases (decFields_of_pair (scl := scl) (eq_of_beq h5)).symm.trans hdec
    next => exact hdec

end

/-- Settles O54: each entry of the opcode map reads back the fields it is encoded in, and accepts no others; a pair word is the
concatenation of its halves. -/
theorem wordRoundTrip : Obligations.WordRoundTrip :=
  ⟨fun _ _ hwf h0 => decodeIn_encode hwf h0, fun _ _ _ h => decodeIn_sound h⟩

end Sys2Proof

/-! PROOF. The 16 bytes of a relay step (R346, R348), and the opcodes that the map reserves (R68). -/

namespace Sys2Proof
open Machine

/-! ### Relay steps -/

theorem StepWord.ofBits_toBits (s : StepWord) : StepWord.ofBits s.toBits = some s := by
  obtain ⟨op, rop, rf, ns, pa, pb, ca, cb, cnt, tgt⟩ := s
  have hz : (StepWord.toBits ⟨op, rop, rf, ns, pa, pb, ca, cb, cnt, tgt⟩).extractLsb' 11 5 = 0#5 ∧
      (StepWord.toBits ⟨op, rop, rf, ns, pa, pb, ca, cb, cnt, tgt⟩).extractLsb' 112 16 = 0#16 := by
    constructor
    all_goals
      ext k hk
      simp only [StepWord.toBits, BitVec.getElem_extractLsb', BitVec.getLsbD_append]
      grind
  simp only [StepWord.ofBits, hz, beq_self_eq_true, Bool.and_self, if_true, Option.some.injEq, StepWord.mk.injEq]
  refine ⟨?_, ?_, ?_, ?_, ?_, ?_, ?_, ?_, ?_, ?_⟩
  case refine_4 =>
    simp only [StepWord.toBits, BitVec.getLsbD_append]
    grind
  all_goals
    ext k hk
    simp only [StepWord.toBits, BitVec.getElem_extractLsb', BitVec.getLsbD_append]
    grind

theorem decodeStep_of_instr {s : StepWord} {i : Instr} (h : encodeStep i = s.toBits) (hi : s.instr = some i) :
    decodeStep (encodeStep i) = some i := by
  rw [h, decodeStep, StepWord.ofBits_toBits, Option.bind_some, hi]
  exact if_pos (beq_iff_eq.2 h)

theorem decodeStep_of_instr_none {s : StepWord} {i : Instr} (h : encodeStep i = s.toBits) (hi : s.instr = none) :
    decodeStep (encodeStep i) = none := by
  rw [h, decodeStep, StepWord.ofBits_toBits, Option.bind_some, hi]

theorem decodeStep_eq_some {b : BitVec 128} {i : Instr} (h : decodeStep b = some i) : encodeStep i = b := by
  unfold decodeStep at h
  split at h
  next j _ =>
    split at h
    next hb => cases h; exact eq_of_beq hb
    next => cases h
  next => cases h

/-- The instruction of `rrs`'s fields: ROP's fourth bit is zero and its other bits name an operation (R348). -/
theorem instr_rrs {op : CpyOp} {f : RelFmt} {ns : Bool} {pa pb ca cb : BitVec 16} :
    StepWord.instr ⟨2, op.enc.setWidth 4, f.enc, ns, pa, pb, ca, cb, 0, 0⟩ =
      if cpyrOk op f = true then some (.rrs op f ns pa pb ca cb) else none := by
  have hw : (op.enc.setWidth 4).setWidth 3 = op.enc := by cases op <;> rfl
  have h3 : (op.enc.setWidth 4).getLsbD 3 = false := by cases op <;> rfl
  show (if (op.enc.setWidth 4).getLsbD 3 = true then none else _) = _
  rw [h3, hw, CpyOp.dec_enc, RelFmt.dec_enc]
  rfl

/-- Settles O55: the fields of a step come back from its bits, and `instr` names the step that they were taken from. -/
theorem relayStepRoundTrip : Obligations.RelayStepRoundTrip := by
  refine ⟨fun pa pb ca cb => ⟨decodeStep_of_instr rfl rfl, decodeStep_of_instr rfl rfl, decodeStep_of_instr rfl rfl,
    fun op f ns => ?_⟩, fun cnt tgt => ?_, decodeStep_of_instr rfl rfl, decodeStep_of_instr rfl rfl, fun _ _ => decodeStep_eq_some⟩
  · split
    next hok => exact decodeStep_of_instr rfl (instr_rrs.trans (if_pos hok))
    next hok => exact decodeStep_of_instr_none rfl (instr_rrs.trans (if_neg hok))
  · split
    next h0 => exact decodeStep_of_instr_none rfl (if_pos (beq_iff_eq.2 h0))
    next h0 => exact decodeStep_of_instr rfl (if_neg (mt eq_of_beq h0))

/-! ### Reserved opcodes -/

theorem decodeIn_of_ne {scl : Bool} {w : Dword} (h : w.extractLsb' 59 5 ≠ 0b11100#5) : decodeIn scl w = decFields scl (Fields.ofWord w) :=
  if_neg (mt eq_of_beq h)

/-- Settles O56: the row of such an opcode, or its place in the row, has no entry. -/
theorem reservedOpcodes : Obligations.ReservedOpcodes := by
  intro scl w row col h
  have hrow : (Fields.ofWord w).opc.toNat / 16 = row := by
    simp only [Fields.ofWord, row, BitVec.extractLsb'_toNat, Nat.shiftRight_eq_div_pow]
    omega
  have hcol : (Fields.ofWord w).opc.toNat % 16 = col := by
    simp only [Fields.ofWord, col, BitVec.extractLsb'_toNat, Nat.shiftRight_eq_div_pow]
    omega
  have hpair : w.extractLsb' 59 5 ≠ 0b11100#5 := by
    intro h5
    have := congrArg BitVec.toNat h5
    simp only [row, col, BitVec.extractLsb'_toNat, Nat.shiftRight_eq_div_pow, BitVec.toNat_ofNat, List.mem_cons,
      List.not_mem_nil, or_false] at this h
    omega
  have hcol16 : col < 16 := hcol ▸ Nat.mod_lt _ (by decide)
  rw [decodeIn_of_ne hpair, decFields, hrow, hcol]
  clear_value row col
  simp only [List.mem_cons, List.not_mem_nil, or_false] at h
  clear hrow hcol
  rcases h with hr | ⟨rfl, rfl⟩ | ⟨rfl, hc⟩ | ⟨rfl, hc⟩ | ⟨rfl, hc⟩ | ⟨rfl, hc⟩ | ⟨rfl, rfl⟩ | ⟨rfl, hc⟩
  · rcases hr with rfl | rfl | rfl | rfl | rfl <;> rfl
  · rfl
  · interval_cases col <;> rfl
  · interval_cases col <;> rfl
  · rcases hc with hc | hc <;> interval_cases col <;> rfl
  · interval_cases col <;> rfl
  · rfl
  · obtain ⟨h7, h15⟩ := hc
    interval_cases col <;> rfl

end Sys2Proof

/-! PROOF. Integer, logic, comparison, selection and predicate instructions in a lane (R149 to R160). -/

namespace Sys2Proof.Machine

/-! ### Integer arithmetic -/

section
variable {s : State} {h : Here} {g : Guard} {f : IFmt} {sat : Bool} {d : Dst} {a : Src} {b : SrcI} {i : Instr}
  {ra rb : RCtx → RV} {x y : RCtx → List Int}

theorem rdInts_ok {k : RCtx} {field : Nat} {r : RV} {l : List Int} (hr : rd k field a = .ok r) (hi : r.ints f = .ok l) :
    rdInts k field a f = .ok l := by
  simp only [rdInts, hr, LaneStep.bind, hi]

theorem rdIInts_ok {k : RCtx} {r : RV} {l : List Int} (hr : rdI k b = .ok r) (hi : r.ints f = .ok l) :
    rdIInts k b f = .ok l := by
  simp only [rdIInts, hr, LaneStep.bind, hi]

/-- An integer instruction of one source, element by element. -/
theorem delivers_intOp1 {op : Int → Int} (hat : s.here h) (ha : h.Reads g 1 a ra) (hx : h.Ints g f ra x)
    (he : exec i s = .next (s.runArms { g := g, dsts := [d.spec] } (pureArm (laneWise fun c => intOp1 c f sat op d a)))) :
    s.Delivers h g d [a] i fun k => intResult f sat ((x k).map op) := by
  refine delivers_of hat (fun k hk hw => ?_) he
  simp only [intOp1, rdInts_ok (ha k hk) (hx k hk), LaneStep.bind, outD_ok hw]

/-- An integer instruction of two sources, element by element. -/
theorem delivers_intOp2 {op : Int → Int → Int} (hat : s.here h) (ha : h.Reads g 1 a ra) (hx : h.Ints g f ra x)
    (hb : h.ReadsI g b rb) (hy : h.Ints g f rb y)
    (he : exec i s = .next (s.runArms { g := g, dsts := [d.spec] } (pureArm (laneWise fun c => intOp2 c f sat op d a b)))) :
    s.Delivers h g d (srcsI a b) i fun k => intResult f sat (List.zipWith op (x k) (y k)) := by
  refine delivers_of hat (fun k hk hw => ?_) he
  simp only [intOp2, rdInts_ok (ha k hk) (hx k hk), rdIInts_ok (hb k hk) (hy k hk), LaneStep.bind]
  exact outD_ok hw _ _

theorem delivers_imad {b e : Src} {re : RCtx → RV} {z : RCtx → List Int} (hat : s.here h) (ha : h.Reads g 1 a ra)
    (hx : h.Ints g f ra x) (hb : h.Reads g 2 b rb) (hy : h.Ints g f rb y) (he : h.Reads g 3 e re) (hz : h.Ints g f re z) :
    s.Delivers h g d [a, b, e] (.imad f sat g d a b e) fun k =>
      intResult f sat (List.zipWith (· + ·) (List.zipWith (· * ·) (x k) (y k)) (z k)) := by
  refine delivers_of hat (fun k hk hw => ?_) rfl
  simp only [laneImad, rdInts_ok (ha k hk) (hx k hk), rdInts_ok (hb k hk) (hy k hk), rdInts_ok (he k hk) (hz k hk),
    LaneStep.bind, outD_ok hw]

end

/-! ### Results in the 32-bit formats -/

theorem packElems_one (v : Nat) : packElems 32 [v] = BitVec.ofNat 32 v := by
  apply BitVec.eq_of_toNat_eq
  simp [packElems, setElem]

theorem ofNat_wrapTo (t : Int) : BitVec.ofNat 32 (wrapTo 32 t) = BitVec.ofInt 32 t := by
  apply BitVec.eq_of_toNat_eq
  simp only [BitVec.toNat_ofNat, BitVec.toNat_ofInt, wrapTo]
  omega

/-- A result of one element in a 32-bit format. -/
theorem intResult_one {f : IFmt} (hf : elemBits (ifmtCode f) = 32) (sat : Bool) (t : Int) :
    intResult f sat [t] = if sat then (⟨BitVec.ofInt 32 (clampTo (ifmtCode f) t).1, ifmtCode f⟩, { sat := (clampTo (ifmtCode f) t).2 })
      else (⟨BitVec.ofInt 32 t, ifmtCode f⟩, {}) := by
  cases sat <;>
    simp only [intResult, hf, narrow, List.map_cons, List.map_nil, packElems_one, ofNat_wrapTo, List.any_cons, List.any_nil,
      Bool.or_false, if_true, Bool.false_eq_true, if_false]

theorem clampTo_eq {f : Fmt} {lo hi : Int} (hlo : intMin f = lo) (hhi : intMax f = hi) (t : Int) :
    clampTo f t = if t < lo then (lo, true) else if hi < t then (hi, true) else (t, false) := by
  simp only [clampTo, hlo, hhi]

theorem intResult_s32_sat (t : Int) : intResult .s32 true [t] =
    if t < -2 ^ 31 then (⟨0x80000000, F.s32⟩, { sat := true })
    else if 2 ^ 31 - 1 < t then (⟨0x7FFFFFFF, F.s32⟩, { sat := true })
    else (⟨BitVec.ofInt 32 t, F.s32⟩, {}) := by
  rw [intResult_one rfl, clampTo_eq (lo := -2 ^ 31) (hi := 2 ^ 31 - 1) rfl rfl, if_pos rfl]
  split
  · rfl
  · split <;> rfl

theorem intResult_n32_sat (t : Int) : intResult .n32 true [t] =
    if t < 0 then (⟨0, F.n32⟩, { sat := true })
    else if 2 ^ 32 - 1 < t then (⟨0xFFFFFFFF, F.n32⟩, { sat := true })
    else (⟨BitVec.ofInt 32 t, F.n32⟩, {}) := by
  rw [intResult_one rfl, clampTo_eq (lo := 0) (hi := 2 ^ 32 - 1) rfl rfl, if_pos rfl]
  split
  · rfl
  · split <;> rfl

/-- Settles O1: every operation is `intOp1`, `intOp2` or `imad` on the elements that its lane reads; a 32-bit result is
wrapped, or clamped to the range first. -/
theorem integerArithmetic : Obligations.IntegerArithmetic := by
  refine ⟨fun s h g f sat d a ra x hat ha hx => ⟨fun b rb y hb hy => ?_, fun b e rb re y z hb hy he hz => ?_,
    fun b rb y hb hy => ?_, ?_, ?_⟩, fun t => ⟨fun f hf => ?_, fun _ _ => ?_, fun _ _ => ?_, fun _ => ?_, fun _ => ?_, fun _ => ?_,
      fun _ => ?_⟩⟩
  · exact ⟨delivers_intOp2 hat ha hx hb hy rfl, delivers_intOp2 hat ha hx hb hy rfl, delivers_intOp2 hat ha hx hb hy rfl,
      delivers_intOp2 hat ha hx hb hy rfl, delivers_intOp2 hat ha hx hb hy rfl⟩
  · exact delivers_imad hat ha hx hb hy he hz
  · exact delivers_intOp2 hat ha hx (b := .src b) hb hy rfl
  · have habs : (fun u : Int => if u < 0 then -u else u) = fun u => (u.natAbs : Int) := by
      funext u
      split <;> omega
    rw [habs]
    exact delivers_intOp1 hat ha hx rfl
  · exact delivers_intOp1 hat ha hx rfl
  · simp only [List.mem_cons, List.not_mem_nil, or_false] at hf
    rcases hf with rfl | rfl <;> exact intResult_one rfl false t
  · rw [intResult_s32_sat, if_neg (by omega), if_neg (by omega)]
  · rw [intResult_n32_sat, if_neg (by omega), if_neg (by omega)]
  · rw [intResult_s32_sat, if_pos (by omega)]
  · rw [intResult_s32_sat, if_neg (by omega), if_pos (by omega)]
  · rw [intResult_n32_sat, if_pos (by omega)]
  · rw [intResult_n32_sat, if_neg (by omega), if_pos (by omega)]

/-! ### Logic and shifts -/

section
variable {s : State} {h : Here} {g : Guard} {d : Dst} {a : Src} {b : SrcI} {i : Instr} {ra rb : RCtx → RV}

/-- A bitwise instruction of two sources: a function of the bits, under the tag of S1. -/
theorem delivers_logicOp {op : Word → Word → Word} {val : RCtx → TV} (hat : s.here h) (ha : h.Reads g 1 a ra)
    (hb : h.ReadsI g b rb) (hv : ∀ k, ⟨op (ra k).bits (rb k).bits, logicTag (ra k)⟩ = val k)
    (he : exec i s = .next (s.runArms { g := g, dsts := [d.spec] } (pureArm (laneWise fun c => logicOp c op d a b)))) :
    s.Delivers h g d (srcsI a b) i (noFlags val) := by
  refine delivers_of hat (fun k hk hw => ?_) he
  simp only [logicOp, ha k hk, hb k hk, LaneStep.bind, outD_ok hw, hv, noFlags]

end

theorem shlW_eq (x y : Word) : shlW x y = if 32 ≤ y.toNat then 0 else x <<< y.toNat := by
  unfold shlW
  split
  · rw [if_neg (by omega)]
  · rw [if_pos (by omega)]

theorem shrW_eq (x y : Word) : shrW x y = if 32 ≤ y.toNat then 0 else x >>> y.toNat := by
  unfold shrW
  split
  · rw [if_neg (by omega)]
  · rw [if_pos (by omega)]

theorem sarW_eq (x y : Word) : sarW x y = x.sshiftRight (min y.toNat 31) := by
  unfold sarW
  split
  · rw [Nat.min_eq_left (by omega)]
  · rw [Nat.min_eq_right (by omega)]

/-! ### Bit fields -/

/-- The bits of a field, below its length. -/
theorem testBit_field (x : Word) (p n i : Nat) : ((x.toNat >>> p) % 2 ^ n).testBit i = (decide (i < n) && x.getLsbD (p + i)) := by
  rw [Nat.testBit_mod_two_pow, Nat.testBit_shiftRight, BitVec.testBit_toNat]

theorem bfxW_false_getLsbD {x : Word} {p n i : Nat} (hi : i < 32) :
    (bfxW false x p n).getLsbD i = (decide (i < n) && x.getLsbD (p + i)) := by
  unfold bfxW
  split
  next h0 => simp [h0]
  next => simp only [Bool.false_eq_true, if_false, BitVec.getLsbD_ofNat, hi, decide_true, Bool.true_and, testBit_field]

/-- A field read as a signed number and wrapped is the sign extension of its bits. -/
theorem ofNat_wrapTo_toSigned {n v : Nat} (hv : v < 2 ^ n) :
    BitVec.ofNat 32 (wrapTo 32 (toSigned n v)) = (BitVec.ofNat n v).signExtend 32 := by
  have hint : toSigned n v = (BitVec.ofNat n v).toInt := by
    rw [BitVec.toInt_eq_toNat_cond, BitVec.toNat_ofNat, Nat.mod_eq_of_lt hv]
    push_cast
    rfl
  rw [ofNat_wrapTo, hint]
  rfl

theorem bfxW_true_getLsbD {x : Word} {p n i : Nat} (hi : i < 32) :
    (bfxW true x p n).getLsbD i = (decide (0 < n) && x.getLsbD (p + min i (n - 1))) := by
  unfold bfxW
  split
  next h0 => simp [h0]
  next h0 =>
    have hbit (j : Nat) (hj : j < n) : (BitVec.ofNat n ((x.toNat >>> p) % 2 ^ n)).getLsbD j = x.getLsbD (p + j) := by
      rw [BitVec.getLsbD_ofNat, testBit_field, decide_eq_true hj, Bool.true_and, Bool.true_and]
    have hpos : 0 < n := by omega
    rw [if_pos rfl, ofNat_wrapTo_toSigned (Nat.mod_lt _ (Nat.two_pow_pos n)), BitVec.getLsbD_signExtend, decide_eq_true hi,
      decide_eq_true hpos, Bool.true_and, Bool.true_and]
    split
    next hin => rw [hbit i hin, Nat.min_eq_left (by omega)]
    next hout => rw [BitVec.msb_eq_getLsbD_last, hbit _ (by omega), Nat.min_eq_right (by omega)]

theorem bfiW_getLsbD {old x : Word} {p n i : Nat} (hn : p + n ≤ 32) (hi : i < 32) :
    (bfiW old x p n).getLsbD i = if p ≤ i ∧ i < p + n then x.getLsbD (i - p) else old.getLsbD i := by
  have hm : (2 ^ n - 1) <<< p < 2 ^ 32 := by
    have hpow : 2 ^ n * 2 ^ p ≤ 2 ^ 32 := by
      rw [← Nat.pow_add]
      exact Nat.pow_le_pow_right (by decide) (by omega)
    rw [Nat.shiftLeft_eq, Nat.sub_mul, Nat.one_mul]
    have := Nat.two_pow_pos p
    have := Nat.two_pow_pos n
    have : 2 ^ p ≤ 2 ^ n * 2 ^ p := Nat.le_mul_of_pos_left _ (by assumption)
    omega
  have hmask : (2 ^ 32 - 1 - (2 ^ n - 1) <<< p).testBit i = !decide (p ≤ i ∧ i < p + n) := by
    rw [Nat.sub_sub, Nat.add_comm 1, Nat.testBit_two_pow_sub_succ hm, Nat.testBit_shiftLeft, Nat.testBit_two_pow_sub_one]
    grind
  simp only [bfiW, BitVec.getLsbD_ofNat, hi, decide_true, Bool.true_and, Nat.testBit_or, Nat.testBit_and, hmask,
    Nat.testBit_shiftLeft, Nat.testBit_mod_two_pow, BitVec.testBit_toNat]
  split
  next hin => simp [hin]; omega
  next hout => simp [hout]; omega

section
variable {s : State} {h : Here} {g : Guard} {d : Dst} {a b e : Src} {ra rb re : RCtx → RV}

theorem delivers_bfx (sg : Bool) (hat : s.here h) (ha : h.Reads g 1 a ra) (hb : h.Reads g 2 b rb) (he : h.Reads g 3 e re) :
    s.Delivers h g d [a, b, e] (.bfx sg g d a b e) (noFlags fun k =>
      ⟨bfxW sg (ra k).bits (fieldPN (rb k).bits (re k).bits).1 (fieldPN (rb k).bits (re k).bits).2,
        if sg then F.s32 else F.n32⟩) := by
  refine delivers_of hat (fun k hk hw => ?_) rfl
  simp only [laneBfx, ha k hk, hb k hk, he k hk, LaneStep.bind, outD_ok hw, noFlags]

theorem delivers_bfi {old : RCtx → RV} (hat : s.here h) (ho : h.Reads g 0 ⟨d.spec, false, false⟩ old) (ha : h.Reads g 1 a ra)
    (hb : h.Reads g 2 b rb) (he : h.Reads g 3 e re) :
    s.Delivers h g d [a, b, e] (.bfi g d a b e) (noFlags fun k =>
      ⟨bfiW (old k).bits (ra k).bits (fieldPN (rb k).bits (re k).bits).1 (fieldPN (rb k).bits (re k).bits).2,
        (old k).outTag⟩) := by
  refine delivers_of hat (fun k hk hw => ?_) rfl
  simp only [laneBfi, rdDst, ho k hk, ha k hk, hb k hk, he k hk, LaneStep.bind, outD_ok hw, noFlags]

end

/-- Settles O2: the logic operations are `logicOp` on the bits; `bfxW` and `bfiW` are R152's functions, bit by bit. -/
theorem logicShiftsAndFields : Obligations.LogicShiftsAndFields := by
  constructor
  · intro s h g d a b ra rb hat ha hb x y n tagged
    have tag {u v : Word} (k : RCtx) (huv : u = v) :
        (⟨u, logicTag (ra k)⟩ : TV) = ⟨v, match (ra k).tag with | .tag f => f | _ => F.raw32⟩ :=
      congrArg₂ TV.mk huv (logicTag_eq (ra k))
    exact ⟨delivers_logicOp hat ha hb (fun k => tag k rfl) rfl, delivers_logicOp hat ha hb (fun k => tag k rfl) rfl,
      delivers_logicOp hat ha hb (fun k => tag k rfl) rfl, delivers_logicOp hat ha hb (fun k => tag k rfl) rfl,
      delivers_logicOp hat ha hb (fun k => tag k (shlW_eq _ _)) rfl, delivers_logicOp hat ha hb (fun k => tag k (shrW_eq _ _)) rfl,
      delivers_logicOp hat ha hb (fun k => tag k (sarW_eq _ _)) rfl, delivers_logicOp hat ha hb (fun k => tag k rfl) rfl⟩
  · intro s h g d a b e ra rb re hat ha hb he p n
    exact ⟨bfxW false, bfxW true, bfiW, fun _ _ _ _ _ => bfxW_false_getLsbD, fun _ _ _ _ _ => bfxW_true_getLsbD,
      fun _ _ _ _ _ => bfiW_getLsbD, delivers_bfx false hat ha hb he, delivers_bfx true hat ha hb he,
      fun _ ho => delivers_bfi hat ho ha hb he⟩

section
variable {s : State} {h : Here} {g : Guard} {d : Dst} {a : Src} {b : SrcI} {i : Instr} {ra rb : RCtx → RV}

/-- An instruction that acts in each lane on its own, and whose executing lanes all have a result. -/
theorem exec_wrote {dsts : List Spec} {f : RCtx → LaneStep LaneOut} {out : RCtx → LaneOut} (hat : s.here h)
    (hf : ∀ k ∈ h.lanes g, f k = .ok (out k))
    (hb : allEqual (batonWrites (ArmOut.ofLanes ((h.lanes g).map fun k => (k.lane, out k))).lanes) = true)
    (he : exec i s = .next (s.runArms { g := g, dsts := dsts } (pureArm (laneWise f)))) :
    exec i s = .next (s.wrote h g dsts out) := by
  rw [he, runArms_here (s1 := s) (o := (h.lanes g).map fun k => (k.lane, out k)) hat rfl (by simp)]
  · rfl
  · simp only [pureArm, laneWise_ok hf hb, State.acquires, takesBatons_none batonsOf_nil]

/-! ### Comparisons, selection and moves -/

theorem delivers_icmp {cc : ICmp} {uns : Bool} {x y : RCtx → Int} {val : RCtx → TV} (hat : s.here h) (ha : h.Reads g 1 a ra)
    (hb : h.ReadsI g b rb)
    (hxy : ∀ k ∈ h.lanes g, (ra k).int32 (if uns then F.n32 else F.s32) = .ok (x k) ∧
      (rb k).int32 (if uns then F.n32 else F.s32) = .ok (y k))
    (hv : ∀ k, boolTV (icmpOf cc (x k) (y k)) = val k) :
    s.Delivers h g d (srcsI a b) (.icmp cc uns g d a b) (noFlags val) := by
  refine delivers_of hat (fun k hk hw => ?_) rfl
  obtain ⟨hx, hy⟩ := hxy k hk
  simp only [laneIcmp, ha k hk, hx, hb k hk, hy, LaneStep.bind, outD_ok hw, hv, noFlags]

/-- `sel` in a lane: the operand that S3 chooses is read, freed and written. -/
theorem laneSel_ok {k : RCtx} {b e : Src} {re chosen : RV} (he : rd k 3 e = .ok re)
    (hc : if re.bits = 0 then rd k 2 b = .ok chosen else rd k 1 a = .ok chosen)
    (hw : wrOk k d [e, if re.bits = 0 then b else a] = .ok ()) :
    laneSel d a b e k = .ok { writes := [(d, chosen.tv)], frees := [e, if re.bits = 0 then b else a] } := by
  by_cases h0 : re.bits = 0
  · simp only [h0, if_true] at hc hw ⊢
    simp only [laneSel, he, LaneStep.bind, h0, bne_self_eq_false, Bool.false_eq_true, if_false, hc, outD_ok hw, LaneOut.one]
  · simp only [h0, if_false] at hc hw ⊢
    simp only [laneSel, he, LaneStep.bind, bne_iff_ne, ne_eq, h0, not_false_eq_true, if_true, hc, outD_ok hw, LaneOut.one]

/-- Lanes none of which writes a baton write no two different values to one. -/
theorem allEqual_batonWrites_of_none {cs : List RCtx} {out : RCtx → LaneOut} (hb : ∀ k ∈ cs, batonWrite (out k) = none) :
    allEqual (batonWrites (ArmOut.ofLanes (cs.map fun k => (k.lane, out k))).lanes) = true := by
  have hnil : batonWrites (ArmOut.ofLanes (cs.map fun k => (k.lane, out k))).lanes = [] := by
    simpa [batonWrites, ArmOut.ofLanes, List.filterMap_map] using hb
  rw [hnil]
  rfl

/-- Results that each write one value to the same destination, the same to a baton. -/
theorem allEqual_batonWrites_same {cs : List RCtx} {frees : RCtx → List Src} {v : RCtx → TV}
    (hb : (∃ z, d.spec = .z z) → ∀ k ∈ cs, ∀ l ∈ cs, v k = v l) :
    allEqual (batonWrites (ArmOut.ofLanes (cs.map fun k =>
      (k.lane, ({ writes := [(d, v k)], frees := frees k } : LaneOut)))).lanes) = true := by
  have h1 := batonWrites_one (srcs := []) (val := noFlags v) hb
  simpa [batonWrites, ArmOut.ofLanes, List.filterMap_map, Function.comp_def, batonWrite, LaneOut.one, noFlags] using h1

theorem delivers_lea {sh : BitVec 3} (hat : s.here h) (ha : h.Reads g 1 a ra) (hb : h.ReadsI g b rb) :
    s.Delivers h g d (srcsI a b) (.lea sh false g d a b) (noFlags fun k => ⟨(ra k).bits + ((rb k).bits <<< sh.toNat), F.n32⟩) := by
  refine delivers_of hat (fun k hk hw => ?_) rfl
  simp only [laneLea, Bool.false_eq_true, if_false, ha k hk, hb k hk, LaneStep.bind, outD_ok hw, noFlags]


theorem specSucc_eq_baton {r : Spec} {z : BitVec 3} : specSucc r = .z z ↔ r = .z z := by
  cases r <;> simp [specSucc]

/-- `lea.x64`: the sum's halves go to a register and its successor. -/
theorem exec_lea64 {sh : BitVec 3} {hi : RCtx → RV} (hat : s.here h) (ha : h.Reads g 1 a ra) (hb : h.ReadsI g b rb)
    (hhi : h.Reads g 1 (srcSucc a) hi) (hz : ¬ ∃ z, d.spec = .z z)
    (hw : ∀ k ∈ h.lanes g, wrOk k d = .ok () ∧ wrOk k (dstSucc d) = .ok ()) :
    exec (.lea sh true g d a b) s = .next (s.wrote h g [d.spec, specSucc d.spec] fun k =>
      let sum : BitVec 64 := ((hi k).bits ++ (ra k).bits) + ((rb k).bits.signExtend 64 <<< sh.toNat)
      { writes := [(d, ⟨sum.setWidth 32, F.n32⟩), (dstSucc d, ⟨(sum >>> 32).setWidth 32, F.n32⟩)]
        frees := a :: srcSucc a :: srcsI ⟨.zero, false, false⟩ b }) := by
  refine exec_wrote hat (f := laneLea sh true d a b) (fun k hk => ?_) (allEqual_batonWrites_of_none fun k _ => ?_) rfl
  · obtain ⟨hw0, hw1⟩ := hw k hk
    simp only [laneLea, if_true, ha k hk, hhi k hk, hb k hk, LaneStep.bind, hw0, hw1]
    rfl
  · have hz' (z : BitVec 3) : specSucc d.spec ≠ .z z := fun e => hz ⟨z, specSucc_eq_baton.1 e⟩
    simp only [not_exists] at hz
    simp only [batonWrite, dstSucc, List.findSome?_cons, List.findSome?_nil]

end

/-- Settles O4: each instruction is read lane by lane; only `sel`'s sources depend on a value, and only `lea.x64` writes two
registers. -/
theorem compareSelectMove : Obligations.CompareSelectMove := by
  intro s h g d a hat
  refine ⟨fun b cc uns ra rb x y ha hb hxy => ?_, fun b e chosen re he hc hw hz => ?_, fun ra ha => ?_, fun f v => ?_,
    fun sh b ra rb ha hb => ⟨delivers_lea hat ha hb, fun hi hhi hz hw => exec_lea64 hat ha hb hhi hz hw⟩⟩
  · exact delivers_icmp hat ha hb hxy fun k => by cases cc <;> rfl
  · exact exec_wrote hat (f := laneSel d a b e) (fun k hk => laneSel_ok (he k hk) (hc k hk) (hw k hk))
      (allEqual_batonWrites_same hz) rfl
  · exact delivers_ofSource RV.tv hat ha (fun k => rfl) rfl
  · exact delivers_of hat (fun k _ hw => outD_ok hw _ _) rfl

/-! ### Dot products and predicates -/

theorem foldl_add_eq_sum (l : List Int) : l.foldl (· + ·) 0 = l.sum := List.sum_eq_foldl.symm

/-- A 32-bit result as a container: clamped to the range of its format with SAT, else wrapped. -/
theorem narrow_eq {fr : Fmt} {lo hi : Int} (hlo : intMin fr = lo) (hhi : intMax fr = hi) (hle : lo ≤ hi)
    (hbits : elemBits fr = 32) (sat : Bool) (t : Int) :
    (BitVec.ofNat 32 (narrow fr sat t).1, (narrow fr sat t).2) =
      if sat then (BitVec.ofInt 32 (max lo (min hi t)), decide (t < lo) || decide (hi < t)) else (BitVec.ofInt 32 t, false) := by
  cases sat
  · simp only [narrow, Bool.false_eq_true, if_false, hbits, ofNat_wrapTo]
  · simp only [narrow, if_true, hbits, ofNat_wrapTo, clampTo_eq hlo hhi]
    split
    next h => simp [h, show max lo (min hi t) = lo by omega]
    next h =>
      split
      next h' => simp [h', show max lo (min hi t) = hi by omega]
      next h' => simp [h, h', show max lo (min hi t) = t by omega]

section
variable {s : State} {h : Here} {g : Guard} {i : Instr}

/-- A dot product of operands in the formats `fa` and `fb`. -/
theorem delivers_dot {fa fb : Fmt} {sat : Bool} {d : Dst} {a b e : Src} {ra rb re : RCtx → RV} {x y : RCtx → List Int}
    {z : RCtx → Int} {fr : Fmt} {lo hi : Int} (hat : s.here h) (ha : h.Reads g 1 a ra) (hb : h.Reads g 2 b rb)
    (he : h.Reads g 3 e re) (hfr : (if isUnsigned fa && isUnsigned fb then F.n32 else F.s32) = fr) (hlo : intMin fr = lo) (hhi : intMax fr = hi)
    (hle : lo ≤ hi) (hbits : elemBits fr = 32) (hz : ∀ k ∈ h.lanes g, (re k).int32 fr = .ok (z k))
    (hxy : ∀ k ∈ h.lanes g, (ra k).packed fa = .ok (x k) ∧ (rb k).packed fb = .ok (y k))
    (hi' : exec i s = .next (s.runArms { g := g, dsts := [d.spec] } (pureArm (laneWise (laneDot fa fb sat d a b e))))) :
    s.Delivers h g d [a, b, e] i fun k =>
      let sum : Int := z k + (List.zipWith (· * ·) (x k) (y k)).sum
      if sat then (⟨BitVec.ofInt 32 (max lo (min hi sum)), fr⟩, { sat := decide (sum < lo) || decide (hi < sum) })
      else (⟨BitVec.ofInt 32 sum, fr⟩, {}) := by
  refine delivers_of hat (fun k hk hw => ?_) hi'
  obtain ⟨hx, hy⟩ := hxy k hk
  have hn := narrow_eq hlo hhi hle hbits sat (z k + (List.zipWith (· * ·) (x k) (y k)).sum)
  simp only [Prod.ext_iff] at hn
  obtain ⟨hv, hs⟩ := hn
  simp only [laneDot, hfr, ha k hk, hx, hb k hk, hy, he k hk, hz k hk, LaneStep.bind, foldl_add_eq_sum, outD_ok hw, hv, hs]
  cases sat <;> rfl

theorem delivers_plop {op : PlopOp} {d a b : BitVec 3} {ra rb : RCtx → RV} {val : RCtx → TV} (hat : s.here h)
    (ha : h.Reads g 1 ⟨.p a, false, false⟩ ra) (hb : h.Reads g 2 ⟨.p b, false, false⟩ rb)
    (hv : ∀ k, boolTV (plopOf op ((ra k).bits != 0) ((rb k).bits != 0)) = val k) :
    s.Delivers h g ⟨.p d, false⟩ [] (.plop op g d a b) (noFlags val) := by
  refine delivers_of hat (fun k hk hw => ?_) rfl
  simp only [lanePlop, ha k hk, hb k hk, LaneStep.bind, outD_ok hw, hv, noFlags]

theorem boolTV_bne (x : Word) : boolTV (x != 0) = ⟨if x ≠ 0 then 1 else 0, F.n32⟩ := by
  simp only [boolTV, bne_iff_ne]

end

/-- Settles O5: `dp4` and `dp8` are the same dot product in formats of 8 and of 4 bits. -/
theorem dotProductsAndPredicates : Obligations.DotProductsAndPredicates := by
  intro s h g hat
  refine ⟨fun ua ub sat d a b e ra rb re x y z ha hb he => ?_, fun op d a b ra rb ha hb => ?_, fun d a ra ha => ⟨?_, ?_, ?_⟩⟩
  · intro fr sum lo hi val hz
    have hlo : intMin fr = lo := by cases ua <;> cases ub <;> rfl
    have hhi : intMax fr = hi := by cases ua <;> cases ub <;> rfl
    have hle : lo ≤ hi := by cases ua <;> cases ub <;> decide
    have hbits : elemBits fr = 32 := by cases ua <;> cases ub <;> rfl
    exact ⟨fun hxy => delivers_dot hat ha hb he (by cases ua <;> cases ub <;> rfl) hlo hhi hle hbits hz hxy rfl,
      fun hxy => delivers_dot hat ha hb he (by cases ua <;> cases ub <;> rfl) hlo hhi hle hbits hz hxy rfl⟩
  · refine delivers_plop hat ha hb fun k => ?_
    cases op
    case xnor => exact congrArg boolTV ((by decide : ∀ u v : Bool, (u == v) = !(xor u v)) _ _)
    all_goals rfl
  · exact delivers_ofSource (fun r => boolTV (r.bits != 0)) hat ha (fun _ => boolTV_bne _) rfl
  · exact delivers_ofSource (fun r => boolTV (r.bits != 0)) hat ha (fun _ => boolTV_bne _) rfl
  · refine delivers_of hat (fun k hk hw => ?_) rfl
    simp only [lanePmov, ha k hk, LaneStep.bind, outD_ok hw]
    rfl

end Sys2Proof.Machine

/-! PROOF. Floating-point, conversion and element instructions in a lane (R161 to R170), and pair words (R64 to R67). -/

namespace Sys2Proof.Machine

/-! ### Floating-point arithmetic in a lane -/

section
variable {s : State} {h : Here} {g : Guard} {f16 ftz : Bool} {m : Rnd} {d : Dst} {a b e : Src} {i : Instr}
  {ra rb : RCtx → RV} {x y : RCtx → List Exact}

theorem rdFloats_ok {k : RCtx} {field : Nat} {r : RV} {l : List Exact} (hr : rd k field a = .ok r)
    (hf : r.floats f16 ftz = .ok l) : rdFloats k field a f16 ftz = .ok l := by
  simp only [rdFloats, hr, LaneStep.bind, hf]

/-- A lane that may write its destination has the rounded elements as the result. -/
theorem floatOut_ok {k : RCtx} {srcs : List Src} (hw : wrOk k d srcs = .ok ()) (rnd : Word) (l : List (Exact × Flags)) :
    floatOut k f16 d (l.map (deliver f16 ftz m rnd)) srcs = .ok (.one d srcs (rounded f16 ftz m rnd l)) :=
  outD_ok hw _ _

/-- `fadd`, `fsub` and `fmul`. -/
theorem delivers_floatOp2 {op : Exact → Exact → Exact × Bool} {rnd : RCtx → Word} (hat : s.here h) (ha : h.Reads g 1 a ra)
    (hx : h.Floats g f16 ftz ra x) (hb : h.Reads g 2 b rb) (hy : h.Floats g f16 ftz rb y) (hr : h.Random g m e rnd)
    (he : exec i s = .next (s.runArms { g := g, dsts := [d.spec] } (pureArm (laneWise (floatOp2 op f16 ftz m d a b e))))) :
    s.Delivers h g d [a, b, e] i fun k =>
      rounded f16 ftz m (rnd k) (List.zipWith (fun u v => ivFlag (op u v)) (x k) (y k)) := by
  refine delivers_of hat (fun k hk hw => ?_) he
  simp only [floatOp2, rdFloats_ok (ha k hk) (hx k hk), rdFloats_ok (hb k hk) (hy k hk), hr k hk, LaneStep.bind]
  rw [← floatOut_ok hw, List.map_zipWith, List.map_zipWith]

theorem delivers_ffma {re : RCtx → RV} {z : RCtx → List Exact} (hat : s.here h) (ha : h.Reads g 1 a ra)
    (hx : h.Floats g f16 ftz ra x) (hb : h.Reads g 2 b rb) (hy : h.Floats g f16 ftz rb y) (he : h.Reads g 3 e re)
    (hz : h.Floats g f16 ftz re z) :
    s.Delivers h g d [a, b, e] (.ffma f16 ftz m g d a b e) fun k => rounded f16 ftz m 0
      (List.zipWith (fun p w => ivFlag (exactFma m p.1 p.2 w)) ((x k).zip (y k)) (z k)) := by
  refine delivers_of hat (fun k hk hw => ?_) rfl
  simp only [laneFfma, rdFloats_ok (ha k hk) (hx k hk), rdFloats_ok (hb k hk) (hy k hk), rdFloats_ok (he k hk) (hz k hk),
    LaneStep.bind]
  rw [← floatOut_ok hw, List.map_zipWith, List.map_zipWith]

theorem delivers_fminmax {isMax prop : Bool} (hat : s.here h) (ha : h.Reads g 1 a ra) (hx : h.Floats g f16 ftz ra x)
    (hb : h.Reads g 2 b rb) (hy : h.Floats g f16 ftz rb y)
    (he : exec i s = .next (s.runArms { g := g, dsts := [d.spec] } (pureArm (laneWise (laneFminmax isMax f16 ftz prop d a b))))) :
    s.Delivers h g d [a, b] i fun k =>
      rounded f16 ftz .rne 0 (List.zipWith (fun u v => ivFlag (minMax isMax prop u v)) (x k) (y k)) := by
  refine delivers_of hat (fun k hk hw => ?_) he
  simp only [laneFminmax, rdFloats_ok (ha k hk) (hx k hk), rdFloats_ok (hb k hk) (hy k hk), LaneStep.bind]
  rw [← floatOut_ok hw, List.map_zipWith, List.map_zipWith]

/-- A floating instruction of one source whose elements are rounded in `m`, flushed where `ftz'` says. -/
theorem delivers_float1 {op : Exact → Exact × Flags} {ftz' : Bool} (hat : s.here h) (ha : h.Reads g 1 a ra)
    (hx : h.Floats g f16 ftz ra x)
    (he : exec i s = .next (s.runArms { g := g, dsts := [d.spec] } (pureArm (laneWise fun c =>
      (rdFloats c 1 a f16 ftz).bind fun x => floatOut c f16 d (x.map fun v => deliver f16 ftz' m 0 (op v)) [a])))) :
    s.Delivers h g d [a] i fun k => rounded f16 ftz' m 0 ((x k).map op) := by
  refine delivers_of hat (fun k hk hw => ?_) he
  simp only [rdFloats_ok (ha k hk) (hx k hk), LaneStep.bind]
  rw [← floatOut_ok hw, List.map_map]
  rfl

end

/-! ### Exact sums and products -/

/-- The rational number that an exact value stands for; 0 for what is none. -/
def Exact.val : Exact → ℚ
  | .fin n num den e => (if n then -1 else 1) * (num / den) * 2 ^ e
  | _ => 0

theorem Exact.val_fin (n : Bool) (num den : Nat) (e : Int) :
    Exact.val (.fin n num den e) = (if n then -1 else 1) * (num / den) * 2 ^ e := rfl

/-- A fraction with a signed numerator. -/
theorem Exact.val_ofSigned (t : Int) (den : Nat) (e : Int) :
    Exact.val (.fin (decide (t < 0)) t.natAbs den e) = t / den * 2 ^ e := by
  have habs : (t.natAbs : ℚ) = |(t : ℚ)| := by rw [Nat.cast_natAbs, Int.cast_abs]
  rw [val_fin, habs]
  by_cases ht : t < 0
  · rw [abs_of_neg (by exact_mod_cast ht)]
    simp only [ht, decide_true, if_true]
    ring
  · rw [abs_of_nonneg (by exact_mod_cast not_lt.1 ht)]
    simp only [ht, decide_false, Bool.false_eq_true, if_false, one_mul]

/-- A summand scaled to the lesser exponent and to the common denominator. -/
theorem scaled_div {num den den' : Nat} {e e' : Int} (hd' : den' ≠ 0) (he : e' ≤ e) :
    ((num * den' * 2 ^ (e - e').toNat : Nat) : ℚ) / (den * den' : Nat) * 2 ^ e' = num / den * 2 ^ e := by
  have hpow : (2 : ℚ) ^ (e - e').toNat * 2 ^ e' = 2 ^ e := by
    rw [← zpow_natCast, ← zpow_add₀ two_ne_zero, Int.toNat_of_nonneg (by omega)]
    congr 1
    omega
  have hd'q : (den' : ℚ) ≠ 0 := by exact_mod_cast hd'
  rw [← hpow]
  push_cast
  by_cases hd : (den : ℚ) = 0
  · simp [hd]
  · field_simp

theorem exactAdd_fin {m : Rnd} {s1 s2 : Bool} {n1 d1 n2 d2 : Nat} {e1 e2 : Int} (h1 : d1 ≠ 0) (h2 : d2 ≠ 0) :
    (exactAdd m (.fin s1 n1 d1 e1) (.fin s2 n2 d2 e2)).2 = false ∧
      (exactAdd m (.fin s1 n1 d1 e1) (.fin s2 n2 d2 e2)).1.isNaN = false ∧
      (exactAdd m (.fin s1 n1 d1 e1) (.fin s2 n2 d2 e2)).1.isInf = false ∧
      (exactAdd m (.fin s1 n1 d1 e1) (.fin s2 n2 d2 e2)).1.val =
        Exact.val (.fin s1 n1 d1 e1) + Exact.val (.fin s2 n2 d2 e2) := by
  have ha := scaled_div (num := n1) (den := d1) (e := e1) h2 (min_le_left e1 e2)
  have hb := scaled_div (num := n2) (den := d2) (e := e2) h1 (min_le_right e1 e2)
  rw [Nat.mul_comm d2 d1] at hb
  simp only [exactAdd]
  generalize (n1 * d2 * 2 ^ (e1 - min e1 e2).toNat : Nat) = a at ha ⊢
  generalize (n2 * d1 * 2 ^ (e2 - min e1 e2).toNat : Nat) = b at hb ⊢
  have hsum : ((if s1 then -(a : Int) else a) + (if s2 then -(b : Int) else b) : Int) / ((d1 * d2 : Nat) : ℚ) * 2 ^ min e1 e2 =
      Exact.val (.fin s1 n1 d1 e1) + Exact.val (.fin s2 n2 d2 e2) := by
    rw [Exact.val_fin, Exact.val_fin, mul_assoc, mul_assoc, ← ha, ← hb]
    cases s1 <;> cases s2 <;> simp only [Bool.false_eq_true, if_false, if_true] <;> push_cast <;> ring
  generalize ((if s1 then -(a : Int) else a) + (if s2 then -(b : Int) else b)) = t at hsum ⊢
  split
  next ht =>
    refine ⟨rfl, rfl, rfl, ?_⟩
    rw [← hsum, ht]
    simp [Exact.zero, Exact.val_fin]
  next => exact ⟨rfl, rfl, rfl, (Exact.val_ofSigned _ _ _).trans hsum⟩

theorem exactMul_fin (s1 s2 : Bool) (n1 d1 n2 d2 : Nat) (e1 e2 : Int) :
    (exactMul (.fin s1 n1 d1 e1) (.fin s2 n2 d2 e2)).2 = false ∧
      (exactMul (.fin s1 n1 d1 e1) (.fin s2 n2 d2 e2)).1.val =
        Exact.val (.fin s1 n1 d1 e1) * Exact.val (.fin s2 n2 d2 e2) := by
  refine ⟨rfl, ?_⟩
  simp only [exactMul, Exact.val_fin, zpow_add₀ (two_ne_zero (α := ℚ))]
  push_cast
  rw [mul_div_mul_comm]
  cases s1 <;> cases s2 <;> simp <;> ring

/-- Settles O6: every result is the exact one of its elements, rounded once; a finite exact value is a rational number, and
`exactAdd` and `exactMul` are the sum and the product there. -/
theorem floatArithmetic : Obligations.FloatArithmetic := by
  refine ⟨fun s h g f16 ftz m d a ra x hat ha hx => ⟨fun b rb y hb hy => ⟨fun e rnd hr => ⟨?_, ?_, ?_⟩, fun e re z he hz => ?_,
    fun prop => ⟨?_, ?_⟩⟩, ?_, ?_⟩, Exact.val, Exact.val_fin, ?_⟩
  · exact delivers_floatOp2 hat ha hx hb hy hr rfl
  · exact delivers_floatOp2 hat ha hx hb hy hr rfl
  · exact delivers_floatOp2 hat ha hx hb hy hr rfl
  · exact delivers_ffma hat ha hx hb hy he hz
  · exact delivers_fminmax hat ha hx hb hy rfl
  · exact delivers_fminmax hat ha hx hb hy rfl
  · exact ⟨delivers_float1 hat ha hx rfl, delivers_float1 hat ha hx rfl, delivers_float1 hat ha hx rfl,
      delivers_float1 hat ha hx rfl, delivers_float1 hat ha hx rfl, delivers_float1 hat ha hx rfl,
      delivers_float1 hat ha hx rfl, delivers_float1 hat ha hx rfl⟩
  · exact delivers_float1 hat ha hx rfl
  · intro m nx ny ax bx ay b' ex ey hb hb'
    obtain ⟨h1, h2, h3, h4⟩ := exactAdd_fin (m := m) (s1 := nx) (s2 := ny) (n1 := ax) (n2 := ay) (e1 := ex) (e2 := ey) hb hb'
    exact ⟨h1, h2, h3, h4, exactMul_fin nx ny ax bx ay b' ex ey⟩

/-! ### Float tests and conversions in a lane -/

section
variable {s : State} {h : Here} {g : Guard} {d : Dst} {a b e : Src} {ra rb re : RCtx → RV}

theorem rdF32_ok {k : RCtx} {field : Nat} {r : RV} {x : Exact} (hr : rd k field a = .ok r) (hx : r.f32 = .ok x) :
    rdF32 k field a = .ok x := by
  simp only [rdF32, hr, LaneStep.bind, hx]

theorem delivers_fcmp {cc : FCmp} {ftz : Bool} {x y : RCtx → Exact} {val : RCtx → TV × Flags} (hat : s.here h)
    (ha : h.Reads g 1 a ra) (hb : h.Reads g 2 b rb) (hxy : ∀ k ∈ h.lanes g, (ra k).f32 = .ok (x k) ∧ (rb k).f32 = .ok (y k))
    (hv : ∀ k, (boolTV (fcmpOf cc (ftzSource ftz F.f32 (x k)) (ftzSource ftz F.f32 (y k))).1,
      ({ iv := (fcmpOf cc (ftzSource ftz F.f32 (x k)) (ftzSource ftz F.f32 (y k))).2 } : Flags)) = val k) :
    s.Delivers h g d [a, b] (.fcmp cc ftz g d a b) val := by
  refine delivers_of hat (fun k hk hw => ?_) rfl
  obtain ⟨hx, hy⟩ := hxy k hk
  simp only [laneFcmp, rdF32_ok (ha k hk) hx, rdF32_ok (hb k hk) hy, LaneStep.bind, outD_ok hw, ← hv]

theorem delivers_fclass {sf : SrcFmt} {e1 : Bool} {val : RCtx → TV} (hat : s.here h) (ha : h.Reads g 1 a ra)
    (ht : ∀ k ∈ h.lanes g, (ra k).tag = .tag (srcFmtCode sf))
    (hv : ∀ k, ⟨BitVec.ofNat 32 (classMask (srcFmtCode sf)
      (ieeeVal (srcFmtCode sf) (elemAt (elemBits (srcFmtCode sf)) (ra k).bits e1.toNat))), F.n32⟩ = val k) :
    s.Delivers h g d [a] (.fclass sf e1 g d a) (noFlags val) := by
  refine delivers_of hat (fun k hk hw => ?_) rfl
  simp only [laneFclass, ha k hk, ht k hk, beq_self_eq_true, if_true, LaneStep.bind, outD_ok hw, hv, noFlags]

/-- `cvt` of an element of a typed source. -/
theorem delivers_cvt {f : Fmt} {elem : BitVec 3} {m : Rnd} {rnd : RCtx → Word} {t : RCtx → Fmt} (hat : s.here h)
    (ha : h.Reads g 1 a ra) (hr : h.Random g m e rnd)
    (ht : ∀ k ∈ h.lanes g, (ra k).tag = .tag (t k) ∧ t k ≠ F.raw32 ∧ elem.toNat < elemCount (t k)) :
    s.Delivers h g d [a, e] (.cvt f elem m g d a e) fun k =>
      let r := convertTo f m (rnd k) (elemVal (t k) (elemAt (elemBits (t k)) (ra k).bits elem.toNat))
      (⟨BitVec.ofNat 32 r.1, f⟩, r.2) := by
  refine delivers_of hat (fun k hk hw => ?_) rfl
  obtain ⟨htag, hraw, hlt⟩ := ht k hk
  have hraw' : (t k == F.raw32) = false := beq_eq_false_iff_ne.2 hraw
  simp only [laneCvt, ha k hk, hr k hk, htag, hraw', Bool.false_eq_true, if_false, Nat.not_le.2 hlt, LaneStep.bind, outD_ok hw]

theorem untaggedInt_eq (r : RV) : r.untaggedInt = r.bits.toInt := by
  simp only [RV.untaggedInt, toSigned, BitVec.toInt_eq_toNat_cond]
  push_cast
  rfl

/-- `cvt` of an untagged source, which stands for an integer. -/
theorem delivers_cvt_untagged {f : Fmt} {m : Rnd} {rnd : RCtx → Word} (hat : s.here h) (ha : h.Reads g 1 a ra)
    (hr : h.Random g m e rnd) (ht : ∀ k ∈ h.lanes g, (ra k).tag = .untagged ∨ (ra k).tag = .zeroSp) :
    s.Delivers h g d [a, e] (.cvt f 0 m g d a e) fun k =>
      let r := convertTo f m (rnd k) (.ofInt (ra k).bits.toInt)
      (⟨BitVec.ofNat 32 r.1, f⟩, r.2) := by
  refine delivers_of hat (fun k hk hw => ?_) rfl
  rcases ht k hk with htag | htag <;>
    simp only [laneCvt, ha k hk, hr k hk, htag, show (0 : BitVec 3).toNat = 0 from rfl, if_true, untaggedInt_eq, LaneStep.bind, outD_ok hw]

theorem elemIndex_ok {f : Fmt} {r : RV} (hr : r.bits.toNat < elemCount f) : elemIndex f r = .ok r.bits.toNat := if_pos hr

theorem delivers_qnt {f : Fmt} {rs : Bool} {old : RCtx → RV} {x y : RCtx → Exact} {i : RCtx → Nat} (hat : s.here h)
    (ho : h.Reads g 0 ⟨d.spec, false, false⟩ old) (ha : h.Reads g 1 a ra) (hb : h.Reads g 2 b rb) (he : h.Reads g 3 e re)
    (hxy : ∀ k ∈ h.lanes g, (ra k).f32 = .ok (x k) ∧ (rb k).f32 = .ok (y k))
    (hi : ∀ k ∈ h.lanes g, (if rs then LaneStep.ok 0 else elemIndex f (re k)) = .ok (i k)) :
    s.Delivers h g d [a, b, e] (.qnt f rs g d a b e) fun k =>
      let q := quantize f (if rs then .rs else .rne) (re k).bits (x k) (y k)
      (⟨trimL6 f (setElem (elemBits f) (if (old k).tag = .tag f then (old k).bits else 0) (i k) q.1), f⟩, q.2) := by
  refine delivers_of hat (fun k hk hw => ?_) rfl
  obtain ⟨hx, hy⟩ := hxy k hk
  simp only [laneQnt, rdDst, ho k hk, rdF32_ok (ha k hk) hx, rdF32_ok (hb k hk) hy, he k hk, hi k hk, LaneStep.bind, outD_ok hw,
    beq_iff_eq]

theorem delivers_dqt {f : Fmt} {y : RCtx → Exact} (hat : s.here h) (ha : h.Reads g 1 a ra) (hb : h.Reads g 2 b rb)
    (he : h.Reads g 3 e re)
    (hk : ∀ k ∈ h.lanes g, (ra k).tag = .tag f ∧ (rb k).f32 = .ok (y k) ∧ (re k).bits.toNat < elemCount f) :
    s.Delivers h g d [a, b, e] (.dqt f g d a b e) fun k =>
      let p := exactMul (elemVal f (elemAt (elemBits f) (ra k).bits (re k).bits.toNat)) (y k)
      let r := roundRNE F.f32 p.1
      (⟨BitVec.ofNat 32 r.1, F.f32⟩, r.2.join { iv := p.2 }) := by
  refine delivers_of hat (fun k hk' hw => ?_) rfl
  obtain ⟨htag, hy, hlt⟩ := hk k hk'
  simp only [laneDqt, ha k hk', htag, beq_self_eq_true, LaneStep.require, if_true, rdF32_ok (hb k hk') hy, he k hk',
    elemIndex_ok hlt, LaneStep.bind, outD_ok hw]

end

/-- Settles O7: comparisons and classes of the exact values that the lane reads, and conversions of one element. -/
theorem floatTestsAndConversions : Obligations.FloatTestsAndConversions := by
  refine ⟨fun s h g d a ra hat ha => ⟨fun cc ftz b rb x y hb hxy => ?_, fun sf e1 ht => ?_⟩,
    fun s h g f d a e ra hat ha => ⟨fun elem m rnd t hr ht => delivers_cvt hat ha hr ht,
      fun m rnd hr ht => delivers_cvt_untagged hat ha hr ht, fun b old rb re x y ho hb he hxy => ⟨?_, fun hlt => ?_⟩,
      fun b rb re y hb he hk => delivers_dqt hat ha hb he hk⟩⟩
  · exact delivers_fcmp hat ha hb hxy fun k => by cases cc <;> rfl
  · refine delivers_fclass hat ha ht fun k => ?_
    generalize ieeeVal _ _ = v
    cases v <;> rfl
  · exact delivers_qnt hat ho ha hb he hxy fun _ _ => rfl
  · exact delivers_qnt hat ho ha hb he hxy fun k hk => elemIndex_ok (hlt k hk)

/-! ### Element moves, tags and pool counts in a lane -/

section
variable {s : State} {h : Here} {g : Guard} {d : Dst} {a b e : Src} {ra rb re : RCtx → RV}

theorem delivers_pack {f : RCtx → Fmt} (hat : s.here h) (ha : h.Reads g 1 a ra) (hb : h.Reads g 2 b rb) (he : h.Reads g 3 e re)
    (hk : ∀ k ∈ h.lanes g, (ra k).tag = .tag (f k) ∧ 1 < elemCount (f k) ∧ ((rb k).tag = .tag (f k) ∨ (rb k).tag = .zeroSp) ∧
      (re k).bits.toNat < elemCount (f k)) :
    s.Delivers h g d [a, b, e] (.pack g d a b e) (noFlags fun k =>
      ⟨trimL6 (f k) (setElem (elemBits (f k)) (rb k).bits (re k).bits.toNat (elemAt (elemBits (f k)) (ra k).bits 0)), f k⟩) := by
  refine delivers_of hat (fun k hk' hw => ?_) rfl
  obtain ⟨htag, hfmt, hbase, hlt⟩ := hk k hk'
  have hbase' : ((rb k).tag == .tag (f k) || (rb k).tag == .zeroSp) = true := by
    rwa [Bool.or_eq_true, beq_iff_eq, beq_iff_eq]
  simp only [lanePack, ha k hk', hb k hk', he k hk', htag, packFmt, hfmt, decide_true, LaneStep.require, if_true, hbase',
    elemIndex_ok hlt, LaneStep.bind, outD_ok hw, noFlags]

theorem delivers_unpk {wide : Bool} {f : RCtx → Fmt} (hat : s.here h) (ha : h.Reads g 1 a ra) (hb : h.Reads g 2 b rb)
    (hk : ∀ k ∈ h.lanes g, (ra k).tag = .tag (f k) ∧ 1 < elemCount (f k) ∧ (rb k).bits.toNat < elemCount (f k)) :
    s.Delivers h g d [a, b] (.unpk wide g d a b) (noFlags fun k =>
      let el := elemAt (elemBits (f k)) (ra k).bits (rb k).bits.toNat
      if wide then ⟨wideBits (f k) el, wideOf (f k)⟩ else ⟨BitVec.ofNat 32 el, f k⟩) := by
  refine delivers_of hat (fun k hk' hw => ?_) rfl
  obtain ⟨htag, hfmt, hlt⟩ := hk k hk'
  simp only [laneUnpk, ha k hk', hb k hk', htag, packFmt, hfmt, decide_true, LaneStep.require, if_true, elemIndex_ok hlt,
    LaneStep.bind, outD_ok hw, noFlags]

/-- `tagr` of an operand that is no tile. -/
theorem delivers_tagr {n : RCtx → Nat} {val : RCtx → TV} (hat : s.here h) (hspec : ∀ i, a.spec ≠ .a i)
    (hn : ∀ k ∈ h.lanes g, tagOf k a = .ok (n k)) (hv : ∀ k, ⟨BitVec.ofNat 32 (n k), F.n32⟩ = val k) :
    s.Delivers h g d [a] (.tagr g d a) (noFlags val) := by
  have he : exec (.tagr g d a) s = .next (s.runArms { g := g, dsts := [d.spec] } (pureArm (laneWise (laneTagr d a)))) := by
    show execTagr g d a s = _
    simp only [execTagr]
    cases hs : a.spec
    case a i => exact absurd hs (hspec i)
    all_goals rfl
  refine delivers_of hat (fun k hk hw => ?_) he
  simp only [laneTagr, hn k hk, LaneStep.bind, outD_ok hw, hv, noFlags]

theorem tagOf_of_reg {k : RCtx} {r : RV} (hr : rd k 1 a = .ok r) (hs : ∀ i j l, a.spec ≠ .m i ∧ a.spec ≠ .l j ∧ a.spec ≠ .a l) :
    tagOf k a = .ok r.outTag.toNat := by
  have hm (i) := (hs i 0 0).1
  have hl (i) := (hs 0 i 0).2.1
  have ha (i) := (hs 0 0 i).2.2
  unfold tagOf
  split
  case h_1 i h => exact absurd h (hm i)
  case h_2 i h => exact absurd h (hl i)
  case h_3 i h => exact absurd h (ha i)
  case h_4 => rw [hr]; rfl

theorem wk_of_lane {k : RCtx} (hk : k ∈ h.lanes g) : k.wk = h.c.wk := by
  obtain ⟨hwarp, hpos, hblock, -⟩ := lanes_warp hk
  simp only [RCtx.wk, hwarp, hpos, hblock]

theorem any_out_ofLanes {os : List (Nat × LaneOut)} (hne : os ≠ []) :
    ((ArmOut.ofLanes os).lanes.any fun l => match l.2 with
      | .out _ => true
      | _ => false) = true := by
  cases os with
  | nil => exact absurd rfl hne
  | cons o os => rfl

/-- A last use by lanes that all have a result. -/
theorem lastUse_ofLanes {prev : Bool} {f : ArmFn} {s1 : State} {os : List (Nat × LaneOut)} (hos : h.lanes g ≠ [] → os ≠ [])
    (hf : f s (h.lanes g) = (.done (.ofLanes os), s1)) :
    lastUse a prev f s (h.lanes g) = (.done (.ofLanes os), s1.usedLast h g (accName a) prev a.last) := by
  unfold lastUse State.usedLast
  rw [hf]
  cases hl : h.lanes g with
  | nil => cases a.last <;> rfl
  | cons k ks =>
    have hany := any_out_ofLanes (hos (by simp [hl]))
    cases hlast : a.last
    · rfl
    · simp only [Bool.true_and]
      rw [if_pos (by exact hany)]

/-- Acquiring a tile by lanes that all have a result. -/
theorem acquireTile_ofLanes {f : ArmFn} {s1 : State} {os : List (Nat × LaneOut)} {t : Tile} (hne : h.lanes g ≠ []) (hos : os ≠ [])
    (ht : (h.c.pos.accAt (accName a)).cur = some t) (hf : f s (h.lanes g) = (.done (.ofLanes os), s1)) :
    acquireTile a f s (h.lanes g) = (.done (.ofLanes os), s1.modWarp h.c.wk (·.acquire h.a.arm t.front)) := by
  obtain ⟨k, ks, hl⟩ := List.exists_cons_of_ne_nil hne
  have hk : k ∈ h.lanes g := by simp [hl]
  obtain ⟨-, hpos, -, harm⟩ := lanes_warp hk
  unfold acquireTile
  rw [hf, hl]
  simp only [hpos, harm, wk_of_lane hk, ht, Option.map_some, Option.getD_some]
  rw [if_pos (by exact any_out_ofLanes hos)]

/-- `tagr` of a tile: the tile's writers are acquired, and a last use is noted. -/
theorem exec_tagr_tile {i : BitVec 5} {t : Tile} (hat : s.here h) (hspec : a.spec = .a i)
    (ht : (h.c.pos.accAt i.toNat).cur = some t) (hp : t.pending = 0) (hne : h.lanes g ≠ []) (hw : h.Writable g d [a])
    (hz : ¬ ∃ z, d.spec = .z z) :
    exec (.tagr g d a) s = .next (((s.modWarp h.c.wk (·.acquire h.a.arm t.front)).usedLast h g i.toNat false a.last).wrote h g
      [d.spec] fun _ => .one d [a] (⟨BitVec.ofNat 32 t.tag.toNat, F.n32⟩, {})) := by
  have hname : accName a = i.toNat := by rw [accName, hspec]
  have hlane : ∀ k ∈ h.lanes g, laneTagr d a k = .ok (.one d [a] (⟨BitVec.ofNat 32 t.tag.toNat, F.n32⟩, {})) := fun k hk => by
    have ht' : ((k.pos.acc[i.toNat]?).getD ⟨none, none⟩).cur = some t := by rw [(lanes_warp hk).2.1]; exact ht
    simp only [laneTagr, tagOf, hspec, ht', hp, if_true, LaneStep.bind, outD_ok (hw k hk)]
  have hos : ((h.lanes g).map fun k => (k.lane, LaneOut.one d [a] (⟨BitVec.ofNat 32 t.tag.toNat, F.n32⟩, {}))) ≠ [] := by
    simpa using hne
  have harm := laneWise_ok hlane (batonWrites_one (val := fun _ => (⟨BitVec.ofNat 32 t.tag.toNat, F.n32⟩, {})) fun hd => absurd hd hz)
  have hf := lastUse_ofLanes (a := a) (prev := false) (fun _ => hos)
    (acquireTile_ofLanes (f := pureArm (laneWise (laneTagr d a))) hne hos (hname ▸ ht) (congrArg (·, s) harm))
  show execTagr g d a s = _
  simp only [execTagr, hspec, if_true]
  rw [runArms_here hat rfl (by simp) (by simpa only [State.acquires, takesBatons_none batonsOf_nil] using hf), hname]
  rfl

theorem delivers_tagw_fmt {f : Fmt} (hat : s.here h) (ha : h.Reads g 1 a ra) :
    s.Delivers h g d [a] (.tagw (.fmt f) g d a b) (noFlags fun k => ⟨(ra k).bits, f⟩) := by
  refine delivers_of hat (fun k hk hw => ?_) rfl
  simp only [laneTagw, ha k hk, LaneStep.bind, outD_ok hw, noFlags]

theorem delivers_tagw_reg (hat : s.here h) (ha : h.Reads g 1 a ra) (hb : h.Reads g 2 b rb)
    (hlt : ∀ k ∈ h.lanes g, (rb k).bits.toNat < 14) :
    s.Delivers h g d [a, b] (.tagw .reg g d a b) (noFlags fun k => ⟨(ra k).bits, (rb k).bits.setWidth 5⟩) := by
  refine delivers_of hat (fun k hk hw => ?_) rfl
  simp only [laneTagw, ha k hk, hb k hk, LaneStep.require, hlt k hk, decide_true, if_true, LaneStep.bind, outD_ok hw, noFlags]
  rfl

theorem delivers_rpool {which : BitVec 2} {n : RCtx → Nat} (hat : s.here h)
    (hn : ∀ k, laneRpool which d k = outD k d ⟨BitVec.ofNat 32 (n k), F.n32⟩ []) :
    s.Delivers h g d [] (.rpool which g d) (noFlags fun k => ⟨BitVec.ofNat 32 (n k), F.n32⟩) :=
  delivers_of hat (fun k _ hw => (hn k).trans (outD_ok hw _ _)) rfl

/-- A half whose sources can be read and whose destination may be written. -/
theorem laneHalf_ok {k : RCtx} {x : Half} {r1 r2 : RV} {v : TV × Flags} (h1 : rd k 1 (halfSrc x.a) = .ok r1)
    (h2 : rd k 2 (halfSrc x.b) = .ok r2) (hv : evalHalf x.op r1 r2 = .ok v) (hw : wrOk k ⟨.v x.dst, false⟩ [] = .ok ()) :
    laneHalf x k = .ok v := by
  simp only [laneHalf, h1, h2, hv, halfDst, hw, LaneStep.bind, LaneStep.map]

end

/-- Settles O8: elements and tags are those of the operands a lane reads; a tile's tag is read as its release is. -/
theorem elementsTagsAndPairs : Obligations.ElementsTagsAndPairs := by
  intro s h g d a hat
  refine ⟨fun b e ra rb re f ha hb he hk => delivers_pack hat ha hb he hk, fun b ra rb f ha hb hk => ⟨?_, ?_⟩,
    fun ra ha hs => ?_, fun i hs hbusy => ?_, fun i hs => ?_, fun i t hs ht hp hne hw hz => exec_tagr_tile hat hs ht hp hne hw hz,
    fun b ra rb f ha hb => ⟨delivers_tagw_fmt hat ha, fun hlt => delivers_tagw_reg hat ha hb hlt⟩,
    ⟨delivers_rpool hat fun _ => rfl, delivers_rpool hat fun _ => rfl, delivers_rpool hat fun _ => rfl,
      delivers_rpool hat fun _ => rfl⟩, fun gp ha hb a1 a2 b1 b2 va vb h1 h2 h3 h4 hwa hwb hv => ?_⟩
  · exact delivers_unpk hat ha hb hk
  · exact delivers_unpk hat ha hb hk
  · exact delivers_tagr hat (fun i => (hs 0 0 i).2.2) (fun k hk => tagOf_of_reg (ha k hk) hs) fun _ => rfl
  · refine delivers_tagr (n := fun _ => (((h.c.warp.m[i.toNat]?).getD 0).extractLsb' 80 16).toNat) hat (by simp [hs])
      (fun k hk => ?_) fun _ => ?_
    · simp only [tagOf, hs, (lanes_warp hk).1, hbusy, Bool.false_eq_true, if_false]
    · rw [BitVec.ofNat_toNat]
  · refine delivers_tagr (n := fun _ => ((h.c.pos.loft[i.toNat]?).getD LoftSlot.init).ttag.toNat) hat (by simp [hs])
      (fun k hk => ?_) fun _ => ?_
    · simp only [tagOf, hs, (lanes_warp hk).2.1]
    · rw [BitVec.ofNat_toNat]
  · refine exec_wrote hat (f := lanePair ha hb) (fun k hk => ?_) (allEqual_batonWrites_of_none fun k _ => rfl) rfl
    obtain ⟨hva, hvb⟩ := hv k hk
    simp only [lanePair, laneHalf_ok (h1 k hk) (h2 k hk) hva (hwa k hk), laneHalf_ok (h3 k hk) (h4 k hk) hvb (hwb k hk),
      bothHalves, LaneStep.map]
    rfl

end Sys2Proof.Machine

/-! PROOF. Words that are decoded by evaluation, the state at reset, and what a step runs. -/

namespace Sys2Proof.Machine

/-- Settles O53: each word is decoded by evaluation. -/
theorem decodesSpecWords : Obligations.DecodesSpecWords := by
  refine ⟨?_, ?_, ?_, ?_, ?_, ?_, ?_, ?_, ?_, ?_, ?_, ?_⟩ <;> rfl

/-- Settles O59: memory and the positions are empty at reset. -/
theorem resetKeepsInvariant : Obligations.ResetKeepsInvariant :=
  ⟨rfl, rfl, List.forall_mem_nil _⟩

theorem forall_mem_reset_cores : ∀ c ∈ State.reset.c.cores, c.slots.all (·.isNone) = true ∧ c.usable = true := by
  intro c hc
  obtain ⟨i, -, rfl⟩ := List.mem_map.1 hc
  exact ⟨rfl, rfl⟩

theorem forall_mem_reset_ports : ∀ p ∈ State.reset.t.ports, p.st = .down := by
  intro p hp
  obtain ⟨i, -, rfl⟩ := List.mem_map.1 hp
  rfl

/-- Settles O60: the fields of the reset state, as `State.reset` gives them. -/
theorem resetState : Obligations.ResetState :=
  ⟨rfl, rfl, rfl, rfl, rfl, rfl, rfl, List.length_map _, forall_mem_reset_cores, rfl, forall_mem_reset_ports, rfl, rfl, rfl, rfl,
    rfl, fun _ => rfl⟩

/-! ### A step by the head of the agenda -/

theorem step_event {s : State} {i : Instr} {rest : List Act} (h : s.agenda = .event i :: rest) :
    step s = stepEnd { s with agenda := rest, cur := .none } (exec i { s with agenda := rest, cur := .none }) := by
  simp only [step, h, List.tail_cons]

/-- A packet whose parts are all sound issues the word it stands at. -/
theorem issueStep_decoded {s : State} {core slot : Nat} {p : Packet} {sc : StageCode} {w : Dword} {i : Instr}
    (hp : s.packet? core slot = some p) (hsc : s.packetStage p = some sc) (hw : sc.wordAt (p.hdr + 8 * (p.idx + 1)) = some w)
    (hcode : s.codeSound p = true) (harms : ∀ a ∈ p.arms, s.sound (heldAt a.wk.pos) 1 = true) (hi : decodeIn p.scl w = .ok i) :
    s.issueStep core slot = exec i { s with cur := .packet core slot } := by
  have hbroken : s.brokenArms p = ([], s) := by
    have hnil : (p.arms.filter fun a => !s.sound (heldAt a.wk.pos) 1) = [] :=
      List.filter_eq_nil_iff.2 fun a ha => by simp [harms a ha]
    simp only [State.brokenArms, hnil]
  have hword : s.fetchWord p = some w := by
    simp only [State.fetchWord, hsc, Option.bind_some]
    exact hw
  simp only [State.issueStep, hp, hcode, Bool.not_true, Bool.false_eq_true, if_false, hbroken, hword, hi, Chk.toOption]

theorem step_issue {s : State} {core slot : Nat} {rest : List Act} (h : s.agenda = .issue core slot :: rest) :
    step s = stepEnd { s with agenda := rest, cur := .none } ({ s with agenda := rest }.issueStep core slot) := by
  simp only [step, h, List.tail_cons]

/-- A relay engine that waits for nothing runs the step its relay stands at. -/
theorem relayStep_decoded {s : State} {eng : Nat} {r : Relay} {b : BitVec 128} {i : Instr} (hr : s.relayHead eng = some r)
    (hprog : r.prog ≠ []) (hwait : r.wait = .none) (hb : r.prog[r.pc]? = some b) (hi : decodeStep b = some i) :
    s.relayStep eng = exec i { s with cur := .engine eng } := by
  have hne : r.prog.isEmpty = false := by simpa using hprog
  simp only [State.relayStep, hr, hne, Bool.false_eq_true, if_false, hwait, bne_self_eq_false, State.fetchStep, hb, hi]

theorem step_relay {s : State} {eng : Nat} {rest : List Act} (h : s.agenda = .relay eng :: rest) :
    step s = stepEnd { s with agenda := rest, cur := .none } ({ s with agenda := rest }.relayStep eng) := by
  simp only [step, h, List.tail_cons]

/-! ### A cycle that passes -/

theorem cycleTime_pos (slow : Nat) : 0 < cycleTime slow 1 := by
  unfold cycleTime
  apply Nat.div_pos <;> omega

theorem find?_map_of_eq {α β : Type} {f : α → β} {p : α → Bool} {q : β → Bool} (hq : ∀ a, q (f a) = p a) (l : List α) :
    (l.map f).find? q = (l.find? p).map f := by
  rw [List.find?_map, show q ∘ f = p from funext hq]

/-- A cycle leaves every warp as it is: it only counts the waiting time of blocks. -/
theorem warpOf_passCycles (s : State) (n : Nat) (k : WKey) : (s.passCycles n).warpOf k = s.warpOf k := by
  unfold State.warpOf State.posOf State.passCycles
  dsimp only
  rw [find?_map_of_eq (p := (·.id == k.pos)) fun p => by split <;> rfl]
  cases s.c.positions.find? (·.id == k.pos) with
  | none => rfl
  | some p =>
    simp only [Option.map_some, Option.bind_some]
    split
    · unfold Position.blockOf
      dsimp only
      rw [find?_map_of_eq (p := (·.stage == k.stage)) fun b => by split <;> rfl]
      cases p.blocks.find? (·.stage == k.stage) with
      | none => rfl
      | some b =>
        simp only [Option.map_some, Option.bind_some]
        split <;> rfl
    · rfl

/-- Settles O57: `step` is the head of the agenda's action followed by `stepEnd`. -/
theorem stepRunsDecoded : Obligations.StepRunsDecoded := by
  refine ⟨fun s i rest h => step_event h, fun s core slot rest p sc w i h hp hsc hw hcode harms hi => ?_,
    fun s eng rest r b i h hr hprog hwait hb hi => ?_, fun s h => ⟨s.passCycles 1, ?_, rfl, ?_, rfl, rfl, h,
      rfl, rfl, rfl, warpOf_passCycles s 1⟩⟩
  · rw [step_issue h]
    exact congrArg _ (issueStep_decoded (s := { s with agenda := rest }) hp hsc hw hcode harms hi)
  · rw [step_relay h]
    exact congrArg _ (relayStep_decoded (s := { s with agenda := rest }) hr hprog hwait hb hi)
  · simp only [step, h, List.tail_nil]
  · exact Nat.lt_add_of_pos_right (cycleTime_pos _)

end Sys2Proof.Machine

/-! PROOF. Cross-lane instructions and the reduction tree (R171 to R176). -/

namespace Sys2Proof.Machine

/-! ### What the lanes of an arm read together -/

section
variable {s : State} {h : Here} {g : Guard} {d : Dst} {a b e : Src} {i : Instr} {ra rb re : RCtx → RV}

/-- An executing lane is the packet's warp seen from its thread; in a scalar clause, which has one lane, from none. -/
theorem eq_of_mem_lanes {k : RCtx} (hk : k ∈ h.lanes g) :
    k = { h.c with thread := if h.p.scl then h.c.thread else h.c.warp.threads[k.lane]?, lane := k.lane, arm := h.a.arm } := by
  unfold Here.lanes RCtx.executing at hk
  split at hk
  next hs =>
    rw [if_pos hs]
    split at hk
    · rw [List.mem_singleton.1 hk]
    · cases hk
  next hs =>
    rw [if_neg hs]
    obtain ⟨l, -, hl⟩ := List.mem_filterMap.1 hk
    split at hl
    next t ht =>
      split at hl
      · cases hl; simp only [ht]
      · cases hl
    next => cases hl

theorem width_of_lane {k : RCtx} (hk : k ∈ h.lanes g) : k.width = h.c.width := by rw [eq_of_mem_lanes hk]

/-- Executing lanes are known by their number. -/
theorem lane_inj {k l : RCtx} (hk : k ∈ h.lanes g) (hl : l ∈ h.lanes g) (heq : k.lane = l.lane) : k = l := by
  rw [eq_of_mem_lanes hk, eq_of_mem_lanes hl, heq]

theorem widthOf_lanes (hne : h.lanes g ≠ []) : widthOf (h.lanes g) = h.c.width := by
  obtain ⟨k, ks, hl⟩ := List.exists_cons_of_ne_nil hne
  rw [widthOf, hl]
  exact width_of_lane (by rw [hl]; exact List.mem_cons_self)

/-- The value of a present lane, where every lane has one. -/
theorem laneVal_map {α : Type} (cs : List RCtx) (x : RCtx → α) (lane : Nat) :
    laneVal (cs.map fun k => (k, x k)) lane = (cs.find? (·.lane == lane)).map x := by
  rw [laneVal, find?_map_of_eq (p := (·.lane == lane)) fun _ => rfl, Option.map_map]
  rfl

theorem lanesList_map (first w : Nat) (x : RCtx → Word) :
    lanesList first w ((h.lanes g).map fun k => (k, x k)) = h.byLane g first w x := by
  simp only [lanesList, laneVal_map, Here.byLane]

theorem inSeg_map {α : Type} (n lane : Nat) (x : RCtx → α) :
    inSeg n lane ((h.lanes g).map fun k => (k, x k)) = (h.segment g n lane).map fun k => (k, x k) := by
  rw [inSeg, List.filter_map, Here.segment]
  rfl

theorem gather1_ok (ha : h.Reads g 1 a ra) (hw : h.Writable g d [a]) :
    gather1 d a (h.lanes g) = .got ((h.lanes g).map fun k => (k, ra k)) [] :=
  gather_ok fun k hk => by simp only [ha k hk, hw k hk, LaneStep.bind, LaneStep.map]

theorem gather_widen_ok {f : Fmt} {x : RCtx → Word} (ha : h.Reads g 1 a ra) (hw : h.Writable g d [a])
    (hx : ∀ k ∈ h.lanes g, (ra k).widen f = .ok (x k)) :
    gather (fun c => (rd c 1 a).bind fun ra => (ra.widen f).bind fun x => (wrOk c d [a]).map fun _ => x) (h.lanes g) =
      .got ((h.lanes g).map fun k => (k, x k)) [] :=
  gather_ok fun k hk => by simp only [ha k hk, hx k hk, hw k hk, LaneStep.bind, LaneStep.map]

/-! ### An instruction of the arm as a whole -/

/-- An instruction of an arm as a whole, that leaves the arm's results. -/
theorem exec_whole {w : How} {k : List RCtx → ArmRes} {o : ArmOut} (hat : s.here h) (hwh : h.whole) (hg : w.g = g)
    (ht : w.threads = false) (hd : w.dsts = [d.spec]) (hea : w.early = []) (hk : k (h.lanes g) = .done o) (hp : parksOf o = [])
    (hx : trapsOf o = []) (he : exec i s = .next (s.runArms w (pureArm k))) : exec i s = .next (s.left h [d.spec] o) := by
  subst hg
  rw [he, runArms_left (s1 := s) (o := o) hat ht (fun _ => hwh)
    (by simp only [pureArm, hk, State.acquires, hea, takesBatons_none batonsOf_nil]) hp hx, hd, hea]

/-- The same, where each executing lane writes one value. -/
theorem exec_whole_wrote {w : How} {k : List RCtx → ArmRes} {srcs : List Src} {v : RCtx → TV} (hat : s.here h) (hwh : h.whole)
    (hg : w.g = g) (ht : w.threads = false) (hd : w.dsts = [d.spec]) (hea : w.early = [])
    (hk : k (h.lanes g) = .done { lanes := (h.lanes g).map fun k => (k.lane, endD d (v k) srcs) })
    (he : exec i s = .next (s.runArms w (pureArm k))) :
    exec i s = .next (s.wrote h g [d.spec] fun k => .one d srcs (v k, {})) := by
  have ho : ({ lanes := (h.lanes g).map fun k => (k.lane, endD d (v k) srcs) } : ArmOut) =
      .ofLanes ((h.lanes g).map fun k => (k.lane, .one d srcs (v k, {}))) := by
    simp only [ArmOut.ofLanes, List.map_map]
    rfl
  rw [ho] at hk
  exact exec_whole hat hwh hg ht hd hea hk (parksOf_ofLanes _) (trapsOf_ofLanes _) he

/-- Results that write no baton are settled. -/
theorem settle_of_none {srcs : List Src} {v : RCtx → TV} (hz : ¬ ∃ z, d.spec = .z z) (fl : Flags) (cs : List RCtx) :
    ArmRes.settle (.done { lanes := cs.map fun k => (k.lane, endD d (v k) srcs), flags := fl }) =
      .done { lanes := cs.map fun k => (k.lane, endD d (v k) srcs), flags := fl } := by
  have hnil : batonWrites (cs.map fun k => (k.lane, endD d (v k) srcs)) = [] := by
    simp only [batonWrites, List.filterMap_map, List.filterMap_eq_nil_iff, Function.comp_apply, endD, batonWrite, List.findSome?_cons,
      List.findSome?_nil]
    intro k _
    simp only [not_exists] at hz
    cases hd : d.spec <;> simp_all
  simp only [ArmRes.settle, hnil, allEqual, if_true]

/-! ### `shfl` -/

/-- The lane that `shfl` reads, in the words of R172. -/
theorem shflFrom_eq_some {mode : ShflMode} {n lane m : Nat} {x : Word} {t : Int}
    (ht : t = match mode with
      | .idx => x.toNat
      | .add => (lane - n * (lane / n) : Nat) + x.toInt
      | .xor => (BitVec.ofNat 32 (lane - n * (lane / n)) ^^^ x).toNat
      | .rev => n - 1 - (lane - n * (lane / n) : Nat)) :
    shflFrom mode n lane x = some m ↔ 0 ≤ t ∧ t < n ∧ (m : Int) = (n * (lane / n) : Nat) + t := by
  have htoInt : toSigned 32 x.toNat = x.toInt := by
    rw [toSigned, BitVec.toInt_eq_toNat_cond]
    push_cast
    rfl
  have hfrom : shflFrom mode n lane x = if 0 ≤ t ∧ t < n then some (n * (lane / n) + t.toNat) else none := by
    subst ht
    cases mode <;> simp only [shflFrom, htoInt]
  rw [hfrom]
  split
  next h => simp only [Option.some.injEq, h.1, h.2, true_and]; omega
  next h => simp only [reduceCtorEq, false_iff]; tauto

theorem exec_shfl {mode : ShflMode} {seg : Seg} {val : RCtx → TV} (hat : s.here h) (hwh : h.whole) (ha : h.Reads g 1 a ra)
    (hb : h.Reads g 2 b rb) (he : h.Reads g 3 e re) (hw : h.Writable g d [a, b, e])
    (hsome : ∀ k ∈ h.lanes g, ∀ l ∈ h.lanes g, shflFrom mode (segSize seg h.c.width) k.lane (rb k).bits = some l.lane →
      val k = (ra l).tv)
    (hnone : ∀ k ∈ h.lanes g, (∀ l ∈ h.lanes g, shflFrom mode (segSize seg h.c.width) k.lane (rb k).bits ≠ some l.lane) →
      val k = (re k).tv) :
    exec (.shfl mode seg g d a b e) s = .next (s.wrote h g [d.spec] fun k => .one d [a, b, e] (val k, {})) := by
  refine exec_whole_wrote hat hwh rfl rfl rfl rfl ?_ rfl
  have hgat := gather_ok (cs := h.lanes g) (v := fun k => (ra k, rb k, re k))
    (f := fun c => (rd c 1 a).bind fun ra => (rd c 2 b).bind fun rb => (rd c 3 e).bind fun re =>
      (wrOk c d [a, b, e]).map fun _ => (ra, rb, re)) fun k hk => by
    simp only [ha k hk, hb k hk, he k hk, hw k hk, LaneStep.bind, LaneStep.map]
  simp only [armShfl, hgat, Gathered.arm, trapEnds, List.map_nil, List.nil_append, List.map_map]
  congr 2
  apply List.map_congr_left
  intro k hk
  simp only [Function.comp_apply, width_of_lane hk]
  congr 2
  cases hm : shflFrom mode (segSize seg h.c.width) k.lane (rb k).bits with
  | none => simp only [Option.bind_none]; exact (hnone k hk fun l _ => by simp [hm]).symm
  | some m =>
    simp only [Option.bind_some, laneVal_map]
    cases hl : (h.lanes g).find? (·.lane == m) with
    | none =>
      simp only [Option.map_none]
      refine (hnone k hk fun l hl' hlm => ?_).symm
      have := List.find?_eq_none.1 hl l hl'
      simp_all
    | some l =>
      simp only [Option.map_some]
      have hlane : l.lane = m := by simpa using List.find?_some hl
      exact (hsome k hk l (List.mem_of_find?_eq_some hl) (by rw [hm, hlane])).symm

/-! ### `vote`, `ballot`, `match` and `elect` -/

theorem sameTV_comm (x y : RV) : sameTV x y = sameTV y x := by
  simp only [sameTV, BEq.comm (a := x.bits), BEq.comm (a := x.tag)]

theorem sameTV_iff {x y : RV} : sameTV x y = true ↔ x.bits = y.bits ∧ x.tag = y.tag := by
  simp only [sameTV, Bool.and_eq_true, beq_iff_eq]

/-- All values equal the first exactly when all are equal. -/
theorem voteOf_eq (l : List RV) : voteOf .eq l = if l.all fun x => l.all (sameTV x) then 1 else 0 := by
  cases l with
  | nil => rfl
  | cons x l =>
    have : ((x :: l).all fun y => (x :: l).all (sameTV y)) = l.all (sameTV x) := by
      rw [Bool.eq_iff_iff]
      simp only [List.all_eq_true, List.forall_mem_cons, sameTV_iff]
      constructor
      · rintro ⟨⟨-, hx⟩, -⟩
        exact hx
      · intro hx
        refine ⟨⟨⟨trivial, trivial⟩, hx⟩, fun y hy => ⟨⟨(hx y hy).1.symm, (hx y hy).2.symm⟩, fun z hz => ?_⟩⟩
        exact ⟨(hx y hy).1.symm.trans (hx z hz).1, (hx y hy).2.symm.trans (hx z hz).2⟩
    simp only [voteOf, this]

theorem exec_vote {mode : VoteMode} {seg : Seg} (hat : s.here h) (hwh : h.whole) (ha : h.Reads g 1 a ra) (hw : h.Writable g d [a]) :
    exec (.vote mode seg g d a) s = .next (s.wrote h g [d.spec] fun k =>
      .one d [a] (⟨voteOf mode ((h.segment g (segSize seg h.c.width) k.lane).map ra), F.n32⟩, {})) := by
  refine exec_whole_wrote hat hwh rfl rfl rfl rfl ?_ rfl
  simp only [armVote, gather1_ok ha hw, Gathered.arm, trapEnds, List.map_nil, List.nil_append, List.map_map]
  congr 2
  apply List.map_congr_left
  intro k hk
  simp only [Function.comp_apply, width_of_lane hk, inSeg_map, List.map_map]
  rfl

/-- Bits set one by one, each power of two at most once. -/
theorem foldl_setBits (p : Nat → Bool) : ∀ n, ((List.range n).foldl (fun acc j => if p j then acc + 2 ^ j else acc) 0 < 2 ^ n) ∧
    ∀ i, ((List.range n).foldl (fun acc j => if p j then acc + 2 ^ j else acc) 0).testBit i = (decide (i < n) && p i)
  | 0 => by simp
  | n + 1 => by
    obtain ⟨hlt, hbit⟩ := foldl_setBits p n
    rw [List.range_succ, List.foldl_append, List.foldl_cons, List.foldl_nil]
    generalize (List.range n).foldl (fun acc j => if p j then acc + 2 ^ j else acc) 0 = v at hlt hbit ⊢
    constructor
    · rw [Nat.pow_succ]
      split <;> omega
    · intro i
      split
      next hp =>
        have hor : v + 2 ^ n = 2 ^ n ||| v := by
          rw [Nat.add_comm, ← Nat.mul_one (2 ^ n), Nat.two_pow_add_eq_or_of_lt hlt 1]
        rw [hor, Nat.testBit_or, Nat.testBit_two_pow, hbit]
        by_cases hi : n = i
        · subst hi; simp [hp]
        · simp [hi, show (i < n + 1) = (i < n) by simp only [eq_iff_iff]; omega]
      next hp =>
        rw [hbit]
        by_cases hi : i = n
        · subst hi; simp [hp]
        · simp [show (i < n + 1) = (i < n) by simp only [eq_iff_iff]; omega]

/-- The one lane of a number, where it is present. -/
theorem any_lane (n : Nat) (p : RCtx → Bool) :
    ((h.lanes g).any fun l => l.lane == n && p l) = ((h.lanes g).find? (·.lane == n)).any p := by
  cases hf : (h.lanes g).find? (·.lane == n) with
  | none =>
    have hno := List.find?_eq_none.1 hf
    rw [Option.any_none, List.any_eq_false]
    intro l hl
    simpa using fun h1 => absurd h1 (by simpa using hno l hl)
  | some k =>
    have hk := List.mem_of_find?_eq_some hf
    have hkn : k.lane = n := by simpa using List.find?_some hf
    rw [Option.any_some, Bool.eq_iff_iff, List.any_eq_true]
    constructor
    · rintro ⟨l, hl, hp⟩
      simp only [Bool.and_eq_true, beq_iff_eq] at hp
      rw [lane_inj hk hl (hkn.trans hp.1.symm)]
      exact hp.2
    · exact fun hp => ⟨k, hk, by simp [hkn, hp]⟩

/-- The mask of R173, bit by bit. -/
theorem quarterMask_getLsbD (q : BitVec 2) (p : RV → Bool) {j : Nat} (hj : j < 32) :
    (quarterMask q ((h.lanes g).map fun k => (k, ra k)) p).getLsbD j =
      (h.lanes g).any fun l => l.lane == 32 * q.toNat + j && p (ra l) := by
  have hfold : quarterMask q ((h.lanes g).map fun k => (k, ra k)) p = BitVec.ofNat 32 ((List.range 32).foldl (fun acc j =>
      if (((h.lanes g).find? (·.lane == 32 * q.toNat + j)).any fun k => p (ra k)) then acc + 2 ^ j else acc) 0) := by
    unfold quarterMask
    congr 2
    funext acc j
    rw [laneVal_map]
    cases (h.lanes g).find? (·.lane == 32 * q.toNat + j) <;> rfl
  rw [hfold, BitVec.getLsbD_ofNat, (foldl_setBits _ 32).2, any_lane]
  simp [hj]

/-- Two words with the same bits below 32 are the same. -/
theorem quarterMask_eq {q : BitVec 2} {p : RV → Bool} {mask : Word}
    (hm : ∀ j < 32, mask.getLsbD j = (h.lanes g).any fun l => l.lane == 32 * q.toNat + j && p (ra l)) :
    quarterMask q ((h.lanes g).map fun k => (k, ra k)) p = mask :=
  BitVec.eq_of_getLsbD_eq fun j hj => (quarterMask_getLsbD q p hj).trans (hm j hj).symm

theorem exec_ballot {q : BitVec 2} {mask : RCtx → Word} (hat : s.here h) (hwh : h.whole) (hz : ¬ ∃ z, d.spec = .z z)
    (ha : h.Reads g 1 a ra) (hw : h.Writable g d [a])
    (hm : ∀ k ∈ h.lanes g, ∀ j < 32, (mask k).getLsbD j =
      (h.lanes g).any fun l => l.lane == 32 * q.toNat + j && (ra l).bits != 0) :
    exec (.ballot q g d a) s = .next (s.wrote h g [d.spec] fun k => .one d [a] (⟨mask k, F.n32⟩, {})) := by
  refine exec_whole_wrote hat hwh rfl rfl rfl rfl ?_ rfl
  simp only [armBallot, gather1_ok ha hw, Gathered.arm, trapEnds, List.map_nil, List.nil_append, List.map_map]
  rw [← settle_of_none hz]
  congr 3
  apply List.map_congr_left
  intro k hk
  simp only [Function.comp_apply, quarterMask_eq (p := (·.bits != 0)) (hm k hk)]

theorem exec_matchq {q : BitVec 2} {mask : RCtx → Word} (hat : s.here h) (hwh : h.whole) (hz : ¬ ∃ z, d.spec = .z z)
    (ha : h.Reads g 1 a ra) (hw : h.Writable g d [a])
    (hm : ∀ k ∈ h.lanes g, ∀ j < 32, (mask k).getLsbD j =
      (h.lanes g).any fun l => l.lane == 32 * q.toNat + j && sameTV (ra k) (ra l)) :
    exec (.matchq q g d a) s = .next (s.wrote h g [d.spec] fun k => .one d [a] (⟨mask k, F.n32⟩, {})) := by
  refine exec_whole_wrote hat hwh rfl rfl rfl rfl ?_ rfl
  simp only [armMatch, gather1_ok ha hw, Gathered.arm, trapEnds, List.map_nil, List.nil_append, List.map_map]
  rw [← settle_of_none hz]
  congr 3
  apply List.map_congr_left
  intro k hk
  simp only [Function.comp_apply, quarterMask_eq (p := sameTV (ra k)) (hm k hk)]

/-- The lane that `elect` chooses in its segment: the lowest or the highest. -/
theorem exec_elect {hi : Bool} {seg : Seg} {le : Nat → Nat → Prop} [DecidableRel le] (hat : s.here h) (hwh : h.whole)
    (hw : h.Writable g d []) (hle : ∀ l a, electedOf hi l = some a ↔ a ∈ l ∧ ∀ b ∈ l, le a b) :
    exec (.elect hi seg g d) s = .next (s.wrote h g [d.spec] fun k =>
      .one d [] (⟨if (h.segment g (segSize seg h.c.width) k.lane).all fun l => decide (le k.lane l.lane) then 1 else 0, F.n32⟩,
        {})) := by
  refine exec_whole_wrote hat hwh rfl rfl rfl rfl ?_ rfl
  have hgat := gather_ok (cs := h.lanes g) (v := fun _ => ()) (f := fun c => wrOk c d) hw
  simp only [armElect, hgat, Gathered.arm, trapEnds, List.map_nil, List.nil_append, List.map_map]
  congr 2
  apply List.map_congr_left
  intro k hk
  have hmem : k.lane ∈ (h.segment g (segSize seg h.c.width) k.lane).map (·.lane) :=
    List.mem_map.2 ⟨k, List.mem_filter.2 ⟨hk, beq_self_eq_true _⟩, rfl⟩
  have hel : (electedOf hi ((h.segment g (segSize seg h.c.width) k.lane).map (·.lane)) == some k.lane) =
      (h.segment g (segSize seg h.c.width) k.lane).all fun l => decide (le k.lane l.lane) := by
    rw [Bool.eq_iff_iff, beq_iff_eq, hle, and_iff_right hmem, List.all_eq_true]
    simp only [List.mem_map, forall_exists_index, and_imp, forall_apply_eq_imp_iff₂, decide_eq_true_eq]
  simp only [Function.comp_apply, width_of_lane hk, inSeg_map, List.map_map, endD, boolTV]
  rw [← hel]
  rfl

/-! ### `lred` and `scan` -/

theorem exec_lred {op : RedOp} {f : RedFmt} {x : RCtx → Word} {v : Word} {fl : Flags} (hat : s.here h) (hwh : h.whole)
    (ha : h.Reads g 1 a ra) (hw : h.Writable g d [a]) (hx : ∀ k ∈ h.lanes g, (ra k).widen (redFmtCode f) = .ok (x k))
    (hne : h.lanes g ≠ []) (hr : reduceTree (redStep op f) h.c.width.log2 (h.byLane g 0 h.c.width x) = (some v, fl)) :
    exec (.lred op f g d a) s = .next (s.left h [d.spec]
      { ArmOut.ofLanes ((h.lanes g).map fun k => (k.lane, .one d [a] (⟨v, redFmtCode f⟩, {}))) with flags := fl }) := by
  refine exec_whole hat hwh rfl rfl rfl rfl ?_ (parksOf_ofLanes _) (trapsOf_ofLanes _) rfl
  simp only [armLred, gather_widen_ok ha hw hx, Gathered.arm, widthOf_lanes hne, lanesList_map, hr, ArmOut.ofLanes, List.map_map]
  rfl

theorem exec_scan {op : ScanOp} {f : RedFmt} {x : RCtx → Word} {l : List (Option Word)} {fl : Flags} (hat : s.here h)
    (hwh : h.whole) (hz : ¬ ∃ z, d.spec = .z z) (ha : h.Reads g 1 a ra) (hw : h.Writable g d [a])
    (hx : ∀ k ∈ h.lanes g, (ra k).widen (redFmtCode f) = .ok (x k)) (hne : h.lanes g ≠ [])
    (hr : scanSteps (scanOpStep op f) h.c.width.log2 1 (h.byLane g 0 h.c.width x) = (l, fl)) :
    exec (.scan op f g d a) s = .next (s.left h [d.spec]
      { ArmOut.ofLanes ((h.lanes g).map fun k => (k.lane, .one d [a] (⟨scanResult op l k.lane, redFmtCode f⟩, {}))) with
        flags := fl }) := by
  refine exec_whole hat hwh rfl rfl rfl rfl ?_ (parksOf_ofLanes _) (trapsOf_ofLanes _) rfl
  simp only [armScan, gather_widen_ok ha hw hx, Gathered.arm, widthOf_lanes hne, lanesList_map, hr, trapEnds, List.map_nil,
    List.nil_append, List.map_map]
  refine (settle_of_none (v := fun k => ⟨scanResult op l k.lane, redFmtCode f⟩) hz fl (h.lanes g)).trans ?_
  simp only [ArmOut.ofLanes, List.map_map]
  rfl

theorem scanResult_eq (op : ScanOp) (l : List (Option Word)) (lane : Nat) :
    scanResult op l lane = if op = .addx then (if lane = 0 then 0 else ((l[lane - 1]?).getD none).getD 0)
      else ((l[lane]?).getD none).getD 0 := by
  cases op <;> rfl

end

/-- Settles O9: each cross-lane instruction gathers S1 of the arm's lanes, which is a function of the lane there. -/
theorem crossLane : Obligations.CrossLane := by
  refine ⟨fun s h g d a seg hat hwh hz => ⟨?_, ?_, ?_⟩, ?_, ?_⟩
  · intro mode b e ra rb re val ha hb he hw base t from' hsome hnone
    have hfrom (k l : RCtx) : shflFrom mode (segSize seg h.c.width) k.lane (rb k).bits = some l.lane ↔ from' k l :=
      shflFrom_eq_some (by cases mode <;> rfl)
    exact exec_shfl hat hwh ha hb he hw (fun k hk l hl hm => hsome k hk l hl ((hfrom k l).1 hm))
      fun k hk hm => hnone k hk fun l hl hf => hm l hl ((hfrom k l).2 hf)
  · intro ra ha hw present set same gives
    refine ⟨?_, ?_, ?_, ?_, fun q mask hm => exec_ballot hat hwh hz ha hw hm, fun q mask hm => exec_matchq hat hwh hz ha hw hm⟩
    all_goals refine (exec_vote hat hwh ha hw).trans ?_
    · simp only [voteOf, List.all_map]
      rfl
    · simp only [voteOf, List.any_map]
      rfl
    · simp only [voteOf_eq, List.all_map]
      rfl
    · simp only [voteOf, List.countP_eq_length_filter, List.filter_map, List.length_map]
      rfl
  · exact fun hw => ⟨exec_elect (le := (· ≤ ·)) hat hwh hw fun l a => by
        simp only [electedOf, Bool.false_eq_true, if_false, List.min?_eq_some_iff],
      exec_elect (le := fun a b => b ≤ a) hat hwh hw fun l a => by simp only [electedOf, if_true, List.max?_eq_some_iff]⟩
  · intro s h g d a f ra x hat hwh hz ha hw hx w vals wrote hne
    refine ⟨fun op v fl hr => exec_lred hat hwh ha hw hx hne hr, fun op l fl hr => ?_⟩
    rw [exec_scan hat hwh hz ha hw hx hne hr]
    simp only [scanResult_eq, wrote]
  · intro op a b c d e f g k step
    exact ⟨rfl, rfl, rfl⟩

end Sys2Proof.Machine

/-! PROOF. Upward writes (R128, R135, R136), and control flow (R177 to R180, R321, R420). -/

namespace Sys2Proof.Machine

section
variable {s : State} {h : Here} {g : Guard} {d : Dst} {a : Src} {i : Instr} {ra : RCtx → RV} {f : Fmt} {x : RCtx → Word}

/-! ### The write of one holder -/

theorem upInst_scope {div : Bool} {pick : List (RCtx × Word) → Except Trap (Word × Flags)} {vs mine : List (RCtx × Word)} {n : Nat}
    {v : Word} {fl : Flags} (hz : ¬ ∃ z, d.spec = .z z) (hm : (vs.filter fun u => inInst d.spec n u.1.lane) = mine)
    (hne : mine ≠ []) (hp : pick mine = .ok (v, fl)) (hd : (div && isUp d.spec) = false) :
    upInst d f a div pick vs [] n = ⟨mine.map fun u => (u.1.lane, .out { frees := [a] }), [⟨d.spec, n, ⟨v, f⟩⟩], fl⟩ := by
  obtain ⟨m, l, rfl⟩ := List.exists_cons_of_ne_nil hne
  simp only [not_exists] at hz
  simp only [upInst, hm, List.filter_nil, List.isEmpty_nil, Bool.not_true, Bool.false_eq_true, if_false, hp, hd]

theorem upInst_baton {div : Bool} {pick : List (RCtx × Word) → Except Trap (Word × Flags)} {m : RCtx × Word}
    {l : List (RCtx × Word)} {n : Nat} {v : Word} {fl : Flags} {z : BitVec 3} (hz : d.spec = .z z)
    (hp : pick (m :: l) = .ok (v, fl)) :
    upInst d f a div pick (m :: l) [] n = ⟨(m :: l).map fun u =>
      (u.1.lane, .out { writes := if u.1.lane == m.1.lane then [(d, ⟨v, f⟩)] else [], frees := [a] }), [], fl⟩ := by
  have hm : ((m :: l).filter fun u => inInst d.spec n u.1.lane) = m :: l :=
    List.filter_eq_self.2 fun u _ => by rw [hz]; rfl
  rw [hz] at hm
  simp only [upInst, hm, List.filter_nil, List.isEmpty_nil, Bool.not_true, Bool.false_eq_true, if_false, hp, hz, isUp,
    Bool.and_false]

theorem joinAll_one (fl : Flags) : joinAll [fl] = fl := by
  cases fl
  simp only [joinAll, List.foldl_cons, List.foldl_nil, Flags.join, Bool.false_or]

theorem joinAll_none {α : Type} (l : List α) : joinAll (l.map fun _ => ({} : Flags)) = {} := by
  induction l with
  | nil => rfl
  | cons _ _ ih => exact ih

/-! ### An upward write of one arm -/

/-- The registers that `sup` and `sred` write once for the arm: all but those of subgroups. -/
theorem instances_of_not_x {vs : List (RCtx × Word)} {ts : List (Nat × Trap)} (hx : ¬ ∃ j, d.spec = .x j) :
    instances d.spec vs ts = [0] := by
  simp only [not_exists] at hx
  cases hd : d.spec <;> simp_all [instances]

theorem filter_inInst_of_not_x {vs : List (RCtx × Word)} (hx : ¬ ∃ j, d.spec = .x j) (n : Nat) :
    (vs.filter fun u => inInst d.spec n u.1.lane) = vs := by
  simp only [not_exists] at hx
  refine List.filter_eq_self.2 fun u _ => ?_
  cases hd : d.spec <;> simp_all [inInst]

theorem instances_x {j : BitVec 4} (hd : d.spec = .x j) :
    instances d.spec ((h.lanes g).map fun k => (k, x k)) [] =
      (List.range 16).filter fun n => (h.lanes g).any fun k => k.lane / 8 == n := by
  simp only [hd, instances, List.any_map, List.any_nil, Bool.or_false]
  rfl

theorem filter_inInst_x {j : BitVec 4} (hd : d.spec = .x j) (n : Nat) :
    (((h.lanes g).map fun k => (k, x k)).filter fun u => inInst d.spec n u.1.lane) =
      ((h.lanes g).filter fun k => k.lane / 8 == n).map fun k => (k, x k) := by
  rw [List.filter_map, hd]
  rfl

/-- Only a register of the block or wider is refused while a record stands open. -/
theorem diverged_eq_false (hr : (∃ i, d.spec = .b i) ∨ (∃ i, d.spec = .c i) ∨ (∃ i, d.spec = .g i) → h.c.warp.recs = []) :
    (((h.lanes g).any fun c => !c.warp.recs.isEmpty) && isUp d.spec) = false := by
  rw [Bool.and_eq_false_iff]
  by_cases hup : (∃ i, d.spec = .b i) ∨ (∃ i, d.spec = .c i) ∨ (∃ i, d.spec = .g i)
  · refine .inl (List.any_eq_false.2 fun k hk => ?_)
    rw [(lanes_warp hk).1, hr hup]
    simp
  · right
    simp only [not_or, not_exists] at hup
    obtain ⟨hb, hc, hg⟩ := hup
    cases hd : d.spec <;> simp_all [isUp]

variable {pick : Nat → List (RCtx × Word) → Except Trap (Word × Flags)} {v : Word} {fl : Flags}

/-- One write for the arm, to a scope register. -/
theorem armUp_scope (hx : ¬ ∃ j, d.spec = .x j) (hz : ¬ ∃ z, d.spec = .z z) (ha : h.Reads g 1 a ra) (hw : h.Writable g d [a])
    (hv : ∀ k ∈ h.lanes g, (ra k).widen f = .ok (x k)) (hne : h.lanes g ≠ [])
    (hr : (∃ i, d.spec = .b i) ∨ (∃ i, d.spec = .c i) ∨ (∃ i, d.spec = .g i) → h.c.warp.recs = [])
    (hp : pick 0 ((h.lanes g).map fun k => (k, x k)) = .ok (v, fl)) :
    armUp d f a pick (h.lanes g) = .done { ArmOut.ofLanes (h.each g { frees := [a] }) with scope := [⟨d.spec, 0, ⟨v, f⟩⟩], flags := fl } := by
  have hne' : ((h.lanes g).map fun k => (k, x k)) ≠ [] := by simpa using hne
  simp only [armUp, gather_widen_ok ha hw hv, Gathered.arm, instances_of_not_x hx, List.map_cons, List.map_nil,
    upInst_scope hz (filter_inInst_of_not_x hx 0) hne' hp (diverged_eq_false hr), List.flatMap_cons, List.flatMap_nil,
    List.append_nil, joinAll_one, ArmOut.ofLanes, Here.each, List.map_map]
  rfl

/-- One write for the arm, to a baton: its first lane writes it. -/
theorem armUp_baton {z : BitVec 3} {k : RCtx} {rest : List RCtx} (hz : d.spec = .z z) (ha : h.Reads g 1 a ra) (hw : h.Writable g d [a])
    (hv : ∀ k ∈ h.lanes g, (ra k).widen f = .ok (x k)) (hk : h.lanes g = k :: rest)
    (hp : pick 0 ((h.lanes g).map fun k => (k, x k)) = .ok (v, fl)) :
    armUp d f a pick (h.lanes g) = .done { ArmOut.ofLanes ((h.lanes g).map fun l =>
        (l.lane, { writes := if l.lane == k.lane then [(d, ⟨v, f⟩)] else [], frees := [a] })) with flags := fl } := by
  have hx : ¬ ∃ j, d.spec = .x j := by simp [hz]
  simp only [armUp, gather_widen_ok ha hw hv, Gathered.arm, instances_of_not_x hx, List.map_cons, List.map_nil]
  simp only [hk, List.map_cons] at hp ⊢
  simp only [upInst_baton hz hp, List.flatMap_cons, List.flatMap_nil, List.append_nil, joinAll_one, ArmOut.ofLanes, List.map_cons,
    List.map_map]
  rfl

/-- A write for each subgroup that has lanes. -/
theorem armUp_sub {j : BitVec 4} {subs : List Nat} {val : Nat → Word} {flags : Nat → Flags} (hd : d.spec = .x j)
    (hsubs : subs = (List.range 16).filter fun n => (h.lanes g).any fun k => k.lane / 8 == n)
    (ha : h.Reads g 1 a ra) (hw : h.Writable g d [a]) (hv : ∀ k ∈ h.lanes g, (ra k).widen f = .ok (x k))
    (hp : ∀ n ∈ subs, pick n (((h.lanes g).filter fun k => k.lane / 8 == n).map fun k => (k, x k)) = .ok (val n, flags n)) :
    armUp d f a pick (h.lanes g) = .done
      { lanes := subs.flatMap fun n => ((h.lanes g).filter fun k => k.lane / 8 == n).map fun k => (k.lane, .out { frees := [a] })
        scope := subs.map fun n => ⟨d.spec, n, ⟨val n, f⟩⟩
        flags := joinAll (subs.map flags) } := by
  have hz : ¬ ∃ z, d.spec = .z z := by simp [hd]
  have hup : isUp d.spec = false := by rw [hd]; rfl
  have hinst : ∀ n ∈ subs, upInst d f a ((h.lanes g).any fun c => !c.warp.recs.isEmpty) (pick n)
      ((h.lanes g).map fun k => (k, x k)) [] n = ⟨((h.lanes g).filter fun k => k.lane / 8 == n).map fun k =>
        (k.lane, .out { frees := [a] }), [⟨d.spec, n, ⟨val n, f⟩⟩], flags n⟩ := fun n hn => by
    have hne : (((h.lanes g).filter fun k => k.lane / 8 == n).map fun k => (k, x k)) ≠ [] := by
      rw [hsubs, List.mem_filter, List.any_eq_true] at hn
      obtain ⟨-, k, hk, hkn⟩ := hn
      simpa using ⟨k, hk, by simpa using hkn⟩
    rw [upInst_scope hz (filter_inInst_x hd n) hne (hp n hn) (by rw [hup, Bool.and_false]), List.map_map]
    rfl
  simp only [armUp, gather_widen_ok ha hw hv, Gathered.arm, instances_x hd, ← hsubs]
  rw [List.map_congr_left hinst]
  simp only [List.flatMap_map, List.map_map, ← List.map_eq_flatMap]
  rfl

theorem parksOf_sub (subs : List Nat) (o : LaneOut) (sc : List ViewEnt) (fl : Flags) :
    parksOf { lanes := subs.flatMap fun n => ((h.lanes g).filter fun k => k.lane / 8 == n).map fun k => (k.lane, .out o),
              scope := sc, flags := fl } = [] := by
  simp [parksOf, List.filterMap_flatMap, List.filterMap_map]

theorem trapsOf_sub (subs : List Nat) (o : LaneOut) (sc : List ViewEnt) (fl : Flags) :
    trapsOf { lanes := subs.flatMap fun n => ((h.lanes g).filter fun k => k.lane / 8 == n).map fun k => (k.lane, .out o),
              scope := sc, flags := fl } = [] := by
  simp [trapsOf, List.filterMap_flatMap, List.filterMap_map]

/-! ### `sup` and `sred` -/

/-- What `sup` writes: the value its lanes agree on. -/
def supPick (a : Src) (vs : List (RCtx × Word)) : Except Trap (Word × Flags) :=
  if allEqual (vs.map (·.2)) then .ok ((vs.head?.map (·.2)).getD 0, {}) else .error (opTrap .scopeDisagree 1 a.spec)

/-- What `sred` writes: the reduction over the `w` lanes of a holder. -/
def sredPick (op : RedOp) (f : RedFmt) (w n : Nat) (vs : List (RCtx × Word)) : Except Trap (Word × Flags) :=
  .ok ((reduceTree (redStep op f) w.log2 (lanesList (8 * n) w vs)).1.getD 0,
    (reduceTree (redStep op f) w.log2 (lanesList (8 * n) w vs)).2)

theorem exec_sup {o : ArmOut} (hat : s.here h) (hwh : h.whole) (hk : armUp d f a (fun _ => supPick a) (h.lanes g) = .done o)
    (hp : parksOf o = []) (hx : trapsOf o = []) : exec (.sup f g d a) s = .next (s.left h [d.spec] o) := by
  have hk' : armSup f d a (h.lanes g) = .done o := by unfold armSup; exact hk
  exact exec_whole hat hwh rfl rfl rfl rfl hk' hp hx rfl

theorem exec_sred {op : RedOp} {f : RedFmt} {w : Nat} {o : ArmOut} (hat : s.here h) (hwh : h.whole)
    (hwd : (match d.spec with
      | .x _ => 8
      | _ => widthOf (h.lanes g)) = w)
    (hk : armUp d (redFmtCode f) a (sredPick op f w) (h.lanes g) = .done o) (hp : parksOf o = []) (hx : trapsOf o = []) :
    exec (.sred op f g d a) s = .next (s.left h [d.spec] o) := by
  subst hwd
  have hk' : armSred op f d a (h.lanes g) = .done o := by unfold armSred; exact hk
  exact exec_whole hat hwh rfl rfl rfl rfl hk' hp hx rfl

theorem supPick_ok {l : List (RCtx × Word)} (hne : l ≠ []) (hl : ∀ u ∈ l, u.2 = v) : supPick a l = .ok (v, {}) := by
  obtain ⟨u, l, rfl⟩ := List.exists_cons_of_ne_nil hne
  have hall : allEqual ((u :: l).map (·.2)) = true := allEqual_of fun p hp q hq => by
    obtain ⟨p, hp', rfl⟩ := List.mem_map.1 hp
    obtain ⟨q, hq', rfl⟩ := List.mem_map.1 hq
    rw [hl p hp', hl q hq']
  rw [supPick, if_pos hall]
  simp only [List.head?_cons, Option.map_some, Option.getD_some, hl u List.mem_cons_self]

theorem sredPick_ok {op : RedOp} {f : RedFmt} {w n : Nat} {l : List (RCtx × Word)}
    (hr : reduceTree (redStep op f) w.log2 (lanesList (8 * n) w l) = (some v, fl)) : sredPick op f w n l = .ok (v, fl) := by
  rw [sredPick, hr]
  rfl

/-- The lanes of a subgroup, in the order of their numbers. -/
theorem lanesList_sub (n : Nat) :
    lanesList (8 * n) 8 (((h.lanes g).filter fun k => k.lane / 8 == n).map fun k => (k, x k)) = h.byLane g (8 * n) 8 x := by
  unfold lanesList Here.byLane
  refine List.map_congr_left fun j hj => ?_
  have hj8 : j < 8 := List.mem_range.1 hj
  rw [laneVal_map, List.find?_filter]
  congr 2
  funext k
  rw [Bool.eq_iff_iff]
  simp only [beq_iff_eq, decide_eq_true_eq]
  omega

end

/-- Settles O10: an upward write is the write of one holder: of the arm, or of each of its subgroups. -/
theorem upwardWrites : Obligations.UpwardWrites := by
  intro s h g d a ra hat hwh ha hw hne hr plain subs bySub filled
  have notX : (∃ i, d.spec = .w i) ∨ (∃ i, d.spec = .b i) ∨ (∃ i, d.spec = .c i) ∨ (∃ i, d.spec = .g i) →
      (¬ ∃ j, d.spec = .x j) ∧ ¬ ∃ z, d.spec = .z z := by
    rintro (⟨i, hd⟩ | ⟨i, hd⟩ | ⟨i, hd⟩ | ⟨i, hd⟩) <;> simp [hd]
  have hwide (hx : ¬ ∃ j, d.spec = .x j) : (match d.spec with
      | .x _ => 8
      | _ => widthOf (h.lanes g)) = h.c.width := by
    simp only [not_exists] at hx
    rw [← widthOf_lanes hne]
    cases hd : d.spec <;> simp_all
  have hall (x : RCtx → Word) : ((h.lanes g).map fun k => (k, x k)) ≠ [] := by simpa using hne
  have hsub (x : RCtx → Word) {n : Nat} (hn : n ∈ subs) :
      (((h.lanes g).filter fun k => k.lane / 8 == n).map fun k => (k, x k)) ≠ [] := by
    obtain ⟨k, hk, hkn⟩ := List.any_eq_true.1 (List.mem_filter.1 hn).2
    exact List.ne_nil_of_mem (List.mem_map.2 ⟨k, List.mem_filter.2 ⟨hk, hkn⟩, rfl⟩)
  refine ⟨fun f v hv => ⟨fun hd => ?_, fun z k rest hd hk => ?_⟩, fun f v i hd hv => ?_,
    fun op f x v fl hv hred => ⟨fun hd => ?_, fun z k rest hd hk => ?_⟩, fun op f x v fl i hd hv hred => ?_⟩
  · obtain ⟨hx, hz⟩ := notX hd
    exact exec_sup hat hwh (armUp_scope (x := fun _ => v) hx hz ha hw hv hne hr (supPick_ok (hall _) (by simp)))
      (parksOf_ofLanes plain) (trapsOf_ofLanes plain)
  · exact exec_sup hat hwh (armUp_baton (x := fun _ => v) hd ha hw hv hk (supPick_ok (hall _) (by simp)))
      (parksOf_ofLanes _) (trapsOf_ofLanes _)
  · refine (exec_sup hat hwh (armUp_sub (x := fun k => v (k.lane / 8)) (flags := fun _ => {}) hd rfl ha hw
      (fun k hk => (hv k hk).2) fun n hn => supPick_ok (hsub _ hn) fun u hu => ?_) (parksOf_sub _ _ _ _)
      (trapsOf_sub _ _ _ _)).trans (by rw [joinAll_none])
    obtain ⟨k, hk, rfl⟩ := List.mem_map.1 hu
    exact congrArg v (eq_of_beq (List.mem_filter.1 hk).2)
  · obtain ⟨hx, hz⟩ := notX hd
    exact exec_sred hat hwh (hwide hx) (armUp_scope hx hz ha hw hv hne hr (sredPick_ok (by rwa [lanesList_map])))
      (parksOf_ofLanes plain) (trapsOf_ofLanes plain)
  · exact exec_sred hat hwh (hwide (by simp [hd])) (armUp_baton hd ha hw hv hk (sredPick_ok (by rwa [lanesList_map])))
      (parksOf_ofLanes _) (trapsOf_ofLanes _)
  · exact exec_sred hat hwh (w := 8) (by rw [hd]) (armUp_sub hd rfl ha hw (fun k hk => (hv k hk).2) fun n hn =>
      sredPick_ok (by rw [lanesList_sub]; exact hred n hn)) (parksOf_sub _ _ _ _) (trapsOf_sub _ _ _ _)

section
variable {s : State} {h : Here} {g : Guard} {i : Instr}

/-! ### Threads that act one by one even in a scalar clause -/

/-- The same packet, read as one of a vector clause. -/
def Here.asVector (h : Here) : Here := { h with p := { h.p with scl := false } }

theorem threads_eq_lanes : h.threads g = h.asVector.lanes g := rfl

theorem threads_warp {k : RCtx} (hk : k ∈ h.threads g) :
    k.warp = h.c.warp ∧ k.pos = h.c.pos ∧ k.block = h.c.block ∧ k.arm = h.a.arm :=
  lanes_warp (h := h.asVector) hk

theorem wk_of_thread {k : RCtx} (hk : k ∈ h.threads g) : k.wk = h.c.wk := wk_of_lane (h := h.asVector) hk

theorem epochGuard_threads {f : ArmFn} (he : h.epochs) : epochGuard f s (h.threads g) = f s (h.threads g) :=
  epochGuard_ok (h := h.asVector) he

/-- A thread goes on to the same clause as the packet's warp does. -/
theorem nextOf_of_thread {k : RCtx} (hk : k ∈ h.threads g) : s.nextOf k = s.nextOf h.c := by
  obtain ⟨-, hpos, hblock, -⟩ := threads_warp hk
  funext t
  simp only [State.nextOf, State.codeOfLane, hpos, hblock]

/-! ### Branches, calls and returns -/

/-- The clause headers that an arm leaves for, as the first of its executing threads finds them. -/
theorem heads_of_first {k : RCtx} {ks : List RCtx} (way : RCtx → Way) (hk : h.threads g = k :: ks) :
    ((h.threads g).map fun k => (way k).pc) ++
      (k.armLive.filter fun l => !(h.threads g).any (·.lane == l)).filterMap
        (fun l => (k.warp.threads[l]?).map (s.nextOf k)) = s.heads h g way := by
  have hmem : k ∈ h.threads g := by simp [hk]
  obtain ⟨hwarp, -, -, harm⟩ := threads_warp hmem
  simp only [State.heads, RCtx.armLiveOf, RCtx.armLive, hwarp, harm, nextOf_of_thread hmem]

/-- Control flow in which every executing thread has a way out, and the arm may divide where it has to. -/
theorem flowArm_went {target : State → RCtx → Thread → LaneStep Way} {th : RCtx → Thread} {way : RCtx → Way}
    (hth : ∀ k ∈ h.threads g, k.thread = some (th k)) (hway : ∀ k ∈ h.threads g, target s k (th k) = .ok (way k))
    (hfork : (s.heads h g way).eraseDups.length ≤ 1 ∨
      h.c.warp.recs.length < 16 ∧ h.c.warp.epoch + 1 + (s.heads h g way).eraseDups.length < 2 ^ 48) :
    flowArm target s (h.threads g) = (.done (.ofLanes ((h.threads g).map fun k =>
      (k.lane, { leave := some (way k).pc, calls := some (way k).calls, frees := (way k).frees }))), s) := by
  unfold flowArm
  rw [gather_ok (v := way)]
  swap
  · intro k hk
    simp only [hth k hk, hway k hk]
  cases hk : h.threads g with
  | nil => rfl
  | cons k ks =>
    have hheads := heads_of_first (s := s) way hk
    have hmem : k ∈ h.threads g := by simp [hk]
    have hwarp := (threads_warp hmem).1
    rw [hk] at hheads
    simp only [List.map_map, Function.comp_def, hheads]
    rw [hwarp]
    rw [if_neg, if_neg]
    · simp only [trapEnds, List.map_nil, List.nil_append, ArmOut.ofLanes, List.map_map]
      rfl
    · simp only [Bool.and_eq_true, decide_eq_true_eq]
      omega
    · simp only [Bool.and_eq_true, decide_eq_true_eq]
      omega

theorem exec_went {target : State → RCtx → Thread → LaneStep Way} {th : RCtx → Thread} {way : RCtx → Way} (hat : s.here h)
    (hwh : h.whole) (hth : ∀ k ∈ h.threads g, k.thread = some (th k))
    (hway : ∀ k ∈ h.threads g, target s k (th k) = .ok (way k))
    (hfork : (s.heads h g way).eraseDups.length ≤ 1 ∨
      h.c.warp.recs.length < 16 ∧ h.c.warp.epoch + 1 + (s.heads h g way).eraseDups.length < 2 ^ 48)
    (he : exec i s = .next (s.runArms (flowHow g) (flowArm target))) : exec i s = .next (s.went h g way) :=
  he.trans (congrArg _ (runArms_threads hat rfl rfl rfl (fun _ => hwh) (flowArm_went hth hway hfork)))

theorem callWay_ok {k : RCtx} {t : Thread} {pc : Nat} {frees : List Src} (ht : t.calls.length < 32) :
    callWay s k t pc frees = .ok ⟨pc, s.nextOf k t :: t.calls, frees⟩ := if_neg (Nat.not_le.2 ht)

theorem entersAt_ok {k : RCtx} {pc : Nat} (hk : (s.codeOfLane k).any (·.enters pc) = true) : s.entersAt k pc = .ok () :=
  if_pos hk

/-! ### `exit`, `yield` and `join` -/

theorem exec_exit {k : RCtx} {ks : List RCtx} (hat : s.here h) (he : h.epochs) (hk : h.threads g = k :: ks) :
    exec (.exit g) s = .next (((s.modCore h.c.pos.core (·.dropLanes h.c.wk ((h.threads g).map (·.lane)))).exitLanes h.c.wk
      ((h.threads g).map (·.lane))).leftThreads h []) := by
  have hmem : k ∈ h.threads g := by simp [hk]
  refine congrArg _ (runArms_threads hat rfl rfl rfl (by simp) ?_)
  rw [epochGuard_threads he, hk]
  simp only [(threads_warp hmem).2.1, wk_of_thread hmem]
  rfl

theorem exec_yield_det {k : RCtx} {ks : List RCtx} (hat : s.here h) (hdet : s.det? h.c.pos = true) (hk : h.threads g = k :: ks) :
    exec (.yield g) s = .next ((s.modCore h.c.pos.core fun c =>
      { c with turns := c.turns.map fun t =>
        if t.1 == h.c.pos.ctx && t.2.1 == h.c.pos.grid then (t.1, t.2.1, t.2.2.1, (t.2.2.2 ++ [h.c.wk]).eraseDups) else t }).leftThreads
        h []) := by
  have hmem : k ∈ h.threads g := by simp [hk]
  refine congrArg _ (runArms_threads hat rfl rfl rfl (by simp) ?_)
  rw [hk]
  simp only [(threads_warp hmem).2.1, wk_of_thread hmem, hdet, if_true]
  rfl

theorem exec_yield {k : RCtx} {ks : List RCtx} (hat : s.here h) (hdet : s.det? h.c.pos = false) (hk : h.threads g = k :: ks) :
    exec (.yield g) s = .next (s.leftThreads h []) := by
  have hmem : k ∈ h.threads g := by simp [hk]
  refine congrArg _ (runArms_threads hat rfl rfl rfl (by simp) ?_)
  rw [hk]
  simp only [(threads_warp hmem).2.1, hdet, Bool.false_eq_true, if_false]
  rfl

theorem exec_join_free {k : RCtx} {ks : List RCtx} (hat : s.here h) (hwh : h.whole) (he : h.epochs)
    (hk : h.threads guardAlways = k :: ks) (hr : h.c.warp.innermost h.a.arm = none) :
    exec (.join g) s = .next (s.leftThreads h []) := by
  have hmem : k ∈ h.threads guardAlways := by simp [hk]
  obtain ⟨hwarp, -, -, harm⟩ := threads_warp hmem
  refine congrArg _ (runArms_threads hat rfl rfl rfl (fun _ => hwh) ?_)
  show epochGuard joinArm s (h.threads guardAlways) = _
  rw [epochGuard_threads he, hk]
  simp only [joinArm, hwarp, harm, hr]
  rfl

theorem exec_join_waits {k : RCtx} {ks : List RCtx} {r : Rec} {t : Thread} (hat : s.here h) (hwh : h.whole) (he : h.epochs)
    (hk : h.threads guardAlways = k :: ks) (hr : h.c.warp.innermost h.a.arm = some r) (htrap : r.trap = false)
    (ht : k.thread = some t) :
    exec (.join g) s = .next ((((s.arriveJoin k ((h.threads guardAlways).map (·.lane)) t.pc).settleWarp h.c.wk 40).joinSwitch
      h.c.pos.core h.c.wk ((h.threads guardAlways).map (·.lane))).leftThreads h []) := by
  have hmem : k ∈ h.threads guardAlways := by simp [hk]
  obtain ⟨hwarp, hpos, -, harm⟩ := threads_warp hmem
  refine congrArg _ (runArms_threads hat rfl rfl rfl (fun _ => hwh) ?_)
  show epochGuard joinArm s (h.threads guardAlways) = _
  rw [epochGuard_threads he, hk]
  simp only [joinArm, hwarp, harm, hr, ht, htrap, Bool.false_eq_true, if_false, wk_of_thread hmem, hpos]
  rfl

end

/-- Settles O11: branches are `flowArm` with a way out for every thread; the rest act on the arm's threads at once. -/
theorem controlFlow : Obligations.ControlFlow := by
  refine ⟨?_, fun s h g hat => ⟨exec_nop g hat, fun k rest hk => ⟨fun he => exec_exit hat he hk, fun hd => exec_yield hat hd hk,
      fun hd => exec_yield_det hat hd hk⟩, fun k rest hwh he hk => ⟨fun hr => exec_join_free hat hwh he hk hr,
      fun r t hr htrap ht => exec_join_waits hat hwh he hk hr htrap ht⟩⟩⟩
  intro s h g th hat hwh hth goes
  refine ⟨fun off hf => exec_went hat hwh hth (fun _ _ => rfl) hf rfl, fun a r hr => ⟨fun hf => ?_,
    fun hc hf => ?_⟩, fun off hc hf => ?_, fun top rest hr hf => ?_⟩
  · refine exec_went hat hwh hth (fun k hk => ?_) hf rfl
    obtain ⟨hrd, henter⟩ := hr k hk
    simp only [hrd, entersAt_ok henter, LaneStep.bind, Bool.false_eq_true, if_false]
  · refine exec_went hat hwh hth (fun k hk => ?_) hf rfl
    obtain ⟨hrd, henter⟩ := hr k hk
    simp only [hrd, entersAt_ok henter, callWay_ok (hc k hk), LaneStep.bind, if_true]
  · exact exec_went hat hwh hth (fun k hk => callWay_ok (hc k hk)) hf rfl
  · refine exec_went hat hwh hth (fun k hk => ?_) hf rfl
    obtain ⟨hcalls, henter⟩ := hr k hk
    simp only [hcalls, entersAt_ok henter, LaneStep.bind]

end Sys2Proof.Machine

/-! PROOF. Taking a trap (R400, R401, R404, R406). -/

namespace Sys2Proof.Machine

/-! ### Lists put in order -/

section
variable {α : Type} {le : α → α → Bool}

theorem insertBy_perm (a : α) : ∀ l : List α, (insertBy le a l).Perm (a :: l)
  | [] => .refl _
  | b :: l => by
    unfold insertBy
    split
    · exact ((insertBy_perm a l).cons b).trans (.swap a b l)
    · exact .refl _

theorem sortBy_perm (l : List α) : (sortBy le l).Perm l := by
  have key : ∀ (l acc : List α), (l.foldl (fun acc a => insertBy le a acc) acc).Perm (l ++ acc) := by
    intro l
    induction l with
    | nil => exact fun acc => .refl _
    | cons a l ih => exact fun acc => (ih _).trans (((insertBy_perm a acc).append_left l).trans List.perm_middle)
  simpa using! key l []

theorem pairwise_insertBy {a : α} (htrans : ∀ a b c, le a b = true → le b c = true → le a c = true)
    (htotal : ∀ a b, le a b = true ∨ le b a = true) :
    ∀ {l : List α}, l.Pairwise (fun a b => le a b = true) → (insertBy le a l).Pairwise fun a b => le a b = true
  | [], _ => List.pairwise_singleton _ _
  | b :: l, hl => by
    obtain ⟨hb, hl'⟩ := List.pairwise_cons.1 hl
    unfold insertBy
    split
    next hba =>
      refine List.pairwise_cons.2 ⟨fun x hx => ?_, pairwise_insertBy htrans htotal hl'⟩
      rcases List.mem_cons.1 ((insertBy_perm a l).mem_iff.1 hx) with rfl | hx
      · exact hba
      · exact hb x hx
    next hba =>
      have hab := (htotal a b).resolve_right hba
      refine List.pairwise_cons.2 ⟨fun x hx => ?_, hl⟩
      rcases List.mem_cons.1 hx with rfl | hx
      · exact hab
      · exact htrans a b x hab (hb x hx)

theorem pairwise_sortBy (htrans : ∀ a b c, le a b = true → le b c = true → le a c = true)
    (htotal : ∀ a b, le a b = true ∨ le b a = true) (l : List α) : (sortBy le l).Pairwise fun a b => le a b = true := by
  have key : ∀ (l acc : List α), acc.Pairwise (fun a b => le a b = true) →
      (l.foldl (fun acc a => insertBy le a acc) acc).Pairwise fun a b => le a b = true := by
    intro l
    induction l with
    | nil => exact fun _ h => h
    | cons a l ih => exact fun acc h => ih _ (pairwise_insertBy htrans htotal h)
  exact key l [] .nil

end

/-- The first entry that a function accepts, of a list in which no earlier entry is accepted. -/
theorem findSome?_eq_some_of_pairwise {α β : Type} {r : α → α → Prop} {f : α → Option β} {x : α} {y : β} (hx : f x = some y) :
    ∀ {l : List α}, l.Pairwise r → x ∈ l → (∀ a ∈ l, r a x → a ≠ x → f a = none) → l.findSome? f = some y
  | a :: l, hl, hmem, hno => by
    obtain ⟨ha, hl'⟩ := List.pairwise_cons.1 hl
    rcases Classical.em (a = x) with rfl | hax
    · rw [List.findSome?_cons, hx]
    · have hmem' : x ∈ l := (List.mem_cons.1 hmem).resolve_left (Ne.symm hax)
      rw [List.findSome?_cons, hno a List.mem_cons_self (ha x hmem') hax]
      exact findSome?_eq_some_of_pairwise hx hl' hmem' fun b hb => hno b (List.mem_cons_of_mem _ hb)

/-! ### A warp changed in place -/

/-- A warp replaced by one of the same index. -/
theorem warpOf_modWarp_of_idx {s : State} {k : WKey} {f : Warp → Warp} (hf : ∀ w, w.idx = k.warp → (f w).idx = k.warp) :
    (s.modWarp k f).warpOf k = (s.warpOf k).map f := by
  simp only [State.modWarp, State.modBlock, State.warpOf]
  rw [State.posOf_modPos s k.pos (fun p => p.modBlock k.stage fun b => b.modWarp k.warp f) (fun p => rfl)]
  cases s.posOf k.pos with
  | none => rfl
  | some p =>
    simp only [Option.map_some, Option.bind_some]
    rw [Position.blockOf_modBlock p k.stage (fun b => b.modWarp k.warp f) (fun b => rfl)]
    cases p.blockOf k.stage with
    | none => rfl
    | some b => exact find?_upd_same (·.idx == k.warp) f (fun w hw => by simpa using hf w (by simpa using hw)) b.warps

theorem idx_of_warpOf {s : State} {k : WKey} {w : Warp} (h : s.warpOf k = some w) : w.idx = k.warp := by
  simp only [State.warpOf, Option.bind_eq_some_iff] at h
  obtain ⟨b, -, hw⟩ := h
  simpa using List.find?_some hw

@[simp] theorem warpOf_modCore (s : State) (i : Nat) (f : CoreSt → CoreSt) (k : WKey) : (s.modCore i f).warpOf k = s.warpOf k := rfl

/-- A thread is one of its warp's. -/
theorem threadOf_eq_some {s : State} {k : WKey} {l : Nat} {t : Thread} :
    s.threadOf k l = some t ↔ ∃ w, s.warpOf k = some w ∧ w.threads[l]? = some t := by
  simp only [State.threadOf, Option.bind_eq_some_iff]

@[simp] theorem Warp.openRec_threads (w : Warp) (arm : Nat) (gs : List (List Nat)) (trap : Bool) :
    (w.openRec arm gs trap).threads = w.threads := by
  unfold Warp.openRec
  split
  · rfl
  · exact foldl_unseen Warp.threads (f := fun u g => u.addArm w.nextRec _ g) (fun _ _ => rfl) _ _

@[simp] theorem Warp.openRec_idx (w : Warp) (arm : Nat) (gs : List (List Nat)) (trap : Bool) :
    (w.openRec arm gs trap).idx = w.idx := by
  unfold Warp.openRec
  split
  · rfl
  · exact foldl_unseen Warp.idx (f := fun u g => u.addArm w.nextRec _ g) (fun _ _ => rfl) _ _

theorem getElem?_modThreads_of_not_mem {w : Warp} {lanes : List Nat} {f : Thread → Thread} {l : Nat} (hl : l ∉ lanes) :
    (w.modThreads lanes f).threads[l]? = w.threads[l]? := by
  simp [Warp.modThreads, List.getElem?_mapIdx, hl]

/-! ### Lanes that enter their handler -/

/-- Splitting an arm leaves the lanes that trap as they are. -/
theorem threadOf_splitTrap {s : State} {k : WKey} {p : Position} {arm : Arm} {ts : List Nat} {hdr l : Nat} (hl : l ∈ ts) :
    (s.splitTrap k p arm ts hdr).threadOf k l = s.threadOf k l := by
  unfold State.splitTrap
  split
  · rfl
  next w hw =>
    dsimp only
    split
    · rfl
    · have hidx := idx_of_warpOf hw
      simp only [State.threadOf, warpOf_modCore]
      rw [warpOf_modWarp_of_idx (fun _ _ => by simpa [Warp.modThreads] using hidx), hw]
      simp only [Option.map_some, Option.bind_some]
      rw [getElem?_modThreads_of_not_mem, Warp.openRec_threads]
      intro hmem
      have := (List.mem_filter.1 (List.mem_filter.1 hmem).1).2
      simp_all

/-- The cause on which a lane's trap would end its grid. -/
theorem fatalCause_eq_none {det : Bool} {handler : Option Nat} {t : Thread} {x : Trap} :
    fatalCause det handler t x = none ↔ t.inHandler = false ∧ x.cause.fatal det = false ∧ handler.isSome = true := by
  unfold fatalCause
  cases t.inHandler <;> cases x.cause.fatal det <;> cases handler <;> simp

/-- The fields of TSTATE when a trap is taken (R401). -/
theorem tstateOf_fields (x : Trap) (idx : Nat) :
    (tstateOf x idx).extractLsb' 0 7 = x.cause.code ∧ (tstateOf x idx).getLsbD 7 = true ∧
      (tstateOf x idx).extractLsb' 8 4 = BitVec.ofNat 4 idx ∧ (tstateOf x idx).getLsbD 12 = x.halfB := by
  have hc := x.cause.code.isLt
  have hb := x.halfB.toNat_lt
  have ht : x.tagc.toNat < 2 := x.tagc.toNat_lt
  have hn : (tstateOf x idx).toNat
      = x.cause.code.toNat + 2 ^ 7 + (idx % 16) * 2 ^ 8 + x.halfB.toNat * 2 ^ 12 + x.tagc.toNat * 2 ^ 13 := by
    rw [tstateOf, BitVec.toNat_ofNat, Nat.mod_eq_of_lt]
    omega
  refine ⟨?_, ?_, ?_, ?_⟩
  · apply BitVec.eq_of_toNat_eq
    rw [BitVec.extractLsb'_toNat, hn, Nat.shiftRight_eq_div_pow]
    omega
  · rw [BitVec.getLsbD, hn, Nat.testBit_eq_decide_div_mod_eq, decide_eq_true_eq]
    omega
  · apply BitVec.eq_of_toNat_eq
    rw [BitVec.extractLsb'_toNat, hn, Nat.shiftRight_eq_div_pow, BitVec.toNat_ofNat]
    omega
  · rw [BitVec.getLsbD, hn, Nat.testBit_eq_decide_div_mod_eq]
    cases x.halfB <;> simp <;> omega

@[simp] theorem splitTrap_warp_threads {s : State} {k : WKey} {p : Position} {lanes : List Nat} {hdr l : Nat} (hl : l ∈ lanes)
    (arms : List Arm) : (arms.foldl (fun s a => s.splitTrap k p a lanes hdr) s).threadOf k l = s.threadOf k l :=
  foldl_unseen (State.threadOf · k l) (f := fun s a => s.splitTrap k p a lanes hdr) (fun _ _ => threadOf_splitTrap hl) _ _

/-- A lane that traps stands at the handler. -/
theorem threadOf_trapThreads {s : State} {k : WKey} {w : Warp} {ts : List (Nat × Trap)} {hd l : Nat} {x : Trap} {t : Thread}
    (hw : s.warpOf k = some w) (hx : ts.lookup l = some x) (ht : w.threads[l]? = some t) :
    (s.modWarp k (·.trapThreads ts hd)).threadOf k l = some (t.trapTo x hd) := by
  rw [State.threadOf, warpOf_modWarp_of_idx (f := (·.trapThreads ts hd)) (fun _ h => h), hw]
  simp [Warp.trapThreads, List.getElem?_mapIdx, ht, hx]

/-- Traps none of which ends the grid: each of the lanes stands at the handler. -/
theorem threadOf_takeTraps {s : State} {k : WKey} {p : Position} {w : Warp} {ts : List (Nat × Trap)} {hd l : Nat} {x : Trap} {t : Thread}
    (hp : s.posOf k.pos = some p) (hw : s.warpOf k = some w) (hh : (s.stage? p k.stage).bind (·.handler) = some hd)
    (hno : ∀ y ∈ ts, y.2.cause.fatal (s.det? p) = false ∧ ∀ u, w.threads[y.1]? = some u → u.inHandler = false)
    (hr : w.recs.length < 16) (hx : ts.lookup l = some x) (ht : w.threads[l]? = some t) :
    (s.takeTraps k ts).threadOf k l = some (t.trapTo x hd) := by
  have hnone : ((sortBy (fun a b => decide (a.1 ≤ b.1)) ts).findSome? fun x : Nat × Trap =>
      (w.threads[x.1]?).bind fun t => (fatalCause (s.det? p) (some hd) t x.2).map fun c => (c, x)) = none := by
    refine List.findSome?_eq_none_iff.2 fun y hy => ?_
    obtain ⟨hf, hin⟩ := hno y ((sortBy_perm ts).mem_iff.1 hy)
    cases hu : w.threads[y.1]? with
    | none => rfl
    | some u => simp [(fatalCause_eq_none (handler := some hd)).2 ⟨hin u hu, hf, rfl⟩]
  have hl : l ∈ ts.map (·.1) := by
    obtain ⟨l₁, l₂, rfl, -⟩ := List.lookup_eq_some_iff.1 hx
    simp
  have hrec : decide (16 ≤ w.recs.length) = false := by simpa using hr
  simp only [State.takeTraps, hp, hw, hh, hnone, hrec, Bool.and_false]
  rw [if_neg Bool.false_ne_true, splitTrap_warp_threads hl]
  exact threadOf_trapThreads ((warpOf_modCore s _ _ k).trans hw) hx ht

/-- A trap that ends the grid, at a lane below which none does: the grid ends on its cause. -/
theorem takeTraps_eq_endFatal {s : State} {k : WKey} {p : Position} {w : Warp} {ts : List (Nat × Trap)} {l : Nat} {x : Trap} {t : Thread}
    {c : Cause} (hp : s.posOf k.pos = some p) (hw : s.warpOf k = some w) (hnd : (ts.map (·.1)).Nodup) (hx : (l, x) ∈ ts)
    (ht : w.threads[l]? = some t) (hc : fatalCause (s.det? p) ((s.stage? p k.stage).bind (·.handler)) t x = some c)
    (hno : ∀ y ∈ ts, y.1 < l → ∀ u, w.threads[y.1]? = some u →
      fatalCause (s.det? p) ((s.stage? p k.stage).bind (·.handler)) u y.2 = none) :
    ∃ site : Site, site.src = clusterSrc p.core ∧ s.takeTraps k ts = s.endFatal p.ctx p.grid c site := by
  have hdead : ((sortBy (fun a b => decide (a.1 ≤ b.1)) ts).findSome? fun x : Nat × Trap =>
      (w.threads[x.1]?).bind fun t => (fatalCause (s.det? p) ((s.stage? p k.stage).bind (·.handler)) t x.2).map fun c => (c, x))
        = some (c, l, x) := by
    refine findSome?_eq_some_of_pairwise (x := (l, x)) (by simp [ht, hc]) (pairwise_sortBy ?_ ?_ ts)
      ((sortBy_perm ts).mem_iff.2 hx) fun y hy hle hne => ?_
    · exact fun a b c h1 h2 => decide_eq_true (Nat.le_trans (of_decide_eq_true h1) (of_decide_eq_true h2))
    · exact fun a b => (Nat.le_total a.1 b.1).imp decide_eq_true decide_eq_true
    · have hy' := (sortBy_perm ts).mem_iff.1 hy
      have hlt : y.1 < l := lt_of_le_of_ne (of_decide_eq_true hle) fun h =>
        hne (List.inj_on_of_nodup_map hnd hy' hx h)
      cases hu : w.threads[y.1]? with
      | none => rfl
      | some u => simp [hno y hy' hlt u hu]
  simp only [State.takeTraps, hp, hw, hdead]
  exact ⟨_, rfl, rfl⟩

/-- Settles O13: taking traps, lane by lane, and the lowest lane whose trap ends the grid. -/
theorem trapEntry : Obligations.TrapEntry := by
  constructor
  · intro s k p w ts hd l x t hp hw hh hno hr hx ht
    obtain ⟨hcode, h7, hidx, h12⟩ := tstateOf_fields x t.idx
    exact ⟨_, threadOf_takeTraps hp hw hh hno hr hx ht, rfl, rfl, rfl, rfl, rfl, rfl, rfl, rfl, hcode, h7, hidx, h12, rfl, rfl, rfl⟩
  · intro s k p w ts l x t hp hw hnd hx ht ends hends hno
    have hf : ∀ u y, fatalCause (s.det? p) ((s.stage? p k.stage).bind (·.handler)) u y = none ↔ ¬ ends u y := by
      intro u y
      rw [fatalCause_eq_none]
      simp only [ends, not_or, Bool.not_eq_true, Option.isSome_iff_ne_none]
    have hc : fatalCause (s.det? p) ((s.stage? p k.stage).bind (·.handler)) t x
        = some (if t.inHandler then .doubleTrap else x.cause) := by
      have hne := mt (hf t x).1 (not_not.2 hends)
      unfold fatalCause at hne ⊢
      split at hne <;> simp_all
    exact takeTraps_eq_endFatal hp hw hnd hx ht hc fun y hy hlt u hu => (hf u y.2).2 (hno y hy hlt u hu)

end Sys2Proof.Machine

/-! PROOF. System registers, return from a trap, event markers (R415 to R419). -/

namespace Sys2Proof.Machine

/-! ### The epochs of warps -/

/-- The epochs of a block's warps, by index. -/
def Block.epochs (b : Block) : Nat → Option Nat := fun i => (b.warpOf i).map (·.epoch)

/-- The epochs of a position's warps, by stage and index. -/
def Position.epochs (p : Position) : Nat → Option (Nat → Option Nat) := fun stage => (p.blockOf stage).map (·.epochs)

/-- The epoch of a warp. -/
def State.epochAt (s : State) (k : WKey) : Option Nat := (s.warpOf k).map (·.epoch)

theorem epochAt_eq (s : State) (k : WKey) :
    s.epochAt k = (((s.posOf k.pos).map (·.epochs)).bind (· k.stage)).bind (· k.warp) := by
  simp only [State.epochAt, State.warpOf, Option.map_bind, Option.bind_map, Option.bind_assoc, Position.epochs, Block.epochs,
    Function.comp_def]

theorem epochAt_of_positions {s t : State} (h : t.c.positions = s.c.positions) (k : WKey) : t.epochAt k = s.epochAt k := by
  simp only [State.epochAt, State.warpOf, State.posOf, h]

/-- A lookup by key does not see a change that keeps the keys and what is viewed. -/
theorem map_find?_map {α β : Type} {f : α → α} {key : α → Nat} {view : α → β} (hk : ∀ a, key (f a) = key a)
    (hv : ∀ a, view (f a) = view a) (l : List α) (i : Nat) :
    ((l.map f).find? (key · == i)).map view = (l.find? (key · == i)).map view := by
  rw [find?_map_of_eq (q := (key · == i)) (fun a => congrArg (· == i) (hk a)), Option.map_map, show view ∘ f = view from funext hv]

theorem epochAt_modPos {s : State} {i : Nat} {k : WKey} {f : Position → Position} (hid : ∀ p, (f p).id = p.id := by intro _; rfl)
    (hf : ∀ p, (f p).epochs = p.epochs := by intro _; rfl) : (s.modPos i f).epochAt k = s.epochAt k := by
  have h : ((s.modPos i f).posOf k.pos).map (·.epochs) = (s.posOf k.pos).map (·.epochs) :=
    map_find?_upd _ (fun p => congrArg (· == k.pos) (hid p)) hf s.c.positions
  rw [epochAt_eq, epochAt_eq, h]

theorem Position.epochs_map (p : Position) (f : Block → Block) (hst : ∀ b, (f b).stage = b.stage)
    (hf : ∀ b, (f b).epochs = b.epochs) : Position.epochs { p with blocks := p.blocks.map f } = p.epochs :=
  funext fun stage => map_find?_map hst hf p.blocks stage

theorem Block.epochs_map (b : Block) (f : Warp → Warp) (hidx : ∀ w, (f w).idx = w.idx) (hf : ∀ w, (f w).epoch = w.epoch) :
    Block.epochs { b with warps := b.warps.map f } = b.epochs :=
  funext fun n => map_find?_map hidx hf b.warps n

theorem epochAt_map_positions {s : State} {k : WKey} {f : Position → Position} (hid : ∀ p, (f p).id = p.id)
    (hf : ∀ p, (f p).epochs = p.epochs) :
    (s.modC fun c => { c with positions := c.positions.map f }).epochAt k = s.epochAt k := by
  have h : ((s.modC fun c => { c with positions := c.positions.map f }).posOf k.pos).map (·.epochs) =
      (s.posOf k.pos).map (·.epochs) := map_find?_map hid hf s.c.positions k.pos
  rw [epochAt_eq, epochAt_eq, h]

theorem epochAt_modBlock {s : State} {i j : Nat} {k : WKey} {f : Block → Block} (hst : ∀ b, (f b).stage = b.stage := by intro _; rfl)
    (hf : ∀ b, (f b).epochs = b.epochs := by intro _; rfl) : (s.modBlock i j f).epochAt k = s.epochAt k := by
  refine epochAt_modPos (f := (·.modBlock j f)) (hf := fun p => funext fun stage => ?_)
  simp only [Position.epochs, Position.modBlock, Position.blockOf]
  exact map_find?_upd _ (fun b => congrArg (· == stage) (hst b)) hf p.blocks

theorem epochAt_modWarp {s : State} {k k' : WKey} {f : Warp → Warp} (hidx : ∀ w, (f w).idx = w.idx := by intro _; rfl)
    (hf : ∀ w, (f w).epoch = w.epoch := by intro _; rfl) : (s.modWarp k' f).epochAt k = s.epochAt k := by
  refine epochAt_modBlock (f := (·.modWarp k'.warp f)) (hf := fun b => funext fun n => ?_)
  simp only [Block.epochs, Block.modWarp, Block.warpOf]
  exact map_find?_upd _ (fun w => congrArg (· == n) (hidx w)) hf b.warps

@[simp] theorem epochAt_modLanes (s : State) (k' : WKey) (lanes : List Nat) (f : Thread → Thread) (k : WKey) :
    (s.modLanes k' lanes f).epochAt k = s.epochAt k := epochAt_modWarp

@[simp] theorem epochAt_dropTile (s : State) (pos a : Nat) (prev : Bool) (k : WKey) : (s.dropTile pos a prev).epochAt k = s.epochAt k :=
  epochAt_modPos

@[simp] theorem epochAt_passUses (s : State) (k' : WKey) (p : TileUse → Bool) (lanes : List Nat) (k : WKey) :
    (s.passUses k' p lanes).epochAt k = s.epochAt k := by
  unfold State.passUses
  split
  · rfl
  · split
    · rfl
    · exact (foldl_unseen (State.epochAt · k) (f := fun s (u : TileUse) => s.dropTile k'.pos u.acc u.prev)
        (fun s u => epochAt_dropTile ..) _ _).trans epochAt_modWarp

/-! ### What performs stores leaves of the positions -/

theorem Compute.exposeAll_positions (c : Compute) (p : PStore → Bool) (lvl : Nat) : (c.exposeAll p lvl).positions = c.positions :=
  foldl_unseen Compute.positions (f := fun c e => c.expose lvl e) (fun _ _ => rfl) _ c

theorem Compute.performRed_positions (c : Compute) (id : Nat) : (c.performRed id).1.positions = c.positions := by
  unfold Compute.performRed
  split
  case h_2 => rfl
  case h_1 e _ =>
    split
    case h_2 => rfl
    case h_1 op x sys _ =>
      cases e.rel with
      | none => exact Compute.exposeAll_positions ..
      | some r => exact Compute.exposeAll_positions ..

@[simp] theorem epochAt_performRed (s : State) (id : Nat) (k : WKey) : (s.performRed id).epochAt k = s.epochAt k := by
  have hc := Compute.performRed_positions s.c id
  unfold State.performRed
  split
  case h_1 c k' f h =>
    refine Eq.trans epochAt_modWarp (epochAt_of_positions ?_ k)
    rw [← hc, h]
  case h_2 h => exact epochAt_of_positions (by rw [← hc, h]) k

@[simp] theorem epochAt_performReds (s : State) (p : PStore → Bool) (k : WKey) : (s.performReds p).epochAt k = s.epochAt k :=
  foldl_unseen (State.epochAt · k) (fun s id => epochAt_performRed s id k) _ s

@[simp] theorem epochAt_flagged (s : State) (k' : WKey) (n : Nat) (k : WKey) : (s.flagged k' n).epochAt k = s.epochAt k := by
  unfold State.flagged
  split
  · split
    · exact epochAt_performReds ..
    · rfl
  · rfl

@[simp] theorem epochAt_showOld (s : State) (h : Holder) (c : RCtx) (n : Nat) (new : Word) (l : List RCtx) (k : WKey) :
    (s.showOld h c n new l).epochAt k = s.epochAt k := by
  refine epochAt_map_positions (fun _ => rfl) fun p => Position.epochs_map p _ (fun _ => rfl) fun b =>
    Block.epochs_map b _ (fun w => ?_) fun w => ?_
  · exact (apply_ite Warp.idx ..).trans (ite_self _)
  · exact (apply_ite Warp.epoch ..).trans (ite_self _)

@[simp] theorem epochAt_sysWrite (s : State) (c : RCtx) (n : Nat) (v : Word) (k : WKey) :
    (s.sysWrite c n v).epochAt k = s.epochAt k := by
  unfold State.sysWrite
  split
  · exact epochAt_modWarp
  · exact epochAt_modBlock
  · rfl

/-! ### Lanes that act in turn without a fault -/

/-- What a warp's lanes stand in. -/
theorem scene_eq_some {s : State} {wk : WKey} {c : RCtx} (h : s.scene wk = some c) :
    ∃ p b i g w, s.posOf wk.pos = some p ∧ p.blockOf wk.stage = some b ∧ s.inst? p = some i ∧ s.grid? p = some g ∧
      b.warpOf wk.warp = some w ∧ c = { thread := none, lane := 0, width := s.width? p, warp := w, arm := 0, block := b, pos := p,
                                        inst := i, grid := g } := by
  unfold State.scene at h
  split at h
  · cases h
  next p hp =>
    split at h
    next b i g hb hi hg =>
      obtain ⟨w, hw, rfl⟩ := Option.map_eq_some_iff.1 h
      exact ⟨p, b, i, g, w, hp, hb, hi, hg, hw, rfl⟩
    · cases h

section
variable {s : State} {h : Here} {g : Guard}

theorem wk_of_here (hat : s.here h) : h.c.wk = h.a.wk := by
  obtain ⟨p, b, i, gr, w, hp, hb, hi, hg, hw, hc⟩ := scene_eq_some hat.scene
  have hpos : p.id = h.a.wk.pos := by simpa using List.find?_some hp
  have hstage : b.stage = h.a.wk.stage := by simpa using List.find?_some hb
  have hidx : w.idx = h.a.wk.warp := by simpa using List.find?_some hw
  rw [hc, RCtx.wk, hpos, hstage, hidx]

theorem warpOf_here (hat : s.here h) : s.warpOf h.c.wk = some h.c.warp := by
  obtain ⟨p, b, i, gr, w, hp, hb, hi, hg, hw, hc⟩ := scene_eq_some hat.scene
  rw [wk_of_here hat, State.warpOf, hp, Option.bind_some, hb, Option.bind_some, hw, hc]

theorem posOf_here (hat : s.here h) : s.posOf h.c.pos.id = some h.c.pos := by
  obtain ⟨p, b, i, gr, w, hp, hb, hi, hg, hw, hc⟩ := scene_eq_some hat.scene
  rw [show h.c.pos.id = h.a.wk.pos from congrArg WKey.pos (wk_of_here hat), hp, hc]

theorem epochAt_here (hat : s.here h) : s.epochAt h.c.wk = some h.c.warp.epoch := by
  rw [State.epochAt, warpOf_here hat, Option.map_some]

theorem overspent_of_epochAt {k : WKey} {e : Nat} (hs : s.epochAt k = some e) (he : e < 2 ^ 48) : s.overspent k = false := by
  obtain ⟨w, hw, rfl⟩ := Option.map_eq_some_iff.1 hs
  simp only [State.overspent, hw, Option.any_some, Warp.overspent, decide_eq_false_iff_not]
  omega

theorem epoch_lt (he : h.epochs) : h.c.warp.epoch < 2 ^ 48 := by
  unfold Here.epochs at he
  omega

/-- Executing lanes that act in turn, under a condition that gives the warp an epoch left. -/
theorem inTurn_foldl {P : State → RCtx → LaneOut → State → Prop} {ks : List RCtx} {out : RCtx → LaneOut} {next : State → RCtx → State}
    {Q : State → Prop} (hQ : ∀ t, Q t → ∀ k ∈ ks, t.overspent k.wk = false)
    (hP : ∀ t, ∀ k ∈ ks, Q t → P t k (out k) (next t k)) (hnext : ∀ t, ∀ k ∈ ks, Q t → Q (next t k)) (hs : Q s) :
    State.InTurn P s ks (ks.map fun k => (k.lane, out k)) (ks.foldl next s) := by
  induction ks generalizing s with
  | nil => exact ⟨rfl, rfl⟩
  | cons k ks ih =>
    have hk := hnext s k List.mem_cons_self hs
    exact ⟨out k, next s k, _, rfl, hP s k List.mem_cons_self hs, hQ _ hk k List.mem_cons_self,
      ih (fun t ht k hk => hQ t ht k (List.mem_cons_of_mem _ hk)) (fun t k hk => hP t k (List.mem_cons_of_mem _ hk))
        (fun t k hk => hnext t k (List.mem_cons_of_mem _ hk)) hk⟩

/-! ### `sysr`, `sysw`, `evf` and `tret` -/

variable {a : Src} {r : RCtx → RV} {d : Dst} {n : BitVec 12}

theorem exec_sysr {v : RCtx → Word} (hat : s.here h) (hne : h.lanes g ≠ []) (hw : h.Writable g d [])
    (hv : ∀ k ∈ h.lanes g, (s.flagged h.c.wk n.toNat).sysRead k n.toNat = some (v k))
    (hz : (∃ z, d.spec = .z z) → ∀ k ∈ h.lanes g, ∀ l ∈ h.lanes g, v k = v l) :
    exec (.sysr g d n) s = .next ((s.flagged h.c.wk n.toNat).wrote h g [d.spec] fun k => .one d [] (⟨v k, F.n32⟩, {})) := by
  refine congrArg _ (runArms_here hat rfl (by simp) ?_)
  obtain ⟨k, ks, hk⟩ := List.exists_cons_of_ne_nil hne
  have hwk : k.wk = h.c.wk := wk_of_lane (by rw [hk]; exact List.mem_cons_self)
  rw [State.acquires, takesBatons_none batonsOf_nil]
  have hb := batonWrites_one (d := d) (srcs := []) (val := fun k => (⟨v k, F.n32⟩, {})) fun h' k hk l hl =>
    congrArg (TV.mk · F.n32) (hz h' k hk l hl)
  simp only [hk, hwk]
  rw [hk] at hb
  rw [laneWise_ok (r := fun k => .one d [] (⟨v k, F.n32⟩, {})) (fun l hl => ?_) hb]
  rw [← hk] at hl
  simp only [hv l hl]
  exact outD_ok (hw l hl) _ _

/-- The values that the lanes of the packet's one arm deliver. -/
theorem delivered_here (hat : s.here h) (ha : h.Reads g 1 a r) : s.delivered g a = (h.lanes g).map fun k => (k, (r k).bits) := by
  have hl : s.packetLanes g = h.lanes g := by
    simp [State.packetLanes, hat.cur, hat.packet, hat.arm, hat.scene, Here.lanes]
  rw [State.delivered, hl]
  refine List.filterMap_eq_map_iff_forall_eq_some.2 fun k hk => ?_
  simp only [ha k hk]

theorem exec_sysw {i : RegInfo} (hat : s.here h) (ha : h.Reads g 1 a r) (hi : regInfo n.toNat = some i) (hw : i.writable = true)
    (he : h.epochs) (hsame : ∀ k ∈ h.lanes g, ∀ l ∈ h.lanes g, (r k).bits = (r l).bits) :
    exec (.sysw g a n) s = .next (((h.lanes g).foldl (fun s k =>
        ((s.flagged k.wk n.toNat).showOld i.holder k n.toNat (r k).bits (h.lanes g)).sysWrite k n.toNat (r k).bits) s).done h []
        (h.each g { frees := [a] })) := by
  refine congrArg _ (runArms_here hat rfl (by simp) ?_)
  rw [State.acquires, takesBatons_none batonsOf_nil, delivered_here hat ha]
  have hfst : ((h.lanes g).map fun k => (k, (r k).bits)).map (·.1) = h.lanes g := by
    simp only [List.map_map, Function.comp_def, List.map_id']
  refine perLane_turn (x := fun k => (r k).bits) (P := fun t k o u => o = { frees := [a] } ∧ u =
    ((t.flagged k.wk n.toNat).showOld i.holder k n.toNat (r k).bits (h.lanes g)).sysWrite k n.toNat (r k).bits) ?_ ?_ ?_
  · intro k hk
    have hno : (((h.lanes g).map fun k => (k, (r k).bits)).any fun x => sameHolder i.holder x.1 k && x.2 != (r k).bits) = false := by
      rw [List.any_eq_false]
      intro x hx
      obtain ⟨l, hl, rfl⟩ := List.mem_map.1 hx
      simp [hsame l hl k hk]
    simp only [ha k hk, hi, hw, hno, LaneStep.bind, Bool.not_true, Bool.false_eq_true, if_false]
  · rintro t k o u ⟨rfl, rfl⟩
    simp only [hi, hfst, Option.elim_some]
  · exact inTurn_foldl (Q := fun t => t.epochAt h.c.wk = some h.c.warp.epoch)
      (fun t ht k hk => wk_of_lane hk ▸ overspent_of_epochAt ht (epoch_lt he)) (fun t k _ _ => ⟨rfl, rfl⟩)
      (fun t k _ ht => by simpa using ht) (epochAt_here hat)

theorem exec_evf (hat : s.here h) (hwh : h.whole) (hne : h.lanes g ≠ [])
    (hq : s.partyQuiet h.c.pos.core (partyOf h.c.warp h.a.arm) = true) :
    exec (.evf g) s = .next ((s.post h.c.pos.ctx
      { src := clusterSrc h.c.pos.core, kind := 10, party := s.partyBits (partyOf h.c.warp h.a.arm) }).done h [] []) := by
  refine congrArg _ (runArms_here hat rfl (fun _ => hwh) ?_)
  obtain ⟨k, ks, hk⟩ := List.exists_cons_of_ne_nil hne
  obtain ⟨hwarp, hpos, -, harm⟩ := lanes_warp (g := g) (k := k) (by rw [hk]; exact List.mem_cons_self)
  rw [State.acquires, takesBatons_none batonsOf_nil]
  simp only [hk, hwarp, hpos, harm, hq, if_true]
  rfl

/-- The state after a thread returns from its handler. -/
def State.returned (s : State) (wk : WKey) (sc : StageCode) (next : Bool) (k : RCtx) : State :=
  let s1 := s.modLanes wk [k.lane] (·.trapReturn sc next)
  if next then s1.passUses wk (fun u => k.thread.any fun t =>
    u.hdr == t.tpc.toNat && u.idx == (t.tstate.extractLsb' 8 4).toNat) [k.lane] else s1

@[simp] theorem epochAt_returned (s : State) (wk : WKey) (sc : StageCode) (next : Bool) (k : RCtx) (wk' : WKey) :
    (s.returned wk sc next k).epochAt wk' = s.epochAt wk' := by
  cases next <;> simp [State.returned]

theorem codeOfLane_passUses (s : State) (wk : WKey) (p : TileUse → Bool) (lanes : List Nat) (k : RCtx) :
    (s.passUses wk p lanes).codeOfLane k = s.codeOfLane k := by
  unfold State.passUses
  split
  · rfl
  · split
    · rfl
    · exact foldl_unseen (State.codeOfLane · k) (f := fun s (u : TileUse) => s.dropTile wk.pos u.acc u.prev) (fun _ _ => rfl) _ _

theorem codeOfLane_returned (s : State) (wk : WKey) (sc : StageCode) (next : Bool) (k l : RCtx) :
    (s.returned wk sc next k).codeOfLane l = s.codeOfLane l := by
  cases next
  · rfl
  · exact codeOfLane_passUses ..

theorem exec_tret {next : Bool} {sc : StageCode} (hat : s.here h) (hwh : h.whole) (he : h.epochs)
    (hsc : s.codeOfLane h.c = some sc) (hin : ∀ k ∈ h.threads g, ∀ t, k.thread = some t → t.inHandler = true) :
    exec (.tret next g) s = .next (((h.threads g).foldl (fun s k => s.returned h.c.wk sc next k) s).leftThreads h
      ((h.threads g).map fun k => (k.lane, {}))) := by
  refine congrArg _ (runArms_threads hat rfl rfl rfl (fun _ => hwh) ?_)
  refine perLane_turn (x := fun _ => ()) (P := fun t k o u => k ∈ h.threads g ∧ t.codeOfLane h.c = some sc ∧ o = {} ∧
    u = t.returned h.c.wk sc next k) ?_ ?_ ?_
  · intro k hk
    cases ht : k.thread with
    | none => rfl
    | some t => exact if_pos (hin k hk t ht)
  · rintro t k o u ⟨hk, ht, rfl, rfl⟩
    have hcode : t.codeOfLane k = some sc := by
      rw [← ht, State.codeOfLane, (threads_warp hk).2.1, (threads_warp hk).2.2.1]
      rfl
    simp only [hcode, wk_of_thread hk]
    rfl
  · exact inTurn_foldl (Q := fun t => t.codeOfLane h.c = some sc ∧ t.epochAt h.c.wk = some h.c.warp.epoch)
      (fun t ht k hk => wk_of_thread hk ▸ overspent_of_epochAt ht.2 (epoch_lt he)) (fun t k hk ht => ⟨hk, ht.1, rfl, rfl⟩)
      (fun t k _ ht => ⟨(codeOfLane_returned ..).trans ht.1, (epochAt_returned ..).trans ht.2⟩) ⟨hsc, epochAt_here hat⟩

end

/-- Settles O14: system registers, event markers and returns, lane by lane. -/
theorem systemRegisters : Obligations.SystemRegisters := by
  intro s h g hat
  exact ⟨fun d n v hne hw hv hz => exec_sysr hat hne hw hv hz, fun a n i r ha hi hw he hsame => exec_sysw hat ha hi hw he hsame,
    fun hwh hne hq => exec_evf hat hwh hne hq, fun next sc hwh he hsc hin => exec_tret hat hwh he hsc hin⟩

end Sys2Proof.Machine

/-! PROOF. Loads, stores and atomics (R222, R223). -/

namespace Sys2Proof.Machine

section
variable {s : State} {h : Here} {g : Guard} {m : MemOp} {k : RCtx} {a : Acc} {v : Viewer} {hs : BitVec 4} {i o : Src}

/-! ### One lane's access -/

/-- An access within bounds. -/
theorem memLane_ok {l : Loc} (hv : s.viewer k.wk k.arm = some v)
    (hl : s.reach v k.pos k.block (s.stashLimit k) (m.req s k a) m.kind = .ok l) :
    s.memLane m k a = ((m.perform s v k a l).1, none, (m.perform s v k a l).2) := by
  simp only [State.memLane, hv, hl]

/-- An access out of bounds under OOB = 1. -/
theorem memLane_oob (hv : s.viewer k.wk k.arm = some v)
    (hl : s.reach v k.pos k.block (s.stashLimit k) (m.req s k a) m.kind = .oob) :
    s.memLane m k a = ((m.oob s v k a).1, none, (m.oob s v k a).2) := by
  simp only [State.memLane, hv, hl]

/-! ### Operands -/

theorem rdAcc_ok {vals : List TV} {r : BitVec 128} {x y : Nat} (hr : handleOf k hs = .ok r) (hx : rdNat k 2 i = .ok x)
    (hy : rdNat k 3 o = .ok y) : rdAcc k hs i o vals = .ok ⟨r, x, y, vals⟩ := by
  simp only [rdAcc, hr, hx, hy, LaneStep.bind, LaneStep.map]

/-- The operands of an access that writes its destination. -/
theorem read_writable {d : Dst} {r : LaneStep Acc} (hr : r = .ok a) (hw : wrOk k (fileDst d) = .ok ()) :
    (r.bind fun a => (wrOk k (fileDst d)).map fun _ => a) = .ok a := by
  rw [hr]
  simp only [LaneStep.bind, hw, LaneStep.map]

/-! ### `ld` and `st` -/

theorem turns_ld {f : Fmt} {d : Dst} {r : RCtx → BitVec 128} {x y : RCtx → Nat} {P : State → RCtx → LaneOut → State → Prop}
    (hat : s.here h) (hr : ∀ k ∈ h.lanes g, handleOf k hs = .ok (r k) ∧ rdNat k 2 i = .ok (x k) ∧ rdNat k 3 o = .ok (y k))
    (hw : h.Writable g (fileDst d) [])
    (hP : ∀ s k u out, P s k u out → s.memLane (ldOp f g d hs i o) k ⟨r k, x k, y k, []⟩ = (.out u, none, out)) :
    s.Turns h g [d.spec] [i.spec, o.spec] (.ld f g d hs i o) P :=
  turns_of hat (fun _ _ _ ht => memArm_turn (m := ldOp f g d hs i o) (fun k hk =>
    read_writable (rdAcc_ok (hr k hk).1 (hr k hk).2.1 (hr k hk).2.2) (hw k hk)) hP ht) rfl

theorem turns_st {f : Fmt} {vs : Spec} {r : RCtx → BitVec 128} {x y : RCtx → Nat} {rv : RCtx → RV} {val : RCtx → Word}
    {P : State → RCtx → LaneOut → State → Prop} (hat : s.here h)
    (hr : ∀ k ∈ h.lanes g, handleOf k hs = .ok (r k) ∧ rdNat k 2 i = .ok (x k) ∧ rdNat k 3 o = .ok (y k))
    (hv : ∀ k ∈ h.lanes g, rd k 0 ⟨vs, false, false⟩ = .ok (rv k) ∧ (rv k).widen f = .ok (val k))
    (hP : ∀ s k u out, P s k u out → s.memLane (stOp f g vs hs i o) k ⟨r k, x k, y k, [⟨val k, f⟩]⟩ = (.out u, none, out)) :
    s.Turns h g [] [vs, i.spec, o.spec] (.st f g vs hs i o) P := by
  refine turns_of hat (fun _ _ _ ht => memArm_turn (m := stOp f g vs hs i o) (fun k hk => ?_) hP ht) rfl
  simp only [stOp, (hv k hk).1, (hv k hk).2, rdAcc_ok (hr k hk).1 (hr k hk).2.1 (hr k hk).2.2, LaneStep.bind]

/-! ### `atom` and `red` -/

theorem rdAtom_ok {op : AtomOp} {vs : Src} {vals : List TV} {r : BitVec 128} {x : Nat} (hr : handleOf k hs = .ok r)
    (hx : rdNat k 2 i = .ok x) (hv : rdOperand k op vs = .ok vals) : rdAtom k op hs i vs = .ok ⟨r, x, 0, vals⟩ := by
  simp only [rdAtom, hr, hx, hv, LaneStep.bind, LaneStep.map]

end

/-- Settles O15: a load and a store act lane by lane, each where its request reaches. -/
theorem loadsAndStores : Obligations.LoadsAndStores := by
  intro s h g f hs i o r x y hat hr req
  refine ⟨fun d hw => turns_ld hat hr hw ?_, fun vs rv val hv => turns_st hat hr hv ?_⟩
  · rintro s k out u ⟨v, bs, s1, hvw, rfl, rfl, hm⟩
    split at hm
    next l hl =>
      rw [memLane_ok (m := ldOp f g d hs i o) (a := ⟨r k, x k, y k, []⟩) hvw hl]
      simp only [ldOp, hm]
      rfl
    next hl =>
      obtain ⟨rfl, rfl⟩ := hm
      exact memLane_oob (m := ldOp f g d hs i o) (a := ⟨r k, x k, y k, []⟩) hvw hl
    next => exact hm.elim
  · rintro s k out u ⟨v, hvw, rfl, hm⟩
    split at hm
    next l hl =>
      rw [hm]
      exact memLane_ok (m := stOp f g vs hs i o) (a := ⟨r k, x k, y k, [⟨val k, f⟩]⟩) hvw hl
    next hl =>
      rw [hm]
      exact memLane_oob (m := stOp f g vs hs i o) (a := ⟨r k, x k, y k, [⟨val k, f⟩]⟩) hvw hl
    next => exact hm.elim

/-! ### Bytes written and read back -/

theorem memRead_eq_map (m : List Host.Cell) (a n : Nat) : memRead m a n = (List.range n).map fun i => memGet m (a + i) := by
  induction n generalizing a with
  | zero => rfl
  | succ n ih =>
    rw [memRead, ih, List.range_succ_eq_map, List.map_cons, List.map_map]
    exact congrArg _ (List.map_congr_left fun i _ => by simp only [Function.comp_apply]; congr 1; omega)

theorem memGet_memWrite (bs : List Byte) (m : List Host.Cell) (b a : Nat) :
    memGet (memWrite m b bs) a = if b ≤ a ∧ a < b + bs.length then (bs[a - b]?).getD 0 else memGet m a := by
  induction bs generalizing m b with
  | nil => exact (if_neg (by simp only [List.length_nil]; omega)).symm
  | cons x bs ih =>
    rw [memWrite, ih, List.length_cons]
    by_cases hb : a = b
    · rw [hb, if_neg (by omega), if_pos (by omega), memGet_memSet_same, Nat.sub_self, List.getElem?_cons_zero, Option.getD_some]
    · rw [memGet_memSet_other _ hb]
      by_cases hin : b + 1 ≤ a ∧ a < b + 1 + bs.length
      · rw [if_pos hin, if_pos (by omega), show a - b = (a - (b + 1)) + 1 by omega, List.getElem?_cons_succ]
      · rw [if_neg hin, if_neg (by omega)]

theorem memRead_memWrite (m : List Host.Cell) (b : Nat) (bs : List Byte) : memRead (memWrite m b bs) b bs.length = bs := by
  rw [memRead_eq_map]
  refine List.ext_getElem (by simp) fun i _ hi => ?_
  simp only [List.getElem_map, List.getElem_range, memGet_memWrite, Nat.add_sub_cancel_left]
  rw [if_pos (by omega), List.getElem?_eq_getElem hi, Option.getD_some]

/-! ### A write to the stash outside every window -/

section
variable {s : State} {v : Viewer} {p : Position} {b : Nat} {bs : List Byte}

/-- The position after bytes of its stash have been written. -/
def Position.written (p : Position) (id : Nat) (v : Viewer) (b : Nat) (bs : List Byte) : Position :=
  { p with
    stash := memWrite p.stash b bs
    unfenced := p.unfenced ++ (memRead p.stash b bs.length).zipIdx.map fun (x : Byte × Nat) =>
      (⟨id, v.party, v.epoch, b + x.2, x.1, false⟩ : Unfenced) }

theorem writeStash_posOf (hp : s.posOf p.id = some p) (hw : p.windowAt b = none) :
    (s.writeStash v p.id b bs).posOf p.id = some (p.written s.fresh.1 v b bs) := by
  have hfresh : s.fresh.2.posOf p.id = some p := hp
  have hwr : (p.written s.fresh.1 v b bs).windowAt b = none := hw
  simp only [State.writeStash, hfresh, State.snoopOthers, hw]
  rw [State.posOf_modPos, hfresh, Option.map_some]
  · exact congrArg some (by rw [Position.written] at hwr ⊢; simp only [hwr])
  · intro q
    split <;> rfl

theorem writeStash_posOf_ne (hp : s.posOf p.id = some p) (hw : p.windowAt b = none) {q : Nat} (hq : q ≠ p.id) :
    (s.writeStash v p.id b bs).posOf q = s.posOf q := by
  have hfresh : s.fresh.2.posOf p.id = some p := hp
  simp only [State.writeStash, hfresh, State.snoopOthers, hw]
  rw [State.posOf_modPos_ne _ _ _ hq]
  · rfl
  · intro q
    split <;> rfl

theorem writeStash_mem_pend (hp : s.posOf p.id = some p) (hw : p.windowAt b = none) :
    (s.writeStash v p.id b bs).c.mem = s.c.mem ∧ (s.writeStash v p.id b bs).c.pend = s.c.pend := by
  have hfresh : s.fresh.2.posOf p.id = some p := hp
  simp only [State.writeStash, hfresh, State.snoopOthers, hw]
  exact ⟨rfl, rfl⟩

end

/-! ### `atom` and `red` -/

section
variable {s : State} {h : Here} {g : Guard} {hs : BitVec 4} {i vs : Src} {op : AtomOp} {sys : Bool} {r : RCtx → BitVec 128}
  {x : RCtx → Nat} {vals : RCtx → List TV} {P : State → RCtx → LaneOut → State → Prop}

/-- Waiting batons that are taken change no grid. -/
theorem det_takesBatons (wk : WKey) (arm : Nat) (cs : List RCtx) (l : List Spec) (p : Position) :
    (s.takesBatons wk arm cs l).det? p = s.det? p := by
  unfold State.takesBatons
  dsimp only
  split
  · rfl
  · split <;> rfl

/-- The executing lanes are all of one grid, deterministic or not. -/
theorem detArm_lanes {f : Bool → ArmFn} {s0 : State} (hs : s0.det? h.c.pos = s.det? h.c.pos) (hne : h.lanes g ≠ []) :
    detArm f s0 (h.lanes g) = f (s.det? h.c.pos) s0 (h.lanes g) := by
  have hany : ((h.lanes g).any fun c => s0.det? c.pos) = s.det? h.c.pos := by
    cases hd : s.det? h.c.pos with
    | false => exact List.any_eq_false.2 fun k hk => by rw [(lanes_warp hk).2.1, hs, hd]; simp
    | true =>
      obtain ⟨k, hk⟩ := List.exists_mem_of_ne_nil _ hne
      exact List.any_eq_true.2 ⟨k, hk, by rw [(lanes_warp hk).2.1, hs, hd]⟩
  rw [detArm, hany]

theorem turns_atom {d : Dst} (hat : s.here h) (he : h.epochs)
    (hr : ∀ k ∈ h.lanes g, handleOf k hs = .ok (r k) ∧ rdNat k 2 i = .ok (x k) ∧ rdOperand k op vs = .ok (vals k))
    (hw : h.Writable g (fileDst d) [])
    (hP : ∀ t k u out, P t k u out →
      t.memLane (atomOp op sys g d hs i vs (s.det? h.c.pos)) k ⟨r k, x k, 0, vals k⟩ = (.out u, none, out)) :
    s.Turns h g [d.spec] [i.spec, vs.spec] (.atom op sys g d hs i vs) P := by
  intro os t ht
  refine congrArg _ (runArms_here hat rfl (by simp) ?_)
  rw [epochGuard_ok he]
  by_cases hne : h.lanes g = []
  · simp only [hne, State.InTurn] at ht ⊢
    obtain ⟨rfl, rfl⟩ := ht
    rfl
  · refine (detArm_lanes (det_takesBatons ..) hne).trans ?_
    exact memArm_turn (fun k hk => read_writable (rdAtom_ok (hr k hk).1 (hr k hk).2.1 (hr k hk).2.2) (hw k hk)) hP ht

theorem turns_red (hat : s.here h) (he : h.epochs)
    (hr : ∀ k ∈ h.lanes g, handleOf k hs = .ok (r k) ∧ rdNat k 2 i = .ok (x k) ∧ rdOperand k op vs = .ok (vals k))
    (hP : ∀ t k u out, P t k u out → t.memLane (redOp op sys g hs i vs) k ⟨r k, x k, 0, vals k⟩ = (.out u, none, out)) :
    s.Turns h g [] [i.spec, vs.spec] (.red op sys g hs i vs) P := by
  refine turns_of hat (fun os s0 t ht => (epochGuard_ok he).trans ?_) rfl
  exact memArm_turn (m := redOp op sys g hs i vs) (fun k hk => rdAtom_ok (hr k hk).1 (hr k hk).2.1 (hr k hk).2.2) hP ht

end

/-- Settles O16: an atomic acts lane by lane where its request reaches; on the stash it is one read and one write. -/
theorem atomics : Obligations.Atomics := by
  refine ⟨?_, ?_⟩
  · intro s h g op sys hs i vs r x vals hat he hr acc val
    refine ⟨fun d hw => turns_atom hat he hr hw ?_, turns_red hat he hr ?_⟩
    · rintro t k out u ⟨v, old, fl, s1, hvw, rfl, rfl, hm⟩
      split at hm
      next l hl =>
        have hm' : t.atomAt v k.arm k.pos (acc k).r l (atomKind (s.det? h.c.pos) sys op) op sys (valOf (acc k) 0) (valOf (acc k) 1)
          = (old, fl, s1) := hm
        rw [memLane_ok (m := atomOp op sys g d hs i vs (s.det? h.c.pos)) (a := acc k) hvw hl]
        simp only [atomOp, hm']
        rfl
      next hl =>
        obtain ⟨rfl, rfl, rfl⟩ := hm
        exact memLane_oob (m := atomOp op sys g d hs i vs (s.det? h.c.pos)) (a := acc k) hvw hl
      next => exact hm.elim
    · rintro t k out u ⟨v, fl, hvw, rfl, hm⟩
      split at hm
      next l hl =>
        have hm' : t.redAt v k.arm k.pos (acc k).r l (.red sys op) op sys (valOf (acc k) 0) = (fl, u) := hm
        rw [memLane_ok (m := redOp op sys g hs i vs) (a := acc k) hvw hl]
        simp only [redOp, hm']
      next hl =>
        obtain ⟨rfl, rfl⟩ := hm
        exact memLane_oob (m := redOp op sys g hs i vs) (a := acc k) hvw hl
      next => exact hm.elim
  · intro s t v p b op sys x y old fl hp hw ha
    have hold : wordOf (((s.posOf p.id).map fun q => memRead q.stash b 4).getD []) = BitVec.ofNat 32 (leNat (memRead p.stash b 4)) := by
      rw [hp]
      rfl
    simp only [State.atomWord, hold, Prod.mk.injEq] at ha
    obtain ⟨rfl, rfl, rfl⟩ := ha
    obtain ⟨hmem, hpend⟩ := writeStash_mem_pend (v := v) (bs := bytesOf (atomStep op (BitVec.ofNat 32 (leNat (memRead p.stash b 4))) x y).1) hp hw
    refine ⟨rfl, rfl, hmem, hpend, _, writeStash_posOf hp hw, ?_, fun a ha => ?_⟩
    · exact memRead_memWrite p.stash b (bytesOf _)
    · rw [Position.written, memGet_memWrite, if_neg]
      simp only [bytesOf, leBytes_length]
      omega

end Sys2Proof.Machine

/-! PROOF. Bytes in memory: a store of no bytes (R244 to R246). -/

namespace Sys2Proof.Machine

/-! ### Writes of the device when nothing is pending -/

section
variable {s : State}

theorem settle_of_pend_nil (h : s.c.pend = []) (pa n : Nat) : s.settle pa n = s := by
  have hreds : s.performReds (·.overlaps pa n) = s := by simp [State.performReds, h]
  have hc : (s.c.exposeAll (·.overlaps pa n) 4).retire = s.c := by
    rw [Compute.exposeAll, h]
    show ({ s.c with pend := (retireList [] s.c.pend s.c.mem).1, mem := (retireList [] s.c.pend s.c.mem).2 } : Compute) = s.c
    rw [h, retireList, ← h]
  simp only [State.settle, hreds, State.modC, hc]

theorem devWrite_of_pend_nil (h : s.c.pend = []) (pa : Nat) (bs : List Byte) :
    (s.devWrite pa bs).c.mem = memWrite s.c.mem pa bs ∧ (s.devWrite pa bs).c.pend = [] := by
  rw [State.devWrite, settle_of_pend_nil h]
  exact ⟨rfl, h⟩

/-- An empty write at a line that has no readable key draws the line's bytes, the first of them first. -/
theorem loseRest_empty {line : Nat} (hk : s.keyRead (64 * line) = false) (h : s.c.pend = []) :
    memGet (s.loseRest line (64 * line) 0).c.mem (64 * line) = Config.freeByte s.free := by
  have hstep : ∀ (u : State) (i : Nat), u.c.pend = [] →
      (u.drawByte.2.devWrite (64 * line + i) [Config.freeByte u.free]).c.mem
        = memSet u.c.mem (64 * line + i) (Config.freeByte u.free) ∧
      (u.drawByte.2.devWrite (64 * line + i) [Config.freeByte u.free]).c.pend = [] := fun u i hu =>
    devWrite_of_pend_nil (s := u.drawByte.2) hu _ _
  have hrest : ∀ (l : List Nat) (u : State), u.c.pend = [] →
      memGet ((l.foldl (fun s i => s.drawByte.2.devWrite (64 * line + (i + 1)) [Config.freeByte s.free]) u).c.mem) (64 * line)
        = memGet u.c.mem (64 * line) := by
    intro l
    induction l with
    | nil => exact fun u _ => rfl
    | cons i l ih =>
      intro u hu
      obtain ⟨hm, hp⟩ := hstep u (i + 1) hu
      rw [List.foldl_cons, ih _ hp, hm, memGet_memSet_other _ (by omega)]
  obtain ⟨hm, hp⟩ := hstep s 0 h
  have hno : ∀ i, (decide (64 * line ≤ 64 * line + i) && decide (64 * line + i < 64 * line + 0)) = false := by
    intro i
    simp
  have hlist : List.range 64 = 0 :: (List.range 63).map (· + 1) := List.range_succ_eq_map
  have hlose : s.loseRest line (64 * line) 0 = (List.range 63).foldl
      (fun s i => s.drawByte.2.devWrite (64 * line + (i + 1)) [Config.freeByte s.free])
      (s.drawByte.2.devWrite (64 * line + 0) [Config.freeByte s.free]) := by
    unfold State.loseRest
    rw [hk, if_neg Bool.false_ne_true, hlist, List.foldl_cons, List.foldl_map]
    simp only [hno, Bool.false_eq_true, if_false]
    rfl
  rw [hlose, hrest _ _ hp, hm]
  exact memGet_memSet_same _ _ _

/-- A store of no bytes at a line's first place, whose domain has an Active key, still stamps that line. -/
theorem writeLoc_empty {v : Viewer} {p : Position} {obj off pa line slot : Nat}
    (ht : ((s.ctxOf p.ctx).bind (·.objOf obj)).bind (·.translate off true) = some pa) (hm : s.linesMet p.ctx obj off 0 = [])
    (hp : s.c.pend = []) (hk : (s.padOf (s.padOfCtx p.ctx)).bind (·.activeKey (domainOf pa)) = some slot) (hpa : pa = 64 * line)
    (hline : 0 < line) :
    (s.writeLoc v p (.glob obj off) []).c.mem = (s.fresh.2.loseRest line pa 0).c.mem := by
  have hsnoop : s.snoop p.ctx obj off 0 true = s := by rw [State.snoop, hm]; rfl
  have hreds : ∀ q, s.performReds q = s := fun q => by simp [State.performReds, hp]
  have hlines : (List.range ((pa + 0 - 1) / 64 - pa / 64 + 1)).map (pa / 64 + ·) = [line] := by
    rw [show (pa + 0 - 1) / 64 - pa / 64 = 0 by omega, show pa / 64 = line by omega]
    rfl
  have hk' : (s.fresh.2.padOf (s.padOfCtx p.ctx)).bind (·.activeKey (domainOf pa)) = some slot := hk
  simp only [State.writeLoc, ht, List.length_nil, hsnoop, hreds, State.stampKey, hk', hlines, List.foldl_cons, List.foldl_nil]
  rfl

end

/-! ### An empty store -/

/-- The object of the counterexample: one page, writable, at 2^20. -/
def emptyStoreObj : Obj := ⟨5, false, true, false, 0, [⟨0, true, true, 0, 1, 16⟩], 65536⟩

/-- Nothing is pending; the line at 2^20 lies under a Revoked key, and its first byte is not the next byte drawn. -/
def emptyStoreState : State :=
  { State.reset with
    c := { State.reset.c with mem := [(2 ^ 20, Config.freeByte 0 + 1)], lineKey := [(2 ^ 14, 0, 3)] }
    t := { State.reset.t with ctxs := [{ Ctx.create 0 0 .live with objs := [emptyStoreObj] }] }
    m := { State.reset.m with paddocks := [{ probePaddock with keys := [⟨.active, 0, 1⟩, ⟨.active, 1, 1⟩, ⟨.active, 2, 1⟩, ⟨.revoked, 0, 1⟩] }] } }

def emptyStorePos : Position :=
  { id := 1, ctx := 0, grid := 0, inst := 0, loc := 0, st := .resident, core := 0, blocks := [], units := 0, lent := 0, drawn := 0,
    limit := 0, claims := [], stashBase := 0, stashSize := 0, stash := [], unfenced := [], tags := [], loft := [], acc := [],
    rings := [], wins := [], past := [] }

def emptyStoreViewer : Viewer := ⟨⟨0, 0, 0⟩, 0, [], 0, 0, ⟨1, 0, 0⟩, 0, false⟩

/-- The store of no bytes at offset 0 of the object replaces the line under the Revoked key. -/
theorem emptyStore_mem :
    memGet (emptyStoreState.writeLoc emptyStoreViewer emptyStorePos (.glob 5 0) []).c.mem (2 ^ 20) = Config.freeByte 0 :=
  by
  have hw : (emptyStoreState.writeLoc emptyStoreViewer emptyStorePos (.glob 5 0) []).c.mem
      = (emptyStoreState.fresh.2.loseRest (2 ^ 14) (2 ^ 20) 0).c.mem :=
    writeLoc_empty (slot := 0) (by decide) (by decide) rfl (by decide) (by norm_num) (by norm_num)
  have hline : (2 ^ 20 : Nat) = 64 * 2 ^ 14 := by norm_num
  have hread : emptyStoreState.fresh.2.keyRead (64 * 2 ^ 14) = false := by decide
  have hpend : emptyStoreState.fresh.2.c.pend = [] := rfl
  have hfree : emptyStoreState.fresh.2.free = 0 := rfl
  rw [hw, hline, loseRest_empty hread hpend, hfree]

/-- Refutes O17: its first clause speaks of a store of any length, also of none. At an aligned place such a store overlaps no line
that the clause's hypothesis on keys covers, and yet it stamps the line there, which under a Revoked key loses all its bytes. -/
theorem not_memoryBytes : ¬ Obligations.MemoryBytes := by
  intro h
  obtain ⟨hmem, -, -⟩ := h.1 emptyStoreState emptyStoreViewer emptyStorePos 5 0 (2 ^ 20) [] (by decide) (by decide)
    (List.forall_mem_nil _) (fun l h1 h2 => by simp only [List.length_nil] at h2; omega)
  have hbyte := emptyStore_mem
  rw [hmem] at hbyte
  have hne : Config.freeByte 0 + 1 ≠ Config.freeByte 0 := by bv_omega
  exact hne hbyte

end Sys2Proof.Machine

/-! PROOF. Handle loads, fences and hints (R199, R206, R221, R224, R225). -/

namespace Sys2Proof.Machine

section
variable {s : State} {h : Here} {g : Guard} {hs : BitVec 4} {i o : Src} {r : RCtx → BitVec 128} {x y : RCtx → Nat} {d : Dst}
  {k : RCtx} {rest : List RCtx} {v : Viewer}

/-! ### Fences -/

theorem exec_fence (hat : s.here h) (hk : h.lanes g = k :: rest) (hv : s.viewer k.wk k.arm = some v) (sc : BitVec 2) :
    exec (.fence sc g) s = .next ((s.fenceBy v sc.toNat).done h [] []) := by
  refine congrArg _ (runArms_here hat rfl (by simp) ?_)
  rw [State.acquires, takesBatons_none batonsOf_nil]
  simp only [hk, hv]
  rfl

theorem exec_mfence (hat : s.here h) (hk : h.lanes g = k :: rest) (hv : s.viewer k.wk k.arm = some v) (hl : s.loading v = false) :
    exec (.mfence g) s = .next ((s.mfenceBy v (actors (h.lanes g))).done h [] []) := by
  refine congrArg _ (runArms_here hat rfl (by simp) ?_)
  rw [State.acquires, takesBatons_none batonsOf_nil]
  simp only [hk, hv, hl, Bool.false_eq_true, if_false]
  rfl

/-! ### Hints -/

/-- A dropped hint is counted, up to the largest word. -/
theorem Ctx.dropHint_eq (c : Ctx) :
    c.dropHint = { c with hintdrop := BitVec.ofNat 32 (min (c.hintdrop.toNat + 1) (2 ^ 32 - 1)) } := by
  have hlt := c.hintdrop.isLt
  rw [Ctx.dropHint]
  congr 1
  split
  next he =>
    rw [he]
    rfl
  next hne =>
    have hmax : c.hintdrop.toNat ≠ 0xFFFFFFFF := fun he => hne (BitVec.eq_of_toNat_eq (by rw [he]; rfl))
    apply BitVec.eq_of_toNat_eq
    rw [BitVec.toNat_ofNat, BitVec.toNat_add, Nat.min_eq_left (by omega)]
    rfl

/-- The operands of a hint: a handle and two numbers. -/
theorem hintRead_ok {n : Src} {r : BitVec 128} {x y : Nat} (hr : handleOf k hs = .ok r ∧ rdNat k 2 i = .ok x ∧ rdNat k 3 n = .ok y) :
    ((handleOf k hs).bind fun r => (rdNat k 2 i).bind fun x => (rdNat k 3 n).map fun y => (r, x, y)) = .ok (r, x, y) := by
  obtain ⟨h1, h2, h3⟩ := hr
  simp only [h1, h2, h3, LaneStep.bind, LaneStep.map]

/-- What a hint for a line does: it is dropped, or asks for a line of a window that is not there. -/
def pfhNext (s : State) (k : RCtx) (r : BitVec 128) (x y : Nat) : State :=
  if (s.checkRec k.pos.ctx r 0 false).isSome || !(recInBounds r x y 1 && s.hintBytes k r (recAddr r x y) 1) then
    s.modCtx k.pos.ctx (·.dropHint)
  else if recStash r then
    (match k.pos.windowAt (recAddr r x y) with
      | some (_, w) => if (w.st (w.lineOf (recAddr r x y))).isSome then s else s.wantLine k.pos (recAddr r x y) k.party false
      | none => s)
  else s

/-- A hint names a line it may name. -/
theorem pfhNext_good {r : BitVec 128} {x y : Nat} (hgood : ((s.checkRec k.pos.ctx r 0 false).isNone && recInBounds r x y 1 &&
    s.hintBytes k r (recAddr r x y) 1) = true) :
    pfhNext s k r x y = if recStash r then
      (match k.pos.windowAt (recAddr r x y) with
        | some (_, w) => if (w.st (w.lineOf (recAddr r x y))).isSome then s else s.wantLine k.pos (recAddr r x y) k.party false
        | none => s)
      else s := by
  simp only [Bool.and_eq_true, Option.isNone_iff_eq_none] at hgood
  obtain ⟨⟨hc, hb⟩, hh⟩ := hgood
  rw [pfhNext, hc, hb, hh]
  rfl

theorem pfhNext_bad {r : BitVec 128} {x y : Nat} (hbad : ((s.checkRec k.pos.ctx r 0 false).isNone && recInBounds r x y 1 &&
    s.hintBytes k r (recAddr r x y) 1) = false) : pfhNext s k r x y = s.modCtx k.pos.ctx (·.dropHint) := by
  rw [Bool.and_assoc, ← Option.not_isSome, ← Bool.not_eq_true', Bool.not_and, Bool.not_not] at hbad
  exact if_pos hbad

theorem turns_pfh {l2 : Bool} {P : State → RCtx → LaneOut → State → Prop} (hat : s.here h)
    (hr : ∀ k ∈ h.lanes g, handleOf k hs = .ok (r k) ∧ rdNat k 2 i = .ok (x k) ∧ rdNat k 3 o = .ok (y k))
    (hP : ∀ s k out u, P s k out u → out = { frees := [i, o] } ∧ u = pfhNext s k (r k) (x k) (y k)) :
    s.Turns h g [] [] (.pfh l2 g hs i o) P := by
  refine turns_of hat (fun _ _ _ ht => perLane_turn (x := fun k => (r k, x k, y k)) (fun k hk => hintRead_ok (hr k hk)) ?_ ht) rfl
  intro s k out u hp
  obtain ⟨rfl, rfl⟩ := hP s k out u hp
  rfl

/-- What `res` does: it is dropped where a range it names is bad. -/
def resNext (s : State) (k : RCtx) (r : BitVec 128) (x y : Nat) : State :=
  if y != 0 && ((s.checkRec k.pos.ctx r 0 false).isSome || (List.range y).any fun e =>
      !(recInBounds r (x + e) 0 (recStride r) && s.hintBytes k r (recBase r + (x + e) * recStride r) (recStride r))) then
    s.modCtx k.pos.ctx (·.dropHint)
  else s

theorem resNext_eq {r : BitVec 128} {x y : Nat} :
    resNext s k r x y = if y = 0 ∨ ((s.checkRec k.pos.ctx r 0 false).isNone && (List.range y).all fun e =>
      recInBounds r (x + e) 0 (recStride r) && s.hintBytes k r (recBase r + (x + e) * recStride r) (recStride r)) = true then s
    else s.modCtx k.pos.ctx (·.dropHint) := by
  rw [resNext, ← List.not_all_eq_any_not, ← Option.not_isNone, ← Bool.not_and]
  by_cases hy : y = 0
  · rw [if_neg (by simp [hy]), if_pos (.inl hy)]
  · generalize ((s.checkRec k.pos.ctx r 0 false).isNone && (List.range y).all _) = good
    cases good <;> simp [hy]

theorem turns_res {kind : BitVec 2} {P : State → RCtx → LaneOut → State → Prop} (hat : s.here h)
    (hr : ∀ k ∈ h.lanes g, handleOf k hs = .ok (r k) ∧ rdNat k 2 i = .ok (x k) ∧ rdNat k 3 o = .ok (y k))
    (hP : ∀ s k out u, P s k out u → out = { frees := [i, o] } ∧ u = resNext s k (r k) (x k) (y k)) :
    s.Turns h g [] [] (.res kind g hs i o) P := by
  refine turns_of hat (fun _ _ _ ht => perLane_turn (x := fun k => (r k, x k, y k)) (fun k hk => hintRead_ok (hr k hk)) ?_ ht) rfl
  intro s k out u hp
  obtain ⟨rfl, rfl⟩ := hP s k out u hp
  rfl

/-! ### `ldh` -/

theorem dstFree_ok {n : Nat} (hb : k.warp.busy.contains n = false) : dstFree k n = .ok () := by
  simp only [dstFree, hb, Bool.false_eq_true, if_false]

/-- A record that every lane brings. -/
theorem settleRecord_const {α : Type} {n : Nat} {r : BitVec 128} {c : α} {l : List α} (hb : badRecord n r = false) :
    settleRecord n ((c :: l).map fun _ => r) = .ok r := by
  have hany : (l.map fun _ => r).any (· != r) = false := by
    rw [List.any_eq_false]
    intro q hq
    simp [(List.mem_map.1 hq).choose_spec.2.symm]
  simp only [List.map_cons, settleRecord, hany, hb, Bool.false_eq_true, if_false]

theorem exec_ldh_quad {q : Src} {r : BitVec 128} (hat : s.here h) (hwh : h.whole) (hk : h.lanes g = k :: rest)
    (hb : k.warp.busy.contains (handleNo d.spec) = false) (hr : ∀ l ∈ h.lanes g, rdQuad l 1 q = .ok r)
    (hbad : badRecord (handleNo d.spec) r = false) :
    exec (.ldh g d (.quad q)) s = .next ((s.modWarp k.wk (·.putHandle (handleNo d.spec) r)).done h []
      (h.each g { frees := srcRun q 4 })) := by
  have hwarp : ∀ l ∈ h.lanes g, l.warp = k.warp := fun l hl => by
    rw [(lanes_warp hl).1, (lanes_warp (h := h) (g := g) (k := k) (by simp [hk])).1]
  refine congrArg _ (runArms_here hat rfl (fun _ => hwh) ?_)
  show ldhReg d q _ (h.lanes g) = _
  rw [ldhReg, gather_ok (v := fun _ => r)]
  · have hset := settleRecord_const (c := k) (l := rest) hbad
    simp only [hk, List.map_map, Function.comp_def, hset]
    simp only [List.map_cons, ArmOut.ofLanes, Here.each, hk, trapEnds, List.map_nil, List.nil_append, List.map_map]
    rfl
  · intro l hl
    rw [hr l hl]
    simp only [LaneStep.bind, LaneStep.map, dstFree_ok (hwarp l hl ▸ hb)]

theorem exec_ldh_mem {a : Acc} {bs : List Byte} {s1 : State} {l : Loc} (hat : s.here h) (hwh : h.whole) (hk : h.lanes g = [k])
    (hb : k.warp.busy.contains (handleNo d.spec) = false) (ha : rdAcc k hs i o [] = .ok a)
    (hv : (s.acquires h g [i.spec, o.spec]).viewer k.wk k.arm = some v)
    (hl : (s.acquires h g [i.spec, o.spec]).reach v k.pos k.block ((s.acquires h g [i.spec, o.spec]).stashLimit k) (ldhReq a) .read = .ok l)
    (hld : (s.acquires h g [i.spec, o.spec]).loadAt v k.pos a.r l 16 = (bs, s1))
    (hbad : badRecord (handleNo d.spec) (BitVec.ofNat 128 (leNat bs)) = false) :
    exec (.ldh g d (.mem hs i o)) s = .next ((s1.addHFill k.pos.core k.wk (handleNo d.spec)
      (BitVec.ofNat 128 (leNat bs)) k.party).done h [] (h.each g { frees := [i, o] }) [i.spec, o.spec]) := by
  refine congrArg _ (runArms_here hat rfl (fun _ => hwh) ?_)
  show ldhMem g d hs i o _ (h.lanes g) = _
  have hbring : (s.acquires h g [i.spec, o.spec]).bring hs k a = (.bits (BitVec.ofNat 128 (leNat bs)), s1) := by
    simp only [State.bring, hv, hl, State.bringFrom, hld]
  have hset : settleRecord (handleNo d.spec) [BitVec.ofNat 128 (leNat bs)] = .ok (BitVec.ofNat 128 (leNat bs)) :=
    settleRecord_const (c := k) (l := []) hbad
  simp only [hk, ldhMem, gather, ha, LaneStep.bind, LaneStep.map, dstFree_ok hb, bringAll, List.foldl_cons, List.foldl_nil, hbring, List.filterMap_cons,
    List.filterMap_nil, List.head?_cons, List.nil_append, List.map_cons, List.map_nil, hset]
  simp only [ArmOut.ofLanes, Here.each, hk, List.map_cons, List.map_nil]
  rfl

end

/-- Settles O18: a fence acts for the arm's first lane, a hint lane by lane, and `ldh` for all lanes together. -/
theorem handleLoadsFencesHints : Obligations.HandleLoadsFencesHints := by
  refine ⟨fun s h g hat => ⟨fun v k rest hk hv => ⟨exec_fence hat hk hv, exec_mfence hat hk hv⟩, fun hs i o r x y hr =>
    ⟨fun l2 => turns_pfh hat hr ?_, fun kind => turns_res hat hr ?_⟩⟩, fun s h g d k rest hat hwh hk hb => ⟨fun q r hr hbad => ?_,
    fun hs i o a bs s1 v l hrest ha hv hl hld hbad => exec_ldh_mem hat hwh (hrest ▸ hk) hb ha hv hl hld hbad⟩⟩
  · rintro s k out u ⟨rfl, hdrop, hglob, hstash⟩
    refine ⟨rfl, ?_⟩
    by_cases hgood : ((s.checkRec k.pos.ctx (r k) 0 false).isNone && recInBounds (r k) (x k) (y k) 1 &&
        s.hintBytes k (r k) (recAddr (r k) (x k) (y k)) 1) = true
    · cases hst : recStash (r k) with
      | false => exact (hglob hgood hst).trans ((pfhNext_good hgood).trans (if_neg (by rw [hst]; simp))).symm
      | true => exact (hstash hgood hst).trans ((pfhNext_good hgood).trans (if_pos hst)).symm
    · rw [hdrop (Bool.not_eq_true _ ▸ hgood), pfhNext_bad (Bool.not_eq_true _ ▸ hgood)]
      simp only [Ctx.dropHint_eq]
  · rintro s k out u ⟨rfl, rfl⟩
    refine ⟨rfl, ?_⟩
    rw [resNext_eq]
    simp only [Ctx.dropHint_eq]
  · refine (exec_ldh_quad hat hwh hk hb hr hbad).trans ?_
    rfl

end Sys2Proof.Machine

/-! PROOF. What committing results leaves unchanged (R144), and register states, bypass and last use (R122 to R124). -/

namespace Sys2Proof.Machine

/-! ### What a change of one warp leaves alone -/

/-- A state `t` that follows `s`, in which `k` alone of the warps may be another, as `R` tells; where `A` holds the accumulators
of every position are the same. -/
structure Leaves (A : Prop) (k : WKey) (R : Warp → Warp → Prop) (s t : State) : Prop where
  mem : t.c.mem = s.c.mem
  pend : t.c.pend = s.c.pend
  ops : t.c.ops = s.c.ops
  sectors : t.c.sectors = s.c.sectors
  tables : t.t = s.t
  mgmt : t.m = s.m
  now : t.now = s.now
  agenda : t.agenda = s.agenda
  others : ∀ l, l ≠ k → t.warpOf l = s.warpOf l
  places : ∀ i p, s.posOf i = some p → ∃ q, t.posOf i = some q ∧ q.stash = p.stash ∧ q.tags = p.tags ∧ q.loft = p.loft ∧
    (A → q.acc = p.acc) ∧ q.rings = p.rings ∧ q.wins = p.wins ∧ q.core = p.core
  warp : ∀ w, s.warpOf k = some w → ∃ u, t.warpOf k = some u ∧ R w u

section
variable {A : Prop} {k : WKey} {R R' R'' : Warp → Warp → Prop} {s t u : State}

theorem Leaves.trans (h : Leaves A k R s t) (h' : Leaves A k R' t u) (hR : ∀ w v x, R w v → R' v x → R'' w x) :
    Leaves A k R'' s u where
  mem := h'.mem.trans h.mem
  pend := h'.pend.trans h.pend
  ops := h'.ops.trans h.ops
  sectors := h'.sectors.trans h.sectors
  tables := h'.tables.trans h.tables
  mgmt := h'.mgmt.trans h.mgmt
  now := h'.now.trans h.now
  agenda := h'.agenda.trans h.agenda
  others l hl := (h'.others l hl).trans (h.others l hl)
  places i p hp := by
    obtain ⟨q, hq, h1, h2, h3, h4, h5, h6, h7⟩ := h.places i p hp
    obtain ⟨r, hr, g1, g2, g3, g4, g5, g6, g7⟩ := h'.places i q hq
    exact ⟨r, hr, g1.trans h1, g2.trans h2, g3.trans h3, fun a => (g4 a).trans (h4 a), g5.trans h5, g6.trans h6, g7.trans h7⟩
  warp w hw := by
    obtain ⟨v, hv, h1⟩ := h.warp w hw
    obtain ⟨x, hx, h2⟩ := h'.warp v hv
    exact ⟨x, hx, hR w v x h1 h2⟩

theorem Leaves.mono (h : Leaves A k R s t) (hR : ∀ w v, R w v → R' w v) : Leaves A k R' s t :=
  { h with warp := fun w hw => (h.warp w hw).imp fun _ hu => ⟨hu.1, hR _ _ hu.2⟩ }

theorem Leaves.rfl (hR : ∀ w, R w w) : Leaves A k R s s where
  mem := Eq.refl _
  pend := Eq.refl _
  ops := Eq.refl _
  sectors := Eq.refl _
  tables := Eq.refl _
  mgmt := Eq.refl _
  now := Eq.refl _
  agenda := Eq.refl _
  others _ _ := Eq.refl _
  places _ p hp := ⟨p, hp, Eq.refl _, Eq.refl _, Eq.refl _, fun _ => Eq.refl _, Eq.refl _, Eq.refl _, Eq.refl _⟩
  warp w hw := ⟨w, hw, hR w⟩

/-- A position as `Leaves` sees it. -/
def Position.LikePlace (A : Prop) (p q : Position) : Prop :=
  q.stash = p.stash ∧ q.tags = p.tags ∧ q.loft = p.loft ∧ (A → q.acc = p.acc) ∧ q.rings = p.rings ∧ q.wins = p.wins ∧ q.core = p.core

theorem leaves_modC {f : Compute → Compute} (hpos : ∀ c, (f c).positions = c.positions := by intro _; rfl)
    (hmem : ∀ c, (f c).mem = c.mem ∧ (f c).pend = c.pend ∧ (f c).ops = c.ops ∧ (f c).sectors = c.sectors := by
      intro _; exact ⟨rfl, rfl, rfl, rfl⟩) (hR : ∀ w, R w w) : Leaves A k R s (s.modC f) := by
  have hp : ∀ i, (s.modC f).posOf i = s.posOf i := fun i => by simp only [State.posOf, State.modC, hpos]
  have hw : ∀ l, (s.modC f).warpOf l = s.warpOf l := fun l => by simp only [State.warpOf, hp]
  obtain ⟨h1, h2, h3, h4⟩ := hmem s.c
  exact
    { mem := h1, pend := h2, ops := h3, sectors := h4, tables := Eq.refl _, mgmt := Eq.refl _, now := Eq.refl _, agenda := Eq.refl _
      others := fun l _ => hw l
      places := fun i p h => ⟨p, (hp i).trans h, Eq.refl _, Eq.refl _, Eq.refl _, fun _ => Eq.refl _, Eq.refl _, Eq.refl _, Eq.refl _⟩
      warp := fun w h => ⟨w, (hw k).trans h, hR w⟩ }

/-- A position changed in place. -/
theorem leaves_modPos {i : Nat} {f : Position → Position} (hid : ∀ p, (f p).id = p.id) (hf : ∀ p, Position.LikePlace A p (f p))
    (hother : ∀ l, l ≠ k → (s.modPos i f).warpOf l = s.warpOf l)
    (hwarp : ∀ w, s.warpOf k = some w → ∃ u, (s.modPos i f).warpOf k = some u ∧ R w u) : Leaves A k R s (s.modPos i f) where
  mem := Eq.refl _
  pend := Eq.refl _
  ops := Eq.refl _
  sectors := Eq.refl _
  tables := Eq.refl _
  mgmt := Eq.refl _
  now := Eq.refl _
  agenda := Eq.refl _
  others := hother
  warp := hwarp
  places j p hp := by
    by_cases hj : j = i
    · subst hj
      exact ⟨f p, by rw [State.posOf_modPos s j f hid, hp, Option.map_some], hf p⟩
    · exact ⟨p, by rw [State.posOf_modPos_ne s f hid hj, hp], Eq.refl _, Eq.refl _, Eq.refl _, fun _ => Eq.refl _, Eq.refl _, Eq.refl _,
        Eq.refl _⟩

/-! ### Warps found in a state changed in place -/

theorem blockOf_of_blocks {p q : Position} (h : q.blocks = p.blocks) (i : Nat) : q.blockOf i = p.blockOf i := by
  rw [Position.blockOf, Position.blockOf, h]

/-- A warp of a position changed in place. -/
theorem warpOf_modPos {i : Nat} {f : Position → Position} (hid : ∀ p, (f p).id = p.id) (l : WKey)
    (hf : ∀ p, ((f p).blockOf l.stage).bind (·.warpOf l.warp) = (p.blockOf l.stage).bind (·.warpOf l.warp)) :
    (s.modPos i f).warpOf l = s.warpOf l := by
  by_cases hl : l.pos = i
  · subst hl
    rw [State.warpOf, State.warpOf, State.posOf_modPos s _ f hid]
    cases s.posOf l.pos with
    | none => rfl
    | some p => exact hf p
  · rw [State.warpOf, State.warpOf, State.posOf_modPos_ne s f hid hl]

/-- A warp of a block changed in place. -/
theorem warpOf_modBlock {i j : Nat} {f : Block → Block} (hst : ∀ b, (f b).stage = b.stage) (l : WKey)
    (hf : ∀ b, l.pos = i → l.stage = j → (f b).warpOf l.warp = b.warpOf l.warp) : (s.modBlock i j f).warpOf l = s.warpOf l := by
  by_cases hl : l.pos = i
  · refine warpOf_modPos (f := (·.modBlock j f)) (fun _ => rfl) l fun p => ?_
    by_cases hj : l.stage = j
    · subst hj
      rw [Position.blockOf_modBlock p _ f hst]
      cases p.blockOf l.stage with
      | none => rfl
      | some b => exact hf b hl rfl
    · have hb : (p.modBlock j f).blockOf l.stage = p.blockOf l.stage :=
        find?_upd_other _ _ f (fun b hb => by
          have hbj : b.stage = j := by simpa using hb
          simp [hst, hbj, Ne.symm hj]) p.blocks
      rw [hb]
  · rw [State.warpOf, State.warpOf]
    exact congrArg (fun p => Option.bind (Option.bind p _) _) (State.posOf_modPos_ne s (·.modBlock j f) (fun _ => rfl) hl)

theorem warpOf_modWarp_ne {k' : WKey} {f : Warp → Warp} (hf : ∀ w, (f w).idx = w.idx) {l : WKey} (hl : l ≠ k') :
    (s.modWarp k' f).warpOf l = s.warpOf l := by
  refine warpOf_modBlock (f := (·.modWarp k'.warp f)) (fun _ => rfl) l fun b hp hs => ?_
  have hw : l.warp ≠ k'.warp := fun hw => hl (by cases l; cases k'; simp_all)
  exact find?_upd_other _ _ f (fun w hw' => by
    have hwi : w.idx = k'.warp := by simpa using hw'
    simp [hf, hwi, Ne.symm hw]) b.warps

/-! ### The changes of which a commit is made -/

theorem leaves_modWarp {f : Warp → Warp} (hf : ∀ w, (f w).idx = w.idx := by intro _; rfl) : Leaves A k (fun w u => u = f w) s (s.modWarp k f) :=
  leaves_modPos (f := (·.modBlock k.stage (·.modWarp k.warp f))) (fun _ => rfl)
    (fun p => ⟨rfl, rfl, rfl, fun _ => rfl, rfl, rfl, rfl⟩) (fun _ hl => warpOf_modWarp_ne hf hl)
    (fun w hw => ⟨f w, by
      show (s.modWarp k f).warpOf k = _
      rw [State.warpOf_modWarp s k f hf, hw, Option.map_some], rfl⟩)

theorem leaves_modBlock {i j : Nat} {f : Block → Block} (hst : ∀ b, (f b).stage = b.stage) (hf : ∀ b, (f b).warps = b.warps)
    (hR : ∀ w, R w w) : Leaves A k R s (s.modBlock i j f) := by
  have hw : ∀ l, (s.modBlock i j f).warpOf l = s.warpOf l := fun l =>
    warpOf_modBlock hst l fun b _ _ => by rw [Block.warpOf, Block.warpOf, hf]
  exact leaves_modPos (f := (·.modBlock j f)) (fun _ => rfl) (fun p => ⟨rfl, rfl, rfl, fun _ => rfl, rfl, rfl, rfl⟩)
    (fun l _ => hw l) (fun w h => ⟨w, (hw k).trans h, hR w⟩)

theorem leaves_modAcc {i a : Nat} {f : AccName → AccName} (hA : ¬ A) (hR : ∀ w, R w w) :
    Leaves A k R s (s.modPos i (·.modAcc a f)) := by
  have hw : ∀ l, (s.modPos i (·.modAcc a f)).warpOf l = s.warpOf l := fun l =>
    warpOf_modPos (f := (·.modAcc a f)) (fun _ => rfl) l fun _ => rfl
  exact leaves_modPos (f := (·.modAcc a f)) (fun _ => rfl) (fun p => ⟨rfl, rfl, rfl, fun a => absurd a hA, rfl, rfl, rfl⟩)
    (fun l _ => hw l) (fun w h => ⟨w, (hw k).trans h, hR w⟩)

theorem leaves_foldl {α : Type} {f : State → α → State} (hR : ∀ w, R w w) (hT : ∀ w v x, R w v → R v x → R w x) {l : List α}
    (hf : ∀ s, ∀ a ∈ l, Leaves A k R s (f s a)) : Leaves A k R s (l.foldl f s) := by
  induction l generalizing s with
  | nil => exact Leaves.rfl hR
  | cons a l ih => exact (hf s a List.mem_cons_self).trans (ih fun s b hb => hf s b (List.mem_cons_of_mem _ hb)) hT

end

/-! ### Threads and warps alike -/

/-- A thread but for where it stands. -/
def Thread.core (t : Thread) : Thread := { t with st := .exited, pc := 0, idx := 0, mid := false, byp := [], stale := [] }

/-- The same thread, perhaps at another instruction. -/
def Thread.Moved (t u : Thread) : Prop := u = { t with idx := u.idx }

/-- The same thread, perhaps at another instruction and in another state. -/
def Thread.Staged (t u : Thread) : Prop := u = { t with idx := u.idx, st := u.st }

/-- The same thread but for where it stands. -/
def Thread.Alike (t u : Thread) : Prop := u.core = t.core

theorem Thread.Moved.staged {t u : Thread} (h : t.Moved u) : t.Staged u := by rw [Thread.Staged, h]
theorem Thread.Staged.alike {t u : Thread} (h : t.Staged u) : t.Alike u := by rw [Thread.Alike, h]; rfl
theorem Thread.Moved.trans {t u v : Thread} (h : t.Moved u) (h' : u.Moved v) : t.Moved v := by
  rw [Thread.Moved] at *
  rw [h', h]
theorem Thread.Staged.trans {t u v : Thread} (h : t.Staged u) (h' : u.Staged v) : t.Staged v := by
  rw [Thread.Staged] at *
  rw [h', h]
theorem Thread.Alike.trans {t u v : Thread} (h : t.Alike u) (h' : u.Alike v) : t.Alike v := Eq.trans h' h

/-- A warp but for its threads, the last uses that wait in it, and its view of wider registers. -/
def Warp.base (w : Warp) : Warp := { w with threads := [], uses := [], view := [] }

/-- The same warp, but for its last uses and view, and its threads as `T` tells, those outside `lanes` as they were. -/
structure Warp.Alike (T : Thread → Thread → Prop) (lanes : List Nat) (w u : Warp) : Prop where
  base : u.base = w.base
  threads : ∀ l t, w.threads[l]? = some t → ∃ v, u.threads[l]? = some v ∧ T t v ∧ (l ∉ lanes → v = t)

section
variable {T T' : Thread → Thread → Prop} {lanes : List Nat} {w u : Warp}

theorem Warp.Alike.of_threads (hT : ∀ t, T t t) (hb : u.base = w.base) (ht : u.threads = w.threads) : Warp.Alike T lanes w u :=
  ⟨hb, fun _ t h => ⟨t, ht ▸ h, hT t, fun _ => rfl⟩⟩

theorem Warp.Alike.trans {v : Warp} (hT : ∀ t u v, T t u → T u v → T t v) (h : Warp.Alike T lanes w v) (h' : Warp.Alike T lanes v u) :
    Warp.Alike T lanes w u := by
  refine ⟨h'.base.trans h.base, fun l t ht => ?_⟩
  obtain ⟨a, ha, hta, hla⟩ := h.threads l t ht
  obtain ⟨b, hb, hab, hlb⟩ := h'.threads l a ha
  exact ⟨b, hb, hT t a b hta hab, fun hl => (hlb hl).trans (hla hl)⟩

theorem Warp.Alike.mono (hT : ∀ t u, T t u → T' t u) (h : Warp.Alike T lanes w u) : Warp.Alike T' lanes w u :=
  ⟨h.base, fun l t ht => (h.threads l t ht).imp fun _ hv => ⟨hv.1, hT _ _ hv.2.1, hv.2.2⟩⟩

theorem alike_modThreads {f : Thread → Thread} (hf : ∀ t, T t (f t)) (hT : ∀ t, T t t) :
    Warp.Alike T lanes w (w.modThreads lanes f) := by
  refine ⟨rfl, fun l t ht => ⟨if lanes.contains l then f t else t, ?_, ?_, fun hl => ?_⟩⟩
  · simp only [Warp.modThreads, List.getElem?_mapIdx, ht, Option.map_some]
  · split
    · exact hf t
    · exact hT t
  · rw [if_neg (by simpa using hl)]

end

section
variable {A : Prop} {k : WKey} {s : State} {lanes : List Nat} {T : Thread → Thread → Prop}

theorem leaves_modLanes {f : Thread → Thread} (hf : ∀ t, T t (f t)) (hT : ∀ t, T t t) :
    Leaves A k (Warp.Alike T lanes) s (s.modLanes k lanes f) :=
  (leaves_modWarp (f := (·.modThreads lanes f)) (fun _ => rfl)).mono fun _ _ hu => hu ▸ alike_modThreads hf hT

/-- Moving on past an instruction. -/
theorem leaves_passLanes (idx : Nat) : Leaves A k (Warp.Alike Thread.Moved lanes) s (s.passLanes k lanes idx) := by
  refine leaves_modLanes (fun t => ?_) fun _ => rfl
  split <;> rfl

theorem alike_refl (hT : ∀ t, T t t) (w : Warp) : Warp.Alike T lanes w w := .of_threads hT rfl rfl

/-- Passing the last uses of a warp; where none waits, no accumulator is dropped. -/
theorem leaves_passUses {p : TileUse → Bool} {ls : List Nat} (hT : ∀ t, T t t) (hT' : ∀ t u v, T t u → T u v → T t v)
    (hA : A → ∀ w, s.warpOf k = some w → w.uses = []) : Leaves A k (Warp.Alike T lanes) s (s.passUses k p ls) := by
  unfold State.passUses
  split
  · exact .rfl (alike_refl hT)
  next w hw =>
    split
    · exact .rfl (alike_refl hT)
    next hu =>
      have hA' : ¬ A := fun a => hu (by rw [hA a w hw]; rfl)
      have h1 : Leaves A k (Warp.Alike T lanes) s
          (s.modWarp k fun w' => { w' with uses := (w.uses.map (·.past p ls)).filter (!·.lanes.isEmpty) }) :=
        (leaves_modWarp (f := fun w' => { w' with uses := (w.uses.map (·.past p ls)).filter (!·.lanes.isEmpty) })
          (fun _ => rfl)).mono fun _ _ hu => .of_threads hT (by rw [hu]; rfl) (by rw [hu])
      exact h1.trans (leaves_foldl (alike_refl hT) (fun _ _ _ h h' => h.trans hT' h') fun s u _ => leaves_modAcc hA' (alike_refl hT))
        fun _ _ _ h h' => h.trans hT' h'

/-- Freeing registers wider than the warp changes its view at most. -/
theorem leaves_freeWides {R : Warp → Warp → Prop} (hR : ∀ w, R w w) (hR' : ∀ w v u, R w v → R v u → R w u)
    (hview : ∀ (w : Warp) l, R w { w with view := l }) (ls : List (Nat × LaneEnd)) : Leaves A k R s (s.freeWides k ls) := by
  refine leaves_foldl hR hR' fun s r _ => ?_
  unfold State.freeWide
  split
  case h_2 => exact .rfl hR
  case h_1 =>
    dsimp only
    have hblock : ∀ f : Block → Block, (∀ b, (f b).stage = b.stage) → (∀ b, (f b).warps = b.warps) →
        Leaves A k R s (s.modBlock k.pos k.stage f) := fun f h1 h2 => leaves_modBlock h1 h2 hR
    have hc : ∀ f : Compute → Compute, (∀ c, (f c).positions = c.positions) →
        (∀ c, (f c).mem = c.mem ∧ (f c).pend = c.pend ∧ (f c).ops = c.ops ∧ (f c).sectors = c.sectors) →
        Leaves A k R s (s.modC f) := fun f h1 h2 => leaves_modC h1 h2 hR
    split
    · exact Leaves.mono leaves_modWarp fun w u hu => hu ▸ hview w _
    · split
      · exact hblock _ (fun _ => rfl) fun _ => rfl
      · split
        · exact hblock _ (fun _ => rfl) fun _ => rfl
        · exact hc _ (fun _ => rfl) fun _ => ⟨rfl, rfl, rfl, rfl⟩
      · split
        · exact hblock _ (fun _ => rfl) fun _ => rfl
        · split
          · exact hc _ (fun _ => rfl) fun _ => ⟨rfl, rfl, rfl, rfl⟩
          · exact hc _ (fun _ => rfl) fun _ => ⟨rfl, rfl, rfl, rfl⟩
      · exact .rfl hR

/-! ### The end of a packet's instruction -/

theorem leaves_modCore {i : Nat} {f : CoreSt → CoreSt} (hT : ∀ t, T t t) : Leaves A k (Warp.Alike T lanes) s (s.modCore i f) :=
  leaves_modC (fun _ => rfl) (fun _ => ⟨rfl, rfl, rfl, rfl⟩) (alike_refl hT)

theorem length_eraseDups_le_one {l : List Nat} {n : Nat} (h : ∀ x ∈ l, x = n) : l.eraseDups.length ≤ 1 := by
  cases l with
  | nil => simp
  | cons a l =>
    have hnil : (l.filter fun b => !b == a) = [] := by
      rw [List.filter_eq_nil_iff]
      intro b hb
      simp [h a List.mem_cons_self, h b (List.mem_cons_of_mem _ hb)]
    rw [List.eraseDups_cons, hnil]
    simp

/-- An arm whose going lanes stand at one header has no record to open. -/
theorem diverge_of_pc {tag n : Nat} {w : Warp} (hw : s.warpOf k = some w)
    (hpc : ∀ x, w.armOf tag = some x → ∀ l ∈ x.lanes, w.going l = true → ((w.threads[l]?).map (·.pc)).getD 0 = n) :
    s.diverge k tag = s := by
  unfold State.diverge
  rw [hw]
  dsimp only
  split
  · rfl
  next x hx =>
    have hlen : (groupByPc w (x.lanes.filter w.going)).length ≤ 1 := by
      rw [groupByPc, List.length_map]
      refine length_eraseDups_le_one (n := n) fun m hm => ?_
      obtain ⟨l, hl, rfl⟩ := List.mem_map.1 hm
      obtain ⟨hmem, hgo⟩ := List.mem_filter.1 hl
      exact hpc x hx l hmem hgo
    rw [if_pos hlen]

theorem settleWarp_of_no_rec {w : Warp} (hw : s.warpOf k = some w) (hr : w.recs = []) (fuel : Nat) : s.settleWarp k fuel = s := by
  cases fuel with
  | zero => rfl
  | succ n =>
    unfold State.settleWarp
    split
    next h1 h2 =>
      rw [hw] at h2
      cases h2
      simp only [hr, List.find?_nil]
    · rfl

/-- An arm's lanes at the end of their clause, and its block's watchdog. -/
def State.endedClause (s : State) (a : PArm) (inTrap : Bool) (next : Nat) : State :=
  (s.modLanes a.wk a.lanes (·.clauseDone inTrap next)).modBlock a.wk.pos a.wk.stage fun b => { b with dog := 0 }

theorem armDone_eq {sc : Option StageCode} {hdr : Nat} {a : PArm} {w : Warp} (hw : s.warpOf a.wk = some w) :
    s.armDone sc hdr a = (if a.entire w then (s.endedClause a (w.inTrap a.arm) ((sc.map (·.nextHeader hdr)).getD hdr)).diverge a.wk a.arm
      else s.endedClause a (w.inTrap a.arm) ((sc.map (·.nextHeader hdr)).getD hdr)).settleWarp a.wk 40 := by
  simp only [State.armDone, hw]
  rfl

theorem Thread.alike_clauseDone (t : Thread) (b : Bool) (n : Nat) : t.Alike (t.clauseDone b n) := by
  unfold Thread.clauseDone
  dsimp only
  split <;> split <;> rfl

theorem Thread.clauseDone_pc {t : Thread} (ht : t.held = true) (b : Bool) (n : Nat) : (t.clauseDone b n).pc = n := by
  unfold Thread.clauseDone
  rw [if_pos ht]
  dsimp only
  split <;> rfl

theorem leaves_endedClause {a : PArm} {b : Bool} {n : Nat} :
    Leaves A a.wk (Warp.Alike Thread.Alike a.lanes) s (s.endedClause a b n) :=
  (leaves_modLanes (fun t => t.alike_clauseDone b n) fun _ => rfl).trans
    (leaves_modBlock (fun _ => rfl) (fun _ => rfl) (R := Warp.Alike Thread.Alike a.lanes) (alike_refl fun _ => rfl))
    fun _ _ _ h h' => h.trans (fun _ _ _ => Thread.Alike.trans) h'

theorem warpOf_endedClause {a : PArm} {b : Bool} {n : Nat} {w : Warp} (hw : s.warpOf a.wk = some w) :
    (s.endedClause a b n).warpOf a.wk = some (w.modThreads a.lanes (·.clauseDone b n)) := by
  rw [State.endedClause, warpOf_modBlock (f := fun b => { b with dog := 0 }) (fun _ => rfl) _ (fun _ _ _ => rfl), State.modLanes,
    State.warpOf_modWarp _ _ (·.modThreads a.lanes (·.clauseDone b n)) (fun _ => rfl), hw, Option.map_some]

/-- The lanes of an arm go on to the next clause together, in a warp without a record. -/
theorem armDone_of_held {sc : Option StageCode} {hdr : Nat} {a : PArm} {w : Warp} (hw : s.warpOf a.wk = some w) (hr : w.recs = [])
    (hheld : ∀ l ∈ a.lanes, ∃ t, w.threads[l]? = some t ∧ t.held = true) :
    s.armDone sc hdr a = s.endedClause a (w.inTrap a.arm) ((sc.map (·.nextHeader hdr)).getD hdr) := by
  rw [armDone_eq hw]
  generalize (sc.map (·.nextHeader hdr)).getD hdr = n
  have hw1 := warpOf_endedClause (b := w.inTrap a.arm) (n := n) hw
  have hdiv : (if a.entire w then (s.endedClause a (w.inTrap a.arm) n).diverge a.wk a.arm
      else s.endedClause a (w.inTrap a.arm) n) = s.endedClause a (w.inTrap a.arm) n := by
    split
    next he =>
      refine diverge_of_pc (n := n) hw1 fun x hx l hl hgo => ?_
      have hlane : l ∈ a.lanes := by
        by_contra hno
        have hgo' : w.going l = true := by
          simpa [Warp.going, Warp.modThreads, List.getElem?_mapIdx, hno] using hgo
        have hx' : w.armOf a.arm = some x := hx
        rw [PArm.entire, hx', Option.any_some, List.all_eq_true] at he
        simpa [hgo', hno] using he l hl
      obtain ⟨t, ht, htheld⟩ := hheld l hlane
      have hth : (w.modThreads a.lanes (·.clauseDone (w.inTrap a.arm) n)).threads[l]? = some (t.clauseDone (w.inTrap a.arm) n) := by
        simp only [Warp.modThreads, List.getElem?_mapIdx, ht, Option.map_some]
        rw [if_pos (by simpa using hlane)]
      rw [hth, Option.map_some, Option.getD_some, Thread.clauseDone_pc htheld]
    · rfl
  rw [hdiv, settleWarp_of_no_rec hw1 hr]

/-! ### What a settled packet leaves of its warp -/

theorem leaves_stallPacket {p : Packet} {a : PArm} {w : Option Wait} (ha : p.arms = [a]) :
    Leaves A a.wk (Warp.Alike Thread.Staged a.lanes) s (s.stallPacket p w) := by
  rw [State.stallPacket, ha, List.foldl_cons, List.foldl_nil]
  refine leaves_modLanes (fun t => ?_) fun _ => rfl
  split <;> rfl

/-- Within a clause. -/
theorem leaves_settlePacket_mid {core slot : Nat} {p : Packet} {a : PArm} (hp : s.packet? core slot = some p) (ha : p.arms = [a])
    (hc : p.idx + 1 < p.cnt) : Leaves A a.wk (Warp.Alike Thread.Staged a.lanes) s (s.settlePacket core slot) := by
  simp only [State.settlePacket, hp]
  split
  · exact leaves_stallPacket ha
  · simp only [State.advance, hp, if_pos hc, ha, List.foldl_cons, List.foldl_nil]
    exact (leaves_modLanes (T := Thread.Staged) (f := fun t => { t with st := .packed, idx := p.idx + 1 }) (fun _ => rfl)
      fun _ => rfl).trans (leaves_modCore (T := Thread.Staged) (lanes := a.lanes) fun _ => rfl) fun _ _ _ h h' =>
        h.trans (fun _ _ _ => Thread.Staged.trans) h'

/-- Within a clause, and at its end in a warp without a record. -/
theorem leaves_settlePacket {core slot : Nat} {p : Packet} {a : PArm} {w : Warp} (hp : s.packet? core slot = some p) (ha : p.arms = [a])
    (hw : s.warpOf a.wk = some w)
    (hc : p.idx + 1 < p.cnt ∨ (w.recs = [] ∧ ∀ l ∈ a.lanes, ∃ t, w.threads[l]? = some t ∧ t.held = true)) :
    Leaves A a.wk (Warp.Alike Thread.Alike a.lanes) s (s.settlePacket core slot) := by
  by_cases hmid : p.idx + 1 < p.cnt
  · exact (leaves_settlePacket_mid hp ha hmid).mono fun _ _ h => h.mono fun _ _ => Thread.Staged.alike
  · obtain ⟨hr, hheld⟩ := hc.resolve_left hmid
    simp only [State.settlePacket, hp]
    split
    · exact (leaves_stallPacket ha).mono fun _ _ h => h.mono fun _ _ => Thread.Staged.alike
    · simp only [State.advance, hp, if_neg hmid, ha, List.foldl_cons, List.foldl_nil]
      rw [armDone_of_held (w := w) ((warpOf_modCore ..).trans hw) hr hheld]
      exact (leaves_modCore (T := Thread.Alike) fun _ => rfl).trans leaves_endedClause fun _ _ _ h h' =>
        h.trans (fun _ _ _ => Thread.Alike.trans) h'

end

/-- Steps in turn, none of the listed ones of which a view sees. -/
theorem foldl_unseen_mem {σ α β : Type} (view : σ → β) {f : σ → α → σ} {l : List α} (hf : ∀ s, ∀ a ∈ l, view (f s a) = view s) (s : σ) :
    view (l.foldl f s) = view s := by
  induction l generalizing s with
  | nil => rfl
  | cons a l ih =>
    rw [List.foldl_cons, ih fun s b hb => hf s b (List.mem_cons_of_mem _ hb)]
    exact hf s a List.mem_cons_self

/-! ### What a commit does to a warp -/

/-- The part of a warp that a commit leaves, its threads and flags apart. -/
def Warp.fixed (w : Warp) : Warp :=
  { w with threads := [], arms := [], epoch := 0, w := [], x := [], z := [], zfront := [], view := [], fstat := 0 }

section
variable {w : Warp} {arm lane : Nat} {p : Party} {lanes : List Nat} {scl : Bool} {dsts early : List Spec} {os : List (Nat × LaneOut)}

/-- What `view` sees of a warp is no business of its arms, epoch, view and batons' frontiers. -/
def Blind {β : Type} (view : Warp → β) : Prop :=
  ∀ (w : Warp) as e vw zf, view { w with arms := as, epoch := e, view := vw, zfront := zf } = view w

theorem view_takeBatons {β : Type} {view : Warp → β} (hv : Blind view) (l : List Nat) : view (w.takeBatons arm l) = view w := by
  unfold Warp.takeBatons
  split
  · rfl
  · exact hv w _ _ w.view w.zfront

theorem view_freeScope {β : Type} {view : Warp → β} (hv : Blind view) {r : Spec}
    (hw : ∀ i, r = .w i → ∀ w, view { w with w := w.w.set i.toNat .zero } = view w)
    (hx : ∀ i, r = .x i → ∀ w l, view { w with x := l } = view w) : view (w.freeScope arm lane r) = view w := by
  unfold Warp.freeScope
  dsimp only
  split
  · exact hv w _ w.epoch w.view w.zfront
  · cases r with
    | w i => exact hw i rfl w
    | x i => exact hx i rfl w _
    | _ => rfl

theorem view_frees {β : Type} {view : Warp → β} (hv : Blind view) {l : List Src}
    (hz : ∀ x ∈ l, x.last = true → ∀ i, x.spec = .z i → ∀ w, view { w with z := w.z.set i.toNat none } = view w)
    (hw : ∀ x ∈ l, x.last = true → ∀ i, x.spec = .w i → ∀ w, view { w with w := w.w.set i.toNat .zero } = view w)
    (hx : ∀ x ∈ l, x.last = true → ∀ i, x.spec = .x i → ∀ w l, view { w with x := l } = view w) :
    view (w.frees arm lane l) = view w := by
  refine foldl_unseen_mem view (fun w x hmem => ?_) w
  split
  next hl =>
    split
    next i hs => exact hz x hmem hl i hs w
    next i hs => exact view_freeScope hv (hw x hmem hl) (hx x hmem hl)
    next i hs => exact view_freeScope hv (hw x hmem hl) (hx x hmem hl)
    next => rfl
  · rfl

theorem view_fillBatons {β : Type} {view : Warp → β} (hv : Blind view) {l : List (Nat × TV)}
    (hz : ∀ b ∈ l, ∀ w, view { w with z := w.z.set b.1 (some b.2) } = view w) : view (w.fillBatons arm p l) = view w := by
  unfold Warp.fillBatons
  split
  · rfl
  · dsimp only
    refine (hv _ _ _ _ _ : view (Warp.tick _ arm) = _).trans (foldl_unseen_mem view (fun w b hb => ?_) w)
    exact (hv { w with z := w.z.set b.1 (some b.2) } w.arms w.epoch w.view _).trans (hz b hb w)

theorem view_putScope {β : Type} {view : Warp → β} (hv : Blind view) {e : ViewEnt}
    (hw : ∀ i, e.reg = .w i → ∀ w, view { w with w := w.w.set i.toNat e.v } = view w)
    (hx : ∀ i, e.reg = .x i → ∀ w l, view { w with x := l } = view w) : view (w.putScope arm e) = view w := by
  unfold Warp.putScope
  split
  · rfl
  · split
    · split
      next i hs => exact hw i hs w
      next i hs => exact hx i hs w _
      next => exact hv w w.arms w.epoch _ w.zfront
    · split
      · exact hv w _ w.epoch w.view w.zfront
      · exact hv w _ w.epoch w.view w.zfront
      · exact hv w w.arms w.epoch _ w.zfront

/-- A warp with the results of its lanes in its threads. -/
def Warp.applied (w : Warp) (lanes : List Nat) (scl : Bool) (dsts : List Spec) (os : List (Nat × LaneOut)) : Warp :=
  if scl then w else { w with threads := applyThreads w.threads lanes dsts (ArmOut.ofLanes os).lanes }

/-- A commit but for the flags it raises. -/
def Warp.results (w : Warp) (arm : Nat) (p : Party) (lanes : List Nat) (scl : Bool) (dsts early : List Spec) (o : ArmOut) : Warp :=
  let w0 := w.takeBatons arm ((batonReads o.lanes).filter fun i => !(batonsOf early).contains i)
  let w1 := if scl then w0 else { w0 with threads := applyThreads w0.threads lanes dsts o.lanes }
  let w2 := o.lanes.foldl (fun w l => match l.2 with
    | .out x => w.frees arm l.1 x.frees
    | _ => w) w1
  let w3 := w2.fillBatons arm p (batonWrites o.lanes)
  ((if scl then scalarWrites o.lanes else []) ++ o.scope).foldl (fun w e => w.putScope arm e) w3

theorem commit_eq (o : ArmOut) : w.commit arm p lanes scl dsts early o =
    { w.results arm p lanes scl dsts early o with
      fstat := raiseFstat (w.results arm p lanes scl dsts early o).fstat (armFlags o) } := rfl

theorem touches_of_frees {o : LaneOut} {x : Src} (hx : x ∈ o.frees) (hl : x.last = true) : o.touches x.spec = true := by
  simp only [LaneOut.touches, Bool.or_eq_true, List.any_eq_true, Bool.and_eq_true]
  exact .inl (.inr ⟨x, hx, hl, beq_self_eq_true _⟩)

theorem touches_of_writes {o : LaneOut} {e : Dst × TV} (he : e ∈ o.writes) (hs : ∀ i, e.1.spec ≠ .v i) : o.touches e.1.spec = true := by
  simp only [LaneOut.touches, Bool.or_eq_true, List.any_eq_true, Bool.and_eq_true]
  refine .inl (.inl ⟨e, he, beq_self_eq_true _, ?_⟩)
  cases hspec : e.1.spec with
  | v i => exact absurd hspec (hs i)
  | _ => trivial

theorem batonWrites_ofLanes {b : Nat × TV} (hb : b ∈ batonWrites (ArmOut.ofLanes os).lanes) :
    ∃ o ∈ os, ∃ i, b.1 = (i : BitVec 3).toNat ∧ o.2.touches (.z i) = true := by
  simp only [batonWrites, ArmOut.ofLanes, List.filterMap_map, List.mem_filterMap, Function.comp_apply, batonWrite] at hb
  obtain ⟨o, ho, hw⟩ := hb
  obtain ⟨e, he, hi⟩ := List.exists_of_findSome?_eq_some hw
  split at hi
  next i hs =>
    cases hi
    exact ⟨o, ho, i, rfl, hs ▸ touches_of_writes he fun j hj => by rw [hs] at hj; cases hj⟩
  · cases hi

theorem scalarWrites_ofLanes {e : ViewEnt} (he : e ∈ scalarWrites (ArmOut.ofLanes os).lanes) :
    ∃ o ∈ os, ∃ i, e.reg = .w i ∧ o.2.touches (.w i) = true := by
  simp only [scalarWrites, ArmOut.ofLanes, List.flatMap_map, List.mem_flatMap, List.mem_filterMap] at he
  obtain ⟨o, ho, x, hx, hi⟩ := he
  split at hi
  next i hs =>
    cases hi
    exact ⟨o, ho, i, rfl, hs ▸ touches_of_writes hx fun j hj => by rw [hs] at hj; cases hj⟩
  · cases hi

/-- What sees none of the registers that the results touch sees only the threads change. -/
theorem view_results {β : Type} {view : Warp → β} (hv : Blind view)
    (hz : ∀ o ∈ os, ∀ i, o.2.touches (.z i) = true → ∀ w v, view { w with z := w.z.set i.toNat v } = view w)
    (hw : ∀ o ∈ os, ∀ i, o.2.touches (.w i) = true → ∀ w v, view { w with w := w.w.set i.toNat v } = view w)
    (hx : ∀ o ∈ os, ∀ i, o.2.touches (.x i) = true → ∀ w l, view { w with x := l } = view w) :
    view (w.results arm p lanes scl dsts early (.ofLanes os)) = view (w.applied lanes scl dsts os) := by
  have htake : ∀ l, view (if scl then w.takeBatons arm l else { w.takeBatons arm l with
      threads := applyThreads (w.takeBatons arm l).threads lanes dsts (ArmOut.ofLanes os).lanes }) = view (w.applied lanes scl dsts os) := by
    intro l
    cases scl with
    | true => exact view_takeBatons hv l
    | false =>
      unfold Warp.takeBatons
      by_cases hl : l.isEmpty = true
      · simp only [hl, if_true, Bool.false_eq_true, if_false]
        rfl
      · simp only [hl, if_false, Bool.false_eq_true]
        exact hv { w with threads := applyThreads w.threads lanes dsts (ArmOut.ofLanes os).lanes } _ _ w.view w.zfront
  have hscope : ∀ e ∈ (if scl then scalarWrites (ArmOut.ofLanes os).lanes else []) ++ (ArmOut.ofLanes os).scope,
      ∃ o ∈ os, ∃ i, e.reg = .w i ∧ o.2.touches (.w i) = true := by
    intro e he
    simp only [ArmOut.ofLanes, List.append_nil] at he
    cases scl with
    | true => exact scalarWrites_ofLanes he
    | false => cases he
  unfold Warp.results
  dsimp only
  refine (foldl_unseen_mem view (fun w e he => ?_) _).trans
    ((view_fillBatons hv fun b hb w => ?_).trans ((foldl_unseen_mem view (fun w l hl => ?_) _).trans (htake _)))
  · obtain ⟨o, ho, i, hi, ht⟩ := hscope e he
    refine view_putScope hv (fun j hj w => ?_) fun j hj => ?_
    · rw [hi] at hj
      cases hj
      exact hw o ho _ ht w _
    · rw [hi] at hj
      cases hj
  · obtain ⟨o, ho, i, hi, ht⟩ := batonWrites_ofLanes hb
    rw [hi]
    exact hz o ho i ht w _
  · obtain ⟨o, ho, rfl⟩ := List.mem_map.1 hl
    exact view_frees hv (fun x hx hlast i hs w => hz o ho i (hs ▸ touches_of_frees hx hlast) w _)
      (fun x hx hlast i hs w => hw o ho i (hs ▸ touches_of_frees hx hlast) w _)
      (fun y hy hlast i hs w l => hx o ho i (hs ▸ touches_of_frees hy hlast) w l)

theorem commit_fixed : (w.commit arm p lanes scl dsts early (.ofLanes os)).fixed = w.fixed := by
  rw [commit_eq]
  refine (view_results (view := Warp.fixed) (fun _ _ _ _ _ => rfl) (fun _ _ _ _ _ _ => rfl) (fun _ _ _ _ _ _ => rfl)
    fun _ _ _ _ _ _ => rfl).trans ?_
  cases scl <;> rfl

theorem commit_idx : (w.commit arm p lanes scl dsts early (.ofLanes os)).idx = w.idx := by
  have h : (w.commit arm p lanes scl dsts early (.ofLanes os)).fixed.idx = w.fixed.idx := congrArg Warp.idx commit_fixed
  exact h

theorem commit_uses : (w.commit arm p lanes scl dsts early (.ofLanes os)).uses = w.uses := by
  have h : (w.commit arm p lanes scl dsts early (.ofLanes os)).fixed.uses = w.fixed.uses := congrArg Warp.uses commit_fixed
  exact h

theorem commit_fstat : (w.commit arm p lanes scl dsts early (.ofLanes os)).fstat = raiseFstat w.fstat (armFlags (.ofLanes os)) := by
  rw [commit_eq]
  refine congrArg (raiseFstat · _) ((view_results (view := Warp.fstat) (fun _ _ _ _ _ => rfl) (fun _ _ _ _ _ _ => rfl)
    (fun _ _ _ _ _ _ => rfl) fun _ _ _ _ _ _ => rfl).trans ?_)
  cases scl <;> rfl

theorem commit_threads : (w.commit arm p lanes scl dsts early (.ofLanes os)).threads = (w.applied lanes scl dsts os).threads :=
  view_results (view := Warp.threads) (fun _ _ _ _ _ => rfl) (fun _ _ _ _ _ _ => rfl) (fun _ _ _ _ _ _ => rfl)
    fun _ _ _ _ _ _ => rfl

theorem commit_w {i : BitVec 5} (hi : ∀ o ∈ os, o.2.touches (.w i) = false) :
    (w.commit arm p lanes scl dsts early (.ofLanes os)).w[i.toNat]? = w.w[i.toNat]? := by
  refine (view_results (view := fun w => w.w[i.toNat]?) (fun _ _ _ _ _ => rfl) (fun _ _ _ _ _ _ => rfl) (fun o ho j hj w v => ?_)
    fun _ _ _ _ _ _ => rfl).trans ?_
  · have hne : j.toNat ≠ i.toNat := fun he => by
      rw [BitVec.eq_of_toNat_eq he, hi o ho] at hj
      cases hj
    exact List.getElem?_set_ne hne
  · cases scl <;> rfl

theorem commit_x (hi : ∀ i, ∀ o ∈ os, o.2.touches (.x i) = false) : (w.commit arm p lanes scl dsts early (.ofLanes os)).x = w.x := by
  refine (view_results (view := Warp.x) (fun _ _ _ _ _ => rfl) (fun _ _ _ _ _ _ => rfl) (fun _ _ _ _ _ _ => rfl)
    fun o ho i ht _ _ => ?_).trans ?_
  · rw [hi i o ho] at ht
    cases ht
  · cases scl <;> rfl

theorem commit_z {i : BitVec 3} (hi : ∀ o ∈ os, o.2.touches (.z i) = false) :
    (w.commit arm p lanes scl dsts early (.ofLanes os)).z[i.toNat]? = w.z[i.toNat]? := by
  refine (view_results (view := fun w => w.z[i.toNat]?) (fun _ _ _ _ _ => rfl) (fun o ho j hj w v => ?_) (fun _ _ _ _ _ _ => rfl)
    fun _ _ _ _ _ _ => rfl).trans ?_
  · have hne : j.toNat ≠ i.toNat := fun he => by
      rw [BitVec.eq_of_toNat_eq he, hi o ho] at hj
      cases hj
    exact List.getElem?_set_ne hne
  · cases scl <;> rfl

end

/-! ### What results do to a thread -/

section
variable {t : Thread} {o : LaneOut} {dsts : List Spec} {β : Type} {view : Thread → β}

/-- The lane's results in its registers, predicates and bypass. -/
def Thread.filled (t : Thread) (dsts : List Spec) (o : LaneOut) : Thread :=
  o.empties.foldl (fun t i => t.emptyReg i) (if o.writes.isEmpty then dsts.foldl (fun t d => t.push d none) (t.frees o.frees)
    else o.writes.foldl (fun t w => t.write w.1 w.2) (t.frees o.frees))

/-- What does not see the bypass, nor what the results touch. -/
theorem view_filled (hb : ∀ (t : Thread) b, view { t with byp := b } = view t)
    (hf : ∀ x ∈ o.frees, x.last = true → ∀ i, x.spec = .v i → ∀ t, view (t.freeReg i.toNat) = view t)
    (hw : ∀ e ∈ o.writes, ∀ i, e.1.spec = .v i → e.1.byp = false → ∀ t, view (t.putReg i.toNat e.2) = view t)
    (hp : ∀ e ∈ o.writes, ∀ i, e.1.spec = .p i → ∀ t, view (t.putPred i.toNat (e.2.val != 0)) = view t)
    (he : ∀ i ∈ o.empties, ∀ t, view (t.emptyReg i) = view t) : view (t.filled dsts o) = view t := by
  have hfree : view (t.frees o.frees) = view t := foldl_unseen_mem view (f := fun t (s : Src) => match s.spec with
      | .v i => if s.last then t.freeReg i.toNat else t
      | _ => t) (fun t x hx => by
        split
        next i hs =>
          split
          next hl => exact hf x hx hl i hs t
          next => rfl
        next => rfl) t
  unfold Thread.filled
  rw [foldl_unseen_mem view (f := fun t i => t.emptyReg i) fun t i hi => he i hi t]
  split
  · rw [foldl_unseen_mem view (f := fun t d => t.push d none) fun t d _ => hb t _, hfree]
  · rw [foldl_unseen_mem view (f := fun (t : Thread) (w : Dst × TV) => t.write w.1 w.2), hfree]
    intro t e hmem
    unfold Thread.write
    split
    next i hs =>
      refine (hb _ _).trans ?_
      split
      · rfl
      next hbyp => exact hw e hmem i hs (Bool.eq_false_iff.2 hbyp) t
    next i hs => exact (hb _ _).trans (hp e hmem i hs t)
    next => exact hb _ _

theorem filled_calls : (t.filled dsts o).calls = t.calls :=
  view_filled (fun _ _ => rfl) (fun _ _ _ _ _ _ => rfl) (fun _ _ _ _ _ _ => rfl) (fun _ _ _ _ _ => rfl) fun _ _ _ => rfl

theorem apply_of_stay (hl : o.leave = none) : t.apply dsts o = { t.filled dsts o with calls := o.calls.getD t.calls } := by
  rw [← filled_calls (t := t) (dsts := dsts) (o := o)]
  simp only [Thread.apply, hl]
  rfl

/-- A thread with its results, in the clause or at the header it leaves for. -/
theorem apply_alike : Thread.Alike { t.filled dsts o with calls := o.calls.getD t.calls } (t.apply dsts o) := by
  cases hl : o.leave with
  | none => rw [apply_of_stay hl, Thread.Alike]
  | some n =>
    rw [← filled_calls (t := t) (dsts := dsts) (o := o)]
    simp only [Thread.apply, hl]
    rfl

theorem filled_regs {i : BitVec 7} (hi : o.touches (.v i) = false) : (t.filled dsts o).regs[i.toNat]? = t.regs[i.toNat]? := by
  simp only [LaneOut.touches, Bool.or_eq_false_iff, List.any_eq_false, Bool.and_eq_true, beq_iff_eq, not_and, Bool.not_eq_true'] at hi
  obtain ⟨⟨hwrites, hfrees⟩, hempties⟩ := hi
  have hset : ∀ {j : BitVec 7}, j ≠ i → ∀ (l : List Reg) r, (l.set j.toNat r)[i.toNat]? = l[i.toNat]? := fun hj l r =>
    List.getElem?_set_ne fun he => hj (BitVec.eq_of_toNat_eq he)
  refine view_filled (view := fun t => t.regs[i.toNat]?) (fun _ _ => rfl) (fun x hx hl j hj t => ?_) (fun e he j hj hb t => ?_)
    (fun _ _ _ _ _ => rfl) fun j hj t => ?_
  · have hne : j ≠ i := fun h => hfrees x hx hl (h ▸ hj)
    simp only [Thread.freeReg]
    split
    · exact hset hne _ _
    · rfl
  · exact hset (fun h => by simpa [hb] using hwrites e he (h ▸ hj)) _ _
  · have hne : j ≠ i.toNat := fun h => by simp [← h, hj] at hempties
    simp only [Thread.emptyReg]
    split
    · exact List.getElem?_set_ne hne
    · rfl

theorem filled_preds {i : BitVec 3} (hi : o.touches (.p i) = false) : (t.filled dsts o).preds[i.toNat]? = t.preds[i.toNat]? := by
  simp only [LaneOut.touches, Bool.or_eq_false_iff, List.any_eq_false, Bool.and_eq_true, beq_iff_eq, not_and] at hi
  refine view_filled (view := fun t => t.preds[i.toNat]?) (fun _ _ => rfl) (fun _ _ _ _ _ _ => rfl) (fun _ _ _ _ _ _ => rfl)
    (fun e he j hj t => List.getElem?_set_ne fun h => ?_) fun _ _ _ => rfl
  exact hi.1.1 e he (BitVec.eq_of_toNat_eq h ▸ hj) trivial

/-- A thread but for its registers, predicates, calls and bypass. -/
def Thread.rest (t : Thread) : Thread := { t with regs := [], preds := [], calls := [], byp := [] }

theorem filled_rest : (t.filled dsts o).rest = t.rest :=
  view_filled (fun _ _ => rfl) (fun _ _ _ _ _ _ => rfl) (fun _ _ _ _ _ _ => rfl) (fun _ _ _ _ _ => rfl) fun _ _ _ => rfl

end

/-! ### A commit as a whole -/

section
variable {s : State} {h : Here} {dsts : List Spec} {os : List (Nat × LaneOut)} {A : Prop}

theorem cores_freeWides (s : State) (k : WKey) (ls : List (Nat × LaneEnd)) : (s.freeWides k ls).c.cores = s.c.cores := by
  refine foldl_unseen (fun s : State => s.c.cores) (fun s r => ?_) _ s
  unfold State.freeWide
  split
  · dsimp only
    split
    · rfl
    · split
      · rfl
      · split <;> rfl
      · split
        · rfl
        · split <;> rfl
      · rfl
  · rfl

theorem cores_passUses (s : State) (k : WKey) (p : TileUse → Bool) (lanes : List Nat) : (s.passUses k p lanes).c.cores = s.c.cores := by
  unfold State.passUses
  split
  · rfl
  · split
    · rfl
    · exact foldl_unseen (fun s : State => s.c.cores) (f := fun s (u : TileUse) => s.dropTile k.pos u.acc u.prev) (fun _ _ => rfl) _ _

/-- A commit before the packet goes on. -/
def State.committed (s : State) (h : Here) (dsts : List Spec) (os : List (Nat × LaneOut)) : State :=
  (((s.freeWides h.a.wk (ArmOut.ofLanes os).lanes).modWarp h.a.wk
    (·.commit h.a.arm (partyOf h.c.warp h.a.arm) h.a.lanes h.p.scl dsts [] (.ofLanes os))).passLanes h.a.wk h.a.lanes h.p.idx).passUses
      h.a.wk (h.p.atUse ·) h.a.lanes

theorem done_eq : s.done h dsts os = (s.committed h dsts os).settlePacket h.core h.slot := rfl

/-- The warp at its next instruction, with the results. -/
def Warp.Committed (h : Here) (dsts : List Spec) (os : List (Nat × LaneOut)) (w u : Warp) : Prop :=
  ∃ v, Warp.Alike Thread.Moved [] w v ∧
    Warp.Alike Thread.Moved h.a.lanes (v.commit h.a.arm (partyOf h.c.warp h.a.arm) h.a.lanes h.p.scl dsts [] (.ofLanes os)) u

/-- Before the last uses are passed: a relation that sees a commit and the lanes move on. -/
theorem leaves_passed {R S : Warp → Warp → Prop} (hR : ∀ w, R w w) (hR' : ∀ w v u, R w v → R v u → R w u)
    (hview : ∀ (w : Warp) l, R w { w with view := l })
    (hS : ∀ w v, R w v → S w ((v.commit h.a.arm (partyOf h.c.warp h.a.arm) h.a.lanes h.p.scl dsts [] (.ofLanes os)).modThreads
      h.a.lanes fun t => if t.held && t.idx == h.p.idx then { t with idx := h.p.idx + 1 } else t)) :
    Leaves A h.a.wk S s (((s.freeWides h.a.wk (ArmOut.ofLanes os).lanes).modWarp h.a.wk
      (·.commit h.a.arm (partyOf h.c.warp h.a.arm) h.a.lanes h.p.scl dsts [] (.ofLanes os))).passLanes h.a.wk h.a.lanes h.p.idx) :=
  ((leaves_freeWides hR hR' hview _).trans
    (leaves_modWarp (f := (·.commit h.a.arm (partyOf h.c.warp h.a.arm) h.a.lanes h.p.scl dsts [] (.ofLanes os)))
      fun _ => commit_idx) (R'' := fun w u => ∃ v, R w v ∧
        u = v.commit h.a.arm (partyOf h.c.warp h.a.arm) h.a.lanes h.p.scl dsts [] (.ofLanes os)) fun w v x h1 h2 => ⟨v, h1, h2⟩).trans
    leaves_modWarp fun w v x ⟨y, h1, h2⟩ h3 => by rw [h3, h2]; exact hS w y h1

theorem leaves_committed (hat : s.here h) (hA : A → h.c.warp.uses = []) :
    Leaves A h.a.wk (Warp.Committed h dsts os) s (s.committed h dsts os) := by
  have hmoved : ∀ t : Thread, t.Moved t := fun _ => rfl
  have htrans : ∀ t u v : Thread, t.Moved u → u.Moved v → t.Moved v := fun _ _ _ => Thread.Moved.trans
  have hpass := leaves_passed (A := A) (s := s) (h := h) (dsts := dsts) (os := os) (R := Warp.Alike Thread.Moved [])
    (S := Warp.Committed h dsts os) (alike_refl hmoved) (fun _ _ _ h1 h2 => h1.trans htrans h2)
    (fun _ _ => .of_threads hmoved rfl rfl) fun w v h1 => ⟨v, h1, alike_modThreads (fun t => by split <;> rfl) hmoved⟩
  have huses := leaves_passed (A := A) (s := s) (h := h) (dsts := dsts) (os := os) (R := fun w u => u.uses = w.uses)
    (S := fun w u => u.uses = w.uses) (fun _ => rfl) (fun _ _ _ h1 h2 => h2.trans h1) (fun _ _ => rfl)
    fun w v h1 => commit_uses.trans h1
  refine hpass.trans (leaves_passUses (lanes := h.a.lanes) hmoved htrans fun a w hw => ?_)
    fun w v x ⟨y, h1, h2⟩ h3 => ⟨y, h1, h2.trans htrans h3⟩
  obtain ⟨u, hu, hsame⟩ := huses.warp _ (wk_of_here hat ▸ warpOf_here hat)
  rw [hw] at hu
  cases hu
  exact hsame.trans (hA a)

theorem packet_committed (hat : s.here h) : (s.committed h dsts os).packet? h.core h.slot = some h.p := by
  have hc : (s.committed h dsts os).c.cores = s.c.cores := (cores_passUses ..).trans (cores_freeWides ..)
  rw [← hat.packet, State.packet?, State.packet?, State.coreOf, State.coreOf, hc]

end

section
variable {s : State} {h : Here} {dsts : List Spec} {os : List (Nat × LaneOut)} {l : Nat} {t : Thread} {o : LaneOut}

/-! ### The thread of a lane after a commit -/

/-- What the results make of the thread of a lane. -/
def Here.result (h : Here) (dsts : List Spec) (os : List (Nat × LaneOut)) (l : Nat) (t : Thread) : Thread :=
  if h.p.scl then t
  else ((os.lookup l).map fun o => t.apply dsts o).getD
    (if h.a.lanes.contains l then dsts.foldl (fun t d => t.push d none) t else t)

theorem lookup_ofLanes : (ArmOut.ofLanes os).lanes.lookup l = (os.lookup l).map .out := by
  induction os with
  | nil => rfl
  | cons o os ih =>
    obtain ⟨i, x⟩ := o
    simp only [ArmOut.ofLanes, List.map_cons, List.lookup_cons] at ih ⊢
    cases l == i with
    | true => rfl
    | false => exact ih

theorem applied_threads (w : Warp) : (w.applied h.a.lanes h.p.scl dsts os).threads[l]? = (w.threads[l]?).map (h.result dsts os l) := by
  unfold Warp.applied Here.result
  cases h.p.scl with
  | true => simp
  | false =>
    simp only [Bool.false_eq_true, if_false, applyThreads, List.getElem?_mapIdx, lookup_ofLanes]
    cases os.lookup l <;> rfl

theorem thread_committed {w u : Warp} (hc : Warp.Committed h dsts os w u) (ht : w.threads[l]? = some t) :
    ∃ y, u.threads[l]? = some y ∧ (h.result dsts os l t).Moved y ∧ (l ∉ h.a.lanes → y = h.result dsts os l t) := by
  obtain ⟨v, hv, hu⟩ := hc
  obtain ⟨x, hx, -, hxt⟩ := hv.threads l t ht
  obtain rfl : x = t := hxt List.not_mem_nil
  exact hu.threads l _ (by rw [commit_threads, applied_threads, hx, Option.map_some])

theorem Warp.Alike.field {T : Thread → Thread → Prop} {lanes : List Nat} {w u : Warp} {α : Type} (h : Warp.Alike T lanes w u)
    (π : Warp → α) (hπ : ∀ w, π w.base = π w := by intro _; rfl) : π u = π w := by
  rw [← hπ u, h.base, hπ w]

/-- The registers of the warp itself after a commit. -/
theorem field_committed {w u : Warp} {α : Type} (hc : Warp.Committed h dsts os w u) (π : Warp → α)
    (hπ : ∀ w, π w.fixed = π w := by intro _; rfl) (hπ' : ∀ w, π w.base = π w := by intro _; rfl) : π u = π w := by
  obtain ⟨v, hv, hu⟩ := hc
  rw [hu.field π hπ', ← hπ, commit_fixed, hπ, hv.field π hπ']

/-- A thread but for where it stands, its registers, predicates and calls. -/
def Thread.saved (t : Thread) : Thread := { t.core with regs := [], preds := [], calls := [] }

theorem Thread.Alike.field {t u : Thread} {α : Type} (h : t.Alike u) (π : Thread → α) (hπ : ∀ t, π t.core = π t := by intro _; rfl) :
    π u = π t := by
  rw [← hπ u, h, hπ t]

theorem foldl_push_alike (ds : List Spec) (t : Thread) : t.Alike (ds.foldl (fun t d => t.push d none) t) :=
  foldl_unseen Thread.core (f := fun t d => t.push d none) (fun _ _ => rfl) ds t

/-- No result reaches a lane's thread, or those of its lane do. -/
theorem result_cases : t.Alike (h.result dsts os l t) ∨ ∃ o, os.lookup l = some o ∧ h.result dsts os l t = t.apply dsts o := by
  unfold Here.result
  split
  · exact .inl rfl
  · cases ho : os.lookup l with
    | some o => exact .inr ⟨o, rfl, rfl⟩
    | none =>
      simp only [Option.map_none, Option.getD_none]
      split
      · exact .inl (foldl_push_alike dsts t)
      · exact .inl rfl

theorem result_outside (hl : l ∉ h.a.lanes) (ho : os.lookup l = none) : h.result dsts os l t = t := by
  have hc : h.a.lanes.contains l = false := by simpa using hl
  unfold Here.result
  rw [ho, hc]
  exact ite_self _

theorem result_of_some (hs : h.p.scl = false) (ho : os.lookup l = some o) : h.result dsts os l t = t.apply dsts o := by
  rw [Here.result, hs, ho]
  rfl

theorem result_regs {i : BitVec 7} (hi : ∀ o, os.lookup l = some o → o.touches (.v i) = false) :
    (h.result dsts os l t).regs[i.toNat]? = t.regs[i.toNat]? := by
  rcases result_cases (h := h) (dsts := dsts) (os := os) (l := l) (t := t) with halike | ⟨o, ho, hr⟩
  · exact halike.field fun t => t.regs[i.toNat]?
  · rw [hr, (apply_alike (t := t) (o := o)).field fun t => t.regs[i.toNat]?]
    exact filled_regs (hi o ho)

theorem result_preds {i : BitVec 3} (hi : ∀ o, os.lookup l = some o → o.touches (.p i) = false) :
    (h.result dsts os l t).preds[i.toNat]? = t.preds[i.toNat]? := by
  rcases result_cases (h := h) (dsts := dsts) (os := os) (l := l) (t := t) with halike | ⟨o, ho, hr⟩
  · exact halike.field fun t => t.preds[i.toNat]?
  · rw [hr, (apply_alike (t := t) (o := o)).field fun t => t.preds[i.toNat]?]
    exact filled_preds (hi o ho)

theorem result_calls (hi : ∀ o, os.lookup l = some o → o.calls = none) :
    (h.result dsts os l t).calls = t.calls := by
  rcases result_cases (h := h) (dsts := dsts) (os := os) (l := l) (t := t) with halike | ⟨o, ho, hr⟩
  · exact halike.field Thread.calls
  · rw [hr, (apply_alike (t := t) (o := o)).field Thread.calls]
    rw [hi o ho]
    rfl

theorem result_saved :
    (h.result dsts os l t).saved = t.saved := by
  rcases result_cases (h := h) (dsts := dsts) (os := os) (l := l) (t := t) with halike | ⟨o, ho, hr⟩
  · exact halike.field Thread.saved
  · rw [hr, (apply_alike (t := t) (o := o)).field Thread.saved]
    exact congrArg Thread.core (filled_rest (t := t) (o := o) (dsts := dsts))

/-- A lane whose results do not leave the clause is still held. -/
theorem result_st (hi : ∀ o, os.lookup l = some o → o.leave = none) : (h.result dsts os l t).st = t.st := by
  unfold Here.result
  split
  · rfl
  · cases ho : os.lookup l with
    | none =>
      simp only [Option.map_none, Option.getD_none]
      split
      · exact foldl_unseen Thread.st (f := fun t d => t.push d none) (fun _ _ => rfl) dsts t
      · rfl
    | some o =>
      have hrest := congrArg Thread.st (filled_rest (t := t) (o := o) (dsts := dsts))
      simp only [Option.map_some, Option.getD_some, apply_of_stay (hi o ho)]
      exact hrest

theorem mem_of_lookup {α : Type} {os : List (Nat × α)} {l : Nat} {o : α} (ho : os.lookup l = some o) : (l, o) ∈ os := by
  obtain ⟨l₁, l₂, rfl, -⟩ := List.lookup_eq_some_iff.1 ho
  simp

/-- The whole of a commit: the warp with its results, then alike. -/
theorem leaves_done (hat : s.here h) (hend : h.p.idx + 1 < h.p.cnt ∨ (h.c.warp.recs = [] ∧ ∀ o ∈ os, o.2.leave = none)) :
    Leaves (h.c.warp.uses = []) h.a.wk (fun w x => ∃ u, Warp.Committed h dsts os w u ∧ Warp.Alike Thread.Alike h.a.lanes u x) s
      (s.done h dsts os) := by
  have hcom := leaves_committed (dsts := dsts) (os := os) hat (A := h.c.warp.uses = []) id
  obtain ⟨u, hu, huc⟩ := hcom.warp _ (wk_of_here hat ▸ warpOf_here hat)
  rw [done_eq]
  refine hcom.trans (leaves_settlePacket (packet_committed hat) hat.arm hu ?_) fun w v x h1 h2 => ⟨v, h1, h2⟩
  refine hend.imp id fun ⟨hrecs, hleave⟩ => ⟨(field_committed huc Warp.recs).trans hrecs, fun l hl => ?_⟩
  obtain ⟨t, ht, hst, -⟩ := hat.ready l hl
  obtain ⟨y, hy, hmoved, -⟩ := thread_committed huc ht
  have hyst : y.st = .packed := by
    rw [hmoved]
    exact (result_st fun o ho => hleave _ (mem_of_lookup ho)).trans hst
  exact ⟨y, hy, by rw [Thread.held, hyst]⟩

end

/-- Settles O20: a commit changes one warp, as its results tell, and nothing else that `Leaves` names. -/
theorem resultsFrame : Obligations.ResultsFrame := by
  intro s h dsts os hat hend t
  have hl := leaves_done (dsts := dsts) (os := os) hat hend
  refine ⟨hl.mem, hl.pend, hl.ops, hl.sectors, hl.tables, hl.mgmt, hl.now, hl.agenda, hl.others, hl.places, fun w hw => ?_,
    fun lane th hth => ?_⟩
  · obtain ⟨x, hx, u, hu, hux⟩ := hl.warp w hw
    have hfix : ∀ {α : Type} (π : Warp → α), (∀ w, π w.fixed = π w) → (∀ w, π w.base = π w) → π x = π w := fun π h1 h2 =>
      (hux.field π h2).trans (field_committed hu π h1 h2)
    obtain ⟨v, hv, hcu⟩ := hu
    refine ⟨x, hx, hfix _ (fun _ => rfl) (fun _ => rfl), hfix _ (fun _ => rfl) (fun _ => rfl), hfix _ (fun _ => rfl) (fun _ => rfl),
      hfix _ (fun _ => rfl) (fun _ => rfl), hfix _ (fun _ => rfl) (fun _ => rfl), ?_, fun i hi => ?_, fun hi => ?_, fun i hi => ?_⟩
    · rw [hux.field Warp.fstat, hcu.field Warp.fstat, commit_fstat, hv.field Warp.fstat]
    · rw [hux.field fun w => w.w[i.toNat]?, hcu.field fun w => w.w[i.toNat]?, commit_w hi, hv.field fun w => w.w[i.toNat]?]
    · rw [hux.field Warp.x, hcu.field Warp.x, commit_x hi, hv.field Warp.x]
    · rw [hux.field fun w => w.z[i.toNat]?, hcu.field fun w => w.z[i.toNat]?, commit_z hi, hv.field fun w => w.z[i.toNat]?]
  · obtain ⟨w, hw, hwt⟩ := threadOf_eq_some.1 hth
    obtain ⟨x, hx, u, hu, hux⟩ := hl.warp w hw
    obtain ⟨y, hy, hmoved, hout⟩ := thread_committed hu hwt
    obtain ⟨z, hz, halike, hzout⟩ := hux.threads lane y hy
    have hz' : (h.result dsts os lane th).Alike z := hmoved.staged.alike.trans halike
    have hsaved : ∀ {α : Type} (π : Thread → α), (∀ t, π t.saved = π t) → π z = π th := fun π hπ => by
      rw [← hπ z, hz'.field Thread.saved, result_saved, hπ]
    exact ⟨z, threadOf_eq_some.2 ⟨x, hx, hz⟩, fun hno hnone => (hzout hno).trans ((hout hno).trans (result_outside hno hnone)),
      fun i hi => (hz'.field fun t => t.regs[i.toNat]?).trans (result_regs hi),
      fun i hi => (hz'.field fun t => t.preds[i.toNat]?).trans (result_preds hi), fun hi => (hz'.field Thread.calls).trans (result_calls hi),
      hsaved _ fun _ => rfl, hsaved _ fun _ => rfl, hsaved _ fun _ => rfl, hsaved _ fun _ => rfl, hsaved _ fun _ => rfl,
      hsaved _ fun _ => rfl⟩

section
variable {s : State} {h : Here} {dsts : List Spec} {os : List (Nat × LaneOut)} {l : Nat} {t : Thread} {o : LaneOut}

/-! ### A commit within a clause -/

theorem threadOf_done_mid (hat : s.here h) (hscl : h.p.scl = false) (hmid : h.p.idx + 1 < h.p.cnt) (ht : s.threadOf h.a.wk l = some t)
    (ho : os.lookup l = some o) : ∃ u, (s.done h dsts os).threadOf h.a.wk l = some u ∧ (t.apply dsts o).Staged u := by
  have hl := (leaves_committed (dsts := dsts) (os := os) hat (A := False) (fun h => h.elim)).trans
    (leaves_settlePacket_mid (packet_committed hat) hat.arm hmid)
    (R'' := fun w x => ∃ u, Warp.Committed h dsts os w u ∧ Warp.Alike Thread.Staged h.a.lanes u x) fun w v x h1 h2 => ⟨v, h1, h2⟩
  obtain ⟨w, hw, hwt⟩ := threadOf_eq_some.1 ht
  obtain ⟨x, hx, u, hu, hux⟩ := hl.warp w hw
  obtain ⟨y, hy, hmoved, -⟩ := thread_committed hu hwt
  obtain ⟨z, hz, hstaged, -⟩ := hux.threads l y hy
  rw [result_of_some hscl ho] at hmoved
  exact ⟨z, threadOf_eq_some.2 ⟨x, hx, hz⟩, hmoved.staged.trans hstaged⟩

/-! ### The registers that results write -/

theorem frees_lengths (l : List Src) : (t.frees l).regs.length = t.regs.length ∧ (t.frees l).preds.length = t.preds.length := by
  have key : (fun t : Thread => (t.regs.length, t.preds.length)) (t.frees l) = (t.regs.length, t.preds.length) :=
    foldl_unseen (fun t : Thread => (t.regs.length, t.preds.length)) (f := fun t (s : Src) => match s.spec with
      | .v i => if s.last then t.freeReg i.toNat else t
      | _ => t) (fun t x => by
        split
        · split
          · simp only [Thread.freeReg]
            split
            · simp only [List.length_set]
              rfl
            · rfl
          · rfl
        · rfl) l t
  exact Prod.mk.inj key

theorem frees_of_not_last {l : List Src} (hl : ∀ x ∈ l, x.last = false) : t.frees l = t := by
  induction l with
  | nil => rfl
  | cons x l ih =>
    have hx : (match x.spec with
        | .v i => if x.last then t.freeReg i.toNat else t
        | _ => t) = t := by
      split
      · rw [if_neg (by simp [hl x List.mem_cons_self])]
      · rfl
    exact (congrArg (Thread.frees · l) hx).trans (ih fun y hy => hl y (List.mem_cons_of_mem _ hy))

/-- The results of one write. -/
theorem filled_of_write {d : Dst} {v : TV} (hw : o.writes = [(d, v)]) :
    t.filled dsts o = o.empties.foldl (fun t i => t.emptyReg i) ((t.frees o.frees).write d v) := by
  simp only [Thread.filled, hw, List.isEmpty_cons, Bool.false_eq_true, if_false, List.foldl_cons, List.foldl_nil]

/-- Results write no more registers than the thread has. -/
theorem written_length : (if o.writes.isEmpty then dsts.foldl (fun t d => t.push d none) (t.frees o.frees)
    else o.writes.foldl (fun t w => t.write w.1 w.2) (t.frees o.frees)).regs.length = t.regs.length := by
  split
  · exact (foldl_unseen (fun t : Thread => t.regs.length) (f := fun t d => t.push d none) (fun _ _ => rfl) _ _).trans (frees_lengths _).1
  · refine (foldl_unseen (fun t : Thread => t.regs.length) (f := fun (t : Thread) (w : Dst × TV) => t.write w.1 w.2) (fun t e => ?_) _ _).trans
      (frees_lengths _).1
    unfold Thread.write
    split
    · split
      · rfl
      · exact List.length_set
    · rfl
    · rfl

theorem filled_v {d : Dst} {v : TV} {i : BitVec 7} (hd : d.spec = .v i) (hw : o.writes = [(d, v)]) (he : o.empties = [])
    (hi : i.toNat < t.regs.length) (hb : d.byp = false) : (t.filled dsts o).regs[i.toNat]? = some ⟨.full, v⟩ := by
  have hlen := (frees_lengths (t := t) o.frees).1
  rw [filled_of_write hw, he, List.foldl_nil]
  simp only [Thread.write, hd, hb, Bool.false_eq_true, if_false, Thread.push, Thread.putReg]
  exact List.getElem?_set_self (by omega)

theorem filled_byp {d : Dst} {v : TV} {i : BitVec 7} (hd : d.spec = .v i) (hw : o.writes = [(d, v)]) (he : o.empties = [])
    (hb : d.byp = true) (hf : ∀ x ∈ o.frees, x.last = false) : t.filled dsts o = t.push d.spec (some v) := by
  rw [filled_of_write hw, he, List.foldl_nil, frees_of_not_last hf]
  simp only [Thread.write, hd, hb, if_true]

theorem filled_p {d : Dst} {v : TV} {i : BitVec 3} (hd : d.spec = .p i) (hw : o.writes = [(d, v)]) (hi : i.toNat < t.preds.length) :
    (t.filled dsts o).preds[i.toNat]? = some (v.val != 0) := by
  have hlen := (frees_lengths (t := t) o.frees).2
  rw [filled_of_write hw]
  refine (foldl_unseen (fun t : Thread => t.preds[i.toNat]?) (f := fun t i => t.emptyReg i) (fun _ _ => rfl) _ _).trans ?_
  simp only [Thread.write, hd, Thread.push, Thread.putPred]
  exact List.getElem?_set_self (by omega)

theorem emptyReg_st {n : Nat} (hn : n < t.regs.length) : ((t.emptyReg n).regs[n]?).map (·.st) = some .empty := by
  simp only [Thread.emptyReg, List.getElem?_eq_getElem hn, List.getElem?_set_self hn, Option.map_some]

theorem freeReg_st {n : Nat} (hn : n < t.regs.length) : ((t.freeReg n).regs[n]?).map (·.st) = some .freed := by
  simp only [Thread.freeReg, List.getElem?_eq_getElem hn, List.getElem?_set_self hn, Option.map_some]

theorem filled_empty {i : BitVec 7} (he : o.empties = [i.toNat]) (hi : i.toNat < t.regs.length) :
    ((t.filled dsts o).regs[i.toNat]?).map (·.st) = some .empty := by
  simp only [Thread.filled, he, List.foldl_cons, List.foldl_nil]
  exact emptyReg_st (by rw [written_length]; exact hi)

theorem filled_freed {i : BitVec 7} {b : Bool} (hf : o.frees = [⟨.v i, true, b⟩]) (hw : o.writes = []) (he : o.empties = [])
    (hi : i.toNat < t.regs.length) : ((t.filled dsts o).regs[i.toNat]?).map (·.st) = some .freed := by
  simp only [Thread.filled, hw, he, hf, List.isEmpty_nil, if_true, List.foldl_nil]
  rw [foldl_unseen (fun t : Thread => (t.regs[i.toNat]?).map (·.st)) (f := fun t d => t.push d none) (fun _ _ => rfl)]
  simp only [Thread.frees, List.foldl_cons, List.foldl_nil, if_true]
  exact freeReg_st hi

end

/-! ### A lane register read -/

section
variable {c : RCtx} {t : Thread} {field : Nat} {i : BitVec 7} {src : Src} {v : TV}

theorem rd_lane (ht : c.thread = some t) (hs : src.spec = .v i) :
    rd c field src = (readLane field src t i.toNat).map (ofTV field (.v i)) := by
  simp only [rd, hs, ht]

theorem readLane_byp {r : Reg} (hr : t.regs[i.toNat]? = some r) (hv : bypGet t.byp src.spec = some v) :
    readLane field src t i.toNat = .ok v := by
  simp only [readLane, hr, hv]

/-- A lane register whose newest result is in the file. -/
theorem readLane_file {r : Reg} (hr : t.regs[i.toNat]? = some r) (hv : bypGet t.byp src.spec = none) :
    (r.st = .full → readLane field src t i.toNat = .ok r.v) ∧ (r.st = .freed → readLane field src t i.toNat = .ok .zero) ∧
      (r.st = .empty → src.trap = true → readLane field src t i.toNat = .trap (opTrap .emptyRead field src.spec)) ∧
      (r.st = .empty → src.trap = false → readLane field src t i.toNat = t.awaitFill i.toNat) := by
  refine ⟨fun h => ?_, fun h => ?_, fun h hs => ?_, fun h hs => ?_⟩
  · simp only [readLane, hr, hv, h]
  · simp only [readLane, hr, hv, h]
  · simp only [readLane, hr, hv, h, hs, if_true]
  · simp only [readLane, hr, hv, h, hs, Bool.false_eq_true, if_false]

theorem awaitFill_eq {α : Type} (n : Nat) : (t.logOf n = none → (t.awaitFill n : LaneStep α) = .stall) ∧
    ∀ e, t.logOf n = some e → (t.awaitFill n : LaneStep α) = .park (.pageFault e) :=
  ⟨fun h => by simp only [Thread.awaitFill, h], fun e h => by simp only [Thread.awaitFill, h]⟩

end

/-- Settles O21: a thread after a commit is the thread with its lane's results; a read takes the bypass, then the file. -/
theorem registersReadAndWritten : Obligations.RegistersReadAndWritten := by
  constructor
  · intro s h d v o os lane th hat hscl hmid ht ho
    obtain ⟨u, hu, hstaged⟩ := threadOf_done_mid (dsts := [d.spec]) hat hscl hmid ht ho
    have hregs : u.regs = (th.filled [d.spec] o).regs := by
      rw [hstaged]
      exact (apply_alike (t := th) (o := o)).field Thread.regs
    have hpreds : u.preds = (th.filled [d.spec] o).preds := by
      rw [hstaged]
      exact (apply_alike (t := th) (o := o)).field Thread.preds
    refine ⟨u, hu, fun i hd hw he hi => ⟨fun hb => ?_, fun hb hleave hf => ?_⟩, fun i hd hw hi => ?_, fun i hd he hi => ?_,
      fun i b hf hw he hi => ?_⟩
    · rw [hregs, filled_v hd hw he hi hb]
    · refine ⟨by rw [hregs, filled_byp hd hw he hb hf]; rfl, ?_⟩
      rw [hstaged, apply_of_stay hleave, filled_byp hd hw he hb hf]
      rfl
    · rw [hpreds, filled_p hd hw hi]
    · rw [hregs, filled_empty he hi]
    · rw [hregs, filled_freed hf hw he hi]
  · intro c t field i src ht hs
    rw [rd_lane ht hs]
    refine ⟨fun hlen => ?_, fun e v hi hfind hv => ?_, fun hfind => ?_⟩
    · rw [readLane, List.getElem?_eq_none hlen, hs]
      rfl
    · rw [readLane_byp (List.getElem?_eq_getElem hi) (v := v) (by rw [bypGet, hs, hfind]; exact hv)]
      rfl
    · have hbyp : bypGet t.byp src.spec = none := by rw [bypGet, hs, hfind]; rfl
      refine ⟨fun r hr hst => ?_, fun r hr hst => ?_, fun r hr hst htrap => ?_, fun r hr hst htrap => ?_⟩
      all_goals obtain ⟨hfull, hfreed, hempty, hwaits⟩ := readLane_file (field := field) (src := src) hr hbyp
      · rw [hfull hst]
        rfl
      · rw [hfreed hst]
        rfl
      · rw [hempty hst htrap, hs]
        rfl
      · obtain ⟨hstall, hpark⟩ := awaitFill_eq (α := TV) (t := t) i.toNat
        rw [hwaits hst htrap]
        exact ⟨fun hn => by rw [hstall hn]; rfl, fun e he => by rw [hpark e he]; rfl⟩

end Sys2Proof.Machine

/-! PROOF. Copies, waits and tag searches (R214, R226, R227). -/

namespace Sys2Proof.Machine

section
variable {s : State} {h : Here} {g : Guard} {i : Instr} {dsts : List Spec} {P : State → RCtx → LaneOut → State → Prop}

/-! ### Lanes in turn, from the state as it stands -/

/-- `turns_of` for an instruction that acquires no baton early. -/
theorem turns_here {f : ArmFn} (hat : s.here h)
    (hf : ∀ os t, State.InTurn P s (h.lanes g) os t → f s (h.lanes g) = (.done (.ofLanes os), t))
    (he : exec i s = .next (s.runArms { g := g, dsts := dsts } f)) : s.Turns h g dsts [] i P := by
  intro os t ht
  rw [State.acquires, takesBatons_none batonsOf_nil] at ht
  rw [he, runArms_here hat rfl (by simp) (s1 := t) (o := os)]
  rw [State.acquires, takesBatons_none batonsOf_nil]
  exact hf os t ht

theorem detBan_ok {form : Bool} {f : ArmFn} (hd : form = true → s.det? h.c.pos = false) :
    detBan form f s (h.lanes g) = f s (h.lanes g) := by
  have hcond : (form && (h.lanes g).any fun c => s.det? c.pos) = false := by
    cases form with
    | false => rfl
    | true =>
      refine List.any_eq_false.2 fun k hk => ?_
      rw [(lanes_warp hk).2.1, hd rfl]
      simp
  rw [detBan, if_neg (by rw [hcond]; simp)]

/-! ### Copies -/

theorem exec_turn_copy {red : Option (CpyOp × RelFmt)} {hd hs : BitVec 4} {q : Src} {x : RCtx → BitVec 128 × BitVec 128 × BitVec 128}
    (he : h.epochs) (hx : ∀ k ∈ h.lanes g, rdCopy k hd hs q = .ok (x k))
    (hP : ∀ s k o u, P s k o u → s.issueCopy k (x k) red (srcRun q 4) = (.out o, u)) {os : List (Nat × LaneOut)} {t : State}
    (ht : State.InTurn P s (h.lanes g) os t) :
    epochGuard (perLane (fun _ c => rdCopy c hd hs q) fun s c a => s.issueCopy c a red (srcRun q 4)) s (h.lanes g)
      = (.done (.ofLanes os), t) := by
  rw [epochGuard_ok he]
  exact perLane_turn (x := x) hx hP ht

/-- A copy that passes its checks. -/
theorem issueCopy_ok {k : RCtx} {d r w : BitVec 128} {red : Option (CpyOp × RelFmt)} {srcs : List Src} {v : Viewer} {p : Position}
    (hc : s.copyCheck k d r w red = none) (hv : s.viewer k.wk k.arm = some v) (hp : s.posOf k.pos.id = some p)
    (hn : (s.copiesOf k.pos.core).length < 32) (ht : p.tagsTake [cpyTag w] = true)
    (hr : s.racesAt v p r (recBytes r (cpySrce w) (cpyCount w) (cpyBytes w)) .read = none)
    (hw : s.racesAt v p d (recBytes d (cpyDste w) (cpyCount w) (cpyBytes w)) .write = none) :
    s.issueCopy k (d, r, w) red srcs = (.out { frees := srcs },
      if cpyCount w = 0 then
        ((((((if v.det then s.fenceBy v 3 else s).recordAll v p r (recBytes r (cpySrce w) (cpyCount w) (cpyBytes w)) .read).recordAll v p d
          (recBytes d (cpyDste w) (cpyCount w) (cpyBytes w)) .write).modPos p.id
            (·.modTag (cpyTag w) (·.issue (s.releaseOf v.wk k.arm v)))).modPos p.id
              (·.modTag (cpyTag w) (·.complete none))).modWarp v.wk (·.tick k.arm))
      else ((((if v.det then s.fenceBy v 3 else s).recordAll v p r (recBytes r (cpySrce w) (cpyCount w) (cpyBytes w)) .read).recordAll v p d
        (recBytes d (cpyDste w) (cpyCount w) (cpyBytes w)) .write).issueOp v k [cpyTag w] (.copy d r w red) 1 false)) := by
  have hfull : (decide (32 ≤ (s.copiesOf k.pos.core).length) || !p.tagsTake [cpyTag w]) = false := by
    rw [ht, Bool.not_true, Bool.or_false, decide_eq_false_iff_not]
    omega
  simp only [State.issueCopy, hc, hv, hp, hfull, hr, hw, Option.or_none, Bool.false_eq_true, if_false]
  split <;> rfl

/-! ### An operation issued on a tag -/

theorem performReds_of_none {q : PStore → Bool} (hq : ∀ e ∈ s.c.pend, e.red.isSome = true → q e = false) : s.performReds q = s := by
  have hnil : s.c.pend.filter (fun e => e.red.isSome && q e) = [] := by
    rw [List.filter_eq_nil_iff]
    intro e he
    cases hr : e.red.isSome with
    | false => simp
    | true => simp [hq e he hr]
  rw [State.performReds, hnil]
  rfl

theorem issue_count (t : CTag) (f : Frontier) : (t.issue f).count = t.count + 1 ∧
    (t.count = 0 → (t.issue f).tge = false ∧ (t.issue f).cause = none) ∧
    (t.count ≠ 0 → (t.issue f).tge = t.tge ∧ (t.issue f).cause = t.cause) := by
  unfold CTag.issue
  split
  next h0 => exact ⟨by rw [h0], fun _ => ⟨rfl, rfl⟩, fun h => absurd h0 h⟩
  next h0 => exact ⟨rfl, fun h => absurd h h0, fun _ => ⟨rfl, rfl⟩⟩

theorem tags_modTag {p : Position} {n : Nat} {t : CTag} (ht : p.tags[n]? = some t) (f : CTag → CTag) :
    (p.modTag n f).tags[n]? = some (f t) := by
  simp only [Position.modTag, List.getElem?_mapIdx, ht, Option.map_some, if_true]

theorem posOf_modWarp {k : WKey} {f : Warp → Warp} {p : Position} (hp : s.posOf k.pos = some p) :
    (s.modWarp k f).posOf k.pos = some (p.modBlock k.stage (·.modWarp k.warp f)) := by
  refine (State.posOf_modPos s k.pos (·.modBlock k.stage (·.modWarp k.warp f)) fun _ => rfl).trans ?_
  rw [hp, Option.map_some]

theorem issueOp_tag {v : Viewer} {c : RCtx} {tag need : Nat} {k : OpKind} {mtx : Bool} {p : Position} {t : CTag}
    (hp : s.posOf v.wk.pos = some p) (ht : p.tags[tag]? = some t)
    (hr : ∀ e ∈ s.c.pend, e.red.isSome = true → e.owner ≠ v.party → before v.front e.owner e.epoch = false) :
    let u := s.issueOp v c [tag] k need mtx
    u.c.ops.length = s.c.ops.length + 1 ∧ u.c.mem = s.c.mem ∧ u.c.pend = s.c.pend ∧
      (∃ o ∈ u.c.ops, o.id = s.nextId ∧ o.kind = k ∧ o.tags = [tag] ∧ o.st = .issued ∧ o.party = v.party) ∧
      ∃ q x, u.posOf v.wk.pos = some q ∧ q.tags[tag]? = some x ∧ q.stash = p.stash ∧ x.count = t.count + 1 ∧
        (t.count = 0 → x.tge = false ∧ x.cause = none) ∧ (t.count ≠ 0 → x.tge = t.tge ∧ x.cause = t.cause) := by
  have hreds : (s.performReds fun e => e.owner != v.party && before v.front e.owner e.epoch) = s :=
    performReds_of_none fun e he hsome => by
      by_cases ho : e.owner = v.party
      · simp [ho]
      · rw [hr e he hsome ho, Bool.and_false]
  dsimp only
  rw [State.issueOp, hreds]
  dsimp only [List.foldl_cons, List.foldl_nil]
  refine ⟨List.length_append, rfl, rfl, ⟨_, List.mem_append_right _ (List.mem_singleton_self _), rfl, rfl, rfl, rfl, rfl⟩, ?_⟩
  obtain ⟨hcount, hfirst, hmore⟩ := issue_count t (if k.releases tag then s.releaseOf v.wk c.arm v else [])
  refine ⟨_, _, posOf_modWarp (p := p.modTag tag (·.issue (if k.releases tag then s.releaseOf v.wk c.arm v else []))) ?_,
    tags_modTag ht _, rfl, hcount, hfirst, hmore⟩
  refine (State.posOf_modPos s.fresh.2 v.wk.pos (·.modTag tag (·.issue (if k.releases tag then s.releaseOf v.wk c.arm v else [])))
    fun _ => rfl).trans ?_
  exact congrArg _ hp

/-! ### Waiting on tags -/

/-- The tags of a position. -/
def State.tagsOf (s : State) (i : Nat) : Option (List CTag) := (s.posOf i).map (·.tags)

theorem tagsOf_modWarp (s : State) (k : WKey) (f : Warp → Warp) (j : Nat) : (s.modWarp k f).tagsOf j = s.tagsOf j :=
  map_find?_upd (α := Position) (·.id == k.pos) (q := (·.id == j)) (f := (·.modBlock k.stage (·.modWarp k.warp f)))
    (view := Position.tags) (fun _ => rfl) (fun _ => rfl) s.c.positions

theorem tagsOf_acquireTags (c : RCtx) (l : List Nat) (j : Nat) : (s.acquireTags c l).tagsOf j = s.tagsOf j := by
  unfold State.acquireTags
  split
  · exact tagsOf_modWarp ..
  · rfl

/-- Lanes that act in turn without changing a view see it as it stood before the first of them. -/
theorem inTurn_view {β : Type} {view : State → β} (hv : ∀ s k o u, P s k o u → view u = view s) {Q : β → RCtx → Prop}
    (hQ : ∀ s k o u, P s k o u → Q (view s) k) {ks : List RCtx} {os : List (Nat × LaneOut)} {t : State}
    (ht : State.InTurn P s ks os t) : ∀ k ∈ ks, Q (view s) k := by
  induction ks generalizing s os with
  | nil => exact fun _ hk => absurd hk List.not_mem_nil
  | cons k ks ih =>
    obtain ⟨o, u, rest, -, hp, -, hrest⟩ := ht
    intro l hl
    rcases List.mem_cons.1 hl with rfl | hl
    · exact hQ _ _ _ _ hp
    · rw [← hv _ _ _ _ hp]
      exact ih hrest l hl

/-- Lanes that wait on tags, none of which has to. -/
theorem wait_turn {met : (Nat → Bool) → List Nat → Bool} {meets : State → RCtx → List Nat → Bool} {wt : List Nat → Wait} {hi : Bool} {m : Src} {tags : RCtx → List Nat}
    {act : State → RCtx → List Nat → LaneEnd × State} (he : h.epochs)
    (hmeets : ∀ k, (∀ q, s.posOf k.pos.id = some q → met q.tagDone (tags k) = true) → meets s k (tags k) = true) (hm : ∀ k ∈ h.lanes g, rdMask s k hi m = .ok (tags k))
    (htags : ∀ s k o u, P s k o u → ∀ j, u.tagsOf j = s.tagsOf j)
    (hmet : ∀ s k o u, P s k o u → ∀ q, s.posOf k.pos.id = some q → met q.tagDone (tags k) = true)
    (hact : ∀ s k o u, P s k o u → act s k (tags k) = (.out o, u)) {os : List (Nat × LaneOut)} {t : State}
    (ht : State.InTurn P s (h.lanes g) os t) :
    epochGuard (perLane (fun s c => (rdMask s c hi m).bind fun tags =>
      LaneStep.await (meets s c tags) (wt tags) tags) act) s (h.lanes g) = (.done (.ofLanes os), t) := by
  rw [epochGuard_ok he]
  have hdone : ∀ l : List CTag, ∀ q : Position, q.tags = l → q.tagDone = fun i => (l[i]?).all (·.count == 0) := by
    rintro _ q rfl
    rfl
  have hall := inTurn_view (view := State.tagsOf) (fun s k o u hp => funext (htags s k o u hp))
    (Q := fun view k => ∀ l, view k.pos.id = some l → met (fun i => (l[i]?).all (·.count == 0)) (tags k) = true)
    (fun s k o u hp l hl => by
      obtain ⟨q, hq, hqt⟩ := Option.map_eq_some_iff.1 hl
      rw [← hdone l q hqt]
      exact hmet s k o u hp q hq) ht
  refine perLane_turn (x := tags) (fun k hk => ?_) hact ht
  have hok : meets s k (tags k) = true := hmeets k fun q hq => by
    rw [hdone q.tags q rfl]
    exact hall k hk q.tags (by rw [State.tagsOf, hq, Option.map_some])
  simp only [hm k hk, LaneStep.bind, LaneStep.await, hok, if_true]

theorem tagsMet_of {k : RCtx} {met : (Nat → Bool) → Bool} (hk : ∀ q, s.posOf k.pos.id = some q → met q.tagDone = true) :
    s.tagsMet k met = true := by
  unfold State.tagsMet
  cases hq : s.posOf k.pos.id with
  | none => rfl
  | some q => exact hk q hq

theorem waitEnd_none {m : Src} {bad : Option (Nat × Cause)} (hb : bad = none) : waitEnd none m bad = .out { frees := [m] } := by
  rw [hb]
  rfl

theorem waitEnd_some (d : BitVec 3) (m : Src) (bad : Option (Nat × Cause)) : waitEnd (some d) m bad =
    .out { writes := [(⟨.p d, false⟩, ⟨if bad.isNone then 1 else 0, F.n32⟩)], frees := [m] } := rfl

/-- What `waitt` does in a lane whose tags are done. -/
def waittAct (pd : Option (BitVec 3)) (m : Src) (s : State) (c : RCtx) (tags : List Nat) : LaneEnd × State :=
  match s.posOf c.pos.id with
  | none => (.out {}, s)
  | some q =>
    match waitEnd pd m (q.tge tags) with
      | .trap t => (.trap t, s)
      | e => (e, s.acquireTags c tags)

theorem waittAct_ok {pd : Option (BitVec 3)} {m : Src} {k : RCtx} {tags : List Nat} {q : Position} {o : LaneOut}
    (hq : s.posOf k.pos.id = some q) (hw : waitEnd pd m (q.tge tags) = .out o) :
    waittAct pd m s k tags = (.out o, s.acquireTags k tags) := by
  simp only [waittAct, hq, hw]

/-- What `waita` does in a lane that names no tag, or one that is done. -/
def waitaAct (pd : Option (BitVec 3)) (m : Src) (s : State) (c : RCtx) (tags : List Nat) : LaneEnd × State :=
  match s.posOf c.pos.id with
  | none => (.out {}, s)
  | some q =>
    match tags, tags.find? q.tagDone with
    | [], _ => (match pd with
        | some d => .out { writes := [(⟨.p d, false⟩, boolTV false)], frees := [m] }
        | none => .out { frees := [m] }, s)
    | _, none => (.out {}, s)
    | _, some t =>
      match waitEnd pd m (q.tge [t]) with
      | .trap x => (.trap x, s)
      | e => (e, s.acquireTags c [t])

theorem waitaAct_nil {pd : Option (BitVec 3)} {m : Src} {k : RCtx} {q : Position} (hq : s.posOf k.pos.id = some q) :
    waitaAct pd m s k [] = (.out { writes := pd.toList.map fun d => (⟨.p d, false⟩, ⟨0, F.n32⟩), frees := [m] }, s) := by
  simp only [waitaAct, hq]
  cases pd <;> rfl

theorem waitaAct_ok {pd : Option (BitVec 3)} {m : Src} {k : RCtx} {tags : List Nat} {q : Position} {t : Nat} {o : LaneOut}
    (hq : s.posOf k.pos.id = some q) (ht : tags.find? q.tagDone = some t) (hw : waitEnd pd m (q.tge [t]) = .out o) :
    waitaAct pd m s k tags = (.out o, s.acquireTags k [t]) := by
  cases tags with
  | nil => cases ht
  | cons a l => simp only [waitaAct, hq, ht, hw]

theorem turns_waitt {hi : Bool} {pd : Option (BitVec 3)} {m : Src} {tags : RCtx → List Nat} (hat : s.here h) (he : h.epochs)
    (hm : ∀ k ∈ h.lanes g, rdMask s k hi m = .ok (tags k))
    (hP : ∀ s k o u, P s k o u → ∃ q, s.posOf k.pos.id = some q ∧ (∀ t ∈ tags k, q.tagDone t = true) ∧ u = s.acquireTags k (tags k) ∧
      waitEnd pd m (q.tge (tags k)) = .out o) : s.Turns h g (pd.toList.map .p) [] (.waitt hi g pd m) P := by
  refine turns_here hat (fun os t ht => wait_turn (met := fun q tags => tags.all q)
    (meets := fun s c tags => s.tagsMet c tags.all) (wt := .tagsAll) (act := waittAct pd m) he (fun k hk => tagsMet_of hk) hm
    (fun s k o u hp => ?_) (fun s k o u hp => ?_) (fun s k o u hp => ?_) ht) rfl
  all_goals obtain ⟨q, hq, hdone, rfl, hw⟩ := hP s k o u hp
  · exact tagsOf_acquireTags k (tags k)
  · intro q' hq'
    rw [hq] at hq'
    cases hq'
    exact List.all_eq_true.2 hdone
  · exact waittAct_ok hq hw

theorem turns_waita {hi : Bool} {pd : Option (BitVec 3)} {m : Src} {tags : RCtx → List Nat} (hat : s.here h) (he : h.epochs)
    (hd : s.det? h.c.pos = false) (hm : ∀ k ∈ h.lanes g, rdMask s k hi m = .ok (tags k))
    (hP : ∀ s k o u, P s k o u → ∃ q, s.posOf k.pos.id = some q ∧
      ((tags k = [] ∧ u = s ∧ o = { writes := pd.toList.map fun d => (⟨.p d, false⟩, ⟨0, F.n32⟩), frees := [m] }) ∨
        ∃ t, (tags k).find? q.tagDone = some t ∧ u = s.acquireTags k [t] ∧ waitEnd pd m (q.tge [t]) = .out o)) :
    s.Turns h g (pd.toList.map .p) [] (.waita hi g pd m) P := by
  refine turns_here hat (fun os t ht => (detBan_ok (form := true) fun _ => hd).trans (wait_turn
    (met := fun q tags => tags.isEmpty || tags.any q) (meets := fun s c tags => tags.isEmpty || s.tagsMet c tags.any)
    (wt := .tagsAny) (act := waitaAct pd m) he (fun k hk => ?_) hm (fun s k o u hp => ?_) (fun s k o u hp => ?_) (fun s k o u hp => ?_) ht)) rfl
  · cases hnil : (tags k).isEmpty with
    | true => rfl
    | false => exact tagsMet_of fun q hq => by simpa [hnil] using hk q hq
  all_goals obtain ⟨q, hq, ⟨htags, rfl, rfl⟩ | ⟨t, ht, rfl, hw⟩⟩ := hP s k o u hp
  · exact fun _ => rfl
  · exact tagsOf_acquireTags k [t]
  · exact fun _ _ => by rw [htags]; rfl
  · intro q' hq'
    rw [hq] at hq'
    cases hq'
    rw [Bool.or_eq_true, List.any_eq_true]
    exact .inr ⟨t, List.mem_of_find?_eq_some ht, List.find?_some ht⟩
  · rw [htags]
    exact waitaAct_nil hq
  · exact waitaAct_ok hq ht hw

/-! ### Searching tags -/

/-- `delivers_of` for an instruction that reads the state as it stands. -/
theorem delivers_here {d : Dst} {srcs : List Src} {f : ArmFn} {step : RCtx → LaneStep LaneOut} {val : RCtx → TV × Flags} (hat : s.here h)
    (hf : f s (h.lanes g) = (laneWise step (h.lanes g), s))
    (hstep : ∀ k ∈ h.lanes g, wrOk k d srcs = .ok () → step k = .ok (.one d srcs (val k)))
    (he : exec i s = .next (s.runArms { g := g, dsts := [d.spec] } f)) : s.Delivers h g d srcs i val := by
  intro hw hb
  rw [he, runArms_here (s1 := s) (o := (h.lanes g).map fun k => (k.lane, .one d srcs (val k))) hat rfl (by simp)]
  · rfl
  · rw [State.acquires, takesBatons_none batonsOf_nil, hf,
      laneWise_ok (r := fun k => .one d srcs (val k)) (fun k hk => hstep k hk (hw k hk)) (batonWrites_one hb)]

/-- What `tfind` looks up in a lane. -/
def tfindStep (kind : BitVec 2) (hi : Bool) (d : Dst) (m : Src) (s : State) (c : RCtx) : LaneStep LaneOut :=
  let none' : Word := 0xFFFFFFFF
  if kind == 2 then
    (rdCount c m).bind fun n => (LaneStep.require (decide (n < s.stageTags c)) noTag).bind fun _ =>
      outD c d ⟨match (c.pos.tags[n]?).bind (·.cause) with
        | some x => x.code.setWidth 32
        | none => none', F.n32⟩ [m]
  else
    (rdMask s c hi m).bind fun tags =>
      let r := if kind == 0 then tags.find? c.pos.tagDone else (c.pos.tge tags).map (·.1)
      outD c d ⟨match r with
        | some i => BitVec.ofNat 32 i
        | none => none', F.n32⟩ [m]

theorem delivers_tfind {kind : BitVec 2} {hi : Bool} {d : Dst} {m : Src} {val : RCtx → TV} (hat : s.here h)
    (hd : (kind != 2) = true → s.det? h.c.pos = false)
    (hstep : ∀ k ∈ h.lanes g, tfindStep kind hi d m s k = outD k d (val k) [m]) :
    s.Delivers h g d [m] (.tfind kind hi g d m) (noFlags val) := by
  refine delivers_here hat (f := detBan (kind != 2) fun s cs => (laneWise (tfindStep kind hi d m s) cs, s))
    (step := tfindStep kind hi d m s) (detBan_ok hd) (fun k hk hw => ?_) rfl
  rw [hstep k hk]
  exact outD_ok hw _ _

end

/-- Settles O22: copies, waits and tag searches act lane by lane; a wait reads tags that no lane before it changes. -/
theorem copyInstructions : Obligations.CopyInstructions := by
  refine ⟨⟨?_, fun s v c tag need k mtx p t => issueOp_tag⟩,
    fun s h g hi m tags hat he hm => ⟨fun pd => turns_waitt hat he hm ?_, fun pd hd => turns_waita hat he hd hm ?_,
      fun d hd => ⟨delivers_tfind hat (fun _ => hd) fun k hk => ?_, delivers_tfind hat (fun _ => hd) fun k hk => ?_⟩,
      fun d n hn => delivers_tfind hat (fun h => absurd h (by decide)) fun k hk => ?_⟩⟩
  · intro s h g hd hs q x hat he hx issues
    have hissue : ∀ red s k o u, issues red s k o u → s.issueCopy k (x k) red (srcRun q 4) = (.out o, u) := by
      rintro red s k o u ⟨v, p, hv, hp, hc, hn, ht, hr, hw, rfl, rfl⟩
      exact issueCopy_ok hc hv hp hn ht hr hw
    exact ⟨turns_here hat (fun os t ht => exec_turn_copy he hx (hissue none) ht) rfl, fun op f hdet =>
      turns_here hat (fun os t ht => (detBan_ok fun hfloat => hdet (by simpa [floatAdd] using hfloat)).trans
        (exec_turn_copy he hx (hissue _) ht)) rfl⟩
  · rintro s k o u ⟨q, hq, hdone, rfl, hw⟩
    refine ⟨q, hq, hdone, rfl, ?_⟩
    cases pd with
    | none =>
      obtain ⟨hnone, rfl⟩ := hw
      exact waitEnd_none hnone
    | some d =>
      rw [hw]
      rfl
  · rintro s k o u (⟨htags, ⟨q, hq⟩, rfl, rfl⟩ | ⟨q, t, hq, ht, rfl, hw⟩)
    · exact ⟨q, hq, .inl ⟨htags, rfl, rfl⟩⟩
    · refine ⟨q, hq, .inr ⟨t, ht, rfl, ?_⟩⟩
      cases pd with
      | none =>
        obtain ⟨hnone, rfl⟩ := hw
        exact waitEnd_none hnone
      | some d =>
        rw [hw]
        rfl
  · simp only [tfindStep, hm k hk]
    rfl
  · simp only [tfindStep, hm k hk, LaneStep.bind, BitVec.reduceBEq, Bool.false_eq_true, if_false]
    cases k.pos.tge (tags k) <;> rfl
  · obtain ⟨hread, hlt⟩ := hn k hk
    simp only [tfindStep, hread, LaneStep.bind, LaneStep.require, hlt, decide_true, if_true]
    rfl

end Sys2Proof.Machine

/-! PROOF. Copies complete, element by element (R214, R226). -/

namespace Sys2Proof.Machine

section
variable {s : State} {o : EngOp} {p : Position} {r : BitVec 128}

/-! ### Bytes of a stash without windows, as an engine reads and writes them -/

theorem recBytes_linear {first n : Nat} (hz : recSwz r = 0) (hb : recInBounds r first 0 n = true) :
    recBytes r first 1 n = (List.range' (recAddr r first 0) n).map some := by
  simp only [recBytes, List.range_one, List.flatMap_singleton, Nat.add_zero, hb, if_true, recAddr, hz, List.range'_eq_map_range, List.map_map]
  rfl

theorem windowAt_of_none {b : Nat} (hw : ∀ w ∈ p.wins, w = none) : p.windowAt b = none := by
  refine List.findSome?_eq_none_iff.2 fun w hwin => ?_
  rw [hw w.1 (List.fst_mem_of_mem_zipIdx hwin)]

theorem placeOf_of_posOf {i : Nat} (hp : s.posOf i = some p) : s.placeOf i = some p := by
  rw [State.placeOf, hp, Option.some_or]

theorem engRead_stash {off : Nat} (hst : recStash r = true) (hp : s.posOf p.id = some p) (hu : p.unfenced = []) :
    s.engRead o p r off = (memGet p.stash off, s) := by
  simp only [State.engRead, hst, if_true, placeOf_of_posOf hp, hu, List.filter_nil, List.reverse_nil, stashSeen]

theorem engReads_stash (hst : recStash r = true) (hp : s.posOf p.id = some p) (hu : p.unfenced = []) (l : List (Option Nat)) :
    s.engReads o p r l = (l.map fun b => b.elim 0 (memGet p.stash), s) := by
  have hfold : ∀ (l : List (Option Nat)) (bs : List Byte), l.foldl (fun x b =>
      match b with
      | some off => let (v, s1) := x.2.engRead o p r off; (x.1 ++ [v], s1)
      | none => (x.1 ++ [0], x.2)) (bs, s) = (bs ++ l.map fun b => b.elim 0 (memGet p.stash), s) := by
    intro l
    induction l with
    | nil => exact fun bs => by rw [List.map_nil, List.append_nil]; rfl
    | cons b l ih =>
      intro bs
      rw [List.foldl_cons]
      cases b <;> simp only [engRead_stash hst hp hu] <;> rw [ih, List.append_assoc] <;> rfl
  exact hfold l []

theorem engReads_stash_linear (hst : recStash r = true) (hp : s.posOf p.id = some p) (hu : p.unfenced = []) (a n : Nat) :
    s.engReads o p r ((List.range' a n).map some) = (memRead p.stash a n, s) := by
  rw [engReads_stash hst hp hu, memRead_eq_map, List.map_map, List.range'_eq_map_range, List.map_map]
  rfl

/-- A byte written outside every window. -/
def Position.put (p : Position) (b : Nat) (v : Byte) : Position :=
  { p with stash := memSet p.stash b v, unfenced := p.unfenced.filter fun u => u.at' != b }

theorem engPut_of_none {b : Nat} {v : Byte} (hw : p.windowAt b = none) : p.engPut b v = p.put b v := by
  have hwin : (p.put b v).windowAt b = none := hw
  rw [Position.put] at hwin ⊢
  simp only [Position.engPut, hwin]

theorem engPut_id (b : Nat) (v : Byte) (p : Position) : (p.engPut b v).id = p.id := by
  simp only [Position.engPut]
  split <;> rfl

theorem engStash_posOf {pos b : Nat} {v : Byte} (hp : s.posOf pos = some p) (hw : p.windowAt b = none) :
    (s.engStash pos b v).posOf pos = some (p.put b v) ∧ (s.engStash pos b v).c.mem = s.c.mem := by
  have hsnoop : s.snoopOthers p b = s := by rw [State.snoopOthers, hw]
  simp only [State.engStash, placeOf_of_posOf hp, hsnoop]
  rw [State.posOf_modPos _ _ _ (engPut_id b v), hp, Option.map_some, engPut_of_none hw]
  exact ⟨rfl, rfl⟩

theorem engPuts_posOf {ctx pos : Nat} (hst : recStash r = true) (hw : ∀ w ∈ p.wins, w = none) (bs : List Byte) {s : State} {m : List Host.Cell}
    {b : Nat} (hp : s.posOf pos = some { p with stash := m }) (hu : p.unfenced = []) :
    (s.engPuts ctx pos r (((List.range' b bs.length).map some).zip bs)).posOf pos = some { p with stash := memWrite m b bs } ∧
      (s.engPuts ctx pos r (((List.range' b bs.length).map some).zip bs)).c.mem = s.c.mem := by
  induction bs generalizing s m b with
  | nil => exact ⟨hp, rfl⟩
  | cons x bs ih =>
    obtain ⟨hpos, hmem⟩ := engStash_posOf (b := b) (v := x) hp (windowAt_of_none hw)
    rw [show Position.put { p with stash := m } b x = { p with stash := memSet m b x } by rw [Position.put, hu, List.filter_nil]] at hpos
    rw [List.length_cons, List.range'_succ, List.map_cons, List.zip_cons_cons, State.engPuts]
    have hone : s.engWrite ctx pos r b x = s.engStash pos b x := by rw [State.engWrite, if_pos hst]
    rw [hone, memWrite, ← hmem]
    exact ih hpos

theorem repairs_posOf_mem (f : Option Nat → State → State) (hf : ∀ b s i, (f b s).posOf i = s.posOf i ∧ (f b s).c.mem = s.c.mem)
    (l : List (Option Nat)) (s : State) (i : Nat) :
    (l.foldl (fun s b => f b s) s).posOf i = s.posOf i ∧ (l.foldl (fun s b => f b s) s).c.mem = s.c.mem := by
  induction l generalizing s with
  | nil => exact ⟨rfl, rfl⟩
  | cons b l ih => exact ⟨(ih _).1.trans (hf b s i).1, (ih _).2.trans (hf b s i).2⟩

/-- What an engine's write of a whole sector does to the sector's error mark. -/
def repairStash (pos : Nat) (bs : List (Option Nat)) (b : Option Nat) (s : State) : State :=
  match b with
  | some off => if off % 32 == 0 && coversSector bs off then s.repair (stashAt pos off) else s
  | none => s

theorem engWrites_stash {ctx pos b : Nat} {bs : List Byte} (hst : recStash r = true) (hp : s.posOf pos = some p) (hu : p.unfenced = [])
    (hw : ∀ w ∈ p.wins, w = none) {l : List (Option Nat × Byte)} (hl : l = ((List.range' b bs.length).map some).zip bs) :
    (s.engWrites ctx pos r l).posOf pos = some { p with stash := memWrite p.stash b bs } ∧ (s.engWrites ctx pos r l).c.mem = s.c.mem := by
  obtain ⟨hpos, hmem⟩ := engPuts_posOf (ctx := ctx) (b := b) hst hw bs hp hu
  obtain ⟨hrep, hrepm⟩ := repairs_posOf_mem (repairStash pos (l.map (·.1))) (fun b s i => by
    unfold repairStash
    split
    · split <;> exact ⟨rfl, rfl⟩
    · exact ⟨rfl, rfl⟩) (l.map (·.1)) (s.engPuts ctx pos r l) pos
  have hwrites : s.engWrites ctx pos r l = (l.map (·.1)).foldl (fun s b => repairStash pos (l.map (·.1)) b s) (s.engPuts ctx pos r l) := by
    rw [State.engWrites, if_pos hst]
    rfl
  rw [hwrites, hrep, hrepm, hl]
  exact ⟨hpos, hmem⟩

end

section
variable {s : State} {o : EngOp} {p : Position} {hd hs q : BitVec 128}

/-- One element moved within a stash without windows: the bytes `f` makes of those read at the source and at the destination. -/
theorem moveCopy_stash (hp : s.posOf o.pos = some p) (hid : p.id = o.pos) (hu : p.unfenced = []) (hw : ∀ w ∈ p.wins, w = none)
    (hds : recStash hd = true) (hss : recStash hs = true) (hdz : recSwz hd = 0) (hsz : recSwz hs = 0)
    (hsb : recInBounds hs (cpySrce q) 0 (cpyBytes q) = true) (hdb : recInBounds hd (cpyDste q) 0 (cpyBytes q) = true)
    {red : Option (CpyOp × RelFmt)} {bs : List Byte} (hlen : bs.length = cpyBytes q)
    (hbs : bs = red.elim (memRead p.stash (recAddr hs (cpySrce q) 0) (cpyBytes q)) fun of =>
      relBytes of.1 of.2 (cpyBytes q) (memRead p.stash (recAddr hd (cpyDste q) 0) (cpyBytes q))
        (memRead p.stash (recAddr hs (cpySrce q) 0) (cpyBytes q))) :
    (s.moveCopy o p hd hs q red 1).posOf o.pos = some { p with stash := memWrite p.stash (recAddr hd (cpyDste q) 0) bs } ∧
      (s.moveCopy o p hd hs q red 1).c.mem = s.c.mem := by
  have hpid : s.posOf p.id = some p := hid ▸ hp
  have hsrc := engReads_stash_linear (o := o) hss hpid hu (recAddr hs (cpySrce q) 0) (cpyBytes q)
  have hdst := engReads_stash_linear (o := o) hds hpid hu (recAddr hd (cpyDste q) 0) (cpyBytes q)
  have hwrite := engWrites_stash (ctx := o.ctx) (bs := bs) (b := recAddr hd (cpyDste q) 0) hds hp hu hw (by rw [hlen])
  simp only [State.moveCopy, recBytes_linear hsz hsb, recBytes_linear hdz hdb, hsrc, hdst, Nat.one_mul]
  subst hbs
  cases red <;> exact hwrite

/-! ### The words of a reducing copy -/

theorem relSize_eq (f : RelFmt) : relSize f = if f = .bf16 then 2 else 4 := by cases f <;> rfl

theorem leNat_leBytes (n v : Nat) : leNat (leBytes n v) = v % 2 ^ (8 * n) := by
  induction n generalizing v with
  | zero => simp [leBytes, leNat, Nat.mod_one]
  | succ n ih =>
    rw [leBytes, leNat, ih, BitVec.toNat_ofNat, show 8 * (n + 1) = 8 + 8 * n by omega, Nat.pow_add, Nat.mod_mul]

theorem relSize_pos (f : RelFmt) : 0 < relSize f := by cases f <;> decide

theorem relBytes_succ {op : CpyOp} {f : RelFmt} {n k : Nat} {d x : List Byte} (hd : d.length = relSize f * (k + 1)) :
    relBytes op f (n + 1) d x = leBytes (relSize f) (relStep op f (leNat (d.take (relSize f))) (leNat (x.take (relSize f))))
      ++ relBytes op f n (d.drop (relSize f)) (x.drop (relSize f)) := by
  have hne : d.isEmpty = false := by
    have := Nat.mul_pos (relSize_pos f) k.succ_pos
    exact List.isEmpty_eq_false_iff.2 fun h => by rw [h, List.length_nil] at hd; exact absurd hd this.ne
  rw [relBytes, hne, if_neg Bool.false_ne_true]

theorem length_drop_relSize {f : RelFmt} {k : Nat} {d : List Byte} (hd : d.length = relSize f * (k + 1)) :
    (d.drop (relSize f)).length = relSize f * k := by
  rw [List.length_drop, hd, Nat.mul_succ]
  omega

theorem relBytes_length (op : CpyOp) (f : RelFmt) (n : Nat) {k : Nat} {d : List Byte} (x : List Byte) (hk : k ≤ n)
    (hd : d.length = relSize f * k) : (relBytes op f n d x).length = relSize f * k := by
  induction n generalizing k d x with
  | zero =>
    obtain rfl : k = 0 := by omega
    exact hd
  | succ n ih =>
    cases k with
    | zero =>
      rw [Nat.mul_zero] at hd ⊢
      rw [List.length_eq_zero_iff.1 hd]
      rfl
    | succ k =>
      rw [relBytes_succ hd, List.length_append, leBytes_length, ih _ (by omega) (length_drop_relSize hd), Nat.mul_succ]
      omega

theorem relBytes_word (op : CpyOp) (f : RelFmt) (n : Nat) {k j : Nat} {d x : List Byte} (hk : k ≤ n) (hj : j < k)
    (hd : d.length = relSize f * k) :
    leNat (((relBytes op f n d x).drop (relSize f * j)).take (relSize f)) =
      relStep op f (leNat ((d.drop (relSize f * j)).take (relSize f))) (leNat ((x.drop (relSize f * j)).take (relSize f)))
        % 2 ^ (8 * relSize f) := by
  induction n generalizing k j d x with
  | zero => omega
  | succ n ih =>
    cases k with
    | zero => omega
    | succ k =>
      rw [relBytes_succ hd]
      cases j with
      | zero =>
        rw [Nat.mul_zero, List.drop_zero, List.drop_zero, List.drop_zero, List.take_left' (leBytes_length _ _), leNat_leBytes]
      | succ j =>
        have hdrop : ∀ l : List Byte, l.drop (relSize f * (j + 1)) = (l.drop (relSize f)).drop (relSize f * j) := fun l => by
          rw [List.drop_drop, Nat.mul_succ, Nat.add_comm]
        rw [hdrop, hdrop, hdrop, List.drop_left' (leBytes_length _ _)]
        exact ih (by omega) (by omega) (length_drop_relSize hd)

theorem take_drop_memRead {m : List Host.Cell} {a n i w : Nat} (h : i + w ≤ n) :
    ((memRead m a n).drop i).take w = memRead m (a + i) w := by
  refine List.ext_getElem (by simp only [List.length_take, List.length_drop, memRead_length]; omega) fun k hk _ => ?_
  simp only [memRead_eq_map, List.getElem_take, List.getElem_drop, List.getElem_map, List.getElem_range]
  rw [Nat.add_assoc]

/-! ### The integer operations -/

theorem unsignedMin_toNat (x y : Word) : (if unsignedLe x y = true then x else y).toNat = min x.toNat y.toNat := by
  simp only [unsignedLe, decide_eq_true_eq, Nat.min_def]
  split <;> rfl

theorem unsignedMax_toNat (x y : Word) : (if unsignedLe y x = true then x else y).toNat = max x.toNat y.toNat := by
  rw [Nat.max_comm]
  simp only [unsignedLe, decide_eq_true_eq, Nat.max_def]
  split <;> rfl

theorem signedLe_eq (x y : Word) : signedLe x y = decide (x.toInt ≤ y.toInt) := by
  simp only [signedLe, toSigned, BitVec.toInt_eq_toNat_cond]
  rfl

theorem signedMin_eq (x y : Word) : (if signedLe x y = true then x else y) = BitVec.ofInt 32 (min x.toInt y.toInt) := by
  simp only [signedLe_eq, decide_eq_true_eq, Int.min_def]
  split <;> exact (BitVec.ofInt_toInt ..).symm

theorem signedMax_eq (x y : Word) : (if signedLe y x = true then x else y) = BitVec.ofInt 32 (max x.toInt y.toInt) := by
  rw [Int.max_comm]
  simp only [signedLe_eq, decide_eq_true_eq, Int.max_def]
  split <;> exact (BitVec.ofInt_toInt ..).symm

end

/-! ### The tag of a completed copy -/

theorem CTag.complete_eq (t : CTag) (c : Option Cause) :
    (t.complete c).count = t.count - 1 ∧ (c = none → (t.complete c).tge = t.tge ∧ (t.complete c).cause = t.cause) ∧
      (∀ k, c = some k → (t.complete c).tge = true ∧ (t.complete c).cause = if t.tge then t.cause else some k) := by
  cases c with
  | none => exact ⟨rfl, fun _ => ⟨rfl, rfl⟩, fun k hk => absurd hk (by simp)⟩
  | some x =>
    simp only [CTag.complete]
    cases t.tge <;> simp

theorem finishOp_tag {u : State} {o : EngOp} {p : Position} {tag : Nat} {t : CTag} (c : Option Cause) (hp : u.posOf o.pos = some p)
    (htags : o.tags = [tag]) (ht : p.tags[tag]? = some t) :
    ∃ x, (u.finishOp o c).posOf o.pos = some x ∧ x.tags[tag]? = some (t.complete c) ∧ x.stash = p.stash ∧ (u.finishOp o c).opOf o.id = none := by
  have hpos : (u.finishOp o c).posOf o.pos = some (p.modTag tag (·.complete c)) := by
    rw [State.finishOp, htags]
    refine (State.posOf_modPos u o.pos (·.modTag tag (·.complete c)) fun _ => rfl).trans ?_
    rw [hp]
    rfl
  refine ⟨_, hpos, ?_, rfl, ?_⟩
  · simp [Position.modTag, ht]
  · refine List.find?_eq_none.2 fun x hx => ?_
    have hne := (List.mem_filter.1 hx).2
    simpa using hne

/-- A copy that is its core's oldest and waits on nothing ends as its first bad element says. -/
theorem exec_copyComplete {s : State} {o : EngOp} {p : Position} {hd hs q : BitVec 128} {red : Option (CpyOp × RelFmt)}
    {rest : List EngOp} (ho : s.opOf o.id = some o) (hk : o.kind = .copy hd hs q red) (hp : s.posOf o.pos = some p)
    (hc : s.copiesOf o.core = o :: rest) (hw : s.opWaits o = false) {n : Nat} {bad : Option EngAt} {c : Option Cause}
    (hn : firstBad s p hd hs q (cpyCount q) 0 = (n, bad)) (hb : bad = c.map .err) :
    exec (.copyComplete o.id) s = .next ((s.moveCopy o p hd hs q red n).finishOp o c) := by
  show execCopyComplete o.id s = _
  simp only [execCopyComplete, ho, hk, placeOf_of_posOf hp, hc, hw, hn, bne_self_eq_false, Bool.or_false, Bool.false_eq_true, if_false]
  subst hb
  cases c <;> rfl

/-- Settles O23: a copy moves its elements one by one, each read before it is written, and its tag counts one less. -/
theorem copiesComplete : Obligations.CopiesComplete := by
  refine ⟨fun s o p hd hs q red rest ho hk hp hc hw =>
    ⟨fun n hn => exec_copyComplete ho hk hp hc hw (c := none) hn rfl, fun n c hn => exec_copyComplete ho hk hp hc hw (c := some c) hn rfl,
      fun u tag t c hu htags ht => ?_⟩, ?_, ?_, ?_⟩
  · obtain ⟨x, hx, hy, hstash, hgone⟩ := finishOp_tag c hu htags ht
    obtain ⟨hcount, hnone, hsome⟩ := t.complete_eq c
    exact ⟨x, _, hx, hy, hcount, hstash, hgone, hnone, hsome⟩
  · intro s o p hd hs q hp hid hu hw hds hss hdz hsz n a b hsb hdb t
    obtain ⟨hpos, hmem⟩ := moveCopy_stash (red := none) hp hid hu hw hds hss hdz hsz hsb hdb (memRead_length _ _ _) rfl
    refine ⟨hmem, _, hpos, rfl, fun i => ?_⟩
    rw [memGet_memWrite, memRead_length]
    split
    · next hin =>
      have hlt : i - b < n := by omega
      rw [memRead_eq_map, List.getElem?_map, List.getElem?_range hlt]
      rfl
    · rfl
  · intro s o p hd hs q op f hp hid hu hw hds hss hdz hsz n w a b hsb hdb hmod t
    have hwf : relSize f = w := relSize_eq f
    have hlen : (memRead p.stash b n).length = relSize f * (n / w) := by
      rw [memRead_length, hwf, Nat.mul_div_cancel' (Nat.dvd_of_mod_eq_zero hmod)]
    have hle : n / w ≤ n := Nat.div_le_self _ _
    have hlen' := relBytes_length op f n (memRead p.stash a n) hle hlen
    rw [hwf, Nat.mul_div_cancel' (Nat.dvd_of_mod_eq_zero hmod)] at hlen'
    obtain ⟨hpos, hmem⟩ := moveCopy_stash (red := some (op, f)) hp hid hu hw hds hss hdz hsz hsb hdb hlen' rfl
    refine ⟨hmem, _, hpos, rfl, fun i hi => ?_, fun j hj => ?_⟩
    · rw [memGet_memWrite, hlen', if_neg (by omega)]
    · have hjn : w * j + w ≤ n := by
        rw [← Nat.mul_succ]
        exact (Nat.mul_le_mul_left w hj).trans (Nat.mul_div_le n w)
      have hword := relBytes_word op f n (x := memRead p.stash a n) hle hj hlen
      rw [hwf, take_drop_memRead hjn, take_drop_memRead hjn] at hword
      rw [← hword]
      have hback := memRead_memWrite p.stash b (relBytes op f n (memRead p.stash b n) (memRead p.stash a n))
      rw [hlen'] at hback
      exact congrArg leNat ((take_drop_memRead hjn).symm.trans (by rw [hback]))
  · intro x y f hf
    rcases hf with rfl | rfl <;>
      simp only [relStep, redStep, BitVec.ofNat_toNat, BitVec.setWidth_eq, unsignedMin_toNat, unsignedMax_toNat, signedMin_eq, signedMax_eq,
        and_self]

end Sys2Proof.Machine

/-! PROOF. Stash windows: mapping, filling, write-back (R213, R228). -/

namespace Sys2Proof.Machine

/-! ### The window instructions in turn -/

section
variable {s : State} {h : Here} {g : Guard}

theorem turns_smap {n : BitVec 3} {q : Src} {hs : BitVec 4} {x : Src} {d : RCtx → List Word} {r : RCtx → BitVec 128} {i : RCtx → Nat}
    (hat : s.here h) (hr : ∀ k ∈ h.lanes g, rdRaws k 1 q 2 = .ok (d k) ∧ handleOf k hs = .ok (r k) ∧ rdNat k 3 x = .ok (i k)) :
    s.Turns h g [] [x.spec] (.smap n g q hs x) fun s k out u =>
      ∃ p v, s.posOf k.pos.id = some p ∧ s.viewer k.wk k.arm = some v ∧
        s.smapCheck { k with pos := p } n.toNat ((quadBits (d k)).setWidth 64) (r k) (i k) = none ∧
        s.unmapEnd { k with pos := p } n.toNat = none ∧ out = { frees := x :: srcRun q 2 } ∧
        u = ((if v.det then s.fenceBy v 3 else s).unmap p.id n.toNat).mapWindow { k with pos := p } n.toNat
          ((quadBits (d k)).setWidth 64) (r k) (i k) := by
  refine turns_of hat (fun _ _ _ ht => perLane_turn (x := fun k => ((quadBits (d k)).setWidth 64, r k, i k)) (fun k hk => ?_)
    (fun s k o u hP => ?_) ht) rfl
  · obtain ⟨hd, hh, hi⟩ := hr k hk
    simp only [hd, hh, hi, LaneStep.bind, LaneStep.map]
  · obtain ⟨p, v, hp, hv, hcheck, hend, rfl, rfl⟩ := hP
    simp only [hp, hv, hcheck, hend]

theorem turns_smapOff {n : BitVec 3} (hat : s.here h) :
    s.Turns h g [] [] (.smapOff n g) fun s k out u => ∃ p, s.posOf k.pos.id = some p ∧
      s.unmapEnd { k with pos := p } n.toNat = none ∧ out = {} ∧ u = s.unmap p.id n.toNat := by
  refine turns_of hat (fun _ _ _ ht => perLane_turn (x := fun _ => ()) (fun _ _ => rfl) (fun s k o u hP => ?_) ht) rfl
  obtain ⟨p, hp, hend, rfl, rfl⟩ := hP
  simp only [hp, hend]

/-- What `sinv` does for a lane. -/
def sinvAct (n : Nat) (s : State) (c : RCtx) (_ : Unit) : LaneEnd × State :=
  match s.posOf c.pos.id with
  | none => (.out {}, s)
  | some p => match (p.wins[n]?).getD none with
    | none => (.out {}, s)
    | some w =>
      if s.windowLent p w then (.park (.window n), s)
      else (.out {}, s.modPos p.id (·.modWin n fun w => { w with lines := [], want := [], failed := [] }))

theorem sinvAct_none {n : Nat} {k : RCtx} {p : Position} (hp : s.posOf k.pos.id = some p) (hw : (p.wins[n]?).getD none = none) :
    sinvAct n s k () = (.out {}, s) := by
  simp only [sinvAct, hp, hw]

theorem sinvAct_some {n : Nat} {k : RCtx} {p : Position} {w : Window} (hp : s.posOf k.pos.id = some p)
    (hw : (p.wins[n]?).getD none = some w) (hl : s.windowLent p w = false) :
    sinvAct n s k () = (.out {}, s.modPos p.id (·.modWin n fun w => { w with lines := [], want := [], failed := [] })) := by
  simp only [sinvAct, hp, hw, hl, Bool.false_eq_true, if_false]

theorem turns_sinv {n : BitVec 3} {P : State → RCtx → LaneOut → State → Prop} (hat : s.here h)
    (hP : ∀ s k o u, P s k o u → sinvAct n.toNat s k () = (.out o, u)) : s.Turns h g [] [] (.sinv n g) P :=
  turns_of hat (fun _ _ _ => perLane_turn (x := fun _ => ()) (fun _ _ => rfl) hP) rfl

/-- What `sflush` does for a lane. -/
def sflushAct (n : Nat) (t : Src) (s : State) (c : RCtx) (i : Nat) : LaneEnd × State :=
  match s.viewer c.wk c.arm, s.posOf c.pos.id with
  | some v, some p =>
    match (p.wins[n]?).getD none with
    | none => (.out { frees := [t] }, s)
    | some w =>
      if p.tagsTake [i] then (.out { frees := [t] }, s.issueOp v c [i] (.sflush n w.dirty) 1 false)
      else (.park .backPressure, s)
  | _, _ => (.out {}, s)

theorem sflushAct_none {n i : Nat} {t : Src} {k : RCtx} {v : Viewer} {p : Position} (hv : s.viewer k.wk k.arm = some v)
    (hp : s.posOf k.pos.id = some p) (hw : (p.wins[n]?).getD none = none) : sflushAct n t s k i = (.out { frees := [t] }, s) := by
  simp only [sflushAct, hv, hp, hw]

theorem sflushAct_some {n i : Nat} {t : Src} {k : RCtx} {v : Viewer} {p : Position} {w : Window} (hv : s.viewer k.wk k.arm = some v)
    (hp : s.posOf k.pos.id = some p) (hw : (p.wins[n]?).getD none = some w) (ht : p.tagsTake [i] = true) :
    sflushAct n t s k i = (.out { frees := [t] }, s.issueOp v k [i] (.sflush n w.dirty) 1 false) := by
  simp only [sflushAct, hv, hp, hw, ht, if_true]

/-- `turns_of` for an instruction that reads the state in which its batons are taken. -/
theorem turns_acquired {dsts early : List Spec} {f : ArmFn} {i : Instr} {P : State → RCtx → LaneOut → State → Prop} (hat : s.here h)
    (hf : ∀ os t, State.InTurn P (s.acquires h g early) (h.lanes g) os t →
      f (s.acquires h g early) (h.lanes g) = (.done (.ofLanes os), t))
    (he : exec i s = .next (s.runArms { g := g, dsts := dsts, early := early } f)) : s.Turns h g dsts early i P := by
  intro os t ht
  rw [he, runArms_here hat rfl (by simp) (hf os t ht)]

theorem stageTags_acquires (early : List Spec) (k : RCtx) : (s.acquires h g early).stageTags k = s.stageTags k := by
  simp only [State.acquires, State.takesBatons]
  split
  · rfl
  · split <;> rfl

theorem turns_sflush {n : BitVec 3} {t : Src} {i : RCtx → Nat} {P : State → RCtx → LaneOut → State → Prop} (hat : s.here h)
    (he : h.epochs) (hi : ∀ k ∈ h.lanes g, rdCount k t = .ok (i k) ∧ i k < s.stageTags k)
    (hP : ∀ s k o u, P s k o u → sflushAct n.toNat t s k (i k) = (.out o, u)) : s.Turns h g [] [t.spec] (.sflush n g t) P := by
  refine turns_acquired hat (fun os u ht => (epochGuard_ok he).trans (perLane_turn (act := sflushAct n.toNat t) (x := i) (fun k hk => ?_) hP ht)) rfl
  obtain ⟨hread, hlt⟩ := hi k hk
  simp only [hread, LaneStep.bind, LaneStep.require, LaneStep.map, stageTags_acquires, decide_eq_true hlt, if_true]

end

/-! ### Lines filled and written back -/

section
variable {s : State} {p : Position} {w : Window} {n line pa : Nat}

theorem wins_modWin {m : Nat} {f : Window → Window} (hw : p.wins[m]? = some (some w)) : (p.modWin m f).wins[m]? = some (some (f w)) := by
  simp [Position.modWin, hw]

/-- The window after a wanted line of it has been filled. -/
def Window.filled (w : Window) (line : Nat) : Window :=
  { w.setLine line (some .clean) with want := w.want.filter (·.1 != line) }

theorem fillLine_ok {x : Nat × Party × Bool} (hp : s.posOf p.id = some p) (hw : p.wins[n]? = some (some w))
    (hwant : w.want.find? (·.1 == line) = some x) (hst : w.st line = none)
    (hmem : s.engMem p.ctx w.obj (w.goff + 64 * line) false false = .ok) (hpa : s.winPa p w line false = some pa) (hpend : s.c.pend = [])
    (hmet : s.linesMet p.ctx w.obj (w.goff + 64 * line) 64 = []) :
    (s.fillLine p n line).posOf p.id = some (({ p with stash := memWrite p.stash (w.soff + 64 * line) (memRead s.c.mem pa 64) } : Position).modWin n
      (·.filled line)) ∧ (s.fillLine p n line).c.mem = s.c.mem := by
  obtain ⟨l, who, eng⟩ := x
  have hsnoop : s.snoop p.ctx w.obj (w.goff + 64 * line) 64 false = s := by rw [State.snoop, hmet]; rfl
  have hwd : (p.wins[n]?).getD none = some w := by rw [hw]; rfl
  simp only [State.fillLine, hwd, hwant, hst, hmem, hpa, hsnoop, settle_of_pend_nil hpend]
  refine ⟨?_, rfl⟩
  rw [State.posOf_modPos]
  · exact congrArg (Option.map _) hp
  · exact fun _ => rfl

theorem st_filled : (w.filled line).st line = some .clean := by
  simp [Window.filled, Window.setLine, Window.st]

/-- A line that stands under no revoked key loses nothing to a write. -/
theorem loseRests_of_keyRead {pa n : Nat} : ∀ (ls : List Nat) , (∀ l ∈ ls, s.keyRead (64 * l) = true) →
    ls.foldl (fun s l => s.loseRest l pa n) s = s
  | [], _ => rfl
  | l :: ls, h => by
    have hone : s.loseRest l pa n = s := by rw [State.loseRest, if_pos (h l List.mem_cons_self)]
    rw [List.foldl_cons, hone]
    exact loseRests_of_keyRead ls fun x hx => h x (List.mem_cons_of_mem _ hx)

theorem stampKey_mem {pad pa n : Nat} (hn : 0 < n) (hk : ∀ l, pa / 64 ≤ l → l ≤ (pa + n - 1) / 64 → s.keyRead (64 * l) = true) :
    (s.stampKey pad pa n).c.mem = s.c.mem := by
  simp only [State.stampKey]
  split
  · rw [loseRests_of_keyRead]
    · rfl
    · intro l hl
      obtain ⟨j, hj, rfl⟩ := List.mem_map.1 hl
      have := List.mem_range.1 hj
      have : pa / 64 ≤ (pa + n - 1) / 64 := Nat.div_le_div_right (by omega)
      exact hk _ (by omega) (by omega)
  · rfl

theorem writeBack_mem (hp : s.posOf p.id = some p) (hw : (p.wins[n]?).getD none = some w) (hst : w.st line = some .dirty)
    (hpa : s.winPa p w line true = some pa) (hpend : s.c.pend = [])
    (hk : ∀ l, pa / 64 ≤ l → l ≤ (pa + 63) / 64 → s.keyRead (64 * l) = true) :
    (s.writeBack p.id n line).c.mem = memWrite s.c.mem pa (memRead p.stash (w.soff + 64 * line) 64) := by
  have hkey : ∀ a, (s.devWrite pa (memRead p.stash (w.soff + 64 * line) 64)).keyRead a = s.keyRead a := fun a => by
    rw [State.devWrite, settle_of_pend_nil hpend]
    rfl
  have hd : (w.st line == some LineSt.dirty) = true := by rw [hst]; rfl
  simp only [State.writeBack, placeOf_of_posOf hp, hw, hd, hpa, if_true]
  refine (stampKey_mem (by omega) fun l hl hu => ?_).trans (devWrite_of_pend_nil hpend _ _).1
  rw [hkey]
  exact hk l hl hu

theorem exec_sflushComplete {o : EngOp} (ho : s.opOf o.id = some o) (hk : o.kind = .sflush n [line]) (hp : s.posOf o.pos = some p)
    (hwait : s.opWaits o = false) (hw : (p.wins[n]?).getD none = some w) (hid : p.id = o.pos) (hm : s.lineMeets p w line = .ok) :
    exec (.sflushComplete o.id) s = .next ((s.writeBack p.id n line).finishOp o none) := by
  have hplace : (s.placeOf p.id).bind (fun p => (p.wins[n]?).getD none) = some w := by
    rw [hid, placeOf_of_posOf hp, Option.bind_some, hw]
  show execSflushComplete o.id s = _
  simp only [execSflushComplete, ho, hk, placeOf_of_posOf hp, hwait, Bool.false_eq_true, if_false, State.flushLines, hplace, hm]

end

/-- Settles O24: the window instructions lane by lane, and what a line's fill and write-back move. -/
theorem windows : Obligations.Windows := by
  refine ⟨fun s h g n hat => ⟨fun q hs x d r i hr => turns_smap hat hr, turns_smapOff hat, turns_sinv hat ?_,
    fun he t i hi => turns_sflush hat he hi ?_⟩, fun s => ⟨?_, ?_, fun ctx obj off wr => rfl, ?_⟩⟩
  · rintro s k o u ⟨p, hp, rfl, hw⟩
    cases hwin : (p.wins[n.toNat]?).getD none with
    | none =>
      rw [hwin] at hw
      subst hw
      exact sinvAct_none hp hwin
    | some w =>
      rw [hwin] at hw
      obtain ⟨hl, rfl⟩ := hw
      exact sinvAct_some hp hwin hl
  · rintro s k o u ⟨v, p, hv, hp, rfl, hw⟩
    cases hwin : (p.wins[n.toNat]?).getD none with
    | none =>
      rw [hwin] at hw
      subst hw
      exact sflushAct_none hv hp hwin
    | some w =>
      rw [hwin] at hw
      obtain ⟨ht, rfl⟩ := hw
      exact sflushAct_some hv hp hwin ht
  · intro p n line pa w hp hw hwant hst hmem hpa hpend hmet
    obtain ⟨x, hx⟩ := Option.isSome_iff_exists.1 ((List.find?_isSome (p := fun x : Nat × Party × Bool => x.1 == line)).2 (List.any_eq_true.1 hwant))
    obtain ⟨hpos, hm⟩ := fillLine_ok hp hw hx hst hmem hpa hpend hmet
    refine ⟨s.fillLine p n line, _, w.filled line, ?_, hpos, wins_modWin (p := { p with stash := _ }) hw, st_filled, ?_, hm⟩
    · show execWindowLineFill p.id n line s = _
      rw [execWindowLineFill, placeOf_of_posOf hp]
    · have hback := memRead_memWrite p.stash (w.soff + 64 * line) (memRead s.c.mem pa 64)
      rwa [memRead_length] at hback
  · intro o n line p w ho hk hp hwait hw hid hm
    exact exec_sflushComplete ho hk hp hwait hw hid hm
  · intro p n line pa w hp hw hst hpa hpend hk
    exact writeBack_mem hp hw hst hpa hpend hk

end Sys2Proof.Machine

/-! PROOF. Loft loads and tile transfers (R183, R184, R198, R200). -/

namespace Sys2Proof.Machine

section
variable {s : State} {h : Here} {g : Guard} {P : State → RCtx → LaneOut → State → Prop}

/-! ### Arms whose instruction may be a last use -/

theorem inTurn_ne_nil {ks : List RCtx} {os : List (Nat × LaneOut)} {t : State} (ht : State.InTurn P s ks os t) (hne : ks ≠ []) :
    os ≠ [] := by
  cases ks with
  | nil => exact absurd rfl hne
  | cons k ks =>
    obtain ⟨o, u, rest, rfl, -⟩ := ht
    exact List.cons_ne_nil _ _

/-- Lanes that act in turn on a last use of a tile, if the operand says so. -/
theorem exec_lastUse {dsts early : List Spec} {a : Src} {prev : Bool} {f : ArmFn} {i : Instr} {os : List (Nat × LaneOut)} {t : State}
    (hat : s.here h) (he : exec i s = .next (s.runArms { g := g, dsts := dsts, early := early } (lastUse a prev f)))
    (ht : State.InTurn P (s.acquires h g early) (h.lanes g) os t)
    (hf : f (s.acquires h g early) (h.lanes g) = (.done (.ofLanes os), t)) :
    exec i s = .next ((t.usedLast h g (accName a) prev a.last).done h dsts os early) := by
  have huse := lastUse_ofLanes (a := a) (prev := prev) (inTurn_ne_nil ht) hf
  rw [he, runArms_here hat rfl (by simp) huse]

/-- Operands that are no batons need no acquiring. -/
theorem done_of_no_batons {early : List Spec} (hb : batonsOf early = []) (dsts : List Spec) (os : List (Nat × LaneOut)) :
    s.done h dsts os early = s.done h dsts os := by
  simp only [State.done, State.left, State.landed, Warp.commit, hb, batonsOf_nil]

/-- An instruction of a single lane that acts in turn. -/
theorem Turns_single {dsts early : List Spec} {i : Instr} {k : RCtx} {o : LaneOut} {u : State} (ht : s.Turns h g dsts early i P)
    (hk : h.lanes g = [k]) (hb : batonsOf early = []) (hP : P s k o u) (hspent : u.overspent k.wk = false) :
    exec i s = .next (u.done h dsts [(k.lane, o)]) := by
  rw [← done_of_no_batons hb]
  refine ht _ u ?_
  rw [State.acquires, takesBatons_none hb, hk]
  exact ⟨o, u, [], rfl, hP, hspent, rfl, rfl⟩

/-! ### Loads of Loft slots -/

theorem tileTrap_none : s.tileTrap none = none := rfl

theorem issueLload_ok {k : RCtx} {l first n : Nat} {r : BitVec 128} {d : BitVec 64} {q : Src} {srcs : List Src} {v : Viewer}
    {p : Position} {cols : List (List (Option Nat))} (hc : s.lloadCheck k r first d q = .ok (n, cols)) (hv : s.viewer k.wk k.arm = some v)
    (hp : s.posOf k.pos.id = some p) (hst : (p.loftAt l).st ≠ .loading) (hread : s.slotRead p.id l = false)
    (ht : p.tagsTake [ldCtag d] = true) (hclash : (p.loftAt l).clash v .write = none)
    (hrace : s.racesAt v p r cols.flatten .read = none) :
    s.issueLload k l r first d q srcs = (.out { frees := srcs },
      ((s.recordAll v p r cols.flatten .read).modPos p.id (·.modLoft l fun y =>
        { (y.note v .write) with st := .loading, ttag := ldTtag d, rows := ldRows d, cols := ldCols d, data := [] })).issueOp
          v k [ldCtag d] (.lload l r first d n) 1 false) := by
  have hbusy : ((p.loftAt l).st == .loading || s.slotRead p.id l) = false := by simp [hst, hread]
  simp only [State.issueLload, hc, hv, hp, hbusy, ht, hclash, hrace, tileTrap_none, Option.or_none, Bool.not_true, Bool.false_eq_true, if_false]

theorem turns_lload {l : BitVec 3} {hs : BitVec 4} {x q : Src} {r : RCtx → BitVec 128} {i : RCtx → Nat} {w : RCtx → List Word}
    (hat : s.here h) (he : h.epochs)
    (hr : ∀ k ∈ h.lanes g, handleOf k hs = .ok (r k) ∧ rdNat k 2 x = .ok (i k) ∧ rdRaws k 3 q 2 = .ok (w k)) :
    s.Turns h g [] [x.spec] (.lload g l hs x q) fun s k out u =>
      ∃ v p n cols, s.viewer k.wk k.arm = some v ∧ s.posOf k.pos.id = some p ∧
        s.lloadCheck k (r k) (i k) ((quadBits (w k)).setWidth 64) q = .ok (n, cols) ∧
        (p.loftAt l.toNat).st ≠ .loading ∧ s.slotRead p.id l.toNat = false ∧
        p.tagsTake [ldCtag ((quadBits (w k)).setWidth 64)] = true ∧
        (p.loftAt l.toNat).clash v .write = none ∧ s.racesAt v p (r k) cols.flatten .read = none ∧
        out = { frees := x :: srcRun q 2 } ∧
        u = ((s.recordAll v p (r k) cols.flatten .read).modPos p.id (·.modLoft l.toNat fun y =>
          { (y.note v .write) with st := .loading, ttag := ldTtag ((quadBits (w k)).setWidth 64),
                                   rows := ldRows ((quadBits (w k)).setWidth 64), cols := ldCols ((quadBits (w k)).setWidth 64),
                                   data := [] })).issueOp
            v k [ldCtag ((quadBits (w k)).setWidth 64)] (.lload l.toNat (r k) (i k) ((quadBits (w k)).setWidth 64) n) 1 false := by
  refine turns_of hat (fun _ _ _ ht => (epochGuard_ok he).trans (perLane_turn
    (x := fun k => (r k, i k, (quadBits (w k)).setWidth 64)) (fun k hk => ?_) (fun s k o u hP => ?_) ht)) rfl
  · obtain ⟨hh, hi, hw⟩ := hr k hk
    simp only [hh, hi, hw, LaneStep.bind, LaneStep.map]
  · obtain ⟨v, p, n, cols, hv, hp, hc, hst, hread, ht, hclash, hrace, rfl, rfl⟩ := hP
    exact issueLload_ok hc hv hp hst hread ht hclash hrace

/-! ### Loads and stores of tiles -/

theorem issueAld_ok {k : RCtx} {new : Bool} {a n : Nat} {m : BitVec 128} {ms : Spec} {srcs : List Src} {v : Viewer} {p : Position}
    {r : BitVec 512} {bs : List Nat} {s0 s1 : State} {tid : Nat} (hc : s.tileCheck k m n 1 ms = .ok (r, bs))
    (hv : s.viewer k.wk k.arm = some v) (hp : s.posOf k.pos.id = some p) (hd : s.detFence v k.lane = some s0)
    (hm : s.meetAcc p a new (algK r) ≠ .wait) (ht : p.tagsTake [n] = true) (hclash : (s.meetAcc p a new (algK r)).clash v = none)
    (hrace : s0.racesAt v p stashRec (stashOffs bs) .read = none)
    (hb : s0.bindAcc p.id a (s.meetAcc p a new (algK r)) (algK r) (tagAlg (mhTag m)) = (tid, s1)) :
    s.issueAld k new a m n ms srcs = (.out { frees := srcs },
      ((s1.wroteTile k v tid fun t => { t with pending := t.pending + 1, tag := (Tile.fresh 0 0 (tagAlg (mhTag m))).tag }).recordAll
        v p stashRec (stashOffs bs) .read).issueOp v k [n] (.ald a tid m (algK r)) 1 true) := by
  have hwait : (s.meetAcc p a new (algK r) == .wait || !p.tagsTake [n]) = false := by simp [hm, ht]
  simp only [State.issueAld, hc, hv, hp, hd, hwait, hclash, hrace, hb, tileTrap_none, Option.or_none, Bool.false_eq_true, if_false]

theorem turns_ald {t : Src} {mr : BitVec 4} {m : RCtx → BitVec 128} {n : RCtx → Nat} (hat : s.here h) (he : h.epochs)
    (hm : ∀ k ∈ h.lanes g, mhandleOf k mr = .ok (m k) ∧ rdNat k 2 t = .ok (n k)) (new : Bool) (a : BitVec 5) :
    s.Turns h g [] [t.spec] (.ald new g a mr t) fun s k out u =>
      ∃ v p r bs s0 tid s1, s.tileCheck k (m k) (n k) 1 (.m mr) = .ok (r, bs) ∧ s.viewer k.wk k.arm = some v ∧
        s.posOf k.pos.id = some p ∧ s.detFence v k.lane = some s0 ∧
        s.meetAcc p a.toNat new (algK r) ≠ .wait ∧ p.tagsTake [n k] = true ∧ (s.meetAcc p a.toNat new (algK r)).clash v = none ∧
        s0.racesAt v p stashRec (stashOffs bs) .read = none ∧
        s0.bindAcc p.id a.toNat (s.meetAcc p a.toNat new (algK r)) (algK r) (tagAlg (mhTag (m k))) = (tid, s1) ∧ out = { frees := [t] } ∧
        u = (((s1.wroteTile k v tid fun t => { t with pending := t.pending + 1, tag := (Tile.fresh 0 0 (tagAlg (mhTag (m k)))).tag }).recordAll
          v p stashRec (stashOffs bs) .read)).issueOp v k [n k] (.ald a.toNat tid (m k) (algK r)) 1 true := by
  refine turns_of hat (fun _ _ _ ht => (epochGuard_ok he).trans (perLane_turn (x := fun k => (m k, n k)) (fun k hk => ?_)
    (fun s k o u hP => ?_) ht)) rfl
  · obtain ⟨hh, hi⟩ := hm k hk
    simp only [hh, hi, LaneStep.bind, LaneStep.map]
  · obtain ⟨v, p, r, bs, s0, tid, s1, hc, hv, hp, hd, hw, ht, hclash, hrace, hb, rfl, rfl⟩ := hP
    exact issueAld_ok hc hv hp hd hw ht hclash hrace hb

theorem issueAst_ok {k : RCtx} {rnd : Rnd} {md : BitVec 4} {m : BitVec 128} {x : Tile} {n : Nat} {srcs : List Src} {kind : AccKind}
    {v : Viewer} {p : Position} {r : BitVec 512} {bs : List Nat} (hc : s.tileCheck k m n 0 (.m md) = .ok (r, bs))
    (hv : s.viewer k.wk k.arm = some v) (hp : s.posOf k.pos.id = some p) (hk : algK r = x.k) (ht : p.tagsTake [n] = true)
    (hclash : x.clash (v.after x.front) kind = none) (hrace : s.racesAt (v.after x.front) p stashRec (stashOffs bs) .write = none) :
    s.issueAst k rnd md m x n srcs kind = (.out { frees := srcs },
      (((s.tookTile k v x).recordAll v p stashRec (stashOffs bs) .write).modWarp v.wk
        (·.putHandle (16 + md.toNat) (mhSetAlg m (tagAlg x.tag)))).issueOp v k [n] (.ast m rnd x.k x.cells) 1 false) := by
  simp only [State.issueAst, hc, hv, hp, hk, ht, hclash, hrace, tileTrap_none, Option.or_none, bne_self_eq_false, Bool.not_true,
    Bool.false_eq_true, if_false]

theorem exec_ast {t : Src} {mr : BitVec 4} {m : RCtx → BitVec 128} {n : RCtx → Nat} {rnd : Rnd} {prev : Bool} {a : Src} {x : RCtx → Tile}
    (hat : s.here h) (he : h.epochs) (hm : ∀ k ∈ h.lanes g, mhandleOf k mr = .ok (m k) ∧ rdNat k 2 t = .ok (n k))
    (hx : ∀ k ∈ h.lanes g, readTile k a prev = .ok (x k)) {os : List (Nat × LaneOut)} {u : State}
    (ht : State.InTurn (fun s k out u => ∃ v p r bs, s.tileCheck k (m k) (n k) 0 (.m mr) = .ok (r, bs) ∧
      s.viewer k.wk k.arm = some v ∧ s.posOf k.pos.id = some p ∧ algK r = (x k).k ∧ p.tagsTake [n k] = true ∧
      (x k).clash (v.after (x k).front) (tileKind a) = none ∧
      s.racesAt (v.after (x k).front) p stashRec (stashOffs bs) .write = none ∧ out = { frees := [a, t] } ∧
      u = (((s.tookTile k v (x k)).recordAll v p stashRec (stashOffs bs) .write).modWarp v.wk
        (·.putHandle (16 + mr.toNat) (mhSetAlg (m k) (tagAlg (x k).tag)))).issueOp v k [n k]
          (.ast (m k) rnd (x k).k (x k).cells) 1 false) (s.acquires h g [t.spec]) (h.lanes g) os u) :
    exec (.ast rnd prev g mr a t) s = .next ((u.usedLast h g (accName a) prev a.last).done h [] os [t.spec]) := by
  refine exec_lastUse hat rfl ht ((epochGuard_ok he).trans (perLane_turn (x := fun k => (m k, x k, n k)) (fun k hk => ?_)
    (fun s k o u hP => ?_) ht))
  · obtain ⟨hh, hi⟩ := hm k hk
    simp only [hh, hi, hx k hk, LaneStep.bind, LaneStep.map]
  · obtain ⟨v, p, r, bs, hc, hv, hp, hk, ht, hclash, hrace, rfl, rfl⟩ := hP
    exact issueAst_ok hc hv hp hk ht hclash hrace

end

section
variable {s : State} {o : EngOp} {p : Position}

/-! ### A load of a Loft slot completes -/

theorem id_of_posOf {i : Nat} (hp : s.posOf i = some p) : p.id = i := by simpa using List.find?_some hp

theorem posOf_modPos_some {i : Nat} {f : Position → Position} (hp : s.posOf i = some p) (hf : ∀ p, (f p).id = p.id := by intro _; rfl) :
    (s.modPos i f).posOf i = some (f p) := by
  rw [State.posOf_modPos _ _ _ hf, hp, Option.map_some]

/-- Columns of a record in a stash, as a load reads them. -/
theorem loadColumns_stash {r : BitVec 128} (hst : recStash r = true) (hp : s.posOf p.id = some p) (hu : p.unfenced = [])
    (cols : List (List (Option Nat))) :
    cols.foldl (fun x c => let (b, s) := x.2.engReads o p r c; (x.1 ++ [b], s)) ([], s)
      = (cols.map fun c => c.map fun b => b.elim 0 (memGet p.stash), s) := by
  have hfold : ∀ bs : List (List Byte), cols.foldl (fun x c => let (b, s) := x.2.engReads o p r c; (x.1 ++ [b], s)) (bs, s)
      = (bs ++ cols.map fun c => c.map fun b => b.elim 0 (memGet p.stash), s) := by
    induction cols with
    | nil => exact fun bs => by rw [List.map_nil, List.append_nil]; rfl
    | cons c cols ih =>
      intro bs
      rw [List.foldl_cons]
      simp only [engReads_stash hst hp hu]
      rw [ih, List.append_assoc]
      rfl
  exact hfold []

theorem tags_modTag_stash (l : List Nat) (c : Option Cause) {s : State} (hp : s.posOf o.pos = some p) :
    ∃ x, (l.foldl (fun s t => s.completeTag o.pos t c) s).posOf o.pos = some x ∧ x.stash = p.stash ∧ x.loft = p.loft ∧
      (l.foldl (fun s t => s.completeTag o.pos t c) s).c.mem = s.c.mem := by
  induction l generalizing s p with
  | nil => exact ⟨p, hp, rfl, rfl, rfl⟩
  | cons t l ih => exact ih (p := p.modTag t (·.complete c)) (posOf_modPos_some hp)

/-- Ending an operation changes its position's tags alone. -/
theorem finishOp_posOf (c : Option Cause) (hp : s.posOf o.pos = some p) :
    ∃ x, (s.finishOp o c).posOf o.pos = some x ∧ x.stash = p.stash ∧ x.loft = p.loft ∧ (s.finishOp o c).c.mem = s.c.mem :=
  tags_modTag_stash o.tags c hp

theorem opOf_finishOp (c : Option Cause) : (s.finishOp o c).opOf o.id = none := by
  refine List.find?_eq_none.2 fun x hx => ?_
  have hne := (List.mem_filter.1 hx).2
  simpa using hne

theorem loftAt_modLoft {l : Nat} {f : LoftSlot → LoftSlot} (hl : l < p.loft.length) : (p.modLoft l f).loftAt l = f (p.loftAt l) := by
  simp [Position.loftAt, Position.modLoft, hl]

section
variable {l first k : Nat} {hs : BitVec 128} {d : BitVec 64} {cols : List (List (Option Nat))}

theorem exec_lloadComplete_ok {bs : List (List Byte)} {s1 : State} (ho : s.opOf o.id = some o) (hk : o.kind = .lload l hs first d k)
    (hp : s.posOf o.pos = some p) (hw : s.opWaits o = false)
    (hcols : cols = (List.range (ldCols d)).map fun c => loadColumn hs first (ldOff d) (columnBytes (ldRows d) k (elemBits (tagFmt (ldTtag d)))) c)
    (hm : s.engMeets p hs cols.flatten false = .ok)
    (hr : cols.foldl (fun x c => let (b, s) := x.2.engReads o p hs c; (x.1 ++ [b], s)) ([], s) = (bs, s1)) :
    exec (.lloadComplete o.id) s =
      .next (((s1.modPos p.id (·.modLoft l fun y => { y with st := .full, data := bs })).repairLoft p.id l).finishOp o none) := by
  subst hcols
  show execLloadComplete o.id s = _
  simp only [execLloadComplete, ho, hk, placeOf_of_posOf hp, hw, hm, hr, Bool.false_eq_true, if_false]

theorem exec_lloadComplete_err {c : Cause} (ho : s.opOf o.id = some o) (hk : o.kind = .lload l hs first d k)
    (hp : s.posOf o.pos = some p) (hw : s.opWaits o = false)
    (hcols : cols = (List.range (ldCols d)).map fun c => loadColumn hs first (ldOff d) (columnBytes (ldRows d) k (elemBits (tagFmt (ldTtag d)))) c)
    (hm : s.engMeets p hs cols.flatten false = .err c) :
    exec (.lloadComplete o.id) s = .next ((s.modPos p.id (·.modLoft l fun y => { y with st := .void })).finishOp o (some c)) := by
  subst hcols
  show execLloadComplete o.id s = _
  simp only [execLloadComplete, ho, hk, placeOf_of_posOf hp, hw, hm, Bool.false_eq_true, if_false]

theorem exec_lloadComplete_stash (ho : s.opOf o.id = some o) (hk : o.kind = .lload l hs first d k)
    (hp : s.posOf o.pos = some p) (hw : s.opWaits o = false)
    (hcols : cols = (List.range (ldCols d)).map fun c => loadColumn hs first (ldOff d) (columnBytes (ldRows d) k (elemBits (tagFmt (ldTtag d)))) c)
    (hm : s.engMeets p hs cols.flatten false = .ok) (hst : recStash hs = true) (hu : p.unfenced = []) (hl : l < p.loft.length) :
    ∃ t x, exec (.lloadComplete o.id) s = .next t ∧ t.posOf o.pos = some x ∧ t.c.mem = s.c.mem ∧ x.stash = p.stash ∧
      (x.loftAt l).st = .full ∧ (x.loftAt l).data = cols.map fun c => c.map fun b => b.elim 0 (memGet p.stash) := by
  have hid := id_of_posOf hp
  have hreads := loadColumns_stash (o := o) hst (hid ▸ hp) hu cols
  have hpos : ((s.modPos p.id (·.modLoft l fun y =>
      { y with st := .full, data := cols.map fun c => c.map fun b => b.elim 0 (memGet p.stash) })).repairLoft p.id l).posOf o.pos =
        some (p.modLoft l fun y => { y with st := .full, data := cols.map fun c => c.map fun b => b.elim 0 (memGet p.stash) }) := by
    rw [hid]
    exact posOf_modPos_some hp
  obtain ⟨x, hx, hstash, hloft, hmem⟩ := finishOp_posOf none hpos
  refine ⟨_, x, exec_lloadComplete_ok ho hk hp hw hcols hm hreads, hx, hmem, hstash, ?_, ?_⟩ <;>
    rw [Position.loftAt, hloft] <;> simp [Position.modLoft, hl]

end

/-! ### A load of a tile completes -/

theorem exec_aldComplete_ok {a tid k : Nat} {m : BitVec 128} {vs : List Byte} {s1 : State} (ho : s.opOf o.id = some o)
    (hk : o.kind = .ald a tid m k) (hp : s.posOf o.pos = some p) (hw : s.opWaits o = false) (ht : s.tileTurn o = true)
    (hm : s.stashMeets p (tileBytes m k 0 (mhSpan m).1 0 (mhSpan m).2) false = .ok)
    (hr : s.engReads o p stashRec (stashOffs (tileBytes m k 0 (mhSpan m).1 0 (mhSpan m).2)) = (vs, s1)) :
    exec (.aldComplete o.id) s = .next ((s1.modPos p.id (·.modTile tid
      (·.landed (aldCells m k (byteMap (tileBytes m k 0 (mhSpan m).1 0 (mhSpan m).2) vs)) none))).finishOp o none) := by
  show execAldComplete o.id s = _
  simp only [execAldComplete, ho, hk, placeOf_of_posOf hp, hw, ht, hm, hr, Bool.not_true, Bool.or_self, Bool.false_eq_true, if_false]

/-! ### A store of a tile completes -/

/-- What a tile's store writes at the bytes `l`, one after another. -/
def State.astWrites (s : State) (pos : Nat) (es : List (Nat × Nat × Nat × Flags)) (w : Nat) (l : List Nat) : State :=
  l.foldl (fun s b =>
    let (fill, s1) := s.drawByte
    s1.engStash pos b (astByte es w b fill)) s

theorem exec_astComplete_ok {k : Nat} {m : BitVec 128} {r : Rnd} {cells : List Word} (ho : s.opOf o.id = some o)
    (hk : o.kind = .ast m r k cells) (hp : s.posOf o.pos = some p) (hw : s.opWaits o = false)
    (hm : s.stashMeets p ((astElems m r k cells).flatMap fun e => elemBytes (elemBits (tagFmt (mhTag m))) e.1 e.2.1).eraseDups true = .ok) :
    exec (.astComplete o.id) s = .next (((s.astWrites p.id (astElems m r k cells) (elemBits (tagFmt (mhTag m)))
      ((astElems m r k cells).flatMap fun e => elemBytes (elemBits (tagFmt (mhTag m))) e.1 e.2.1).eraseDups).modBlock o.pos o.stage fun b =>
        { b with mstat := raiseMstat b.mstat (joinAll ((astElems m r k cells).map (·.2.2.2))) }).finishOp o none) := by
  show execAstComplete o.id s = _
  simp only [execAstComplete, ho, hk, placeOf_of_posOf hp, hw, hm, Bool.false_eq_true, if_false]
  rfl

/-- Each byte that a tile's store meets takes its elements' bits; memory and every other byte stay. -/
theorem astWrites_posOf {pos : Nat} {es : List (Nat × Nat × Nat × Flags)} {w : Nat} (l : List Nat) {s : State} {p : Position}
    (hp : s.posOf pos = some p) (hw : ∀ b ∈ l, p.windowAt b = none) :
    (s.astWrites pos es w l).c.mem = s.c.mem ∧ ∃ q, (s.astWrites pos es w l).posOf pos = some q ∧
      (∀ b, b ∉ l → memGet q.stash b = memGet p.stash b) ∧ ∀ b ∈ l, ∃ fill, memGet q.stash b = astByte es w b fill := by
  induction l generalizing s p with
  | nil => exact ⟨rfl, p, hp, fun _ _ => rfl, fun b hb => by cases hb⟩
  | cons a l ih =>
    have hp1 : s.drawByte.2.posOf pos = some p := hp
    obtain ⟨hpos, hmem⟩ := engStash_posOf (v := astByte es w a s.drawByte.1) hp1 (hw a List.mem_cons_self)
    obtain ⟨hm, q, hq, hother, hthere⟩ := ih hpos fun b hb => hw b (List.mem_cons_of_mem _ hb)
    refine ⟨hm.trans hmem, q, hq, fun b hb => ?_, fun b hb => ?_⟩
    · obtain ⟨hne, hnot⟩ := not_or.1 (mt List.mem_cons.2 hb)
      rw [hother b hnot]
      exact memGet_memSet_other _ hne _
    · by_cases hin : b ∈ l
      · exact hthere b hin
      · obtain rfl : b = a := (List.mem_cons.1 hb).resolve_right hin
        exact ⟨_, (hother b hin).trans (memGet_memSet_same _ _ _)⟩

/-- The bits of a number written as a sum of powers of two. -/
theorem testBit_sum_bits (b : Nat → Bool) (n : Nat) :
    (((List.range n).map fun i => (b i).toNat * 2 ^ i).sum < 2 ^ n) ∧
      ∀ k, (((List.range n).map fun i => (b i).toNat * 2 ^ i).sum).testBit k = (decide (k < n) && b k) := by
  induction n with
  | zero => exact ⟨by simp, fun k => by simp⟩
  | succ n ih =>
    obtain ⟨hlt, hbit⟩ := ih
    have hle : (b n).toNat ≤ 1 := Bool.toNat_le _
    rw [List.range_succ, List.map_append, List.sum_append, List.map_singleton, List.sum_singleton]
    refine ⟨?_, fun k => ?_⟩
    · have := Nat.mul_le_mul_right (2 ^ n) hle
      rw [Nat.pow_succ]
      omega
    · rw [Nat.add_comm, Nat.mul_comm, Nat.testBit_two_pow_mul_add _ hlt]
      split
      · next hk => rw [hbit]; simp [hk, Nat.lt_succ_of_lt hk]
      · next hk =>
        rcases Nat.lt_or_ge n k with hn | hn
        · have hpow : (b n).toNat < 2 ^ (k - n) := lt_of_le_of_lt hle (Nat.one_lt_two_pow (by omega))
          rw [Nat.testBit_lt_two_pow hpow, decide_eq_false (by omega), Bool.false_and]
        · obtain rfl : k = n := by omega
          cases b k <;> simp

/-- A bit of what a tile's store writes: an element's bit, or a drawn one. -/
def astBit (es : List (Nat × Nat × Nat × Flags)) (w b : Nat) (fill : Byte) (i : Nat) : Bool :=
  (es.find? fun e => decide (8 * e.1 + w * e.2.1 ≤ 8 * b + i) && decide (8 * b + i < 8 * e.1 + w * e.2.1 + w)).elim
    (fill.toNat.testBit i) fun e => e.2.2.1.testBit (8 * b + i - (8 * e.1 + w * e.2.1))

theorem astByte_eq (es : List (Nat × Nat × Nat × Flags)) (w b : Nat) (fill : Byte) :
    astByte es w b fill = BitVec.ofNat 8 (((List.range 8).map fun i => (astBit es w b fill i).toNat * 2 ^ i).sum) := by
  have hbit : ∀ i, (astBit es w b fill i).toNat * 2 ^ i =
      ((es.find? fun e => decide (8 * e.1 + w * e.2.1 ≤ 8 * b + i) && decide (8 * b + i < 8 * e.1 + w * e.2.1 + w)).elim
        (fill.toNat / 2 ^ i % 2 * 2 ^ i) fun e => e.2.2.1 / 2 ^ (8 * b + i - (8 * e.1 + w * e.2.1)) % 2 * 2 ^ i) := fun i => by
    rw [astBit]
    cases es.find? _ <;> exact congrArg (· * 2 ^ i) (Nat.toNat_testBit ..)
  rw [astByte]
  simp only [hbit]
  refine congrArg (fun l => BitVec.ofNat 8 (List.sum l)) (List.map_congr_left fun i _ => ?_)
  cases es.find? _ <;> rfl

theorem getLsbD_astByte {es : List (Nat × Nat × Nat × Flags)} {w b j : Nat} {fill : Byte} (hj : j < 8) :
    (astByte es w b fill).getLsbD j = astBit es w b fill j := by
  rw [astByte_eq, BitVec.getLsbD_ofNat, (testBit_sum_bits (astBit es w b fill) 8).2 j, decide_eq_true hj, Bool.true_and, Bool.true_and]

/-- A bit that one element alone covers is that element's. -/
theorem astBit_of_unique {es : List (Nat × Nat × Nat × Flags)} {w i : Nat} {fill : Byte} {e : Nat × Nat × Nat × Flags} (he : e ∈ es)
    (hi : i < w) (hone : ∀ x ∈ es, 8 * x.1 + w * x.2.1 ≤ 8 * e.1 + w * e.2.1 + i →
      8 * e.1 + w * e.2.1 + i < 8 * x.1 + w * x.2.1 + w → x = e) :
    astBit es w ((8 * e.1 + w * e.2.1 + i) / 8) fill ((8 * e.1 + w * e.2.1 + i) % 8) = e.2.2.1.testBit i := by
  rw [astBit, Nat.div_add_mod]
  cases hf : es.find? fun x => decide (8 * x.1 + w * x.2.1 ≤ 8 * e.1 + w * e.2.1 + i) &&
      decide (8 * e.1 + w * e.2.1 + i < 8 * x.1 + w * x.2.1 + w) with
  | none =>
    have hno := List.find?_eq_none.1 hf e he
    simp only [Bool.and_eq_true, decide_eq_true_eq] at hno
    omega
  | some x =>
    have hx := List.find?_some hf
    simp only [Bool.and_eq_true, decide_eq_true_eq] at hx
    rw [hone x (List.mem_of_find?_eq_some hf) hx.1 hx.2, Option.elim_some, Nat.add_sub_cancel_left]

theorem mem_elemBytes {w row j i : Nat} (hi : i < w) : (8 * row + w * j + i) / 8 ∈ elemBytes w row j := by
  refine List.mem_map.2 ⟨(w * j + i) / 8 - w * j / 8, List.mem_range.2 ?_, ?_⟩
  · have := Nat.div_le_div_right (c := 8) (show w * j + i ≤ w * j + w - 1 by omega)
    have := Nat.div_le_div_right (c := 8) (show w * j ≤ w * j + i by omega)
    omega
  · have := Nat.div_le_div_right (c := 8) (show w * j ≤ w * j + i by omega)
    rw [show 8 * row + w * j + i = w * j + i + 8 * row by omega, Nat.add_mul_div_left _ _ (by omega)]
    omega

end

/-- Settles O25: a load reads its columns or cells as it completes; a store writes element by element into the bytes it meets. -/
theorem loftLoadsAndTileTransfers : Obligations.LoftLoadsAndTileTransfers := by
  refine ⟨⟨fun s h g l hs x q r i w hat he hr => turns_lload hat he hr, fun s o p l first k hs d ho hk hp hw _ =>
      ⟨fun hm hst hu hl => exec_lloadComplete_stash ho hk hp hw rfl hm hst hu hl, fun c hm => exec_lloadComplete_err ho hk hp hw rfl hm⟩⟩,
    fun s h g t mr m n hat he hm => ⟨fun new a => turns_ald hat he hm new a, fun rnd prev a x hx os u ht => exec_ast hat he hm hx ht⟩,
    fun s o p ho hp hw => ⟨fun a tid m k vs s1 hk ht hm hr => exec_aldComplete_ok ho hk hp hw ht hm hr, ?_⟩⟩
  intro m r k cells hk es w bs hm hwin
  have hpid : s.posOf p.id = some p := (id_of_posOf hp).symm ▸ hp
  obtain ⟨hmem, q, hq, hother, hthere⟩ := astWrites_posOf (es := es) (w := w) bs hpid hwin
  refine ⟨s.astWrites p.id es w bs, exec_astComplete_ok ho hk hp hw hm, hmem, ?_, ?_⟩
  · intro b hb
    rw [hq, hpid, Option.map_some, Option.map_some, hother b hb]
  · intro e he i hi bit hone
    have hb : bit / 8 ∈ bs := List.mem_eraseDups.2 (List.mem_flatMap.2 ⟨e, he, mem_elemBytes hi⟩)
    obtain ⟨fill, hfill⟩ := hthere _ hb
    rw [hq, Option.map_some, hfill, getLsbD_astByte (Nat.mod_lt _ (by omega))]
    exact congrArg some (astBit_of_unique he hi hone)

end Sys2Proof.Machine

/-! PROOF. Tiles: zeroing, reading, releasing (R186, R197, R199 to R202). -/

namespace Sys2Proof.Machine

section
variable {s : State} {h : Here} {g : Guard}

/-! ### Zeroing a tile -/

/-- What `azero` does for a lane. -/
def azeroAct (n : BitVec 4) (new : Bool) (a : BitVec 5) (s : State) (c : RCtx) (_ : Unit) : LaneEnd × State :=
  match s.viewer c.wk c.arm, s.posOf c.pos.id with
  | some v, some p =>
    let (r, s0) := s.algUse v n.toNat
    match r with
    | none => (.trap { cause := .algebraMismatch }, s0)
    | some r =>
      let m := s0.meetAcc p a.toNat new (algK r)
      let busy := match m with
        | .here t => t.pending != 0
        | _ => false
      if m == .wait || busy then (.park (.acc a.toNat), s)
      else match s.tileTrap (m.clash v) with
        | some e => (e, s0)
        | none =>
          let (tid, s1) := s0.bindAcc p.id a.toNat m (algK r) n.toNat
          (.out {}, (s1.wroteTile c v tid fun t =>
            { t with tag := (Tile.fresh 0 0 n.toNat).tag, cells := List.replicate (1024 * algK r) 0 }).modWarp
              v.wk (·.tick c.arm))
  | _, _ => (.out {}, s)

/-- The tile that `azero` leaves: its tag, and +0 in every cell. -/
def zeroedTile (n : BitVec 4) (k : Nat) (t : Tile) : Tile :=
  { t with tag := BitVec.ofNat 16 (1 + n.toNat * 2 ^ 8 + 2 ^ 12), cells := List.replicate (1024 * k) 0 }

theorem azeroAct_ok {n : BitVec 4} {new : Bool} {a : BitVec 5} {k : RCtx} {v : Viewer} {p : Position} {r : BitVec 512} {s0 s1 : State}
    {tid : Nat} (hv : s.viewer k.wk k.arm = some v) (hp : s.posOf k.pos.id = some p) (hu : s.algUse v n.toNat = (some r, s0))
    (hwait : s0.meetAcc p a.toNat new (algK r) ≠ .wait) (hpend : ∀ t, s0.meetAcc p a.toNat new (algK r) = .here t → t.pending = 0)
    (hclash : (s0.meetAcc p a.toNat new (algK r)).clash v = none)
    (hb : s0.bindAcc p.id a.toNat (s0.meetAcc p a.toNat new (algK r)) (algK r) n.toNat = (tid, s1)) :
    azeroAct n new a s k () = (.out {}, (s1.wroteTile k v tid (zeroedTile n (algK r))).modWarp v.wk (·.tick k.arm)) := by
  simp only [azeroAct, hv, hp, hu]
  generalize s0.meetAcc p a.toNat new (algK r) = m at *
  cases m with
  | wait => exact absurd rfl hwait
  | here t =>
    have hz : (t.pending != 0) = false := by rw [hpend t rfl]; rfl
    have hw : (Meet.here t == Meet.wait) = false := by simp
    simp only [hz, hw, hclash, hb, tileTrap_none, Bool.or_self, Bool.false_eq_true, if_false]
    rfl
  | bind ren =>
    have hw : (Meet.bind ren == Meet.wait) = false := by simp
    simp only [hw, hclash, hb, tileTrap_none, Bool.or_self, Bool.false_eq_true, if_false]
    rfl

theorem turns_azero (hat : s.here h) (he : h.epochs) (n : BitVec 4) (new : Bool) (a : BitVec 5) :
    s.Turns h g [] [] (.azero n new g a) fun s k out u =>
      ∃ v p r s0 tid s1, s.viewer k.wk k.arm = some v ∧ s.posOf k.pos.id = some p ∧ s.algUse v n.toNat = (some r, s0) ∧
        s0.meetAcc p a.toNat new (algK r) ≠ .wait ∧ (∀ t, s0.meetAcc p a.toNat new (algK r) = .here t → t.pending = 0) ∧
        (s0.meetAcc p a.toNat new (algK r)).clash v = none ∧
        s0.bindAcc p.id a.toNat (s0.meetAcc p a.toNat new (algK r)) (algK r) n.toNat = (tid, s1) ∧ out = {} ∧
        u = (s1.wroteTile k v tid (zeroedTile n (algK r))).modWarp v.wk (·.tick k.arm) := by
  refine turns_of hat (fun _ _ _ ht => (epochGuard_ok he).trans (perLane_turn (act := azeroAct n new a) (x := fun _ => ())
    (fun _ _ => rfl) (fun s k o u hP => ?_) ht)) rfl
  obtain ⟨v, p, r, s0, tid, s1, hv, hp, hu, hw, hpend, hclash, hb, rfl, rfl⟩ := hP
  exact azeroAct_ok hv hp hu hw hpend hclash hb

/-! ### Loading an algebra record -/

/-- What `alg` does for a lane. -/
def algAct (n : BitVec 4) (p : Src) (s : State) (c : RCtx) (off : Nat) : LaneEnd × State :=
  match s.viewer c.wk c.arm with
  | none => (.out {}, s)
  | some v =>
    if off % 64 != 0 then (.trap (memTrap .misaligned 0 off), s)
    else if s.stashLimit c < off + 64 then (.trap (memTrap .stashUndeclared 0 off), s)
    else if n.toNat < 5 then (.trap (opTrap .algRecordBad 1 p.spec), s)
    else match s.checkLine c.pos off 64, s.racesAt v c.pos stashRec ((List.range 64).map fun i => some (off + i)) .read with
      | .trap t, _ => (.trap t, s)
      | .wait w, _ => (.park w, s.wantLine c.pos off c.party false)
      | _, some e => (e, s)
      | _, none =>
        let (bs, s1) := s.peekStash v c.lane c.pos.id off 64
        let r : BitVec 512 := BitVec.ofNat 512 (leNat bs)
        if algBad r then (.trap (opTrap .algRecordBad 1 p.spec), s1)
        else
          let s2 := s1.recordAll v c.pos stashRec ((List.range 64).map fun i => some (off + i)) .read
          (.out { frees := [p] }, s2.modCtx v.ctx (·.putAlg n.toNat r v))

theorem algAct_ok {n : BitVec 4} {p : Src} {k : RCtx} {off : Nat} {v : Viewer} {bs : List Byte} {s1 : State} (hn : 5 ≤ n.toNat)
    (hv : s.viewer k.wk k.arm = some v) (ha : off % 64 = 0) (hl : off + 64 ≤ s.stashLimit k) (hc : ∃ x, s.checkLine k.pos off 64 = .ok x)
    (hr : s.racesAt v k.pos stashRec ((List.range 64).map fun i => some (off + i)) .read = none)
    (hb : s.peekStash v k.lane k.pos.id off 64 = (bs, s1)) (hgood : algBad (BitVec.ofNat 512 (leNat bs)) = false) :
    algAct n p s k off = (.out { frees := [p] }, (s1.recordAll v k.pos stashRec ((List.range 64).map fun i => some (off + i)) .read).modCtx
      v.ctx (·.putAlg n.toNat (BitVec.ofNat 512 (leNat bs)) v)) := by
  obtain ⟨x, hx⟩ := hc
  simp only [algAct, hv, ha, bne_self_eq_false, Bool.false_eq_true, if_false, Nat.not_lt.2 hl, Nat.not_lt.2 hn, hx, hr, hb, hgood]

theorem turns_alg {n : BitVec 4} {p : Src} {off : RCtx → Nat} (hat : s.here h) (hn : 5 ≤ n.toNat)
    (hoff : ∀ k ∈ h.lanes g, rdNat k 1 p = .ok (off k)) :
    s.Turns h g [] [p.spec] (.alg n g p) fun s k out u =>
      ∃ v bs s1, s.viewer k.wk k.arm = some v ∧ off k % 64 = 0 ∧ off k + 64 ≤ s.stashLimit k ∧
        (∃ x, s.checkLine k.pos (off k) 64 = .ok x) ∧
        s.racesAt v k.pos stashRec ((List.range 64).map fun i => some (off k + i)) .read = none ∧
        s.peekStash v k.lane k.pos.id (off k) 64 = (bs, s1) ∧
        algBad (BitVec.ofNat 512 (leNat bs)) = false ∧ out = { frees := [p] } ∧
        u = (s1.recordAll v k.pos stashRec ((List.range 64).map fun i => some (off k + i)) .read).modCtx v.ctx
          (·.putAlg n.toNat (BitVec.ofNat 512 (leNat bs)) v) := by
  refine turns_of hat (fun _ _ _ ht => perLane_turn (act := algAct n p) (x := off) hoff (fun s k o u hP => ?_) ht) rfl
  obtain ⟨v, bs, s1, hv, ha, hl, hc, hr, hb, hgood, rfl, rfl⟩ := hP
  exact algAct_ok hn hv ha hl hc hr hb hgood

/-! ### Reads of a full tile -/

/-- What `arel` does for a lane. -/
def arelAct (a : Src) (prev : Bool) (s : State) (c : RCtx) (_ : Unit) : LaneEnd × State :=
  match s.viewer c.wk c.arm, s.posOf c.pos.id with
  | some v, some p =>
    match readTile { c with pos := p } { a with trap := false } prev with
    | .ok t =>
      (match s.tileTrap (t.clash v .write) with
      | some e => (e, s)
      | none => (.out {}, s))
    | .trap t => (.trap t, s)
    | .park w => (.park w, s)
    | .stall => (.park .backPressure, s)
  | _, _ => (.out {}, s)

theorem arelAct_ok {a : Src} {prev : Bool} {k : RCtx} {v : Viewer} {p : Position} {x : Tile} (hv : s.viewer k.wk k.arm = some v)
    (hp : s.posOf k.pos.id = some p) (hx : readTile { k with pos := p } { a with trap := false } prev = .ok x)
    (hc : x.clash v .write = none) : arelAct a prev s k () = (.out {}, s) := by
  simp only [arelAct, hv, hp, hx, hc, tileTrap_none]

theorem exec_arel {prev : Bool} {a : Src} (hat : s.here h) {os : List (Nat × LaneOut)} {t : State}
    (ht : State.InTurn (fun s k out u => ∃ v p x, s.viewer k.wk k.arm = some v ∧ s.posOf k.pos.id = some p ∧
      readTile { k with pos := p } { a with trap := false } prev = .ok x ∧ x.clash v .write = none ∧ out = {} ∧ u = s) s (h.lanes g) os t) :
    exec (.arel prev g a) s = .next ((t.usedLast h g (accName a) prev true).done h [] os) := by
  rw [← takesBatons_none (s := s) (wk := h.a.wk) (arm := h.a.arm) (cs := h.lanes g) batonsOf_nil] at ht
  refine exec_lastUse (a := { a with last := true }) (early := []) hat rfl ht
    (perLane_turn (act := arelAct a prev) (x := fun _ => ()) (fun _ _ => rfl) (fun s k o u hP => ?_) ht)
  obtain ⟨v, p, x, hv, hp, hx, hc, rfl, rfl⟩ := hP
  exact arelAct_ok hv hp hx hc

/-- What `mwait` does for a lane. -/
def mwaitAct (a : Src) (s : State) (c : RCtx) (t : Tile) : LaneEnd × State :=
  match s.viewer c.wk c.arm with
  | none => (.out {}, s)
  | some v =>
    match s.tileTrap (t.clash (v.after t.front) (tileKind a)), t.cause with
    | some e, _ => (e, s)
    | none, some (x, tag) => (.trap (tagTrap x tag), s)
    | none, none => (.out { frees := [a] }, s.tookTile c v t)

theorem mwaitAct_ok {a : Src} {k : RCtx} {v : Viewer} {x : Tile} (hv : s.viewer k.wk k.arm = some v)
    (hc : x.clash (v.after x.front) (tileKind a) = none) (hcause : x.cause = none) :
    mwaitAct a s k x = (.out { frees := [a] }, s.tookTile k v x) := by
  simp only [mwaitAct, hv, hc, hcause, tileTrap_none]

theorem exec_mwait {prev : Bool} {a : Src} {x : RCtx → Tile} (hat : s.here h) (he : h.epochs)
    (hx : ∀ k ∈ h.lanes g, readTile k a prev = .ok (x k)) {os : List (Nat × LaneOut)} {t : State}
    (ht : State.InTurn (fun s k out u => ∃ v, s.viewer k.wk k.arm = some v ∧
      (x k).clash (v.after (x k).front) (tileKind a) = none ∧ (x k).cause = none ∧ out = { frees := [a] } ∧
      u = s.tookTile k v (x k)) s (h.lanes g) os t) :
    exec (.mwait prev g a) s = .next ((t.usedLast h g (accName a) prev a.last).done h [] os) := by
  rw [← takesBatons_none (s := s) (wk := h.a.wk) (arm := h.a.arm) (cs := h.lanes g) batonsOf_nil] at ht
  refine exec_lastUse (early := []) hat rfl ht ((epochGuard_ok he).trans
    (perLane_turn (act := mwaitAct a) (x := x) (fun k hk => ?_) (fun s k o u hP => ?_) ht))
  · simp only [hx k hk, LaneStep.parks]
  · obtain ⟨v, hv, hc, hcause, rfl, rfl⟩ := hP
    exact mwaitAct_ok hv hc hcause

/-- What `amov` does for a lane. -/
def amovAct (comp : BitVec 3) (d : Dst) (a i : Src) (s : State) (c : RCtx) (x : Tile × Nat) : LaneEnd × State :=
  match s.viewer c.wk c.arm with
  | none => (.out {}, s)
  | some v =>
    match s.tileTrap (x.1.clash (v.after x.1.front) (tileKind a)) with
    | some e => (e, s)
    | none =>
      let (o, s1) := (s.tookTile c v x.1).deliver v c d ⟨(x.1.cells[1024 * comp.toNat + x.2]?).getD 0, F.f32⟩ [a, i]
      (.out o, s1)

theorem amovAct_ok {comp : BitVec 3} {d : Dst} {a i : Src} {k : RCtx} {v : Viewer} {x : Tile} {n : Nat} (hv : s.viewer k.wk k.arm = some v)
    (hc : x.clash (v.after x.front) (tileKind a) = none) :
    amovAct comp d a i s k (x, n) = (.out { empties := emptied d.spec, frees := [a, i] }, (s.tookTile k v x).addFill k.pos.core k.wk k.lane
      d.spec ⟨(x.cells[1024 * comp.toNat + n]?).getD 0, F.f32⟩ v.party) := by
  simp only [amovAct, hv, hc, tileTrap_none]
  rfl

theorem exec_amov {prev : Bool} {a : Src} {x : RCtx → Tile} {comp : BitVec 3} {d : Dst} {i : Src} {n : RCtx → Nat} (hat : s.here h)
    (he : h.epochs) (hx : ∀ k ∈ h.lanes g, readTile k a prev = .ok (x k)) (hw : h.Writable g (fileDst d) [])
    (hn : ∀ k ∈ h.lanes g, rdNat k 2 i = .ok (n k) ∧ n k < 1024 ∧ comp.toNat < (x k).k) {os : List (Nat × LaneOut)} {t : State}
    (ht : State.InTurn (fun s k out u => ∃ v, s.viewer k.wk k.arm = some v ∧
      (x k).clash (v.after (x k).front) (tileKind a) = none ∧ out = { empties := emptied d.spec, frees := [a, i] } ∧
      u = (s.tookTile k v (x k)).addFill k.pos.core k.wk k.lane d.spec
        ⟨((x k).cells[1024 * comp.toNat + n k]?).getD 0, F.f32⟩ v.party) (s.acquires h g [i.spec]) (h.lanes g) os t) :
    exec (.amov comp prev g d a i) s = .next ((t.usedLast h g (accName a) prev a.last).done h [d.spec] os [i.spec]) := by
  refine exec_lastUse hat rfl ht ((epochGuard_ok he).trans
    (perLane_turn (act := amovAct comp d a i) (x := fun k => (x k, n k)) (fun k hk => ?_) (fun s k o u hP => ?_) ht))
  · obtain ⟨hi, hlt, hcomp⟩ := hn k hk
    simp only [hx k hk, hi, hw k hk, LaneStep.bind, LaneStep.require, LaneStep.map, decide_eq_true hlt, decide_eq_true hcomp, if_true]
  · obtain ⟨v, hv, hc, rfl, rfl⟩ := hP
    exact amovAct_ok hv hc

end

/-- Settles O26: a tile is zeroed, read and released lane by lane; a last use is noted once for the arm. -/
theorem tiles : Obligations.Tiles := by
  refine ⟨fun s h g hat => ⟨fun he n new a => turns_azero hat he n new a, fun n p off hn hoff => turns_alg hat hn hoff⟩,
    fun s h g prev a hat => ⟨fun os t ht => exec_arel hat ht, fun he x hx => ⟨fun os t ht => exec_mwait hat he hx ht,
      fun comp d i n hw hn os t ht => exec_amov hat he hx hw hn ht⟩⟩⟩

end Sys2Proof.Machine

/-! PROOF. The forms on elements, tags, tiles and Loft slots for a single lane. -/

namespace Sys2Proof.Machine

section
variable {s : State} {k : WKey} {n : Nat}

/-! ### Epochs that a warp has left -/

/-- The warp has more than `n` epochs left. -/
def State.spare (s : State) (k : WKey) (n : Nat) : Prop := ∃ e, s.epochAt k = some e ∧ e + n < 2 ^ 48

theorem spare_here {h : Here} (hat : s.here h) (he : h.epochs) : s.spare h.c.wk 8 := ⟨_, epochAt_here hat, he⟩

theorem overspent_of_spare (h : s.spare k n) : s.overspent k = false := by
  obtain ⟨e, he, hlt⟩ := h
  exact overspent_of_epochAt he (by omega)

theorem State.spare.of_eq {t : State} (h : s.spare k n) (ht : t.epochAt k = s.epochAt k) : t.spare k n := by
  obtain ⟨e, he, hlt⟩ := h
  exact ⟨e, ht.trans he, hlt⟩

/-- A change of a warp takes at most one epoch. -/
theorem State.spare.modWarp {k' : WKey} {f : Warp → Warp} (h : s.spare k (n + 1)) (hidx : ∀ w, (f w).idx = w.idx := by intro _; rfl)
    (hf : ∀ w, (f w).epoch ≤ w.epoch + 1 := by intro _; exact Nat.le_refl _) : (s.modWarp k' f).spare k n := by
  obtain ⟨e, he, hlt⟩ := h
  by_cases hk : k = k'
  · subst hk
    obtain ⟨w, hw, rfl⟩ := Option.map_eq_some_iff.1 he
    have hle := hf w
    exact ⟨(f w).epoch, by rw [State.epochAt, State.warpOf_modWarp _ _ _ hidx, hw]; rfl, by omega⟩
  · exact ⟨e, by rw [State.epochAt, warpOf_modWarp_ne hidx hk]; exact he, by omega⟩

theorem epochAt_recordAll (v : Viewer) (p : Position) (r : BitVec 128) (bs : List (Option Nat)) (a : AccKind) :
    (s.recordAll v p r bs a).epochAt k = s.epochAt k := by
  refine foldl_unseen (State.epochAt · k) (fun s x => ?_) bs s
  cases x with
  | none => rfl
  | some off =>
    simp only [State.recordRace]
    split
    · rfl
    · exact foldl_unseen (State.epochAt · k) (fun s i => epochAt_of_positions (t := s.modC _) rfl k) _ s

theorem State.spare.issueOp {v : Viewer} {c : RCtx} {tags : List Nat} {o : OpKind} {need : Nat} {mtx : Bool} (h : s.spare k (n + 1)) :
    (s.issueOp v c tags o need mtx).spare k n := by
  refine State.spare.modWarp ?_
  have htags : ∀ (f : Nat → Frontier) (u : State), (tags.foldl (fun s i => s.modPos v.wk.pos (·.modTag i (·.issue (f i)))) u).epochAt k
      = u.epochAt k := fun f u => foldl_unseen (State.epochAt · k) (fun s i => epochAt_modPos (f := (·.modTag i (·.issue (f i))))) tags u
  exact h.of_eq ((epochAt_of_positions rfl k).trans ((htags _ _).trans ((epochAt_of_positions rfl k).trans (epochAt_performReds ..))))

theorem epochAt_wroteTile (c : RCtx) (v : Viewer) (tid : Nat) (f : Tile → Tile) : (s.wroteTile c v tid f).epochAt k = s.epochAt k :=
  epochAt_modPos (f := (·.modTile tid _))

theorem State.spare.tookTile {c : RCtx} {v : Viewer} {t : Tile} (h : s.spare k (n + 1)) : (s.tookTile c v t).spare k n :=
  State.spare.modWarp (h.of_eq (epochAt_modPos (f := (·.modTile t.id _))))

theorem epochAt_bindAcc (pos a : Nat) (m : Meet) (i alg : Nat) : (s.bindAcc pos a m i alg).2.epochAt k = s.epochAt k := by
  cases m with
  | bind ren => exact epochAt_modPos (s := s.fresh.2) (f := (·.modAcc a _))
  | here t => rfl
  | wait => rfl

theorem epochAt_detFence {v : Viewer} {lane : Nat} {t : State} (h : s.detFence v lane = some t) : t.epochAt k = s.epochAt k := by
  unfold State.detFence at h
  split at h
  · rw [← Option.some.inj h]
  · split at h
    · cases h
    · rw [← Option.some.inj h]
      exact epochAt_modWarp (f := (·.modThreads [lane] _))

theorem epochAt_algUse (v : Viewer) (i : Nat) : (s.algUse v i).2.epochAt k = s.epochAt k := by
  unfold State.algUse
  split
  · rfl
  · split <;> rfl

theorem putHandle_idx (w : Warp) (i : Nat) (r : BitVec 128) : (w.putHandle i r).idx = w.idx := by
  unfold Warp.putHandle
  split <;> rfl

theorem putHandle_epoch (w : Warp) (i : Nat) (r : BitVec 128) : (w.putHandle i r).epoch = w.epoch := by
  unfold Warp.putHandle
  split <;> rfl

theorem overspent_modCtx (s : State) (i : Nat) (f : Ctx → Ctx) (k : WKey) : (s.modCtx i f).overspent k = s.overspent k := rfl

theorem stashSeen_positions (o : EngOp) (cur : Byte) (l : List Unfenced) (s : State) : (stashSeen o cur l s).2.c = s.c := by
  induction l generalizing s cur with
  | nil => rfl
  | cons u us ih =>
    simp only [stashSeen]
    split
    · rfl
    · split
      · rfl
      · exact ih _ _

theorem engReads_stash_c {r : BitVec 128} (hst : recStash r = true) (o : EngOp) (p : Position) (l : List (Option Nat)) (s : State) :
    (s.engReads o p r l).2.c = s.c := by
  refine foldl_unseen (fun x : List Byte × State => x.2.c) (fun x b => ?_) l ([], s)
  cases b with
  | none => rfl
  | some off =>
    simp only [State.engRead, hst, if_true]
    split
    · exact stashSeen_positions ..
    · rfl

theorem epochAt_peekStash (v : Viewer) (lane pos off len : Nat) : (s.peekStash v lane pos off len).2.epochAt k = s.epochAt k := by
  simp only [State.peekStash]
  split
  · exact epochAt_of_positions (congrArg Compute.positions (engReads_stash_c (by decide) ..)) k
  · rfl

theorem State.spare.addFill {core : Nat} {wk : WKey} {lane : Nat} {d : Spec} {v : TV} {p : Party} (h : s.spare k n) :
    (s.addFill core wk lane d v p).spare k n := by
  cases d <;> exact h

end

/-! ### One lane's results -/

section
variable {s : State} {h : Here} {g : Guard} {k : RCtx}

theorem Delivers_single {d : Dst} {srcs : List Src} {i : Instr} {val : RCtx → TV × Flags} (hd : s.Delivers h g d srcs i val)
    (hk : h.lanes g = [k]) (hw : wrOk k d srcs = .ok ()) : exec i s = .next (s.done h [d.spec] [(k.lane, .one d srcs (val k))]) := by
  rw [State.Delivers, State.wrote, hk] at hd
  refine hd (fun l hl => ?_) fun _ l hl m hm => ?_
  · rw [List.mem_singleton.1 hl, hw]
  · rw [List.mem_singleton.1 hl, List.mem_singleton.1 hm]

/-- What holds of the only lane holds of each. -/
theorem forall_lanes {P : RCtx → Prop} (hk : h.lanes g = [k]) (hP : P k) : ∀ l ∈ h.lanes g, P l := by
  rw [hk]
  exact List.forall_mem_singleton.2 hP

/-- The only lane, acting in turn. -/
theorem inTurn_single {P : State → RCtx → LaneOut → State → Prop} {early : List Spec} {o : LaneOut} {u : State} (hk : h.lanes g = [k])
    (hb : batonsOf early = []) (hP : P s k o u) (hspent : u.overspent k.wk = false) :
    State.InTurn P (s.acquires h g early) (h.lanes g) [(k.lane, o)] u := by
  rw [State.acquires, takesBatons_none hb, hk]
  exact ⟨o, u, [], rfl, hP, hspent, rfl, rfl⟩

theorem readTile_ok {p : Position} {a : Src} {prev : Bool} {t : Tile} (ht : (p.accAt (accName a)).tile prev = some t) (hp : t.pending = 0)
    (hk : k.pos = p) : readTile k a prev = .ok t := by
  simp only [readTile, hk, ht, hp, if_true]

end

/-! ### Each form for its arm's only lane -/

section
variable {s : State} {h : Here} {g : Guard} {k : RCtx} {v : Viewer} {p : Position}

theorem elements_single (hat : s.here h) (hk : h.lanes g = [k]) :
    ∀ (d : Dst) (a b e : Src) (ra rb re : RV) (f : Fmt), rd k 1 a = .ok ra → rd k 2 b = .ok rb → rd k 3 e = .ok re →
      ra.tag = .tag f → 1 < elemCount f →
      (wrOk k d [a, b, e] = .ok () → (rb.tag = .tag f ∨ rb.tag = .zeroSp) → re.bits.toNat < elemCount f →
        exec (.pack g d a b e) s = .next (s.done h [d.spec] [(k.lane, .one d [a, b, e] (⟨trimL6 f (setElem (elemBits f) rb.bits re.bits.toNat (elemAt (elemBits f) ra.bits 0)), f⟩, {}))])) ∧
      (wrOk k d [a, b] = .ok () → rb.bits.toNat < elemCount f →
        let el : Nat := elemAt (elemBits f) ra.bits rb.bits.toNat
        exec (.unpk false g d a b) s = .next (s.done h [d.spec] [(k.lane, .one d [a, b] (⟨BitVec.ofNat 32 el, f⟩, {}))]) ∧
        exec (.unpk true g d a b) s = .next (s.done h [d.spec] [(k.lane, .one d [a, b] (⟨wideBits f el,
          if isSigned f then F.s32 else if isUnsigned f then F.n32 else F.f32⟩, {}))])) := by
  intro d a b e ra rb re f ha hb he htag hcount
  refine ⟨fun hw hbt hlt => ?_, fun hw hlt => ⟨?_, ?_⟩⟩
  · have hd := delivers_pack (d := d) (ra := fun _ => ra) (rb := fun _ => rb) (re := fun _ => re) (f := fun _ => f) hat
      (forall_lanes hk ha) (forall_lanes hk hb) (forall_lanes hk he) fun _ _ => ⟨htag, hcount, hbt, hlt⟩
    have hx := Delivers_single hd hk hw
    exact hx
  · have hd := delivers_unpk (d := d) (wide := false) (ra := fun _ => ra) (rb := fun _ => rb) (f := fun _ => f) hat
      (forall_lanes hk ha) (forall_lanes hk hb) fun _ _ => ⟨htag, hcount, hlt⟩
    have hx := Delivers_single hd hk hw
    exact hx
  · have hd := delivers_unpk (d := d) (wide := true) (ra := fun _ => ra) (rb := fun _ => rb) (f := fun _ => f) hat
      (forall_lanes hk ha) (forall_lanes hk hb) fun _ _ => ⟨htag, hcount, hlt⟩
    have hx := Delivers_single hd hk hw
    exact hx

theorem tags_single (hat : s.here h) (hk : h.lanes g = [k]) :
    ∀ (d : Dst) (a b : Src) (ra rb : RV), rd k 1 a = .ok ra → rd k 2 b = .ok rb →
      (wrOk k d [a] = .ok () → ∀ f : Fmt, exec (.tagw (.fmt f) g d a b) s = .next (s.done h [d.spec] [(k.lane, .one d [a] (⟨ra.bits, f⟩, {}))])) ∧
      (wrOk k d [a, b] = .ok () → rb.bits.toNat < 14 →
        exec (.tagw .reg g d a b) s = .next (s.done h [d.spec] [(k.lane, .one d [a, b] (⟨ra.bits, rb.bits.setWidth 5⟩, {}))])) ∧
      (wrOk k d [a] = .ok () → (∀ i j l, a.spec ≠ .m i ∧ a.spec ≠ .l j ∧ a.spec ≠ .a l) →
        exec (.tagr g d a) s = .next (s.done h [d.spec] [(k.lane, .one d [a] (⟨BitVec.ofNat 32 ra.outTag.toNat, F.n32⟩, {}))])) := by
  intro d a b ra rb ha hb
  refine ⟨fun hw f => ?_, fun hw hlt => ?_, fun hw hs => ?_⟩
  · have hd := delivers_tagw_fmt (d := d) (b := b) (f := f) (ra := fun _ => ra) hat (forall_lanes hk ha)
    have hx := Delivers_single hd hk hw
    exact hx
  · have hd := delivers_tagw_reg (d := d) (ra := fun _ => ra) (rb := fun _ => rb) hat (forall_lanes hk ha) (forall_lanes hk hb) fun _ _ => hlt
    have hx := Delivers_single hd hk hw
    exact hx
  · have hd := delivers_tagr (d := d) (n := fun _ => ra.outTag.toNat) (val := fun _ => ⟨BitVec.ofNat 32 ra.outTag.toNat, F.n32⟩) hat
      (fun i => (hs 0 0 i).2.2) (forall_lanes hk (tagOf_of_reg ha hs)) fun _ => rfl
    have hx := Delivers_single hd hk hw
    exact hx

theorem rpool_single (hat : s.here h) (hk : h.lanes g = [k]) :
    ∀ d : Dst, wrOk k d [] = .ok () → exec (.rpool 0 g d) s = .next (s.done h [d.spec] [(k.lane, .one d [] (⟨BitVec.ofNat 32 k.warp.gran, F.n32⟩, {}))]) := by
  intro d hw
  have hd := delivers_rpool (g := g) (d := d) (which := 0) (n := fun k => k.warp.gran) hat fun _ => rfl
  have hx := Delivers_single hd hk hw
  exact hx

theorem pair_single (hat : s.here h) (hk : h.lanes g = [k]) :
    ∀ (ha hb : Half) (a1 a2 b1 b2 : RV) (va vb : TV × Flags), g.neg = false → rd k 1 (halfSrc ha.a) = .ok a1 →
      rd k 2 (halfSrc ha.b) = .ok a2 → rd k 1 (halfSrc hb.a) = .ok b1 → rd k 2 (halfSrc hb.b) = .ok b2 →
      wrOk k ⟨.v ha.dst, false⟩ [] = .ok () → wrOk k ⟨.v hb.dst, false⟩ [] = .ok () →
      evalHalf ha.op a1 a2 = .ok va → evalHalf hb.op b1 b2 = .ok vb →
      exec (.pair g.pred ha hb) s = .next (s.done h [.v ha.dst, .v hb.dst] [(k.lane,
        { writes := [(⟨.v ha.dst, false⟩, va.1), (⟨.v hb.dst, false⟩, vb.1)], flags := va.2.join vb.2 })]) := by
  intro ha hb a1 a2 b1 b2 va vb hg h1 h2 h3 h4 hwa hwb hva hvb
  obtain ⟨gp, neg⟩ := g
  obtain rfl : neg = false := hg
  obtain ⟨-, -, -, -, -, -, -, -, hpair⟩ := elementsTagsAndPairs s h ⟨gp, false⟩ ⟨.v ha.dst, false⟩ (halfSrc ha.a) hat
  have hx := hpair gp ha hb (fun _ => a1) (fun _ => a2) (fun _ => b1) (fun _ => b2) (fun _ => va) (fun _ => vb)
    (forall_lanes hk h1) (forall_lanes hk h2) (forall_lanes hk h3) (forall_lanes hk h4) (forall_lanes hk hwa) (forall_lanes hk hwb)
    (forall_lanes hk ⟨hva, hvb⟩)
  rwa [State.wrote, hk] at hx

theorem azero_single (hat : s.here h) (hk : h.lanes g = [k]) (he : h.epochs) (hv : s.viewer k.wk k.arm = some v) (hpos : k.pos = p) (hp : s.posOf p.id = some p) :
    ∀ (n : BitVec 4) (new : Bool) (a : BitVec 5) (r : BitVec 512) (s0 s1 : State) (tid : Nat),
      s.algUse v n.toNat = (some r, s0) →
      let m := s0.meetAcc p a.toNat new (algK r)
      m ≠ .wait → (∀ t, m = .here t → t.pending = 0) → m.clash v = none → s0.bindAcc p.id a.toNat m (algK r) n.toNat = (tid, s1) →
      exec (.azero n new g a) s = .next (((s1.wroteTile k v tid fun t =>
        { t with tag := BitVec.ofNat 16 (1 + n.toNat * 2 ^ 8 + 2 ^ 12), cells := List.replicate (1024 * algK r) 0 }).modWarp v.wk
          (·.tick k.arm)).done h [] [(k.lane, {})]) := by
  have hmem : k ∈ h.lanes g := hk ▸ List.mem_singleton_self k
  have hspare : s.spare k.wk 8 := wk_of_lane hmem ▸ spare_here hat he
  have hposk : s.posOf k.pos.id = some p := hpos ▸ hp
  intro n new a r s0 s1 tid hu m hwait hpend hclash hb
  have hs1 : s1.spare k.wk 8 := hspare.of_eq (by
    have h0 := epochAt_algUse (s := s) (k := k.wk) v n.toNat
    have h1 := epochAt_bindAcc (s := s0) (k := k.wk) p.id a.toNat m (algK r) n.toNat
    rw [hu] at h0
    rw [hb] at h1
    exact h1.trans h0)
  have hturn := turns_azero (g := g) hat he n new a
  exact Turns_single hturn hk batonsOf_nil ⟨v, p, r, s0, tid, s1, hv, hposk, hu, hwait, hpend, hclash, hb, rfl, rfl⟩
    (overspent_of_spare (n := 7) (State.spare.modWarp (hs1.of_eq (epochAt_wroteTile ..))))

theorem alg_single (hat : s.here h) (hk : h.lanes g = [k]) (he : h.epochs) (hv : s.viewer k.wk k.arm = some v) (hpos : k.pos = p) (hp : s.posOf p.id = some p) :
    ∀ (n : BitVec 4) (a : Src) (off : Nat) (bs : List Byte) (s1 : State), 5 ≤ n.toNat → rdNat k 1 a = .ok off →
      off % 64 = 0 → batonsOf [a.spec] = [] → off + 64 ≤ s.stashLimit k →
      let line : List (Option Nat) := (List.range 64).map fun i => some (off + i)
      (∃ x, s.checkLine p off 64 = .ok x) → s.racesAt v p stashRec line .read = none →
      s.peekStash v k.lane p.id off 64 = (bs, s1) → algBad (BitVec.ofNat 512 (leNat bs)) = false →
      exec (.alg n g a) s = .next (((s1.recordAll v p stashRec line .read).modCtx v.ctx
        (·.putAlg n.toNat (BitVec.ofNat 512 (leNat bs)) v)).done h [] [(k.lane, { frees := [a] })]) := by
  have hmem : k ∈ h.lanes g := hk ▸ List.mem_singleton_self k
  have hspare : s.spare k.wk 8 := wk_of_lane hmem ▸ spare_here hat he
  have hposk : s.posOf k.pos.id = some p := hpos ▸ hp
  intro n a off bs s1 hn hoff ha hb hl line hc hr hpeek hgood
  have hs1 : s1.spare k.wk 8 := hspare.of_eq (by
    have h0 := epochAt_peekStash (s := s) (k := k.wk) v k.lane p.id off 64
    rwa [hpeek] at h0)
  subst hpos
  have hturn := turns_alg (off := fun _ => off) hat hn (forall_lanes hk hoff)
  have hspent : ((s1.recordAll v k.pos stashRec line .read).modCtx v.ctx
      (·.putAlg n.toNat (BitVec.ofNat 512 (leNat bs)) v)).overspent k.wk = false := by
    rw [overspent_modCtx]
    exact overspent_of_spare (hs1.of_eq (epochAt_recordAll v k.pos stashRec line .read))
  exact Turns_single hturn hk hb ⟨v, bs, s1, hv, ha, hl, hc, hr, hpeek, hgood, rfl, rfl⟩ hspent

theorem tile_single (hat : s.here h) (hk : h.lanes g = [k]) (he : h.epochs) (hv : s.viewer k.wk k.arm = some v) (hpos : k.pos = p) (hp : s.posOf p.id = some p) :
    ∀ (prev : Bool) (a : Src) (t : Tile), (p.accAt (accName a)).tile prev = some t → t.pending = 0 →
      (t.clash v .write = none →
        exec (.arel prev g a) s = .next ((s.usedLast h g (accName a) prev true).done h [] [(k.lane, {})])) ∧
      (t.clash (v.after t.front) (tileKind a) = none → t.cause = none →
        exec (.mwait prev g a) s = .next (((s.tookTile k v t).usedLast h g (accName a) prev a.last).done h []
          [(k.lane, { frees := [a] })])) ∧
      (t.clash (v.after t.front) (tileKind a) = none → ∀ (comp : BitVec 3) (d : Dst) (i : Src) (n : Nat),
        wrOk k (fileDst d) [] = .ok () → rdNat k 2 i = .ok n → n < 1024 → comp.toNat < t.k → batonsOf [i.spec] = [] →
        exec (.amov comp prev g d a i) s = .next ((((s.tookTile k v t).addFill k.pos.core k.wk k.lane d.spec
          ⟨(t.cells[1024 * comp.toNat + n]?).getD 0, F.f32⟩ v.party).usedLast h g (accName a) prev a.last).done h [d.spec]
            [(k.lane, { empties := emptied d.spec, frees := [a, i] })])) := by
  have hmem : k ∈ h.lanes g := hk ▸ List.mem_singleton_self k
  have hspare : s.spare k.wk 8 := wk_of_lane hmem ▸ spare_here hat he
  have hposk : s.posOf k.pos.id = some p := hpos ▸ hp
  intro prev a t ht hpend
  have hread := readTile_ok ht hpend hpos
  refine ⟨fun hclash => ?_, fun hclash hcause => ?_, fun hclash comp d i n hw hn hlt hcomp hb => ?_⟩
  · refine exec_arel hat ?_
    have hin := inTurn_single (P := fun s k out u => ∃ v p x, s.viewer k.wk k.arm = some v ∧ s.posOf k.pos.id = some p ∧
      readTile { k with pos := p } { a with trap := false } prev = .ok x ∧ x.clash v .write = none ∧ out = {} ∧ u = s) hk
      batonsOf_nil ⟨v, p, t, hv, hposk, readTile_ok ht hpend rfl, hclash, rfl, rfl⟩ (overspent_of_spare hspare)
    rwa [State.acquires, takesBatons_none batonsOf_nil] at hin
  · refine exec_mwait (x := fun _ => t) hat he (forall_lanes hk hread) ?_
    have hin := inTurn_single (P := fun s k out u => ∃ v, s.viewer k.wk k.arm = some v ∧
      t.clash (v.after t.front) (tileKind a) = none ∧ t.cause = none ∧ out = { frees := [a] } ∧
      u = s.tookTile k v t) hk batonsOf_nil ⟨v, hv, hclash, hcause, rfl, rfl⟩ (overspent_of_spare (n := 7) hspare.tookTile)
    rwa [State.acquires, takesBatons_none batonsOf_nil] at hin
  · rw [← done_of_no_batons hb]
    exact exec_amov (x := fun _ => t) (n := fun _ => n) hat he (forall_lanes hk hread) (forall_lanes hk hw)
      (forall_lanes hk ⟨hn, hlt, hcomp⟩) (inTurn_single hk hb ⟨v, hv, hclash, rfl, rfl⟩
        (overspent_of_spare (n := 7) hspare.tookTile.addFill))

theorem lload_single (hat : s.here h) (hk : h.lanes g = [k]) (he : h.epochs) (hv : s.viewer k.wk k.arm = some v) (hpos : k.pos = p) (hp : s.posOf p.id = some p) :
    ∀ (l : BitVec 3) (hs : BitVec 4) (x q : Src) (r : BitVec 128) (i n : Nat) (w : List Word) (cols : List (List (Option Nat))),
      handleOf k hs = .ok r → rdNat k 2 x = .ok i → rdRaws k 3 q 2 = .ok w → batonsOf [x.spec] = [] →
      let d : BitVec 64 := (quadBits w).setWidth 64
      s.lloadCheck k r i d q = .ok (n, cols) → (p.loftAt l.toNat).st ≠ .loading → s.slotRead p.id l.toNat = false →
      p.tagsTake [ldCtag d] = true → (p.loftAt l.toNat).clash v .write = none → s.racesAt v p r cols.flatten .read = none →
      exec (.lload g l hs x q) s = .next ((((s.recordAll v p r cols.flatten .read).modPos p.id (·.modLoft l.toNat fun y =>
        { (y.note v .write) with st := .loading, ttag := ldTtag d, rows := ldRows d, cols := ldCols d, data := [] })).issueOp v k
          [ldCtag d] (.lload l.toNat r i d n) 1 false).done h [] [(k.lane, { frees := x :: srcRun q 2 })]) := by
  have hmem : k ∈ h.lanes g := hk ▸ List.mem_singleton_self k
  have hspare : s.spare k.wk 8 := wk_of_lane hmem ▸ spare_here hat he
  have hposk : s.posOf k.pos.id = some p := hpos ▸ hp
  intro l hs x q r i n w cols hh hi hws hb d hc hst hread ht hclash hrace
  have hturn := turns_lload (l := l) (r := fun _ => r) (i := fun _ => i) (w := fun _ => w) hat he (forall_lanes hk ⟨hh, hi, hws⟩)
  exact Turns_single hturn hk hb ⟨v, p, n, cols, hv, hposk, hc, hst, hread, ht, hclash, hrace, rfl, rfl⟩
    (overspent_of_spare (n := 7) (State.spare.issueOp (hspare.of_eq
      ((epochAt_modPos (f := (·.modLoft l.toNat _))).trans (epochAt_recordAll v p r cols.flatten .read)))))

theorem tileTransfer_single (hat : s.here h) (hk : h.lanes g = [k]) (he : h.epochs) (hv : s.viewer k.wk k.arm = some v) (hpos : k.pos = p) (hp : s.posOf p.id = some p) :
    ∀ (mr : BitVec 4) (t : Src) (m : BitVec 128) (n : Nat), mhandleOf k mr = .ok m → rdNat k 2 t = .ok n →
      batonsOf [t.spec] = [] → p.tagsTake [n] = true →
      (∀ (new : Bool) (a : BitVec 5) (r : BitVec 512) (bs : List Nat) (s0 s1 : State) (tid : Nat),
        s.tileCheck k m n 1 (.m mr) = .ok (r, bs) → s.detFence v k.lane = some s0 →
        let meets := s.meetAcc p a.toNat new (algK r)
        meets ≠ .wait → meets.clash v = none → s0.racesAt v p stashRec (stashOffs bs) .read = none →
        s0.bindAcc p.id a.toNat meets (algK r) (tagAlg (mhTag m)) = (tid, s1) →
        exec (.ald new g a mr t) s = .next ((((s1.wroteTile k v tid fun t =>
          { t with pending := t.pending + 1, tag := (Tile.fresh 0 0 (tagAlg (mhTag m))).tag }).recordAll v p stashRec (stashOffs bs)
            .read).issueOp v k [n] (.ald a.toNat tid m (algK r)) 1 true).done h [] [(k.lane, { frees := [t] })])) ∧
      (∀ (rnd : Rnd) (prev : Bool) (a : Src) (x : Tile) (r : BitVec 512) (bs : List Nat), readTile k a prev = .ok x →
        s.tileCheck k m n 0 (.m mr) = .ok (r, bs) → algK r = x.k → x.clash (v.after x.front) (tileKind a) = none →
        s.racesAt (v.after x.front) p stashRec (stashOffs bs) .write = none →
        exec (.ast rnd prev g mr a t) s = .next ((((((s.tookTile k v x).recordAll v p stashRec (stashOffs bs) .write).modWarp v.wk
          (·.putHandle (16 + mr.toNat) (mhSetAlg m (tagAlg x.tag)))).issueOp v k [n] (.ast m rnd x.k x.cells) 1 false).usedLast h g
            (accName a) prev a.last).done h [] [(k.lane, { frees := [a, t] })])) := by
  have hmem : k ∈ h.lanes g := hk ▸ List.mem_singleton_self k
  have hspare : s.spare k.wk 8 := wk_of_lane hmem ▸ spare_here hat he
  have hposk : s.posOf k.pos.id = some p := hpos ▸ hp
  intro mr t m n hm hn hb ht
  refine ⟨fun new a r bs s0 s1 tid hc hd hwait hclash hrace hbind => ?_, fun rnd prev a x r bs hx hc hr hclash hrace => ?_⟩
  · have hs1 : s1.spare k.wk 8 := hspare.of_eq (by
      have h1 := epochAt_bindAcc (s := s0) (k := k.wk) p.id a.toNat (s.meetAcc p a.toNat new (algK r)) (algK r) (tagAlg (mhTag m))
      rw [hbind] at h1
      exact h1.trans (epochAt_detFence hd))
    have hturn := turns_ald (m := fun _ => m) (n := fun _ => n) hat he (forall_lanes hk ⟨hm, hn⟩) new a
    exact Turns_single hturn hk hb ⟨v, p, r, bs, s0, tid, s1, hc, hv, hposk, hd, hwait, ht, hclash, hrace, hbind, rfl, rfl⟩
      (overspent_of_spare (n := 7) (State.spare.issueOp (hs1.of_eq ((epochAt_recordAll ..).trans (epochAt_wroteTile ..)))))
  · rw [← done_of_no_batons hb]
    exact exec_ast (m := fun _ => m) (n := fun _ => n) (x := fun _ => x) hat he (forall_lanes hk ⟨hm, hn⟩) (forall_lanes hk hx)
      (inTurn_single hk hb ⟨v, p, r, bs, hc, hv, hposk, hr, ht, hclash, hrace, rfl, rfl⟩
        (overspent_of_spare (n := 6) (State.spare.issueOp (hspare.tookTile.of_eq
          ((epochAt_modWarp (fun w => putHandle_idx w ..) fun w => putHandle_epoch w ..).trans (epochAt_recordAll ..))))))

end

/-- Settles O27: each form is the law of its arm, for the arm's only lane; no form takes more epochs than the arm has. -/
theorem tileFormsComplete : Obligations.TileFormsComplete := by
  refine ⟨fun s h g k v p hat hk he hv hpos hp => ⟨elements_single hat hk, tags_single hat hk, rpool_single hat hk, pair_single hat hk,
    azero_single hat hk he hv hpos hp, alg_single hat hk he hv hpos hp, tile_single hat hk he hv hpos hp, lload_single hat hk he hv hpos hp,
    tileTransfer_single hat hk he hv hpos hp⟩, fun s o p ho hp hw => ⟨?_, ?_, ?_⟩⟩
  · intro l first j hs d hk n cols hm
    exact ⟨_, exec_lloadComplete_ok ho hk hp hw rfl hm rfl, opOf_finishOp none⟩
  · intro a tid m j hk ht hm
    exact ⟨_, exec_aldComplete_ok ho hk hp hw ht hm rfl, opOf_finishOp none⟩
  · intro m r j cells hk hm
    exact ⟨_, exec_astComplete_ok ho hk hp hw hm, opOf_finishOp none⟩

end Sys2Proof.Machine

/-! PROOF. Chains are started and complete (R187 to R192, R199). -/

namespace Sys2Proof.Machine

/-! ### A chain is started -/

section
variable {s : State} {k : RCtx} {v : Viewer} {p : Position} {b r : BitVec 512} {hA hSA hSB : BitVec 128} {srcs : List Src}

theorem startChain_void (ht : p.tagsTake [pbCtag b] = true) (hst : (p.loftAt (pbSlot b)).st = .void) :
    s.startChain k v p b r hA hSA hSB srcs = (.out { frees := srcs }, s.voidChain k v (pbCtag b)) := by
  simp only [State.startChain, ht, hst, beq_self_eq_true, Bool.not_true, Bool.false_eq_true, if_false, if_true]

theorem startChain_ok {reads : List Nat} {tid : Nat} {s1 : State} (ht : p.tagsTake [pbCtag b] = true)
    (hst : (p.loftAt (pbSlot b)).st ≠ .void)
    (hreads : reads = chainBytes b hA hSA hSB (p.loftAt (pbSlot b)) (algK r) 0 (pbKe b))
    (hwait : s.meetAcc p (pbAcc b) (pbNew b) (algK r) ≠ .wait) (hroom : (s.chainsOf k.pos.core).length < 16)
    (hclash : (s.meetAcc p (pbAcc b) (pbNew b) (algK r)).clash v = none) (hslot : (p.loftAt (pbSlot b)).clash v .read = none)
    (hrace : s.racesAt v p stashRec (stashOffs reads) .read = none)
    (hb : s.bindAcc p.id (pbAcc b) (s.meetAcc p (pbAcc b) (pbNew b) (algK r)) (algK r) (pbAlg b) = (tid, s1)) :
    s.startChain k v p b r hA hSA hSB srcs = (.out { frees := srcs },
      (((s1.wroteTile k v tid fun t => { t with pending := t.pending + 1 }).modPos p.id
        (·.modLoft (pbSlot b) (·.note v .read))).recordAll v p stashRec (stashOffs reads) .read).issueOp v k [pbCtag b]
          (.chain ⟨b, tid, r, hA, hSA, hSB, (reads.map (· / 64)).eraseDups⟩) 1 true) := by
  subst hreads
  have hv : ((p.loftAt (pbSlot b)).st == .void) = false := by simp [hst]
  have hm : (s.meetAcc p (pbAcc b) (pbNew b) (algK r) == .wait) = false := by simp [hwait]
  have hfull : ¬ 16 ≤ (s.chainsOf k.pos.core).length := by omega
  simp only [State.startChain, ht, hv, hm, hfull, hclash, hslot, hrace, hb, tileTrap_none, Option.or_none, Bool.not_true, decide_false,
    Bool.or_self, Bool.false_eq_true, if_false]

/-- `mma` goes on to its chain once its parameter block and its checks allow. -/
theorem issueMma_ok {a : Src} {off : Nat} {s0 s1 s2 s3 : State} {bs : List Byte} {o : LaneOut} (hv : s.viewer k.wk k.arm = some v)
    (hp : s.posOf k.pos.id = some p) (ha : off % 64 = 0) (hl : off + 64 ≤ s.stashLimit k) (hc : ∃ x, s.checkLine p off 64 = .ok x)
    (hd : s.detFence v k.lane = some s0) (hpeek : s0.peekStash v k.lane p.id off 64 = (bs, s1)) (hblk : b = BitVec.ofNat 512 (leNat bs))
    (hbusy : ∀ i ∈ pbAh b :: ((if pbSav b then [pbSah b] else []) ++ if pbSbv b then [pbSbh b] else []),
      k.warp.busy.contains (16 + i) = false)
    (halg : s1.algUse v (pbAlg b) = (some r, s2)) (hA' : hA = (k.warp.m[pbAh b]?).getD 0) (hSA' : hSA = (k.warp.m[pbSah b]?).getD 0)
    (hSB' : hSB = (k.warp.m[pbSbh b]?).getD 0) (hcheck : s2.mmaCheck k p b (some r) hA hSA hSB = none)
    (hstart : s2.startChain k v p b r hA hSA hSB [a] = (.out o, s3)) : s.issueMma k a off = (.out o, s3) := by
  obtain ⟨x, hx⟩ := hc
  have hfree : (pbAh b :: ((if pbSav b then [pbSah b] else []) ++ if pbSbv b then [pbSbh b] else [])).find?
      (fun i => k.warp.busy.contains (16 + i)) = none := List.find?_eq_none.2 fun i hi => by rw [hbusy i hi]; exact Bool.false_ne_true
  have ha' : (off % 64 != 0) = false := by rw [ha]; rfl
  unfold State.issueMma
  rw [hv, hp]
  dsimp only
  rw [ha', if_neg Bool.false_ne_true, if_neg (Nat.not_lt.2 hl), hx, hd]
  dsimp only
  rw [hpeek]
  dsimp only
  rw [← hblk, hfree]
  dsimp only
  rw [halg, ← hA', ← hSA', ← hSB', hcheck]
  dsimp only
  rw [hstart]

end

/-- Settles O28: the chain starts in the state in which the parameter block, and then the algebra's record, have been read. -/
theorem matrixMultiply : Obligations.MatrixMultiply := by
  intro s h g a off hat he hoff
  refine turns_of hat (fun _ _ _ ht => (epochGuard_ok he).trans (perLane_turn (x := off) hoff ?_ ht)) rfl
  rintro s k o u ⟨v, p, s0, bs, s1, r, s2, hv, hp, ha, hl, hc, hd, hpeek, hbusy, halg, hcheck, htags, rfl, hu⟩
  refine issueMma_ok hv hp ha hl hc hd hpeek rfl hbusy halg rfl rfl rfl hcheck ?_
  generalize BitVec.ofNat 512 (leNat bs) = b at *
  by_cases hvoid : (p.loftAt (pbSlot b)).st = .void
  · rw [show u = _ from (if_pos hvoid ▸ hu : _)]
    exact startChain_void htags hvoid
  · have hu := (if_neg hvoid).mp hu
    obtain ⟨hwait, hroom, hclash, hslot, hrace, tid, s3, hb, rfl⟩ := hu
    exact startChain_ok htags hvoid rfl hwait hroom hclash hslot hrace hb

/-! ### A chain completes -/

theorem exec_chainComplete_ok {s : State} {o : EngOp} {c : ChainOp} {p : Position} {n : Nat} (ho : s.opOf o.id = some o)
    (hk : o.kind = .chain c) (hp : s.posOf o.pos = some p) (hw : s.opWaits o = false) (hr : s.chainReady o = true)
    (hq : ∀ q ∈ s.chainsOf o.core, q.seq < o.seq → s.chainReady q = false) (hst : (p.loftAt (pbSlot c.block)).st ≠ .void)
    (hslot : slotCheck c.block c.hA c.hSB (p.loftAt (pbSlot c.block)) (algK c.algRec) = none)
    (hn : s.chunksDone p c (p.loftAt (pbSlot c.block)) (chunkElems (tagFmt (mhTag c.hA)) (algK c.algRec))
      (pbKe c.block / chunkElems (tagFmt (mhTag c.hA)) (algK c.algRec)) 0 = (n, .ok)) :
    exec (.chainComplete o.id) s = .next (s.endChain o c n none) := by
  have hearly : ((s.chainsOf o.core).any fun q => decide (q.seq < o.seq) && s.chainReady q) = false := by
    refine List.any_eq_false.2 fun q hmem => ?_
    by_cases hlt : q.seq < o.seq
    · simp [hq q hmem hlt]
    · simp [hlt]
  have hv : ((p.loftAt (pbSlot c.block)).st == .void) = false := by simp [hst]
  show execChainComplete o.id s = _
  simp only [execChainComplete, ho, hk, placeOf_of_posOf hp, hw, hr, hearly, hv, hslot, hn, Bool.not_true, Bool.or_self, Option.isSome_none,
    Bool.false_eq_true, if_false]

theorem chainCells_getElem? {b r : BitVec 512} {pn : Panels} {e n i : Nat} {cells : List Word} {w : Word} (hw : cells[i]? = some w) :
    (chainCells b r pn e n cells)[i]? = some (if i % 1024 / 32 < pbM b ∧ i % 32 < pbN b then
      chainCell b r pn e (i % 1024 / 32) (i % 32) (i / 1024) n 0 w {} else (w, {})) := by
  simp only [chainCells, List.getElem?_mapIdx, hw, Option.map_some]

/-- A chain of `m1 + m2` chunks is that of the first `m1`, then that of the others. -/
theorem chainCell_add (b r : BitVec 512) (pn : Panels) (e i n c m1 m2 q : Nat) (w : Word) (fl : Flags) :
    chainCell b r pn e i n c (m1 + m2) q w fl = chainCell b r pn e i n c m2 (q + m1) (chainCell b r pn e i n c m1 q w fl).1
      (chainCell b r pn e i n c m1 q w fl).2 := by
  induction m1 generalizing q w fl with
  | zero => rw [Nat.zero_add, Nat.add_zero, chainCell]
  | succ m1 ih =>
    rw [show m1 + 1 + m2 = (m1 + m2) + 1 by omega, show q + (m1 + 1) = q + 1 + m1 by omega]
    simp only [chainCell]
    exact ih ..

/-- Settles O29: the oldest ready chain of its core runs its chunks in order, each on the cells the last one left. -/
theorem chainsComplete : Obligations.ChainsComplete := by
  refine ⟨?_, fun b r pn e i n c q m1 m2 w fl => chainCell_add b r pn e i n c m1 m2 q w fl⟩
  intro s o c p n ho hk hp hw hr hq slot k e hst hslot hn
  exact ⟨exec_chainComplete_ok ho hk hp hw hr hq hst hslot hn, fun pn cells i w hcell => chainCells_getElem? hcell⟩

end Sys2Proof.Machine

/-! PROOF. Group instructions whose source is a baton. -/

namespace Sys2Proof.Machine

/-! ### A group instruction that acquires a baton (R131) before it uses an algebra record -/

/-- A lane register's source is baton 0; the baton carries what its writer has seen of algebra slot 0's last write. -/
def batonAlgState : State :=
  (Tests.warpSet Tests.sA fun w =>
    { w with z := w.z.set 0 (some ⟨0x3FC00000, F.f32⟩), zfront := w.zfront.set 0 [(⟨0, 9, 0⟩, 1)] }).modCtx 0
      fun c => { c with algOld := [⟨0, c.algAt 0, ⟨0, 9, 0⟩, 1, 0⟩] }

def batonAlgHere : Here := (Tests.stands batonAlgState).get (by decide +kernel)
def batonAlgViewer : Viewer := (batonAlgState.viewer Tests.wk 0).get (by decide +kernel)
def batonAlgRec : BitVec 512 := (algPredefined[0]?).getD 0
def batonSrc : Src := ⟨.z 0, false, false⟩

theorem here_batonAlg : batonAlgState.here batonAlgHere := Tests.here_of (by decide +kernel)

/-- The arm's view at the instruction, which does not yet hold the baton's: the record may be the old one or the new one. -/
theorem algUse_batonAlg : batonAlgState.algUse batonAlgViewer 0 = (some batonAlgRec, { batonAlgState with free := 1 }) := by
  have hctx : batonAlgState.ctxOf batonAlgViewer.ctx = batonAlgState.t.ctxs.head? := by decide +kernel
  obtain ⟨c, hc⟩ : ∃ c, batonAlgState.t.ctxs.head? = some c := Option.isSome_iff_exists.1 (by decide +kernel)
  have hnew : (batonAlgState.t.ctxs.head?.bind (·.algAt 0)) = some batonAlgRec := by decide +kernel
  have hold : (batonAlgState.t.ctxs.head?.bind fun c => c.algOld.find? fun o => o.slot == 0 && o.party != batonAlgViewer.party &&
      !before batonAlgViewer.front o.party o.epoch && (batonAlgState.gridOf batonAlgViewer.ctx o.grid).any (·.live))
        = some ⟨0, some batonAlgRec, ⟨0, 9, 0⟩, 1, 0⟩ := by decide +kernel
  rw [hc] at hctx hnew hold
  have hfree : batonAlgState.free = 0 := by decide +kernel
  simp only [Option.bind_some] at hnew hold
  simp only [State.algUse, hctx, hold, hnew, ite_self, State.drawBit, hfree]

/-- The bits drawn so far after a step that goes on. -/
def drawn : Host.Outcome State Fault Refusal → Nat
  | .next s => s.free
  | _ => 0

/-- Refutes O30: a baton among the sources is acquired before the record is used, so the use may see more than the arm did before
(no bit is drawn, where the statement draws one). -/
theorem not_groupInstructions : ¬ Obligations.GroupInstructions := by
  intro hall
  have hlanes : ∃ k0 rest, batonAlgHere.lanes ⟨7, false⟩ = k0 :: rest ∧ batonAlgState.viewer k0.wk k0.arm = some batonAlgViewer := by
    refine ⟨(batonAlgHere.lanes ⟨7, false⟩).headD batonAlgHere.c, (batonAlgHere.lanes ⟨7, false⟩).tail, ?_, ?_⟩ <;> decide +kernel
  obtain ⟨k0, rest, hl, hv⟩ := hlanes
  have hconj := ((hall batonAlgState batonAlgHere ⟨7, false⟩ 0 (Tests.dst 9) batonSrc batonAlgViewer k0 rest batonAlgRec _
    (fun _ => [0x3FC00000]) here_batonAlg hl hv algUse_batonAlg (fun ⟨_, h⟩ => nomatch h) (by decide +kernel)).1 (by decide +kernel)).1
  have hdraw := congrArg drawn hconj
  revert hdraw
  decide +kernel

end Sys2Proof.Machine

/-! PROOF. Barriers and counted waits (R313 to R318). -/

namespace Sys2Proof.Machine

section
variable {s : State} {h : Here} {g : Guard} {k : RCtx} {rest : List RCtx}

/-! ### Arms that act once, on values their lanes agree on -/

theorem disagree_const {x : List Nat} {l : List (List Nat)} {ops : List (Nat × Spec)} (hl : ∀ y ∈ l, y = x) : disagree l ops = none := by
  cases l with
  | nil => rfl
  | cons y l =>
    rw [disagree, Option.map_eq_none_iff, List.find?_eq_none]
    intro o _ hany
    obtain ⟨z, hz, hne⟩ := List.any_eq_true.1 hany
    rw [hl z (List.mem_cons_of_mem _ hz), hl y List.mem_cons_self] at hne
    simp at hne

theorem agreeArm_ok {read : RCtx → LaneStep (List Nat)} {ops : List (Nat × Spec)}
    {act : State → RCtx → List Nat → List Nat → ArmRes × State} {x : List Nat} {cs : List RCtx} {o : ArmOut} {s1 : State}
    (hcs : cs = k :: rest) (hr : ∀ l ∈ cs, read l = .ok x) (ha : act s k (cs.map (·.lane)) x = (.done o, s1)) :
    agreeArm read ops act s cs = (.done o, s1) := by
  have hgather := gather_ok (v := fun _ => x) hr
  have hsame : ∀ y ∈ (cs.map fun c => (c, x)).map (·.2), y = x := by
    intro y hy
    obtain ⟨z, hz, rfl⟩ := List.mem_map.1 hy
    obtain ⟨c, -, rfl⟩ := List.mem_map.1 hz
    rfl
  have hlanes : (cs.map fun c => (c, x)).map (fun v => v.1.lane) = cs.map (·.lane) := by rw [List.map_map]; rfl
  subst hcs
  rw [List.map_cons] at hgather hsame hlanes
  simp only [agreeArm, hgather, hlanes, disagree_const hsame, ha, trapEnds, List.map_nil, List.nil_append]

theorem noRecord_ok {f : ArmFn} {cs : List RCtx} (hcs : cs = k :: rest) (hr : k.warp.recs = []) : noRecord f s cs = f s cs := by
  subst hcs
  simp only [noRecord, hr, List.isEmpty_nil, if_true]

/-- What the lanes of an arm that acts once leave. -/
theorem allOut_each (srcs : List Src) : allOut ((h.lanes g).map (·.lane)) srcs = .done (.ofLanes (h.each g { frees := srcs })) := by
  simp only [allOut, ArmOut.ofLanes, Here.each, List.map_map]
  rfl

/-- `runArms_here` for an instruction of a whole arm. -/
theorem exec_whole_arm {f : ArmFn} {dsts early : List Spec} {i : Instr} {o : List (Nat × LaneOut)} {s1 : State} {byId : Bool}
    (hat : s.here h) (hwhole : h.whole)
    (he : exec i s = .next (s.runArms { g := g, whole := true, byId := byId, dsts := dsts, early := early } f))
    (hf : f (s.acquires h g early) (h.lanes g) = (.done (.ofLanes o), s1)) : exec i s = .next (s1.done h dsts o early) := by
  rw [he, runArms_here hat rfl (fun _ => hwhole) hf]

theorem acquires_nil : s.acquires h g [] = s := by rw [State.acquires, takesBatons_none batonsOf_nil]

/-! ### Barriers -/

theorem barAt_ok {on : List Nat} {i : Nat} {count : Option Nat} {idem : Bool} {srcs : List Src} {r : BarRes} {f : Frontier} {s1 : State}
    (hr : k.block.bars[i]? = some r) (hpos : 0 < count.getD k.block.liveWarps.length)
    (hle : count.getD k.block.liveWarps.length ≤ k.block.liveWarps.length)
    (hagree : r.fill = true → count.getD k.block.liveWarps.length = r.exp ∧ count.isNone = r.dfl ∧ idem = r.idm)
    (hrel : s.releaseTo k 1 = (f, s1)) :
    s.barAt k on i count idem srcs = (allOut on srcs,
      let s2 := (s1.modBlock k.pos.id k.block.stage (·.modBar i (·.arrive k.warp.idx (count.getD k.block.liveWarps.length) count.isNone idem f))).parkLanes
        k.pos.core k.wk k.armLive (.barB i)
      if (if r.fill then r.arrived.length else 0) + 1 = count.getD k.block.liveWarps.length then s2.completeB k.pos.id k.block.stage i
      else s2) := by
  have hne : ¬ count.getD k.block.liveWarps.length = 0 := by omega
  have hnlt : ¬ k.block.liveWarps.length < count.getD k.block.liveWarps.length := by omega
  simp only [State.barAt, hr, hrel]
  cases hfill : r.fill with
  | false => simp only [hne, hnlt, decide_false, Bool.or_self, Bool.false_and, Bool.false_eq_true, if_false]
  | true =>
    obtain ⟨hexp, hdfl, hidm⟩ := hagree hfill
    rw [hexp] at hne hnlt
    simp only [hexp, hdfl, hidm, hne, hnlt, bne_self_eq_false, decide_false, Bool.or_self, Bool.and_false, Bool.false_eq_true, if_false,
      if_true]

theorem exec_barB {idem : Bool} {b n : Src} {i : Nat} {count : Option Nat} {r : BarRes} {f : Frontier} {s1 : State} (hat : s.here h)
    (hwhole : h.whole) (he : h.epochs) (hk : h.lanes g = k :: rest) (hrecs : k.warp.recs = [])
    (hread : ∀ l ∈ h.lanes g, rdNat l 1 b = .ok i ∧ rdOpt l 2 n = .ok count)
    (hr : k.block.bars[i]? = some r) (hpos : 0 < count.getD k.block.liveWarps.length)
    (hle : count.getD k.block.liveWarps.length ≤ k.block.liveWarps.length)
    (hagree : r.fill = true → count.getD k.block.liveWarps.length = r.exp ∧ count.isNone = r.dfl ∧ idem = r.idm)
    (hrel : (s.acquires h g [b.spec, n.spec]).releaseTo k 1 = (f, s1)) :
    exec (.barB idem g b n) s = .next (State.done
      (let s2 := (s1.modBlock k.pos.id k.block.stage (·.modBar i (·.arrive k.warp.idx (count.getD k.block.liveWarps.length) count.isNone idem f))).parkLanes
        k.pos.core k.wk k.armLive (.barB i)
      if (if r.fill then r.arrived.length else 0) + 1 = count.getD k.block.liveWarps.length then s2.completeB k.pos.id k.block.stage i
      else s2) h [] (h.each g { frees := [b, n] }) [b.spec, n.spec]) := by
  refine exec_whole_arm hat hwhole rfl ((epochGuard_ok he).trans ((noRecord_ok hk hrecs).trans
    (agreeArm_ok (x := i :: count.toList) hk (fun l hl => ?_) ?_)))
  · obtain ⟨hb, hn⟩ := hread l hl
    simp only [hb, hn, LaneStep.bind, LaneStep.map]
  · rw [← allOut_each]
    have hcount : (i :: count.toList)[1]? = count := by cases count <;> rfl
    rw [List.headD_cons, hcount]
    exact barAt_ok hr hpos hle hagree hrel

theorem exec_barC {f : Frontier} {s1 : State} (hat : s.here h) (hwhole : h.whole) (he : h.epochs) (hk : h.lanes g = k :: rest)
    (hrecs : k.warp.recs = []) (hrel : s.releaseTo k 2 = (f, s1)) :
    exec (.barC g) s = .next (((((s1.modBlock k.pos.id k.block.stage fun b => { b with atC := b.atC ++ [k.warp.idx] }).modInst
      k.pos.ctx k.pos.grid k.pos.inst fun i =>
      { i with fronts := i.fronts ++ [((k.pos.loc, k.block.stage, k.warp.idx), f)] }).parkLanes k.pos.core k.wk k.armLive
        .barC).arriveC k.pos k.block.stage).done h [] (h.each g {})) := by
  refine exec_whole_arm hat hwhole rfl ((epochGuard_ok he).trans ((noRecord_ok hk hrecs).trans ?_))
  have hout := allOut_each (h := h) (g := g) []
  rw [acquires_nil]
  rw [hk] at hout ⊢
  simp only [hrel, hout]

theorem exec_barG {f : Frontier} {s1 : State} (hat : s.here h) (hwhole : h.whole) (he : h.epochs) (hk : h.lanes g = k :: rest)
    (hrecs : k.warp.recs = []) (hrel : s.releaseTo k 4 = (f, s1)) :
    exec (.barG g) s = .next (((((s1.modBlock k.pos.id k.block.stage fun b => { b with atG := b.atG ++ [k.warp.idx] }).modGrid
      k.pos.ctx k.pos.grid fun i =>
      { i with fronts := i.fronts ++ [((k.pos.inst, k.pos.loc, k.block.stage, k.warp.idx), f)] }).parkLanes k.pos.core k.wk
        k.armLive .barG).arriveG k.pos k.block.stage).done h [] (h.each g {})) := by
  refine exec_whole_arm hat hwhole rfl ((epochGuard_ok he).trans ((noRecord_ok hk hrecs).trans ?_))
  have hout := allOut_each (h := h) (g := g) []
  rw [acquires_nil]
  rw [hk] at hout ⊢
  simp only [hrel, hout]

/-! ### Counted waits -/

theorem exec_carrive {b n : Src} {i : Nat} {r : BarRes} {inc : Option Nat} {f : Frontier} {s1 : State} (hat : s.here h)
    (hwhole : h.whole) (he : h.epochs) (hk : h.lanes g = k :: rest) (hb : ∀ l ∈ h.lanes g, rdNat l 1 b = .ok i)
    (hr : k.block.bars[i]? = some r) (hn : ∀ l ∈ h.lanes g, rdOpt l 2 n = .ok inc)
    (hrel : (s.acquires h g [b.spec, n.spec]).releaseTo k 1 = (f, s1)) :
    exec (.carrive g b n) s = .next ((s1.modBlock k.pos.id k.block.stage (·.modBar i fun r =>
      { r with count := r.count + BitVec.ofNat 32 (inc.getD 1), cfront := frontJoin r.cfront f })).done h []
        (h.each g { frees := [b, n] }) [b.spec, n.spec]) := by
  refine exec_whole_arm hat hwhole rfl ((epochGuard_ok he).trans (agreeArm_ok (x := [i, inc.getD 1]) hk (fun l hl => ?_) ?_))
  · simp only [hb l hl, hn l hl, LaneStep.bind, LaneStep.map]
  · rw [← allOut_each]
    simp only [List.headD_cons, hr, hrel]
    rfl

theorem countReached_ofNat {c : Word} {target : Nat} (hlt : (c.toNat + 2 ^ 32 - target % 2 ^ 32) % 2 ^ 32 < 2 ^ 31) :
    countReached c (BitVec.ofNat 32 target) = true := by
  rw [countReached, decide_eq_true_eq, BitVec.toNat_sub, BitVec.toNat_ofNat]
  omega

theorem exec_cwait {b n : Src} {i target : Nat} {r : BarRes} (hat : s.here h) (hwhole : h.whole) (he : h.epochs)
    (hk : h.lanes g = k :: rest) (hb : ∀ l ∈ h.lanes g, rdNat l 1 b = .ok i) (hr : k.block.bars[i]? = some r)
    (hn : ∀ l ∈ h.lanes g, rdNat l 2 n = .ok target) (hlt : (r.count.toNat + 2 ^ 32 - target % 2 ^ 32) % 2 ^ 32 < 2 ^ 31) :
    exec (.cwait g b n) s = .next ((s.modWarp k.wk (·.acquire k.arm r.cfront)).done h [] (h.each g { frees := [b, n] })) := by
  refine exec_whole_arm hat hwhole rfl ((epochGuard_ok he).trans (agreeArm_ok (x := [i, target]) hk (fun l hl => ?_) ?_))
  · simp only [hb l hl, hn l hl, LaneStep.bind, LaneStep.map]
  · rw [acquires_nil, ← allOut_each]
    simp only [List.headD_cons, hr, List.getElem?_cons_succ, List.getElem?_cons_zero, Option.getD_some, countReached_ofNat hlt, if_true]

end

/-- Settles O31: each acts once for its arm, on the values its lanes agree on, after what its arm releases has been performed. -/
theorem barriersAndCounters : Obligations.BarriersAndCounters := by
  refine ⟨fun s h g k rest hat hwhole he hk hrecs => ⟨?_, fun f s1 hrel => exec_barC hat hwhole he hk hrecs hrel,
    fun f s1 hrel => exec_barG hat hwhole he hk hrecs hrel⟩, fun s h g b n k rest i r hat hwhole he hk hb hr =>
      ⟨fun inc f s1 hn hrel => exec_carrive hat hwhole he hk hb hr hn hrel, fun target hn hlt => exec_cwait hat hwhole he hk hb hr hn hlt⟩⟩
  intro idem b n i count r hread hr need hpos hle hagree f s1 hrel s2
  exact exec_barB hat hwhole he hk hrecs hread hr hpos hle hagree hrel

end Sys2Proof.Machine

/-! PROOF. Stage rings and the register pool (R138, R139, R319, R320). -/

namespace Sys2Proof.Machine

section
variable {s : State} {h : Here} {g : Guard} {k : RCtx} {rest : List RCtx}

/-! ### Stage rings -/

theorem ringForeign_eq_false {det : Bool} {who : Option (Nat × Nat)} (hmine : det = true → ∀ w, who = some w → w = (k.block.stage, k.warp.slot)) :
    ringForeign det who k = false := by
  cases det with
  | false => rfl
  | true =>
    cases who with
    | none => rfl
    | some w => simp [ringForeign, hmine rfl w rfl]

theorem exec_rpush {r : BitVec 7} {l t : Bool} {v : Src} {x : TV} {f : Frontier} {s1 : State} (hat : s.here h) (hwhole : h.whole)
    (he : h.epochs) (hk : h.lanes g = k :: rest)
    (hmine : s.det? k.pos = true → ∀ w, ((k.pos.rings[r.toNat]?).getD Ring.init).prod = some w → w = (k.block.stage, k.warp.slot))
    (hv : ∀ c ∈ h.lanes g, ∃ y, rd c 2 v = .ok y ∧ y.tv = x) (hempty : ((k.pos.rings[r.toNat]?).getD Ring.init).entry = none)
    (hrel : (s.acquires h g [v.spec]).releaseTo k 2 = (f, s1)) :
    exec (.rpush g ⟨.imm r, l, t⟩ v) s = .next ((s1.modPos k.pos.id (·.modRing r.toNat
      (·.push x (ringOwner (s.det? k.pos) ((k.pos.rings[r.toNat]?).getD Ring.init).prod k) f))).done h [] (h.each g { frees := [v] }) [v.spec]) := by
  refine exec_whole_arm hat hwhole rfl ((epochGuard_ok he).trans ?_)
  have hdet : (s.acquires h g [v.spec]).det? k.pos = s.det? k.pos := det_takesBatons ..
  have hgather : gather (fun c => (rd c 2 v).map (·.tv)) (h.lanes g) = .got ((h.lanes g).map fun c => (c, x)) [] :=
    gather_ok fun c hc => by
      obtain ⟨y, hy, rfl⟩ := hv c hc
      rw [hy]
      rfl
  have hforeign := ringForeign_eq_false hmine
  have hsame : (rest.map fun c => (c, x)).any (fun y => y.2 != x) = false := by simp
  have hout : (ArmOut.ofLanes (h.each g { frees := [v] })).lanes =
      ((h.lanes g).map fun c => (c, x)).map fun y => (y.1.lane, LaneEnd.out { frees := [v] }) := by
    simp [ArmOut.ofLanes, Here.each]
  rw [hk, List.map_cons] at hgather hout
  have hofl : ArmOut.ofLanes (h.each g { frees := [v] }) = { lanes := (ArmOut.ofLanes (h.each g { frees := [v] })).lanes } := rfl
  rw [hofl, hout, hk]
  simp only [pushArm, ringNo, hdet, hforeign, hgather, hsame, hempty, hrel, Option.isSome_none, Bool.false_eq_true, if_false, trapEnds,
    List.map_nil, List.nil_append, List.map_cons]

theorem exec_rpop {r : BitVec 7} {l t : Bool} {want : RingWant} {d : Dst} {x : TV} (hat : s.here h) (hwhole : h.whole)
    (he : h.epochs) (hk : h.lanes g = k :: rest)
    (hmine : s.det? k.pos = true → ∀ w, ((k.pos.rings[r.toNat]?).getD Ring.init).cons = some w → w = (k.block.stage, k.warp.slot))
    (hw : h.Writable g d []) (hentry : ((k.pos.rings[r.toNat]?).getD Ring.init).entry = some x)
    (h0 : want = .ph0 → ((k.pos.rings[r.toNat]?).getD Ring.init).ph = true)
    (h1 : want = .ph1 → ((k.pos.rings[r.toNat]?).getD Ring.init).ph = false) :
    exec (.rpop want g d ⟨.imm r, l, t⟩) s = .next
      (((s.modPos k.pos.id (·.modRing r.toNat fun y =>
        { y with full := false, cons := ringOwner (s.det? k.pos) ((k.pos.rings[r.toNat]?).getD Ring.init).cons k })).modWarp k.wk
          (·.acquire k.arm ((k.pos.rings[r.toNat]?).getD Ring.init).front)).done h [d.spec] (h.each g { writes := [(d, x)] })) := by
  refine exec_whole_arm hat hwhole rfl ((epochGuard_ok he).trans ?_)
  have hgather : gather (fun c => wrOk c d) (h.lanes g) = .got ((h.lanes g).map fun c => (c, ())) [] :=
    gather_ok fun c hc => hw c hc
  have hforeign := ringForeign_eq_false hmine
  have hphase : phaseOk want (!((k.pos.rings[r.toNat]?).getD Ring.init).ph) = true := by
    cases want with
    | any => rfl
    | ph0 => rw [phaseOk, h0 rfl]; rfl
    | ph1 => rw [phaseOk, h1 rfl]; rfl
  have hout : (ArmOut.ofLanes (h.each g { writes := [(d, x)] })).lanes =
      ((h.lanes g).map fun c => (c, ())).map fun y => (y.1.lane, LaneEnd.out { writes := [(d, x)] }) := by
    simp [ArmOut.ofLanes, Here.each]
  have hofl : ArmOut.ofLanes (h.each g { writes := [(d, x)] }) = { lanes := (ArmOut.ofLanes (h.each g { writes := [(d, x)] })).lanes } := rfl
  rw [hk, List.map_cons] at hgather hout
  rw [hofl, hout, acquires_nil, hk]
  simp only [popArm, ringNo, hforeign, hgather, hentry, hphase, List.isEmpty_cons, Bool.not_true, Bool.false_eq_true, if_false, trapEnds,
    List.map_nil, List.nil_append, List.map_cons]

/-! ### The register pool -/

theorem warpCount_ok {n : Src} {act : State → RCtx → List Nat → Nat → ArmRes × State} {c : Nat} {cs : List RCtx} (hcs : cs = k :: rest)
    (hrecs : k.warp.recs = []) (hc : rdCount k n = .ok c) : warpCount n act s cs = act s k (cs.map (·.lane)) c := by
  subst hcs
  simp only [warpCount, hrecs, hc, List.isEmpty_nil, Bool.not_true, Bool.false_eq_true, if_false]

theorem exec_rgive {n : Src} {c : Nat} (hat : s.here h) (hwhole : h.whole) (hk : h.lanes g = k :: rest) (hrecs : k.warp.recs = [])
    (hc : rdCount k n = .ok c) (hle : c ≤ k.warp.gran)
    (hfull : ∀ t ∈ k.warp.threads, ∀ x ∈ t.regs.drop (8 * (k.warp.gran - c)), x.st ≠ .empty) :
    exec (.rgive g n) s = .next ((if c = 0 then s else
      (s.modPos k.pos.id fun p => { p with lent := p.lent + c * k.warp.threads.length }).modWarp k.wk (·.shrink c)).done
        h [] (h.each g { frees := [n] })) := by
  refine exec_whole_arm hat hwhole rfl ((warpCount_ok hk hrecs hc).trans ?_)
  have hout := allOut_each (h := h) (g := g) [n]
  have hnlt : ¬ k.warp.gran < c := by omega
  have htop : k.warp.topEmpty c = false := by
    refine List.any_eq_false.2 fun t ht => ?_
    rw [Bool.not_eq_true, List.any_eq_false]
    intro x hx
    simpa using hfull t ht x hx
  rw [acquires_nil]
  by_cases h0 : c = 0
  · rw [if_pos h0, if_pos h0]
    exact congrArg (·, s) hout
  · rw [if_neg h0, if_neg h0, if_neg hnlt, htop, if_neg Bool.false_ne_true]
    exact congrArg (·, _) hout

theorem claimEnds_each (pd : Option (BitVec 3)) (b : Bool) (n : Src) :
    claimEnds pd b n ((h.lanes g).map (·.lane)) = .done (.ofLanes (h.each g
      { writes := pd.toList.map fun i => (⟨.p i, false⟩, ⟨if b then 1 else 0, F.n32⟩), frees := [n] })) := by
  cases pd <;> simp only [claimEnds, ArmOut.ofLanes, Here.each, List.map_map] <;> rfl

/-- What `rclaim` does once its count is read. -/
def claimAct (pd : Option (BitVec 3)) (n : Src) (s : State) (c : RCtx) (on : List Nat) (k : Nat) : ArmRes × State :=
  if k = 0 then (claimEnds pd true n on, s)
  else if 16 < c.warp.gran + k then (.done { lanes := on.map fun l => (l, .trap (opTrap .claimRange 1 n.spec)) }, s)
  else if c.pos.claims.isEmpty && s.claimFits c.pos (k * c.warp.threads.length) then
    (claimEnds pd true n on, s.grant c.wk k)
  else if pd.isSome then (claimEnds pd false n on, s)
  else
    (.done { lanes := c.armLive.map fun l => (l, .park .claim) },
      s.modPos c.pos.id fun q => { q with claims := q.claims ++ [⟨c.block.stage, c.warp.idx, k, n⟩] })

theorem exec_rclaim {pd : Option (BitVec 3)} {n : Src} {c : Nat} {b : Bool} {s1 : State} (hat : s.here h) (hwhole : h.whole)
    (hk : h.lanes g = k :: rest) (hrecs : k.warp.recs = []) (hc : rdCount k n = .ok c) (hdet : pd.isSome = true → s.det? h.c.pos = false)
    (hact : claimAct pd n s k ((h.lanes g).map (·.lane)) c = (claimEnds pd b n ((h.lanes g).map (·.lane)), s1)) :
    exec (.rclaim g pd n) s = .next (s1.done h (pd.toList.map .p)
      (h.each g { writes := pd.toList.map fun i => (⟨.p i, false⟩, ⟨if b then 1 else 0, F.n32⟩), frees := [n] })) := by
  refine exec_whole_arm (byId := true) hat hwhole rfl ?_
  rw [acquires_nil]
  refine (detBan_ok hdet).trans ((warpCount_ok (act := claimAct pd n) hk hrecs hc).trans ?_)
  rw [hact, claimEnds_each]

theorem claimFits_iff {p : Position} {units : Nat} :
    s.claimFits p units = true ↔ units ≤ p.lent + min (p.limit - p.drawn) (s.coreFree p.core) := by
  rw [State.claimFits, decide_eq_true_eq, Position.allowance]

theorem claimAct_zero {pd : Option (BitVec 3)} {n : Src} {on : List Nat} : claimAct pd n s k on 0 = (claimEnds pd true n on, s) := rfl

theorem claimAct_fits {pd : Option (BitVec 3)} {n : Src} {on : List Nat} {c : Nat} (h0 : c ≠ 0) (hg : k.warp.gran + c ≤ 16)
    (hq : k.pos.claims = []) (hfit : s.claimFits k.pos (c * k.warp.threads.length) = true) :
    claimAct pd n s k on c = (claimEnds pd true n on, s.grant k.wk c) := by
  rw [claimAct, if_neg h0, if_neg (by omega), hq, hfit]
  rfl

theorem claimAct_try {pd : Option (BitVec 3)} {n : Src} {on : List Nat} {c : Nat} (h0 : c ≠ 0) (hg : k.warp.gran + c ≤ 16)
    (hp : pd.isSome = true) (hno : k.pos.claims ≠ [] ∨ s.claimFits k.pos (c * k.warp.threads.length) = false) :
    claimAct pd n s k on c = (claimEnds pd false n on, s) := by
  have hcond : (k.pos.claims.isEmpty && s.claimFits k.pos (c * k.warp.threads.length)) = false := by
    rcases hno with hne | hfit
    · rw [List.isEmpty_eq_false_iff.2 hne, Bool.false_and]
    · rw [hfit, Bool.and_false]
  rw [claimAct, if_neg h0, if_neg (by omega), hcond, if_neg Bool.false_ne_true, if_pos hp]

end

/-! ### A claim is served -/

section
variable {s : State} {k : WKey}

/-- What serving a claim must keep of its position. -/
def State.claimsAt (s : State) (i : Nat) : Option (List Claim × List Host.Cell) := (s.posOf i).map fun p => (p.claims, p.stash)

/-- The size of a warp: its granules and its threads. -/
def State.sizeAt (s : State) (k : WKey) : Option (Nat × Nat) := (s.warpOf k).map fun w => (w.gran, w.threads.length)

theorem claimsAt_modPos {i j : Nat} {f : Position → Position} (hid : ∀ p, (f p).id = p.id := by intro _; rfl)
    (hf : ∀ p, (f p).claims = p.claims ∧ (f p).stash = p.stash := by intro _; exact ⟨rfl, rfl⟩) :
    (s.modPos j f).claimsAt i = s.claimsAt i :=
  map_find?_upd _ (fun p => congrArg (· == i) (hid p)) (fun p => Prod.ext (hf p).1 (hf p).2) s.c.positions

theorem sizeAt_modPos {i : Nat} {f : Position → Position} (hid : ∀ p, (f p).id = p.id := by intro _; rfl)
    (hf : ∀ p, (f p).blocks = p.blocks := by intro _; rfl) : (s.modPos i f).sizeAt k = s.sizeAt k := by
  rw [State.sizeAt, warpOf_modPos hid k fun p => by rw [blockOf_of_blocks (hf p)]]
  rfl

theorem sizeAt_modWarp {f : Warp → Warp} (hidx : ∀ w, (f w).idx = w.idx) {n : Nat}
    (hf : ∀ w, (f w).gran = w.gran + n ∧ (f w).threads.length = w.threads.length) :
    (s.modWarp k f).sizeAt k = (s.sizeAt k).map fun x => (x.1 + n, x.2) := by
  rw [State.sizeAt, State.warpOf_modWarp s k f hidx, State.sizeAt, Option.map_map, Option.map_map]
  exact congrArg (Option.map · _) (funext fun w => Prod.ext (hf w).1 (hf w).2)

theorem claimsAt_freeWides (ls : List (Nat × LaneEnd)) (i : Nat) : (s.freeWides k ls).claimsAt i = s.claimsAt i := by
  refine foldl_unseen (State.claimsAt · i) (fun s r => ?_) (wideFrees ls) s
  have hblock : ∀ f : Block → Block, (s.modBlock k.pos k.stage f).claimsAt i = s.claimsAt i := fun f =>
    claimsAt_modPos (f := (·.modBlock k.stage f))
  unfold State.freeWide
  split
  case h_2 => rfl
  case h_1 =>
    dsimp only
    split
    · exact hblock _
    · split
      · exact hblock _
      · split
        · exact hblock _
        · rfl
      · split
        · exact hblock _
        · split <;> rfl
      · rfl

theorem sizeAt_freeWides (ls : List (Nat × LaneEnd)) {x : Nat × Nat} (hx : s.sizeAt k = some x) : (s.freeWides k ls).sizeAt k = some x := by
  obtain ⟨w, hw, rfl⟩ := Option.map_eq_some_iff.1 hx
  obtain ⟨u, hu, hgran, hlen⟩ := (leaves_freeWides (A := False) (s := s) (k := k)
    (R := fun w u => u.gran = w.gran ∧ u.threads.length = w.threads.length) (fun _ => ⟨rfl, rfl⟩)
    (fun _ _ _ h h' => ⟨h'.1.trans h.1, h'.2.trans h.2⟩) (fun _ _ => ⟨rfl, rfl⟩) ls).warp w hw
  rw [State.sizeAt, hu, Option.map_some, hgran, hlen]

theorem frees_kept (w : Warp) (arm lane : Nat) (l : List Src) :
    (w.frees arm lane l).idx = w.idx ∧ (w.frees arm lane l).gran = w.gran ∧ (w.frees arm lane l).threads.length = w.threads.length := by
  have hview := view_frees (w := w) (arm := arm) (lane := lane) (l := l) (view := fun w => (w.idx, w.gran, w.threads.length))
    (fun _ _ _ _ _ => rfl) (fun _ _ _ _ _ _ => rfl) (fun _ _ _ _ _ _ => rfl) (fun _ _ _ _ _ _ _ => rfl)
  simpa only [Prod.mk.injEq] using hview

theorem claimsAt_modBlock (i j st : Nat) (f : Block → Block) : (s.modBlock j st f).claimsAt i = s.claimsAt i :=
  claimsAt_modPos (f := (·.modBlock st f))

theorem kept_freeCount (n : Src) {x : Nat × Nat} (hx : s.sizeAt k = some x) (i : Nat) :
    (s.freeCount k n).claimsAt i = s.claimsAt i ∧ (s.freeCount k n).sizeAt k = some x := by
  refine ⟨(claimsAt_modBlock ..).trans (claimsAt_freeWides ..), ?_⟩
  refine (sizeAt_modWarp (f := fun w => w.frees w.root 0 [n]) (n := 0) (fun w => (frees_kept w _ _ _).1)
    fun w => (frees_kept w _ _ _).2).trans ?_
  rw [sizeAt_freeWides _ hx]
  rfl

theorem kept_grant (n : Nat) {x : Nat × Nat} (hx : s.sizeAt k = some x) (i : Nat) :
    (s.grant k n).claimsAt i = s.claimsAt i ∧ (s.grant k n).sizeAt k = some (x.1 + n, x.2) := by
  have htake : ∀ u, (s.modPos k.pos (·.take u)).claimsAt i = s.claimsAt i ∧ (s.modPos k.pos (·.take u)).sizeAt k = some x := fun u =>
    ⟨claimsAt_modPos (f := (·.take u)), (sizeAt_modPos (f := (·.take u))).trans hx⟩
  refine ⟨(claimsAt_modBlock ..).trans (htake _).1, ?_⟩
  refine (sizeAt_modWarp (f := (·.grow n)) (n := n) (fun _ => rfl) fun w => ⟨rfl, List.length_map _⟩).trans ?_
  rw [(htake _).2]
  rfl

theorem kept_goOn (sc : StageCode) (q : Thread → Bool) {x : Nat × Nat} (hx : s.sizeAt k = some x) (i : Nat) :
    (s.goOn k sc q).claimsAt i = s.claimsAt i ∧ (s.goOn k sc q).sizeAt k = some x := by
  have hstep : (s.modWarp k fun w => { w with threads := w.threads.map fun t => if q t then t.stepPast sc else t }).sizeAt k = some x := by
    refine (sizeAt_modWarp (f := fun w => { w with threads := w.threads.map fun t => if q t then t.stepPast sc else t }) (n := 0)
      (fun _ => rfl) fun w => ⟨rfl, List.length_map _⟩).trans ?_
    rw [hx]
    rfl
  simp only [State.goOn]
  split
  · refine ⟨(claimsAt_modBlock ..).trans (claimsAt_modBlock ..), ?_⟩
    exact (congrArg (Option.map _) (warpOf_modBlock (f := fun b => { b with dog := 0 }) (fun _ => rfl) k fun _ _ _ => rfl)).trans hstep
  · exact ⟨claimsAt_modBlock .., hstep⟩

/-- A claim that is released gives its warp its granules, and keeps its position's claims and stash. -/
theorem kept_releaseClaim {p : Position} {c : Claim} {sc : StageCode} {x : Nat × Nat} (hsc : s.stage? p c.stage = some sc)
    (hx : s.sizeAt ⟨p.id, c.stage, c.warp⟩ = some x) (i : Nat) :
    (s.releaseClaim p c).claimsAt i = s.claimsAt i ∧ (s.releaseClaim p c).sizeAt ⟨p.id, c.stage, c.warp⟩ = some (x.1 + c.n, x.2) := by
  obtain ⟨hc1, hs1⟩ := kept_freeCount c.src hx i
  obtain ⟨hc2, hs2⟩ := kept_grant c.n hs1 i
  obtain ⟨hc3, hs3⟩ := kept_goOn sc (·.waits .claim) hs2 i
  simp only [State.releaseClaim, hsc]
  exact ⟨hc3.trans (hc2.trans hc1), hs3⟩

theorem exec_claimServed {p : Position} {c : Claim} {rest : List Claim} {sc : StageCode} {w : Warp} (hp : s.posOf p.id = some p)
    (hq : p.claims = c :: rest) (hfit : s.claimFits p (s.claimUnits p c) = true) (hsc : s.stage? p c.stage = some sc)
    (hw : s.warpOf ⟨p.id, c.stage, c.warp⟩ = some w) :
    ∃ t q u, exec (.claimServed p.id) s = .next t ∧ t.posOf p.id = some q ∧ q.claims = rest ∧ q.stash = p.stash ∧
      t.warpOf ⟨p.id, c.stage, c.warp⟩ = some u ∧ u.gran = w.gran + c.n ∧ u.threads.length = w.threads.length := by
  have hpos : (s.modPos p.id fun p => { p with claims := rest }).posOf p.id = some { p with claims := rest } := posOf_modPos_some hp
  have hwarp : (s.modPos p.id fun p => { p with claims := rest }).sizeAt ⟨p.id, c.stage, c.warp⟩ = some (w.gran, w.threads.length) := by
    refine (sizeAt_modPos (f := fun p => { p with claims := rest })).trans ?_
    rw [State.sizeAt, hw, Option.map_some]
  obtain ⟨hclaims, hsize⟩ := kept_releaseClaim (s := s.modPos p.id fun p => { p with claims := rest }) hsc hwarp p.id
  rw [State.claimsAt, State.claimsAt, hpos] at hclaims
  obtain ⟨q, hq', hkeep⟩ := Option.map_eq_some_iff.1 hclaims
  obtain ⟨u, hu, hnew⟩ := Option.map_eq_some_iff.1 hsize
  obtain ⟨hc, hs⟩ := Prod.mk.inj hkeep
  obtain ⟨hgran, hlen⟩ := Prod.mk.inj hnew
  refine ⟨_, q, u, ?_, hq', hc, hs, hu, hgran, hlen⟩
  show execClaimServed p.id s = _
  simp only [execClaimServed, hp, hq, hfit, if_true]

end

/-- Settles O32: rings and the pool act once for the arm; a claim that is served gives its warp its granules. -/
theorem ringsAndRegisterPool : Obligations.RingsAndRegisterPool := by
  refine ⟨?_, ?_, ?_, ?_⟩
  · intro s h g r k rest hat hwhole he hk ring mine det
    exact ⟨fun l t v x hmine hv hempty f s1 hrel => exec_rpush hat hwhole he hk hmine hv hempty hrel,
      fun l t want d x hmine hw hentry h0 h1 => exec_rpop hat hwhole he hk hmine hw hentry h0 h1⟩
  · intro s h g n k rest c hat hwhole hk hrecs hc units
    refine ⟨fun hle hfull => exec_rgive hat hwhole hk hrecs hc hle hfull, fun pd hdet hg => ⟨?_, ?_, ?_⟩⟩
    · rintro rfl
      exact exec_rclaim (b := true) hat hwhole hk hrecs hc hdet claimAct_zero
    · intro h0 hq hfit
      exact exec_rclaim (b := true) hat hwhole hk hrecs hc hdet (claimAct_fits h0 hg hq (claimFits_iff.2 hfit))
    · intro h0 hpd hno
      refine exec_rclaim (b := false) hat hwhole hk hrecs hc hdet (claimAct_try h0 hg hpd (hno.imp_right fun hlt => ?_))
      rw [← Bool.not_eq_true, claimFits_iff]
      exact Nat.not_le.2 hlt
  · intro s p c rest sc w hp hq hfit hsc hw
    exact exec_claimServed hp hq hfit hsc hw
  · intro s p hp hd
    show execRegDeadlock p.id s = _
    simp only [execRegDeadlock, hp, hd, if_true]

end Sys2Proof.Machine

/-! PROOF. Queue instructions (R277, R278, R280). -/

namespace Sys2Proof.Machine

section
variable {s : State} {h : Here} {g : Guard} {k : RCtx}

/-! ### Entering a record -/

theorem enqOp_perform_ok {i : Instr} {timed : Bool} {hs : BitVec 4} {x : Src} {a : Acc} {v : Viewer} {l : Loc} {bs : List Byte} {s1 s2 : State}
    (hload : s.loadAt v k.pos a.r l 64 = (bs, s1))
    (henq : (s1.fenceBy v 3).enqueue v.ctx (putTimed (BitVec.ofNat 512 (leNat bs)) timed) ((s1.fenceBy v 3).releaseOf v.wk k.arm v) = .ok s2) :
    (enqOp i timed hs x).perform s v k a l = (.out { frees := [x] }, s2.modWarp v.wk (·.tick k.arm)) := by
  simp only [enqOp, hload, State.enqBytes, henq]

theorem exec_enq {timed : Bool} {hs : BitVec 4} {i : Src} {r : RCtx → BitVec 128} {n : RCtx → Nat} (hat : s.here h) (he : h.epochs)
    (hr : ∀ k ∈ h.lanes g, handleOf k hs = .ok (r k) ∧ rdNat k 2 i = .ok (n k)) {os : List (Nat × LaneOut)} {t : State}
    (ht : State.InTurn (fun s k out u => ∃ v l bs s1 s2, s.viewer k.wk k.arm = some v ∧
      s.reach v k.pos k.block (s.stashLimit k) { handle := r k, i := n k, o := 0, n := 64, align := 64, wr := false } .read = .ok l ∧
      s.loadAt v k.pos (r k) l 64 = (bs, s1) ∧
      (s1.fenceBy v 3).enqueue v.ctx (putTimed (BitVec.ofNat 512 (leNat bs)) timed) ((s1.fenceBy v 3).releaseOf v.wk k.arm v) = .ok s2 ∧
      out = { frees := [i] } ∧ u = s2.modWarp v.wk (·.tick k.arm)) (s.acquires h g [i.spec]) (h.lanes g) os t) :
    exec (if timed then .enqAt g hs i else .enq g hs i) s = .next ((t.done h [] os [i.spec]).tickReady) := by
  have harm : ∀ instr : Instr, s.runArms { g := g, early := [i.spec] } (epochGuard (memArm (enqOp instr timed hs i))) = t.done h [] os [i.spec] := by
    refine fun instr => runArms_here hat rfl (by simp) ((epochGuard_ok he).trans (memArm_turn (m := enqOp instr timed hs i)
      (x := fun k => ⟨r k, n k, 0, []⟩) (fun k hk => ?_) (fun s k o u hP => ?_) ht))
    · obtain ⟨hh, hn⟩ := hr k hk
      simp only [enqOp, hh, hn, LaneStep.bind, LaneStep.map]
    · obtain ⟨v, l, bs, s1, s2, hv, hl, hload, henq, rfl, rfl⟩ := hP
      have hperform := enqOp_perform_ok (i := instr) (hs := hs) (x := i) (a := ⟨r k, n k, 0, []⟩) (l := l) hload henq
      rw [memLane_ok (m := enqOp instr timed hs i) (a := ⟨r k, n k, 0, []⟩) hv hl, hperform]
  cases timed with
  | false => exact congrArg (fun u => Host.Outcome.next (State.tickReady u)) (harm (.enq g hs i))
  | true => exact congrArg (fun u => Host.Outcome.next (State.tickReady u)) (harm (.enqAt g hs i))

/-! ### Retry, cancellation and counts -/

/-- A task of the lane's context that a queue holds Faulted. -/
def State.faultedTask (s : State) (k : RCtx) (n : Nat) (tid : Word) (x : QSlot) : Prop :=
  ∃ y, s.liveQueue n = some y ∧ y.ctx = k.pos.ctx ∧ y.held tid = some x ∧ x.state = tsFaulted

theorem ownQueue_ok {n ctx : Nat} {y : Queue} (hy : s.liveQueue n = some y) (hctx : y.ctx = ctx) : s.ownQueue ctx n = some y := by
  simp only [State.ownQueue, hy, Option.bind_some, hctx, beq_self_eq_true, if_true]

theorem retryTask_ok {n : Nat} {tid : Word} {x : QSlot} (hx : s.faultedTask k n tid x) :
    s.retryTask n tid = some ((s.putSlot n { x with state := tsReady, readyAt := s.t.moment }).tickReady) := by
  obtain ⟨y, hy, -, hheld, hst⟩ := hx
  simp only [State.retryTask, hy, Option.bind_some, hheld, hst, beq_self_eq_true, if_true]

theorem cancelTask_ok {n : Nat} {tid : Word} {x : QSlot} (hx : s.faultedTask k n tid x) :
    s.cancelTask n tid = some ((s.putSlot n { x with state := tsCancelled }).cancelList k.pos.ctx (s.cancelFuel k.pos.ctx)
      (s.succOf k.pos.ctx x.word)) := by
  obtain ⟨y, hy, hctx, hheld, hst⟩ := hx
  simp only [State.cancelTask, hy, hheld, hst, hctx, beq_self_eq_true, if_true]

/-- A retry or a cancellation of each lane's task, in turn. -/
theorem turns_task {q t : Src} {n : RCtx → Nat} {tid : RCtx → Nat} {act : State → Nat → Word → Option State} {i : Instr}
    {next : State → RCtx → QSlot → State} (hat : s.here h) (hdet : s.det? h.c.pos = false)
    (hr : ∀ k ∈ h.lanes g, rdNat k 1 q = .ok (n k) ∧ rdNat k 2 t = .ok (tid k))
    (hact : ∀ s k x, s.faultedTask k (n k) (BitVec.ofNat 32 (tid k)) x → act s (n k) (BitVec.ofNat 32 (tid k)) = some (next s k x))
    (he : exec i s = .next (s.runArms { g := g } (taskArm q t act))) :
    s.Turns h g [] [] i fun s k out u => ∃ x, s.faultedTask k (n k) (BitVec.ofNat 32 (tid k)) x ∧ out = { frees := [q, t] } ∧
      u = next s k x := by
  refine turns_here hat (fun os u ht => (detBan_ok fun _ => hdet).trans (perLane_turn (x := fun k => (n k, BitVec.ofNat 32 (tid k)))
    (fun k hk => ?_) (fun s k o u hP => ?_) ht)) he
  · obtain ⟨hq, htid⟩ := hr k hk
    simp only [hq, htid, LaneStep.bind, LaneStep.map]
  · obtain ⟨x, hx, rfl, rfl⟩ := hP
    obtain ⟨y, hy, hctx, -⟩ := id hx
    simp only [ownQueue_ok hy hctx, hact s k x hx]

/-- What `qstat` writes for a lane. -/
def qstatStep (what : QSel) (d : Dst) (q t : Src) (s : State) (c : RCtx) : LaneStep LaneOut :=
  (rdNat c 1 q).bind fun n => (rdTask c what t).bind fun k =>
    match s.ownQueue c.pos.ctx n with
    | none => .trap { cause := .queueInvalid }
    | some x => outD c d ⟨s.queueStat x what k, F.n32⟩ (if what == .task || what == .armed then [q, t] else [q])

theorem delivers_qstat {what : QSel} {d : Dst} {q t : Src} {srcs : List Src} {n : RCtx → Nat} {tid : RCtx → Word} {x : RCtx → Queue}
    (hat : s.here h) (hdet : s.det? h.c.pos = false) (hq : ∀ k ∈ h.lanes g, rdNat k 1 q = .ok (n k))
    (ht : ∀ k ∈ h.lanes g, rdTask k what t = .ok (tid k)) (hx : ∀ k ∈ h.lanes g, s.liveQueue (n k) = some (x k) ∧ (x k).ctx = k.pos.ctx)
    (hsrcs : (if what == .task || what == .armed then [q, t] else [q]) = srcs) :
    s.Delivers h g d srcs (.qstat what g d q t) (noFlags fun k => ⟨s.queueStat (x k) what (tid k), F.n32⟩) := by
  refine delivers_here hat (f := detBan true fun s cs => (laneWise (qstatStep what d q t s) cs, s)) (step := qstatStep what d q t s)
    (detBan_ok fun _ => hdet) (fun k hk hw => ?_) rfl
  obtain ⟨hy, hctx⟩ := hx k hk
  simp only [qstatStep, hq k hk, ht k hk, ownQueue_ok hy hctx, LaneStep.bind, hsrcs]
  exact outD_ok hw _ _

/-! ### Notifying successors -/

theorem tdoneLane_done {v : Viewer} {q i : Nat} {x : QSlot} {full : Bool} (hx : s.ownTask k = some (q, i, x)) (hd : x.tdn = true) :
    s.tdoneLane k v full = (.out {}, none, s) := by
  simp only [State.tdoneLane, hx, hd, if_true]

theorem tdoneLane_notify {v : Viewer} {q i : Nat} {x : QSlot} {full : Bool} {s1 : State} (hx : s.ownTask k = some (q, i, x))
    (hd : x.tdn = false) (hf : s.succFault v.ctx x.word = none)
    (hn : (s.fenceBy v 3).notify q i (s.releaseOf v.wk k.arm v)
      (fun obj off => (s.fenceBy v 3).checkRace v k.pos 0 (.glob obj off) 8 .read) = (s1, none)) :
    s.tdoneLane k v full = (.out {}, none, ((List.range (taskNsucc x.word)).foldl (fun s j => s.recordRace v k.pos 0
      (.glob (taskSucc x.word / 2 ^ 40) (taskSucc x.word % 2 ^ 40 + 8 * j)) 8 .read false) s1).modWarp v.wk (·.tick k.arm)) := by
  simp only [State.tdoneLane, hx, hd, hf, hn, Bool.false_eq_true, if_false]

theorem addLog_single (c : RCtx) (v : Viewer) (i : Instr) (lane : Nat) (a : Acc) (done : List Nat) :
    s.addLog c v i [(lane, a, noFid)] done = s := by
  simp only [State.addLog, List.any_cons, List.any_nil, bne_self_eq_false, Bool.or_self]

theorem exec_tdone {v : Viewer} {s1 : State} (hat : s.here h) (he : h.epochs) (hk : h.lanes g = [k])
    (hv : s.viewer k.wk k.arm = some v) (hlane : ∀ full, s.tdoneLane k v full = (.out {}, none, s1)) :
    exec (.tdone g) s = .next (s1.done h [] (h.each g {})) := by
  refine congrArg _ (runArms_here hat rfl (by simp) ((epochGuard_ok he).trans ?_))
  have hone : h.each g {} = [(k.lane, {})] := by rw [Here.each, hk]; rfl
  rw [acquires_nil, hone, hk]
  simp only [tdoneArm, List.head?_cons, Option.bind_some, hv, List.foldl_cons, List.foldl_nil, hlane, Option.getD_none, List.nil_append,
    addLog_single]
  rfl

end

/-- Settles O33: records enter, tasks are retried or cancelled, and successors are notified, lane by lane. -/
theorem queueInstructions : Obligations.QueueInstructions := by
  refine fun s h g hat => ⟨fun he timed hs i r n hr os t ht => exec_enq hat he hr ht, fun hdet q t n tid hr => ⟨?_, ?_, ?_, ?_⟩,
    fun he k v q i x hk hv hx => ⟨fun hd => exec_tdone hat he hk hv fun _ => tdoneLane_done hx hd,
      fun s1 hd hf hn => exec_tdone hat he hk hv fun _ => tdoneLane_notify hx hd hf hn⟩⟩
  · exact turns_task (next := fun s k x => (s.putSlot (n k) { x with state := tsReady, readyAt := s.t.moment }).tickReady) hat hdet hr
      (fun s k x hx => retryTask_ok hx) rfl
  · exact turns_task (next := fun s k x => (s.putSlot (n k) { x with state := tsCancelled }).cancelList k.pos.ctx
      (s.cancelFuel k.pos.ctx) (s.succOf k.pos.ctx x.word)) hat hdet hr (fun s k x hx => cancelTask_ok hx) rfl
  · intro what d hwhat x hx
    have hsel : (what == .task || what == .armed) = true := by rcases hwhat with rfl | rfl <;> rfl
    exact delivers_qstat (tid := fun k => BitVec.ofNat 32 (tid k)) hat hdet (fun k hk => (hr k hk).1)
      (fun k hk => by rw [rdTask, if_pos hsel, (hr k hk).2]; rfl) hx (if_pos hsel)
  · intro what d htask harmed x hx
    have hsel : ¬ (what == .task || what == .armed) = true := by simp [htask, harmed]
    exact delivers_qstat (tid := fun _ => 0) hat hdet (fun k hk => (hr k hk).1) (fun k hk => by rw [rdTask, if_neg hsel]) hx (if_neg hsel)

end Sys2Proof.Machine

/-! PROOF. What the host writes into a queue's push window, and how records stand there. -/

namespace Sys2Proof.Machine

section
variable {s : State}

/-! ### What a write of memory does to a state -/

/-- A relation from one state to another that every part of a write of memory makes true. -/
structure MemRel (R : State → State → Prop) : Prop where
  refl : ∀ s, R s s
  trans : ∀ {s t u}, R s t → R t u → R s u
  performRed : ∀ s id, R s (s.performRed id)
  expose : ∀ (s : State) p lvl, R s (s.modC fun c => (c.exposeAll p lvl).retire)
  raise : ∀ (s : State) p lvl, R s (s.modC fun c => (c.raise p lvl).retire)
  write : ∀ (s : State) pa bs (bad : Compute → List Nat), R s (s.modC fun c => { c with mem := memWrite c.mem pa bs, bad := bad c })
  calm : ∀ (s : State) (f : Compute → Compute), (f s.c).mem = s.c.mem → (f s.c).pend = s.c.pend → (f s.c).positions = s.c.positions →
    R s (s.modC f)
  win : ∀ (s : State) i n f, R s (s.modPos i (·.modWin n f))
  free : ∀ (s : State) n, R s { s with free := n }

section
variable {R : State → State → Prop} (hR : MemRel R)
include hR

/-- The last step first: how a relation is read off from a state that a function builds up. -/
theorem MemRel.after {s t u : State} (h : R t u) (h' : R s t) : R s u := hR.trans h' h

theorem MemRel.foldl {α : Type} {f : State → α → State} (hf : ∀ s a, R s (f s a)) (l : List α) (s : State) : R s (l.foldl f s) := by
  induction l generalizing s with
  | nil => exact hR.refl s
  | cons a l ih => exact hR.trans (hf s a) (ih _)

theorem MemRel.performReds (s : State) (p : PStore → Bool) : R s (s.performReds p) := hR.foldl (fun s i => hR.performRed s i) _ s

theorem MemRel.settle (s : State) (pa n : Nat) : R s (s.settle pa n) := hR.trans (hR.performReds s _) (hR.expose _ _ _)

theorem MemRel.devWrite (s : State) (pa : Nat) (bs : List Byte) : R s (s.devWrite pa bs) :=
  hR.trans (hR.settle s pa bs.length)
    (hR.write _ pa bs fun c => c.bad.filter fun k => !(decide (pa ≤ 32 * k) && decide (32 * k + 32 ≤ pa + bs.length)))

theorem MemRel.repair (s : State) (pa : Nat) : R s (s.repair pa) := hR.calm s _ rfl rfl rfl

theorem MemRel.repairRange (s : State) (place : Nat → Option Nat) (off n : Nat) : R s (s.repairRange place off n) := by
  refine hR.foldl (fun s i => ?_) _ s
  split
  · split
    · exact hR.repair s _
    · exact hR.refl s
  · exact hR.refl s

theorem MemRel.loseRest (s : State) (l pa n : Nat) : R s (s.loseRest l pa n) := by
  unfold State.loseRest
  split
  · exact hR.refl s
  · refine hR.foldl (fun s i => ?_) _ s
    split
    · exact hR.refl s
    · exact hR.trans (hR.free s _) (hR.devWrite _ _ _)

theorem MemRel.stampKey (s : State) (pad pa n : Nat) : R s (s.stampKey pad pa n) := by
  unfold State.stampKey
  split
  · exact hR.trans (hR.foldl (fun s l => hR.loseRest s l pa n) _ s) (hR.calm _ _ rfl rfl rfl)
  · exact hR.refl s

theorem MemRel.writeBack (s : State) (pos n line : Nat) : R s (s.writeBack pos n line) := by
  unfold State.writeBack
  split
  · split
    · split
      · split
        · exact hR.trans (hR.trans (hR.devWrite _ _ _) (hR.stampKey _ _ _ _)) (hR.win _ _ _ _)
        · exact hR.win s _ _ _
      · exact hR.refl s
    · exact hR.refl s
  · exact hR.refl s

theorem MemRel.snoopLines (s : State) (wr : Bool) (ls : List (Nat × Nat × Nat)) : R s (s.snoopLines wr ls) := by
  refine hR.foldl (fun s l => ?_) ls s
  cases wr
  · exact hR.writeBack _ _ _ _
  · exact hR.trans (hR.writeBack _ _ _ _) (hR.win _ _ _ _)

theorem MemRel.snoop (s : State) (ctx obj off n : Nat) (wr : Bool) : R s (s.snoop ctx obj off n wr) := hR.snoopLines s wr _

theorem MemRel.objWrite (s : State) (ctx obj off : Nat) (bs : List Byte) : R s (s.objWrite ctx obj off bs) := by
  unfold State.objWrite
  split
  · exact hR.refl s
  · refine hR.trans (hR.snoop _ _ _ _ _ _) (hR.trans (hR.foldl (fun s b => ?_) _ _) (hR.repairRange _ _ _ _))
    split
    · exact hR.trans (hR.devWrite _ _ _) (hR.stampKey _ _ _ _)
    · exact hR.refl s

end

/-- A view of the state that shows nothing of memory, of the race records or of the free choices, and of a position no more than its place
in its context and life. -/
structure MemBlind {β : Type} (view : State → β) : Prop where
  mem : ∀ (s : State) (c : Compute), c.positions = s.c.positions → view { s with c := c } = view s
  pos : ∀ (s : State) i (f : Position → Position), (∀ p, ((f p).id, (f p).ctx, (f p).st) = (p.id, p.ctx, p.st)) → view (s.modPos i f) = view s
  free : ∀ (s : State) n, view { s with free := n } = view s

section
variable {β : Type} {view : State → β}

/-- A view that shows nothing of the clusters is blind. -/
theorem MemBlind.of_c (hview : ∀ (s : State) c, view { s with c := c } = view s) (hfree : ∀ (s : State) n, view { s with free := n } = view s) :
    MemBlind view :=
  ⟨fun s c _ => hview s c, fun s _ _ _ => hview s _, hfree⟩

variable (hv : MemBlind view)
include hv

theorem MemBlind.modC (s : State) {f : Compute → Compute} (hf : (f s.c).positions = s.c.positions) : view (s.modC f) = view s := hv.mem s _ hf

theorem MemBlind.raiseIn (s : State) (k : WKey) (f : Flags) : view (s.raiseIn k f) = view s :=
  hv.pos s k.pos (·.modBlock k.stage (·.modWarp k.warp fun w => { w with fstat := raiseFstat w.fstat f })) fun _ => rfl

theorem MemBlind.performRed (s : State) (id : Nat) : view (s.performRed id) = view s := by
  have hpos : (s.c.performRed id).1.positions = s.c.positions := Compute.performRed_positions s.c id
  unfold State.performRed
  split
  next c k f heq =>
    rw [heq] at hpos
    exact (hv.raiseIn { s with c := c } k f).trans (hv.mem s c hpos)
  next c heq =>
    rw [heq] at hpos
    exact hv.mem s c hpos

/-- A blind view shows the same before and after a write of memory. -/
theorem MemBlind.rel : MemRel fun s t => view t = view s where
  refl _ := rfl
  trans h h' := h'.trans h
  performRed s id := hv.performRed s id
  expose s _ _ := hv.modC s (Compute.exposeAll_positions _ _ _)
  raise s _ _ := hv.modC s rfl
  write s _ _ _ := hv.modC s rfl
  calm s _ _ _ hpos := hv.modC s hpos
  win s i n f := hv.pos s i (·.modWin n f) fun _ => rfl
  free s n := hv.free s n

end

theorem objWrite_t (s : State) (ctx obj off : Nat) (bs : List Byte) : (s.objWrite ctx obj off bs).t = s.t :=
  (MemBlind.of_c (view := (·.t)) (fun _ _ => rfl) fun _ _ => rfl).rel.objWrite s ctx obj off bs

/-! ### Queues and their slots -/

theorem find?_map_upd {α : Type} {p : α → Bool} {f : α → α} (hf : ∀ a, p a = true → p (f a) = true) (l : List α) :
    (upd p f l).find? p = (l.find? p).map f := by
  induction l with
  | nil => rfl
  | cons a l ih =>
    simp only [upd, List.map_cons] at ih ⊢
    by_cases ha : p a = true
    · simp only [ha, if_true, List.find?_cons, hf a ha, Option.map_some]
    · simp only [ha, List.find?_cons, Bool.false_eq_true, if_false]
      exact ih

theorem find?_put {α : Type} {p : α → Bool} {a : α} (ha : p a = true) (l : List α) : (put p a l).find? p = some a := by
  unfold put
  split
  case isTrue h =>
    obtain ⟨b, hb, hpb⟩ := List.any_eq_true.1 h
    rw [find?_map_upd fun _ _ => ha]
    cases hf : l.find? p with
    | none => exact absurd hpb (by simpa using List.find?_eq_none.1 hf b hb)
    | some c => rfl
  case isFalse h =>
    have hnone : l.find? p = none := List.find?_eq_none.2 fun b hb hpb => h (List.any_eq_true.2 ⟨b, hb, hpb⟩)
    rw [List.find?_append, hnone, Option.none_or, List.find?_cons, ha]

theorem queueOf_putSlot {n : Nat} {qu : Queue} (x : QSlot) (hq : s.queueOf n = some qu) :
    (s.putSlot n x).queueOf n = some { qu with slots := put (·.idx == x.idx) x qu.slots } := by
  have hput : s.putSlot n x = (s.modQueue n fun qu => { qu with slots := put (·.idx == x.idx) x qu.slots }).objWrite qu.ctx qu.store
      (64 * x.idx) (leBytes 64 x.image.toNat) := by
    simp only [State.putSlot, hq]
  rw [hput, State.queueOf, objWrite_t]
  have hx := find?_map_upd (p := fun q : Queue => q.id == n) (f := fun qu => { qu with slots := put (·.idx == x.idx) x qu.slots })
    (fun _ h => h) s.t.queues
  exact hx.trans (by rw [show s.t.queues.find? (fun q => q.id == n) = some qu from hq, Option.map_some])

theorem slotAt_put {qu : Queue} (x : QSlot) : ({ qu with slots := put (·.idx == x.idx) x qu.slots } : Queue).slotAt x.idx = some x :=
  find?_put (by simp) _

theorem enter_no_credits {q : Queue} {r : BitVec 512} {slot : Nat} {f : Frontier} (hno : ∀ x ∈ q.slots, x.state ≠ tsCredit) :
    s.enter q r slot f = s.putSlot q.id (if taskArmed r = 0 then
      s.ripe { idx := slot, word := r, state := tsArmed, armed := taskArmed r, tdn := false, ndone := 0, readyAt := 0, front := f }
      else { idx := slot, word := r, state := tsArmed, armed := taskArmed r, tdn := false, ndone := 0, readyAt := 0, front := f }) := by
  have hnil : (q.slots.filter fun x => x.state == tsCredit && taskTid x.word == taskTid r) = [] := by
    refine List.filter_eq_nil_iff.2 fun x hx => ?_
    simp [hno x hx]
  simp only [State.enter, hnil, List.foldl_nil, List.length_nil, Nat.sub_zero]

/-! ### What the window writes and shows -/

theorem up_of_running (h : s.m.boot = .running) : s.up = true := by simp [State.up, h]

theorem push_enters {q slot : Nat} {r : BitVec 512} {x : Queue} (hup : s.up = true) (hx : s.liveQueue q = some x) (hdy : x.dying = false)
    (hq : taskQueue r = q) (hend : ∀ c, s.ctxOf x.ctx = some c → c.st ≠ .ending) (hacc : s.accept x r = .ok slot) :
    s.pushWrite q true r = (s.enter x r slot []).tickReady := by
  have hctx : (s.ctxOf x.ctx).any (·.st == .ending) = false := by
    cases hc : s.ctxOf x.ctx with
    | none => rfl
    | some c => simpa using hend c hc
  simp only [State.pushWrite, hup, hx, hctx, hdy, hq, hacc, Bool.not_true, Bool.false_eq_true, if_false, bne_self_eq_false, Bool.or_self]

theorem push_drops {q : Nat} {r : BitVec 512} {x : Queue} {whole : Bool} (hup : s.up = true) (hx : s.liveQueue q = some x)
    (hend : ∀ c, s.ctxOf x.ctx = some c → c.st ≠ .ending) (hbad : whole = false ∨ ∃ e, s.accept x r = .error e) :
    s.pushWrite q whole r = s.dropPush q := by
  have hctx : (s.ctxOf x.ctx).any (·.st == .ending) = false := by
    cases hc : s.ctxOf x.ctx with
    | none => rfl
    | some c => simpa using hend c hc
  simp only [State.pushWrite, hup, hx, hctx, Bool.not_true, Bool.false_eq_true, if_false]
  obtain rfl | ⟨e, he⟩ := hbad
  · rfl
  · simp only [he, ite_self]

theorem push_ending {q : Nat} {r : BitVec 512} {x : Queue} {c : Ctx} {whole : Bool} (hup : s.up = true) (hx : s.liveQueue q = some x)
    (hc : s.ctxOf x.ctx = some c) (hend : c.st = .ending) : s.pushWrite q whole r = (s.dropPush q).replyPush q 3 := by
  simp only [State.pushWrite, hup, hx, hc, hend, Option.any_some, beq_self_eq_true, if_true, Bool.not_true, Bool.false_eq_true, if_false]

theorem windowTask_done {q : Nat} {tid : Word} {x : Queue} {y : QSlot} {t : State} {act : State → Nat → Word → Option State}
    (hup : s.up = true) (hx : s.liveQueue q = some x) (hy : x.held tid = some y) (ht : act s q tid = some t) :
    s.windowTask q tid act = t.replyPush q 0 := by
  simp only [State.windowTask, hup, hx, Option.bind_some, Queue.known, hy, Option.some_or, ht, Bool.not_true, Bool.false_eq_true, if_false]

theorem windowTask_unknown {q : Nat} {tid : Word} {act : State → Nat → Word → Option State}
    (hup : s.up = true) (hx : (s.liveQueue q).bind (·.known tid) = none) : s.windowTask q tid act = s.replyPush q 2 := by
  simp only [State.windowTask, hup, hx, Bool.not_true, Bool.false_eq_true, if_false]

theorem windowTask_refused {q : Nat} {tid : Word} {y : QSlot} {act : State → Nat → Word → Option State}
    (hup : s.up = true) (hx : (s.liveQueue q).bind (·.known tid) = some y) (ht : act s q tid = none) :
    s.windowTask q tid act = s.replyPush q 1 := by
  simp only [State.windowTask, hup, hx, ht, Bool.not_true, Bool.false_eq_true, if_false]

/-- A task that a queue knows in another state than Faulted is not held Faulted. -/
theorem not_faulted_of_known {q : Nat} {tid : Word} {y : QSlot} (hx : (s.liveQueue q).bind (·.known tid) = some y)
    (hst : y.state ≠ tsFaulted) : ∃ x, s.liveQueue q = some x ∧ ∀ z, x.held tid = some z → z.state ≠ tsFaulted := by
  obtain ⟨x, hl, hk⟩ := Option.bind_eq_some_iff.1 hx
  refine ⟨x, hl, fun z hz => ?_⟩
  rw [Queue.known, hz, Option.some_or, Option.some.injEq] at hk
  exact hk ▸ hst

theorem retryTask_none {q : Nat} {tid : Word} {x : Queue} (hl : s.liveQueue q = some x)
    (hx : ∀ z, x.held tid = some z → z.state ≠ tsFaulted) : s.retryTask q tid = none := by
  simp only [State.retryTask, hl, Option.bind_some]
  cases hz : x.held tid with
  | none => rfl
  | some z => simp only [beq_eq_false_iff_ne.2 (hx z hz), Bool.false_eq_true, if_false]

theorem cancelTask_none {q : Nat} {tid : Word} {x : Queue} (hl : s.liveQueue q = some x)
    (hx : ∀ z, x.held tid = some z → z.state ≠ tsFaulted) : s.cancelTask q tid = none := by
  simp only [State.cancelTask, hl]
  cases hz : x.held tid with
  | none => rfl
  | some z => simp only [beq_eq_false_iff_ne.2 (hx z hz), Bool.false_eq_true, if_false]

theorem leNat_nthBytes (v : Nat) : ∀ n b, leNat ((List.range n).map fun i => nthByte v (b + i)) = v / 256 ^ b % 256 ^ n := by
  intro n
  induction n with
  | zero => intro b; simp [leNat, Nat.mod_one]
  | succ n ih =>
    intro b
    rw [List.range_succ_eq_map, List.map_cons, List.map_map]
    have hstep : ((fun i => nthByte v (b + i)) ∘ Nat.succ) = fun i => nthByte v (b + 1 + i) := by
      funext i; simp only [Function.comp]; congr 1; omega
    rw [hstep, show ∀ (a : Byte) l, leNat (a :: l) = a.toNat + 256 * leNat l from fun _ _ => rfl, ih (b + 1)]
    simp only [nthByte, Nat.add_zero, BitVec.toNat_ofNat]
    rw [show (2 : Nat) ^ 8 = 256 from rfl, Nat.pow_succ, ← Nat.div_div_eq_div_mul, Nat.pow_succ, Nat.mul_comm (256 ^ n) 256, Nat.mod_mul]

theorem word_pushByte {q at' v : Nat} (hv : v < 2 ^ 64) (hb : ∀ i < 8, s.pushByte q (at' + i) = nthByte v i) :
    leNat ((List.range 8).map fun i => s.pushByte q (at' + i)) = v := by
  have hbytes : ((List.range 8).map fun i => s.pushByte q (at' + i)) = (List.range 8).map fun i => nthByte v (0 + i) :=
    List.map_congr_left fun i hi => by rw [hb i (List.mem_range.1 hi), Nat.zero_add]
  rw [hbytes, leNat_nthBytes, Nat.pow_zero, Nat.div_one]
  exact Nat.mod_eq_of_lt (by simpa using hv)

theorem pushByte_down {q off : Nat} (h : s.m.boot ≠ .running) : s.pushByte q off = 0 := by
  simp [State.pushByte, State.up, h]

theorem onWindow_goes {i : Instr} {link : Bool} {w : HostWindow} {f : State → State} (hi : windowWrite i = some (link, w))
    (hy : s.linkYields link w = false) : s.onWindow i f = f s := by
  simp only [State.onWindow, hi, hy, Bool.false_eq_true, if_false]

theorem onWindow_yields {i : Instr} {link : Bool} {w : HostWindow} {f : State → State} (hi : windowWrite i = some (link, w))
    (hy : s.linkYields link w = true) : s.onWindow i f = { s with agenda := s.agenda ++ [.event i] } := by
  simp only [State.onWindow, hi, hy, if_true, State.putOff]

/-- A push window shows its queue's counts, its dropped pushes and its last reply, and zeros elsewhere. -/
theorem push_window_shows {q : Nat} {x : Queue} (hup : s.up = true) (hx : s.liveQueue q = some x) :
    let word (at' : Nat) : Nat := leNat ((List.range 8).map fun i => s.pushByte q (at' + i))
    (x.freeCount < 2 ^ 17 → x.readyCount < 2 ^ 17 → word 0x080 = x.freeCount + x.readyCount * 2 ^ 17) ∧
    ((s.pushWin q).dropped < 2 ^ 32 → word 0x088 = (s.pushWin q).dropped) ∧
    ((s.pushWin q).reply < 2 ^ 32 → word 0x090 = (s.pushWin q).reply) ∧
    ∀ off, off < 0x080 ∨ 0x098 ≤ off → s.pushByte q off = 0 := by
  refine ⟨fun hf hr => word_pushByte (by omega) fun i hi => ?_, fun h => word_pushByte (by omega) fun i hi => ?_,
    fun h => word_pushByte (by omega) fun i hi => ?_, fun off hoff => ?_⟩
  · rw [State.pushByte, if_neg (by simp [hup]), if_pos (by omega), hx, Nat.add_sub_cancel_left]
    rfl
  · rw [State.pushByte, if_neg (by simp [hup]), if_neg (by omega), if_pos (by omega), Nat.add_sub_cancel_left]
  · rw [State.pushByte, if_neg (by simp [hup]), if_neg (by omega), if_neg (by omega), if_pos (by omega), Nat.add_sub_cancel_left]
  · rw [State.pushByte, if_neg (by simp [hup]), if_neg (by omega), if_neg (by omega), if_neg (by omega)]

theorem windowStop_ok {q : Nat} {x : Queue} {stop : Bool} (hup : s.up = true) (hx : s.queueOf q = some x) (hdy : x.dying = false) :
    s.windowStop q stop = (s.modQueue q fun x => { x with stopped := stop }).replyPush q 0 := by
  have hd : (s.reload x).dying = false := hdy
  simp only [State.windowStop, hup, State.liveQueue, hx, Option.map_some, hd, Bool.not_true, Bool.false_eq_true, if_false]

theorem windowStop_no_queue {q : Nat} {stop : Bool} (hup : s.up = true) (hx : s.queueOf q = none) :
    s.windowStop q stop = s.replyPush q 3 := by
  simp only [State.windowStop, hup, State.liveQueue, hx, Option.map_none, Bool.not_true, Bool.false_eq_true, if_false]

/-- A record stands Armed, Timed or Ready in the slot it enters. -/
theorem enter_stands {q : Queue} {r : BitVec 512} {slot : Nat} (hq : s.queueOf q.id = some q) (hno : ∀ x ∈ q.slots, x.state ≠ tsCredit) :
    ∃ p x, (s.enter q r slot []).queueOf q.id = some p ∧ p.slotAt slot = some x ∧ x.word = r ∧ x.armed = taskArmed r ∧
      x.tdn = false ∧ x.ndone = 0 ∧
      x.state = (if taskArmed r ≠ 0 then tsArmed else if taskTimed r = true ∧ s.time < taskRtime r then tsTimed else tsReady) := by
  rw [enter_no_credits hno]
  by_cases ha : taskArmed r = 0
  · rw [if_pos ha, if_neg (by simp [ha]), State.ripe]
    by_cases ht : taskTimed r = true ∧ s.time < taskRtime r
    · rw [if_pos (by simpa using ht), if_pos ht]
      exact ⟨_, _, queueOf_putSlot _ hq, slotAt_put (qu := q) { idx := slot, .. }, rfl, rfl, rfl, rfl, rfl⟩
    · rw [if_neg (by simpa using ht), if_neg ht]
      exact ⟨_, _, queueOf_putSlot _ hq, slotAt_put (qu := q) { idx := slot, .. }, rfl, rfl, rfl, rfl, rfl⟩
  · rw [if_neg ha, if_pos ha]
    exact ⟨_, _, queueOf_putSlot _ hq, slotAt_put (qu := q) { idx := slot, .. }, rfl, rfl, rfl, rfl, rfl⟩

theorem filterAllows_rate_zero {pad : Nat} {r : BitVec 512} {f : FilterEnt} (hf : s.filterFor pad (taskQueue r) = some f)
    (hr : f.ent.extractLsb' 30 16 = 0) : s.filterAllows pad r = none := by
  have hrate : feRate f.ent = 0 := by rw [feRate, hr]; rfl
  simp only [State.filterAllows, hf, Option.bind_some, hrate, bne_self_eq_false, Bool.and_false, Bool.false_and, Bool.false_eq_true, if_false]

theorem find?_upd_filter {q : Nat} {f : FilterEnt} (g : FilterEnt → FilterEnt) (hg : ∀ f, (g f).idx = f.idx) {l : List FilterEnt}
    (hf : l.find? (·.idx == q) = some f) : (upd (·.idx == q) g l).find? (·.idx == q) = some (g f) := by
  rw [find?_map_upd fun a ha => by rwa [hg], hf, Option.map_some]

end

/-- Settles O34: what a push window does and shows, and how a record stands that enters its queue. -/
theorem pushWindowsAndQueues : Obligations.PushWindowsAndQueues := by
  refine ⟨fun s link q hy hrun => ?_, fun s link q r tid whole i hi => ?_, fun s q r slot hq hno => enter_stands hq hno,
    fun s i => ⟨_, rfl, rfl, rfl, fun f hf => find?_upd_filter (fun f => { f with bucket := min (feBurst f.ent) (f.bucket + feRate f.ent) })
      (fun _ => rfl) hf⟩, fun s pad r f hf hr => filterAllows_rate_zero hf hr,
    fun s t ht => ?_⟩
  · have hup := up_of_running hrun
    refine ⟨fun r x hx hdy htq hend => ⟨fun slot hacc => ?_, fun e hacc => ?_, ?_⟩, fun r x c whole hx hc hend => ?_,
      fun x hx => push_window_shows hup hx, fun x tid y hx hheld hst => ?_, fun tid n hn => ?_, fun x hx hdy => ?_, fun hx => ?_⟩
    · exact congrArg _ ((onWindow_goes rfl hy).trans (push_enters hup hx hdy htq hend hacc))
    · exact congrArg _ ((onWindow_goes rfl hy).trans (push_drops hup hx hend (.inr ⟨e, hacc⟩)))
    · exact congrArg _ ((onWindow_goes rfl hy).trans (push_drops hup hx hend (.inl rfl)))
    · exact congrArg _ ((onWindow_goes rfl hy).trans (push_ending hup hx hc hend))
    · refine ⟨congrArg _ ((onWindow_goes rfl hy).trans (windowTask_done hup hx hheld ?_)),
        congrArg _ ((onWindow_goes rfl hy).trans (windowTask_done hup hx hheld ?_))⟩
      · simp only [State.retryTask, hx, Option.bind_some, hheld, hst, beq_self_eq_true, if_true]
      · simp only [State.cancelTask, hx, hheld, hst, beq_self_eq_true, if_true]
    · cases hk : (s.liveQueue q).bind (·.known tid) with
      | none =>
        rw [hk] at hn
        subst hn
        exact ⟨congrArg _ ((onWindow_goes rfl hy).trans (windowTask_unknown hup hk)),
          congrArg _ ((onWindow_goes rfl hy).trans (windowTask_unknown hup hk))⟩
      | some y =>
        rw [hk] at hn
        obtain ⟨rfl, hst⟩ := hn
        obtain ⟨x, hl, hx⟩ := not_faulted_of_known hk hst
        exact ⟨congrArg _ ((onWindow_goes rfl hy).trans (windowTask_refused hup hk (retryTask_none hl hx))),
          congrArg _ ((onWindow_goes rfl hy).trans (windowTask_refused hup hk (cancelTask_none hl hx)))⟩
    · exact ⟨congrArg _ ((onWindow_goes rfl hy).trans (windowStop_ok hup hx hdy)),
        congrArg _ ((onWindow_goes rfl hy).trans (windowStop_ok hup hx hdy))⟩
    · exact ⟨congrArg _ ((onWindow_goes rfl hy).trans (windowStop_no_queue hup hx)),
        congrArg _ ((onWindow_goes rfl hy).trans (windowStop_no_queue hup hx))⟩
  · refine ⟨fun hy => ?_, fun hy hdown => ⟨?_, fun off => pushByte_down hdown⟩⟩
    · simp only [List.mem_cons, List.not_mem_nil, or_false] at hi
      obtain rfl | rfl | rfl | rfl | rfl := hi
      all_goals exact congrArg _ (onWindow_yields rfl hy)
    · have hup : s.up = false := by simpa [State.up] using hdown
      simp only [List.mem_cons, List.not_mem_nil, or_false] at hi
      obtain rfl | rfl | rfl | rfl | rfl := hi
      · exact congrArg _ ((onWindow_goes rfl hy).trans (by simp only [State.pushWrite, hup, Bool.not_false, if_true]))
      · exact congrArg _ ((onWindow_goes rfl hy).trans (by simp only [State.windowTask, hup, Bool.not_false, if_true]))
      · exact congrArg _ ((onWindow_goes rfl hy).trans (by simp only [State.windowTask, hup, Bool.not_false, if_true]))
      · exact congrArg _ ((onWindow_goes rfl hy).trans (by simp only [State.windowStop, hup, Bool.not_false, if_true]))
      · exact congrArg _ ((onWindow_goes rfl hy).trans (by simp only [State.windowStop, hup, Bool.not_false, if_true]))
  · have hwheel : (s.timedSlots.map fun x => s.tickOf x.2).min? = some t := ht
    exact congrArg Host.Outcome.next (by rw [hwheel])

end Sys2Proof.Machine

/-! PROOF. What a launch answers, and what its window shows. -/

namespace Sys2Proof.Machine

section
variable {s : State} {ctx : Nat} {c : Ctx} {pd : Paddock} {r : BitVec 1024}

theorem ctxOf_modCtx {f : Ctx → Ctx} (hf : ∀ c, (f c).id = c.id) (hc : s.ctxOf ctx = some c) :
    (s.modCtx ctx f).ctxOf ctx = some (f c) :=
  (find?_map_upd (p := fun c : Ctx => c.id == ctx) (f := f) (fun a ha => by rwa [hf]) s.t.ctxs).trans
    (by rw [show s.t.ctxs.find? (fun c => c.id == ctx) = some c from hc, Option.map_some])

theorem gridOf_addGrid (g : Grid) : (s.addGrid g).gridOf g.ctx g.id = some g := by
  have hnone : (s.c.grids.filter fun x => !(x.ctx == g.ctx && x.id == g.id)).find? (fun x => x.ctx == g.ctx && x.id == g.id) = none := by
    refine List.find?_eq_none.2 fun x hx hp => ?_
    have hkept := (List.mem_filter.1 hx).2
    rw [hp] at hkept
    exact absurd hkept (by decide)
  simp only [State.gridOf, State.addGrid, State.modC_c, List.find?_append, hnone, Option.none_or]
  simp

/-! ### What a launch writes answers -/

theorem launch_live (hc : s.ctxOf ctx = some c) (hp : s.padOf (s.padOfCtx ctx) = some pd) (hl : c.st = .live) (hpl : pd.st = .live) :
    s.launch ctx r = s.checkLaunch ctx pd r := by
  simp only [State.launch, hc, hp, hl, hpl, beq_self_eq_true, if_true]

theorem launch_held (hc : s.ctxOf ctx = some c) (hp : s.padOf (s.padOfCtx ctx) = some pd)
    (hh : c.st = .saving ∨ c.st = .saved ∨ c.st = .restoring ∨ (c.st = .live ∧ pd.st ≠ .live)) :
    s.launch ctx r = s.holdLaunch ctx r := by
  obtain hst | hst | hst | ⟨hst, hpst⟩ := hh
  · simp only [State.launch, hc, hp, hst]
  · simp only [State.launch, hc, hp, hst]
  · simp only [State.launch, hc, hp, hst]
  · simp only [State.launch, hc, hp, hst, beq_eq_false_iff_ne.2 hpst, Bool.false_eq_true, if_false]

theorem checkLaunch_bad (hb : launchBad (s.kernelAt ctx (lrEobj r) (lrEoff r)) r = true) :
    s.checkLaunch ctx pd r = s.launchReply ctx 1 0 0 := by
  unfold State.checkLaunch
  split
  case h_1 => rfl
  case h_2 k hk => rw [← hk, if_pos hb]

section
variable {k : Kernel} (hk : s.kernelAt ctx (lrEobj r) (lrEoff r) = some k) (hb : launchBad (some k) r = false)
include hk hb

theorem checkLaunch_args {e : Cause} (ha : s.readArgs ctx (lrArg r) (lrHmask r) k = .error (.cause e)) :
    s.checkLaunch ctx pd r = s.launchReply ctx 2 e.code.toNat 0 := by
  simp only [State.checkLaunch, hk, hb, ha, Bool.false_eq_true, if_false]

variable {a : Args} (ha : s.readArgs ctx (lrArg r) (lrHmask r) k = .ok a)
include ha

theorem checkLaunch_too_big (hn : s.holdsInstance pd (k.need ((List.range 8).map (lrNwarp r))) (lrCn r) = false) :
    s.checkLaunch ctx pd r = s.launchReply ctx 3 0 0 := by
  simp only [State.checkLaunch, hk, hb, ha, hn, Bool.false_eq_true, if_false, Bool.not_false, if_true]

theorem checkLaunch_accepted {ms : List (Nat × Nat)} {s1 : State}
    (hn : s.holdsInstance pd (k.need ((List.range 8).map (lrNwarp r))) (lrCn r) = true) (hco : k.cohab = false)
    (hfix : k.badFix (lrInsts r * lrCn r) = none) (hms : s.droveMembers ctx r = (.ok (some ms), s1)) :
    s.checkLaunch ctx pd r = s1.acceptLaunch ctx pd k r a ms := by
  simp only [State.checkLaunch, hk, hb, ha, hn, hms, hfix, State.noCohabit, hco, Bool.false_and, Bool.and_false, Bool.not_true,
    Bool.false_eq_true, if_false]

end

theorem droveMembers_t : (s.droveMembers ctx r).2.t = s.t := by
  unfold State.droveMembers
  split
  · rfl
  · split
    · rfl
    · rfl
    · dsimp only
      split
      · split
        · split
          · exact s.drawWord_t
          · exact s.drawWord_t
        · rfl
      · rfl

/-- The record of a launched grid as it goes live. -/
def State.launchedGrid (s : State) (ctx id : Nat) (pd : Paddock) (r : BitVec 1024) (a : Args) (ms : List (Nat × Nat)) : Grid :=
  { s.newGrid ctx id (lrEobj r) (lrEoff r) pd a [] with
    gx := lrGx r, gy := lrGy r, gz := lrGz r, cx := lrCx r, cy := lrCy r, cz := lrCz r,
    nwarp := (List.range 8).map (lrNwarp r), hmask := lrHmask r, drove := ms }

theorem acceptLaunch_ok {k : Kernel} {a : Args} {ms : List (Nat × Nat)} {id : Nat} (hf : s.freeGrid ctx = some id)
    (hc : s.ctxOf ctx = some c) (hco : k.cohab = false) :
    s.acceptLaunch ctx pd k r a ms = (s.addGrid (s.launchedGrid ctx id pd r a ms)).launchReply ctx 0 0 id := by
  unfold State.acceptLaunch
  rw [hf, hc]
  exact if_neg (by simp [hco])

/-! ### The launch window -/

theorem launchByte_last {off : Nat} (hup : s.up = true) (hc : s.ctxOf ctx = some c) (hlo : 0x080 ≤ off) (hhi : off < 0x088) :
    s.launchByte ctx off = nthByte (c.lstat + c.lcause * 2 ^ 8 + c.lgrid * 2 ^ 16) (off - 0x080) := by
  simp only [State.launchByte, hup, hc, hlo, hhi, Bool.not_true, Bool.false_eq_true, if_false, and_self, if_true, Option.map_some,
    Option.getD_some]

theorem launchByte_live {n : Nat} (hup : s.up = true) (hn : n < 4096) :
    (s.launchByte ctx (0x100 + n / 8)).getLsbD (n % 8) = (s.gridOf ctx n).any (·.live) := by
  have hlo : ¬ (0x080 ≤ 0x100 + n / 8 ∧ 0x100 + n / 8 < 0x088) := by omega
  have hhi : 0x100 ≤ 0x100 + n / 8 ∧ 0x100 + n / 8 < 0x300 := by omega
  have hbits : ∀ b : Nat → Bool, ((List.range 8).map fun i => if b i then 2 ^ i else 0) = (List.range 8).map fun i => (b i).toNat * 2 ^ i :=
    fun b => List.map_congr_left fun i _ => by cases b i <;> simp
  rw [State.launchByte, if_neg (by simp [hup]), if_neg hlo, if_pos hhi, Nat.add_sub_cancel_left,
    hbits fun i => (s.gridOf ctx (8 * (n / 8) + i)).any (·.live), BitVec.getLsbD_ofNat, (testBit_sum_bits _ 8).2,
    decide_eq_true (Nat.mod_lt n (by decide)), Bool.true_and, Bool.true_and, Nat.div_add_mod]

end

/-- Settles O35: the answers to a launch, the sweep of a grid id, the launch window, and the start of the first ready task. -/
theorem launches : Obligations.Launches := by
  intro s ctx c pd hc hp
  refine ⟨fun link r hy hrun => ?_, fun grid hrun hsw hw => ?_, fun hrun => ?_, fun q x rest hrun hrd hl hpl hd => ?_⟩
  · have hup := up_of_running hrun
    have hgo : exec (.launch ⟨link, ctx⟩ r) s = .next (s.launch ctx r) :=
      congrArg _ ((onWindow_goes rfl hy).trans (by simp only [hup, if_true]))
    rw [hgo]
    refine ⟨fun hl hpl k hk => ⟨fun hb => ?_, fun j hj hb => ⟨fun e he => ?_, fun a ha hn => ?_⟩⟩, fun hh => ?_,
      fun k a ms s1 id hl hpl hk hb ha hn hco hfix hms hid => ?_⟩
    · rw [launch_live hc hp hl hpl, checkLaunch_bad (hk ▸ hb)]
      rfl
    · rw [launch_live hc hp hl hpl, checkLaunch_args (hk.trans hj) (hj ▸ hb) he]
      rfl
    · rw [launch_live hc hp hl hpl, checkLaunch_too_big (hk.trans hj) (hj ▸ hb) ha hn]
      rfl
    · rw [launch_held hc hp hh]
      refine ⟨_, _, rfl, ctxOf_modCtx (fun _ => rfl) (ctxOf_modCtx (fun _ => rfl) hc), rfl, rfl, rfl⟩
    · have hc1 : s1.ctxOf ctx = some c := by
        rw [State.ctxOf, show s1 = (s.droveMembers ctx r).2 by rw [hms], droveMembers_t]
        exact hc
      rw [launch_live hc hp hl hpl, checkLaunch_accepted hk hb ha hn hco hfix hms, acceptLaunch_ok hid hc1 hco]
      exact ⟨_, _, s1.launchedGrid ctx id pd r a ms, rfl, ctxOf_modCtx (fun _ => rfl) hc1, rfl, rfl,
        gridOf_addGrid (s := s1) (s1.launchedGrid ctx id pd r a ms), rfl, rfl, rfl, rfl, rfl, rfl, rfl⟩
  · have hup := up_of_running hrun
    have hgo : exec (.gridIdSweepDone ctx grid) s = .next (((s.modCtx ctx fun c =>
        { c with swept := c.swept.filter (· != grid), algOld := c.algOld.filter (·.grid != grid) }).modC fun x =>
          { x with sectors := x.sectors.filter fun y => !(y.ctx == ctx && y.grid == grid)
                   grids := x.grids.filter fun g => !(g.ctx == ctx && g.id == grid && !g.live) }).modCtx ctx
        fun c => { c with waitL := [] }) := by
      refine congrArg Host.Outcome.next ?_
      simp only [hc, hup, hsw, hw, Bool.not_true, Bool.or_self, Bool.false_eq_true, if_false, List.foldl_nil]
    have hd := ctxOf_modCtx (f := fun c => { c with swept := c.swept.filter (· != grid), algOld := c.algOld.filter (·.grid != grid) })
      (fun _ => rfl) hc
    refine ⟨_, _, hgo, ctxOf_modCtx (fun _ => rfl) hd, ?_, rfl, fun x hx => ?_⟩
    · simp
    · rintro ⟨rfl, rfl⟩
      have hkept := (List.mem_filter.1 hx).2
      simp at hkept
  · have hup := up_of_running hrun
    refine ⟨fun h1 h2 h3 => ?_, fun n hn => launchByte_live hup hn⟩
    have hbytes : ((List.range 8).map fun i => s.launchByte ctx (0x080 + i)) =
        (List.range 8).map fun i => nthByte (c.lstat + c.lcause * 2 ^ 8 + c.lgrid * 2 ^ 16) (0 + i) := by
      refine List.map_congr_left fun i hi => ?_
      have hi8 := List.mem_range.1 hi
      rw [launchByte_last hup hc (by omega) (by omega), Nat.add_sub_cancel_left, Nat.zero_add]
    rw [hbytes, leNat_nthBytes, Nat.pow_zero, Nat.div_one]
    exact Nat.mod_eq_of_lt (by omega)
  · have hup := up_of_running hrun
    refine congrArg Host.Outcome.next ?_
    simp only [hc, hp, hrd, hup, hl, hpl, hd, beq_self_eq_true, Bool.and_self, Bool.not_false, if_true]

end Sys2Proof.Machine

/-! PROOF. What messages and relays leave as they issue. -/

namespace Sys2Proof.Machine

section
variable {s : State} {h : Here} {g : Guard} {k : RCtx}

/-! ### Messages -/

theorem issueMsg_ok {recv : Bool} {r q : BitVec 128} {srcs : List Src} {v : Viewer} {p : Position}
    (hc : s.msgCheck k recv r q = none) (hv : s.viewer k.wk k.arm = some v) (hp : s.posOf k.pos.id = some p)
    (hf : (if recv then s.recvsFull (s.padOfCtx k.pos.ctx) else s.sendsFull (s.padOfCtx k.pos.ctx)) = false)
    (ht : p.tagsTake (msgTags recv q) = true) (hr : s.racesAt v p r (msgBytes r q) (if recv then .write else .read) = none) :
    s.issueMsg k recv r q srcs = (.out { frees := srcs },
      let s1 := (s.recordAll v p r (msgBytes r q) (if recv then .write else .read)).issueOp v k (msgTags recv q)
        (if recv then .recv r q else .send r q) 4 false
      if recv then s1.addRecv s.nextId 0 (s.msgKey k.pos.ctx recv q) (msgLen q)
      else (s1.addSend s.nextId 0 (s.msgKey k.pos.ctx recv q) (msgLen q)).2) := by
  simp only [State.issueMsg, hc, hv, hp, hf, ht, hr, Bool.not_true, Bool.or_self, Bool.false_eq_true, if_false]

/-- What a message that passes its checks leaves, for a lane. -/
def msgIssues (q : Src) (r x : RCtx → BitVec 128) (recv : Bool) (s : State) (k : RCtx) (out : LaneOut) (u : State) : Prop :=
  ∃ v p, s.viewer k.wk k.arm = some v ∧ s.posOf k.pos.id = some p ∧ s.msgCheck k recv (r k) (x k) = none ∧
    (if recv then s.recvsFull (s.padOfCtx k.pos.ctx) else s.sendsFull (s.padOfCtx k.pos.ctx)) = false ∧
    p.tagsTake (msgTags recv (x k)) = true ∧
    let kind : AccKind := if recv then .write else .read
    s.racesAt v p (r k) (msgBytes (r k) (x k)) kind = none ∧ out = { frees := srcRun q 4 } ∧
    let s1 := (s.recordAll v p (r k) (msgBytes (r k) (x k)) kind).issueOp v k (msgTags recv (x k))
      (if recv then .recv (r k) (x k) else .send (r k) (x k)) 4 false
    u = if recv then s1.addRecv s.nextId 0 (s.msgKey k.pos.ctx true (x k)) (msgLen (x k))
      else (s1.addSend s.nextId 0 (s.msgKey k.pos.ctx false (x k)) (msgLen (x k))).2

theorem issueMsg_issues {q : Src} {r x : RCtx → BitVec 128} {recv : Bool} {o : LaneOut} {u : State}
    (hP : msgIssues q r x recv s k o u) : s.issueMsg k recv (r k) (x k) (srcRun q 4) = (.out o, u) := by
  obtain ⟨v, p, hv, hp, hc, hf, ht, hr, rfl, rfl⟩ := hP
  rw [issueMsg_ok hc hv hp hf ht hr]
  cases recv <;> rfl

theorem turns_msg {hs : BitVec 4} {q : Src} {r x : RCtx → BitVec 128} {recv : Bool} {i : Instr} (hat : s.here h) (he : h.epochs)
    (hx : ∀ k ∈ h.lanes g, handleOf k hs = .ok (r k) ∧ rdQuad k 2 q = .ok (x k))
    (hi : exec i s = .next (s.runArms { g := g } (epochGuard (perLane
      (fun _ c => (handleOf c hs).bind fun r => (rdQuad c 2 q).map fun x => (r, x))
      (fun s c a => s.issueMsg c recv a.1 a.2 (srcRun q 4)))))) :
    s.Turns h g [] [] i (msgIssues q r x recv) := by
  refine turns_here hat (fun os t ht => (epochGuard_ok he).trans (perLane_turn (x := fun k => (r k, x k)) (fun k hk => ?_)
    (fun s k o u hP => issueMsg_issues hP) ht)) hi
  obtain ⟨hr, hq⟩ := hx k hk
  simp only [hr, hq, LaneStep.bind, LaneStep.map]

/-! ### What the issue of an operation leaves -/

theorem recordAll_unseen {β : Type} (view : State → β) (hview : ∀ (s : State) c, view { s with c := c } = view s) {v : Viewer} {p : Position}
    {r : BitVec 128} {bs : List (Option Nat)} {kind : AccKind} : view (s.recordAll v p r bs kind) = view s := by
  refine foldl_unseen view (fun s x => ?_) bs s
  split
  · unfold State.recordRace
    split
    · rfl
    · exact foldl_unseen (σ := State) view (fun s i => hview s _) _ _
  · rfl

theorem issueOp_unseen {β : Type} (view : State → β) (hview : ∀ (s : State) c, view { s with c := c } = view s)
    (hfree : ∀ (s : State) n, view { s with free := n } = view s) (hid : ∀ (s : State) n, view { s with nextId := n } = view s) {v : Viewer} {tags : List Nat} {kind : OpKind} {need : Nat} {mtx : Bool} :
    view (s.issueOp v k tags kind need mtx) = view s := by
  unfold State.issueOp
  dsimp only [State.fresh]
  refine Eq.trans (hview _ _) (Eq.trans (hview _ _) (Eq.trans (foldl_unseen (σ := State) view (fun s i => hview s _) tags _)
    (Eq.trans (hid _ _) ?_)))
  exact (MemBlind.of_c hview hfree).rel.performReds s _

/-! ### Relays -/

/-- What a relay that passes its checks leaves, for a lane. -/
def relayIssues (d : Dst) (x q : Src) (a : RCtx → RelayArgs) (s : State) (k : RCtx) (out : LaneOut) (u : State) : Prop :=
  ∃ v p eng, s.viewer k.wk k.arm = some v ∧ s.posOf k.pos.id = some p ∧ s.relayCheck k (a k) = none ∧
    s.floatBan k v (a k) = none ∧
    let bytes (h : BitVec 128) : List (Option Nat) := recBytes h 0 (rlSize (a k).q * rlCh (a k).q) (2 ^ recEs h)
    s.racesAt v p (a k).hin (bytes (a k).hin) .read = none ∧ s.racesAt v p (a k).hout (bytes (a k).hout) .write = none ∧
    p.tagsTake [rlTag (a k).q] = true ∧ s.joinable k (a k) = none ∧ s.pickEngine (s.padOfCtx k.pos.ctx) = some eng ∧
    let sq : Nat := (s.t.relaySeq[eng]?).getD 0
    let m : RelayMem :=
      { die := k.pos.core / 48, op := s.nextId, ctx := k.pos.ctx, pos := p.id, tag := rlTag (a k).q
        gen := ((p.tags[rlTag (a k).q]?).elim 0 (·.gen)) + 1, hin := (a k).hin, hout := (a k).hout, hgrp := (a k).hgrp }
    let r : Relay :=
      { eng := eng, seq := sq, pad := s.padOfCtx k.pos.ctx, rank := rlRank (a k).q, size := rlSize (a k).q
        ch := rlCh (a k).q, chan := rlChan (a k).q, dmask := rlDmask (a k).q, hp := (a k).hp, first := (a k).first
        mems := [m], prog := [], pc := 0, iter := 0, wait := .none, out := [], due := s.now + us (2 ^ 20) }
    out = { writes := [(d, ⟨BitVec.ofNat 32 (eng + 4 * sq), F.n32⟩)], frees := x :: srcRun q 4 } ∧
    u = (((s.recordAll v p (a k).hin (bytes (a k).hin) .read).recordAll v p (a k).hout (bytes (a k).hout) .write).issueOp v k
      [rlTag (a k).q] (.relay eng sq) 4 false).modT fun t =>
        { t with relaySeq := t.relaySeq.set eng ((sq + 1) % 2 ^ 30), relays := t.relays ++ [r] }

theorem issueRelay_issues {d : Dst} {x q : Src} {a : RCtx → RelayArgs} {o : LaneOut} {u : State}
    (hP : relayIssues d x q a s k o u) : s.issueRelay k d (a k) (x :: srcRun q 4) = (.out o, u) := by
  obtain ⟨v, p, eng, hv, hp, hc, hb, hin, hout, ht, hj, he, rfl, rfl⟩ := hP
  have hkept : ∀ {β : Type} (view : State → β), (∀ (s : State) c, view { s with c := c } = view s) →
      (∀ (s : State) n, view { s with free := n } = view s) → (∀ (s : State) n, view { s with nextId := n } = view s) → ∀ hr1 hr2 bs1 bs2 tags kind,
      view (((s.recordAll v p hr1 bs1 .read).recordAll v p hr2 bs2 .write).issueOp v k tags kind 4 false) = view s :=
    fun view hview hfree hid _ _ _ _ _ _ => (issueOp_unseen view hview hfree hid).trans ((recordAll_unseen view hview).trans
      (recordAll_unseen view hview))
  have hpad := hkept (·.padOfCtx k.pos.ctx) (fun _ _ => rfl) (fun _ _ => rfl) (fun _ _ => rfl)
  have hnow := hkept (·.now) (fun _ _ => rfl) (fun _ _ => rfl) (fun _ _ => rfl)
  simp only [State.issueRelay, hv, hp, hc, hb, hin, hout, ht, hj, he, Bool.not_true, Bool.false_eq_true, if_false, ticketOf, hpad, hnow]

/-! ### Waiting for a relay -/

/-- What the wait for a relay that has ended leaves, for a lane. -/
def ticketEnds (pd : Option (BitVec 3)) (t : Src) (n : RCtx → Nat) (s : State) (k : RCtx) (out : LaneOut) (u : State) : Prop :=
  ∃ e, s.ticket k (n k) = .ended e ∧ (pd = none → e.cause = none) ∧
    out = { writes := pd.toList.map fun d => (⟨.p d, false⟩, ⟨if e.cause.isNone then 1 else 0, F.n32⟩), frees := [t] } ∧
    u = match (s.posOf e.pos).bind (·.tags[e.tag]?) with
      | some y => s.modWarp k.wk (·.acquire k.arm y.front)
      | none => s

theorem ticketEnd_ends {pd : Option (BitVec 3)} {t : Src} {n : Nat} {e : RelayEnd} (hpd : pd = none → e.cause = none) :
    s.ticketEnd k pd t n e =
      (.out { writes := pd.toList.map fun d => (⟨.p d, false⟩, ⟨if e.cause.isNone then 1 else 0, F.n32⟩), frees := [t] },
        match (s.posOf e.pos).bind (·.tags[e.tag]?) with
        | some y => s.modWarp k.wk (·.acquire k.arm y.front)
        | none => s) := by
  cases pd with
  | none =>
    simp only [State.ticketEnd, hpd rfl]
    rfl
  | some d =>
    unfold State.ticketEnd
    rfl

end

/-- Settles O36: what a message, a relay, and the wait for a relay leave, lane by lane. -/
theorem messagesAndRelaysIssue : Obligations.MessagesAndRelaysIssue := by
  refine ⟨fun s h g hs q r x hat he hx => ⟨turns_msg hat he hx rfl, turns_msg hat he hx rfl⟩,
    fun s h g hat he => ⟨fun d hp x q a hx _ => ?_, fun pd t n hn => ?_⟩⟩
  · refine turns_of hat (P := relayIssues d x q a) (fun os s0 t ht => (epochGuard_ok he).trans (perLane_turn (x := a) (fun k hk => ?_)
      (fun s k o u hP => issueRelay_issues hP) ht)) rfl
    obtain ⟨hw, hr⟩ := hx k hk
    simp only [hw, hr, LaneStep.bind]
  · refine turns_here hat (P := ticketEnds pd t n) (fun os u hu => (epochGuard_ok he).trans (perLane_turn (x := n) hn
      (fun s k o u hP => ?_) hu)) rfl
    obtain ⟨e, hend, hpd, rfl, rfl⟩ := hP
    simp only [hend, ticketEnd_ends hpd]

end Sys2Proof.Machine

/-! PROOF. What flits leave: streams, credits, acknowledgements and the replay buffer. -/

namespace Sys2Proof.Machine

section
variable {s : State} {port : Nat} {f : Flit}

/-! ### Streams -/

theorem streamOf_is (k : MsgKey) : (s.streamOf k).is k = true := by
  unfold State.streamOf
  cases hf : s.t.streams.find? (·.is k) with
  | none => simp [Stream.is]
  | some x => simpa using List.find?_some hf

theorem streamOf_put {k : MsgKey} {y : Stream} (hy : y.is k = true) :
    (s.modT fun t => { t with streams := put (·.is k) y t.streams }).streamOf k = y := by
  simp only [State.streamOf, State.modT_t, find?_put (p := fun x : Stream => x.is k) hy, Option.getD_some]

theorem takeNumber_send (k : MsgKey) : s.takeNumber k false = ({ k with num := (s.streamOf k).sends },
    s.modT fun t => { t with streams := put (·.is k) { s.streamOf k with sends := ((s.streamOf k).sends + 1) % 2 ^ 16 } t.streams }) := rfl

/-! ### Flits that a port discards, sends on, or takes -/

theorem meetFlit_discards {take : State → State} (ha : s.accepts port f = false) : s.meetFlit port f take = s.discardFlit port f := by
  simp only [State.meetFlit, ha, Bool.not_false, if_true]

theorem meetFlit_sends_on {take : State → State} {s1 : State} (ha : s.accepts port f = true) (hd : f.dnode ≠ s.node)
    (he : s.enterFlit f = some s1) : s.meetFlit port f take = s1.tookFlit port f := by
  simp only [State.meetFlit, ha, bne_iff_ne.2 hd, he, Bool.not_true, Bool.false_eq_true, if_false, if_true]

theorem meetFlit_takes {take : State → State} (ha : s.accepts port f = true) (hd : f.dnode = s.node) : s.meetFlit port f take = take s := by
  simp only [State.meetFlit, ha, hd, bne_self_eq_false, Bool.not_true, Bool.false_eq_true, if_false]

/-- The four events of a flit that arrives, by its kind. -/
def arrives (port : Nat) (f : Flit) (i : Instr) : Prop :=
  (f.kind = 0 ∧ i = .dataFlit port f) ∨ (f.kind = 1 ∧ i = .creditFlit port f) ∨
    (f.kind = 2 ∧ i = .acknowledgementFlit port f.group f.sq (.flit f)) ∨ (f.kind = 3 ∧ i = .relayDataFlit port f)

/-- What a data flit's taking does. -/
def State.takeData (s : State) (port : Nat) (f : Flit) (relay : Bool) : State :=
  match s.recvFor (flitKey f relay) with
  | none => s.tookFlit port f
  | some m =>
    match s.takePart m f.moff (f.payload.take f.len) with
    | (true, s1) => s1.tookFlit port f
    | (false, s1) => s1

/-- What a credit flit's taking does. -/
def State.takeCredit (s : State) (port : Nat) (f : Flit) : State :=
  if !flitBack f then (s.tookFlit port f).meetCredit (ctlKey f) (ctlLen f)
  else match (s.tookFlit port f).recvFor (ctlKey f) with
    | some m => if m.len != ctlLen f then (s.tookFlit port f).failRecv m .msgSize else s.tookFlit port f
    | none => s.tookFlit port f

/-- What an acknowledgement's taking does. -/
def State.takeAck (s : State) (port : Nat) (f : Flit) : State :=
  if ((s.tookFlit port f).sendFor (ctlKey f)).any (fun m => decide (m.len ≤ m.sent)) then (s.tookFlit port f).remoteDone (ctlKey f)
  else s.tookFlit port f

theorem exec_data {relay : Bool} (hk : f.kind = if relay then 3 else 0) :
    exec (if relay then .relayDataFlit port f else .dataFlit port f) s = .next (s.meetFlit port f fun s => s.takeData port f relay) := by
  cases relay with
  | false => exact congrArg Host.Outcome.next (if_pos (by simp [hk]))
  | true => exact congrArg Host.Outcome.next (if_pos (by simp [hk]))

theorem exec_credit (hk : f.kind = 1) : exec (.creditFlit port f) s = .next (s.meetFlit port f fun s => s.takeCredit port f) :=
  congrArg Host.Outcome.next (if_neg (by simp [hk]))

theorem exec_ack (hk : f.kind = 2) :
    exec (.acknowledgementFlit port f.group f.sq (.flit f)) s = .next (s.meetFlit port f fun s => s.takeAck port f) :=
  congrArg Host.Outcome.next (if_neg (by simp [hk]))

theorem exec_arrives {i : Instr} (hi : arrives port f i) : ∃ take, exec i s = .next (s.meetFlit port f take) := by
  obtain ⟨hk, rfl⟩ | ⟨hk, rfl⟩ | ⟨hk, rfl⟩ | ⟨hk, rfl⟩ := hi
  · exact ⟨_, exec_data (relay := false) (by simp [hk])⟩
  · exact ⟨_, exec_credit hk⟩
  · exact ⟨_, exec_ack hk⟩
  · exact ⟨_, exec_data (relay := true) (by simp [hk])⟩

theorem portOf_modPort {g : Port → Port} {p : Port} (hg : ∀ p, (g p).id = p.id) (hp : s.portOf port = some p) :
    (s.modPort port g).portOf port = some (g p) :=
  (find?_map_upd (p := fun p : Port => p.id == port) (f := g) (fun a ha => by rwa [hg]) s.t.ports).trans
    (by rw [show s.t.ports.find? (fun p => p.id == port) = some p from hp, Option.map_some])

/-- A whole flit that is discarded is asked for again when it comes after a gap. -/
theorem discardFlit_whole (hok : f.ok = true) : ∃ g, (∀ p, (g p).id = p.id) ∧ s.discardFlit port f = s.modPort port g ∧
    ∀ p next, (s.groupsOf f.pad p).contains f.group = true → p.rxseq[f.group]? = some next →
      g p = if (f.sq + 2 ^ 16 - next) % 2 ^ 16 < 2 ^ 15 then { p with asked := p.asked.set f.group true } else p := by
  refine ⟨fun p => _, fun p => ?_, by rw [State.discardFlit, if_pos hok], fun p next hg hn => ?_⟩
  · dsimp only
    split
    · split
      · rfl
      · rfl
    · rfl
  · simp only [hn, hg, hok, Bool.true_and]
    by_cases hlt : (f.sq + 2 ^ 16 - next) % 2 ^ 16 < 2 ^ 15
    · rw [if_pos hlt, if_pos (by simpa using hlt)]
    · rw [if_neg hlt, if_neg (by simpa using hlt)]

/-- A broken flit that is discarded is told to its paddock and asked for again. -/
theorem discardFlit_broken (hok : f.ok = false) : s.discardFlit port f =
    (s.tellPads ((s.padOf f.pad).map (·.id)).toList (15 + port) 5).modPort port fun p =>
      if (p.rxseq[f.group]?).isSome ∧ (s.groupsOf f.pad p).contains f.group = true then
        { p with asked := p.asked.set f.group true } else p := by
  rw [State.discardFlit, if_neg (by simp [hok])]
  congr 1
  funext p
  simp only [hok, Bool.false_and, Bool.not_false, Bool.and_true]
  cases p.rxseq[f.group]? with
  | none => simp
  | some next => simp

/-! ### Credits -/

theorem sendFor_modSend {k : MsgKey} {g : SendMsg → SendMsg} {m : SendMsg} (hg : ∀ m, (g m).key = m.key) (hm : s.sendFor k = some m) :
    (s.modSend k g).sendFor k = some (g m) :=
  (find?_map_upd (p := fun m : SendMsg => m.key == k) (f := g) (fun a ha => by rwa [hg]) s.t.sends).trans
    (by rw [show s.t.sends.find? (fun m => m.key == k) = some m from hm, Option.map_some])

theorem meetCredit_meets {k : MsgKey} {m : SendMsg} {len : Nat} (hm : s.sendFor k = some m) (hl : m.len = len) :
    s.meetCredit k len = s.modSend k fun m => { m with credit := true } := by
  simp only [State.meetCredit, hm, hl, beq_self_eq_true, if_true]

theorem meetCredit_other_length {k : MsgKey} {m : SendMsg} {len : Nat} (hm : s.sendFor k = some m) (hl : m.len ≠ len)
    (hd : k.dst ≠ s.node) : s.meetCredit k len = (s.failSend m .msgSize).sendCtl k 1 m.len true := by
  simp only [State.meetCredit, hm, beq_eq_false_iff_ne.2 hl, beq_eq_false_iff_ne.2 hd, Bool.false_eq_true, if_false]

theorem meetCredit_early {k : MsgKey} {len : Nat} (hm : s.sendFor k = none) :
    s.meetCredit k len = s.modT fun t => { t with credits := t.credits ++ [(k, len)] } := by
  simp only [State.meetCredit, hm]

/-! ### The replay buffer -/

theorem enterFlit_msgs {s1 : State} (he : s.enterFlit f = some s1) : s1.t.recvs = s.t.recvs ∧ s1.t.ctl = s.t.ctl := by
  unfold State.enterFlit at he
  split at he
  · cases he
  · cases he
    exact ⟨rfl, rfl⟩

theorem reroute_msgs : (s.reroute.t.recvs, s.reroute.t.ctl) = (s.t.recvs, s.t.ctl) := by
  refine foldl_unseen (σ := State) (fun s => (s.t.recvs, s.t.ctl)) (fun s p => ?_) _ s
  refine foldl_unseen (σ := State) (fun s => (s.t.recvs, s.t.ctl)) (fun s x => ?_) _ s
  dsimp only
  split
  · rfl
  · split
    next he =>
      obtain ⟨h1, h2⟩ := enterFlit_msgs he
      exact Prod.ext h1 h2
    next => split <;> rfl

theorem tellCredits_nothing (hr : s.t.recvs = []) (hc : s.t.ctl = []) : s.tellCredits = s := by
  simp only [State.tellCredits, State.pumpCtl, hr, hc, List.filter_nil, List.foldl_nil]

theorem pump_done {m : SendMsg} {s1 : State} (hm : s.t.sends.find? (·.id == m.id) = some m) (hc : m.credit = true)
    (hd : m.key.dst ≠ s.node) (hl : m.sent < m.len) (hs : s.pumpSend m.key (m.len / 224 + 1) = s1) {x : SendMsg}
    (hx : s1.sendFor m.key = some x) :
    exec (.messageLocalComplete m.id) s = .next (if x.len ≤ x.sent then s1.localDone x else s1) := by
  refine congrArg Host.Outcome.next ?_
  simp only [hm, hc, beq_eq_false_iff_ne.2 hd, Nat.not_le.2 hl, hs, hx, Bool.not_true, Bool.false_eq_true, if_false]

end

/-- Settles O37: flits that a port discards, sends on or takes; credits, acknowledgements and the replay buffer. -/
theorem messageFlits : Obligations.MessageFlits := by
  refine ⟨fun s k n t ht => ?_, fun s port f => ⟨fun i hi ha => ⟨fun hok => ?_, fun hok => ?_⟩, fun i s1 hi ha hd he => ?_,
    fun ha hd => ⟨fun m s1 relay hk hm hp => ?_, fun hk hb => ⟨fun m hm => ⟨fun hl => ?_, fun hl hn => ?_⟩, fun hm => ?_⟩, fun hk hb m hm => ?_,
      fun hk m hm => ?_⟩⟩,
    fun s => ⟨fun m hm hc hd hl s1 hs => ⟨fun x hx hle => ?_, fun x hx hlt => ?_⟩, fun port g sq => ⟨fun hr hc => ?_, rfl⟩⟩⟩
  · rw [takeNumber_send] at ht
    cases ht
    have hstream := streamOf_put (s := s) (k := k) (y := { s.streamOf k with sends := ((s.streamOf k).sends + 1) % 2 ^ 16 }) (streamOf_is k)
    exact ⟨rfl, rfl, by rw [hstream], by rw [hstream]⟩
  · obtain ⟨take, hex⟩ := exec_arrives (s := s) hi
    obtain ⟨g, hid, hg, hp⟩ := discardFlit_whole (s := s) (port := port) hok
    refine ⟨s.modPort port g, by rw [hex, meetFlit_discards ha, hg], rfl, rfl, rfl, fun p next hport hgr hn => ?_⟩
    rw [portOf_modPort hid hport, hp p next hgr hn]
  · obtain ⟨take, hex⟩ := exec_arrives (s := s) hi
    rw [hex, meetFlit_discards ha, discardFlit_broken hok]
  · obtain ⟨take, hex⟩ := exec_arrives (s := s) hi
    rw [hex, meetFlit_sends_on ha hd he]
    rfl
  · rw [exec_data hk, meetFlit_takes ha hd]
    simp only [State.takeData, hm, hp]
    rfl
  · refine ⟨_, by rw [exec_credit hk, meetFlit_takes ha hd], ?_⟩
    rw [State.takeCredit, if_pos (by simp [hb]), meetCredit_meets (s := s.tookFlit port f) hm hl]
    exact ⟨rfl, sendFor_modSend (s := s.tookFlit port f) (g := fun m => { m with credit := true }) (fun _ => rfl) hm⟩
  · have hdst : (ctlKey f).dst ≠ s.node := by simpa [ctlKey, hb] using hn
    rw [exec_credit hk, meetFlit_takes ha hd, State.takeCredit, if_pos (by simp [hb]),
      meetCredit_other_length (s := s.tookFlit port f) hm hl hdst]
    rfl
  · rw [exec_credit hk, meetFlit_takes ha hd, State.takeCredit, if_pos (by simp [hb]), meetCredit_early (s := s.tookFlit port f) hm]
    rfl
  · have hrecv : (s.tookFlit port f).recvFor (ctlKey f) = some m := hm
    rw [exec_credit hk, meetFlit_takes ha hd, State.takeCredit, if_neg (by simp [hb])]
    simp only [hrecv, bne_iff_ne, ne_eq, ite_not]
    rfl
  · have hsend : (s.tookFlit port f).sendFor (ctlKey f) = some m := hm
    rw [exec_ack hk, meetFlit_takes ha hd, State.takeAck, hsend]
    simp only [Option.any_some, decide_eq_true_eq]
    rfl
  · rw [pump_done hm hc hd hl hs hx, if_pos hle]
  · rw [pump_done hm hc hd hl hs hx, if_neg (by omega)]
  · refine congrArg Host.Outcome.next ?_
    have hkept := reroute_msgs (s := s.modPort port (·.acked g sq))
    exact tellCredits_nothing ((congrArg Prod.fst hkept).trans hr) ((congrArg Prod.snd hkept).trans hc)

end Sys2Proof.Machine

/-! PROOF. What each step of a relay program does. -/

namespace Sys2Proof.Machine

section
variable {s : State} {e : Nat} {r : Relay}

/-- A step of the relay at the head of an engine's queue that waits for nothing. -/
theorem onRelay_head {f : Relay → State} (hc : s.cur = .engine e) (hr : s.relayHead e = some r) (hw : r.wait = .none) (hp : r.prog ≠ []) :
    s.onRelay f = f r := by
  have hne : r.prog.isEmpty = false := by simpa using hp
  simp only [State.onRelay, hc, hr, hw, hne, beq_self_eq_true, Bool.not_false, Bool.and_self, if_true]

theorem lead_operation {m : RelayMem} {o : EngOp} {p : Position} (hm : r.lead = some m) (ho : s.opOf m.op = some o)
    (hp : s.posOf m.pos = some p) :
    (r.lead.bind fun m => (s.opOf m.op).bind fun o => (s.placeOf m.pos).map fun p => (m, o, p)) = some (m, o, p) := by
  rw [hm, Option.bind_some, ho, Option.bind_some, placeOf_of_posOf hp, Option.map_some]

end

/-- Settles O38: what each step of a relay program does to the relay whose turn it is. -/
theorem relaySteps : Obligations.RelaySteps := by
  refine ⟨fun s e r hc hr hw hp => ?_, fun s r hr hprog hj => ?_⟩
  · have hstep : ∀ f : Relay → State, s.onRelay f = f r := fun f => onRelay_head hc hr hw hp
    refine ⟨fun pa pb ca cb => ⟨fun hpeer => ?_, fun hpeer => ?_, fun hsrc => ⟨?_, fun op f ns => ?_⟩,
      fun hsrc => ⟨?_, fun op f => ?_, fun op f hpeer => ?_, fun op f hpeer => ?_⟩⟩, fun cnt tgt => ⟨fun hlt => ?_, fun hle => ?_⟩,
      fun hout => ?_, fun hout => ⟨?_, ?_⟩, fun ca cb hd => ?_, fun ca cb m o p data s3 hd hm ho hpos hin hdst hread => ?_,
      fun m o p hout hm ho hpos => ?_⟩
    · exact congrArg Host.Outcome.next ((hstep _).trans (if_pos (beq_iff_eq.2 hpeer)))
    · exact congrArg Host.Outcome.next ((hstep _).trans (if_neg (fun h => hpeer (beq_iff_eq.1 h))))
    · exact congrArg Host.Outcome.next ((hstep _).trans (if_pos (beq_iff_eq.2 hsrc)))
    · exact congrArg Host.Outcome.next ((hstep _).trans (if_pos (Bool.or_eq_true_iff.2 (.inl (beq_iff_eq.2 hsrc)))))
    · exact congrArg Host.Outcome.next ((hstep _).trans (if_neg (fun h => hsrc (beq_iff_eq.1 h))))
    · refine congrArg Host.Outcome.next ((hstep _).trans (if_neg fun h => ?_))
      exact hsrc (beq_iff_eq.1 ((Bool.or_false _).symm.trans h))
    · refine congrArg Host.Outcome.next ((hstep _).trans (if_neg fun h => ?_))
      obtain h | h := Bool.or_eq_true_iff.1 h
      · exact hsrc (beq_iff_eq.1 h)
      · exact hpeer (beq_iff_eq.1 (Bool.and_eq_true_iff.1 h).2)
    · refine congrArg Host.Outcome.next ((hstep _).trans (if_pos (Bool.or_eq_true_iff.2 (.inr ?_))))
      exact Bool.and_eq_true_iff.2 ⟨rfl, beq_iff_eq.2 hpeer⟩
    · exact congrArg Host.Outcome.next ((hstep _).trans (if_pos hlt))
    · exact congrArg Host.Outcome.next ((hstep _).trans (if_neg (by omega)))
    · exact congrArg Host.Outcome.next ((hstep _).trans (if_pos (by rw [hout]; rfl)))
    · exact congrArg Host.Outcome.next ((hstep _).trans (if_neg (by simpa using hout)))
    · exact congrArg Host.Outcome.next ((hstep _).trans (if_pos (by simpa using hout)))
    · exact congrArg Host.Outcome.next ((hstep _).trans (if_pos (by simpa using hd)))
    · refine congrArg Host.Outcome.next ((hstep _).trans ((if_neg (by simp [hd])).trans ?_))
      have hin' : s.meets o p m.hin (r.chunkBytes m.hin (recEs m.hout) (r.index ca cb)) false = .go s := hin
      have hdst' : s.meets o p m.hout (r.chunkBytes m.hout (recEs m.hout) (r.index ca cb)) true = .go s := hdst
      have hread' : s.engReads o p m.hin (r.chunkBytes m.hin (recEs m.hout) (r.index ca cb)) = (data, s3) := hread
      rw [lead_operation hm ho hpos]
      simp only [hin', hdst', hread', State.relayMet]
      rfl
    · have hlead : r.lead = some m := by rw [Relay.lead, hm]; rfl
      refine congrArg Host.Outcome.next ((hstep _).trans ((if_neg (by simp [hout])).trans ?_))
      rw [lead_operation hlead ho hpos]
      exact if_pos (by rw [hm]; exact Nat.le_refl 1)
  · refine congrArg Host.Outcome.next ?_
    simp only [hr, hprog, hj, List.isEmpty_nil, Bool.not_false, Bool.and_self, if_true]
    rfl

end Sys2Proof.Machine

/-! PROOF. Where two asks of one name and tag wait, a withdrawal takes the first. -/

namespace Sys2Proof.Machine

/-! ### Two waiting requesters of one name and tag -/

/-- The position has issued two asks of one name on one tag, and both wait. -/
def twoAsksState : State :=
  (Tests.sN.issueOp Tests.vN Tests.kN [2] (.ask Tests.recG Tests.name5r 0 8 8000) 4 false).issueOp Tests.vN Tests.kN [2]
    (.ask Tests.recG Tests.name5r 0 8 9000) 4 false

def twoAsksHere : Here := (Tests.stands twoAsksState).get (by decide +kernel)
def twoAsksLane : RCtx := (twoAsksHere.lanes Tests.g0).headD twoAsksHere.c

theorem here_twoAsks : twoAsksState.here twoAsksHere := Tests.here_of (by decide +kernel)

/-- The asks that stand, by their numbers. -/
def asksOf : Host.Outcome State Fault Refusal → List Nat
  | .next s => s.c.ops.map (·.id)
  | _ => []

/-- The first ask, and the second. -/
def askOne : EngOp := (twoAsksState.c.ops[0]?).get (by decide +kernel)
def askTwo : EngOp := (twoAsksState.c.ops[1]?).get (by decide +kernel)

/-- The asks that stand once the instruction has withdrawn one. -/
def asksLeft (o : EngOp) : List Nat :=
  asksOf (.next ((twoAsksState.endAsk o .nameWithdrawn).done twoAsksHere [] [(twoAsksLane.lane, { frees := srcRun (Tests.src 12) 4 ++ [Tests.src 24] })] []))

/-- Refutes O39: where two requesters of the position wait under the name and the tag, its clause on `wdrw` lets each lane withdraw
either of them, and the instruction withdraws the first alone. -/
theorem not_nameInstructions : ¬ Obligations.NameInstructions := by
  intro hall
  have hlanes : twoAsksHere.lanes Tests.g0 = [twoAsksLane] := by decide +kernel
  have hturns := (hall twoAsksState twoAsksHere Tests.g0 here_twoAsks).2.1 (by decide +kernel) (Tests.src 12) (Tests.src 24)
    (fun _ => Tests.name5) (fun _ => Tests.name5r) (fun _ => 2) (by decide +kernel)
  have hleft : ∀ o ∈ twoAsksState.c.ops, (o.pos = twoAsksLane.pos.id ∧ o.tags.contains 2 = true ∧ twoAsksState.askWaits o = true ∧
      twoAsksState.comes (twoAsksState.padOfCtx o.ctx) Tests.name5r = false ∧
      (twoAsksState.endAsk o .nameWithdrawn).overspent twoAsksLane.wk = false) → (∃ r first cap e, o.kind = .ask r Tests.name5r first cap e) →
      asksOf (exec (.wdrw Tests.g0 (Tests.src 12) (Tests.src 24)) twoAsksState) = asksLeft o := by
    rintro o ho ⟨hpos, htag, hwaits, hcomes, hspare⟩ hkind
    refine congrArg asksOf (hturns [(twoAsksLane.lane, { frees := srcRun (Tests.src 12) 4 ++ [Tests.src 24] })] _ ?_)
    rw [hlanes, acquires_nil]
    exact ⟨_, _, _, rfl, ⟨rfl, .inr ⟨o, ⟨ho, hpos, htag, hwaits, hcomes, hkind⟩, rfl⟩⟩, hspare, rfl, rfl⟩
  have hone := hleft askOne (by decide +kernel) (by decide +kernel) ⟨Tests.recG, 0, 8, 8000, by decide +kernel⟩
  have htwo := hleft askTwo (by decide +kernel) (by decide +kernel) ⟨Tests.recG, 0, 8, 9000, by decide +kernel⟩
  exact absurd (hone.symm.trans htwo) (by decide +kernel)

end Sys2Proof.Machine

/-! PROOF. What interests, returned tiles, announcements, deliveries and lifetimes leave. -/

namespace Sys2Proof.Machine

section
variable {s : State} {pad face : Nat} {n : BitVec 128} {tile : List Byte} {origin : Option Nat}

theorem nameBytes_length (r : BitVec 128) (first len : Nat) : (nameBytes r first len).length = len := by
  simp [nameBytes]

/-- An interest that finds no place is held. -/
theorem interest_held {expiry : Nat} (hn : s.nameHere pad n = true) (hu : s.dropFaces.request pad n ⟨none, face, expiry⟩ = none) :
    exec (.interestArrival pad face n expiry) s = .next (s.dropFaces.fresh.2.modT fun t =>
      { t with heldFaces := t.heldFaces ++ [⟨s.dropFaces.fresh.1, pad, n, face, expiry⟩] }) := by
  refine congrArg Host.Outcome.next ((if_pos hn).trans ?_)
  dsimp only
  rw [hu, Option.getD_none]

/-! ### Tiles that return -/

theorem exec_tileReturn (hn : s.nameHere pad n = true) (hf : face ≠ s.node) (h0 : 0 < tile.length) (hl : tile.length ≤ 262144) :
    exec (.tileReturn pad face n ⟨tile, origin⟩) s = .next (s.takeTile ⟨pad, face, n, tile, origin⟩) := by
  have hne : tile.isEmpty = false := by
    cases tile with
    | nil => exact absurd h0 (Nat.lt_irrefl 0)
    | cons b l => rfl
  refine congrArg Host.Outcome.next (if_pos ?_)
  simp only [hn, bne_iff_ne.2 hf, decide_eq_true hl, hne, Bool.not_false, Bool.and_self]

section
variable {h : HeldTile} {pd : Paddock} {key : Nat} (hp : s.padOf h.pad = some pd) (hk : pd.activeKey 0 = some key)
include hp hk

theorem not_unkeyed : ¬ ((s.padOf h.pad).all fun p => (p.activeKey 0).isNone) = true := by
  simp [hp, hk]

theorem takeTile_taken {u : State} (ha : s.announce h.pad h.name h.tile = some (true, u)) : s.takeTile h = u := by
  rw [State.takeTile, if_neg (not_unkeyed hp hk), ha]

theorem takeTile_conflict {u : State} (ha : s.announce h.pad h.name h.tile = some (false, u)) : s.takeTile h = u.returnConflict h := by
  rw [State.takeTile, if_neg (not_unkeyed hp hk), ha]

theorem takeTile_held (ha : s.announce h.pad h.name h.tile = none) :
    s.takeTile h = s.modT fun t => { t with heldTiles := t.heldTiles ++ [h] } := by
  rw [State.takeTile, if_neg (not_unkeyed hp hk), ha]

end

theorem returnConflict_told {h : HeldTile} {ctx : Nat} {c : Ctx} (ho : h.origin = some ctx) (hc : s.ctxOf ctx = some c) (hp : c.pad = h.pad)
    (hst : c.st ≠ .free) : s.returnConflict h = s.post ctx { src := 6, kind := 4, cause := Cause.nameConflict.code.toNat } := by
  simp only [State.returnConflict, ho, hc, hp, Option.any_some, beq_self_eq_true, bne_iff_ne.2 hst, Bool.and_self, if_true]

theorem returnConflict_sent {h : HeldTile} {v : State} (ho : h.origin = none) (hv : s.sendName h.pad h.face h.name 0 none true = some v) :
    s.returnConflict h = v := by
  simp only [State.returnConflict, ho, hv, Option.getD_some]

/-! ### Announcements and deliveries -/

section
variable {o : EngOp} {p : Position} {r : BitVec 128} {first len : Nat} (ho : s.opOf o.id = some o) (hk : o.kind = .annc r n first len)
  (hp : s.posOf o.pos = some p)
include ho hk hp

theorem decision_yields (hlater : s.laterAnnc o n = true) :
    exec (.announcementDecision o.id) s = .next { s with agenda := s.agenda ++ [.event (.announcementDecision o.id)] } := by
  refine congrArg Host.Outcome.next ?_
  simp only [ho, hk, placeOf_of_posOf hp, hlater, if_true, State.putOff]

theorem decision_made {data : List Byte} {pd : Paddock} {key : Nat} {s2 s3 : State} {fresh : Bool} (hlater : s.laterAnnc o n = false)
    (hpd : s.padOf (s.padOfCtx o.ctx) = some pd) (hkey : pd.activeKey 0 = some key)
    (hmeets : s.meets o p r (nameBytes r first len) false = .go s) (hread : s.engReads o p r (nameBytes r first len) = (data, s2))
    (ha : s2.announce (s.padOfCtx o.ctx) n data = some (fresh, s3)) :
    exec (.announcementDecision o.id) s = .next (if fresh then s3.finishOp o none else
      (s3.post o.ctx { src := 6, kind := 4, cause := Cause.nameConflict.code.toNat, party := s3.partyBits o.party }).finishOp o none) := by
  have hkeyed : ((s.padOf (s.padOfCtx o.ctx)).all fun p => (p.activeKey 0).isNone) = false := by simp [hpd, hkey]
  refine congrArg Host.Outcome.next ?_
  simp only [ho, hk, placeOf_of_posOf hp, hlater, hkeyed, hmeets, hread, ha, Bool.false_eq_true, if_false]
  cases fresh <;> rfl

end

theorem delivery_complete {o : EngOp} {p : Position} {r : BitVec 128} {first cap e : Nat} {d : Delivery} (ho : s.opOf o.id = some o)
    (hd : s.t.deliveries.find? (·.op == o.id) = some d) (hk : o.kind = .ask r n first cap e) (hp : s.posOf o.pos = some p)
    (hst : p.st ≠ .discarded) (hsound : ∀ f, s.foldOf d.pad d.name = some f → s.tileSound f = d.data.length)
    (hw : s.opWaits o = false) (hrev : s.foldRevoked d.pad d.name = false)
    (hmeets : s.engMeets p r (nameBytes r first d.data.length) true = .ok) :
    exec (.nameDeliveryComplete o.id) s = .next
      ((s.engWrites o.ctx o.pos r ((nameBytes r first d.data.length).zip d.data)).endDelivery o none) := by
  have hgood : ((s.foldOf d.pad d.name).map s.tileSound).getD d.data.length = d.data.length := by
    cases hf : s.foldOf d.pad d.name with
    | none => rfl
    | some f => rw [Option.map_some, Option.getD_some, hsound f hf]
  have hbs : (nameBytes r first d.data.length).take d.data.length = nameBytes r first d.data.length :=
    List.take_of_length_le (Nat.le_of_eq (nameBytes_length r first _))
  have hplace : (s.placeOf o.pos).filter (·.st != .discarded) = some p := by
    rw [placeOf_of_posOf hp]
    simp [hst]
  have hreach : s.reachBytes p r (nameBytes r first d.data.length) true = (nameBytes r first d.data.length, .ok) := by
    simp only [State.reachBytes, hmeets]
  refine congrArg Host.Outcome.next ?_
  simp only [ho, hd, hk, hgood, hbs, hplace, hreach, hw, hrev, Nat.lt_irrefl, Bool.false_eq_true, if_false, State.writeTile]

theorem expiry_ends {o : EngOp} {r : BitVec 128} {first cap e : Nat} (ho : s.opOf o.id = some o) (hk : o.kind = .ask r n first cap e)
    (hw : s.askWaits o = true) : exec (.askLifetimeExpiry o.id) s = .next (if s.comes (s.padOfCtx o.ctx) n then
      { s with agenda := s.agenda ++ [.event (.askLifetimeExpiry o.id)] }
      else ({ s with now := max s.now e } : State).endAsk o .nameNeverProduced) := by
  refine congrArg Host.Outcome.next ?_
  simp only [ho, hk, hw, Bool.not_true, Bool.false_eq_true, if_false, State.putOff, State.at]

end

/-- Settles O40: what becomes of interests, returned tiles, announcements, deliveries and lifetimes. -/
theorem nameEvents : Obligations.NameEvents := by
  refine ⟨fun s => ⟨fun pad face n expiry tile origin hn => ⟨?_, ?_⟩, fun pad face n expiry hn => ⟨fun u hu => ?_, fun hu => ?_⟩,
    fun pad face n tile origin pd key hn hf h0 hl hp hk => ⟨fun u hu => ?_, fun u hu => ⟨fun ctx c ho hc hcp hst => ?_, fun v ho hv => ?_⟩,
      fun hu => ?_⟩, fun o r n first len p ho hk hp hlater => decision_yields ho hk hp hlater,
    fun o p r n first len data pd key s2 s3 ho hk hp hlater hpd hkey hmeets hread => ⟨fun ha => ?_, fun ha => ?_⟩,
    fun o p r n first cap e d ho hd hk hp hst hsound hw hrev hmeets => delivery_complete ho hd hk hp hst hsound hw hrev hmeets,
    fun o r n first cap e ho hk hw => ⟨fun hc => ?_, fun hc => ?_⟩⟩, fun s pad n data f hf => ?_⟩
  · exact congrArg Host.Outcome.next (if_neg (by simp [hn]))
  · exact congrArg Host.Outcome.next (if_neg (by simp [hn]))
  · refine congrArg Host.Outcome.next ((if_pos hn).trans ?_)
    dsimp only
    rw [hu, Option.getD_some]
  · exact ⟨_, _, interest_held hn hu, rfl, rfl⟩
  · rw [exec_tileReturn hn hf h0 hl, takeTile_taken (h := ⟨pad, face, n, tile, origin⟩) hp hk hu]
  · rw [exec_tileReturn hn hf h0 hl, takeTile_conflict (h := ⟨pad, face, n, tile, origin⟩) hp hk hu, returnConflict_told ho hc hcp hst]
  · rw [exec_tileReturn hn hf h0 hl, takeTile_conflict (h := ⟨pad, face, n, tile, origin⟩) hp hk hu, returnConflict_sent ho hv]
  · refine ⟨_, exec_tileReturn hn hf h0 hl, ?_⟩
    rw [takeTile_held (h := ⟨pad, face, n, tile, origin⟩) hp hk hu]
    exact ⟨rfl, rfl, rfl⟩
  · exact decision_made ho hk hp hlater hpd hkey hmeets hread ha
  · exact decision_made ho hk hp hlater hpd hkey hmeets hread ha
  · rw [expiry_ends ho hk hw, if_neg (by simp [hc])]
  · rw [expiry_ends ho hk hw, if_pos hc]
  · simp only [State.announce, hf, tileDigest, beq_eq_decide]

end Sys2Proof.Machine

/-! PROOF. What the instructions on pens leave. -/

namespace Sys2Proof.Machine

section
variable {s : State} {h : Here} {g : Guard} {k : RCtx} {pd : Option (BitVec 3)} {t w : Src} {a : SlotArgs} {v : Viewer}

/-! ### pslot -/

theorem boolWrite_eq {b : Bool} {frees : List Src} : boolWrite pd b frees =
    .out { writes := pd.toList.map fun d => (⟨.p d, false⟩, ⟨if b then 1 else 0, F.n32⟩), frees := frees } := by
  cases pd <;> rfl

theorem meet_newer {x : PenSlot} {sq : Word} {ctx : Nat} {r : BitVec 512} (hn : seqNewer sq x.seq = true) :
    x.meet sq ctx r = if x.st == .free then .opens else .waits := if_pos hn

section
variable {pen : Nat} {q : Position} {r : BitVec 512} {srcs : List Src} (hpen : (s.pensOf (s.padOfCtx k.pos.ctx))[pnPen r]? = some pen)
  (hq : s.posOf k.pos.id = some q) (hn : seqNewer (pnSeq r) (s.penSlot pen (slotNo (pnSeq r))).seq = true)
include hpen hq hn

theorem slotLane_opens (hst : (s.penSlot pen (slotNo (pnSeq r))).st = .free) (ht : q.tagsTake [pnCtag r] = true)
    (hr : s.racesAt v k.pos a.hd (pnDest r a.hd) .write = none) :
    s.slotLane k v pd a r srcs = (boolWrite pd true srcs, s.openSlot k v a r (s.penSlot pen (slotNo (pnSeq r))) false) := by
  have hm : (s.penSlot pen (slotNo (pnSeq r))).meet (pnSeq r) k.pos.ctx r = .opens := by rw [meet_newer hn, hst]; rfl
  unfold State.slotLane
  rw [hpen, hq]
  dsimp only
  rw [hm]
  simp only [ht, hr, Bool.not_true, Bool.false_eq_true, if_false]
  rfl

theorem slotLane_full (hst : (s.penSlot pen (slotNo (pnSeq r))).st = .free) (ht : q.tagsTake [pnCtag r] = false) :
    s.slotLane k v pd a r srcs = (.park .backPressure, s) := by
  have hm : (s.penSlot pen (slotNo (pnSeq r))).meet (pnSeq r) k.pos.ctx r = .opens := by rw [meet_newer hn, hst]; rfl
  unfold State.slotLane
  rw [hpen, hq]
  dsimp only
  rw [hm]
  simp only [ht, Bool.not_false, if_true]

theorem slotLane_taken (hst : (s.penSlot pen (slotNo (pnSeq r))).st ≠ .free) (hp : pd.isSome = true) :
    s.slotLane k v pd a r srcs = (boolWrite pd false srcs, s) := by
  have hm : (s.penSlot pen (slotNo (pnSeq r))).meet (pnSeq r) k.pos.ctx r = .waits := by
    rw [meet_newer hn, if_neg (by simpa using hst)]
  unfold State.slotLane
  rw [hpen, hq]
  dsimp only
  rw [hm]
  simp only [hp, if_true]

end

/-- A lane whose record is read and checked meets its slot. -/
theorem issueSlot_checked {l : Loc} {srcs : List Src} (hv : s.viewer k.wk k.arm = some v)
    (hrec : s.checkRec k.pos.ctx a.r (recAddr a.r 0 0) false = none) (hpage : s.slotPage k a.r v = .ok l)
    (hrace : s.raceCheck v k.pos (slotReq a.r) .read (.ok l) = .ok l)
    (hcheck : s.slotCheck k a (s.peekRecord k a.r v) (pnTake (s.peekRecord k a.r v) a.tok a.ws) = none) :
    s.issueSlot k pd a srcs =
      slotWait pd srcs s ((s.loadAt v k.pos a.r l 64).2.slotLane k v pd a (pnTake (s.peekRecord k a.r v) a.tok a.ws) srcs) := by
  unfold State.issueSlot
  rw [hv]
  dsimp only
  rw [hrec]
  dsimp only
  rw [hpage]
  dsimp only
  rw [hcheck]
  dsimp only
  rw [hrace]

/-- What `pslot` leaves for a lane that has a result. -/
def slotIssues (pd : Option (BitVec 3)) (t w : Src) (a : RCtx → SlotArgs) (s : State) (k : RCtx) (out : LaneOut) (u : State) : Prop :=
  ∃ v l s1 pen q, s.viewer k.wk k.arm = some v ∧
    let req : AccReq := { handle := (a k).r, i := 0, o := 0, n := 64, align := 64, wr := false }
    s.checkRec k.pos.ctx (a k).r (recAddr (a k).r 0 0) false = none ∧ s.slotPage k (a k).r v = .ok l ∧
    s.raceCheck v k.pos req .read (.ok l) = .ok l ∧ (s.loadAt v k.pos (a k).r l 64).2 = s1 ∧
    let raw := s.peekRecord k (a k).r v
    let r := pnTake raw (a k).tok (a k).ws
    s.slotCheck k (a k) raw r = none ∧ (s1.pensOf (s1.padOfCtx k.pos.ctx))[pnPen r]? = some pen ∧
    s1.posOf k.pos.id = some q ∧
    let x := s1.penSlot pen ((pnSeq r).toNat % 16384)
    let wrote (b : Bool) : LaneOut :=
      { writes := pd.toList.map fun d => (⟨.p d, false⟩, ⟨if b then 1 else 0, F.n32⟩), frees := slotSrcs t w (a k) }
    seqNewer (pnSeq r) x.seq = true ∧
    ((x.st = .free ∧ q.tagsTake [pnCtag r] = true ∧ s1.racesAt v k.pos (a k).hd (pnDest r (a k).hd) .write = none ∧
        out = wrote true ∧ u = s1.openSlot k v (a k) r x false) ∨
      (x.st = .free ∧ q.tagsTake [pnCtag r] = false ∧ pd.isSome = true ∧ out = wrote false ∧ u = s) ∨
      (x.st ≠ .free ∧ pd.isSome = true ∧ out = wrote false ∧ u = s1))

theorem issueSlot_issues {a : RCtx → SlotArgs} {o : LaneOut} {u : State} (hP : slotIssues pd t w a s k o u) :
    s.issueSlot k pd (a k) (slotSrcs t w (a k)) = (.out o, u) := by
  obtain ⟨v, l, s1, pen, q, hv, hrec, hpage, hrace, rfl, hcheck, hpen, hq, hn, hend⟩ := hP
  rw [issueSlot_checked hv hrec hpage hrace hcheck]
  obtain ⟨hst, ht, hr, rfl, rfl⟩ | ⟨hst, ht, hp, rfl, rfl⟩ | ⟨hst, hp, rfl, rfl⟩ := hend
  · rw [slotLane_opens hpen hq hn hst ht hr, boolWrite_eq]
    rfl
  · rw [slotLane_full hpen hq hn hst ht]
    simp only [slotWait, hp, if_true, boolWrite_eq]
  · rw [slotLane_taken hpen hq hn hst hp, boolWrite_eq]
    rfl

theorem takesBatons_det (s : State) (wk : WKey) (arm : Nat) (ks : List RCtx) (l : List Spec) {p : Position} :
    (s.takesBatons wk arm ks l).det? p = s.det? p := by
  simp only [State.takesBatons]
  split
  · rfl
  · split
    · rfl
    · rfl

theorem exec_pslot {hs : BitVec 4} {a : RCtx → SlotArgs} (hat : s.here h) (he : h.epochs)
    (hdet : pd.isSome = true → s.det? h.c.pos = false)
    (ha : ∀ k ∈ h.lanes g, rdSlot (s.acquires h g [t.spec, w.spec]) k hs t w = .ok (a k)) {os : List (Nat × LaneOut)} {u : State}
    (hu : State.InTurn (slotIssues pd t w a) (s.acquires h g [t.spec, w.spec]) (h.lanes g) os u) :
    exec (.pslot g pd hs t w) s = .next (u.done h (pd.toList.map .p) os [t.spec, w.spec]) := by
  have hdet' : pd.isSome = true → (s.acquires h g [t.spec, w.spec]).det? h.c.pos = false := fun hp =>
    (takesBatons_det s _ _ _ _).trans (hdet hp)
  exact congrArg Host.Outcome.next (runArms_here hat rfl (by simp) ((detBan_ok hdet').trans ((epochGuard_ok he).trans
    (perLane_turn (x := a) ha (fun s k o u hP => issueSlot_issues hP) hu))))

/-! ### pwait and prel -/

theorem takeSlot_released {d : Dst} {q : Src} {x : PenSlot} (hc : x.cause = none) : s.takeSlot k d q x =
    (.out { writes := [(d, ⟨BitVec.ofNat 32 ((x.staged.map fun c => 2 ^ c.1).sum), F.n32⟩)], frees := [q] },
      (s.putPen x.freed).modWarp k.wk (·.acquire k.arm x.front)) := by
  simp only [State.takeSlot, hc]
  rfl

/-! ### ppost -/

theorem issuePost_ok {a : PostArgs} {srcs : List Src} {y : Position} (hc : s.postCheck k a = none) (hv : s.viewer k.wk k.arm = some v)
    (hy : s.posOf k.pos.id = some y) (ht : y.tagsTake [a.tag] = true)
    (hr : s.racesAt v y (a.r.getD 0) (if a.r.isSome then a.bytes (a.r.getD 0) else []) .read = none) :
    s.issuePost k a srcs = (.out { frees := srcs },
      (s.recordAll v y (a.r.getD 0) (if a.r.isSome then a.bytes (a.r.getD 0) else []) .read).issueOp v k [a.tag]
        (.post (s.postNode a.q) (ptPen a.q) (ptSeq a.q) (ptExpert a.q) (a.r.getD 0) a.first a.len a.regs) 4 false) := by
  simp only [State.issuePost, hc, hv, hy, ht, hr, Bool.not_true, Bool.false_eq_true, if_false]

end

/-- Settles O41: what `pslot`, `pwait`, `prel` and `ppost` leave, lane by lane. -/
theorem penInstructions : Obligations.PenInstructions := by
  refine ⟨fun s h g hat => ⟨fun he pd hs t w a hdet ha os u hu => exec_pslot hat he hdet ha hu,
    fun he n d q sq _ hr => ?_, fun n q sq hr => ?_⟩, fun s h g x q p a hat he hr => ?_⟩
  · refine turns_here hat (fun os t ht => (epochGuard_ok he).trans (perLane_turn (x := sq) (fun k hk => ?_) (fun s k o u hP => ?_) ht)) rfl
    · obtain ⟨hw, hsq⟩ := hr k hk
      simp only [hw, hsq, LaneStep.bind]
    · obtain ⟨x, hx, hst, hc, rfl, rfl⟩ := hP
      simp only [hx, hst, beq_self_eq_true, if_true, takeSlot_released hc]
      rfl
  · refine turns_here hat (fun os t ht => perLane_turn (x := sq) hr (fun s k o u hP => ?_) ht) rfl
    obtain ⟨x, hx, rfl, hend⟩ := hP
    obtain ⟨hst, hu, rfl⟩ | ⟨hst, rfl⟩ := hend
    · have hself : { x with st := .opened } = x := by rw [← hst]
      simp only [hx, hst, hu, Bool.false_eq_true, if_false, hself]
      rfl
    · simp only [hx, hst]
      rfl
  · cases x with
    | mem hs =>
      refine turns_of hat (fun os s0 t ht => (epochGuard_ok he).trans (perLane_turn (x := a) hr (fun s k o u hP => ?_) ht)) rfl
      obtain ⟨v, y, hv, hy, hc, htake, hraces, rfl, rfl⟩ := hP
      exact issuePost_ok hc hv hy htake hraces
    | reg b =>
      refine turns_of hat (fun os s0 t ht => (epochGuard_ok he).trans (perLane_turn (x := a) hr (fun s k o u hP => ?_) ht)) rfl
      obtain ⟨v, y, hv, hy, hc, htake, hraces, rfl, rfl⟩ := hP
      exact issuePost_ok hc hv hy htake hraces

end Sys2Proof.Machine

/-! PROOF. The life of a pen slot, and its weighted sum. -/

namespace Sys2Proof.Machine

section
variable {s : State} {x : PenSlot} {sq : Word} {expert len : Nat}

/-! ### What a slot makes of a post -/

theorem seqNewer_self (a : Word) : seqNewer a a = false := by simp [seqNewer]

theorem judge_late (hn : seqNewer sq x.seq = false) (hl : sq ≠ x.seq ∨ x.st ≠ .opened) : x.judge sq expert len = .late := by
  have hcond : (sq != x.seq || x.st != .opened) = true := by simpa using hl
  simp only [PenSlot.judge, hn, hcond, Bool.false_eq_true, if_false, if_true]

theorem judge_held (hn : seqNewer sq x.seq = true) : x.judge sq expert len = .held := if_pos hn

theorem not_early (hsq : sq = x.seq) : ¬ seqNewer sq x.seq = true := by rw [hsq, seqNewer_self]; decide

section
variable (hsq : sq = x.seq) (hst : x.st = .opened)
include hsq hst

theorem not_late : ¬ (sq != x.seq || x.st != .opened) = true := by simp [hsq, hst]

theorem judge_position {k : Nat} (hk : (pnExperts x.word).findIdx? (· == expert) = some k)
    (hl : len = pnLen x.word) : x.judge sq expert len = if x.staged.any (·.1 == k) then .dropped else .staged k := by
  rw [PenSlot.judge, if_neg (not_early hsq), if_neg (not_late hsq hst), hk]
  exact if_neg (by simp [hl])

theorem judge_bad (hb : (pnExperts x.word).findIdx? (· == expert) = none ∨ len ≠ pnLen x.word) : x.judge sq expert len = .bad := by
  rw [PenSlot.judge, if_neg (not_early hsq), if_neg (not_late hsq hst)]
  cases hk : (pnExperts x.word).findIdx? (· == expert) with
  | none => rfl
  | some k =>
    obtain hb | hb := hb
    · exact absurd (hk.symm.trans hb) nofun
    · exact if_pos (by simpa using hb)

end

end

section
variable {s : State} {pen no expert ctx : Nat} {sq : Word} {data : List Word} {op : Option Nat} {f : Frontier}

/-- A post staged at a position of its slot. -/
def State.stagePost (s : State) (pen : Nat) (sq : Word) (data : List Word) (key k : Nat) (f : Frontier) : State :=
  let x := s.penSlot pen (slotNo sq)
  let y := { x with staged := x.staged ++ [(k, data)], keys := x.keys ++ [key], front := frontJoin x.front f }
  (s.repairSpan (s.penAt pen x.idx k) (4 * data.length)).putPen (if y.full then { y with st := .releasing } else y)

theorem applyPost_late (hj : (s.penSlot pen (slotNo sq)).judge sq expert data.length = .late) :
    s.applyPost pen no sq expert data op ctx f = s.postLate op ctx pen no sq := by
  simp only [State.applyPost, hj]

theorem applyPost_bad (hj : (s.penSlot pen (slotNo sq)).judge sq expert data.length = .bad) :
    s.applyPost pen no sq expert data op ctx f = s.postDone op (some .penPostBad) := by
  simp only [State.applyPost, hj]

theorem applyPost_position {k key : Nat} (hkey : (s.penPad pen).bind (·.activeKey 0) = some key)
    (hj : (s.penSlot pen (slotNo sq)).judge sq expert data.length =
      if (s.penSlot pen (slotNo sq)).staged.any (·.1 == k) then .dropped else .staged k) :
    s.applyPost pen no sq expert data op ctx f =
      if (s.penSlot pen (slotNo sq)).staged.any (·.1 == k) then s.postDone op none else (s.stagePost pen sq data key k f).postDone op none := by
  unfold State.applyPost
  dsimp only
  rw [hj]
  cases (s.penSlot pen (slotNo sq)).staged.any (·.1 == k) with
  | true => rfl
  | false =>
    rw [if_neg Bool.false_ne_true, if_neg Bool.false_ne_true]
    dsimp only
    rw [hkey]
    rfl

theorem applyPost_held (hj : (s.penSlot pen (slotNo sq)).judge sq expert data.length = .held)
    (hroom : (s.t.heldPosts.filter (·.pen == pen)).length < 4096) :
    s.applyPost pen no sq expert data op ctx f = s.modT fun t => { t with heldPosts := t.heldPosts ++
      [⟨pen, sq, expert, data, op, ctx, f, (s.postSrc op).1, (s.postSrc op).2.1, (s.postSrc op).2.2⟩] } := by
  simp only [State.applyPost, hj, Nat.not_le.2 hroom, if_false]

theorem postDone_op {o : EngOp} {c : Option Cause} (ho : s.opOf o.id = some o) : s.postDone (some o.id) c = s.finishOp o c := by
  simp only [State.postDone, Option.bind_some, ho]

theorem postSrc_op {o : EngOp} (ho : s.opOf o.id = some o) : s.postSrc (some o.id) = (clusterSrc o.core, o.core, o.lane) := by
  simp only [State.postSrc, Option.bind_some, ho]

theorem penlate_step (w : Word) : (if w = 0xFFFFFFFF then w else w + 1) = BitVec.ofNat 32 (min (w.toNat + 1) (2 ^ 32 - 1)) := by
  have hlt := w.isLt
  split
  next h => subst h; rfl
  next h =>
    have hne : w.toNat ≠ 2 ^ 32 - 1 := fun h' => h (BitVec.eq_of_toNat_eq (h'.trans rfl))
    apply BitVec.eq_of_toNat_eq
    rw [BitVec.toNat_add, BitVec.toNat_ofNat, Nat.min_eq_left (by omega)]
    rfl

theorem postLate_told {i : Nat} : s.postLate (some i) ctx pen no sq =
    ((s.modCtx ctx fun c => { c with penlate := BitVec.ofNat 32 (min (c.penlate.toNat + 1) (2 ^ 32 - 1)) }).post ctx
      { src := 7 + pen, kind := 5, object := no, offset := sq.toNat }).postDone (some i) none := by
  simp only [State.postLate, penlate_step]

theorem exec_far {pad : Nat} (hpen : (s.pensOf pad)[no]? = some pen) :
    exec (.penPostArrival (.far pad no sq expert data)) s = .next (s.applyPost pen no sq expert data none 0 []) := by
  refine congrArg Host.Outcome.next ?_
  simp only [hpen]

theorem exec_post {o : EngOp} {hs : BitVec 128} {first len : Nat} (hpen : (s.pensOf (s.padOfCtx o.ctx))[no]? = some pen)
    (ho : s.opOf o.id = some o) (hk : o.kind = .post none no sq expert hs first len (some data))
    (hh : s.t.heldPosts.any (·.op == some o.id) = false) :
    exec (.penPostArrival (.op o.id)) s = .next (s.applyPost pen no sq expert data (some o.id) o.ctx o.front) := by
  refine congrArg Host.Outcome.next ?_
  simp only [ho, hh, Bool.false_eq_true, if_false, hk, State.postData, hpen]

end

/-! ### The release of a slot -/

theorem not_waiting {s : State} {x : PenSlot} (hst : x.st = .releasing) (hnn : s.notNext x = false) :
    ¬ (x.st != .releasing || s.notNext x) = true := by simp [hst, hnn]

theorem not_timed_out {x : PenSlot} (hdt : x.det = false ∨ x.timed = false) : ¬ (x.det && x.timed) = true := by
  obtain h | h := hdt <;> simp [h]

section
variable {s : State} {pen i : Nat} {x : PenSlot} (hx : s.penSlot pen i = x) (hst : x.st = .releasing) (hnn : s.notNext x = false)
include hx hst hnn

theorem release_timed_out (hd : x.det = true) (ht : x.timed = true) :
    exec (.penRelease pen i) s = .next (s.putPen { x with st := .formed, cause := some .penTimeout }) := by
  have hcond : (x.det && x.timed) = true := by rw [hd, ht]; rfl
  subst hx
  exact congrArg Host.Outcome.next ((if_neg (not_waiting hst hnn)).trans (if_pos hcond))

variable (hdt : x.det = false ∨ x.timed = false)
include hdt

theorem release_revoked (hr : s.penRevoked x = true) :
    exec (.penRelease pen i) s = .next (s.putPen { x with st := .formed, cause := some .keyRevoked }) := by
  have hgo := not_timed_out hdt
  subst hx
  exact congrArg Host.Outcome.next ((if_neg (not_waiting hst hnn)).trans ((if_neg hgo).trans (if_pos hr)))

theorem release_spoilt (hr : s.penRevoked x = false) (hsp : s.penSpoilt x = true) :
    exec (.penRelease pen i) s = .next (s.putPen { x with st := .formed, cause := some .ueRead }) := by
  have hgo := not_timed_out hdt
  subst hx
  exact congrArg Host.Outcome.next ((if_neg (not_waiting hst hnn)).trans ((if_neg hgo).trans ((if_neg (by simp [hr])).trans
    (if_pos hsp))))

theorem release_formed {bs : List (Option Nat)} (hr : s.penRevoked x = false) (hsp : s.penSpoilt x = false)
    (hreach : s.releaseReach x (pnDest x.word x.hd) = (bs, .ok)) :
    exec (.penRelease pen i) s = .next (s.formSum x bs none) := by
  have hgo := not_timed_out hdt
  subst hx
  refine congrArg Host.Outcome.next ((if_neg (not_waiting hst hnn)).trans ((if_neg hgo).trans ((if_neg (by simp [hr])).trans
    ((if_neg (by simp [hsp])).trans ?_))))
  rw [hreach]

end

/-! ### The weighted sum -/

theorem foldFirst_eq (f : Word → Word → Word) (l : List Word) : foldFirst f l = l.tail.foldl f (l.headD 0) := by
  cases l <;> rfl

/-- A slot's positions in ascending expert order are the one list of them that rises in it. -/
theorem order_unique {x : PenSlot} {ks : List Nat} (hks : ∀ k, k ∈ ks ↔ k < pnNe x.word)
    (hup : ks.Pairwise fun a b => pnExpert x.word a < pnExpert x.word b) : x.order = ks := by
  have hnodup : ks.Nodup := hup.imp fun h => by rintro rfl; exact Nat.lt_irrefl _ h
  have hinj : ∀ a ∈ ks, ∀ b ∈ ks, pnExpert x.word a = pnExpert x.word b → a = b :=
    fun a ha b hb => List.inj_on_of_nodup_map (List.pairwise_map.2 (hup.imp Nat.ne_of_lt)) ha hb
  have hperm : (List.range (pnNe x.word)).Perm ks :=
    (List.perm_ext_iff_of_nodup List.nodup_range hnodup).2 fun k => by rw [List.mem_range, hks]
  have hmem : ∀ a ∈ x.order, a ∈ ks := fun a ha => hperm.subset ((sortBy_perm _).subset ha)
  refine List.Perm.eq_of_pairwise (le := fun a b => pnExpert x.word a ≤ pnExpert x.word b) (fun a b ha hb hab hba => ?_) ?_ ?_
    ((sortBy_perm _).trans hperm)
  · exact hinj a (hmem a ha) b hb (Nat.le_antisymm hab hba)
  · refine (pairwise_sortBy (fun a b c hab hbc => ?_) (fun a b => ?_) _).imp of_decide_eq_true
    · exact decide_eq_true (Nat.le_trans (of_decide_eq_true hab) (of_decide_eq_true hbc))
    · exact (Nat.le_total (pnExpert x.word a) (pnExpert x.word b)).imp decide_eq_true decide_eq_true
  · exact hup.imp Nat.le_of_lt

/-- Settles O42: what a post, a time-out and a release make of a slot, and the weighted sum. -/
theorem penEvents : Obligations.PenEvents := by
  refine ⟨fun s pad no expert pen key sq data hpen hkey => ⟨⟨fun hl => ?_, fun k hm => ?_, fun hn hroom => ?_⟩,
    fun o hs first len ho hpad hk hh => ?_⟩, fun s pen i => ⟨fun hst => ?_, fun hst hnn => ?_, fun hst hnn hd ht => ?_,
    fun hst hnn hdt => ⟨fun hr => ?_, fun hr hsp => ?_, fun bs hr hsp hreach => ?_⟩, fun hst hnn => ?_⟩, fun x e ks hks hup => ?_⟩
  · rw [exec_far hpen, applyPost_late (judge_late hl.1 hl.2)]
    rfl
  · obtain ⟨hsq, hst, hk, hlen⟩ := hm
    rw [exec_far hpen, applyPost_position hkey (judge_position hsq hst hk hlen)]
    rfl
  · rw [exec_far hpen, applyPost_held (judge_held hn) hroom]
    rfl
  · subst hpad
    have hex := exec_post hpen ho hk hh
    refine ⟨fun hl => ?_, fun k hm => ?_, fun hsq hst hb => ?_, fun hn hroom => ?_⟩
    · rw [hex, applyPost_late (judge_late hl.1 hl.2), postLate_told]
    · obtain ⟨hsq, hst, hk', hlen⟩ := hm
      rw [hex, applyPost_position hkey (judge_position hsq hst hk' hlen), postDone_op ho]
      rfl
    · rw [hex, applyPost_bad (judge_bad hsq hst hb), postDone_op ho]
    · rw [hex, applyPost_held (judge_held hn) hroom, postSrc_op ho]
  · exact congrArg Host.Outcome.next (if_pos (beq_iff_eq.2 hst))
  · exact congrArg Host.Outcome.next (if_pos (Bool.or_eq_true_iff.2 (.inr hnn)))
  · exact release_timed_out rfl hst hnn hd ht
  · exact release_revoked rfl hst hnn hdt hr
  · exact release_spoilt rfl hst hnn hdt hr hsp
  · exact release_formed rfl hst hnn hdt hr hsp hreach
  · exact congrArg Host.Outcome.next (if_pos (by simp [hst, hnn]))
  · have horder := order_unique hks hup
    have hweight : ∀ k, x.weight k = if pnRen x.word = true ∧ x.full = false ∧
        f32Counts (foldFirst f32Add ((ks.filter x.has).map (pnWeight x.word))) = true then
        (if x.has k then f32Div (pnWeight x.word k) (foldFirst f32Add ((ks.filter x.has).map (pnWeight x.word))) else 0)
        else pnWeight x.word k := fun k => by
      rw [PenSlot.weight, horder]
      refine if_congr ?_ rfl rfl
      simp only [Bool.and_eq_true, Bool.not_eq_true']
      tauto
    rw [PenSlot.elem, horder, foldFirst_eq]
    simp only [hweight, foldFirst_eq]
    rfl

end Sys2Proof.Machine

/-! PROOF. How a host command is served. -/

namespace Sys2Proof.Machine

section
variable {s : State} {i : Instr} {link : Bool}

/-- A command reaches the configuration window, and what serves it is its own. -/
theorem exec_command (hl : cmdLink i = some link)
    (hop : ∀ l bar off d, i = .windowWriteOther ⟨l, bar⟩ ⟨off, d⟩ → knownOp (d.extractLsb' 0 8).toNat = false) :
    exec i s = .next (s.command link i (serveCmd i)) := by
  unfold cmdLink at hl
  split at hl
  case h_33 b w =>
    split at hl
    case isTrue hat =>
      cases hl
      exact congrArg Host.Outcome.next (if_pos (by rw [hat, hop b.link b.bar w.off w.data rfl]; rfl))
    case isFalse => cases hl
  case h_34 => cases hl
  all_goals
    cases hl
    rfl

theorem checked_bad {h : CmdHead} {serve : State → Served} (hb : s.m.boot = .running) (hr : h.rsv ≠ 0) :
    checked h serve s = (s, .badCommand) :=
  (if_neg (by simp [hb])).trans (if_pos (by simpa using hr))

/-- In recovery every command but a load is denied. -/
theorem serveCmd_recovery (hb : s.m.boot = .recovery) (hl : cmdLink i = some link) (hload : ∀ h img, i ≠ .loadContainer h img) :
    serveCmd i s = (s, .denied) := by
  have hpos : (s.m.boot == .recovery) = true := beq_iff_eq.2 hb
  unfold cmdLink at hl
  split at hl
  case h_6 h img => exact absurd rfl (hload h img)
  case h_33 => exact congrArg (Prod.mk s) (if_pos hpos)
  case h_34 => cases hl
  all_goals exact if_pos hpos

section
variable {serve : State → Served}

theorem command_dark (hb : s.m.boot = .booting ∨ s.m.boot = .held) : s.command link i serve = s :=
  if_pos (by simpa using hb)

variable (hb : s.m.boot = .running ∨ s.m.boot = .recovery)
include hb

theorem answers : ¬ (s.m.boot == .booting || s.m.boot == .held) = true := by
  obtain hb | hb := hb <;> simp [hb]

theorem command_yields (hy : s.linkYields link (.config link) = true) :
    s.command link i serve = { s with agenda := s.agenda ++ [.event i] } :=
  (if_neg (answers hb)).trans (if_pos hy)

variable (hy : s.linkYields link (.config link) = false)
include hy

theorem command_busy (hl : s.linkBusy link = true) :
    s.command link i serve = s.modLink link fun l => { l with status := 1, cause := 0, result := 0 } :=
  (if_neg (answers hb)).trans ((if_neg (by simp [hy])).trans (if_pos hl))

theorem command_queued (hl : s.linkBusy link = false) (ho : s.linkBusy (!link) = true) :
    s.command link i serve = s.modM fun m => { m with cmdq := m.cmdq ++ [i] } :=
  (if_neg (answers hb)).trans ((if_neg (by simp [hy])).trans ((if_neg (by simp [hl])).trans (if_pos ho)))

theorem command_served (hl : s.linkBusy link = false) (ho : s.linkBusy (!link) = false) :
    s.command link i serve = s.serveOn link serve :=
  (if_neg (answers hb)).trans ((if_neg (by simp [hy])).trans ((if_neg (by simp [hl])).trans (if_neg (by simp [ho]))))

end

theorem exec_complete {st c r : Nat} (hb : (s.linkAt link).busy = some (st, c, r)) (hst : st ≠ 1) :
    exec (.commandComplete link) s = .next (s.modLink link fun l =>
      { status := st, cause := c, result := r % 2 ^ 48, done := (l.done + 1) % 2 ^ 32, busy := none }).nextCommand := by
  refine congrArg Host.Outcome.next ?_
  rw [hb]
  exact if_neg hst

theorem nextCommand_none (hq : s.m.cmdq = []) : s.nextCommand = s := by
  simp only [State.nextCommand, hq]

theorem nextCommand_serves {rest : List Instr} (hq : s.m.cmdq = i :: rest) (hl : cmdLink i = some link) :
    s.nextCommand = (s.modM fun m => { m with cmdq := rest }).serveOn link (serveCmd i) := by
  simp only [State.nextCommand, hq, hl]

end

/-- Settles O43: how a command is taken, served and replied to. -/
theorem hostCommandsServed : Obligations.HostCommandsServed := by
  refine ⟨fun s i link hl hop => ?_, fun s h serve hb hr => checked_bad hb hr, fun s link st c r hb hst => ?_⟩
  · rw [exec_command hl hop]
    refine ⟨fun hb => congrArg _ (command_dark hb), fun hb => ⟨fun hy => congrArg _ (command_yields hb hy), fun hy => ⟨fun hbusy => ?_,
      fun hfree hother => ?_, fun hfree hother => ⟨?_, fun hrec hload => ?_⟩⟩⟩⟩
    · exact congrArg _ (command_busy hb hy hbusy)
    · exact congrArg _ (command_queued hb hy hfree hother)
    · exact congrArg _ (command_served hb hy hfree hother)
    · rw [command_served hb hy hfree hother, State.serveOn, serveCmd_recovery hrec hl hload]
      rfl
  · rw [exec_complete hb hst]
    exact ⟨fun hq => congrArg _ (nextCommand_none hq), fun i rest l hq hl => congrArg _ (nextCommand_serves hq hl)⟩

end Sys2Proof.Machine

/-! PROOF. The commands on contexts, containers, registers, positions and faults. -/

namespace Sys2Proof.Machine

section
variable {s u : State} {h : CmdHead} {link : Bool} {r : Reply}

/-! ### A command that is served -/

theorem serves_of {i : Instr} {serve : State → Served} (hs : s.takes link) (hi : exec i s = .next (s.command link i serve))
    (hv : serve s = (u, r)) : s.Serves link i u r := by
  obtain ⟨hb, hy, hl, ho, -⟩ := hs
  rw [State.Serves, hi, command_served (.inl hb) hy hl ho, State.serveOn, hv]

theorem checked_ok {serve : State → Served} (hs : s.takes link) (hr : h.rsv = 0) : checked h serve s = serve s :=
  (if_neg (by simp [hs.1])).trans (if_neg (by simp [hr]))

theorem onContext_ok {serve : Ctx → Served} {c : Ctx} (hc : s.ctxOf h.ctx.toNat = some c) (hst : c.st ≠ .free) :
    onContext h serve s = serve c := by
  simp only [onContext, hc, beq_eq_false_iff_ne.2 hst, Bool.false_eq_true, if_false]

theorem linkAt_modLink {f : Link → Link} (hl : s.m.links.length = 2) : (s.modLink link f).linkAt link = f (s.linkAt link) := by
  have hlt : linkNo link < s.m.links.length := by
    rw [hl]
    cases link <;> decide
  simp only [State.linkAt, State.modLink, State.modM_m, List.getD_eq_getElem?_getD, List.getElem?_mapIdx, List.getElem?_eq_getElem hlt,
    Option.map_some, if_true, Option.getD_some]

/-- The reply of a command that is served waits on its link. -/
theorem reply_waits (hl : s.m.links.length = 2) : ((s.modLink link fun l => { l with busy := some (r.status, r.cause, r.result) }).linkAt
    link).busy = some (r.status, r.cause, r.result) := by
  rw [linkAt_modLink hl]

theorem ctxOf_id {n : Nat} {c : Ctx} (hc : s.ctxOf n = some c) : c.id = n := by
  simpa using List.find?_some (p := fun c : Ctx => c.id == n) hc

theorem ctxOf_own {n : Nat} {c : Ctx} (hc : s.ctxOf n = some c) : s.ctxOf c.id = some c := by
  rw [ctxOf_id hc, hc]

/-! ### Positions that stop -/

theorem positions_foldl_stopping (f : Position → Position) (hf : ∀ p, (f p).id = p.id) (hff : ∀ p, f (f p) = f p) :
    ∀ (ids : List Nat) (s : State), (ids.foldl (fun s i => s.modPos i f) s).c.positions =
      s.c.positions.map fun p => if ids.contains p.id then f p else p := by
  intro ids
  induction ids with
  | nil => intro s; simp
  | cons i ids ih =>
    intro s
    rw [List.foldl_cons, ih]
    show (upd (·.id == i) f s.c.positions).map _ = _
    rw [upd, List.map_map]
    refine List.map_congr_left fun p _ => ?_
    simp only [Function.comp]
    by_cases hi : p.id = i
    · simp only [hi, beq_self_eq_true, if_true, hf, List.contains_cons, Bool.true_or]
      split
      · exact hff p
      · rfl
    · simp only [beq_eq_false_iff_ne.2 hi, Bool.false_eq_true, if_false, List.contains_cons, Bool.false_or]

/-- A save that begins leaves none of the context's positions resident. -/
theorem beginSave_positions {ctx : Nat} : ∀ p ∈ (s.beginSave ctx).c.positions, p.ctx = ctx → p.st ≠ .resident := by
  have hpos : (s.beginSave ctx).c.positions = s.c.positions.map fun p =>
      if ((s.placedOf ctx).map (·.id)).contains p.id then { p with st := .stopping } else p := by
    rw [State.beginSave, ← List.foldl_map (f := fun p : Position => p.id)
      (g := fun (s : State) i => s.modPos i fun p => { p with st := .stopping })]
    exact positions_foldl_stopping (fun p => { p with st := .stopping }) (fun _ => rfl) (fun _ => rfl) _ _
  intro p hp hctx hst
  rw [hpos] at hp
  obtain ⟨q, hq, rfl⟩ := List.mem_map.1 hp
  by_cases hin : ((s.placedOf ctx).map (·.id)).contains q.id = true
  · rw [if_pos hin] at hst
    cases hst
  · rw [if_neg hin] at hst hctx
    refine hin (List.contains_iff_mem.2 (List.mem_map.2 ⟨q, List.mem_filter.2 ⟨hq, ?_⟩, rfl⟩))
    simp [hctx, hst]

theorem beginSave_unseen {β : Type} (view : State → β) (hpos : ∀ (s : State) i f, view (s.modPos i f) = view s) {ctx : Nat} :
    view (s.beginSave ctx) = view (s.modCtx ctx fun c => { c with st := .saving, drain := some (s.now + drainTime), wantSave := false }) :=
  foldl_unseen (σ := State) view (fun s _ => hpos s _ _) _ _

/-! ### Context registers, containers, faults -/

theorem putReg_kept (c : Ctx) (n : Nat) (v : Word) : (c.putReg n v).id = c.id ∧ (c.putReg n v).faults = c.faults := by
  have hevr : ∀ v, (c.putEvr v).id = c.id ∧ (c.putEvr v).faults = c.faults := fun v => by
    unfold Ctx.putEvr
    split
    · exact ⟨rfl, rfl⟩
    · exact ⟨rfl, rfl⟩
  fun_cases Ctx.putReg c n v
  case case9 => exact hevr _
  all_goals exact ⟨rfl, rfl⟩
theorem hostReg_kept {c d : Ctx} {n : Nat} {v : Dword} (h : c.hostReg n v = some d) : d.id = c.id ∧ d.faults = c.faults := by
  unfold Ctx.hostReg at h
  split at h
  case h_13 => cases h
  all_goals rw [Option.some.injEq] at h; subst h
  case h_4 =>
    unfold Ctx.putFltr
    split
    · exact ⟨rfl, rfl⟩
    · exact ⟨rfl, rfl⟩
  case h_1 => exact ⟨rfl, rfl⟩
  case h_2 => exact ⟨rfl, rfl⟩
  case h_3 => exact ⟨rfl, rfl⟩
  all_goals exact putReg_kept c _ _

theorem flushWaiting_nothing {ctx : Nat} {c : Ctx} (hc : s.ctxOf ctx = some c) (hf : c.faults = []) : s.flushWaiting ctx = s := by
  simp only [State.flushWaiting, hc, Option.map_some, Option.getD_some, hf, List.length_nil, State.flushAll]

/-- The id that a new object takes is no code object's. -/
theorem freeObj_free {c : Ctx} {id : Nat} (hf : s.freeObj c = some id) : s.idTaken c id = false := by
  have hp := List.find?_some (p := fun n => decide (n < 2 ^ 24) && !s.idTaken c n) hf
  simpa using (Bool.and_eq_true_iff.1 hp).2

/-- A container submitted for the finaliser. -/
def Code.submitted (ctx id : Nat) (img : List Byte) : Code :=
  { ctx := ctx, id := id, st := .checking, digest := containerDigest img, kernels := [], data := [], image := img, removeReq := false }

theorem codeOf_new {c : Ctx} {x : Code} (hid : s.idTaken c x.id = false) (hx : x.ctx = c.id) :
    (s.modT fun t => { t with codes := t.codes ++ [x] }).codeOf c.id x.id = some x := by
  have hnone : s.t.codes.find? (fun y => y.ctx == c.id && y.id == x.id) = none := by
    refine List.find?_eq_none.2 fun y hy hp => ?_
    have htaken : s.idTaken c x.id = true := by
      rw [State.idTaken, Bool.or_eq_true_iff, Bool.or_eq_true_iff]
      exact .inl (.inr (List.any_eq_true.2 ⟨y, hy, hp⟩))
    rw [hid] at htaken
    exact absurd htaken (by decide)
  simp only [State.codeOf, State.modT_t, List.find?_append, hnone, Option.none_or]
  simp [hx]

end

/-- Settles O44: what the commands on contexts, containers, registers, positions and faults leave. -/
theorem contextCommands : Obligations.ContextCommands := by
  intro s h hs hr
  have hlen := hs.2.2.2.2
  refine ⟨fun pd hfree hpd hst => ?_, fun c hc => ?_⟩
  · have hany : ((s.ctxOf h.ctx.toNat).any (·.st != .free)) = false := by
      cases hx : s.ctxOf h.ctx.toNat with
      | none => rfl
      | some c => simp [hfree c hx]
    refine ⟨_, serves_of (u := s.putCtx { Ctx.create h.ctx.toNat pd.id .live with
        swept := ((s.ctxOf h.ctx.toNat).map (·.swept)).getD [], signal := (s.ctxOf h.ctx.toNat).any (·.signal) })
      (r := { result := h.ctx.toNat }) hs rfl ?_, ?_, reply_waits hlen, rfl⟩
    · refine (checked_ok hs hr).trans ?_
      simp only [hany, Bool.false_eq_true, if_false, hpd, beq_eq_false_iff_ne.2 hst]
    · exact find?_put (p := fun c : Ctx => c.id == h.ctx.toNat) (a := { Ctx.create h.ctx.toNat pd.id .live with
        swept := ((s.ctxOf h.ctx.toNat).map (·.swept)).getD [], signal := (s.ctxOf h.ctx.toNat).any (·.signal) })
        (beq_self_eq_true h.ctx.toNat) s.t.ctxs
  · have hown := ctxOf_own hc
    have hon : ∀ {serve : Ctx → Served}, c.st ≠ .free → (checked h (fun s => onContext h serve s) s) = serve c :=
      fun hst => (checked_ok hs hr).trans (onContext_ok hc hst)
    refine ⟨fun hst => ?_, fun hst => ?_, fun hst => ?_, fun hst => ?_, fun hst => ⟨fun n v d hd hf => ?_, fun img id hno hid => ?_,
      fun id x hx hxst => ?_, fun grid blk g p hg hlive hblk hp => ?_, fun fid fatal f hf => ?_⟩⟩
    · refine serves_of hs rfl ((checked_ok hs hr).trans ((onContext_ok hc (by rcases hst with hst | hst <;> simp [hst])).trans ?_))
      obtain hst | hst := hst <;> simp only [State.destroyCtx, hown, hst]
    · refine serves_of hs rfl ((checked_ok hs hr).trans ((onContext_ok hc (by rcases hst with hst | hst <;> simp [hst])).trans ?_))
      obtain hst | hst := hst <;> simp only [State.destroyCtx, hown, hst]
    · have hd : (s.beginSave c.id).ctxOf c.id =
          some { c with st := .saving, drain := some (s.now + drainTime), wantSave := false } :=
        (beginSave_unseen (·.ctxOf c.id) (fun _ _ _ => rfl)).trans (ctxOf_modCtx
          (f := fun c => { c with st := .saving, drain := some (s.now + drainTime), wantSave := false }) (fun _ => rfl) hown)
      refine ⟨_, _, serves_of (u := s.beginSave c.id) (r := .done) hs rfl ((hon (by simp [hst])).trans ?_), hd, rfl, rfl,
        beginSave_unseen (·.c.mem) (fun _ _ _ => rfl), beginSave_positions⟩
      simp only [hst]
    · refine serves_of hs rfl ((hon (by simp [hst])).trans ?_)
      simp only [hst]
    · obtain ⟨hid, hfl⟩ := hostReg_kept hd
      have hc1 : (s.modCtx c.id fun _ => d).ctxOf c.id = some d := by
        have hfind := find?_map_upd (p := fun x : Ctx => x.id == c.id) (f := fun _ => d) (fun _ _ => by simp [hid]) s.t.ctxs
        exact hfind.trans (by rw [show s.t.ctxs.find? (fun x => x.id == c.id) = some c from hown, Option.map_some])
      refine serves_of hs rfl ((hon hst).trans ?_)
      simp only [hd, flushWaiting_nothing hc1 (hfl.trans hf)]
    · have hfree := freeObj_free hid
      refine ⟨_, Code.submitted c.id id img, serves_of (u := s.modT fun t => { t with codes := t.codes ++ [Code.submitted c.id id img] })
        (r := .waits c.id id) hs rfl ((if_neg (by simp [hs.1])).trans ((hon hst).trans ?_)),
        codeOf_new (x := Code.submitted c.id id img) hfree rfl, rfl, rfl, rfl⟩
      simp only [hno, hid]
      rfl
    · refine serves_of hs rfl ((hon hst).trans ?_)
      simp only [State.removeCode, hx, hxst]
    · refine serves_of hs rfl ((hon hst).trans ?_)
      have hblk' : ¬ g.gx * g.gy * g.gz * (g.cx * g.cy * g.cz) ≤ blk := Nat.not_le.2 hblk
      have hp' : (s.c.positions.find? fun p => p.ctx == c.id && p.grid == grid && p.inst * (g.cx * g.cy * g.cz) + p.loc == blk) = some p := hp
      simp only [hg, hlive, hblk', decide_false, Bool.not_true, Bool.or_self, Bool.false_eq_true, if_false, hp']
    · refine serves_of hs rfl ((hon hst).trans ?_)
      simp only [State.faultOf, hown, Option.bind_some, hf]

end Sys2Proof.Machine

/-! PROOF. The commands on queues, tables, the report and the power cap. -/

namespace Sys2Proof.Machine

/-! ### Sorting by a number leaves the first entry of each -/

section
variable {α : Type} (key : α → Nat)

theorem filter_insertBy (j : Nat) (a : α) : ∀ {l : List α}, l.Pairwise (fun x y => key x ≤ key y) →
    (insertBy (fun x y => decide (key x ≤ key y)) a l).filter (fun x => key x == j) =
      l.filter (fun x => key x == j) ++ [a].filter (fun x => key x == j)
  | [], _ => rfl
  | b :: l, hl => by
    obtain ⟨hb, hl⟩ := List.pairwise_cons.1 hl
    rw [insertBy]
    by_cases hle : key b ≤ key a
    · rw [if_pos (decide_eq_true hle), List.filter_cons, List.filter_cons, filter_insertBy j a hl]
      split
      · rfl
      · rfl
    · rw [if_neg (by simpa using hle)]
      by_cases ha : key a = j
      · have hnil : (b :: l).filter (fun x => key x == j) = [] := by
          refine List.filter_eq_nil_iff.2 fun x hx hj => ?_
          have hxj : key x = j := by simpa using hj
          rcases List.mem_cons.1 hx with rfl | hx
          · omega
          · have := hb x hx
            omega
        rw [List.filter_cons, hnil]
        simp [ha]
      · rw [List.filter_cons]
        simp [ha]

/-- The entries of one number keep their order in a sorted list. -/
theorem filter_sortBy (j : Nat) (l : List α) :
    (sortBy (fun x y => decide (key x ≤ key y)) l).filter (fun x => key x == j) = l.filter (fun x => key x == j) := by
  have hstep : ∀ (l acc : List α), acc.Pairwise (fun x y => key x ≤ key y) →
      (l.foldl (fun acc a => insertBy (fun x y => decide (key x ≤ key y)) a acc) acc).filter (fun x => key x == j) =
        (acc ++ l).filter (fun x => key x == j) := by
    intro l
    induction l with
    | nil => intro acc _; simp
    | cons a l ih =>
      intro acc hacc
      have hins : (insertBy (fun x y => decide (key x ≤ key y)) a acc).Pairwise (fun x y => key x ≤ key y) :=
        (pairwise_insertBy (le := fun x y => decide (key x ≤ key y))
          (fun a b c hab hbc => decide_eq_true (Nat.le_trans (of_decide_eq_true hab) (of_decide_eq_true hbc)))
          (fun a b => (Nat.le_total (key a) (key b)).imp decide_eq_true decide_eq_true)
          (hacc.imp decide_eq_true)).imp of_decide_eq_true
      rw [List.foldl_cons, ih _ hins, List.filter_append, filter_insertBy key j a hacc, List.append_assoc, ← List.filter_append,
        ← List.filter_append, List.singleton_append]
  have hall := hstep l [] .nil
  rw [List.nil_append] at hall
  exact hall

theorem find?_sortBy (j : Nat) (l : List α) :
    (sortBy (fun x y => decide (key x ≤ key y)) l).find? (fun x => key x == j) = l.find? (fun x => key x == j) := by
  rw [← List.head?_filter, filter_sortBy, List.head?_filter]

end

section
variable {s : State} {h : CmdHead}

/-! ### The filter table -/

theorem find?_others {i j : Nat} (hj : j ≠ i) (l : List FilterEnt) :
    (l.filter (·.idx != i)).find? (·.idx == j) = l.find? (·.idx == j) := by
  rw [List.find?_filter]
  refine congrArg (fun p => List.find? p l) (funext fun x => ?_)
  by_cases hx : x.idx = j
  · simp [hx, hj]
  · simp [hx]

theorem find?_own_none (i : Nat) (l : List FilterEnt) : (l.filter (·.idx != i)).find? (·.idx == i) = none := by
  refine List.find?_eq_none.2 fun x hx hp => ?_
  have hkept := (List.mem_filter.1 hx).2
  simp_all

/-- A filter entry written, or taken away. -/
def filterSet (l : List FilterEnt) (i : Nat) (ent : Dword) : List FilterEnt :=
  if feValid ent then sortBy (fun a b => decide (a.idx ≤ b.idx)) (⟨i, ent, feBurst ent⟩ :: l.filter (·.idx != i))
  else l.filter (·.idx != i)

theorem find?_filterSet_same (l : List FilterEnt) (i : Nat) (ent : Dword) :
    (filterSet l i ent).find? (·.idx == i) = if feValid ent then some ⟨i, ent, feBurst ent⟩ else none := by
  unfold filterSet
  split
  · rw [find?_sortBy (key := FilterEnt.idx), List.find?_cons]
    simp
  · exact find?_own_none i l

theorem find?_filterSet_other {i j : Nat} (hj : j ≠ i) (l : List FilterEnt) (ent : Dword) :
    (filterSet l i ent).find? (·.idx == j) = l.find? (·.idx == j) := by
  unfold filterSet
  split
  · rw [find?_sortBy (key := FilterEnt.idx), List.find?_cons]
    simp only [beq_eq_false_iff_ne.2 (Ne.symm hj)]
    exact find?_others hj l
  · exact find?_others hj l

/-! ### The report -/

theorem reportBody_length (nonce : BitVec 256) : (s.reportBody nonce).length = 608 := by
  simp [State.reportBody, leBytes_length, List.length_flatMap]

/-- The report and a signature of 1,536 bytes go to the host. -/
theorem attest_serves {addr : Nat} {nonce : BitVec 256} (hs : s.takes h.link) (hr : h.rsv = 0) : ∃ sig : List Byte, sig.length = 1536 ∧
    s.Serves h.link (.attest h addr nonce) (s.modM fun m => { m with hostOut := some (h.link, addr, s.reportBody nonce ++ sig) }) .done :=
  ⟨(Config.signature (s.reportBody nonce) ++ List.replicate 1536 0).take 1536,
    by rw [List.length_take, List.length_append, List.length_replicate]; exact Nat.min_eq_left (Nat.le_add_left _ _),
    serves_of hs rfl (by rw [serveAttest, checked_ok hs hr])⟩

theorem reportBody_eq (nonce : BitVec 256) : ∃ rest, s.reportBody nonce = leBytes 64 s.m.measure.toNat ++ (leBytes 32 nonce.toNat ++ rest) :=
  ⟨_, List.append_assoc _ _ _⟩

end

/-- Settles O46: what the commands on queues, tables, the report and the power cap leave. -/
theorem tableCommands : Obligations.TableCommands := by
  intro s h hs hr
  refine ⟨fun c q hc hst => ⟨fun d hq hd hno href => ?_, fun x hx hctx hdy => ?_⟩, fun i ent hi hent => ?_,
    fun i ent hi hent hplen => ⟨fun hv => ?_, fun hv hnode hrealm hothers => ?_⟩, fun addr nonce => ?_, fun watts => ⟨fun hlo hhi => ?_, fun hout => ?_⟩⟩
  · refine serves_of hs rfl ((checked_ok hs hr).trans ((onContext_ok hc hst).trans ?_))
    simp only [Nat.not_le.2 hq, hd, hno, href, decide_false, bne_self_eq_false, Bool.or_self, Bool.false_eq_true, if_false, Option.isSome_none]
  · refine serves_of hs rfl ((checked_ok hs hr).trans ((onContext_ok hc hst).trans ?_))
    simp only [hx, hctx, hdy, bne_self_eq_false, Bool.or_self, Bool.false_eq_true, if_false]
  · refine ⟨_, serves_of (u := s.modT fun t => { t with filter := filterSet s.t.filter i ent }) (r := .done) hs rfl
      ((checked_ok hs hr).trans (if_neg ?_)), rfl, find?_filterSet_same _ _ _, fun j hj => find?_filterSet_other hj _ _⟩
    simp only [Nat.not_le.2 hi, hent, decide_false, bne_self_eq_false, Bool.or_self, Bool.false_eq_true, not_false_eq_true]
  · refine serves_of hs rfl ((checked_ok hs hr).trans ?_)
    simp only [Nat.not_le.2 hi, hent, Nat.not_lt.2 hplen, hv, decide_false, bne_self_eq_false, Bool.or_self, Bool.false_eq_true, if_false,
      Bool.not_false, if_true]
  · refine serves_of hs rfl ((checked_ok hs hr).trans ?_)
    have hnone : ((s.t.routes.filter (·.1 != i)).any fun r => r.2.extractLsb' 0 79 == ent.extractLsb' 0 79 &&
        r.2.extractLsb' 80 16 == ent.extractLsb' 80 16) = false := by
      refine List.any_eq_false.2 fun r hr => ?_
      have := hothers r hr
      simpa using this
    have hat : s.realmAt (ent.extractLsb' 80 16).toNat (ent.extractLsb' 96 20).toNat = (true, s) := by
      rw [State.realmAt, if_pos hnode, hrealm]
    simp only [Nat.not_le.2 hi, hent, Nat.not_lt.2 hplen, hv, hnone, hat, decide_false, bne_self_eq_false, Bool.or_self, Bool.false_eq_true,
      if_false, Bool.not_true, if_true]
  · obtain ⟨rest, hrest⟩ := reportBody_eq (s := s) nonce
    obtain ⟨sig, hsig, hserves⟩ := attest_serves (addr := addr) (nonce := nonce) hs hr
    refine ⟨_, s.reportBody nonce ++ sig, hserves, rfl, rfl, rfl, ?_, ?_, ?_⟩
    · rw [List.length_append, reportBody_length, hsig]
    · rw [hrest, List.append_assoc, List.take_left' (leBytes_length 64 _)]
    · rw [hrest, List.append_assoc, List.drop_left' (leBytes_length 64 _), List.append_assoc, List.take_left' (leBytes_length 32 _)]
  · exact serves_of hs rfl ((checked_ok hs hr).trans (if_pos ⟨hlo, hhi⟩))
  · exact serves_of hs rfl ((checked_ok hs hr).trans (if_neg (by omega)))

end Sys2Proof.Machine

/-! PROOF. Extents, and the commands on objects. -/

namespace Sys2Proof.Machine

/-! ### Extents (R326) -/

theorem pageUnits_pos (psz : Nat) : 0 < pageUnits psz := by
  unfold pageUnits pageBytes
  split <;> decide

theorem pageBytes_eq (psz : Nat) : pageBytes psz = pageUnits psz * 2 ^ 16 := by
  unfold pageUnits pageBytes
  split <;> rfl

theorem bytes_eq (e : Extent) : e.bytes = e.units * 2 ^ 16 := by
  rw [Extent.bytes, Extent.units, pageBytes_eq, Nat.mul_assoc]

theorem covers_iff {e : Extent} {x : Nat} : e.covers x = true ↔ e.off * 2 ^ 16 ≤ x ∧ x < (e.off + e.units) * 2 ^ 16 := by
  rw [Extent.covers, Bool.and_eq_true, decide_eq_true_eq, decide_eq_true_eq, Extent.first, bytes_eq, Nat.add_mul]

theorem holds_iff {e : Extent} {u : Nat} : e.holds u = true ↔ e.off ≤ u ∧ u < e.off + e.units := by
  rw [Extent.holds, Bool.and_eq_true, decide_eq_true_eq, decide_eq_true_eq]

theorem meets_iff {a b : Extent} : a.meets b = true ↔ a.off < b.off + b.units ∧ b.off < a.off + a.units := by
  rw [Extent.meets, Bool.and_eq_true, decide_eq_true_eq, decide_eq_true_eq]

theorem meets_comm (a b : Extent) : a.meets b = b.meets a := by
  rw [Extent.meets, Extent.meets, Bool.and_comm]

theorem meets_of_covers {a b : Extent} {x : Nat} (ha : a.covers x = true) (hb : b.covers x = true) : a.meets b = true := by
  rw [covers_iff] at ha hb
  rw [meets_iff]
  omega

/-- The rules of R326 for an extent, one by one. -/
theorem ok_iff {e : Extent} : e.ok = true ↔ e.psz ≤ 2 ∧ 1 ≤ e.npg ∧ e.npg < 2 ^ 24 ∧ e.off % pageUnits e.psz = 0 ∧
    e.pa % pageUnits e.psz = 0 ∧ e.off + e.units ≤ 2 ^ 24 ∧ e.pa + e.units ≤ 2 ^ 48 := by
  simp only [Extent.ok, Bool.and_eq_true, decide_eq_true_eq, beq_iff_eq, and_assoc]

/-- The extents of a list that no two of share a unit. -/
def Apart (l : List Extent) : Prop := l.Pairwise fun a b => a.meets b = false

theorem extentsOk_iff {l : List Extent} : extentsOk l = true ↔ l.length ≤ 256 ∧ (∀ e ∈ l, e.ok = true) ∧ Apart l := by
  have hapart : (l.zipIdx.all fun x => (l.drop (x.2 + 1)).all fun y => !x.1.meets y) = true ↔ Apart l := by
    rw [Apart, List.pairwise_iff_getElem, List.all_eq_true]
    constructor
    · intro h i j hi hj hij
      have hmem : (l[i], i) ∈ l.zipIdx := List.mk_mem_zipIdx_iff_getElem?.2 (List.getElem?_eq_getElem hi)
      have hy : l[j] ∈ l.drop (i + 1) := List.mem_drop_iff_getElem.2 ⟨j - (i + 1), by omega, by congr 1; omega⟩
      simpa using List.all_eq_true.1 (h _ hmem) _ hy
    · rintro h ⟨a, i⟩ hmem
      obtain ⟨hi, rfl⟩ := List.getElem?_eq_some_iff.1 (List.mk_mem_zipIdx_iff_getElem?.1 hmem)
      refine List.all_eq_true.2 fun y hy => ?_
      obtain ⟨j, hj, rfl⟩ := List.mem_drop_iff_getElem.1 hy
      simpa using h i (i + 1 + j) hi (by omega) (by omega)
  rw [extentsOk, Bool.and_eq_true, Bool.and_eq_true, decide_eq_true_eq, List.all_eq_true, hapart, and_assoc]

/-- Where no two extents meet, the one that covers an offset is found wherever it stands. -/
theorem find?_covers {l : List Extent} (hl : Apart l) {y : Extent} {x : Nat} (hy : y ∈ l) (hc : y.covers x = true) :
    l.find? (·.covers x) = some y := by
  induction l with
  | nil => exact absurd hy List.not_mem_nil
  | cons a l ih =>
    obtain ⟨ha, hl⟩ := List.pairwise_cons.1 hl
    rw [List.find?_cons]
    rcases List.mem_cons.1 hy with rfl | hy
    · rw [hc]
    · have hno : a.covers x = false := by
        by_contra hax
        exact Bool.false_ne_true ((ha y hy).symm.trans (meets_of_covers (by simpa using hax) hc))
      rw [hno]
      exact ih hl hy

theorem apart_perm {l l' : List Extent} (h : l.Perm l') (hl : Apart l) : Apart l' :=
  (h.pairwise_iff fun {a b} hab => by rw [meets_comm, hab]).1 hl

/-! ### One page of an extent rewritten -/

section
variable {e : Extent} {u : Nat} (hu : e.holds u = true)
include hu

theorem pageOf_lt : e.pageOf u < e.npg := by
  obtain ⟨hlo, hhi⟩ := holds_iff.1 hu
  rw [Extent.units] at hhi
  exact Nat.div_lt_of_lt_mul (by rw [Nat.mul_comm]; omega)

end

theorem sub_units (e : Extent) (j n : Nat) : (e.sub j n).units = n * pageUnits e.psz := rfl

theorem sub_ok {e : Extent} {j n : Nat} (he : e.ok = true) (hn : 1 ≤ n) (hj : j + n ≤ e.npg) : (e.sub j n).ok = true := by
  obtain ⟨hp, -, hlt, hoff, hpa, hend, hpend⟩ := ok_iff.1 he
  have hmul : j * pageUnits e.psz + n * pageUnits e.psz ≤ e.npg * pageUnits e.psz := by
    rw [← Nat.add_mul]
    exact Nat.mul_le_mul_right _ hj
  rw [Extent.units] at hend hpend
  refine ok_iff.2 ⟨hp, hn, by show n < _; omega, ?_, ?_, ?_, ?_⟩
  · show (e.off + j * pageUnits e.psz) % pageUnits e.psz = 0
    rw [Nat.add_mul_mod_self_right, hoff]
  · show (e.pa + j * pageUnits e.psz) % pageUnits e.psz = 0
    rw [Nat.add_mul_mod_self_right, hpa]
  · show e.off + j * pageUnits e.psz + n * pageUnits e.psz ≤ _
    omega
  · show e.pa + j * pageUnits e.psz + n * pageUnits e.psz ≤ _
    omega

/-- The extents that take an extent's place when P of one of its pages is cleared. -/
def Extent.without (e : Extent) (j : Nat) : List Extent := e.around j 1 [{ e.sub j 1 with p := false }]

theorem mem_without {e x : Extent} {j : Nat} : x ∈ e.without j ↔
    (x = e.sub 0 j ∧ j ≠ 0) ∨ x = { e.sub j 1 with p := false } ∨ (x = e.sub (j + 1) (e.npg - (j + 1)) ∧ e.npg - (j + 1) ≠ 0) := by
  simp only [Extent.without, Extent.around, List.mem_filter, List.mem_cons, List.not_mem_nil, or_false, bne_iff_ne,
    List.cons_append, List.nil_append]
  constructor
  · rintro ⟨rfl | rfl | rfl, hn⟩
    · exact .inl ⟨rfl, hn⟩
    · exact .inr (.inl rfl)
    · exact .inr (.inr ⟨rfl, hn⟩)
  · rintro (⟨rfl, hn⟩ | rfl | ⟨rfl, hn⟩)
    · exact ⟨.inl rfl, hn⟩
    · exact ⟨.inr (.inl rfl), Nat.one_ne_zero⟩
    · exact ⟨.inr (.inr rfl), hn⟩

theorem without_length (e : Extent) (j : Nat) : (e.without j).length ≤ 3 := List.length_filter_le _ _

theorem without_ok {e : Extent} {j : Nat} (he : e.ok = true) (hj : j < e.npg) : ∀ x ∈ e.without j, x.ok = true := by
  intro x hx
  obtain ⟨rfl, h0⟩ | rfl | ⟨rfl, h0⟩ := mem_without.1 hx
  · exact sub_ok he (by omega) (by omega)
  · exact sub_ok (n := 1) he (Nat.le_refl 1) (by omega)
  · exact sub_ok he (by omega) (by omega)

/-- What takes an extent's place lies within it. -/
theorem without_within {e x : Extent} {j : Nat} (hj : j < e.npg) (hx : x ∈ e.without j) :
    e.off ≤ x.off ∧ x.off + x.units ≤ e.off + e.units := by
  have hle : ∀ a b, a + b ≤ e.npg → a * pageUnits e.psz + b * pageUnits e.psz ≤ e.npg * pageUnits e.psz := fun a b h => by
    rw [← Nat.add_mul]
    exact Nat.mul_le_mul_right _ h
  have hsub : ∀ a b, a + b ≤ e.npg → e.off ≤ (e.sub a b).off ∧ (e.sub a b).off + (e.sub a b).units ≤ e.off + e.units := fun a b h => by
    have := hle a b h
    show e.off ≤ e.off + a * pageUnits e.psz ∧ e.off + a * pageUnits e.psz + b * pageUnits e.psz ≤ e.off + e.npg * pageUnits e.psz
    omega
  obtain ⟨rfl, h0⟩ | rfl | ⟨rfl, h0⟩ := mem_without.1 hx
  · exact hsub 0 j (by omega)
  · exact hsub j 1 (by omega)
  · exact hsub (j + 1) _ (by omega)

theorem without_apart (e : Extent) (j : Nat) : Apart (e.without j) := by
  have hno : ∀ {a b : Extent}, a.off + a.units ≤ b.off → a.meets b = false := fun h => by
    rw [← Bool.not_eq_true, meets_iff]
    omega
  have hthree : Apart [e.sub 0 j, { e.sub j 1 with p := false }, e.sub (j + 1) (e.npg - (j + 1))] := by
    refine List.pairwise_cons.2 ⟨fun y hy => hno ?_, List.pairwise_cons.2 ⟨fun y hy => hno ?_, List.pairwise_singleton _ _⟩⟩
    · show e.off + 0 * pageUnits e.psz + j * pageUnits e.psz ≤ y.off
      simp only [List.mem_cons, List.not_mem_nil, or_false] at hy
      obtain rfl | rfl := hy
      · show _ ≤ e.off + j * pageUnits e.psz
        omega
      · show _ ≤ e.off + (j + 1) * pageUnits e.psz
        rw [Nat.add_mul j 1]
        omega
    · show e.off + j * pageUnits e.psz + 1 * pageUnits e.psz ≤ y.off
      rw [List.mem_singleton] at hy
      subst hy
      show _ ≤ e.off + (j + 1) * pageUnits e.psz
      rw [Nat.add_mul j 1]
      omega
  exact hthree.sublist List.filter_sublist

section
variable {l : List Extent} {e : Extent} {u : Nat}

/-- A list with one extent replaced by others. -/
def swapExtent (l : List Extent) (e : Extent) (mid : List Extent) : List Extent := l.flatMap fun x => if x == e then mid else [x]

theorem covers_of_within {e y : Extent} {x : Nat} (hw : e.off ≤ y.off ∧ y.off + y.units ≤ e.off + e.units) (hc : y.covers x = true) :
    e.covers x = true := by
  rw [covers_iff] at hc ⊢
  exact ⟨Nat.le_trans (Nat.mul_le_mul_right _ hw.1) hc.1, Nat.lt_of_lt_of_le hc.2 (Nat.mul_le_mul_right _ hw.2)⟩

/-- What lies in an extent of `w` units from `o` on, above its page at `m`, lies in the pages from `n` on. -/
theorem above_page {o k m n r w x : Nat} (hin : ¬ ((o + m) * 2 ^ 16 ≤ x ∧ x < (o + m) * 2 ^ 16 + k * 2 ^ 16)) (hlow : ¬ x < (o + m) * 2 ^ 16)
    (hnext : n = m + k) (hsplit : r + n = w) (hc : x < (o + w) * 2 ^ 16) : (o + n) * 2 ^ 16 ≤ x ∧ x < (o + n + r) * 2 ^ 16 := by
  have hw : o + w = o + n + r := by omega
  rw [hw] at hc
  refine ⟨?_, hc⟩
  rw [hnext, ← Nat.add_assoc, Nat.add_mul (o + m)]
  by_contra hx
  exact hin ⟨Nat.not_lt.1 hlow, Nat.not_le.1 hx⟩

theorem units_pos (he : e.ok = true) : 0 < e.units := by
  obtain ⟨-, hn, -⟩ := ok_iff.1 he
  exact Nat.mul_pos hn (pageUnits_pos _)

theorem meets_self (he : e.ok = true) : e.meets e = true := by
  have := units_pos he
  rw [meets_iff]
  omega

/-- An extent of a list in which no two meet stands there once. -/
theorem swapExtent_eq (hok : extentsOk l = true) (he : e ∈ l) (mid : List Extent) :
    ∃ a b, l = a ++ e :: b ∧ swapExtent l e mid = a ++ (mid ++ b) := by
  obtain ⟨-, hall, hapart⟩ := extentsOk_iff.1 hok
  obtain ⟨a, b, rfl⟩ := List.append_of_mem he
  have hself := meets_self (hall e he)
  obtain ⟨-, hb, hab⟩ := List.pairwise_append.1 hapart
  have hkeep : ∀ {c : List Extent}, (∀ x ∈ c, x ≠ e) → swapExtent c e mid = c := fun {c} hc => by
    have hid : (c.flatMap fun x => if x == e then mid else [x]) = c.flatMap fun x => [x] :=
      List.flatMap_congr fun x hx => by rw [if_neg (by simpa using hc x hx)]
    exact hid.trans (by simp)
  refine ⟨a, b, rfl, ?_⟩
  have ha : swapExtent a e mid = a := hkeep fun x hx hxe => by
    have := hab x hx e (List.mem_cons_self ..)
    rw [hxe, hself] at this
    exact absurd this (by decide)
  have hb' : swapExtent b e mid = b := hkeep fun x hx hxe => by
    have := (List.pairwise_cons.1 hb).1 x hx
    rw [hxe, hself] at this
    exact absurd this (by decide)
  rw [swapExtent, List.flatMap_append, List.flatMap_cons, if_pos (beq_self_eq_true e)]
  rw [swapExtent] at ha hb'
  rw [ha, hb']

section
variable (hok : extentsOk l = true) (hlen : l.length ≤ 254) (hf : l.find? (·.holds u) = some e)
include hok hlen hf

/-- The list with P of one page cleared keeps the rules of R326. -/
theorem without_extentsOk : extentsOk (swapExtent l e (e.without (e.pageOf u))) = true := by
  have he := List.mem_of_find?_eq_some hf
  have hj := pageOf_lt (List.find?_some (p := fun e : Extent => e.holds u) hf)
  obtain ⟨-, hall, hapart⟩ := extentsOk_iff.1 hok
  obtain ⟨a, b, rfl, hsw⟩ := swapExtent_eq hok he (e.without (e.pageOf u))
  have hwithin : ∀ {x y : Extent}, x ∈ e.without (e.pageOf u) → e.meets y = false → x.meets y = false := fun {x y} hx hy => by
    have hin := without_within hj hx
    rw [← Bool.not_eq_true, meets_iff] at hy ⊢
    omega
  obtain ⟨ha, hb, hab⟩ := List.pairwise_append.1 hapart
  obtain ⟨heb, hb⟩ := List.pairwise_cons.1 hb
  rw [hsw]
  refine extentsOk_iff.2 ⟨?_, fun x hx => ?_, List.pairwise_append.2 ⟨ha, List.pairwise_append.2 ⟨without_apart e _, hb,
    fun x hx y hy => hwithin hx (heb y hy)⟩, fun x hx y hy => ?_⟩⟩
  · have := without_length e (e.pageOf u)
    simp only [List.length_append, List.length_cons] at hlen ⊢
    omega
  · rcases List.mem_append.1 hx with hx | hx
    · exact hall x (List.mem_append_left _ hx)
    · rcases List.mem_append.1 hx with hx | hx
      · exact without_ok (hall e he) hj x hx
      · exact hall x (List.mem_append_right _ (List.mem_cons_of_mem _ hx))
  · rcases List.mem_append.1 hy with hy | hy
    · rw [meets_comm]
      exact hwithin hy ((meets_comm _ _).trans (hab x hx e (List.mem_cons_self ..)))
    · exact hab x hx y (List.mem_cons_of_mem _ hy)

/-- Clearing P of a page takes away the translation of its bytes, and of no others. -/
theorem without_translate {o : Obj} (ho : o.ext = l) {x : Nat} {wr : Bool} {ext : List Extent}
    (hext : ext.Perm (swapExtent l e (e.without (e.pageOf u)))) {g : Nat} :
    ({ o with ext := ext, gen := g } : Obj).translate x wr =
      if (e.off + e.pageOf u * pageUnits e.psz) * 2 ^ 16 ≤ x ∧
          x < (e.off + e.pageOf u * pageUnits e.psz) * 2 ^ 16 + pageBytes e.psz then none
      else o.translate x wr := by
  have he := List.mem_of_find?_eq_some hf
  have hj := pageOf_lt (List.find?_some (p := fun e : Extent => e.holds u) hf)
  obtain ⟨-, hall, hapart⟩ := extentsOk_iff.1 hok
  have happ : Apart ext := apart_perm hext.symm (extentsOk_iff.1 (without_extentsOk hok hlen hf)).2.2
  obtain ⟨a, b, hl, hsw⟩ := swapExtent_eq hok he (e.without (e.pageOf u))
  have hmem : ∀ {y}, y ∈ ext ↔ y ∈ a ∨ y ∈ e.without (e.pageOf u) ∨ y ∈ b := fun {y} => by
    rw [hext.mem_iff, hsw, List.mem_append, List.mem_append]
  have hpage : ∀ {y}, y ∈ ext → y.covers x = true →
      ({ o with ext := ext, gen := g } : Obj).translate x wr = if y.p && (!wr || y.w) then some (y.pa * 2 ^ 16 + (x - y.first)) else none :=
    fun {y} hy hc => by rw [Obj.translate, Obj.extentAt, find?_covers happ hy hc]
  rw [pageBytes_eq]
  by_cases hin : (e.off + e.pageOf u * pageUnits e.psz) * 2 ^ 16 ≤ x ∧
      x < (e.off + e.pageOf u * pageUnits e.psz) * 2 ^ 16 + pageUnits e.psz * 2 ^ 16
  · rw [if_pos hin, hpage (y := { e.sub (e.pageOf u) 1 with p := false }) (hmem.2 (.inr (.inl (mem_without.2 (.inr (.inl rfl)))))) ?_]
    · rfl
    · rw [covers_iff]
      show (e.off + e.pageOf u * pageUnits e.psz) * 2 ^ 16 ≤ x ∧
        x < (e.off + e.pageOf u * pageUnits e.psz + 1 * pageUnits e.psz) * 2 ^ 16
      rwa [Nat.one_mul, Nat.add_mul _ (pageUnits e.psz)]
  · rw [if_neg hin]
    cases hx : l.find? (·.covers x) with
    | none =>
      have hno : ∀ y ∈ l, y.covers x = false := fun y hy => by simpa using List.find?_eq_none.1 hx y hy
      have hnone : ext.find? (·.covers x) = none := by
        refine List.find?_eq_none.2 fun y hy hc => ?_
        rcases hmem.1 hy with hy | hy | hy
        · rw [hno y (hl ▸ List.mem_append_left _ hy)] at hc
          exact Bool.false_ne_true hc
        · have hec : e.covers x = true := covers_of_within (without_within hj hy) hc
          rw [hno e he] at hec
          exact Bool.false_ne_true hec
        · rw [hno y (hl ▸ List.mem_append_right _ (List.mem_cons_of_mem _ hy))] at hc
          exact Bool.false_ne_true hc
      rw [Obj.translate, Obj.extentAt, hnone, Obj.translate, Obj.extentAt, ho, hx]
    | some y =>
      have hy := List.mem_of_find?_eq_some hx
      have hc : y.covers x = true := List.find?_some (p := fun e : Extent => e.covers x) hx
      have hold : o.translate x wr = if y.p && (!wr || y.w) then some (y.pa * 2 ^ 16 + (x - y.first)) else none := by
        rw [Obj.translate, Obj.extentAt, ho, hx]
      rw [hold]
      by_cases hye : y = e
      · subst hye
        rw [covers_iff, Extent.units] at hc
        have hsplit : (y.npg - (y.pageOf u + 1)) * pageUnits y.psz + (y.pageOf u + 1) * pageUnits y.psz = y.npg * pageUnits y.psz := by
          rw [← Nat.add_mul, Nat.sub_add_cancel hj]
        have hnext : (y.pageOf u + 1) * pageUnits y.psz = y.pageOf u * pageUnits y.psz + pageUnits y.psz := Nat.succ_mul _ _
        by_cases hlow : x < (y.off + y.pageOf u * pageUnits y.psz) * 2 ^ 16
        · have h0 : y.pageOf u ≠ 0 := fun h0 => by rw [h0, Nat.zero_mul] at hlow; omega
          rw [hpage (y := y.sub 0 (y.pageOf u)) (hmem.2 (.inr (.inl (mem_without.2 (.inl ⟨rfl, h0⟩))))) ?_]
          · show (if y.p && (!wr || y.w) then some ((y.pa + 0 * pageUnits y.psz) * 2 ^ 16 + (x - (y.off + 0 * pageUnits y.psz) * 2 ^ 16)) else none)
              = if y.p && (!wr || y.w) then some (y.pa * 2 ^ 16 + (x - y.off * 2 ^ 16)) else none
            rw [Nat.zero_mul, Nat.add_zero, Nat.add_zero]
          · rw [covers_iff]
            show (y.off + 0 * pageUnits y.psz) * 2 ^ 16 ≤ x ∧ x < (y.off + 0 * pageUnits y.psz + y.pageOf u * pageUnits y.psz) * 2 ^ 16
            rw [Nat.zero_mul, Nat.add_zero]
            exact ⟨hc.1, hlow⟩
        · have h0 : y.npg - (y.pageOf u + 1) ≠ 0 := fun h0 => by rw [h0, Nat.zero_mul] at hsplit; omega
          rw [hpage (y := y.sub (y.pageOf u + 1) (y.npg - (y.pageOf u + 1)))
            (hmem.2 (.inr (.inl (mem_without.2 (.inr (.inr ⟨rfl, h0⟩)))))) ?_]
          · show (if y.p && (!wr || y.w) then some ((y.pa + (y.pageOf u + 1) * pageUnits y.psz) * 2 ^ 16 +
                (x - (y.off + (y.pageOf u + 1) * pageUnits y.psz) * 2 ^ 16)) else none)
              = if y.p && (!wr || y.w) then some (y.pa * 2 ^ 16 + (x - y.off * 2 ^ 16)) else none
            have haddr : (y.pa + (y.pageOf u + 1) * pageUnits y.psz) * 2 ^ 16 + (x - (y.off + (y.pageOf u + 1) * pageUnits y.psz) * 2 ^ 16) =
                y.pa * 2 ^ 16 + (x - y.off * 2 ^ 16) := by omega
            rw [haddr]
          · rw [covers_iff]
            show (y.off + (y.pageOf u + 1) * pageUnits y.psz) * 2 ^ 16 ≤ x ∧
              x < (y.off + (y.pageOf u + 1) * pageUnits y.psz + (y.npg - (y.pageOf u + 1)) * pageUnits y.psz) * 2 ^ 16
            exact above_page hin hlow hnext hsplit hc.2
      · refine hpage (hmem.2 ?_) hc
        rw [hl] at hy
        rcases List.mem_append.1 hy with hy | hy
        · exact .inl hy
        · exact .inr (.inr ((List.mem_cons.1 hy).resolve_left hye))

end

end

section
variable {s : State} {h : CmdHead}

/-! ### What the commands on extents leave of the contexts and the links -/

/-- The objects and the stage of a context's life, and the links. -/
def State.ctxKept (s : State) (ctx : Nat) : Option (List Obj × CtxSt) × List Link :=
  ((s.ctxOf ctx).map fun c => (c.objs, c.st), s.m.links)

theorem ctxOf_modCtx_any {f : Ctx → Ctx} (hf : ∀ c, (f c).id = c.id) (i n : Nat) :
    (s.modCtx i f).ctxOf n = (s.ctxOf n).map fun c => if c.id == i then f c else c := by
  have hid : ∀ c : Ctx, ((if c.id == i then f c else c).id == n) = (c.id == n) := fun c => by
    split
    · rw [hf]
    · rfl
  rw [State.ctxOf, State.modCtx, State.modT_t]
  show (List.map _ _).find? _ = _
  rw [List.find?_map]
  refine congrArg (Option.map _) (congrArg (fun p => s.t.ctxs.find? p) (funext hid))

theorem ctxKept_modCtx {f : Ctx → Ctx} (hid : ∀ c, (f c).id = c.id) (hobjs : ∀ c, (f c).objs = c.objs) (hst : ∀ c, (f c).st = c.st)
    (s : State) (i n : Nat) : (s.modCtx i f).ctxKept n = s.ctxKept n := by
  rw [State.ctxKept, ctxOf_modCtx_any hid, Option.map_map]
  refine Prod.ext (congrArg (fun g => Option.map g (s.ctxOf n)) (funext fun c => ?_)) rfl
  simp only [Function.comp]
  split
  · rw [hobjs, hst]
  · rfl

theorem signal_kept (s : State) (i n : Nat) : (s.signal i).ctxKept n = s.ctxKept n := by
  unfold State.signal
  split
  · rfl
  · exact ctxKept_modCtx (f := fun c => { c with signal := true }) (fun _ => rfl) (fun _ => rfl) (fun _ => rfl) s i n

/-- A context once a fault record has been written to its ring. -/
def Ctx.faultWritten (fid : Nat) (c : Ctx) : Ctx :=
  { c with fltw := (c.fltw + 1) % 2 ^ 17, faults := upd (·.fid == fid) (fun f => { f with posted := true }) c.faults }

theorem flushFaults_kept (s : State) (i n : Nat) : (s.flushFaults i).ctxKept n = s.ctxKept n := by
  unfold State.flushFaults
  split
  · rfl
  · dsimp only
    split
    · split
      · rfl
      · exact (signal_kept _ _ _).trans ((ctxKept_modCtx (f := Ctx.faultWritten _) (fun _ => rfl) (fun _ => rfl) (fun _ => rfl) _ _ _).trans
          ((MemBlind.of_c (view := (·.ctxKept n)) (fun _ _ => rfl) fun _ _ => rfl).rel.objWrite s _ _ _ _))
    · rfl

theorem flushWaiting_kept (s : State) (i n : Nat) : (s.flushWaiting i).ctxKept n = s.ctxKept n := by
  unfold State.flushWaiting
  generalize ((s.ctxOf i).map (·.faults.length)).getD 0 = m
  induction m generalizing s with
  | zero => rfl
  | succ m ih => exact (ih _).trans (flushFaults_kept s i n)

theorem ctxOf_of_kept {t : State} {n : Nat} {objs : List Obj} {st : CtxSt} (hk : (t.ctxKept n).1 = some (objs, st)) :
    ∃ d, t.ctxOf n = some d ∧ d.objs = objs ∧ d.st = st := by
  obtain ⟨d, hd, hx⟩ := Option.map_eq_some_iff.1 hk
  obtain ⟨rfl, rfl⟩ := Prod.mk.inj hx
  exact ⟨d, hd, rfl, rfl⟩

/-- An object under a new extent list, in the next generation. -/
def Obj.newExtents (l : List Extent) (o : Obj) : Obj :=
  { o with ext := sortBy (fun a b => decide (a.off ≤ b.off)) l, gen := (o.gen + 1) % 2 ^ 32 }

/-- What a changed extent list leaves: race records seated, and fault records written where the ring has its page. -/
def State.changed (s : State) (c : Ctx) (o : Obj) (l : List Extent) : State :=
  ((s.modObj c.id o.id (Obj.newExtents l)).seatRaces c.id o.id).flushWaiting c.id

theorem putExtents_ok {c : Ctx} {o : Obj} {l : List Extent} (hl : extentsOk l = true) :
    s.putExtents c o (some l) = (s.changed c o l, .done) := if_pos hl

theorem seatRaces_unseen {β : Type} (view : State → β) (hview : ∀ (s : State) c, view { s with c := c } = view s) (i n : Nat) :
    view (s.seatRaces i n) = view s := by
  unfold State.seatRaces
  split
  · rfl
  · exact hview s _

theorem changed_kept {c : Ctx} {o : Obj} {l : List Extent} (hc : s.ctxOf c.id = some c) :
    (s.changed c o l).ctxKept c.id = (some (upd (·.id == o.id) (Obj.newExtents l) c.objs, c.st), s.m.links) := by
  refine (flushWaiting_kept _ _ _).trans ((seatRaces_unseen (·.ctxKept c.id) (fun _ _ => rfl) _ _).trans ?_)
  rw [State.ctxKept, State.modObj, ctxOf_modCtx (f := fun c => { c with objs := upd (·.id == o.id) (Obj.newExtents l) c.objs })
    (fun _ => rfl) hc, Option.map_some]
  rfl

/-- The ranges of device memory that a range of an object lies on. -/
def Obj.heldIn (o : Obj) (u n : Nat) : List (Nat × Nat) :=
  o.ext.filterMap fun e =>
    let a := max e.off u
    let b := min (e.off + e.units) (u + n)
    if a < b then some (e.pa + (a - e.off), b - a) else none

/-- What a changed extent list leaves where a range loses its translations: what is under way there is performed, and its TLB entries go. -/
def State.cut (s : State) (c : Ctx) (o : Obj) (u n : Nat) (l : List Extent) : State :=
  ((o.heldIn u n).foldl (fun s x => s.settle (x.1 * 2 ^ 16) (x.2 * 2 ^ 16)) (s.changed c o l)).dropTlb
    fun e => e.ctx == c.id && e.obj == o.id && decide (e.off < u + n) && decide (u < e.off + pageUnits e.psz)

theorem cutExtents_ok {c : Ctx} {o : Obj} {l : List Extent} {u n : Nat} (hl : extentsOk l = true) :
    s.cutExtents c o u n (some l) = (s.cut c o u n l, .done) := by
  rw [State.cutExtents, putExtents_ok hl]
  rfl

theorem cut_kept {c : Ctx} {o : Obj} {l : List Extent} {u n : Nat} (hc : s.ctxOf c.id = some c) :
    (s.cut c o u n l).ctxKept c.id = (some (upd (·.id == o.id) (Obj.newExtents l) c.objs, c.st), s.m.links) :=
  Eq.trans (foldl_unseen (σ := State) (·.ctxKept c.id) (fun s _ => (MemBlind.of_c (view := (·.ctxKept c.id)) (fun _ _ => rfl) fun _ _ => rfl).rel.settle s _ _) (o.heldIn u n) _)
    (changed_kept hc)

theorem objOf_id {c : Ctx} {obj : Nat} {o : Obj} (ho : c.objOf obj = some o) : o.id = obj := by
  simpa using List.find?_some (p := fun o : Obj => o.id == obj) ho

theorem objOf_upd {c d : Ctx} {obj : Nat} {o : Obj} {f : Obj → Obj} (hf : ∀ o, (f o).id = o.id) (ho : c.objOf obj = some o)
    (hd : d.objs = upd (·.id == obj) f c.objs) : d.objOf obj = some (f o) := by
  rw [Ctx.objOf, hd, find?_map_upd (p := fun o : Obj => o.id == obj) (fun o h => by rwa [hf])]
  rw [show c.objs.find? (fun o => o.id == obj) = some o from ho, Option.map_some]

/-- A context with one more object. -/
def Ctx.addObj (o : Obj) (c : Ctx) : Ctx := { c with objs := c.objs ++ [o] }

/-- An object as the host creates it. -/
def Obj.fresh (id : Nat) (paged wr : Bool) : Obj := { id := id, paged := paged, wr := wr, exo := false, gen := 0, ext := [], size := 2 ^ 40 }

theorem objOf_free {c : Ctx} {id : Nat} (hfree : s.idTaken c id = false) : c.objOf id = none := by
  obtain ⟨hobjs, -⟩ := Bool.or_eq_false_iff.1 (Bool.or_eq_false_iff.1 hfree).1
  exact List.find?_eq_none.2 fun o ho => by simpa using List.any_eq_false.1 hobjs o ho

/-- A context once one of its objects is gone. -/
def Ctx.dropObj (obj : Nat) (c : Ctx) : Ctx := { c with objs := c.objs.filter (·.id != obj) }

theorem dropObj_kept {t : State} {n obj : Nat} {objs : List Obj} {st : CtxSt} {links : List Link} (hk : t.ctxKept n = (some (objs, st), links)) :
    (t.modCtx n (Ctx.dropObj obj)).ctxKept n = (some (objs.filter (·.id != obj), st), links) := by
  obtain ⟨d, hd, rfl, rfl⟩ := ctxOf_of_kept (congrArg Prod.fst hk)
  exact Prod.ext (congrArg (Option.map _) (ctxOf_modCtx (f := Ctx.dropObj obj) (fun _ => rfl) hd)) (congrArg (fun k => k.2) hk)

theorem withholdIds_kept (s : State) (i n : Nat) (ids : List Nat) : (s.withholdIds i ids).ctxKept n = s.ctxKept n := by
  unfold State.withholdIds
  dsimp only
  split
  · rfl
  · exact ctxKept_modCtx (f := fun c => { c with gone := c.gone ++ ids.map fun x => (x, _) }) (fun _ => rfl) (fun _ => rfl) (fun _ => rfl) s i n

/-- No code of the context has the object as one of its data objects any more. -/
def State.dropData (s : State) (ctx obj : Nat) : State :=
  s.modT fun t => { t with codes := upd (·.ctx == ctx) (fun x => { x with data := x.data.erase obj }) t.codes }

/-- A context retires as it is Ending, not while it is Live. -/
theorem retireCtx_live {t : State} {n : Nat} {d : Ctx} (hd : t.ctxOf n = some d) (hlive : d.st = .live) : t.retireCtx n = t := by
  simp only [State.retireCtx, hd, hlive]
  rfl

/-! ### Commands on an object -/

section
variable {c : Ctx} {obj : Nat} {o : Obj} (hs : s.takes h.link) (hr : h.rsv = 0) (hc : s.ctxOf h.ctx.toNat = some c) (hst : c.st ≠ .free)
  (ho : c.objOf obj = some o) (hx : o.exo = false)
include hs hr hc hst ho hx

theorem onObject_ok {serve : State → Ctx → Obj → Served} : checked h (fun s => onObject h obj (serve s) s) s = serve s c o := by
  refine (checked_ok hs hr).trans ((onContext_ok hc hst).trans ?_)
  simp only [ho, hx, Bool.false_eq_true, if_false]

theorem clearP_serves {u : Nat} {e : Extent} (hok : extentsOk o.ext = true) (hlen : o.ext.length ≤ 254) (hf : o.ext.find? (·.holds u) = some e) :
    ∃ t : State, s.Serves h.link (.narrow h obj (.clearP u)) t .done ∧
      t.ctxKept c.id = (some (upd (·.id == o.id) (Obj.newExtents (swapExtent o.ext e (e.without (e.pageOf u)))) c.objs, c.st), s.m.links) := by
  have hrw : (o.rewrite u fun e' => some (e'.around (e.pageOf u) 1 [{ e'.sub (e.pageOf u) 1 with p := false }])) =
      some (swapExtent o.ext e (e.without (e.pageOf u))) := by
    simp only [Obj.rewrite, hf, Option.bind_some, Option.map_some]
    rfl
  refine ⟨s.cut c o (e.sub (e.pageOf u) 1).off (pageUnits e.psz) (swapExtent o.ext e (e.without (e.pageOf u))),
    serves_of (i := .narrow h obj (.clearP u)) (serve := serveNarrow h obj (.clearP u)) hs rfl
    ((onObject_ok hs hr hc hst ho hx).trans ?_), cut_kept (ctxOf_own hc)⟩
  simp only [hf, hrw]
  exact cutExtents_ok (without_extentsOk hok hlen hf)

theorem objectRemove_serves (hlive : c.st = .live) :
    ∃ t : State, s.Serves h.link (.objectRemove h obj) t .done ∧
      t.ctxKept c.id = (some ((upd (·.id == o.id) (Obj.newExtents []) c.objs).filter (·.id != obj), c.st), s.m.links) := by
  refine ⟨_, serves_of (i := .objectRemove h obj) (serve := serveObjectRemove h obj) hs rfl (onObject_ok hs hr hc hst ho hx), ?_⟩
  rw [cutExtents_ok (l := []) rfl]
  have hk : (State.dropData (((s.cut c o 0 (2 ^ 24) []).modCtx c.id (Ctx.dropObj obj)).withholdIds c.id [obj]) c.id obj).ctxKept c.id = _ :=
    (withholdIds_kept _ c.id c.id [obj]).trans (dropObj_kept (obj := obj) (cut_kept (o := o) (l := []) (u := 0) (n := 2 ^ 24) (ctxOf_own hc)))
  obtain ⟨d, hd, -, hdst⟩ := ctxOf_of_kept (congrArg Prod.fst hk)
  exact (congrArg (·.ctxKept c.id) (retireCtx_live hd (hdst.trans hlive))).trans hk

end

/-! ### The host's copies -/

section
variable {cmd : BitVec 512} {c : Ctx} {o : Obj}

theorem hostRange_place (hr : s.hostRange cmd = some (c, o)) : ∀ i < hcLen cmd, (o.place (hcOff cmd + i)).isSome = true := by
  obtain ⟨c', -, hr⟩ := Option.bind_eq_some_iff.1 hr
  obtain ⟨o', -, hr⟩ := Option.bind_eq_some_iff.1 hr
  split at hr
  · rename_i hcond
    obtain ⟨rfl, rfl⟩ := Prod.mk.inj (Option.some.inj hr)
    exact fun i hi => List.all_eq_true.1 (Bool.and_eq_true_iff.1 hcond).2 i (List.mem_range.2 hi)
  · cases hr

/-- A range whose bytes all stand in sound memory under readable keys is read whole. -/
theorem hostReads_all {off n : Nat} (hp : ∀ i < n, (o.place (off + i)).isSome = true)
    (hk : ∀ i < n, ∀ pa, o.place (off + i) = some pa → s.keyRead pa = true ∧ s.sound pa 1 = true) : s.hostReads o off n = n := by
  induction n generalizing off with
  | zero => rfl
  | succ n ih =>
    obtain ⟨pa, hpa⟩ := Option.isSome_iff_exists.1 (hp 0 n.succ_pos)
    obtain ⟨hkey, hsound⟩ := hk 0 n.succ_pos pa hpa
    have hrest : s.hostReads o (off + 1) n = n := ih (fun i hi => by rw [Nat.add_right_comm]; exact hp (i + 1) (Nat.succ_lt_succ hi))
      fun i hi pa hpa => hk (i + 1) (Nat.succ_lt_succ hi) pa (by rw [← hpa, Nat.add_right_comm]; rfl)
    simp only [State.hostReads, show o.place off = some pa from hpa, hkey, hsound, Bool.and_self, if_true, hrest]

end

section
variable {link : Bool} {cmd : BitVec 512} {c : Ctx} {o : Obj} (hs : s.takes link) (hbad : hcBad cmd = false) (hr : s.hostRange cmd = some (c, o))
include hs hbad hr

theorem serveWriteObject_ok (host : List Byte) : serveWriteObject cmd host s =
    let r := (s.snoop c.id o.id (hcOff cmd) (host.take (hcLen cmd)).length true).hostWrite c.pad o (hcOff cmd) (host.take (hcLen cmd))
    (r.1.repairRange o.place (hcOff cmd) r.2, copyReply r.2 (hcLen cmd)) := by
  refine (if_neg (by simp [hs.1])).trans ((if_neg (by simp [hbad])).trans ?_)
  rw [hr]

theorem serveReadObject_ok {upto : Nat} (hup : hcLen cmd ≤ upto)
    (hk : ∀ i < hcLen cmd, ∀ pa, o.place (hcOff cmd + i) = some pa → s.keyRead pa = true ∧ s.sound pa 1 = true)
    (hl : s.linesMet c.id o.id (hcOff cmd) (hcLen cmd) = []) : serveReadObject link cmd upto s =
      (s.modM fun m => { m with hostOut := some (link, (cmd.extractLsb' 192 64).toNat,
        (List.range (hcLen cmd)).map fun i => memGet s.c.mem ((o.place (hcOff cmd + i)).getD 0)) }, copyReply (hcLen cmd) (hcLen cmd)) := by
  have hsnoop : s.snoop c.id o.id (hcOff cmd) (hcLen cmd) false = s := by
    rw [State.snoop, hl]
    rfl
  refine (if_neg (by simp [hs.1])).trans ((if_neg (by simp [hbad])).trans ?_)
  simp only [hr, hsnoop, Nat.min_eq_right hup, hostReads_all (hostRange_place hr) hk]

end

/-! ### The obligation -/

theorem objectCreate_served {c : Ctx} (hs : s.takes h.link) (hr : h.rsv = 0) (hc : s.ctxOf h.ctx.toNat = some c) (hst : c.st ≠ .free)
    (paged wr : Bool) {id : Nat} (hf : s.freeObj c = some id) : ∃ t d o, exec (.objectCreate h paged wr) s = .next t ∧
      t.ctxOf c.id = some d ∧ d.objOf id = some o ∧ o.paged = paged ∧ o.wr = wr ∧ o.ext = [] ∧
      (t.linkAt h.link).busy = some (0, 0, id) ∧ t.c = s.c := by
  have hserve : serveObjectCreate h paged wr s = (s.modCtx c.id (Ctx.addObj (Obj.fresh id paged wr)), { result := id }) := by
    refine (checked_ok hs hr).trans ((onContext_ok hc hst).trans ?_)
    simp only [hf]
    rfl
  have hnew : c.objOf id = none := objOf_free (freeObj_free hf)
  refine ⟨_, _, Obj.fresh id paged wr, serves_of (i := .objectCreate h paged wr) (serve := serveObjectCreate h paged wr) hs rfl hserve,
    ctxOf_modCtx (f := Ctx.addObj _) (fun _ => rfl) (ctxOf_own hc), ?_, rfl, rfl, rfl, reply_waits (r := { result := id }) hs.2.2.2.2, rfl⟩
  rw [Ctx.objOf, Ctx.addObj, List.find?_append, show c.objs.find? (·.id == id) = none from hnew]
  exact List.find?_cons_of_pos (p := fun o : Obj => o.id == id) (beq_self_eq_true id)

/-- Settles O45: the commands on objects through what they leave of the context's objects, `clearP` by the extents it puts for one. -/
theorem objectCommands : Obligations.ObjectCommands := by
  unfold Obligations.ObjectCommands
  refine ⟨fun s h c hs hr hc hst => ⟨fun paged wr id hf => objectCreate_served hs hr hc hst paged wr hf, fun obj o ho hx => ?_⟩,
    fun s link cmd c o hs hbad hr => ⟨fun host => ?_, fun upto hup hk hl => ?_⟩⟩
  · refine ⟨fun b e he hl => ?_, fun u l hw hl => ?_, fun u l hw hl => ?_, fun u l hl hw => ?_, fun u psz e he => ?_, fun u e hok hlen hf => ?_,
      fun hlive => ?_⟩
    · exact serves_of (serve := serveAddExtent h obj (.add b)) hs rfl
        ((onObject_ok hs hr hc hst ho hx).trans (by simp only [he]; exact putExtents_ok hl))
    · exact serves_of (serve := serveAddExtent h obj (.setP u)) hs rfl
        ((onObject_ok hs hr hc hst ho hx).trans (by simp only [hw]; exact putExtents_ok hl))
    · exact serves_of (serve := serveAddExtent h obj (.setW u)) hs rfl
        ((onObject_ok hs hr hc hst ho hx).trans (by simp only [hw]; exact putExtents_ok hl))
    · exact serves_of (serve := serveSplit h obj u) hs rfl
        ((onObject_ok hs hr hc hst ho hx).trans (by simp only [hw]; exact putExtents_ok hl))
    · intro n l held hl
      exact serves_of (serve := serveMerge h obj u psz) hs rfl
        ((onObject_ok hs hr hc hst ho hx).trans (by simp only [he]; exact cutExtents_ok hl))
    · intro first
      obtain ⟨t, ht, hk⟩ := clearP_serves hs hr hc hst ho hx hok hlen hf
      obtain ⟨d, hd, hobjs, -⟩ := ctxOf_of_kept (congrArg Prod.fst hk)
      have hlinks : t.m.links = s.m.links := congrArg Prod.snd hk
      rw [objOf_id ho] at hobjs
      exact ⟨_, d, _, ht, hd, objOf_upd (f := Obj.newExtents _) (fun _ => rfl) ho hobjs, reply_waits (r := .done) (by rw [hlinks]; exact hs.2.2.2.2),
        fun x wr => without_translate hok hlen hf rfl (sortBy_perm _)⟩
    · obtain ⟨t, ht, hk⟩ := objectRemove_serves hs hr hc hst ho hx hlive
      obtain ⟨d, hd, hobjs, -⟩ := ctxOf_of_kept (congrArg Prod.fst hk)
      have hlinks : t.m.links = s.m.links := congrArg Prod.snd hk
      refine ⟨_, d, ht, hd, ?_, reply_waits (r := .done) (by rw [hlinks]; exact hs.2.2.2.2)⟩
      rw [Ctx.objOf, hobjs, List.find?_eq_none]
      intro o' ho'
      simpa using (List.mem_filter.1 ho').2
  · exact serves_of (serve := serveWriteObject cmd host) hs rfl (serveWriteObject_ok hs hbad hr host)
  · refine ⟨_, serves_of (i := .readObject link cmd upto) (serve := serveReadObject link cmd upto) hs rfl
      (serveReadObject_ok hs hbad hr hup hk hl), ?_, rfl, rfl⟩
    exact (reply_waits (r := copyReply _ _) hs.2.2.2.2).trans (by rw [copyReply, if_pos rfl])

end

end Sys2Proof.Machine

/-! PROOF. Commands on paddocks and their keys. -/

namespace Sys2Proof.Machine

section
variable {s : State} {h : CmdHead}

/-! ### Reading and changing a paddock -/

theorem padOf_modPad {f : Paddock → Paddock} (hf : ∀ p, (f p).id = p.id) {n : Nat} :
    (s.modPad n f).padOf n = (s.padOf n).map f :=
  find?_map_upd (p := fun p : Paddock => p.id == n) (fun p hp => by rwa [hf]) _

theorem padOf_id {n : Nat} {p : Paddock} (hp : s.padOf n = some p) : p.id = n := by
  simpa using List.find?_some (p := fun p : Paddock => p.id == n) hp

/-! ### A paddock gets its clusters (R388) -/

/-- A paddock that holds one more cluster. -/
def Paddock.addCluster (c : Nat) (p : Paddock) : Paddock := { p with gset := p.gset ||| 1#24 <<< c }

/-- The paddock of a descriptor as it is created. -/
def State.newPad (s : State) (n : Nat) (d : BitVec 512) (key : List Byte) : Paddock :=
  { padOfDesc n d with rank := s.m.paddocks.length, carve := s.freeUnits (padOfDesc n d).carveUnits, tenant := key }

/-- The machine with one more paddock. -/
def State.addPad (s : State) (p : Paddock) : State := s.modM fun m => { m with paddocks := m.paddocks ++ [p] }

/-- A core that takes no position any more. -/
def CoreSt.unusable (c : CoreSt) : CoreSt := { c with usable := false }

/-- What filling the set of a paddock leaves alone: the compute state, the links, and the paddock but for its set. -/
def State.unfilled (n : Nat) (s : State) : Compute × List Link × Option Paddock :=
  (s.c, s.m.links, (s.padOf n).map fun p => { p with gset := 0 })

theorem revoke_unfilled (n c : Nat) (s : State) : (s.revoke c).unfilled n = s.unfilled n := by
  unfold State.revoke
  split
  · split <;> rfl
  · rfl

theorem addCluster_unfilled (n c : Nat) (s : State) : (s.modPad n (Paddock.addCluster c)).unfilled n = s.unfilled n := by
  rw [State.unfilled, padOf_modPad (f := Paddock.addCluster c) (fun _ => rfl), Option.map_map]
  rfl

theorem giveCluster_unfilled (n : Nat) (s : State) : (s.giveCluster n).unfilled n = s.unfilled n := by
  unfold State.giveCluster
  dsimp only
  split
  · rename_i c _
    refine (addCluster_unfilled n c _).trans (revoke_unfilled n c s)
  · rfl

theorem fillSet_unfilled (n : Nat) (s : State) : (s.fillSet n).unfilled n = s.unfilled n := by
  unfold State.fillSet
  split
  · exact foldl_unseen (σ := State) (State.unfilled n) (fun s _ => giveCluster_unfilled n s) _ s
  · rfl

/-! ### Keys of a paddock -/

theorem modKey_keys {p : Paddock} {slot : Nat} {f : KeySlot → KeySlot} {i : Nat} :
    (p.modKey slot f).keys[i]? = (p.keys[i]?).map fun k => if i = slot then f k else k := by
  rw [Paddock.modKey, List.getElem?_mapIdx]

theorem install_keys {p : Paddock} {slot dom i : Nat} : (p.install slot dom).keys[i]? = (p.keys[i]?).map fun k =>
    if i = slot then ⟨.active, dom, (k.kgen + 1) % 2 ^ 28⟩ else if k.st == .active && k.dom == dom then { k with st := .old } else k := by
  refine modKey_keys.trans ?_
  rw [List.getElem?_map, Option.map_map]
  refine congrArg (fun g => Option.map g p.keys[i]?) (funext fun k => ?_)
  simp only [Function.comp]
  split
  · split <;> rfl
  · rfl

/-- After a key is installed, its slot holds the one Active key of its domain. -/
theorem install_only {p : Paddock} {slot dom : Nat} (hslot : slot < p.keys.length) :
    (∃ k, (p.install slot dom).keys[slot]? = some k ∧ k.st = .active ∧ k.dom = dom) ∧
      ∀ (i : Nat) (x : KeySlot), i ≠ slot → (p.install slot dom).keys[i]? = some x → ¬ (x.st = .active ∧ x.dom = dom) := by
  refine ⟨⟨⟨.active, dom, (p.keys[slot].kgen + 1) % 2 ^ 28⟩, ?_, rfl, rfl⟩, fun i x hi hx => ?_⟩
  · rw [install_keys, List.getElem?_eq_getElem hslot, Option.map_some, if_pos rfl]
  · rw [install_keys] at hx
    obtain ⟨k, -, rfl⟩ := Option.map_eq_some_iff.1 hx
    rw [if_neg hi]
    rintro ⟨hst, hdom⟩
    split at hst
    · cases hst
    · rename_i hk
      rw [if_neg hk] at hdom
      exact hk (by simp [hst, hdom])

/-! ### What a lost key slot leaves of the paddocks and the links -/

section
variable {β : Type} (view : State → β) (hc : ∀ (s : State) c, view { s with c := c } = view s)
  (hfree : ∀ (s : State) n, view { s with free := n } = view s) (ht : ∀ (s : State) t, view { s with t := t } = view s)
include hfree

theorem loseWords_unseen (s : State) (l : List Word) : view (s.loseWords l).2 = view s := by
  induction l generalizing s with
  | nil => rfl
  | cons w l ih => exact (ih s.drawWord.2).trans (hfree s _)

include ht in
theorem loseStaged_unseen (s : State) (x : PenSlot) : view (s.loseStaged x) = view s := by
  refine foldl_unseen (σ := State) view (fun s c => ?_) x.staged s
  exact (ht (s.loseWords c.2).2 _).trans (loseWords_unseen view hfree s c.2)

include hc in
theorem loseLine_unseen (s : State) (line : Nat) : view (s.loseLine line) = view s := by
  refine foldl_unseen (σ := State) view (fun s i => ?_) (List.range 64) s
  have hdraw : view s.drawByte.2 = view s := hfree s (s.free + 1)
  have hwrite : view (s.drawByte.2.devWrite (64 * line + i) [s.drawByte.1]) = view s.drawByte.2 :=
    (MemBlind.of_c hc hfree).rel.devWrite s.drawByte.2 (64 * line + i) [s.drawByte.1]
  exact hwrite.trans hdraw

include hc ht in
theorem loseLines_unseen (s : State) (pad slot : Nat) : view (s.loseLines pad slot) = view s := by
  unfold State.loseLines
  dsimp only
  refine (ht _ _).trans ?_
  refine (foldl_unseen (σ := State) view (fun s x => loseStaged_unseen view hfree ht s x) _ _).trans ?_
  refine (hc _ _).trans ?_
  exact foldl_unseen (σ := State) (f := fun s (k : Nat × Nat × Nat) => s.loseLine k.1) view (fun s k => loseLine_unseen view hc hfree s k.1) _ s

end

/-! ### The commands -/

section
variable (hs : s.takes h.link) (hr : h.rsv = 0)
include hs hr

theorem paddockCreate_served {d : BitVec 512} (hnone : s.padOf h.pad.toNat = none) (hd : descReserved d = false)
    (hok : s.padOk (padOfDesc h.pad.toNat d) = true) (key : List Byte) :
    ∃ t p, exec (.paddockCreate h ⟨d, key⟩) s = .next t ∧ t.padOf h.pad.toNat = some p ∧
      ({ p with gset := 0 } : Paddock) = { padOfDesc h.pad.toNat d with
        rank := s.m.paddocks.length, carve := s.freeUnits (padOfDesc h.pad.toNat d).carveUnits, tenant := key } ∧
      (t.linkAt h.link).busy = some (0, 0, 0) ∧ t.c = s.c := by
  have hserve : servePaddockCreate h ⟨d, key⟩ s = ((s.addPad (s.newPad h.pad.toNat d key)).fillSet h.pad.toNat, .done) := by
    refine (checked_ok hs hr).trans ((if_neg (by simp [hnone])).trans ((if_neg (by simp [hd, hok])).trans ?_))
    rfl
  have hfill := fillSet_unfilled h.pad.toNat (s.addPad (s.newPad h.pad.toNat d key))
  obtain ⟨hcomp, hrest⟩ := Prod.mk.inj hfill
  obtain ⟨hlinks, hpad⟩ := Prod.mk.inj hrest
  have hnew : (s.addPad (s.newPad h.pad.toNat d key)).padOf h.pad.toNat = some (s.newPad h.pad.toNat d key) := by
    rw [State.padOf, State.addPad, State.modM_m, List.find?_append, show s.m.paddocks.find? (·.id == h.pad.toNat) = none from hnone]
    exact List.find?_cons_of_pos (p := fun p : Paddock => p.id == h.pad.toNat) (beq_self_eq_true _)
  rw [hnew] at hpad
  obtain ⟨p, hp, hpq⟩ := Option.map_eq_some_iff.1 hpad
  exact ⟨_, p, serves_of (i := .paddockCreate h ⟨d, key⟩) (serve := servePaddockCreate h ⟨d, key⟩) hs rfl hserve, hp, hpq,
    reply_waits (r := .done) (by rw [hlinks]; exact hs.2.2.2.2), hcomp⟩

section
variable {p : Paddock} (hp : s.padOf h.pad.toNat = some p)
include hp

theorem paddockResize_serve {d : BitVec 512} {drop : BitVec 24}
    (hst : p.st = .live ∨ p.st = .stopped) (hd : descReserved d = false) (hok : s.padOk (p.resized d) = true) :
    servePaddockResize h ⟨d, drop⟩ s =
      let s1 := ((((s.revokeAll p).modPad p.id fun _ => p.resized d).trimSet p.id drop).fillSet p.id).recarve p (p.resized d)
      if (s1.unplaceable (s.misfits s1 p.id)).1.isEmpty then ((s1.unplaceable (s.misfits s1 p.id)).2, .done) else (s, .resizeCohabit) := by
  refine (checked_ok hs hr).trans ?_
  rw [hp]
  exact (if_neg (by rcases hst with h | h <;> simp [h])).trans (if_neg (by simp [hd, hok]))

theorem paddockStop_serve (hst : p.st = .live) (hn : s.placedIn p.id = []) : servePaddockStop h s =
    (s.modPad p.id fun p => { p with st := .stopping, drain := some (s.now + 200000), wantLive := false }, .done) := by
  have hdrop : ∀ t : State, t.placedIn p.id = [] → t.dropPressed p.id = t := fun t ht => by
    rw [State.dropPressed, ht]
    rfl
  refine (checked_ok hs hr).trans ?_
  simp only [hp, hst]
  exact congrArg (·, Reply.done) (hdrop _ hn)

theorem paddockStart_serve_stopping (hst : p.st = .stopping) :
    servePaddockStart h s = (s.modPad p.id fun p => { p with wantLive := true }, .done) := by
  refine (checked_ok hs hr).trans ?_
  simp only [hp, hst]

theorem paddockStart_serve_stopped (hst : p.st = .stopped) : servePaddockStart h s = (s.startPad p.id, .done) := by
  refine (checked_ok hs hr).trans ?_
  simp only [hp, hst]

theorem paddockDestroy_serve (hst : p.st ≠ .ending) : servePaddockDestroy h s =
    (let s1 := (s.revokeAll p).modPad p.id fun p => { p with st := .ending, drain := none, wantLive := false }
     ((s1.ctxsOf p.id).foldl (fun s c => s.destroyCtx c) s1).sweepPads, .done) := by
  refine (checked_ok hs hr).trans ?_
  cases hp' : p.st with
  | ending => exact absurd hp' hst
  | live => simp only [hp, hp']
  | stopping => simp only [hp, hp']
  | stopped => simp only [hp, hp']

theorem removeCore_serve {core : Nat} (hst : p.st ≠ .ending) (hlt : core < Config.cores) (hown : p.owns (clusterOf core) = true)
    (hin : s.m.coresOut.contains core = false) (hfit : s.misfits (s.coreOut core) p.id = []) : serveRemoveCore h core s =
      ((s.coreOut core).modM fun m => { m with coreDrain := m.coreDrain ++ [(core, s.now + 200000)] }, .done) := by
  refine (checked_ok hs hr).trans ?_
  simp only [hp]
  exact (if_neg (by simpa using hst)).trans ((if_neg (by simp [hlt, hown])).trans ((if_neg (by rw [hin]; exact Bool.false_ne_true)).trans (if_pos (by simp [hfit]))))

theorem onPaddock_ok {serve : State → Paddock → Served} : checked h (fun s => onPaddock h (serve s) s) s = serve s p := by
  refine (checked_ok hs hr).trans ?_
  simp only [onPaddock, hp]

/-- An order of a key is good where the tenant signed it and the device's key opens it. -/
def keyGood (p : Paddock) (slot dom : Nat) (k : KeyOrder) : Bool :=
  Config.falcon p.tenant k.sig (installText p.id slot dom k.wrapped) && Config.kemOpens Config.kemKey k.wrapped

theorem keyInstall_serve {slot dom : Nat} (hslot : slot ≤ 3) (hdom : dom ≤ 2) (k : KeyOrder) : serveKeyInstall h slot dom k s =
    if keyGood p slot dom k then ((s.loseLines p.id slot).modPad p.id (·.install slot dom), .done) else (s, .denied) := by
  refine (onPaddock_ok hs hr hp).trans ((if_neg (by simp; omega)).trans ?_)
  cases hg : keyGood p slot dom k with
  | false => exact if_pos (by rw [← Bool.not_and]; exact congrArg not hg)
  | true => exact if_neg (by rw [← Bool.not_and, show (_ && _) = true from hg]; exact Bool.false_ne_true)

theorem keyRewrap_serve {slot : Nat} (hslot : slot ≤ 3) {k : KeySlot} (hk : p.keys[slot]? = some k) (hst : k.st = .old)
    (hact : (p.activeKey k.dom).isSome = true) : serveKeyRewrap h slot s =
      (s.modPad p.id fun p => { p with rewrap := if p.rewrap.contains slot then p.rewrap else p.rewrap ++ [slot] }, .done) := by
  refine (onPaddock_ok hs hr hp).trans ((if_neg (by omega)).trans ?_)
  simp only [hk]
  exact if_pos (by simp [hst, hact])

/-- A paddock once the key of a slot is Revoked. -/
def Paddock.revokeKey (slot : Nat) (p : Paddock) : Paddock :=
  { p.modKey slot (fun k => { k with st := .revoked }) with rewrap := p.rewrap.filter (· != slot) }

theorem keyRevoke_serve {slot : Nat} (hslot : slot ≤ 3) {k : KeySlot} (hk : p.keys[slot]? = some k) (hdom : k.dom ≠ 2) :
    serveKeyRevoke h slot s = (s.modPad p.id (Paddock.revokeKey slot), .done) := by
  refine (onPaddock_ok hs hr hp).trans ((if_neg (by omega)).trans ?_)
  simp only [hk]
  exact congrArg (·, Reply.done) (if_neg (by simpa using hdom))

theorem keyInstall_served {slot dom : Nat} (hslot : slot ≤ 3) (hdom : dom ≤ 2) (hlen : p.keys.length = 4) (k : KeyOrder) :
    ∃ t q, exec (.keyInstall h slot dom k) s = .next t ∧ t.padOf h.pad.toNat = some q ∧
      (keyGood p slot dom k = false → q = p ∧ (t.linkAt h.link).busy = some (7, 0, 0)) ∧
      (keyGood p slot dom k = true → (∃ k, q.keys[slot]? = some k ∧ k.st = .active ∧ k.dom = dom) ∧
        ∀ (i : Nat) (x : KeySlot), i ≠ slot → q.keys[i]? = some x → ¬ (x.st = .active ∧ x.dom = dom)) := by
  have hserve := keyInstall_serve hs hr hp hslot hdom k
  cases hg : keyGood p slot dom k with
  | false =>
    rw [hg] at hserve
    exact ⟨_, p, serves_of (i := .keyInstall h slot dom k) (serve := serveKeyInstall h slot dom k) hs rfl hserve, hp,
      fun _ => ⟨rfl, reply_waits (r := .denied) hs.2.2.2.2⟩, nofun⟩
  | true =>
    rw [hg] at hserve
    refine ⟨_, p.install slot dom, serves_of (i := .keyInstall h slot dom k) (serve := serveKeyInstall h slot dom k) hs rfl hserve, ?_, nofun,
      fun _ => install_only (by omega)⟩
    have hkept : (s.loseLines p.id slot).padOf h.pad.toNat = some p :=
      (loseLines_unseen (·.padOf h.pad.toNat) (fun _ _ => rfl) (fun _ _ => rfl) (fun _ _ => rfl) s _ _).trans hp
    refine (congrArg (fun n => ((s.loseLines p.id slot).modPad n (·.install slot dom)).padOf h.pad.toNat) (padOf_id hp)).trans ?_
    rw [padOf_modPad (f := (·.install slot dom)) (fun _ => rfl), hkept, Option.map_some]

theorem keyRevoke_served {slot : Nat} (hslot : slot ≤ 3) {k : KeySlot} (hk : p.keys[slot]? = some k) (hdom : k.dom ≠ 2) :
    ∃ t q x, exec (.keyRevoke h slot) s = .next t ∧ t.padOf h.pad.toNat = some q ∧ q.keys[slot]? = some x ∧ x.st = .revoked ∧ t.c = s.c := by
  refine ⟨_, p.revokeKey slot, { k with st := .revoked },
    serves_of (i := .keyRevoke h slot) (serve := serveKeyRevoke h slot) hs rfl (keyRevoke_serve hs hr hp hslot hk hdom), ?_, ?_, rfl, rfl⟩
  · refine (congrArg (fun n => (s.modPad n (Paddock.revokeKey slot)).padOf h.pad.toNat) (padOf_id hp)).trans ?_
    rw [padOf_modPad (f := Paddock.revokeKey slot) (fun _ => rfl), hp, Option.map_some]
  · refine modKey_keys.trans ?_
    rw [hk, Option.map_some, if_pos rfl]

theorem removeCore_served {core : Nat} (hst : p.st ≠ .ending) (hlt : core < Config.cores) (hown : p.owns (clusterOf core) = true)
    (hin : s.m.coresOut.contains core = false) (hfit : s.misfits (s.coreOut core) p.id = []) :
    ∃ t, exec (.removeCore h core) s = .next t ∧ core ∈ t.m.coresOut ∧ (core, s.now + 200000) ∈ t.m.coreDrain ∧
      (∀ c, t.coreOf core = some c → c.usable = false) ∧ t.c.mem = s.c.mem := by
  refine ⟨_, serves_of (i := .removeCore h core) (serve := serveRemoveCore h core) hs rfl (removeCore_serve hs hr hp hst hlt hown hin hfit), ?_,
    List.mem_append_right _ (List.mem_singleton.2 rfl), fun c hc => ?_, rfl⟩
  · show core ∈ if s.m.coresOut.contains core then _ else _
    rw [hin]
    exact List.mem_append_right _ (List.mem_singleton.2 rfl)
  · have hmap : (s.modCore core CoreSt.unusable).coreOf core = (s.coreOf core).map CoreSt.unusable :=
      find?_map_upd (p := fun c : CoreSt => c.id == core) (f := CoreSt.unusable) (fun _ h => h) _
    obtain ⟨d, -, rfl⟩ := Option.map_eq_some_iff.1 (hmap.symm.trans hc)
    rfl

end
end
end

/-- Settles O47: each command from its serve function; the paddock it leaves is read through `padOf_modPad`, the key slots through `install_keys`. -/
theorem paddockCommands : Obligations.PaddockCommands := by
  unfold Obligations.PaddockCommands
  intro s h hs hr
  refine ⟨fun d hnone hd hok key => paddockCreate_served hs hr hnone hd hok key, fun p hp => ?_⟩
  refine ⟨?_, fun hst hn => ?_, fun hst => ?_, fun hst => ?_, fun hst => ?_, ?_, fun slot hslot hlen => ⟨?_, ?_, ?_⟩⟩
  · intro d drop hst hd hok s1 bad s2 hbad
    have hserve := paddockResize_serve hs hr hp (drop := drop) hst hd hok
    refine ⟨fun he => serves_of (serve := servePaddockResize h ⟨d, drop⟩) hs rfl (hserve.trans ((if_pos ?_).trans ?_)),
      fun hne => serves_of (serve := servePaddockResize h ⟨d, drop⟩) hs rfl (hserve.trans (if_neg ?_))⟩
    · rw [show (s1.unplaceable (s.misfits s1 p.id)).1 = bad by rw [hbad], he]
      rfl
    · rw [show (s1.unplaceable (s.misfits s1 p.id)).2 = s2 by rw [hbad]]
    · rw [show (s1.unplaceable (s.misfits s1 p.id)).1 = bad by rw [hbad]]
      simpa using hne
  · exact serves_of (serve := servePaddockStop h) hs rfl (paddockStop_serve hs hr hp hst hn)
  · exact serves_of (serve := servePaddockStart h) hs rfl (paddockStart_serve_stopping hs hr hp hst)
  · exact serves_of (serve := servePaddockStart h) hs rfl (paddockStart_serve_stopped hs hr hp hst)
  · exact serves_of (serve := servePaddockDestroy h) hs rfl (paddockDestroy_serve hs hr hp hst)
  · exact fun core hst hlt hown hin hfit => removeCore_served hs hr hp hst hlt hown hin hfit
  · exact fun dom wrapped sig hdom => keyInstall_served hs hr hp hslot hdom hlen ⟨wrapped, sig⟩
  · exact fun k hk hst hact => serves_of (serve := serveKeyRewrap h slot) hs rfl (keyRewrap_serve hs hr hp hslot hk hst hact)
  · exact fun k hk hdom => keyRevoke_served hs hr hp hslot hk hdom

end Sys2Proof.Machine

/-! PROOF. What happens on a core: the picker, the watchdog and the locality period. -/

namespace Sys2Proof.Machine

section
variable {s : State} {core : Nat} {c : CoreSt} (hc : s.coreOf core = some c)

theorem coreOf_id {n : Nat} (hc : s.coreOf n = some c) : c.id = n := by
  simpa using List.find?_some (p := fun c : CoreSt => c.id == n) hc

theorem coreOf_modCore {f : CoreSt → CoreSt} (hf : ∀ c, (f c).id = c.id) {n : Nat} : (s.modCore n f).coreOf n = (s.coreOf n).map f :=
  find?_map_upd (p := fun c : CoreSt => c.id == n) (fun c hc => by rwa [hf]) _

/-! ### The picker forms a packet (R297, R298) -/

/-- The packet of a candidate and the arms beside it. -/
def State.packetOf (s : State) (c : CoreSt) (sc : StageCode) (x : Cand) (l : List Cand) : Packet :=
  { ctx := (s.candKey x).1, code := (s.candKey x).2.1, kern := (s.candKey x).2.2.1, stage := (s.candKey x).2.2.2.1, hdr := (s.candKey x).2.2.2.2.1,
    idx := (s.candKey x).2.2.2.2.2, cnt := sc.count (s.candKey x).2.2.2.2.1, scl := hdrScl ((sc.wordAt x.pc).getD 0),
    arms := l.map fun y => ⟨y.wk, y.arm, y.lanes⟩, born := c.filled }

/-- A core with one more packet, at a slot. -/
def CoreSt.fill (slot : Nat) (p : Packet) (turns : List (Nat × Nat × WKey × List WKey)) (x : Cand) (c : CoreSt) : CoreSt :=
  { c with slots := c.slots.set slot (some p), filled := c.filled + 1, turns := turns, switched := c.switched.filter (· != x.wk) }

theorem enterPacket_c (s : State) (w : Dword) (x : Cand) :
    ((s.enterPacket w x).c.cores, (s.enterPacket w x).c.mem) = (s.c.cores, s.c.mem) := by
  unfold State.enterPacket
  dsimp only
  split <;> rfl

theorem enterPackets_c (w : Dword) (l : List Cand) :
    ((l.foldl (fun s y => s.enterPacket w y) s).c.cores, (l.foldl (fun s y => s.enterPacket w y) s).c.mem) = (s.c.cores, s.c.mem) :=
  foldl_unseen (σ := State) (fun s => (s.c.cores, s.c.mem)) (fun s y => enterPacket_c s w y) l s

theorem formPacket_eq {slot : Nat} {x : Cand} {l : List Cand} {sc : StageCode} (hsc : s.stage? x.pos x.stage = some sc) :
    s.formPacket c slot x l = (l.foldl (fun s y => s.enterPacket ((sc.wordAt x.pc).getD 0) y) s).modCore c.id
      fun c' => c'.fill slot (s.packetOf c sc x l) (s.takeTurn x c'.turns) x := by
  simp only [State.formPacket, hsc]
  rfl

include hc in
theorem formPacket_core {slot : Nat} {x : Cand} {l : List Cand} {sc : StageCode} (hsc : s.stage? x.pos x.stage = some sc) :
    (s.formPacket c slot x l).coreOf core = some (c.fill slot (s.packetOf c sc x l) (s.takeTurn x c.turns) x) := by
  have hcores : (State.c (l.foldl _ s)).cores = s.c.cores := congrArg Prod.fst (enterPackets_c (s := s) ((sc.wordAt x.pc).getD 0) l)
  rw [formPacket_eq hsc, coreOf_id hc, coreOf_modCore (f := fun c' => c'.fill slot _ (s.takeTurn x c'.turns) x) (fun _ => rfl), State.coreOf, hcores]
  exact congrArg (Option.map _) hc

theorem packet?_of_core (hc : s.coreOf core = some c) (i : Nat) : s.packet? core i = c.slots[i]?.join := by
  rw [State.packet?, hc, Option.bind_some]

theorem fetchHeader_eq (hc : s.coreOf core = some c) {slot : Nat} {p : Packet} (hp : (c.slots[slot]?).join = some p) :
    s.fetchHeader core slot = if s.wordSound p p.hdr = true then s else s.fetchFails core p := by
  simp only [State.fetchHeader, hc, Option.bind_some, hp]

include hc in
theorem picks (hfree : s.headerTrap core = none) {slot : Nat} {x : Cand} {l : List Cand} {sc : StageCode}
    (hslot : c.slots.findIdx? (·.isNone) = some slot) (harms : s.packetArms (s.order c) = x :: l) (hsc : s.stage? x.pos x.stage = some sc) :
    ∃ t p, exec (.packetFormation core) s = .next (if t.wordSound p p.hdr = true then t else t.fetchFails core p) ∧
      t.packet? core slot = some p ∧
      (p.ctx, p.code, p.kern, p.stage, p.hdr, p.idx) = s.candKey x ∧ p.cnt = sc.count x.pc ∧
      p.arms = ((x :: l).map fun y => ⟨y.wk, y.arm, y.lanes⟩) ∧ t.c.mem = s.c.mem ∧
      ∀ i, i ≠ slot → t.packet? core i = s.packet? core i := by
  have hlt : slot < c.slots.length := (List.findIdx?_eq_some_iff_getElem.1 hslot).1
  have hcore := formPacket_core hc (slot := slot) (l := x :: l) hsc
  have hpacket : (s.formPacket c slot x (x :: l)).packet? core slot = some (s.packetOf c sc x (x :: l)) := by
    rw [packet?_of_core hcore, CoreSt.fill, List.getElem?_set_self hlt, Option.join_some]
  have hexec : exec (.packetFormation core) s = .next ((s.formPacket c slot x (x :: l)).fetchHeader core slot) := by
    refine congrArg Host.Outcome.next ?_
    simp only [hc, hfree, hslot, harms]
  refine ⟨s.formPacket c slot x (x :: l), s.packetOf c sc x (x :: l), hexec.trans (congrArg _ ?_), hpacket, rfl, rfl, rfl, ?_, fun i hi => ?_⟩
  · exact fetchHeader_eq hcore (by rw [CoreSt.fill, List.getElem?_set_self hlt, Option.join_some])
  · rw [formPacket_eq hsc]
    exact congrArg Prod.snd (enterPackets_c (s := s) ((sc.wordAt x.pc).getD 0) (x :: l))
  · rw [packet?_of_core hcore, packet?_of_core hc, CoreSt.fill, List.getElem?_set_ne (Ne.symm hi)]

include hc in
theorem picks_none (hfree : s.headerTrap core = none) (hno : c.slots.all (·.isSome) = true ∨ s.packetArms (s.order c) = []) :
    exec (.packetFormation core) s = .next s := by
  refine congrArg Host.Outcome.next ?_
  simp only [hc, hfree]
  rcases hno with hfull | harms
  · have hnone : c.slots.findIdx? (·.isNone) = none := by
      rw [List.findIdx?_eq_none_iff]
      intro x hx
      simpa using List.all_eq_true.1 hfull x hx
    simp only [hnone]
  · simp only [harms]
    split
    · rename_i heq
      cases heq
    · rfl

/-! ### A period of the locality throttle (R301) -/

theorem misses_unseen {β : Type} (view : State → β) (hfree : ∀ (s : State) n, view { s with free := n } = view s) (slots : List Nat) (n : Nat)
    (x : Locality) (s : State) : view (State.misses slots n x s).2 = view s := by
  induction n generalizing x s with
  | zero => rfl
  | succ n ih => exact (ih _ _).trans (hfree s (s.free + 1 + 1 + 1))

/-- A core after a period of its locality throttle. -/
def CoreSt.period (k : Ctx) (warps : Nat) (scores victims : List (Nat × Nat)) (c : CoreSt) : CoreSt :=
  { c with scores := scores, victims := victims, limit := some (nextLimit k (scores.map (·.2)).sum warps c.limit) }

/-- The misses of a core's last 1,024 cycles, at most one of a cycle, and what they leave. -/
def State.periodMisses (s : State) (core : Nat) (c : CoreSt) : Locality × State :=
  State.misses ((s.warpsOn core).map (·.slot)) (s.drawWord.1.toNat % 1025) ⟨c.scores, c.victims⟩ s.drawWord.2

/-- The scores with which a period leaves the warps of a core. -/
def State.periodScores (s : State) (core : Nat) (c : CoreSt) : List (Nat × Nat) :=
  ((s.warpsOn core).map (·.slot)).map fun i => (i, ((s.periodMisses core c).1.scores.lookup i).getD 0 / 2)

theorem periodMisses_unseen {β : Type} (view : State → β) (hfree : ∀ (s : State) n, view { s with free := n } = view s) (s : State) (core : Nat)
    (c : CoreSt) : view (s.periodMisses core c).2 = view s :=
  (misses_unseen view hfree _ _ _ _).trans (hfree s (s.free + 1))

section
variable {p : Position} {rest : List Position} {k : Ctx} (hon : s.posOn core = p :: rest) (hk : s.ctxOf p.ctx = some k)
include hc hon hk

theorem localityPeriod_exec : exec (.localityPeriod core) s = .next (((s.periodMisses core c).2.passCycles 1024).modCore core
    (CoreSt.period k (s.warpsOn core).length (s.periodScores core c) (s.periodMisses core c).1.victims)) := by
  refine congrArg Host.Outcome.next ?_
  simp only [hc, hon, List.head?_cons, Option.bind_some, hk]
  rfl

theorem localityPeriod_leaves :
    ∃ t d, exec (.localityPeriod core) s = .next t ∧ t.coreOf core = some d ∧ t.cyc = s.cyc + 1024 ∧
      d.scores.map (·.1) = (s.warpsOn core).map (·.slot) ∧
      d.limit = some (nextLimit k (d.scores.map (·.2)).sum (s.warpsOn core).length c.limit) ∧ t.c.mem = s.c.mem := by
  have hcore : ((s.periodMisses core c).2.passCycles 1024).coreOf core = some c :=
    (periodMisses_unseen (·.coreOf core) (fun _ _ => rfl) s core c).trans hc
  refine ⟨_, c.period k (s.warpsOn core).length (s.periodScores core c) (s.periodMisses core c).1.victims,
    localityPeriod_exec hc hon hk, ?_, ?_, ?_, rfl, ?_⟩
  · rw [coreOf_modCore (f := CoreSt.period _ _ _ _) (fun _ => rfl), hcore, Option.map_some]
  · exact congrArg (· + 1024) (periodMisses_unseen (·.cyc) (fun _ _ => rfl) s core c)
  · show (s.periodScores core c).map _ = _
    rw [State.periodScores, List.map_map]
    exact List.map_id' _
  · exact periodMisses_unseen (·.c.mem) (fun _ _ => rfl) s core c

end

/-! ### The watchdog of a block (R306) -/

theorem progressWatchdog_exec {p : Position} {b : Block} {sc : StageCode} (hp : s.posOf p.id = some p) (hb : p.blockOf b.stage = some b)
    (hsc : s.stage? p b.stage = some sc) (hst : p.st = .resident) (hblk : s.blockBlocked p b = true) :
    exec (.progressWatchdog p.id b.stage) s = .next (b.warps.foldl (fun s w => s.dogWarp p b sc w)
      ((s.passCycles (2 ^ b.wd - b.dog)).modBlock p.id b.stage fun b => { b with dog := 0 })) := by
  refine congrArg Host.Outcome.next ?_
  simp only [hp, Option.bind_some, hb, hsc]
  exact if_pos (by simp [hst, hblk])

/-- Settles O48: each core event from its branch of the model; the packet a core forms is read through `formPacket_core`. -/
theorem coreEvents : Obligations.CoreEvents := by
  unfold Obligations.CoreEvents
  intro s core c hc
  refine ⟨fun hfree => ⟨fun slot x l sc hslot harms hsc => picks hc hfree hslot harms hsc, fun hno => picks_none hc hfree hno⟩,
    fun wk ts htrap => ?_, fun p b sc hp hb hsc hst hblk => progressWatchdog_exec hp hb hsc hst hblk,
    fun p rest k hon hk => localityPeriod_leaves hc hon hk⟩
  refine congrArg Host.Outcome.next ?_
  simp only [hc, htrap]

end

end Sys2Proof.Machine

/-! PROOF. Drains, placement, and the finaliser's answer. -/

namespace Sys2Proof.Machine

section
variable {s : State}

/-! ### What an event posted to a context leaves (R46) -/

/-- A context whose event ring holds one more event. -/
def Ctx.nextEvent (c : Ctx) : Ctx := { c with evw := (c.evw + 1) % 2 ^ 21 }

section
variable {R : State → State → Prop} (hR : MemRel R) (hvec : ∀ (s : State) v, R s (s.modM fun m => { m with vectors := v }))
include hR hvec

theorem MemRel.signal (ctx : Nat) (hsig : ∀ s : State, R s (s.modCtx ctx fun c => { c with signal := true })) (s : State) : R s (s.signal ctx) := by
  unfold State.signal
  split
  · exact hR.refl s
  · exact hR.trans (hsig s) (hvec _ _)

theorem MemRel.post (ctx : Nat) (hctx : ∀ (s : State) f, (∀ c, ((f c).id, (f c).st, (f c).drain, (f c).wantEnd, (f c).wantRestore) =
    (c.id, c.st, c.drain, c.wantEnd, c.wantRestore)) → R s (s.modCtx ctx f)) (s : State) (e : Event) : R s (s.post ctx e) := by
  have hint : R s (if e.src = 58 then s.interrupt else s) := by
    split
    · exact hvec s (s.m.vectors ++ [0])
    · exact hR.refl s
  unfold State.post
  generalize (if e.src = 58 then s.interrupt else s) = u at hint ⊢
  have hseq : R s (u.modCtx ctx (Ctx.bumpSeq · e.src)) := hR.trans hint (hctx u (Ctx.bumpSeq · e.src) fun _ => rfl)
  dsimp only
  split
  · exact hint
  · split
    · exact hR.trans hseq (hctx _ Ctx.loseEvent fun _ => rfl)
    · split
      · exact hR.trans hseq (hctx _ Ctx.loseEvent fun _ => rfl)
      · exact hR.trans hseq (hR.trans (hR.objWrite _ _ _ _ _) (hR.trans (hctx _ Ctx.nextEvent fun _ => rfl)
          (hR.signal hvec ctx (fun s => hctx s _ fun _ => rfl) _)))

end

/-! ### What a position that stops leaves of the others and of the contexts -/

/-- A position as it is discarded. -/
def Position.discarded (p : Position) : Position :=
  { p with st := .discarded, units := 0, lent := 0, drawn := 0, claims := [], stash := [], unfenced := [],
           loft := [], acc := [], wins := [], tags := p.tags.map CTag.cut, rings := p.rings.map fun _ => Ring.init,
           past := p.whole, blocks := p.blocks.map (·.discarded) }

/-- A position as it is held. -/
def Position.held (p : Position) : Position := { p.kept with st := .held }

section
variable {R : State → State → Prop} (hR : MemRel R) (ht : ∀ (s : State) (f : Stile → Stile), (f s.t).ctxs = s.t.ctxs → (f s.t).ports = s.t.ports → R s (s.modT f))
include hR

include ht in
theorem MemRel.cancelOp (s : State) (o : EngOp) : R s (s.cancelOp o) := by
  have hdrop : R s (s.dropOp o.id) := hR.calm s _ rfl rfl rfl
  unfold State.cancelOp
  dsimp only
  split
  · exact hR.trans hdrop (ht _ _ rfl rfl)
  · exact hR.trans hdrop (ht _ _ rfl rfl)
  · exact hR.trans hdrop (ht _ _ rfl rfl)
  · exact hR.trans hdrop (ht _ _ rfl rfl)
  · exact hdrop

include ht in
theorem MemRel.cancelOps (s : State) (pos : Nat) : R s (s.cancelOps pos) := by
  refine hR.foldl (fun s o => ?_) _ s
  split
  · exact hR.calm s _ rfl rfl rfl
  · exact hR.cancelOp ht s o

theorem MemRel.writeBackAll (s : State) (pos : Nat) : R s (s.writeBackAll pos) := by
  unfold State.writeBackAll
  split
  · exact hR.refl s
  · exact hR.foldl (fun s l => hR.writeBack s _ _ _) _ s

include ht in
theorem MemRel.stopPos (s : State) (p : Position) : R s (s.stopPos p) := by
  unfold State.stopPos
  dsimp only
  refine hR.trans ?_ (ht _ _ rfl rfl)
  refine hR.trans ?_ (hR.cancelOps ht _ _)
  refine hR.trans ?_ (hR.raise _ _ _)
  refine hR.trans ?_ (hR.writeBackAll _ _)
  exact hR.trans (hR.calm s _ rfl rfl rfl) (hR.performReds _ _)

theorem MemRel.withdraw (s : State) (p : Position) : R s (s.withdraw p) := by
  unfold State.withdraw State.modGrid
  exact hR.trans (hR.calm s _ rfl rfl rfl) (hR.calm _ _ rfl rfl rfl)

include ht in
/-- A position that is discarded stops, and is then written down as discarded; one on no core is left. -/
theorem MemRel.discard (s : State) (pos : Nat) :
    (∃ p u, s.posOf pos = some p ∧ (p.st = .resident ∨ p.st = .stopping) ∧ R s u ∧ s.discard pos = u.modPos pos Position.discarded) ∨
      (s.discard pos = s ∧ ∀ p, s.posOf pos = some p → p.st ≠ .resident ∧ p.st ≠ .stopping) := by
  unfold State.discard
  split
  next hnone => exact .inr ⟨rfl, fun p hp => absurd (hnone.symm.trans hp) (by simp)⟩
  next p hp =>
    split
    next hst =>
      refine .inl ⟨p, _, hp, by simpa using hst, ?_, rfl⟩
      exact hR.trans (hR.stopPos ht s p) (hR.trans (hR.withdraw _ p) (hR.foldl (fun s b => hR.calm s _ rfl rfl rfl) p.blocks _))
    next hst => exact .inr ⟨rfl, fun q hq => by obtain rfl := Option.some.inj (hp.symm.trans hq); simpa using hst⟩

theorem MemRel.hold (s : State) (p : Position) : ∃ u, R s u ∧ s.hold p = u.modPos p.id Position.held :=
  ⟨_, hR.trans (hR.performReds s _) (hR.trans (hR.raise _ _ _) (hR.calm _ _ rfl rfl rfl)), rfl⟩

end

/-! ### Positions stop, and stay stopped -/

/-- What places a position: its number, its context and its life. -/
def State.places (s : State) : List (Nat × Nat × PosSt) := s.c.positions.map fun p => (p.id, p.ctx, p.st)

theorem places_blind : MemBlind State.places where
  mem _ _ h := congrArg (List.map _) h
  pos s i f hf := by
    simp only [State.places, State.modPos, State.modC_c, upd, List.map_map]
    refine List.map_congr_left fun p _ => ?_
    simp only [Function.comp]
    split
    · exact hf p
    · rfl
  free _ _ := rfl

/-- A life in which a position is on its core. -/
def PosSt.onCore (st : PosSt) : Bool := st == .resident || st == .stopping

/-- What a change of a position's place may do: it keeps number and context, and its life or is off its core. -/
def Stopping (f : Nat × Nat × PosSt → Nat × Nat × PosSt) : Prop :=
  ∀ x, (f x).1 = x.1 ∧ (f x).2.1 = x.2.1 ∧ ((f x).2.2 = x.2.2 ∨ (f x).2.2.onCore = false)

/-- From one state to another, positions stay what they are, or stop. -/
def Stops (s t : State) : Prop := ∃ f, Stopping f ∧ t.places = s.places.map f

theorem Stops.of_places {s t : State} (h : t.places = s.places) : Stops s t :=
  ⟨id, fun _ => ⟨rfl, rfl, .inl rfl⟩, by rw [h, List.map_id]⟩

theorem Stops.trans {s t u : State} (hst : Stops s t) (htu : Stops t u) : Stops s u := by
  obtain ⟨f, hf, hft⟩ := hst
  obtain ⟨g, hg, hgu⟩ := htu
  refine ⟨g ∘ f, fun x => ?_, by rw [hgu, hft, List.map_map]⟩
  obtain ⟨hid, hctx, hlife⟩ := hf x
  obtain ⟨hid', hctx', hlife'⟩ := hg (f x)
  refine ⟨hid'.trans hid, hctx'.trans hctx, ?_⟩
  rcases hlife' with h | h
  · exact hlife.imp (fun h' => h.trans h') fun h' => (congrArg PosSt.onCore h).trans h'
  · exact .inr h

theorem Stops.foldl {α : Type} {f : State → α → State} (hf : ∀ s a, Stops s (f s a)) (l : List α) (s : State) : Stops s (l.foldl f s) := by
  induction l generalizing s with
  | nil => exact .of_places rfl
  | cons a l ih => exact (hf s a).trans (ih _)

theorem Stops.ids {s t : State} (h : Stops s t) : t.places.map (·.1) = s.places.map (·.1) := by
  obtain ⟨f, hf, hft⟩ := h
  rw [hft, List.map_map]
  exact List.map_congr_left fun x _ => (hf x).1

/-- A change of a position that keeps its number and context and gives it a life. -/
def GivesLife (st : PosSt) (f : Position → Position) : Prop := ∀ p, ((f p).id, (f p).ctx, (f p).st) = (p.id, p.ctx, st)

theorem places_modPos {f : Position → Position} {st : PosSt} (hf : GivesLife st f) (s : State) (i : Nat) :
    (s.modPos i f).places = s.places.map fun x => if x.1 == i then (x.1, x.2.1, st) else x := by
  simp only [State.places, State.modPos, State.modC_c, upd, List.map_map]
  refine List.map_congr_left fun p _ => ?_
  simp only [Function.comp]
  split
  · exact hf p
  · rfl

theorem stops_modPos {f : Position → Position} {st : PosSt} (hf : GivesLife st f) (hst : st.onCore = false) (s : State) (i : Nat) :
    Stops s (s.modPos i f) := by
  refine ⟨_, fun x => ?_, places_modPos hf s i⟩
  split
  · exact ⟨rfl, rfl, .inr hst⟩
  · exact ⟨rfl, rfl, .inl rfl⟩

/-- No position of a number is on a core. -/
def State.off (s : State) (i : Nat) : Prop := ∀ x ∈ s.places, x.1 = i → x.2.2.onCore = false

theorem State.off.stops {s t : State} {i : Nat} (hi : s.off i) (hst : Stops s t) : t.off i := by
  obtain ⟨f, hf, hft⟩ := hst
  intro y hy hyi
  rw [hft] at hy
  obtain ⟨x, hx, rfl⟩ := List.mem_map.1 hy
  obtain ⟨hid, -, hlife⟩ := hf x
  have hoff := hi x hx (hid.symm.trans hyi)
  exact hlife.elim (fun h => (congrArg PosSt.onCore h).trans hoff) id

theorem off_modPos {f : Position → Position} {st : PosSt} (hf : GivesLife st f) (hst : st.onCore = false) (s : State) (i : Nat) :
    (s.modPos i f).off i := by
  intro y hy hyi
  rw [places_modPos hf] at hy
  obtain ⟨x, -, rfl⟩ := List.mem_map.1 hy
  by_cases hx : (x.1 == i) = true
  · rw [if_pos hx]
    exact hst
  · rw [if_neg hx] at hyi
    exact absurd (beq_iff_eq.2 hyi) hx

theorem onCore_iff {st : PosSt} : st.onCore = true ↔ st = .resident ∨ st = .stopping := by
  rw [PosSt.onCore, Bool.or_eq_true, beq_iff_eq, beq_iff_eq]

/-- Where the numbers of positions differ, the one at a number is found there. -/
theorem posOf_of_mem (hnd : (s.c.positions.map (·.id)).Nodup) {p : Position} (hp : p ∈ s.c.positions) : s.posOf p.id = some p := by
  obtain ⟨q, hq⟩ := Option.isSome_iff_exists.1 (List.find?_isSome.2 ⟨p, hp, beq_self_eq_true p.id⟩ : (s.posOf p.id).isSome = true)
  have hid : q.id = p.id := by simpa using List.find?_some (p := fun x : Position => x.id == p.id) hq
  rwa [show q = p from List.inj_on_of_nodup_map hnd (List.mem_of_find?_eq_some hq) hp hid] at hq

theorem places_ids (s : State) : s.places.map (·.1) = s.c.positions.map (·.id) := by
  rw [State.places, List.map_map]
  rfl

theorem discarded_life : GivesLife .discarded Position.discarded := fun _ => rfl

/-- A position that is told to be discarded is off its core. -/
theorem off_discard (hnd : (s.places.map (·.1)).Nodup) (i : Nat) : (s.discard i).off i := by
  rcases places_blind.rel.discard (fun _ _ _ _ => rfl) s i with ⟨p, u, -, -, -, heq⟩ | ⟨heq, hoff⟩
  · rw [heq]
    exact off_modPos discarded_life rfl u i
  · rw [heq]
    rintro x hx rfl
    obtain ⟨p, hp, rfl⟩ := List.mem_map.1 hx
    obtain ⟨hr, hs⟩ := hoff p (posOf_of_mem (by rwa [← places_ids]) hp)
    exact Bool.eq_false_iff.2 fun h => (onCore_iff.1 h).elim hr hs

theorem stops_discard (s : State) (i : Nat) : Stops s (s.discard i) := by
  rcases places_blind.rel.discard (fun _ _ _ _ => rfl) s i with ⟨p, u, -, -, hu, heq⟩ | ⟨heq, -⟩
  · rw [heq]
    exact (Stops.of_places hu).trans (stops_modPos discarded_life rfl u i)
  · rw [heq]
    exact .of_places rfl

/-- Discarding positions one after the other takes each of them off its core. -/
theorem off_discards (l : List Position) (hnd : (s.places.map (·.1)).Nodup) : ∀ p ∈ l, (l.foldl (fun s p => s.discard p.id) s).off p.id := by
  induction l generalizing s with
  | nil => exact fun p hp => absurd hp List.not_mem_nil
  | cons q l ih =>
    have hnd' : ((s.discard q.id).places.map (·.1)).Nodup := by rwa [(stops_discard s q.id).ids]
    intro p hp
    rcases List.mem_cons.1 hp with rfl | hp
    · exact (off_discard hnd p.id).stops (Stops.foldl (fun s p => stops_discard s p.id) l _)
    · exact ih hnd' p hp

/-! ### The saves of a context -/

theorem held_life : GivesLife .held Position.held := fun _ => rfl

theorem stops_savePos (s : State) (p : Position) : Stops s (s.savePos p) := by
  unfold State.savePos
  split
  · exact stops_discard s p.id
  · split
    · obtain ⟨u, hu, heq⟩ := places_blind.rel.hold s p
      rw [heq]
      exact (Stops.of_places hu).trans (stops_modPos held_life rfl u p.id)
    · exact .of_places rfl

theorem stops_saves (s : State) : Stops s s.saves := Stops.foldl (fun s p => stops_savePos s p) _ s

theorem ctxs_blind : MemBlind fun s : State => s.t.ctxs := .of_c (fun _ _ => rfl) fun _ _ => rfl

theorem discard_ctxs (s : State) (i : Nat) : (s.discard i).t.ctxs = s.t.ctxs := by
  rcases ctxs_blind.rel.discard (fun _ _ h _ => h) s i with ⟨p, u, -, -, hu, heq⟩ | ⟨heq, -⟩
  · rw [heq]
    exact hu
  · rw [heq]

theorem savePos_ctxs (s : State) (p : Position) : (s.savePos p).t.ctxs = s.t.ctxs := by
  unfold State.savePos
  split
  · exact discard_ctxs s p.id
  · split
    · obtain ⟨u, hu, heq⟩ := ctxs_blind.rel.hold s p
      rw [heq]
      exact hu
    · rfl

theorem saves_ctxs (s : State) : s.saves.t.ctxs = s.t.ctxs :=
  foldl_unseen (σ := State) (f := State.savePos) (fun s => s.t.ctxs) (fun s p => savePos_ctxs s p) _ s

/-- The life of a context, the end of its drain and what waits for the end of its save. -/
def State.lifeOf (s : State) (ctx : Nat) : Option (CtxSt × Option Nat × Bool × Bool) :=
  (s.ctxOf ctx).map fun c => (c.st, c.drain, c.wantEnd, c.wantRestore)

theorem lifeOf_modCtx {f : Ctx → Ctx} (hf : ∀ c, ((f c).id, (f c).st, (f c).drain, (f c).wantEnd, (f c).wantRestore) =
    (c.id, c.st, c.drain, c.wantEnd, c.wantRestore)) (s : State) (i n : Nat) : (s.modCtx i f).lifeOf n = s.lifeOf n := by
  have hid : ∀ c, (f c).id = c.id := fun c => congrArg Prod.fst (hf c)
  rw [State.lifeOf, ctxOf_modCtx_any hid, Option.map_map]
  refine congrArg (fun g => Option.map g (s.ctxOf n)) (funext fun c => ?_)
  simp only [Function.comp]
  split
  · exact congrArg Prod.snd (hf c)
  · rfl

/-- A context as its save ends. -/
def Ctx.saved (c : Ctx) : Ctx := { c with st := .saved, drain := none }

theorem endSave_saved {ctx : Nat} {c : Ctx} (hc : s.ctxOf ctx = some c) (hend : c.wantEnd = false) (hres : c.wantRestore = false) :
    ∃ d, (s.endSave ctx).ctxOf ctx = some d ∧ d.st = .saved ∧ d.drain = none ∧ (s.endSave ctx).places = s.places := by
  have hlife : ((s.modCtx ctx Ctx.saved).post ctx { src := 58, kind := 8 }).lifeOf ctx = some (.saved, none, false, false) := by
    refine ((MemBlind.of_c (view := (·.lifeOf ctx)) (fun _ _ => rfl) fun _ _ => rfl).rel.post (fun _ _ => rfl) ctx
      (fun s f hf => lifeOf_modCtx hf s ctx ctx) _ _).trans ?_
    rw [State.lifeOf, ctxOf_modCtx (f := Ctx.saved) (fun _ => rfl) hc, Option.map_some, Ctx.saved, hend, hres]
  have hplaces : ((s.modCtx ctx Ctx.saved).post ctx { src := 58, kind := 8 }).places = s.places :=
    places_blind.rel.post (fun _ _ => rfl) ctx (fun _ _ _ => rfl) _ _
  obtain ⟨d, hd, hflags⟩ := Option.map_eq_some_iff.1 hlife
  simp only [Prod.mk.injEq] at hflags
  obtain ⟨hst, hdrain, hwe, hwr⟩ := hflags
  have heq : s.endSave ctx = (s.modCtx ctx Ctx.saved).post ctx { src := 58, kind := 8 } := by
    have hsaved : (fun c : Ctx => { c with st := .saved, drain := none }) = Ctx.saved := rfl
    rw [State.endSave, hsaved, hd]
    exact (if_neg (by simp [hwe])).trans (if_neg (by simp [hwr]))
  rw [heq]
  exact ⟨d, hd, hst, hdrain, hplaces⟩

/-- The state in which a save ends: every position is held, or discarded as the drain runs out. -/
def State.drained (s : State) (ctx due : Nat) : State :=
  (s.saves.placedOf ctx).foldl (fun s p => s.discard p.id) (if (s.saves.placedOf ctx).isEmpty then s.saves else s.saves.at due)

theorem drained_ctxs (s : State) (ctx due : Nat) : (s.drained ctx due).t.ctxs = s.t.ctxs := by
  refine (foldl_unseen (σ := State) (fun s => s.t.ctxs) (fun s (p : Position) => discard_ctxs s p.id) _ _).trans ?_
  split
  · exact saves_ctxs s
  · exact saves_ctxs s

/-- Once its drain is over, a context has no position on a core. -/
theorem drained_off (hnd : (s.c.positions.map (·.id)).Nodup) {ctx due : Nat} : ∀ x ∈ (s.drained ctx due).places, x.2.1 = ctx → x.2.2.onCore = false := by
  have hplaces : (if (s.saves.placedOf ctx).isEmpty then s.saves else s.saves.at due).places = s.saves.places := by
    split <;> rfl
  have hstops : Stops s.saves (s.drained ctx due) := (Stops.of_places hplaces).trans (Stops.foldl (fun s (p : Position) => stops_discard s p.id) _ _)
  have hnd' : (s.saves.places.map (·.1)).Nodup := by rwa [(stops_saves s).ids, places_ids]
  obtain ⟨f, hf, hft⟩ := hstops
  intro y hy hctx
  have hy' := hy
  rw [hft] at hy
  obtain ⟨x, hx, rfl⟩ := List.mem_map.1 hy
  obtain ⟨p, hp, rfl⟩ := List.mem_map.1 hx
  obtain ⟨hid, hctx', hlife⟩ := hf (p.id, p.ctx, p.st)
  rcases hlife with hlife | hlife
  · by_cases hon : p.st.onCore = true
    · have hplaced : p ∈ s.saves.placedOf ctx := by
        refine List.mem_filter.2 ⟨hp, ?_⟩
        rw [Bool.and_eq_true, beq_iff_eq]
        exact ⟨hctx'.symm.trans hctx, hon⟩
      exact off_discards _ (by rwa [hplaces]) p hplaced _ hy' hid
    · exact (congrArg PosSt.onCore hlife).trans (Bool.eq_false_iff.2 hon)
  · exact hlife

theorem saveDrainExpiry_leaves {ctx : Nat} {c : Ctx} {due : Nat} (hc : s.ctxOf ctx = some c) (hdue : c.drain = some due)
    (hend : c.wantEnd = false) (hres : c.wantRestore = false) (hnd : (s.c.positions.map (·.id)).Nodup) :
    ∃ t d, exec (.saveDrainExpiry ctx) s = .next t ∧ t.ctxOf ctx = some d ∧ d.st = .saved ∧ d.drain = none ∧
      ∀ p ∈ t.c.positions, p.ctx = ctx → p.st ≠ .resident ∧ p.st ≠ .stopping := by
  have hexec : exec (.saveDrainExpiry ctx) s = .next ((s.drained ctx due).endSave ctx) := by
    refine congrArg Host.Outcome.next ?_
    simp only [hc, Option.bind_some, hdue]
    rfl
  have hctx : (s.drained ctx due).ctxOf ctx = some c := (congrArg (fun l : List Ctx => l.find? fun c : Ctx => c.id == ctx) (drained_ctxs s ctx due)).trans hc
  obtain ⟨d, hd, hst, hdrain, hplaces⟩ := endSave_saved hctx hend hres
  refine ⟨_, d, hexec, hd, hst, hdrain, fun p hp hpc => ?_⟩
  have hmem : (p.id, p.ctx, p.st) ∈ (s.drained ctx due).places := by
    rw [← hplaces]
    exact List.mem_map_of_mem hp
  have hoff := drained_off hnd _ hmem hpc
  exact ⟨fun h => Bool.eq_false_iff.1 hoff (onCore_iff.2 (.inl h)), fun h => Bool.eq_false_iff.1 hoff (onCore_iff.2 (.inr h))⟩

/-! ### The other drains, and the scrub of a cluster -/

theorem stopDrainExpiry_exec {pad : Nat} {p : Paddock} (hp : s.padOf pad = some p) (hst : p.st = .stopping) (hnone : s.placedIn pad = [])
    (hwant : p.wantLive = false) : exec (.stopDrainExpiry pad) s = .next (s.modPad pad fun p => { p with st := .stopped, drain := none }) := by
  refine congrArg Host.Outcome.next ?_
  simp only [hp]
  refine (if_neg (by simp [hst])).trans ((if_neg (by simp [hwant])).trans ?_)
  rw [hnone]
  rfl

theorem revocationDrainExpiry_exec {k : Nat} {r : Revoke} {due : Nat} (hr : s.m.revokes.find? (·.cluster == k) = some r) (hd : r.drain = some due) :
    exec (.revocationDrainExpiry k) s = .next ((if (s.onCluster r.user k).isEmpty then s
      else (s.onCluster r.user k).foldl (fun s p => s.discard p.id) (s.at due)).modM fun m =>
        { m with revokes := upd (·.cluster == k) (fun r => { r with drain := none }) m.revokes }) := by
  refine congrArg Host.Outcome.next ?_
  simp only [hr, hd]

theorem coreRemovalDrainExpiry_exec {core : Nat} {d : Nat × Nat} (hd : s.m.coreDrain.find? (·.1 == core) = some d) (hnone : s.posOn core = []) :
    exec (.coreRemovalDrainExpiry core) s = .next (s.modM fun m => { m with coreDrain := m.coreDrain.filter (·.1 != core) }) := by
  refine congrArg Host.Outcome.next ?_
  simp only [hd, hnone]
  rfl

/-- What the scrub of a cluster changes of the package: the revocations, and what is borrowed. -/
def State.lent (s : State) : List Revoke × List (Nat × Nat) := (s.m.revokes, s.m.borrowed)

theorem endPad_lent (s : State) (p : Paddock) : (s.endPad p).lent = s.lent := by
  have hlost : ((List.range 4).foldl (fun s k => s.loseLines p.id k) s).lent = s.lent := foldl_unseen (σ := State) (f := fun s k => s.loseLines p.id k) State.lent
    (fun s k => loseLines_unseen State.lent (fun _ _ => rfl) (fun _ _ => rfl) (fun _ _ => rfl) s p.id k) (List.range 4) s
  unfold State.endPad
  generalize (List.range 4).foldl (fun s k => s.loseLines p.id k) s = s1 at hlost ⊢
  exact hlost

theorem sweepPads_lent (s : State) : s.sweepPads.lent = s.lent := by
  refine foldl_unseen (σ := State) State.lent (fun s p => ?_) _ s
  split
  · exact endPad_lent s _
  · rfl

theorem scrubComplete_leaves {k : Nat} {r : Revoke} (hr : s.m.revokes.find? (·.cluster == k) = some r) (hd : r.drain = none) :
    ∃ t, exec (.scrubComplete k) s = .next t ∧ (∀ x ∈ t.m.revokes, x.cluster ≠ k) ∧ (k, r.user) ∉ t.m.borrowed := by
  have hscrub : s.scrubbed k = (s.clearTlb k).modM fun m => { m with revokes := m.revokes.filter (·.cluster != k)
                                                                     borrowed := m.borrowed.filter fun x => !(x.1 == k && x.2 == r.user) } := by
    simp only [State.scrubbed, hr, hd]
    rfl
  have hsweep := sweepPads_lent (s.scrubbed k)
  obtain ⟨hrev, hbor⟩ := Prod.mk.inj hsweep
  refine ⟨(s.scrubbed k).sweepPads, rfl, fun x hx => ?_, fun hmem => ?_⟩
  · rw [hrev, hscrub] at hx
    simpa using (List.mem_filter.1 hx).2
  · rw [hbor, hscrub] at hmem
    simpa using (List.mem_filter.1 hmem).2

/-! ### A key slot rewrapped (R397) -/

/-- A paddock once one of its slots is rewrapped. -/
def Paddock.rewrapped (slot : Nat) (p : Paddock) : Paddock :=
  { p.modKey slot (fun k => { k with st := .empty }) with rewrap := p.rewrap.filter (· != slot) }

/-- The key of a line, once a slot's lines stand under another. -/
def rekey (pad slot a : Nat) (x : Nat × Nat × Nat) : Nat × Nat × Nat := if x.2.1 == pad && x.2.2 == slot then (x.1, pad, a) else x

theorem activeKey_active {p : Paddock} {dom a : Nat} (ha : p.activeKey dom = some a) : ∃ k, p.keys[a]? = some k ∧ k.st = .active := by
  obtain ⟨x, hx, rfl⟩ := Option.map_eq_some_iff.1 ha
  have hst := List.find?_some (p := fun k : KeySlot × Nat => k.1.st == .active && k.1.dom == dom) hx
  exact ⟨x.1, List.mem_zipIdx_iff_getElem?.1 (List.mem_of_find?_eq_some hx), by simpa using (Bool.and_eq_true_iff.1 hst).1⟩

theorem rewrapDone_exec {pad slot a : Nat} {p : Paddock} {k : KeySlot} (hp : s.padOf pad = some p) (hk : p.keys[slot]? = some k)
    (hst : k.st = .old) (ha : p.activeKey k.dom = some a) (hin : p.rewrap.contains slot = true) :
    exec (.rewrapDone pad slot) s = .next (((if k.dom = 0 then s.rewrapStile pad slot a else s).modC fun c =>
      { c with lineKey := c.lineKey.map (rekey pad slot a) }).modPad pad (Paddock.rewrapped slot)) := by
  refine congrArg Host.Outcome.next ?_
  simp only [hp, hk, ha]
  exact if_pos (by rw [hin, hst]; rfl)

theorem rewrapDone_leaves {pad slot a : Nat} {p : Paddock} {k : KeySlot} (hp : s.padOf pad = some p) (hk : p.keys[slot]? = some k)
    (hst : k.st = .old) (ha : p.activeKey k.dom = some a) (hin : p.rewrap.contains slot = true) :
    ∃ t q x, exec (.rewrapDone pad slot) s = .next t ∧ t.padOf pad = some q ∧ q.keys[slot]? = some x ∧ x.st = .empty ∧
      t.c.mem = s.c.mem ∧ (∀ y ∈ t.c.lineKey, ¬ (y.2.1 = pad ∧ y.2.2 = slot)) ∧
      ∀ l, (l, pad, slot) ∈ s.c.lineKey → (l, pad, a) ∈ t.c.lineKey := by
  have hne : a ≠ slot := by
    rintro rfl
    obtain ⟨k', hk', hact⟩ := activeKey_active ha
    rw [hk] at hk'
    rw [Option.some.inj hk', hact] at hst
    cases hst
  have hstile : (if k.dom = 0 then s.rewrapStile pad slot a else s).c = s.c ∧
      (if k.dom = 0 then s.rewrapStile pad slot a else s).padOf pad = s.padOf pad := by
    split <;> exact ⟨rfl, rfl⟩
  obtain ⟨hc, hpad⟩ := hstile
  refine ⟨_, p.rewrapped slot, { k with st := .empty }, rewrapDone_exec hp hk hst ha hin, ?_, ?_, rfl, (congrArg (fun c : Compute => c.mem) hc :), ?_, ?_⟩
  · rw [padOf_modPad (f := Paddock.rewrapped slot) (fun _ => rfl)]
    exact (congrArg (Option.map _) (hpad.trans hp)).trans rfl
  · refine modKey_keys.trans ?_
    rw [hk, Option.map_some, if_pos rfl]
  · intro y hy hkey
    obtain ⟨x, -, rfl⟩ := List.mem_map.1 hy
    unfold rekey at hkey
    split at hkey
    · exact hne hkey.2
    · rename_i hx
      exact hx (by simp [hkey])
  · intro l hl
    refine List.mem_map.2 ⟨(l, pad, slot), by rw [hc]; exact hl, ?_⟩
    exact if_pos (by simp)

/-! ### Placement, and faults that stay unresolved -/

section
variable {ctx grid : Nat} {c : Ctx} {g : Grid} {pd : Paddock} {k : Kernel} (hc : s.ctxOf ctx = some c) (hg : s.gridOf ctx grid = some g)
  (hpd : s.padOf (s.padOfCtx ctx) = some pd) (hlive : g.live = true) (hst : pd.st = .live) (hk : s.kernel? g = some k) (hcst : c.st = .live)
include hc hg hpd hlive hst hk hcst

theorem instancePlacement_next (hnone : (s.c.positions.filter fun p => p.ctx == ctx && p.grid == grid && p.waits) = [])
    (hdis : s.someDiscarded pd.id = false) : exec (.instancePlacement ctx grid) s = .next (s.placeNext k g c pd) := by
  refine congrArg Host.Outcome.next ?_
  simp only [hc, hg, hpd, hk, hnone]
  exact (if_neg (by simp [hlive, hst])).trans (if_neg (by simp [Ctx.runs, hcst, hdis]))

theorem instancePlacement_again {p : Position} (hone : (s.c.positions.filter fun p => p.ctx == ctx && p.grid == grid && p.waits) = [p])
    (hheld : p.st ≠ .held) : exec (.instancePlacement ctx grid) s = .next (s.replace k g c pd p) := by
  refine congrArg Host.Outcome.next ?_
  simp only [hc, hg, hpd, hk, hone]
  exact (if_neg (by simp [hlive, hst])).trans ((if_neg (by simp [hcst])).trans ((if_neg (by simp [Ctx.runs, hcst])).trans
    (if_neg (by simpa using hheld))))

end

theorem faultServiceTimeout_exec {ctx fid : Nat} {f : FaultRec} (hf : s.faultOf ctx fid = some f) :
    exec (.faultServiceTimeout ctx fid) s = .next ((s.at f.due).resolve ctx f true) := by
  refine congrArg Host.Outcome.next ?_
  simp only [hf]

/-! ### The finaliser's answer (R282) -/

theorem codes_blind : MemBlind fun s : State => s.t.codes := .of_c (fun _ _ => rfl) fun _ _ => rfl

theorem makeObject_codes (s : State) (ctx id : Nat) (exo wr : Bool) (bs : List Byte) : (s.makeObject ctx id exo wr bs).t.codes = s.t.codes :=
  (codes_blind.rel.stampKey _ _ _ _).trans (codes_blind.rel.devWrite _ _ _)

theorem makeData_codes (ctx : Nat) (l : List (List Byte)) (s : State) : (s.makeData ctx l).1.t.codes = s.t.codes := by
  induction l generalizing s with
  | nil => rfl
  | cons bs l ih =>
    unfold State.makeData
    split
    · exact ih s
    · exact (ih _).trans (makeObject_codes _ _ _ _ _ _)

theorem codeOf_key {ctx obj : Nat} {x : Code} (hx : s.codeOf ctx obj = some x) : x.ctx = ctx ∧ x.id = obj := by
  simpa using List.find?_some (p := fun c : Code => c.ctx == ctx && c.id == obj) hx

theorem codeOf_modCode {ctx obj : Nat} {f : Code → Code} (hf : ∀ x : Code, x.ctx = ctx → x.id = obj → (f x).ctx = ctx ∧ (f x).id = obj) :
    (s.modCode ctx obj f).codeOf ctx obj = (s.codeOf ctx obj).map f := by
  refine find?_map_upd (p := fun c : Code => c.ctx == ctx && c.id == obj) (fun x hx => ?_) _
  simpa using hf x (by simp at hx; exact hx.1) (by simp at hx; exact hx.2)

/-- A code object as it is installed. -/
def Code.install (f : Finalised) (data : List Nat) (x : Code) : Code :=
  { x with st := .installed, kernels := f.kernels, data := data, image := [] }

theorem install_codeOf {ctx obj : Nat} {x : Code} {f : Finalised} (hx : s.codeOf ctx obj = some x) (hreq : x.removeReq = false) :
    (s.install x f).codeOf ctx obj = some (x.install f (s.makeData x.ctx f.data).2) := by
  obtain ⟨rfl, rfl⟩ := codeOf_key hx
  have hcodes : ((s.makeData x.ctx f.data).1.makeObject x.ctx x.id true false f.code).t.codes = s.t.codes :=
    (makeObject_codes _ _ _ _ _ _).trans (makeData_codes _ _ _)
  have hkept : ((s.makeData x.ctx f.data).1.makeObject x.ctx x.id true false f.code).codeOf x.ctx x.id = some x :=
    (congrArg (fun l : List Code => l.find? fun c : Code => c.ctx == x.ctx && c.id == x.id) hcodes).trans hx
  refine (congrArg (State.codeOf · x.ctx x.id) (if_neg (by simp [hreq]))).trans ?_
  refine (codeOf_modCode (f := fun _ => x.install f (s.makeData x.ctx f.data).2) fun _ _ _ => ⟨rfl, rfl⟩).trans ?_
  exact congrArg (Option.map _) hkept

/-- A link whose load of a code object is answered. -/
def Link.answer (ctx obj : Nat) (r : Reply) (l : Link) : Link :=
  if l.busy == some (1, ctx, obj) then { l with busy := some (r.status, r.cause, r.result) } else l

/-- What the refusal of a container leaves: the code objects, the links and the lives of contexts that an event does not touch. -/
def State.answered (ctx : Nat) (s : State) : List Code × List Link × Option (CtxSt × Option Nat × Bool × Bool) :=
  (s.t.codes, s.m.links, s.lifeOf ctx)

/-- The machine once a container is refused and its loads are answered. -/
def State.refuse (s : State) (ctx obj : Nat) (r : BitVec 128) : State :=
  (s.modT fun t => { t with codes := t.codes.filter fun y => !(y.ctx == ctx && y.id == obj) }).answerLoads ctx obj (.loadError (r.toNat % 256))

theorem post_answered (ctx : Nat) (s : State) (e : Event) : (s.post ctx e).answered ctx = s.answered ctx := by
  have hblind : MemBlind (State.answered ctx) := .of_c (fun _ _ => rfl) fun _ _ => rfl
  refine hblind.rel.post (fun _ _ => rfl) ctx (fun s f hf => ?_) s e
  rw [State.answered, lifeOf_modCtx hf]
  rfl

section
variable {ctx obj : Nat} {x : Code} {c : Ctx} (hx : s.codeOf ctx obj = some x) (hst : x.st = .checking)
include hx hst

theorem finaliseComplete_ok {f : Finalised} (hf : finalise x.image = .ok f) : exec (.finaliseComplete ctx obj) s = .next (s.install x f) := by
  refine congrArg Host.Outcome.next ?_
  simp only [hx]
  refine (if_neg (by simp [hst])).trans ?_
  rw [hf]

theorem finaliseComplete_error {r : BitVec 128} (hf : finalise x.image = .error r) : exec (.finaliseComplete ctx obj) s = .next
    (((s.refuse ctx obj r).post ctx { src := 0, kind := 1, detail := r.toNat }).retireCtx ctx) := by
  refine congrArg Host.Outcome.next ?_
  simp only [hx]
  refine (if_neg (by simp [hst])).trans ?_
  rw [hf]
  rfl

theorem refused_leaves (hc : s.ctxOf ctx = some c) (hlive : c.st = .live) {r : BitVec 128} (hf : finalise x.image = .error r) :
    ∃ t, exec (.finaliseComplete ctx obj) s = .next t ∧
      t.codeOf ctx obj = none ∧ ∀ (i : Nat) (l : Link), s.m.links[i]? = some l → l.busy = some (1, ctx, obj) →
        t.m.links[i]? = some { l with busy := some (8, r.toNat % 256, 0) } := by
  have hpost := post_answered ctx (s.refuse ctx obj r) { src := 0, kind := 1, detail := r.toNat }
  obtain ⟨hcodes, hrest⟩ := Prod.mk.inj hpost
  obtain ⟨hlinks, hlife⟩ := Prod.mk.inj hrest
  have hlife' : (s.refuse ctx obj r).lifeOf ctx = some (c.st, c.drain, c.wantEnd, c.wantRestore) := congrArg (Option.map _) hc
  obtain ⟨d, hd, hdst⟩ := Option.map_eq_some_iff.1 (hlife.trans hlife')
  have hretire := retireCtx_live hd ((congrArg (·.1) hdst).trans hlive)
  refine ⟨_, (finaliseComplete_error hx hst hf).trans (congrArg _ hretire), ?_, fun i l hl hbusy => ?_⟩
  · rw [State.codeOf, hcodes]
    refine List.find?_eq_none.2 fun y hy hkey => ?_
    simpa [hkey] using (List.mem_filter.1 hy).2
  · rw [hlinks]
    have hmap : (s.refuse ctx obj r).m.links[i]? = (s.m.links[i]?).map (Link.answer ctx obj (.loadError (r.toNat % 256))) :=
      List.getElem?_map
    rw [hmap, hl, Option.map_some, Link.answer, if_pos (by simp [hbusy])]
    rfl

end

/-- Settles O49: the drains through what a stopped position leaves of the others (`Stops`), the finaliser's answer through the links it answers. -/
theorem drainsAndPlacement : Obligations.DrainsAndPlacement := by
  unfold Obligations.DrainsAndPlacement
  refine ⟨fun s => ⟨?_, ?_, ?_, ?_, ?_, ?_, ?_, ?_⟩, fun s ctx obj x c hx hst hc hlive => ⟨fun f hf hreq => ?_, fun r hr => ?_⟩⟩
  · exact fun ctx c due hc hdue hend hres hnd => saveDrainExpiry_leaves hc hdue hend hres hnd
  · exact fun pad p hp hst hnone hwant => stopDrainExpiry_exec hp hst hnone hwant
  · intro k r due hr hd
    refine ⟨fun hnone => (revocationDrainExpiry_exec hr hd).trans ?_, fun hsome => (revocationDrainExpiry_exec hr hd).trans ?_⟩
    · rw [hnone]
      rfl
    · rw [if_neg (by simpa using hsome)]
  · exact fun core d hd hnone => coreRemovalDrainExpiry_exec hd hnone
  · exact fun k r hr hd => scrubComplete_leaves hr hd
  · exact fun pad slot a p k hp hk hst ha hin => rewrapDone_leaves hp hk hst ha hin
  · exact fun ctx grid c g pd k hc hg hpd hlive hst hk hcst => ⟨fun hnone hdis => instancePlacement_next hc hg hpd hlive hst hk hcst hnone hdis,
      fun p hone hheld => instancePlacement_again hc hg hpd hlive hst hk hcst hone hheld⟩
  · exact fun ctx fid f hf => faultServiceTimeout_exec hf
  · exact ⟨_, _, finaliseComplete_ok hx hst hf, install_codeOf hx hreq, rfl, rfl⟩
  · exact refused_leaves hx hst hc hlive hr

end

end Sys2Proof.Machine

/-! PROOF. Port states and units that fail. -/

namespace Sys2Proof.Machine

/-- What the bookkeeping of a port's flits leaves of it: its number, its state and its lanes. -/
def Port.status (x : Port) : Nat × PortSt × BitVec 8 := (x.id, x.st, x.lanes)

/-- What the bookkeeping of grids and events leaves of the management processor's tables. -/
def Mgmt.units (m : Mgmt) : List Paddock × List Nat × List Nat × List (Nat × Nat × Nat) := (m.paddocks, m.retired, m.diesOut, m.chansOut)

/-- A relation between states that the bookkeeping of events, grids, tags, ports and queues keeps, and every part of a write of memory. -/
structure Moves (R : State → State → Prop) : Prop extends MemRel R where
  comp : ∀ (s : State) (f : Compute → Compute), (f s.c).mem = s.c.mem →
    (∀ p ∈ (f s.c).positions, p.stash = [] ∨ ∃ q ∈ s.c.positions, q.stash = p.stash) → R s (s.modC f)
  stile : ∀ (s : State) (f : Stile → Stile), (f s.t).ports.map Port.status = s.t.ports.map Port.status → R s (s.modT f)
  mgmt : ∀ (s : State) (f : Mgmt → Mgmt), (f s.m).units = s.m.units → R s (s.modM f)
  next : ∀ (s : State) n, R s { s with nextId := n }

/-- A view that shows nothing of the clusters and of the counters, of the ports only their status, and of the management processor only the
tables of its units. -/
theorem Moves.of_view {β : Type} {view : State → β} (hc : ∀ (s : State) c, view { s with c := c } = view s)
    (hfree : ∀ (s : State) n, view { s with free := n } = view s) (hnext : ∀ (s : State) n, view { s with nextId := n } = view s)
    (ht : ∀ (s : State) (f : Stile → Stile), (f s.t).ports.map Port.status = s.t.ports.map Port.status → view (s.modT f) = view s)
    (hm : ∀ (s : State) (f : Mgmt → Mgmt), (f s.m).units = s.m.units → view (s.modM f) = view s) : Moves fun s t => view t = view s where
  toMemRel := (MemBlind.of_c hc hfree).rel
  comp s _ _ _ := hc s _
  stile s f h := ht s f h
  mgmt s f h := hm s f h
  next s n := hnext s n

theorem keepPast_kept (c : Compute) (p : Position) : ((c.keepPast p).mem, (c.keepPast p).positions) = (c.mem, c.positions) := by
  unfold Compute.keepPast
  split <;> rfl

/-- Positions kept for operations that outlive them leave memory and the positions as they are. -/
theorem keepPasts_kept (l : List Position) (c : Compute) : (l.foldl Compute.keepPast c).mem = c.mem ∧ (l.foldl Compute.keepPast c).positions =
    c.positions :=
  Prod.mk.inj (foldl_unseen (σ := Compute) (f := Compute.keepPast) (fun c => (c.mem, c.positions)) (fun c p => keepPast_kept c p) l c)

namespace Moves

section
variable {R : State → State → Prop} (hR : Moves R)
include hR

/-! ### Positions, contexts, tags -/

theorem pos (s : State) (i : Nat) {f : Position → Position} (hf : ∀ p, (f p).stash = p.stash) : R s (s.modPos i f) := by
  refine hR.comp s _ rfl fun p hp => ?_
  obtain ⟨q, hq, rfl⟩ := List.mem_map.1 hp
  refine .inr ⟨q, hq, ?_⟩
  split
  · exact (hf q).symm
  · rfl

theorem same (s : State) (f : Compute → Compute) (hm : (f s.c).mem = s.c.mem) (hp : (f s.c).positions = s.c.positions) : R s (s.modC f) :=
  hR.comp s f hm fun p h => .inr ⟨p, hp ▸ h, rfl⟩

theorem ctx (s : State) (i : Nat) (f : Ctx → Ctx) : R s (s.modCtx i f) := hR.stile s _ rfl

theorem post (s : State) (c : Nat) (e : Event) : R s (s.post c e) :=
  hR.toMemRel.post (fun s _ => hR.mgmt s _ rfl) c (fun s f _ => hR.ctx s c f) s e

theorem postPad (s : State) (pad : Nat) (e : Event) : R s (s.postPad pad e) := hR.foldl (fun s c => hR.post s c e) _ s

theorem stopPos (s : State) (p : Position) : R s (s.stopPos p) := hR.toMemRel.stopPos (fun s f _ h => hR.stile s f (congrArg _ h)) s p

theorem completeTag (s : State) (i tag : Nat) (c : Option Cause) : R s (s.completeTag i tag c) := hR.pos s i fun _ => rfl

theorem dropOp (s : State) (i : Nat) : R s (s.dropOp i) := hR.same s _ rfl rfl

theorem finishOp (s : State) (o : EngOp) (c : Option Cause) : R s (s.finishOp o c) :=
  hR.after (hR.dropOp _ _) (hR.foldl (fun s t => hR.completeTag s o.pos t c) _ s)

/-! ### Queues and code objects -/

theorem putSlot (s : State) (q : Nat) (x : QSlot) : R s (s.putSlot q x) := by
  unfold State.putSlot
  split
  · exact hR.refl s
  · exact hR.after (hR.objWrite _ _ _ _ _) (hR.stile s _ rfl)

theorem faultTask (s : State) (q slot : Nat) (c : Cause) : R s (s.faultTask q slot c) := by
  unfold State.faultTask
  split
  · exact hR.refl s
  · split
    · exact hR.refl s
    · exact hR.after (hR.post _ _ _) (hR.putSlot _ _ _)

theorem withholdIds (s : State) (i : Nat) (ids : List Nat) : R s (s.withholdIds i ids) := by
  unfold State.withholdIds
  dsimp only
  split
  · exact hR.refl s
  · exact hR.ctx s i _

theorem retireCtx (s : State) (i : Nat) : R s (s.retireCtx i) := by
  unfold State.retireCtx
  split
  · split
    · exact hR.after (hR.stile _ _ rfl) (hR.ctx s i _)
    · exact hR.refl s
  · exact hR.refl s

theorem retireCode (s : State) (i code : Nat) : R s (s.retireCode i code) := by
  unfold State.retireCode
  split
  · split
    · exact hR.after (hR.withholdIds _ i _) (hR.after (hR.ctx _ i _) (hR.stile s _ rfl))
    · exact hR.refl s
  · exact hR.refl s

theorem retireQueues (s : State) : R s s.retireQueues := hR.stile s _ rfl

/-! ### A grid ends -/

theorem grid (s : State) (i g : Nat) (f : Grid → Grid) : R s (s.modGrid i g f) := hR.same s _ rfl rfl

theorem closeGrid (s : State) (i g : Nat) : R s (s.closeGrid i g) := by
  unfold State.closeGrid
  split
  · exact hR.refl s
  · refine hR.after (hR.retireCtx _ i) (hR.after (hR.retireCode _ i _) (hR.after (hR.ctx _ i _) (hR.after (hR.grid _ i g _)
      (hR.after (hR.comp _ _ ?_ fun p hp => ?_) (hR.after (hR.raise _ _ _) (hR.performReds s _))))))
    · exact (keepPasts_kept _ _).1
    · obtain ⟨hin, -⟩ := List.mem_filter.1 hp
      exact .inr ⟨p, (keepPasts_kept _ _).2 ▸ hin, rfl⟩

theorem drawWord (s : State) : R s s.drawWord.2 := hR.free s _

theorem endFatal (s : State) (i g : Nat) (c : Cause) (w : Site) : R s (s.endFatal i g c w) := by
  unfold State.endFatal
  split
  · exact hR.refl s
  · split
    · exact hR.refl s
    · refine hR.after (hR.retireQueues _) (hR.after (hR.closeGrid _ i g) ?_)
      have hstop : ∀ l : List Position, R s (l.foldl (fun s p => if p.st == .resident || p.st == .stopping then s.stopPos p else s) s) :=
        fun l => hR.foldl (fun s p => by split; exacts [hR.stopPos s p, hR.refl s]) l s
      split
      · split
        next s2 heq =>
          have hs2 : R s s2 := by
            have hdrawn := hR.after (hR.drawWord _) (hstop (s.c.positions.filter fun p => p.ctx == i && p.grid == g))
            rwa [heq] at hdrawn
          dsimp only
          split
          · exact hR.after (hR.post _ _ _) (hR.after (hR.faultTask _ _ _ _) hs2)
          · exact hR.after (hR.faultTask _ _ _ _) (hR.after (hR.post _ _ _) hs2)
      · exact hR.after (hR.post _ _ _) (hstop _)

/-! ### Instances placed -/

theorem putPosition (s : State) (k : Kernel) (g : Grid) (c : Ctx) (lin loc core : Nat) (keeps : List Keep) (f : Frontier) :
    R s (s.putPosition k g c lin loc core keeps f) := by
  unfold State.putPosition
  dsimp only
  refine hR.after (hR.foldl (fun s b => hR.grid s _ _ _) _ _) (hR.after (hR.same _ _ rfl rfl) (hR.after (hR.comp _ _ rfl fun p hp => ?_)
    (hR.next s _)))
  rcases List.mem_append.1 hp with hp | hp
  · exact .inr ⟨p, hp, rfl⟩
  · exact .inl (by rw [List.mem_singleton.1 hp])

theorem putInstance (s : State) (k : Kernel) (g : Grid) (c : Ctx) (lin cluster : Nat) (cores : List Nat) :
    R s (s.putInstance k g c lin cluster cores) := by
  unfold State.putInstance
  refine hR.after (hR.foldl (fun s x => ?_) _ _) (hR.after (hR.grid _ _ _ _) (hR.same s _ rfl rfl))
  exact hR.putPosition s k g c lin x.2 x.1 [] g.start

theorem placeAway {s t : State} {g : Grid} {lin : Nat} (ht : s.placeAway g lin = some t) : R s t := by
  unfold State.placeAway at ht
  split at ht
  · cases ht
  · dsimp only at ht
    split at ht
    · cases ht
    · obtain ⟨m, -, rfl⟩ := Option.map_eq_some_iff.1 ht
      exact hR.after (hR.grid _ _ _ _) (hR.drawWord s)

theorem placeRest {k : Kernel} {g : Grid} {c : Ctx} {pd : Paddock} (l : List Nat) {s t : State} (ht : s.placeRest k g c pd l = some t) : R s t := by
  induction l generalizing s with
  | nil => exact Option.some.inj ht ▸ hR.refl s
  | cons lin l ih =>
    unfold State.placeRest at ht
    dsimp only at ht
    split at ht
    · obtain ⟨cores, -, ht⟩ := Option.bind_eq_some_iff.1 ht
      exact hR.after (ih ht) (hR.putInstance _ _ _ _ _ _ _)
    · obtain ⟨u, hu, ht⟩ := Option.bind_eq_some_iff.1 ht
      exact hR.after (ih ht) (hR.placeAway hu)

omit hR in
theorem getD {o : Option State} {s t : State} (ho : ∀ u, o = some u → R s u) (ht : R s t) : R s (o.getD t) := by
  cases o with
  | none => exact ht
  | some u => exact ho u rfl

/-! ### Links that go: flits, messages and droves -/

theorem port (s : State) (n : Nat) {f : Port → Port} (hf : ∀ p, (f p).status = p.status) : R s (s.modPort n f) := by
  refine hR.stile s _ ?_
  show (upd (·.id == n) f s.t.ports).map Port.status = _
  rw [upd, List.map_map]
  refine List.map_congr_left fun p _ => ?_
  simp only [Function.comp]
  split
  · exact hf p
  · rfl

theorem enterFlit {s t : State} {f : Flit} (ht : s.enterFlit f = some t) : R s t := by
  unfold State.enterFlit at ht
  split at ht
  · cases ht
  · rw [← Option.some.inj ht]
    exact hR.port s _ fun _ => rfl

theorem reroute (s : State) : R s s.reroute := by
  refine hR.foldl (fun s p => hR.foldl (fun s x => ?_) _ s) _ s
  have hdrop : R s (s.modPort p.id fun q =>
      { q with replay := q.replay.erase x, line := q.line.filter fun f => !(f.1 == x.1 && f.2.1 == x.2.sq) }) := hR.port s _ fun _ => rfl
  split
  · exact hR.refl s
  · dsimp only
    split
    · rename_i u hu
      exact hR.after (hR.enterFlit hu) hdrop
    · split
      · exact hR.refl s
      · exact hdrop

theorem endRelay (s : State) (r : Relay) (c : Option Cause) : R s (s.endRelay r c) := by
  refine hR.after (hR.foldl (fun s m => ?_) r.mems _) (hR.stile s _ rfl)
  split
  · exact hR.finishOp s _ c
  · exact hR.refl s

theorem failSend (s : State) (m : SendMsg) (c : Cause) : R s (s.failSend m c) := by
  have hdrop : R s (s.dropSend m.key) := hR.stile s _ rfl
  unfold State.failSend
  dsimp only
  split
  · exact hR.after (hR.endRelay _ _ _) hdrop
  · exact hR.after (hR.finishOp _ _ _) hdrop
  · exact hdrop

theorem failRecv (s : State) (m : RecvMsg) (c : Cause) : R s (s.failRecv m c) := by
  have hdrop : R s (s.dropRecv m.key) := hR.stile s _ rfl
  unfold State.failRecv
  dsimp only
  split
  · exact hR.after (hR.endRelay _ _ _) hdrop
  · exact hR.after (hR.finishOp _ _ _) hdrop
  · exact hdrop

theorem cutMessages (s : State) (c : Cause) (lost : MsgKey → Nat → Bool) : R s (s.cutMessages c lost) := by
  refine hR.after (hR.foldl (fun s m => ?_) _ _) (hR.foldl (fun s m => ?_) _ s)
  · split
    · exact hR.failRecv s m c
    · exact hR.refl s
  · split
    · exact hR.failSend s m c
    · exact hR.refl s

theorem loseRoutes (s : State) : R s s.loseRoutes :=
  hR.after (hR.foldl (fun s o => hR.finishOp s o (some .linkDown)) _ _) (hR.cutMessages s _ _)

theorem cutDrove (s : State) (g : Grid) (ms : List (Nat × Nat)) : R s (s.cutDrove g ms) := by
  have hcut : ∀ f : Grid → Grid, R s (s.modGrid g.ctx g.id f) := fun f => hR.grid s _ _ f
  unfold State.cutDrove
  dsimp only
  split
  · exact hR.after (hR.endFatal _ _ _ _ _) (hcut _)
  · split
    · split
      · exact getD (fun u hu => hR.after (hR.placeRest _ hu) (hcut _)) (hR.after (hR.endFatal _ _ _ _ _) (hcut _))
      · exact hcut _
    · exact hcut _

theorem cutDroves (s : State) : R s s.cutDroves := by
  refine hR.foldl (fun s g => ?_) _ s
  dsimp only
  split
  · exact hR.refl s
  · exact hR.cutDrove s g _

/-! ### What a unit that fails tells -/

theorem tellHost (s : State) (src synd : Nat) : R s (s.tellHost src synd) := hR.after (hR.mgmt _ _ rfl) (hR.mgmt s _ rfl)

theorem tellPads (s : State) (pads : List Nat) (src synd : Nat) : R s (s.tellPads pads src synd) := by
  unfold State.tellPads
  split
  · exact hR.tellHost s src synd
  · exact hR.foldl (fun s q => hR.postPad s q _) pads s

theorem checkPads (s : State) (pads : List Nat) : R s (s.checkPads pads) := hR.foldl (fun s p => hR.postPad s p _) pads s

theorem unplaceable (l : List Grid) (s : State) : R s (s.unplaceable l).2 := by
  induction l generalizing s with
  | nil => exact hR.refl s
  | cons g l ih =>
    have hdraw : R s (if g.drove.length ≤ 1 then ((0 : Word), s) else s.drawWord).2 := by
      split
      · exact hR.refl s
      · exact hR.drawWord s
    exact hR.after (ih _) hdraw

theorem endMisfits (s : State) (pads : List Nat) (core : Nat) : R s (s.endMisfits pads core) := by
  refine hR.foldl (fun s p => ?_) pads s
  exact hR.after (hR.foldl (fun s g => hR.endFatal s _ _ _ _) _ _) (hR.unplaceable _ s)

/-! ### Fault records and extents -/

theorem signal (s : State) (i : Nat) : R s (s.signal i) :=
  hR.toMemRel.signal (fun s _ => hR.mgmt s _ rfl) i (fun s => hR.ctx s i _) s

theorem flushFaults (s : State) (i : Nat) : R s (s.flushFaults i) := by
  unfold State.flushFaults
  split
  · exact hR.refl s
  · dsimp only
    split
    · split
      · exact hR.refl s
      · exact hR.after (hR.signal _ _) (hR.after (hR.ctx _ _ _) (hR.objWrite s _ _ _ _))
    · exact hR.refl s

theorem flushAll (s : State) (i n : Nat) : R s (s.flushAll i n) := by
  induction n generalizing s with
  | zero => exact hR.refl s
  | succ n ih => exact hR.after (ih _) (hR.flushFaults s i)

theorem seatRaces (s : State) (i obj : Nat) : R s (s.seatRaces i obj) := by
  unfold State.seatRaces
  split
  · exact hR.refl s
  · exact hR.same s _ rfl rfl

theorem putExtents (s : State) (c : Ctx) (o : Obj) (l : Option (List Extent)) : R s (s.putExtents c o l).1 := by
  unfold State.putExtents
  split
  · split
    · exact hR.after (hR.flushAll _ _ _) (hR.after (hR.seatRaces _ _ _) (hR.ctx s _ _))
    · exact hR.refl s
  · exact hR.refl s

theorem dropTlb (s : State) (q : TlbEnt → Bool) : R s (s.dropTlb q) := hR.same s _ rfl rfl

theorem cutExtents (s : State) (c : Ctx) (o : Obj) (u n : Nat) (l : Option (List Extent)) : R s (s.cutExtents c o u n l).1 := by
  unfold State.cutExtents
  dsimp only
  split
  · exact hR.after (t := List.foldl _ (s.putExtents c o l).1 _) (hR.dropTlb _ _)
      (hR.after (hR.foldl (fun s x => hR.settle s _ _) _ _) (hR.putExtents s c o l))
  · exact hR.putExtents s c o l

theorem copyUnits (s : State) (pad src dst n : Nat) : R s (s.copyUnits pad src dst n) := by
  unfold State.copyUnits
  exact hR.after (hR.same _ _ rfl rfl) (hR.after (hR.stampKey _ _ _ _) (hR.devWrite s _ _))

theorem moveAway (s : State) (m : PageMove) : R s (s.moveAway m) := by
  refine hR.foldl (fun s c => hR.foldl (fun s o => ?_) _ s) _ s
  split
  · exact hR.refl s
  · dsimp only
    split
    · exact hR.after (hR.copyUnits _ _ _ _ _) (hR.cutExtents _ _ _ _ _ _)
    · exact hR.cutExtents _ _ _ _ _ _

end
end Moves

section
variable {s : State}

/-! ### A port enters a state (R339) -/

theorem statuses_moves : Moves fun s t => t.t.ports.map Port.status = s.t.ports.map Port.status :=
  .of_view (fun _ _ => rfl) (fun _ _ => rfl) (fun _ _ => rfl) (fun _ _ h => h) fun _ _ _ => rfl

/-- A port in a state, with lanes and a time. -/
def Port.enter (st : PortSt) (lanes : BitVec 8) (since : Nat) (p : Port) : Port := { p with st := st, lanes := lanes, since := since }

theorem status_of_statuses {t u : State} (h : u.t.ports.map Port.status = t.t.ports.map Port.status) (n : Nat) :
    (u.portOf n).map Port.status = (t.portOf n).map Port.status := by
  have hfind : ∀ s : State, (s.portOf n).map Port.status = (s.t.ports.map Port.status).find? fun x => x.1 == n := fun s =>
    (List.find?_map (p := fun x : Nat × PortSt × BitVec 8 => x.1 == n)).symm
  rw [hfind, hfind, h]

theorem setPort_enters {n : Nat} {x : Port} (hx : s.portOf n = some x) (st : PortSt) (lanes : BitVec 8) (since synd : Nat) :
    ∃ y, (s.setPort n st lanes since synd).portOf n = some y ∧ y.st = st ∧ y.lanes = lanes := by
  have hstep : ((s.setPort n st lanes since synd).t.ports.map Port.status) =
      ((s.modPort n (Port.enter st lanes since)).t.ports.map Port.status) := by
    have hR := statuses_moves
    unfold State.setPort
    refine hR.after (hR.cutDroves _) (hR.after (hR.loseRoutes _) (hR.after (hR.reroute _) ?_))
    split
    · rfl
    · exact hR.foldl (fun s (p : Paddock) => hR.postPad s p.id _) _ _
  have hport : (s.modPort n (Port.enter st lanes since)).portOf n = some (x.enter st lanes since) := by
    exact portOf_modPort (g := Port.enter st lanes since) (fun _ => rfl) hx
  have hy := (status_of_statuses hstep n).trans (congrArg (Option.map Port.status) hport)
  obtain ⟨y, hy, hstatus⟩ := Option.map_eq_some_iff.1 hy
  exact ⟨y, hy, congrArg (·.2.1) hstatus, congrArg (·.2.2) hstatus⟩

theorem onPort_some {n : Nat} {x : Port} (hx : s.portOf n = some x) (f : Port → State) : onPort n f s = f x := by
  rw [onPort, hx, Option.map_some, Option.getD_some]

theorem enters_of {i : Instr} {n : Nat} {x : Port} {f : Port → State} {u : State} {st : PortSt} {lanes : BitVec 8} {since synd : Nat}
    (hx : s.portOf n = some x) (hi : exec i s = .next (onPort n f s)) (hf : f x = u.setPort n st lanes since synd) (hu : u.portOf n = some x) :
    ∃ t y, exec i s = .next t ∧ t.portOf n = some y ∧ y.st = st ∧ y.lanes = lanes := by
  obtain ⟨y, hy, hst, hlanes⟩ := setPort_enters hu st lanes since synd
  exact ⟨_, y, hi.trans (congrArg _ ((onPort_some hx f).trans hf)), hy, hst, hlanes⟩

theorem carries_iff {x : Port} : x.carries = true ↔ x.st = .up ∨ x.st = .degraded := by
  rw [Port.carries, Bool.or_eq_true, beq_iff_eq, beq_iff_eq]

/-- The table of a port's states, transition by transition. -/
theorem port_table {n : Nat} {x : Port} (hx : s.portOf n = some x) :
    let enters (i : Instr) (st : PortSt) (lanes : BitVec 8) : Prop :=
      ∃ t y, exec i s = .next t ∧ t.portOf n = some y ∧ y.st = st ∧ y.lanes = lanes
    (x.st = .down → enters (.portEnable n) .training 0 ∧ exec (.portDisable n) s = .next s ∧
      (x.since ≠ 0 → enters (.trainingRetry n) .training 0)) ∧
    (x.st ≠ .down → exec (.portEnable n) s = .next s ∧ enters (.portDisable n) .down 0) ∧
    (x.st = .training → enters (.trainingComplete n 0xFF) .up 0xFF ∧ enters (.trainingComplete n 0) .down 0 ∧
      enters (.trainingTimeout n) .down 0 ∧ ∀ good : BitVec 8, good ≠ 0xFF → good ≠ 0 →
        enters (.trainingComplete n good) .degraded good) ∧
    (x.st = .up ∨ x.st = .degraded → enters (.replayThreshold n) .quarantined x.lanes ∧
      enters (.quarantineRelease n) .training 0 ∧
      ∀ lane : Nat, x.lanes.getLsbD lane = true →
        let rest : BitVec 8 := x.lanes &&& ~~~(1#8 <<< lane)
        (rest = 0 → enters (.laneFailure n lane) .down 0) ∧ (rest ≠ 0 → enters (.laneFailure n lane) .degraded rest)) ∧
    (x.st = .quarantined → enters (.quarantineRelease n) .training 0) := by
  intro enters
  refine ⟨fun hst => ⟨?_, ?_, fun hsince => ?_⟩, fun hst => ⟨?_, ?_⟩, fun hst => ⟨?_, ?_, ?_, fun good hff h0 => ?_⟩,
    fun hst => ⟨?_, ?_, fun lane hlane => ⟨fun hrest => ?_, fun hrest => ?_⟩⟩, fun hst => ?_⟩
  · exact enters_of hx rfl (if_pos (by simp [hst])) hx
  · exact congrArg Host.Outcome.next ((onPort_some hx _).trans (if_pos (by simp [hst])))
  · exact enters_of (u := s.at x.since) hx rfl (if_pos (by simp [hst, hsince])) hx
  · exact congrArg Host.Outcome.next ((onPort_some hx _).trans (if_neg (by simp [hst])))
  · exact enters_of hx rfl (if_neg (by simp [hst])) hx
  · exact enters_of hx rfl ((if_neg (by simp [hst])).trans (if_neg (by decide))) hx
  · exact enters_of hx rfl ((if_neg (by simp [hst])).trans (if_pos (by decide))) hx
  · exact enters_of (u := s.at (x.since + us 10000)) hx rfl (if_pos (by simp [hst])) hx
  · exact enters_of hx rfl ((if_neg (by simp [hst])).trans ((if_neg (by simpa using h0)).trans
      (by rw [if_neg (by simpa using hff)]))) hx
  · exact enters_of hx rfl (if_pos (carries_iff.2 hst)) hx
  · exact enters_of hx rfl (if_pos (by rw [carries_iff.2 hst]; rfl)) hx
  · exact enters_of hx rfl ((if_pos (by rw [carries_iff.2 hst, hlane]; rfl)).trans (if_pos (by simpa using hrest))) hx
  · exact enters_of hx rfl ((if_pos (by rw [carries_iff.2 hst, hlane]; rfl)).trans (if_neg (by simpa using hrest))) hx
  · exact enters_of hx rfl (if_pos (by simp [hst])) hx

/-! ### Units that are out (R292, R393, R394) -/

/-- The clusters, the dies and the channels that are out. -/
def State.broken (s : State) : List Nat × List Nat × List (Nat × Nat × Nat) := (s.m.retired, s.m.diesOut, s.m.chansOut)

theorem units_moves : Moves fun s t => t.m.units = s.m.units :=
  .of_view (fun _ _ => rfl) (fun _ _ => rfl) (fun _ _ => rfl) (fun _ _ _ => rfl) fun _ _ h => h

theorem broken_of_units {s t : State} (h : t.m.units = s.m.units) : t.broken = s.broken := congrArg (·.2) h

theorem revoke_broken (s : State) (c : Nat) : (s.revoke c).broken = s.broken := by
  unfold State.revoke
  split
  · split <;> rfl
  · rfl

theorem giveCluster_broken (s : State) (pad : Nat) : (s.giveCluster pad).broken = s.broken := by
  unfold State.giveCluster
  dsimp only
  split
  · exact revoke_broken s _
  · rfl

theorem fillSet_broken (s : State) (pad : Nat) : (s.fillSet pad).broken = s.broken := by
  unfold State.fillSet
  split
  · exact foldl_unseen (σ := State) State.broken (fun s _ => giveCluster_broken s pad) _ s
  · rfl

theorem takeCluster_broken (s : State) (pad c : Nat) : (s.takeCluster pad c).broken = s.broken := by
  unfold State.takeCluster
  dsimp only
  split
  · exact revoke_broken s c
  · exact revoke_broken s c

theorem trimSet_broken (s : State) (pad : Nat) (drop : BitVec 24) : (s.trimSet pad drop).broken = s.broken := by
  unfold State.trimSet
  split
  · exact foldl_unseen (σ := State) State.broken (fun s c => takeCluster_broken s pad c) _ s
  · rfl

/-- A step of a reduction takes one cluster or one GiB from a paddock's guarantee, and leaves its set. -/
theorem reducePad_modPad {floor : Nat} {p : Paddock} {t : State} (ht : s.reducePad floor p = some t) :
    ∃ f : Paddock → Paddock, (∀ p, (f p).gset = p.gset) ∧ t = s.modPad p.id f := by
  unfold State.reducePad at ht
  split at ht
  · exact ⟨fun p => { p with gcnt := p.gcnt - 1, imp := true }, fun _ => rfl, (Option.some.inj ht).symm⟩
  · obtain ⟨d, -, rfl⟩ := Option.map_eq_some_iff.1 ht
    exact ⟨fun p => { p with dgib := p.dgib.set d (p.dgib.getD d 0 - 1), imp := true }, fun _ => rfl, rfl⟩

/-- A cluster that is out, and that no paddock holds. -/
def State.lost (s : State) (k : Nat) : Prop := s.healthy k = false ∧ ∀ p ∈ s.m.paddocks, p.owns k = false

theorem healthy_of_broken {s t : State} (h : t.broken = s.broken) (k : Nat) : t.healthy k = s.healthy k := by
  obtain ⟨hret, hrest⟩ := Prod.mk.inj h
  obtain ⟨hdie, -⟩ := Prod.mk.inj hrest
  rw [State.healthy, State.healthy, hret, hdie]

theorem lost_of_units {s t : State} {k : Nat} (h : t.m.units = s.m.units) (hk : s.lost k) : t.lost k :=
  ⟨(healthy_of_broken (broken_of_units h) k).trans hk.1, fun p hp => hk.2 p ((congrArg (fun u => u.1) h : t.m.paddocks = s.m.paddocks) ▸ hp)⟩

theorem lost_modPad {k : Nat} (hk : s.lost k) (n : Nat) {f : Paddock → Paddock} (hf : ∀ p, p.owns k = false → (f p).owns k = false) :
    (s.modPad n f).lost k := by
  refine ⟨hk.1, fun p hp => ?_⟩
  obtain ⟨q, hq, rfl⟩ := List.mem_map.1 hp
  split
  · exact hf q (hk.2 q hq)
  · exact hk.2 q hq

theorem revoke_paddocks (s : State) (c : Nat) : (s.revoke c).m.paddocks = s.m.paddocks := by
  unfold State.revoke
  split
  · split <;> rfl
  · rfl

theorem revoke_lost {k : Nat} (hk : s.lost k) (c : Nat) : (s.revoke c).lost k :=
  ⟨(healthy_of_broken (revoke_broken s c) k).trans hk.1, fun p hp => hk.2 p (revoke_paddocks s c ▸ hp)⟩

theorem owns_or {p : Paddock} {k c : Nat} (hp : p.owns k = false) (hne : c ≠ k) :
    Paddock.owns { p with gset := p.gset ||| 1#24 <<< c } k = false := by
  have hbit : (1#24 <<< c).getLsbD k = false := by
    simp only [BitVec.getLsbD_shiftLeft, BitVec.getLsbD_one]
    simp
    omega
  rw [Paddock.owns, BitVec.getLsbD_or, hbit, Bool.or_false]
  exact hp

theorem owns_andNot {p : Paddock} {k c : Nat} (hp : p.owns k = false) : Paddock.owns { p with gset := p.gset &&& ~~~(1#24 <<< c) } k = false := by
  rw [Paddock.owns, BitVec.getLsbD_and, show p.gset.getLsbD k = false from hp, Bool.false_and]

/-- A cluster that is given to a paddock is healthy. -/
theorem given_healthy {idle : Nat → Bool} {l : List Nat} {c : Nat} (hc : (l.find? fun c => s.unheld c && idle c).or (l.find? s.unheld) = some c) :
    s.healthy c = true := by
  have hun : s.unheld c = true := by
    rcases Option.or_eq_some_iff.1 hc with h | ⟨-, h⟩
    · exact (Bool.and_eq_true_iff.1 (List.find?_some (p := fun c => s.unheld c && idle c) h)).1
    · exact List.find?_some (p := s.unheld) h
  exact (Bool.and_eq_true_iff.1 hun).1

theorem giveCluster_lost {k : Nat} (hk : s.lost k) (pad : Nat) : (s.giveCluster pad).lost k := by
  unfold State.giveCluster
  dsimp only
  split
  · rename_i c hc
    refine lost_modPad (revoke_lost hk c) pad fun p hp => owns_or hp ?_
    rintro rfl
    have hgood := given_healthy (idle := fun c => (s.borrowerOf c).isNone && !s.changing c) (by simpa only [Bool.and_assoc] using hc)
    exact absurd (hgood.symm.trans hk.1) (by simp)
  · exact hk

theorem lost_foldl {α : Type} {k : Nat} {f : State → α → State} (hf : ∀ s a, s.lost k → (f s a).lost k) (l : List α) (hk : s.lost k) :
    (l.foldl f s).lost k := by
  induction l generalizing s with
  | nil => exact hk
  | cons a l ih => exact ih (hf s a hk)

theorem fillSet_lost {k : Nat} (hk : s.lost k) (pad : Nat) : (s.fillSet pad).lost k := by
  unfold State.fillSet
  split
  · exact lost_foldl (fun s _ h => giveCluster_lost h pad) _ hk
  · exact hk

theorem takeCluster_lost {k : Nat} (hk : s.lost k) (pad c : Nat) : (s.takeCluster pad c).lost k := by
  have htaken := lost_modPad (revoke_lost hk c) pad fun p hp => owns_andNot (c := c) hp
  unfold State.takeCluster
  dsimp only
  split
  · exact htaken
  · exact htaken

theorem trimSet_lost {k : Nat} (hk : s.lost k) (pad : Nat) (drop : BitVec 24) : (s.trimSet pad drop).lost k := by
  unfold State.trimSet
  split
  · exact lost_foldl (fun s c h => takeCluster_lost h pad c) _ hk
  · exact hk

theorem reduceTo_lost {k : Nat} (n floor : Nat) (hk : s.lost k) : (s.reduceTo floor n).lost k := by
  induction n generalizing s with
  | zero => exact hk
  | succ n ih =>
    unfold State.reduceTo
    split
    · rename_i t ht
      obtain ⟨p, -, hp⟩ := List.exists_of_findSome?_eq_some ht
      obtain ⟨f, hf, rfl⟩ := reducePad_modPad hp
      exact ih (lost_modPad hk p.id fun q hq => by rwa [Paddock.owns, hf])
    · exact hk

theorem reduceTo_broken (n floor : Nat) (s : State) : (s.reduceTo floor n).broken = s.broken := by
  induction n generalizing s with
  | zero => rfl
  | succ n ih =>
    unfold State.reduceTo
    split
    · rename_i t ht
      obtain ⟨p, -, hp⟩ := List.exists_of_findSome?_eq_some ht
      obtain ⟨f, -, rfl⟩ := reducePad_modPad hp
      exact ih _
    · rfl

theorem reduce_lost {k : Nat} (hk : s.lost k) : s.reduce.lost k := by
  unfold State.reduce
  split
  · exact lost_foldl (fun s (p : Paddock) h => fillSet_lost h p.id) _ (lost_foldl (fun s (p : Paddock) h => trimSet_lost h p.id 0) _
      (lost_of_units (t := State.interrupt _) rfl (reduceTo_lost _ 0 (reduceTo_lost _ 1 hk))))
  · exact hk

theorem reduce_broken (s : State) : s.reduce.broken = s.broken := by
  unfold State.reduce
  split
  · refine (foldl_unseen (σ := State) State.broken (fun s (p : Paddock) => fillSet_broken s p.id) _ _).trans ?_
    refine (foldl_unseen (σ := State) State.broken (fun s (p : Paddock) => trimSet_broken s p.id 0) _ _).trans ?_
    exact (reduceTo_broken _ 0 _).trans (reduceTo_broken _ 1 s)
  · rfl

theorem discard_units (s : State) (i : Nat) : (s.discard i).m.units = s.m.units := by
  rcases units_moves.discard (fun s f _ h => units_moves.stile s f (congrArg _ h)) s i with ⟨p, u, -, -, hu, heq⟩ | ⟨heq, -⟩
  · rw [heq]
    exact hu
  · rw [heq]

/-- The management processor's tables once a cluster is out. -/
def Mgmt.without (c : Nat) (m : Mgmt) : Mgmt :=
  { m with retired := if m.retired.contains c then m.retired else m.retired ++ [c]
           borrowed := m.borrowed.filter (·.1 != c)
           revokes := m.revokes.filter (·.cluster != c)
           paddocks := m.paddocks.map fun p => { p with gset := p.gset &&& ~~~(1#24 <<< c) } }

theorem mem_retired_without (c : Nat) (m : Mgmt) : c ∈ (m.without c).retired := by
  unfold Mgmt.without
  dsimp only
  split
  · rename_i h
    simpa using h
  · exact List.mem_append_right _ (List.mem_singleton.2 rfl)

theorem owns_cleared {p : Paddock} {c : Nat} (hc : c < 24) : Paddock.owns { p with gset := p.gset &&& ~~~(1#24 <<< c) } c = false := by
  have hbit : (1#24 <<< c).getLsbD c = true := by
    simp [hc]
  rw [Paddock.owns, BitVec.getLsbD_and, BitVec.getLsbD_not, hbit]
  simp

theorem unhealthy_iff {k : Nat} : s.healthy k = false ↔ k ∈ s.m.retired ∨ dieOf k ∈ s.m.diesOut := by
  rw [State.healthy]
  by_cases hr : k ∈ s.m.retired <;> by_cases hd : dieOf k ∈ s.m.diesOut <;> simp [hr, hd]

/-- A cluster that goes is lost at once, and what is lost stays so. -/
theorem without_lost {k c : Nat} (hk24 : k < 24) (hk : k = c ∨ s.lost k) : (s.modM (Mgmt.without c)).lost k := by
  refine ⟨unhealthy_iff.2 ?_, fun p hp => ?_⟩
  · rcases hk with rfl | hk
    · exact .inl (mem_retired_without k s.m)
    · refine (unhealthy_iff.1 hk.1).imp (fun h => ?_) id
      show k ∈ if s.m.retired.contains c then _ else _
      split
      · exact h
      · exact List.mem_append_left _ h
  · obtain ⟨q, hq, rfl⟩ := List.mem_map.1 hp
    rcases hk with rfl | hk
    · exact owns_cleared hk24
    · exact owns_andNot (hk.2 q hq)

theorem dropCluster_eq (s : State) (c : Nat) : ∃ (u : State) (l : List Nat), u.m.units = s.m.units ∧
    s.dropCluster c = List.foldl (fun s p => s.fillSet p) (u.modM (Mgmt.without c)) l :=
  ⟨(s.posOnCluster c).foldl (fun s p => s.discard p.id) s, _,
    foldl_unseen (σ := State) (fun s => s.m.units) (fun s (p : Position) => discard_units s p.id) _ s, rfl⟩

theorem dropCluster_lost {k c : Nat} (hk24 : k < 24) (hk : k = c ∨ s.lost k) : (s.dropCluster c).lost k := by
  obtain ⟨u, l, hu, heq⟩ := dropCluster_eq s c
  rw [heq]
  exact lost_foldl (fun s p h => fillSet_lost h p) l (without_lost hk24 (hk.imp_right (lost_of_units hu)))

theorem dropCluster_broken (s : State) (c : Nat) : c ∈ (s.dropCluster c).m.retired ∧ (s.dropCluster c).m.diesOut = s.m.diesOut := by
  obtain ⟨u, l, hu, heq⟩ := dropCluster_eq s c
  have hfill : (s.dropCluster c).broken = (u.modM (Mgmt.without c)).broken := by
    rw [heq]
    exact foldl_unseen (σ := State) State.broken (fun s p => fillSet_broken s p) l _
  obtain ⟨hret, hrest⟩ := Prod.mk.inj hfill
  obtain ⟨hdie, -⟩ := Prod.mk.inj hrest
  exact ⟨hret ▸ mem_retired_without c u.m, hdie.trans (congrArg (fun x => x.2.1) (broken_of_units hu) : u.m.diesOut = s.m.diesOut)⟩

/-- Once every cluster of a list has gone, each of them is lost. -/
theorem dropClusters_lost {k : Nat} (hk24 : k < 24) (l : List Nat) (hk : k ∈ l ∨ s.lost k) : (l.foldl (fun s c => s.dropCluster c) s).lost k := by
  induction l generalizing s with
  | nil => exact hk.resolve_left List.not_mem_nil
  | cons c l ih =>
    refine ih ?_
    rcases hk with hk | hk
    · rcases List.mem_cons.1 hk with rfl | hk
      · exact .inr (dropCluster_lost hk24 (.inl rfl))
      · exact .inl hk
    · exact .inr (dropCluster_lost hk24 (.inr hk))

theorem reelect_units (s : State) (die : Nat) (g : Grid) : (s.reelect die g).m.units = s.m.units := by
  unfold State.reelect
  split
  · rfl
  · split
    · split
      · split
        · split <;> rfl
        · exact units_moves.endFatal s _ _ _ _
      · rfl
    · split <;> rfl

/-- What the loss of units does once the clusters have gone: guarantees are reduced, and those concerned hear of it. -/
def State.aftermath (s : State) (pads : List Nat) (core : Nat) : State := (s.reduce.checkPads pads).endMisfits pads core

theorem aftermath_lost {k : Nat} (hk : s.lost k) (pads : List Nat) (core : Nat) : (s.aftermath pads core).lost k :=
  lost_of_units ((units_moves.endMisfits _ pads core).trans (units_moves.checkPads _ pads)) (reduce_lost hk)

theorem aftermath_broken (s : State) (pads : List Nat) (core : Nat) : (s.aftermath pads core).broken = s.broken :=
  (broken_of_units ((units_moves.endMisfits _ pads core).trans (units_moves.checkPads _ pads))).trans (reduce_broken s)

theorem clusterRetire_leaves {k : Nat} (hk : s.healthy k = true) (hlt : k < Config.clusters) :
    ∃ t, exec (.clusterRetire k) s = .next t ∧ k ∈ t.m.retired ∧ ∀ p ∈ t.m.paddocks, p.owns k = false := by
  have hexec : exec (.clusterRetire k) s = .next ((s.dropCluster k).aftermath (s.padsOn k) (Config.coresPerCluster * k)) :=
    congrArg Host.Outcome.next (if_pos (by rw [hk, decide_eq_true hlt]; rfl))
  refine ⟨_, hexec, ?_, (aftermath_lost (dropCluster_lost hlt (.inl rfl)) _ _).2⟩
  show k ∈ (State.broken _).1
  rw [aftermath_broken]
  exact (dropCluster_broken s k).1

/-- The clusters that a die takes with it. -/
def State.clustersOn (s : State) (d : Nat) : List Nat := (List.range Config.clusters).filter fun c => dieOf c == d && !s.m.retired.contains c

/-- The machine once a die and its clusters are out. -/
def State.dieOut (s : State) (d : Nat) : State :=
  (s.clustersOn d).foldl (fun s c => s.dropCluster c) (s.modM fun m => { m with diesOut := m.diesOut ++ [d] })

theorem dieOut_diesOut (s : State) (d : Nat) : (s.dieOut d).m.diesOut = s.m.diesOut ++ [d] :=
  foldl_unseen (σ := State) (fun s => s.m.diesOut) (fun s c => (dropCluster_broken s c).2) (s.clustersOn d)
    (s.modM fun m => { m with diesOut := m.diesOut ++ [d] })

theorem dieFailure_leaves {d : Nat} (hd : d < 4) (hin : s.m.diesOut.contains d = false) :
    ∃ t, exec (.dieFailure d) s = .next t ∧ d ∈ t.m.diesOut ∧
      ∀ p ∈ t.m.paddocks, ∀ k < Config.clusters, dieOf k = d → s.m.retired.contains k = false → p.owns k = false := by
  have hexec : exec (.dieFailure d) s = .next ((((s.dieOut d).c.grids.filter (·.live)).foldl (fun s g => s.reelect d g) (s.dieOut d)).aftermath
      ((s.clustersOn d).flatMap s.padsOn).eraseDups (48 * d)) :=
    congrArg Host.Outcome.next (if_neg (by rw [hin, decide_eq_false (by omega)]; exact Bool.false_ne_true))
  have hunits : ∀ l : List Grid, (l.foldl (fun s g => s.reelect d g) (s.dieOut d)).m.units = (s.dieOut d).m.units := fun l =>
    foldl_unseen (σ := State) (fun s => s.m.units) (fun s g => reelect_units s d g) l _
  refine ⟨_, hexec, ?_, fun p hp k hk hdie hret => ?_⟩
  · show d ∈ (State.broken _).2.1
    rw [aftermath_broken, broken_of_units (hunits _)]
    show d ∈ (s.dieOut d).m.diesOut
    rw [dieOut_diesOut]
    exact List.mem_append_right _ (List.mem_singleton.2 rfl)
  · have hmem : k ∈ s.clustersOn d := List.mem_filter.2 ⟨List.mem_range.2 hk, by rw [hdie, hret]; simp⟩
    exact (aftermath_lost (lost_of_units (hunits _) (dropClusters_lost hk (s.clustersOn d) (.inl hmem))) _ _).2 p hp

theorem chans_moves : Moves fun s t => t.m.chansOut = s.m.chansOut :=
  .of_view (fun _ _ => rfl) (fun _ _ => rfl) (fun _ _ => rfl) (fun _ _ _ => rfl) fun _ _ h => congrArg (fun u => u.2.2.2) h

theorem channelRetire_leaves (die base len : Nat) (moves : List PageMove) : ∃ t, exec (.channelRetire die base len moves) s = .next t ∧
    t.m.chansOut = if (die, base, len) ∈ s.m.chansOut then s.m.chansOut else s.m.chansOut ++ [(die, base, len)] := by
  have hR := chans_moves
  have hcarve : ∀ s : State, (s.recarveFrom base len).m.chansOut = s.m.chansOut := fun s => by
    refine foldl_unseen (σ := State) (fun s => s.m.chansOut) (fun s p => ?_) _ s
    rfl
  refine ⟨_, rfl, ?_⟩
  refine (hR.checkPads _ _).trans ((congrArg (fun b => b.2.2) (reduce_broken _)).trans ((hcarve _).trans ?_))
  refine (hR.foldl (fun s pa => hR.moveAway s ⟨pa, none⟩) _ _).trans ((hR.foldl (fun s m => hR.moveAway s m) _ _).trans ?_)
  simp

/-! ### A CXL port that goes down, and the scrubber's error (R410, R427) -/

/-- The addresses of the accesses that no one has completed. -/
def Compute.pas (c : Compute) : List Nat := c.pend.map (·.pa)

theorem raise_pas (c : Compute) (p : PStore → Bool) (lvl : Nat) : (c.raise p lvl).pas = c.pas := by
  rw [Compute.pas, Compute.raise, List.map_map]
  refine List.map_congr_left fun e _ => ?_
  simp only [Function.comp]
  split <;> rfl

theorem exposeAll_pas (c : Compute) (p : PStore → Bool) (lvl : Nat) : (c.exposeAll p lvl).pas = c.pas :=
  foldl_unseen (σ := Compute) Compute.pas (fun c _ => (raise_pas _ _ _).trans (raise_pas c _ _)) _ c

theorem retireList_sublist (l keep : List PStore) (m : List Host.Cell) : (retireList keep l m).1.Sublist (keep ++ l) := by
  induction l generalizing keep m with
  | nil => exact (List.append_nil keep).symm ▸ List.Sublist.refl keep
  | cons e l ih =>
    unfold retireList
    split
    · exact (ih keep _).trans (List.Sublist.append (List.Sublist.refl keep) (List.sublist_cons_self e l))
    · exact List.append_assoc keep [e] l ▸ ih (keep ++ [e]) m

theorem retire_pas (c : Compute) : c.retire.pas ⊆ c.pas :=
  ((retireList_sublist c.pend [] c.mem).map PStore.pa).subset

theorem performRed_pas (c : Compute) (id : Nat) : (c.performRed id).1.pas ⊆ c.pas := by
  unfold Compute.performRed
  split
  case h_2 => exact fun _ h => h
  case h_1 e he =>
    split
    case h_2 => exact fun _ h => h
    case h_1 op x sys _ =>
      have hexposed : ∀ l : List PStore, l.map (·.pa) = c.pas → ∀ e' : PStore, e'.pa = e.pa → ((l.filter (·.id != id)) ++ [e']).map (·.pa) ⊆ c.pas := by
        intro l hl e' he' y hy
        obtain ⟨z, hz, rfl⟩ := List.mem_map.1 hy
        rcases List.mem_append.1 hz with hz | hz
        · exact hl ▸ List.mem_map_of_mem (List.mem_filter.1 hz).1
        · rw [List.mem_singleton.1 hz, he']
          exact List.mem_map_of_mem (List.mem_of_find?_eq_some he)
      cases e.rel with
      | none => exact hexposed _ (exposeAll_pas c _ _) _ rfl
      | some r => exact hexposed _ (exposeAll_pas c _ _) _ rfl

/-- From one state to another no new access is under way, and no CXL port goes down. -/
def Quiet (s t : State) : Prop := t.c.pas ⊆ s.c.pas ∧ t.m.cxlDown = s.m.cxlDown

theorem quiet_of_pas {t : State} (hp : t.c.pas ⊆ s.c.pas) (hm : t.m = s.m) : Quiet s t := ⟨hp, hm ▸ rfl⟩

theorem quiet_rel : MemRel Quiet where
  refl _ := ⟨fun _ h => h, rfl⟩
  trans h h' := ⟨fun _ hx => h.1 (h'.1 hx), h'.2.trans h.2⟩
  performRed s id := by
    have hpas := performRed_pas s.c id
    unfold State.performRed
    split
    next c k f heq =>
      rw [heq] at hpas
      exact ⟨hpas, rfl⟩
    next c heq =>
      rw [heq] at hpas
      exact ⟨hpas, rfl⟩
  expose s p lvl := quiet_of_pas (fun _ h => exposeAll_pas s.c p lvl ▸ retire_pas _ h) rfl
  raise s p lvl := quiet_of_pas (fun _ h => raise_pas s.c p lvl ▸ retire_pas _ h) rfl
  write _ _ _ _ := ⟨fun _ h => h, rfl⟩
  calm s f _ hpend _ := quiet_of_pas (fun _ h => by rwa [Compute.pas, State.modC_c, hpend] at h) rfl
  win _ _ _ _ := ⟨fun _ h => h, rfl⟩
  free _ _ := ⟨fun _ h => h, rfl⟩

theorem quiet_tellPads (s : State) (pads : List Nat) (src synd : Nat) : Quiet s (s.tellPads pads src synd) := by
  unfold State.tellPads
  split
  · exact ⟨fun _ h => h, rfl⟩
  · refine quiet_rel.foldl (fun s q => quiet_rel.foldl (fun s c => ?_) _ s) pads s
    exact quiet_rel.post (fun _ _ => ⟨fun _ h => h, rfl⟩) c (fun _ _ _ => ⟨fun _ h => h, rfl⟩) s _

/-- The machine once a CXL port is down: what no one has completed there is lost. -/
def State.portGone (s : State) (p : Nat) : State :=
  (s.modC fun c => { c with pend := c.pend.filter fun e =>
    !(decide ((2 ^ 27 + p * 2 ^ 25) * 2 ^ 16 ≤ e.pa) && decide (e.pa < (2 ^ 27 + p * 2 ^ 25 + 2 ^ 25) * 2 ^ 16)) }).modM fun m =>
      { m with cxlDown := m.cxlDown ++ [p] }

theorem cxlPortDown_leaves {p : Nat} (hp : p < 4) (hin : s.m.cxlDown.contains p = false) :
    ∃ t, exec (.cxlPortDown p) s = .next t ∧ t.m.cxlDown = s.m.cxlDown ++ [p] ∧
      ∀ e ∈ t.c.pend, e.pa < 2 ^ 43 + p * 2 ^ 41 ∨ 2 ^ 43 + (p + 1) * 2 ^ 41 ≤ e.pa := by
  have hexec : exec (.cxlPortDown p) s = .next ((s.portGone p).tellPads (s.padsIn (2 ^ 27 + p * 2 ^ 25) (2 ^ 25)) 57 4) :=
    congrArg Host.Outcome.next (if_neg (by rw [hin, decide_eq_false (by omega)]; exact Bool.false_ne_true))
  obtain ⟨hpas, hdown⟩ := quiet_tellPads (s.portGone p) (s.padsIn (2 ^ 27 + p * 2 ^ 25) (2 ^ 25)) 57 4
  refine ⟨_, hexec, hdown, fun e he => ?_⟩
  obtain ⟨e', he', hpa⟩ := List.mem_map.1 (hpas (List.mem_map_of_mem he))
  have hout := (List.mem_filter.1 he').2
  rw [hpa] at hout
  by_contra hno
  rw [decide_eq_true (by omega), decide_eq_true (by omega)] at hout
  cases hout

theorem scrubberError_leaves {pa : Nat} (hpa : pa < 2 ^ 64) (hnone : s.padsAt pa = []) (hin : s.c.bad.contains (pa / 32) = false) :
    exec (.scrubberError pa) s = .next ((s.modC fun c => { c with bad := c.bad ++ [pa / 32] }).modM fun m =>
      { m with vectors := m.vectors ++ [0], hostLog := m.hostLog ++ [(57, 4)] }) := by
  have hheld : ¬ heldAt 0 ≤ pa := by
    unfold heldAt
    omega
  refine congrArg Host.Outcome.next ((if_neg hheld).trans ?_)
  rw [State.tellPads, hnone]
  refine (if_pos rfl).trans ?_
  simp only [State.modC, hin]
  rfl

/-- Settles O50: a port's state through `setPort_enters`, the units that fail through what is lost (`State.lost`) and stays so. -/
theorem portsAndFailedUnits : Obligations.PortsAndFailedUnits := by
  unfold Obligations.PortsAndFailedUnits
  exact ⟨fun s n x hx => port_table hx, fun s => ⟨fun k hk hlt => clusterRetire_leaves hk hlt, fun d hd hin => dieFailure_leaves hd hin,
    fun die base len moves => channelRetire_leaves die base len moves, fun p hp hin => cxlPortDown_leaves hp hin,
    fun pa hpa hnone hin => scrubberError_leaves hpa hnone hin⟩⟩

end

end Sys2Proof.Machine

/-! PROOF. Fills that land, and accesses that are performed. -/

namespace Sys2Proof.Machine

section
variable {s : State}

/-! ### What a packet that tries its instruction again leaves of the warps -/

/-- A thread but for what it waits on. -/
def Thread.still (t : Thread) : Thread := { t with st := .packed }

/-- A warp but for what its threads wait on. -/
def Warp.still (w : Warp) : Warp := { w with threads := w.threads.map Thread.still }

theorem still_modWarp {k l : WKey} {f : Warp → Warp} (hidx : ∀ w, (f w).idx = w.idx) (hf : ∀ w, (f w).still = w.still) :
    ((s.modWarp k f).warpOf l).map Warp.still = (s.warpOf l).map Warp.still := by
  by_cases hl : l = k
  · subst hl
    rw [State.warpOf_modWarp s l f hidx, Option.map_map]
    exact congrArg (fun g => (s.warpOf l).map g) (funext hf)
  · rw [warpOf_modWarp_ne hidx hl]

theorem still_modThreads (w : Warp) (lanes : List Nat) {f : Thread → Thread} (hf : ∀ t, (f t).still = t.still) :
    (w.modThreads lanes f).still = w.still := by
  have hthreads : (w.modThreads lanes f).threads.map Thread.still = w.threads.map Thread.still := by
    refine List.ext_getElem? fun i => ?_
    rw [Warp.modThreads, List.getElem?_map, List.getElem?_map, List.getElem?_mapIdx, Option.map_map]
    refine congrArg (fun g => Option.map g w.threads[i]?) (funext fun t => ?_)
    simp only [Function.comp]
    split
    · exact hf t
    · rfl
  exact congrArg (fun l => { w with threads := l }) hthreads

/-- A stalled thread whose packet tries its instruction again. -/
def Thread.again (t : Thread) : Thread :=
  match t.st with
  | .stalled _ => { t with st := .packed }
  | _ => t

theorem still_again (t : Thread) : t.again.still = t.still := by
  unfold Thread.again
  split <;> rfl

theorem resume_unseen {β : Type} (view : State → β) (hview : ∀ (s : State) wk lanes, view (s.modLanes wk lanes Thread.again) = view s)
    (s : State) (core : Nat) (wk : WKey) (q : ThreadSt → Bool) (lane : Nat → Bool) : view (s.resume core wk q lane) = view s := by
  refine foldl_unseen (σ := State) view (fun s p => ?_) _ s
  split
  · exact foldl_unseen (σ := State) view (fun s a => hview s a.wk a.lanes) p.arms s
  · rfl

theorem still_resume (s : State) (core : Nat) (wk : WKey) (q : ThreadSt → Bool) (lane : Nat → Bool) (l : WKey) :
    ((s.resume core wk q lane).warpOf l).map Warp.still = (s.warpOf l).map Warp.still :=
  resume_unseen (fun s => (s.warpOf l).map Warp.still)
    (fun s wk lanes => still_modWarp (s := s) (k := wk) (l := l) (f := (·.modThreads lanes Thread.again)) (fun _ => rfl)
      fun w => still_modThreads w lanes still_again) s core wk q lane

theorem thread_of_still {w v : Warp} (h : v.still = w.still) {l : Nat} {t : Thread} (ht : w.threads[l]? = some t) :
    ∃ u, v.threads[l]? = some u ∧ ({ u with st := t.st } : Thread) = t := by
  have hthreads : v.threads.map Thread.still = w.threads.map Thread.still := congrArg (fun w => w.threads) h
  have hl : (v.threads[l]?).map Thread.still = some t.still := by
    rw [← List.getElem?_map, hthreads, List.getElem?_map, ht, Option.map_some]
  obtain ⟨u, hu, hst⟩ := Option.map_eq_some_iff.1 hl
  exact ⟨u, hu, congrArg (fun x : Thread => { x with st := t.st }) hst⟩

theorem warp_of_still {w v : Warp} (h : v.still = w.still) : ({ v with threads := w.threads } : Warp) = w :=
  congrArg (fun x : Warp => { x with threads := w.threads }) h

/-! ### A fill that lands -/

/-- A core once a fill is gone from it. -/
def CoreSt.dropFill (id : Nat) (c : CoreSt) : CoreSt := { c with fills := c.fills.filter (·.id != id) }

/-- The machine once a fill has gone and its value stands in its register. -/
def State.filled (s : State) (core : Nat) (f : Fill) : State :=
  (s.modCore core fun c => { c with fills := c.fills.filter (·.id != f.id) }).modWarp f.wk (·.modThread f.lane (·.land f.reg f.v))

/-- The machine once a handle fill has gone and its bits stand in the handle. -/
def State.handleFilled (s : State) (core : Nat) (f : HFill) : State :=
  (s.modCore core fun c => { c with hfills := c.hfills.filter (·.id != f.id) }).modWarp f.wk (·.landHandle f.h f.v)

theorem land_empty {t : Thread} {i : Nat} {v : TV} {r : Reg} (hr : t.regs[i]? = some r) (he : r.st = .empty) :
    t.land i v = { t with regs := t.regs.set i ⟨.full, v⟩ } := by
  simp only [Thread.land, hr]
  exact if_pos (by rw [he]; rfl)

theorem modThread_getElem? (w : Warp) (lane l : Nat) (f : Thread → Thread) :
    (w.modThread lane f).threads[l]? = (w.threads[l]?).map fun t => if l = lane then f t else t := by
  rw [Warp.modThread, List.getElem?_mapIdx]

theorem warpOf_filled (core : Nat) (f : Fill) (wk : WKey) :
    (s.filled core f).warpOf wk = (s.warpOf wk).map fun w => if wk = f.wk then w.modThread f.lane (·.land f.reg f.v) else w := by
  by_cases h : wk = f.wk
  · subst h
    rw [State.filled, State.warpOf_modWarp _ f.wk (·.modThread f.lane (·.land f.reg f.v)) fun _ => rfl]
    simp only [if_true]
    rfl
  · rw [State.filled, warpOf_modWarp_ne (f := (·.modThread f.lane (·.land f.reg f.v))) (fun _ => rfl) h]
    simp only [h, if_false, Option.map_id']
    rfl

theorem warpOf_handleFilled (core : Nat) (f : HFill) (wk : WKey) :
    (s.handleFilled core f).warpOf wk = (s.warpOf wk).map fun w => if wk = f.wk then w.landHandle f.h f.v else w := by
  have hidx : ∀ w : Warp, (w.landHandle f.h f.v).idx = w.idx := fun w => by
    unfold Warp.landHandle Warp.putHandle
    split <;> rfl
  by_cases h : wk = f.wk
  · subst h
    rw [State.handleFilled, State.warpOf_modWarp _ f.wk _ hidx]
    simp only [if_true]
    rfl
  · rw [State.handleFilled, warpOf_modWarp_ne hidx h]
    simp only [h, if_false, Option.map_id']
    rfl

section
variable {core id : Nat} {c : CoreSt} (hc : s.coreOf core = some c)
include hc

theorem fillLands_leaves {f : Fill} (hf : c.fills.find? (·.id == id) = some f) : ∃ t, exec (.fillLands core id) s = .next t ∧
    t.c.mem = s.c.mem ∧ t.c.pend = s.c.pend ∧
    ((t.coreOf core).map (·.fills) = some (c.fills.filter (·.id != id))) ∧
    (∀ th, s.threadOf f.wk f.lane = some th → (∃ r, th.regs[f.reg]? = some r ∧ r.st = .empty) →
      ∃ u, t.threadOf f.wk f.lane = some u ∧
        ({ u with st := th.st } : Thread) = { th with regs := th.regs.set f.reg ⟨.full, f.v⟩ }) ∧
    (∀ wk lane th, s.threadOf wk lane = some th → (wk ≠ f.wk ∨ lane ≠ f.lane) →
      ∃ u, t.threadOf wk lane = some u ∧ ({ u with st := th.st } : Thread) = th) := by
  obtain rfl : f.id = id := by simpa using List.find?_some (p := fun f : Fill => f.id == id) hf
  have hexec : exec (.fillLands core f.id) s = .next ((s.filled core f).resume core f.wk (· == .stalled none) (· == f.lane)) := by
    refine congrArg Host.Outcome.next ?_
    simp only [hc, Option.bind_some, hf]
    rfl
  have hthread : ∀ {wk lane th}, (s.filled core f).threadOf wk lane = some th →
      ∃ u, ((s.filled core f).resume core f.wk (· == .stalled none) (· == f.lane)).threadOf wk lane = some u ∧
        ({ u with st := th.st } : Thread) = th := fun {wk lane th} hth => by
    obtain ⟨w, hw, hth⟩ := threadOf_eq_some.1 hth
    have hstill := still_resume (s.filled core f) core f.wk (· == .stalled none) (· == f.lane) wk
    rw [hw, Option.map_some] at hstill
    obtain ⟨v, hv, hvw⟩ := Option.map_eq_some_iff.1 hstill
    obtain ⟨u, hu, hst⟩ := thread_of_still hvw hth
    exact ⟨u, threadOf_eq_some.2 ⟨v, hv, hu⟩, hst⟩
  refine ⟨_, hexec, resume_unseen (·.c.mem) (fun _ _ _ => rfl) _ _ _ _ _, resume_unseen (·.c.pend) (fun _ _ _ => rfl) _ _ _ _ _, ?_,
    fun th hth hreg => ?_, fun wk lane th hth hne => ?_⟩
  · rw [resume_unseen (·.coreOf core) (fun _ _ _ => rfl)]
    show (((s.modCore core (CoreSt.dropFill f.id)).coreOf core).map (·.fills)) = _
    rw [coreOf_modCore (f := CoreSt.dropFill f.id) (fun _ => rfl), hc]
    rfl
  · obtain ⟨w, hw, hl⟩ := threadOf_eq_some.1 hth
    obtain ⟨r, hr, he⟩ := hreg
    have hlanded : (s.filled core f).threadOf f.wk f.lane = some (th.land f.reg f.v) := by
      refine threadOf_eq_some.2 ⟨_, (warpOf_filled core f f.wk).trans (by rw [hw, Option.map_some, if_pos rfl]), ?_⟩
      rw [modThread_getElem?, hl, Option.map_some, if_pos rfl]
    rw [land_empty hr he] at hlanded
    exact hthread hlanded
  · obtain ⟨w, hw, hl⟩ := threadOf_eq_some.1 hth
    refine hthread (threadOf_eq_some.2 ⟨_, (warpOf_filled core f wk).trans (by rw [hw, Option.map_some]), ?_⟩)
    by_cases hwk : wk = f.wk
    · rw [if_pos hwk, modThread_getElem?, hl, Option.map_some, if_neg (hne.resolve_left (not_not_intro hwk))]
    · rw [if_neg hwk, hl]

theorem handleFillLands_leaves {f : HFill} (hf : c.hfills.find? (·.id == id) = some f) : ∃ t, exec (.handleFillLands core id) s = .next t ∧
    t.c.mem = s.c.mem ∧ t.c.pend = s.c.pend ∧
    (∀ w, s.warpOf f.wk = some w → ∃ u, t.warpOf f.wk = some u ∧
      ({ u with threads := w.threads } : Warp) = w.landHandle f.h f.v) ∧
    (∀ wk w, wk ≠ f.wk → s.warpOf wk = some w → ∃ u, t.warpOf wk = some u ∧ ({ u with threads := w.threads } : Warp) = w) := by
  obtain rfl : f.id = id := by simpa using List.find?_some (p := fun f : HFill => f.id == id) hf
  have hexec : exec (.handleFillLands core f.id) s =
      .next ((s.handleFilled core f).resume core f.wk (· == .stalled (some (.handle f.h))) fun _ => true) := by
    refine congrArg Host.Outcome.next ?_
    simp only [hc, Option.bind_some, hf]
    rfl
  have hwarp : ∀ {wk w}, (s.handleFilled core f).warpOf wk = some w →
      ∃ u, ((s.handleFilled core f).resume core f.wk (· == .stalled (some (.handle f.h))) fun _ => true).warpOf wk = some u ∧
        ({ u with threads := w.threads } : Warp) = w := fun {wk w} hw => by
    have hstill := still_resume (s.handleFilled core f) core f.wk (· == .stalled (some (.handle f.h))) (fun _ => true) wk
    rw [hw, Option.map_some] at hstill
    obtain ⟨v, hv, hvw⟩ := Option.map_eq_some_iff.1 hstill
    exact ⟨v, hv, warp_of_still hvw⟩
  have hthreads : ∀ w : Warp, (w.landHandle f.h f.v).threads = w.threads := fun w => by
    unfold Warp.landHandle Warp.putHandle
    split <;> rfl
  refine ⟨_, hexec, resume_unseen (·.c.mem) (fun _ _ _ => rfl) _ _ _ _ _, resume_unseen (·.c.pend) (fun _ _ _ => rfl) _ _ _ _ _,
    fun w hw => ?_, fun wk w hne hw => ?_⟩
  · have hu := hwarp ((warpOf_handleFilled core f f.wk).trans (by rw [hw, Option.map_some, if_pos rfl]))
    rwa [hthreads] at hu
  · exact hwarp ((warpOf_handleFilled core f wk).trans (by rw [hw, Option.map_some, if_neg hne]))

end

/-! ### An access that is performed -/

theorem older_irrefl (e : PStore) : e.older e = false := by simp [PStore.older]

theorem retire_of_pend {c : Compute} {l : List PStore} {r : List PStore × List Host.Cell} (hl : c.pend = l) (hr : retireList [] l c.mem = r) :
    c.retire.pend = r.1 ∧ c.retire.mem = r.2 := by
  subst hl hr
  exact ⟨rfl, rfl⟩

section
variable {lvl : Nat} {e : PStore} (hp : s.c.pend = [e]) (hred : e.red = none)
include hp hred

theorem performReds_none (p : PStore → Bool) : s.performReds p = s := by
  rw [State.performReds, hp]
  simp [hred]

theorem accessPerformed_exec : exec (.accessPerformed e.id lvl) s = .next (if 5 ≤ lvl then
    s.modC fun c => { c with pend := c.pend.map fun q =>
      if q.red.isNone && (q.id == e.id || (q.older e && q.overlaps e.pa e.bytes.length)) && !q.clus.contains (lvl - 5) then
        { q with clus := q.clus ++ [lvl - 5] } else q }
    else s.modC fun c => (c.expose lvl e).retire) := by
  refine congrArg Host.Outcome.next ?_
  have hfind : s.c.pend.find? (·.id == e.id) = some e := by
    rw [hp]
    exact List.find?_cons_of_pos (p := fun q : PStore => q.id == e.id) (beq_self_eq_true e.id)
  rw [State.performAccess, hfind]
  refine (if_neg (by simp [hred])).trans ?_
  rw [performReds_none hp hred]

omit hred in
theorem expose_one (hlvl : e.lvl < lvl) : (s.c.expose lvl e).pend = [{ e with lvl := lvl }] := by
  simp [Compute.expose, Compute.raise, hp, older_irrefl, hlvl]

theorem accessPerformed_leaves (hlvl : e.lvl < lvl) : ∃ t, exec (.accessPerformed e.id lvl) s = .next t ∧ t.c.positions = s.c.positions ∧
    (lvl < 4 → t.c.mem = s.c.mem ∧ t.c.pend = [{ e with lvl := lvl }]) ∧
    (lvl = 4 → t.c.mem = memWrite s.c.mem e.pa e.bytes ∧ t.c.pend = []) ∧
    (5 ≤ lvl → t.c.mem = s.c.mem ∧ ∃ q, t.c.pend = [q] ∧ q.clus.contains (lvl - 5) = true ∧ { q with clus := e.clus } = e) := by
  have hexec := accessPerformed_exec (lvl := lvl) hp hred
  by_cases h5 : 5 ≤ lvl
  · rw [if_pos h5] at hexec
    refine ⟨_, hexec, rfl, fun h => by omega, fun h => by omega, fun _ => ⟨rfl, ?_⟩⟩
    rw [State.modC_c, hp]
    by_cases hin : e.clus.contains (lvl - 5) = true
    · exact ⟨e, by simp_all, hin, rfl⟩
    · exact ⟨{ e with clus := e.clus ++ [lvl - 5] }, by simp_all, by simp, rfl⟩
  · rw [if_neg h5] at hexec
    have hpend := expose_one hp hlvl
    refine ⟨_, hexec, rfl, fun h => ?_, fun h => ?_, fun h => absurd h h5⟩
    · have hkeep : retireList [] [{ e with lvl := lvl }] s.c.mem = ([{ e with lvl := lvl }], s.c.mem) := by
        simp [retireList, Nat.not_le.2 h]
      have hret : (s.c.expose lvl e).retire.pend = _ ∧ (s.c.expose lvl e).retire.mem = _ := retire_of_pend hpend hkeep
      exact ⟨hret.2, hret.1⟩
    · have hgone : retireList [] [{ e with lvl := lvl }] s.c.mem = ([], memWrite s.c.mem e.pa e.bytes) := by
        simp [retireList, h, hred]
      have hret : (s.c.expose lvl e).retire.pend = _ ∧ (s.c.expose lvl e).retire.mem = _ := retire_of_pend hpend hgone
      exact ⟨hret.2, hret.1⟩

end

/-- Settles O19: a landed fill changes its register (`land_empty`), and the packet that tries again only what threads wait on. -/
theorem fillsAndPerformedAccesses : Obligations.FillsAndPerformedAccesses := by
  unfold Obligations.FillsAndPerformedAccesses
  exact ⟨fun s core id c hc => ⟨fun f hf => fillLands_leaves hc hf, fun f hf => handleFillLands_leaves hc hf⟩,
    fun s lvl e hp hred hlvl => accessPerformed_leaves hp hred hlvl⟩

end

end Sys2Proof.Machine

/-! PROOF. Reset, time, heat and the windows of the package. -/

namespace Sys2Proof.Machine

section
variable {s : State}

/-! ### Cold reset and the boot chain (R428, R429) -/

theorem bootChain_succ (m : BitVec 512) (n : Nat) (i : BootImage) (r : List BootImage) :
    bootChain m (n + 1) (i :: r) = if goodImage i = false then (m, .recovery) else bootChain (extend m (imageDigest i)) n r := by
  rw [bootChain]
  cases goodImage i <;> rfl

/-- What the three stages of the boot chain leave, image by image. -/
theorem bootChain_three (m : BitVec 512) (a b c : BootImage) (rest : List BootImage) :
    bootChain m 3 (a :: b :: c :: rest) = if goodImage a = false then (m, .recovery)
      else if goodImage b = false then (extend m (imageDigest a), .recovery)
      else if goodImage c = false then (extend (extend m (imageDigest a)) (imageDigest b), .recovery)
      else (extend (extend (extend m (imageDigest a)) (imageDigest b)) (imageDigest c), .running) := by
  rw [bootChain_succ m 2, bootChain_succ _ 1, bootChain_succ _ 0, bootChain]

/-! ### Time (R432) -/

theorem slewed_of_now (h : s.m.slewFrom = s.now) : s.slewed = 0 := by
  simp only [State.slewed, h, Int.sub_self, Int.zero_mul, Int.zero_ediv, Int.neg_zero]
  split <;> omega

/-- The machine once a PTP message sets the time at once. -/
def State.timeSet (s : State) (time : Nat) : State :=
  s.modM fun m => { m with ptp := (time : Int) - s.now, synced := true, slew := 0, slewFrom := s.now, stepTo := time }

/-- The machine once a PTP message's correction is to be slewed. -/
def State.timeSlewed (s : State) (time : Nat) : State :=
  s.drawWord.2.modM fun m => { m with ptp := m.ptp + s.slewed, slew := (time : Int) - s.time, slewFrom := s.now,
                                      slewPpm := 1 + s.drawWord.1.toNat % 100 }

theorem ptpMessage_exec (time : Nat) : exec (.ptpMessage time) s = .next (if !s.m.synced || decide ((time : Int) - s.time > 1000000) then
    s.timeSet time else s.timeSlewed time) := by
  refine congrArg Host.Outcome.next ?_
  rfl

theorem timeSet_time (time : Nat) : (s.timeSet time).time = time := by
  have h0 : (s.timeSet time).slewed = 0 := slewed_of_now rfl
  have hnow : ((s.timeSet time).now : Int) + (s.timeSet time).m.ptp = time := by
    show (s.now : Int) + ((time : Int) - s.now) = time
    omega
  rw [State.time, h0, hnow]
  rfl

theorem timeSlewed_time (time : Nat) : (s.timeSlewed time).time = s.time := by
  have h0 : (s.timeSlewed time).slewed = 0 := slewed_of_now rfl
  have hnow : ((s.timeSlewed time).now : Int) + (s.timeSlewed time).m.ptp = (s.now : Int) + s.m.ptp + s.slewed := (Int.add_assoc _ _ _).symm
  rw [State.time, h0, hnow, Int.add_zero, State.time]

theorem ptpMessage_leaves (time : Nat) : ∃ t, exec (.ptpMessage time) s = .next t ∧ t.c = s.c ∧ t.t = s.t ∧
    (s.m.synced = false ∨ (s.time : Int) + 1000000 < time → t.m.synced = true ∧ t.time = time) ∧
    (s.m.synced = true → (time : Int) ≤ s.time + 1000000 → t.time = s.time ∧ t.m.slew = time - s.time) := by
  by_cases hset : s.m.synced = false ∨ (s.time : Int) + 1000000 < time
  · refine ⟨_, (ptpMessage_exec time).trans (congrArg _ (if_pos ?_)), rfl, rfl, fun _ => ⟨rfl, timeSet_time time⟩, fun hsync hle => ?_⟩
    · rcases hset with h | h
      · rw [h]
        rfl
      · rw [decide_eq_true (by omega), Bool.or_true]
    · rcases hset with h | h
      · exact absurd (hsync.symm.trans h) (by decide)
      · omega
  · obtain ⟨hsync, hle⟩ := not_or.1 hset
    refine ⟨_, (ptpMessage_exec time).trans (congrArg _ (if_neg ?_)), rfl, rfl, fun h => absurd h hset,
      fun _ _ => ⟨timeSlewed_time time, rfl⟩⟩
    rw [Bool.of_not_eq_false hsync, decide_eq_false (by omega)]
    exact Bool.false_ne_true

/-! ### The windows (R423, R425, R453) -/

theorem readbackAddress_leaves {link : Bool} {addr : Dword} {c : Ctx} (hy : s.linkYields link .readback = false) (hb : s.m.boot = .running)
    (hc : s.ctxOf (addr.extractLsb' 44 12).toNat = some c) :
    let sp := (addr.extractLsb' 56 8).toNat
    let idx := (addr.extractLsb' 0 44).toNat
    ∃ t, exec (.readbackAddress ⟨link, addr⟩) s = .next t ∧ t.c = s.c ∧ t.t = s.t ∧ t.m.readback.addr = addr ∧
      (s.readStatus c.id sp = 0 → t.m.readback = ⟨addr, 0, (List.range 64).map (s.imageByte c sp idx)⟩) ∧
      (s.readStatus c.id sp ≠ 0 → t.m.readback = ⟨addr, s.readStatus c.id sp, List.replicate 64 0⟩) := by
  intro sp idx
  have hexec : exec (.readbackAddress ⟨link, addr⟩) s = .next
      { s with free := s.free + 64, m := { s.m with readback := ⟨addr, s.readStatus c.id sp,
        if s.readStatus c.id sp = 0 then (List.range 64).map (s.imageByte c sp idx) else List.replicate 64 0⟩ } } := by
    refine congrArg Host.Outcome.next ((onWindow_goes rfl hy).trans ((if_neg (by simp [hb])).trans ?_))
    simp only [hc, ctxOf_id hc]
    split
    · rename_i h0 heq
      obtain rfl := Option.some.inj heq
      rw [h0]
      rfl
    · rename_i hne
      rw [if_neg fun h0 => hne c h0 rfl]
  refine ⟨_, hexec, rfl, rfl, rfl, fun h0 => ?_, fun hne => ?_⟩
  · show ReadBack.mk _ _ _ = _
    rw [if_pos h0, h0]
  · show ReadBack.mk _ _ _ = _
    rw [if_neg hne]

theorem signalWord_getLsbD (w j : Nat) (hj : j < 64) : (s.signalWord w).getLsbD j = (s.ctxOf (64 * w + j)).any (·.signal) := by
  rw [State.signalWord, BitVec.getLsbD_setWidth, decide_eq_true hj, Bool.true_and, BitVec.getLsbD_ofBoolListLE,
    List.getD_eq_getElem?_getD, List.getElem?_map, List.getElem?_range hj]
  rfl

/-- A context once the host has read its signal bit. -/
def Ctx.signalRead (w : Nat) (c : Ctx) : Ctx := if c.id / 64 == w then { c with signal := false } else c

theorem signalBitmapRead_leaves (w : Nat) (hb : s.m.boot = .running) : ∃ t, exec (.signalBitmapRead w) s = .next t ∧ t.c = s.c ∧
    (∀ j, j < 64 → t.m.bitmapRead.getLsbD j = (s.ctxOf (64 * w + j)).any (·.signal)) ∧
    ∀ i c, s.ctxOf i = some c → t.ctxOf i = some (if i / 64 = w then { c with signal := false } else c) := by
  refine ⟨_, congrArg Host.Outcome.next (if_pos (by rw [hb]; rfl)), rfl, fun j hj => signalWord_getLsbD w j hj, fun i c hc => ?_⟩
  have hid : ∀ c : Ctx, (c.signalRead w).id = c.id := fun c => by
    unfold Ctx.signalRead
    split <;> rfl
  show (s.t.ctxs.map (Ctx.signalRead w)).find? (·.id == i) = _
  rw [List.find?_map, show ((fun c : Ctx => c.id == i) ∘ Ctx.signalRead w) = fun c : Ctx => c.id == i from funext fun c => by simp [hid],
    show s.t.ctxs.find? (fun c : Ctx => c.id == i) = some c from hc, Option.map_some, Ctx.signalRead, ctxOf_id hc]
  simp only [beq_iff_eq]

theorem windows_behind (o : Nat) : (∀ link : Bool, o < 2 ^ 15 → hostWindowAt 0 ((if link then 2 ^ 15 else 0) + o) = some (.config link, o)) ∧
    (o < 4096 → (∀ ctx, ctx < 4096 → hostWindowAt 2 (4096 * ctx + o) = some (.launch ctx, o)) ∧
      (∀ q, q < 1024 → hostWindowAt 2 (2 ^ 24 + 4096 * q + o) = some (.push q, o)) ∧ hostWindowAt 4 o = some (.readback, o)) := by
  refine ⟨fun link ho => ?_, fun ho => ⟨fun ctx hctx => ?_, fun q hq => ?_, ?_⟩⟩
  · cases link
    · refine (if_pos (by simp; omega)).trans ?_
      have hlow : ¬ 0x8000 ≤ 0 + o := by omega
      simp [Nat.mod_eq_of_lt (show o < 0x8000 from ho)]
      omega
    · refine (if_pos (by simp; omega)).trans ?_
      simp [Nat.mod_eq_of_lt (show o < 0x8000 from ho)]
  · refine (if_pos (by omega)).trans ?_
    rw [show (4096 * ctx + o) / 4096 = ctx by omega, show (4096 * ctx + o) % 4096 = o by omega]
  · refine (if_neg (by omega)).trans ((if_pos (by omega)).trans ?_)
    rw [show (2 ^ 24 + 4096 * q + o - 2 ^ 24) / 4096 = q by omega, show (2 ^ 24 + 4096 * q + o) % 4096 = o by omega]
  · exact if_pos ho

theorem windowWriteOther_leaves (link : Bool) (bar off : Nat) (d : BitVec 512) :
    let bad : Bool := hostWindowAt bar off == some (.config link, 0) && !knownOp (d.extractLsb' 0 8).toNat
    (bad = false → exec (.windowWriteOther ⟨link, bar⟩ ⟨off, d⟩) s = .next s) ∧
    (bad = true → s.takes link → s.Serves link (.windowWriteOther ⟨link, bar⟩ ⟨off, d⟩) s .badCommand) := by
  intro bad
  refine ⟨fun hbad => congrArg Host.Outcome.next (if_neg (Bool.eq_false_iff.1 hbad)), fun hbad hs => ?_⟩
  refine serves_of (serve := serveBadOp) hs (congrArg Host.Outcome.next (if_pos hbad)) ?_
  rw [serveBadOp, hs.1]
  rfl

/-! ### Heat (R433) -/

theorem thermalTrip_exec : exec .thermalTrip s = .next (((s.c.grids.filter (·.live)).foldl
    (fun s g => s.endFatal g.ctx g.id .machineCheck ⟨dieSrc 0, 0, 0, 0⟩) s).modM fun m => { m with boot := .held }) := rfl

/-- Settles O52: the boot chain by its three stages, time by the slewing that starts afresh, the windows by where they lie. -/
theorem packageEvents : Obligations.PackageEvents := by
  unfold Obligations.PackageEvents
  intro s
  refine ⟨fun images => ⟨_, rfl, rfl, rfl, rfl, rfl, rfl, fun a b c rest himg => ?_⟩, fun time => ptpMessage_leaves time, ⟨_, rfl, rfl, rfl⟩,
    fun hnone => ?_, fun g hone => ⟨⟨dieSrc 0, 0, 0, 0⟩, ?_⟩, fun link addr c hy hb hc => readbackAddress_leaves hy hb hc,
    fun w hb => signalBitmapRead_leaves w hb, fun o => windows_behind o, fun link bar off d => windowWriteOther_leaves link bar off d⟩
  · intro m1 m2
    rw [himg]
    refine (congrArg Prod.swap (bootChain_three 0 a b c rest)).trans ?_
    rw [apply_ite Prod.swap, apply_ite Prod.swap, apply_ite Prod.swap]
    rfl
  · rw [thermalTrip_exec, hnone]
    rfl
  · rw [thermalTrip_exec, hone]
    rfl

end

end Sys2Proof.Machine

/-! PROOF. Every step of the engines, the fills and the windows keeps memory canonical (O58). -/

namespace Sys2Proof.Machine

/-! ### Memory in canonical form -/

/-- A change that, where memory and every stash are in canonical form, keeps them so and leaves the agenda. -/
def Canon (s t : State) : Prop := s.memoryOk = true → t.memoryOk = true ∧ t.agenda = s.agenda

theorem memoryOk_iff {s : State} : s.memoryOk = true ↔ Memory.wf s.c.mem = true ∧ ∀ p ∈ s.c.positions, Memory.wf p.stash = true := by
  simp only [State.memoryOk, Bool.and_eq_true, List.all_eq_true]

/-- Accesses that enter memory leave it canonical. -/
theorem retireList_wf (es : List PStore) (keep : List PStore) {m : List Host.Cell} (hm : Memory.wf m = true) :
    Memory.wf (retireList keep es m).2 = true := by
  induction es generalizing keep m with
  | nil => exact hm
  | cons e es ih =>
    unfold retireList
    split
    · exact ih _ (memWrite_wf e.bytes e.pa hm)
    · exact ih _ hm

theorem raise_kept (c : Compute) (p : PStore → Bool) (lvl : Nat) : ((c.raise p lvl).mem, (c.raise p lvl).positions) = (c.mem, c.positions) := rfl

theorem exposeAll_kept (c : Compute) (p : PStore → Bool) (lvl : Nat) :
    ((c.exposeAll p lvl).mem, (c.exposeAll p lvl).positions) = (c.mem, c.positions) :=
  foldl_unseen (σ := Compute) (f := fun c e => c.expose lvl e) (fun c => (c.mem, c.positions)) (fun _ _ => rfl) _ c

/-- What a performed reduction leaves of memory and of the positions. -/
theorem performRed_kept (c : Compute) (id : Nat) :
    ((c.performRed id).1.mem, (c.performRed id).1.positions) = (c.mem, c.positions) := by
  unfold Compute.performRed
  split
  · split
    · dsimp only
      split <;> exact exposeAll_kept c _ _
    · rfl
  · rfl

namespace Canon

theorem refl (s : State) : Canon s s := fun h => ⟨h, rfl⟩

theorem trans {s t u : State} (h : Canon s t) (h' : Canon t u) : Canon s u := fun hs => by
  obtain ⟨ht, hst⟩ := h hs
  obtain ⟨hu, htu⟩ := h' ht
  exact ⟨hu, htu.trans hst⟩

/-- A change may be looked at where memory is canonical before it. -/
theorem assuming {s t : State} (h : s.memoryOk = true → Canon s t) : Canon s t := fun hs => h hs hs

/-- The last step first. -/
theorem after {s t u : State} (h : Canon t u) (h' : Canon s t) : Canon s u := h'.trans h

/-- A change of the clusters that keeps memory canonical, and of which every stash is empty or an old one. -/
theorem comp (s : State) (f : Compute → Compute) (hm : Memory.wf s.c.mem = true → Memory.wf (f s.c).mem = true)
    (hp : ∀ p ∈ (f s.c).positions, p.stash = [] ∨ ∃ q ∈ s.c.positions, q.stash = p.stash) : Canon s (s.modC f) := by
  intro h
  obtain ⟨hmem, hpos⟩ := memoryOk_iff.1 h
  refine ⟨memoryOk_iff.2 ⟨hm hmem, fun p hin => ?_⟩, rfl⟩
  obtain hnil | ⟨q, hq, hstash⟩ := hp p hin
  · rw [hnil]; rfl
  · exact hstash ▸ hpos q hq

/-- A change of the clusters that leaves memory and the positions. -/
theorem kept (s : State) {c : Compute} (h : (c.mem, c.positions) = (s.c.mem, s.c.positions)) : Canon s { s with c := c } := by
  obtain ⟨hmem, hpos⟩ := Prod.mk.inj h
  exact comp s (fun _ => c) (fun hm => hmem ▸ hm) fun p hp => .inr ⟨p, hpos ▸ hp, rfl⟩

/-- A change of the clusters and accesses that then enter memory. -/
theorem retire (s : State) (f : Compute → Compute) (h : ((f s.c).mem, (f s.c).positions) = (s.c.mem, s.c.positions)) :
    Canon s (s.modC fun c => (f c).retire) := by
  obtain ⟨hmem, hpos⟩ := Prod.mk.inj h
  exact comp s _ (fun hm => retireList_wf _ _ (hmem ▸ hm)) fun p hp => .inr ⟨p, hpos ▸ hp, rfl⟩

/-- What is outside the clusters and the agenda is free. -/
theorem outside {s t : State} (ha : t.agenda = s.agenda) (hc : t.c = s.c) : Canon s t := by
  intro h
  refine ⟨?_, ha⟩
  unfold State.memoryOk
  rw [hc]
  exact h

/-- A change of a position that keeps a canonical stash canonical. -/
theorem modPos (s : State) (i : Nat) {f : Position → Position} (hf : ∀ p, Memory.wf p.stash = true → Memory.wf (f p).stash = true) :
    Canon s (s.modPos i f) := by
  intro h
  obtain ⟨hmem, hpos⟩ := memoryOk_iff.1 h
  refine ⟨memoryOk_iff.2 ⟨hmem, fun p hin => ?_⟩, rfl⟩
  obtain ⟨q, hq, rfl⟩ := List.mem_map.1 hin
  split
  · exact hf q (hpos q hq)
  · exact hpos q hq

theorem stash (s : State) (i : Nat) {f : Position → Position} (hf : ∀ p, (f p).stash = p.stash) : Canon s (s.modPos i f) :=
  modPos s i fun p hp => (hf p).symm ▸ hp

theorem warp (s : State) (k : WKey) (f : Warp → Warp) : Canon s (s.modWarp k f) := stash s k.pos fun _ => rfl

theorem block (s : State) (pos stage : Nat) (f : Block → Block) : Canon s (s.modBlock pos stage f) := stash s pos fun _ => rfl

theorem lanes (s : State) (k : WKey) (ls : List Nat) (f : Thread → Thread) : Canon s (s.modLanes k ls f) := warp s k _

theorem core (s : State) (i : Nat) (f : CoreSt → CoreSt) : Canon s (s.modCore i f) := kept s rfl

theorem op (s : State) (i : Nat) (f : EngOp → EngOp) : Canon s (s.modOp i f) := kept s rfl

theorem stile (s : State) (f : Stile → Stile) : Canon s (s.modT f) := outside rfl rfl

theorem mgmt (s : State) (f : Mgmt → Mgmt) : Canon s (s.modM f) := outside rfl rfl

theorem fresh (s : State) : Canon s s.fresh.2 := outside rfl rfl

theorem drawn (s : State) (n : Nat) : Canon s { s with free := n } := outside rfl rfl

theorem raiseIn (s : State) (k : WKey) (f : Flags) : Canon s (s.raiseIn k f) := warp s k _

theorem performRed (s : State) (id : Nat) : Canon s (s.performRed id) := by
  have hkept := performRed_kept s.c id
  unfold State.performRed
  split
  next c k f heq =>
    rw [heq] at hkept
    exact after (raiseIn _ k f) (kept s hkept)
  next c heq =>
    rw [heq] at hkept
    exact kept s hkept

/-- Every part of a write of memory, and every change of the rest, keeps memory canonical. -/
theorem moves : Moves Canon where
  refl := refl
  trans := trans
  performRed := performRed
  expose s _ _ := retire s _ (exposeAll_kept _ _ _)
  raise s _ _ := retire s _ (raise_kept _ _ _)
  write s pa bs _ := comp s _ (fun hm => memWrite_wf bs pa hm) fun p hp => .inr ⟨p, hp, rfl⟩
  calm s _ hmem _ hpos := kept s (Prod.ext hmem hpos)
  win s i _ _ := stash s i fun _ => rfl
  free := drawn
  comp s _ hmem hpos := comp s _ (fun hm => hmem.symm ▸ hm) hpos
  stile s f _ := stile s f
  mgmt s f _ := mgmt s f
  next _ _ := outside rfl rfl

theorem foldl {α : Type} {f : State → α → State} (hf : ∀ s a, Canon s (f s a)) (l : List α) (s : State) : Canon s (l.foldl f s) :=
  moves.foldl hf l s

/-- A fold that carries a state with other results. -/
theorem foldl_with {α β : Type} {f : State × β → α → State × β} (hf : ∀ x a, Canon x.1 (f x a).1) (l : List α) (x : State × β) :
    Canon x.1 (l.foldl f x).1 := by
  induction l generalizing x with
  | nil => exact refl _
  | cons a l ih => exact after (ih _) (hf x a)

theorem foldl_then {α β : Type} {f : β × State → α → β × State} (hf : ∀ x a, Canon x.2 (f x a).2) (l : List α) (x : β × State) :
    Canon x.2 (l.foldl f x).2 := by
  induction l generalizing x with
  | nil => exact refl _
  | cons a l ih => exact after (ih _) (hf x a)

/-- The state of a result that comes with one. -/
theorem of_eq {α : Type} {s t : State} {x : α × State} {a : α} (h : Canon s x.2) (heq : x = (a, t)) : Canon s t := by
  subst heq
  exact h

theorem of_eq_fst {α : Type} {s t : State} {x : State × α} {a : α} (h : Canon s x.1) (heq : x = (t, a)) : Canon s t := by
  subst heq
  exact h

theorem performReds (s : State) (p : PStore → Bool) : Canon s (s.performReds p) := moves.performReds s p

theorem exposed (s : State) (p : PStore → Bool) (lvl : Nat) : Canon s (s.modC fun c => c.exposeAll p lvl) := kept s (exposeAll_kept _ _ _)

theorem pending (s : State) (e : PStore) : Canon s (s.modC fun c => { c with pend := c.pend ++ [e] }) := kept s rfl

theorem pendingRetired (s : State) (e : PStore) : Canon s (s.modC fun c => ({ c with pend := c.pend ++ [e] } : Compute).retire) :=
  retire s (fun c => { c with pend := c.pend ++ [e] }) rfl

/-! ### Accesses of threads -/

theorem publish (s : State) (v : Viewer) (lvl : Nat) : Canon s (s.publish v lvl) := after (moves.expose _ _ _) (performReds s _)

theorem reveal (s : State) (f : Frontier) (lvl : Nat) : Canon s (s.reveal f lvl) := after (moves.expose _ _ _) (performReds s _)

theorem gather (s : State) (v : Viewer) (pa n : Nat) : Canon s (s.gather v pa n) :=
  after (kept _ ((exposeAll_kept _ _ _).trans (exposeAll_kept _ _ _))) (performReds s _)

theorem observe (s : State) (v : Viewer) (pa n : Nat) : Canon s (s.modC fun c => c.observe v pa n) := kept s (exposeAll_kept _ _ _)

theorem raceRecord (s : State) (v : Viewer) (pos a n : Nat) (k : AccKind) (eng : Bool) : Canon s (s.raceRecord v pos a n k eng) :=
  foldl (f := fun s i => s.modC fun c =>
    { c with sectors := put (fun y => y.pos == pos && y.sec == i) ((s.sectorFor v pos i).record v k eng) c.sectors }) (fun s _ => kept s rfl) _ s

theorem recordRace (s : State) (v : Viewer) (p : Position) (r : BitVec 128) (l : Loc) (n : Nat) (k : AccKind) (eng : Bool) :
    Canon s (s.recordRace v p r l n k eng) := by
  unfold State.recordRace
  split
  · exact refl s
  · exact raceRecord s _ _ _ _ _ _

theorem snoopOthers (s : State) (p : Position) (b : Nat) : Canon s (s.snoopOthers p b) := by
  unfold State.snoopOthers
  split
  · exact refl s
  · split
    · exact refl s
    · exact moves.snoopLines s _ _

theorem useTlb (s : State) (p : Position) (l : Loc) : Canon s (s.useTlb p l).1 := by
  unfold State.useTlb
  split
  · exact refl s
  · split
    · exact after (kept _ rfl) (core s _ _)
    · exact refl s

theorem fillTlb (s : State) (p : Position) (l : Loc) : Canon s (s.fillTlb p l) :=
  after (foldl (fun s _ => moves.postPad s _ _) _ _) (useTlb s p l)

theorem readLoc (s : State) (v : Viewer) (p : Position) (l : Loc) (n : Nat) : Canon s (s.readLoc v p l n).2 := by
  unfold State.readLoc
  split
  · exact refl s
  · split
    · exact after (observe _ _ _ _) (after (gather _ _ _ _) (moves.snoop s _ _ _ _ _))
    · exact refl s

theorem writeStash (s : State) (v : Viewer) (pos b : Nat) (bs : List Byte) : Canon s (s.writeStash v pos b bs) := by
  unfold State.writeStash
  dsimp only
  refine after (modPos _ pos fun p hp => ?_) ?_
  · have hold : Memory.wf (memWrite p.stash b bs) = true := memWrite_wf bs b hp
    split
    · exact hold
    · exact hold
  · split
    · exact after (snoopOthers _ _ _) (fresh s)
    · exact fresh s

theorem writeLoc (s : State) (v : Viewer) (p : Position) (l : Loc) (bs : List Byte) : Canon s (s.writeLoc v p l bs) := by
  unfold State.writeLoc
  split
  · exact writeStash s v _ _ bs
  · split
    · exact after (pending _ _) (after (moves.stampKey _ _ _ _) (after (fresh _) (after (performReds _ _) (moves.snoop s _ _ _ _ _))))
    · exact refl s

theorem loadAt (s : State) (v : Viewer) (p : Position) (r : BitVec 128) (l : Loc) (n : Nat) : Canon s (s.loadAt v p r l n).2 :=
  after (fillTlb _ _ _) (after (recordRace _ _ _ _ _ _ _ _) (readLoc s v p l n))

theorem storeAt (s : State) (v : Viewer) (p : Position) (r : BitVec 128) (l : Loc) (w : Word) : Canon s (s.storeAt v p r l w) :=
  after (fillTlb _ _ _) (after (recordRace _ _ _ _ _ _ _ _) (writeLoc s v p l _))

theorem atomWord (s : State) (v : Viewer) (p : Position) (l : Loc) (op : AtomOp) (sys : Bool) (x y : Word) :
    Canon s (s.atomWord v p l op sys x y).2.2 := by
  unfold State.atomWord
  split
  · exact writeStash s v _ _ _
  · split
    · exact refl s
    · dsimp only
      exact after (pendingRetired _ _) (after (moves.stampKey _ _ _ _) (after (fresh _) (after (exposed _ _ _)
        (after (performReds _ _) (after (publish _ _ _) (moves.snoop s _ _ _ _ _))))))

theorem atomAt (s : State) (v : Viewer) (arm : Nat) (p : Position) (r : BitVec 128) (l : Loc) (k : AccKind) (op : AtomOp) (sys : Bool)
    (x y : Word) : Canon s (s.atomAt v arm p r l k op sys x y).2.2 :=
  after (warp _ _ _) (after (kept _ rfl) (after (reveal _ _ _) (after (fillTlb _ _ _) (after (recordRace _ _ _ _ _ _ _ _)
    (atomWord s v p l op sys x y)))))

theorem redAt (s : State) (v : Viewer) (arm : Nat) (p : Position) (r : BitVec 128) (l : Loc) (k : AccKind) (op : AtomOp) (sys : Bool)
    (x : Word) : Canon s (s.redAt v arm p r l k op sys x).2 := by
  have hrace : ∀ l, Canon s ((s.recordRace v p r l 4 k false).fillTlb p l) := fun l => after (fillTlb _ _ _) (recordRace s _ _ _ _ _ _ _)
  unfold State.redAt
  split
  next b =>
    have hword := atomWord ((s.recordRace v p r (.stash b) 4 k false).fillTlb p (.stash b)) v p (.stash b) op sys x 0
    exact after (warp _ _ _) (after (kept _ rfl) (after hword (hrace _)))
  · split
    · exact refl s
    · exact after (warp _ _ _) (after (pending _ _) (after (moves.stampKey _ _ _ _) (after (fresh _) (after (performReds _ _)
        (after (moves.snoop _ _ _ _ _ _) (hrace _))))))

theorem addFill (s : State) (i : Nat) (wk : WKey) (lane : Nat) (d : Spec) (v : TV) (p : Party) : Canon s (s.addFill i wk lane d v p) := by
  unfold State.addFill
  split
  · exact after (core _ _ _) (fresh s)
  · exact refl s

theorem deliver (s : State) (v : Viewer) (c : RCtx) (d : Dst) (x : TV) (srcs : List Src) : Canon s (s.deliver v c d x srcs).2 :=
  addFill s _ _ _ _ _ _

theorem deliverEnd (s : State) (v : Viewer) (c : RCtx) (d : Dst) (x : TV) (srcs : List Src) : Canon s (s.deliverEnd v c d x srcs).2 :=
  deliver s v c d x srcs

theorem fenceBy (s : State) (v : Viewer) (sc : Nat) : Canon s (s.fenceBy v sc) :=
  after (stash _ _ fun _ => rfl) (after (kept _ rfl) (publish s v _))

/-! ### Waits and faults of accesses -/

theorem wantLine (s : State) (p : Position) (b : Nat) (who : Party) (eng : Bool) : Canon s (s.wantLine p b who eng) := by
  unfold State.wantLine
  split
  · exact stash s _ fun _ => rfl
  · exact refl s

theorem postFault (s : State) (ctx obj page : Nat) (wr : Bool) (b : FaultBy) : Canon s (s.postFault ctx obj page wr b).2 := by
  unfold State.postFault
  split
  · exact refl s
  · split
    · exact refl s
    · split
      · exact refl s
      · split
        · exact refl s
        · exact after (moves.flushFaults _ _) (moves.ctx s _ _)

end Canon

namespace Canon

/-! ### Queues -/

theorem tickReady (s : State) : Canon s s.tickReady := stile s _

theorem enter (s : State) (q : Queue) (r : BitVec 512) (slot : Nat) (f : Frontier) : Canon s (s.enter q r slot f) :=
  after (moves.putSlot _ _ _) (foldl (fun s _ => moves.putSlot s _ _) _ s)

theorem decrement {s t : State} {q : Nat} {tid : Word} {f : Frontier} (ht : s.decrement q tid f = some t) : Canon s t := by
  unfold State.decrement at ht
  split at ht
  · exact Option.some.inj ht ▸ refl s
  · split at ht
    · split at ht
      · exact Option.some.inj ht ▸ moves.putSlot s _ _
      · exact Option.some.inj ht ▸ refl s
    · split at ht
      · exact Option.some.inj ht ▸ refl s
      · split at ht
        · exact Option.some.inj ht ▸ moves.putSlot s _ _
        · cases ht

theorem decrements (f : Frontier) (l : List (Word × Nat)) (s : State) (n : Nat) : Canon s (s.decrements f l n).1 := by
  induction l generalizing s n with
  | nil => exact refl s
  | cons x l ih =>
    unfold State.decrements
    split
    next s1 hs1 => exact after (ih s1 (n + 1)) (decrement hs1)
    next => exact refl s

theorem notify (s : State) (q slot : Nat) (f : Frontier) (clash : Nat → Nat → Option Trap) : Canon s (s.notify q slot f clash).1 := by
  unfold State.notify
  split
  · exact refl s
  · split
    · exact refl s
    · split
      · exact refl s
      · split
        · exact refl s
        · exact after (tickReady _) (after (moves.putSlot _ _ _) (decrements f _ s _))

theorem enqueue {s t : State} {ctx : Nat} {r : BitVec 512} {f : Frontier} (ht : s.enqueue ctx r f = .ok t) : Canon s t := by
  unfold State.enqueue at ht
  split at ht
  · cases ht
  next q _ =>
    split at ht
    · cases ht
    · generalize (if q.ctx == ctx then none else s.filterAllows (s.padOfCtx ctx) r) = fe at ht
      dsimp only at ht
      split at ht
      · cases ht
      · split at ht
        · cases ht
        · rw [← Except.ok.inj ht]
          split
          · exact after (stile _ _) (enter s _ _ _ _)
          · exact enter s _ _ _ _

theorem enqBytes (s : State) (v : Viewer) (c : RCtx) (timed : Bool) (bs : List Byte) (srcs : List Src) :
    Canon s (s.enqBytes v c timed bs srcs).2 := by
  unfold State.enqBytes
  dsimp only
  split
  · exact refl s
  next s2 hs2 => exact after (warp _ _ _) (after (enqueue hs2) (fenceBy s v 3))

theorem tdoneLane (s : State) (c : RCtx) (v : Viewer) (full : Bool) : Canon s (s.tdoneLane c v full).2.2 := by
  unfold State.tdoneLane
  split
  · exact refl s
  next q i x _ =>
    split
    · exact refl s
    · split
      next obj page _ =>
        split
        · exact refl s
        · have hfault := postFault s v.ctx obj page false (s.byCore false c.pos.core v.party)
          split
          next s1 heq => exact of_eq hfault heq
          next s1 heq => exact of_eq hfault heq
          next n s1 heq => exact of_eq hfault heq
      next =>
        dsimp only
        have hnotify := after (notify (s.fenceBy v 3) q i (s.releaseOf v.wk c.arm v)
          fun obj off => (s.fenceBy v 3).checkRace v c.pos 0 (.glob obj off) 8 .read) (fenceBy s v 3)
        split
        next s1 t heq =>
          have hs1 := of_eq_fst hnotify heq
          show Canon s (if t.cause == .queueFull then s1.modWarp v.wk (·.tick c.arm) else s1)
          split
          · exact after (warp _ _ _) hs1
          · exact hs1
        next s1 heq =>
          exact after (warp _ _ _) (after (foldl (fun s j => recordRace s _ _ _ _ _ _ _) _ _) (of_eq_fst hnotify heq))

/-! ### Grids end, and positions are withdrawn -/

theorem cancelOp (s : State) (o : EngOp) : Canon s (s.cancelOp o) := moves.toMemRel.cancelOp (fun s f _ _ => stile s f) s o

theorem breakOp (s : State) (o : EngOp) : Canon s (s.breakOp o) := after (foldl (fun s _ => moves.completeTag s _ _ _) _ _) (cancelOp s o)

theorem discard (s : State) (pos : Nat) : Canon s (s.discard pos) := by
  obtain ⟨p, u, -, -, hu, heq⟩ | ⟨heq, -⟩ := moves.toMemRel.discard (fun s f _ _ => stile s f) s pos
  · exact heq ▸ after (modPos u pos fun _ _ => rfl) hu
  · rw [heq]
    exact refl s

theorem hold (s : State) (p : Position) : Canon s (s.hold p) := by
  obtain ⟨u, hu, heq⟩ := moves.toMemRel.hold s p
  exact heq ▸ after (stash u p.id fun _ => rfl) hu

theorem endSpent (s : State) (p : Position) (w : Warp) : Canon s (s.endSpent p w) := moves.endFatal s _ _ _ _

theorem unlessSpent {s t : State} (h : Canon s t) : Canon s (s.unlessSpent t) := by
  unfold State.unlessSpent
  split
  · exact endSpent s _ _
  · exact h

theorem closePast (s : State) : Canon s s.closePast :=
  foldl (f := fun s (p : Position) => (s.writeBackAll p.id).modC fun c => { c with past := c.past.filter (·.id != p.id) })
    (fun s p => after (kept _ rfl) (moves.writeBackAll s p.id)) _ s

theorem wakePos_stash (s : State) (p : Position) : (s.wakePos p).stash = p.stash := by
  unfold State.wakePos
  split <;> rfl

theorem wake (s : State) : Canon s s.wake := by
  refine after (comp _ _ id fun p hp => ?_) (after (closePast _) (unlessSpent (refl s)))
  obtain ⟨q, hq, rfl⟩ := List.mem_map.1 hp
  exact .inr ⟨q, hq, (wakePos_stash _ q).symm⟩

theorem passCycles (s : State) (n : Nat) : Canon s (s.passCycles n) := by
  unfold State.passCycles
  dsimp only
  refine after (outside rfl rfl) (comp s (fun c => { c with positions := c.positions.map fun p =>
    if p.st == .resident || p.st == .stopping then
      { p with blocks := p.blocks.map fun b => if s.blockBlocked p b then { b with dog := b.dog + n } else b }
    else p }) id fun p hp => ?_)
  obtain ⟨q, hq, rfl⟩ := List.mem_map.1 hp
  refine .inr ⟨q, hq, ?_⟩
  split <;> rfl

/-! ### Traps -/

theorem splitTrap (s : State) (wk : WKey) (p : Position) (arm : Arm) (ts : List Nat) (hdr : Nat) : Canon s (s.splitTrap wk p arm ts hdr) := by
  unfold State.splitTrap
  split
  · exact refl s
  · dsimp only
    split
    · exact refl s
    · exact after (core _ _ _) (warp s _ _)

theorem takeTraps (s : State) (wk : WKey) (ts : List (Nat × Trap)) : Canon s (s.takeTraps wk ts) := by
  unfold State.takeTraps
  split
  · dsimp only
    split
    · exact moves.endFatal s _ _ _ _
    · split
      · split
        · exact moves.endFatal s _ _ _ _
        · exact refl s
      · exact after (foldl (fun s a => splitTrap s _ _ a _ _) _ _) (after (warp _ _ _) (core s _ _))
  · exact refl s

theorem trapLanes (s : State) (wk : WKey) (c : Cause) (q : Nat → Thread → Bool) : Canon s (s.trapLanes wk c q) := by
  unfold State.trapLanes
  split
  · exact refl s
  · dsimp only
    split
    · exact refl s
    · exact takeTraps s wk _

theorem trapLogged (s : State) (e : LogEnt) (ts : List (Nat × Trap)) : Canon s (s.trapLogged e ts) := by
  unfold State.trapLogged
  split
  · exact refl s
  · exact after (takeTraps _ _ _) (lanes s _ _ _)

theorem goOn (s : State) (wk : WKey) (sc : StageCode) (q : Thread → Bool) : Canon s (s.goOn wk sc q) := by
  unfold State.goOn
  dsimp only
  split
  · exact after (block _ _ _ _) (warp s _ _)
  · exact warp s _ _

theorem resume (s : State) (i : Nat) (wk : WKey) (q : ThreadSt → Bool) (lane : Nat → Bool) : Canon s (s.resume i wk q lane) := by
  refine foldl (fun s (p : Packet) => ?_) _ s
  split
  · exact foldl (fun s a => lanes s _ _ _) _ s
  · exact refl s

/-! ### Views merged at a barrier of the grid, and grids that end -/

theorem mergeBlock (s : State) (pos stage : Nat) : Canon s (s.mergeBlock pos stage).1 := by
  unfold State.mergeBlock
  split
  · exact refl s
  · exact block s _ _ _

theorem mergeInst (s : State) (ctx grid lin : Nat) : Canon s (s.mergeInst ctx grid lin).1 := by
  unfold State.mergeInst
  split
  · exact after (foldl (fun s x => block s _ _ _) _ _) (kept s rfl)
  · exact refl s

theorem mergeGrid (s : State) (ctx grid : Nat) : Canon s (s.mergeGrid ctx grid).1 := by
  unfold State.mergeGrid
  split
  · exact refl s
  · exact after (kept _ rfl) (moves.grid s _ _ _)

theorem depart (s : State) (wk : WKey) (wt : Wait) (f : Frontier) (fl : Flags) (sc : StageCode) : Canon s (s.depart wk wt f fl sc) :=
  after (warp _ _ _) (goOn s _ _ _)

theorem departBad (s : State) (wk : WKey) (wt : Wait) (f : Frontier) (fl : Flags) : Canon s (s.departBad wk wt f fl) :=
  after (trapLanes _ _ _ _) (warp s _ _)

theorem mergeAll (s : State) (bs : List (Position × Block)) : Canon s (s.mergeAll bs).1 :=
  foldl_with (f := fun (x : State × Flags × List (Nat × Nat)) (pb : Position × Block) =>
    ((x.1.mergeBlock pb.1.id pb.2.stage).1, x.2.1.join (x.1.mergeBlock pb.1.id pb.2.stage).2.flags,
      if (x.1.mergeBlock pb.1.id pb.2.stage).2.bad then x.2.2 ++ [(pb.1.id, pb.2.stage)] else x.2.2))
    (fun x pb => mergeBlock x.1 pb.1.id pb.2.stage) bs (s, ({}, []))

theorem departAll (s : State) (bs : List (Position × Block)) (wt : Wait) (f : Frontier) (fl : Flags) (bad : Position → Block → Bool) :
    Canon s (s.departAll bs wt f fl bad) := by
  refine foldl (fun s (pb : Position × Block) => ?_) bs s
  split
  · exact refl s
  · refine foldl (fun s i => ?_) _ s
    dsimp only
    split
    · exact departBad s _ _ _ _
    · exact depart s _ _ _ _ _

theorem awayArrived (s : State) (g : Grid) : Canon s (s.awayArrived g).2 := by
  unfold State.awayArrived
  split
  · exact refl s
  · exact moves.drawWord s

theorem tryG (s : State) (ctx grid : Nat) : Canon s (s.tryG ctx grid) := by
  unfold State.tryG
  split
  · exact refl s
  next g _ =>
    dsimp only
    split
    · refine after (departAll _ _ _ _ _ _) (after (foldl (fun s pb => block s _ _ _) _ _) (after (moves.grid _ _ _ _) (after (mergeGrid _ _ _)
        ?_)))
      refine after (foldl_with (fun x l => ?_) _ _) ?_
      · exact mergeInst x.1 ctx grid l
      · exact after (mergeAll _ _) (awayArrived s g)
    · exact awayArrived s g

theorem endDisagree (s : State) (ctx src : Nat) (bad : Bool) : Canon s (s.endDisagree ctx src bad) := by
  unfold State.endDisagree
  split
  · exact moves.post s _ _
  · exact refl s

theorem endGrid (s : State) (ctx grid : Nat) : Canon s (s.endGrid ctx grid) := by
  unfold State.endGrid
  split
  · exact refl s
  · split
    · exact moves.closeGrid s _ _
    · exact refl s

theorem endInst (s : State) (ctx grid : Nat) : Canon s (s.endInst ctx grid) := by
  unfold State.endInst
  dsimp only
  split
  · exact after (endGrid _ _ _) (after (endDisagree _ _ _ _) (mergeGrid s _ _))
  · exact refl s

theorem droveNews (s : State) (g : Grid) : Canon s (s.droveNews g) := by
  unfold State.droveNews
  dsimp only
  split
  · exact after (endInst _ _ _) (after (moves.grid _ _ _ _) (moves.drawWord s))
  · exact after (tryG _ _ _) (moves.drawWord s)

theorem reports (s : State) : Canon s s.reports := foldl droveNews _ s

end Canon

namespace Canon

/-! ### Logged accesses tried again (R336) -/

/-- A memory operation that keeps memory canonical as it is performed. -/
def Performs (m : MemOp) : Prop := ∀ (s : State) v c a l, Canon s (m.perform s v c a l).2

theorem ldOp_performs (f : Fmt) (g : Guard) (d : Dst) (hs : BitVec 4) (i o : Src) : Performs (ldOp f g d hs i o) := fun s v c a l =>
  after (deliverEnd _ _ _ _ _ _) (loadAt s v c.pos a.r l 4)

theorem stOp_performs (f : Fmt) (g : Guard) (v : Spec) (hs : BitVec 4) (i o : Src) : Performs (stOp f g v hs i o) := fun s w c a l =>
  storeAt s w c.pos a.r l _

theorem atomOp_performs (op : AtomOp) (sys : Bool) (g : Guard) (d : Dst) (hs : BitVec 4) (i v : Src) (det : Bool) :
    Performs (atomOp op sys g d hs i v det) := fun s w c a l =>
  after (deliver _ w c d _ (i :: operandSrcs op v)) (atomAt s w c.arm c.pos a.r l (atomKind det sys op) op sys (valOf a 0) (valOf a 1))

theorem redOp_performs (op : AtomOp) (sys : Bool) (g : Guard) (hs : BitVec 4) (i v : Src) : Performs (redOp op sys g hs i v) :=
  fun s w c a l => redAt s w c.arm c.pos a.r l (.red sys op) op sys (valOf a 0)

theorem enqOp_performs (i : Instr) (timed : Bool) (hs : BitVec 4) (x : Src) : Performs (enqOp i timed hs x) := fun s v c a l =>
  after (enqBytes _ v c timed _ [x]) (loadAt s v c.pos a.r l 64)

theorem memOpOf_performs {i : Instr} {det : Bool} {m : MemOp} (hm : memOpOf i det = some m) : Performs m := by
  unfold memOpOf at hm
  split at hm
  · exact Option.some.inj hm ▸ ldOp_performs _ _ _ _ _ _
  · exact Option.some.inj hm ▸ stOp_performs _ _ _ _ _ _
  · exact Option.some.inj hm ▸ atomOp_performs _ _ _ _ _ _ _ _
  · exact Option.some.inj hm ▸ redOp_performs _ _ _ _ _ _
  · cases hm

theorem modLog (s : State) (i id : Nat) (f : LogEnt → LogEnt) : Canon s (s.modLog i id f) := core s i _

theorem closeLog (s : State) (i id : Nat) : Canon s (s.closeLog i id) := by
  unfold State.closeLog
  split
  · split
    · exact after (warp _ _ _) (core s _ _)
    · exact refl s
  · exact refl s

theorem trapReplay (s : State) (i : Nat) (e : LogEnt) (lane : Nat) (t : Trap) : Canon s (s.trapReplay i e lane t) :=
  after (trapLogged _ _ _) (after (lanes _ _ _ _) (modLog s _ _ _))

theorem endReplay (s : State) (i : Nat) (e : LogEnt) (lane : Nat) (x : LaneEnd) : Canon s (s.endReplay i e lane x) := by
  cases x with
  | out o => exact raiseIn s _ _
  | trap t => exact trapReplay s i e lane t
  | park w => exact refl s

theorem replayLane (s : State) (i : Nat) (e : LogEnt) {m : MemOp} (hm : Performs m) (l : Nat × Word × Word × List TV × Nat) :
    Canon s (s.replayLane i e m l) := by
  unfold State.replayLane
  split
  · exact refl s
  next c0 _ =>
    dsimp only
    split
    · exact refl s
    next v _ =>
      split
      · exact trapReplay s _ _ _ _
      · exact refl s
      · exact modLog s _ _ _
      next obj page _ =>
        have hfault := postFault s c0.pos.ctx obj page
          (m.req s { c0 with lane := l.1, arm := e.arm, thread := c0.warp.threads[l.1]? } (e.acc l)).wr (s.byCore false i v.party)
        split
        next n s1 heq => exact after (modLog _ _ _ _) (of_eq hfault heq)
        next s1 heq => exact after (modLog _ _ _ _) (of_eq hfault heq)
        next x s1 heq => exact after (trapReplay _ _ _ _ _) (of_eq hfault heq)
      · exact after (endReplay _ _ _ _ _) (after (modLog _ _ _ _) (hm s v _ _ _))

theorem bringFrom (s : State) (hs : BitVec 4) (c : RCtx) (a : Acc) (v : Viewer) (full : Bool) (x : Checked) :
    Canon s (s.bringFrom hs c a v full x).2 := by
  unfold State.bringFrom
  split
  · exact refl s
  · exact refl s
  · exact wantLine s _ _ _ _
  next obj page =>
    split
    · exact refl s
    · have hfault := postFault s c.pos.ctx obj page false (s.byCore false c.pos.core v.party)
      split
      next s1 heq => exact of_eq hfault heq
      next s1 heq => exact of_eq hfault heq
      next n s1 heq => exact of_eq hfault heq
  · exact loadAt s v _ _ _ _

theorem bringAgain (s : State) (hs : BitVec 4) (c : RCtx) (a : Acc) : Canon s (s.bringAgain hs c a).2 := by
  unfold State.bringAgain
  split
  · exact refl s
  · exact bringFrom s hs c a _ _ _

theorem settleLdh (s : State) (i : Nat) (e : LogEnt) (d : Dst) : Canon s (s.settleLdh i e d) := by
  unfold State.settleLdh
  dsimp only
  split
  · split
    · split
      · exact after (trapLogged _ _ _) (warp s _ _)
      · exact after (trapLogged _ _ _) (warp s _ _)
      · exact after (warp _ _ _) (warp s _ _)
      · exact warp s _ _
    · exact refl s
  · exact refl s

theorem replayLdh (s : State) (i : Nat) (e : LogEnt) (d : Dst) (hs : BitVec 4) : Canon s (s.replayLdh i e d hs) := by
  unfold State.replayLdh
  split
  · exact refl s
  next c0 _ =>
    refine after (settleLdh _ _ _ _) (foldl (fun s (l : Nat × Word × Word × List TV × Nat) => ?_) _ s)
    have hbring := bringAgain s hs { c0 with lane := l.1, arm := e.arm, thread := c0.warp.threads[l.1]? } (e.acc l)
    dsimp only
    split
    next r s1 heq => exact after (modLog _ _ _ _) (of_eq hbring heq)
    next n s1 heq => exact after (modLog _ _ _ _) (of_eq hbring heq)
    next t s1 heq => exact after (trapLogged _ _ _) (after (modLog _ _ _ _) (of_eq hbring heq))
    next w s1 heq => exact after (modLog _ _ _ _) (of_eq hbring heq)

theorem replayTdone (s : State) (i : Nat) (e : LogEnt) : Canon s (s.replayTdone i e) := by
  unfold State.replayTdone
  split
  next c0 v _ _ =>
    refine foldl (fun s (l : Nat × Word × Word × List TV × Nat) => ?_) _ s
    have hlane := tdoneLane s { c0 with lane := l.1, arm := e.arm, thread := c0.warp.threads[l.1]? } v false
    dsimp only
    split
    next t f s1 heq => exact after (trapReplay _ _ _ _ _) (of_eq hlane (congrArg Prod.snd heq))
    next w f s1 heq => exact after (modLog _ _ _ _) (of_eq hlane (congrArg Prod.snd heq))
    next o f s1 heq => exact after (modLog _ _ _ _) (of_eq hlane (congrArg Prod.snd heq))
  next => exact refl s

theorem replayLanes (s : State) (i : Nat) (e : LogEnt) {m : MemOp} (hm : Performs m) : Canon s (s.replayLanes i e m) :=
  foldl (fun s l => replayLane s i e hm l) _ s

theorem replayEntry (s : State) (i : Nat) (e : LogEnt) : Canon s (s.replayEntry i e) := by
  unfold State.replayEntry
  dsimp only
  refine after (closeLog _ _ _) ?_
  split
  · exact replayLdh s _ _ _ _
  · exact replayTdone s _ _
  · exact after (tickReady _) (replayLanes s _ _ (enqOp_performs _ _ _ _))
  · exact after (tickReady _) (replayLanes s _ _ (enqOp_performs _ _ _ _))
  · split
    next m hm => exact replayLanes s _ _ (memOpOf_performs hm)
    next => exact refl s

theorem retries (s : State) : Canon s s.retries := by
  refine foldl (fun s (x : Nat × LogEnt) => ?_) _ s
  exact after (replayEntry _ _ _) (modLog s _ _ _)

theorem killLog (s : State) (i : Nat) (e : LogEnt) : Canon s (s.killLog i e) := by
  unfold State.killLog
  split
  · exact refl s
  · dsimp only
    split
    · exact refl s
    · exact after (closeLog _ _ _) (after (trapLogged _ _ _) (after (lanes _ _ _ _) (modLog s _ _ _)))

theorem killLogs (s : State) : Canon s s.killLogs := by
  refine foldl (fun s (x : Nat × LogEnt) => ?_) _ s
  exact killLog s _ _

/-! ### Engine operations -/

theorem drawByte (s : State) : Canon s s.drawByte.2 := drawn s _

theorem drawBit (s : State) : Canon s s.drawBit.2 := drawn s _

theorem stashSeen (o : EngOp) (l : List Unfenced) (cur : Byte) (s : State) : Canon s (stashSeen o cur l s).2 := by
  induction l generalizing cur s with
  | nil => exact refl s
  | cons u l ih =>
    unfold Machine.stashSeen
    split
    · exact refl s
    · dsimp only
      split
      · exact drawBit s
      · exact after (ih _ _) (drawBit s)

theorem memSeen (o : EngOp) (pa : Nat) (l : List PStore) (b : Byte) (s : State) : Canon s (memSeen o pa l b s).2 := by
  induction l generalizing b s with
  | nil => exact refl s
  | cons e l ih =>
    unfold Machine.memSeen
    split
    · exact ih b s
    · split
      · exact ih _ s
      · exact after (ih _ _) (drawBit s)

theorem engRead (s : State) (o : EngOp) (p : Position) (r : BitVec 128) (off : Nat) : Canon s (s.engRead o p r off).2 := by
  unfold State.engRead
  split
  · split
    · exact stashSeen _ _ _ s
    · exact refl s
  · split
    · exact after (memSeen _ _ _ _ _) (moves.snoop s _ _ _ _ _)
    · exact refl s

theorem engReads (s : State) (o : EngOp) (p : Position) (r : BitVec 128) (bs : List (Option Nat)) : Canon s (s.engReads o p r bs).2 := by
  refine foldl_then (fun (x : List Byte × State) (b : Option Nat) => ?_) bs ([], s)
  cases b with
  | none => exact refl _
  | some off => exact engRead x.2 o p r off

theorem engPut_wf {p : Position} (b : Nat) (v : Byte) (h : Memory.wf p.stash = true) : Memory.wf (p.engPut b v).stash = true := by
  have hset := memSet_wf b v h
  unfold Position.engPut
  dsimp only
  split
  · exact hset
  · exact hset

theorem engStash (s : State) (pos off : Nat) (v : Byte) : Canon s (s.engStash pos off v) := by
  unfold State.engStash
  refine after (modPos _ pos fun _ => engPut_wf off v) ?_
  split
  · exact snoopOthers s _ _
  · exact refl s

theorem engWrite (s : State) (ctx pos : Nat) (r : BitVec 128) (off : Nat) (v : Byte) : Canon s (s.engWrite ctx pos r off v) := by
  unfold State.engWrite
  split
  · exact engStash s _ _ _
  · exact moves.objWrite s _ _ _ _

theorem engPuts (ctx pos : Nat) (r : BitVec 128) (l : List (Option Nat × Byte)) (s : State) : Canon s (s.engPuts ctx pos r l) := by
  induction l generalizing s with
  | nil => exact refl s
  | cons x l ih =>
    obtain ⟨_ | off, v⟩ := x
    · exact ih s
    · exact after (ih _) (engWrite s _ _ _ _ _)

theorem engWrites (s : State) (ctx pos : Nat) (r : BitVec 128) (l : List (Option Nat × Byte)) : Canon s (s.engWrites ctx pos r l) := by
  have hputs := engPuts ctx pos r l s
  unfold State.engWrites
  dsimp only
  split
  · refine after (foldl (fun s (x : Option Nat) => ?_) _ _) hputs
    split
    · split
      · exact moves.repair s _
      · exact refl s
    · exact refl s
  · split
    · exact hputs
    next o _ =>
      refine after (foldl (fun s (x : Option Nat) => ?_) _ _) hputs
      split
      next off =>
        split
        · cases o.translate off true with
          | none => exact refl s
          | some pa => exact moves.repair s pa
        · exact refl s
      · exact refl s

theorem opFaults (s : State) (o : EngOp) (obj page : Nat) (wr : Bool) : Canon s (s.opFaults o obj page wr).2 := by
  have hfault := postFault s o.ctx obj page wr (s.faultBy o)
  unfold State.opFaults
  split
  next n s1 heq => exact after (op _ _ _) (of_eq hfault heq)
  next s1 heq => exact of_eq hfault heq
  next s1 heq => exact of_eq hfault heq

theorem finishOp (s : State) (o : EngOp) (c : Option Cause) : Canon s (s.finishOp o c) := moves.finishOp s o c

theorem moveCopy (s : State) (o : EngOp) (p : Position) (hd hs q : BitVec 128) (red : Option (CpyOp × RelFmt)) (n : Nat) :
    Canon s (s.moveCopy o p hd hs q red n) := by
  unfold State.moveCopy
  dsimp only
  split
  · exact after (engWrites _ _ _ _ _) (engReads s _ _ _ _)
  · exact after (engWrites _ _ _ _ _) (after (engReads _ _ _ _ _) (engReads s _ _ _ _))

theorem flushLines (o : EngOp) (p : Position) (n : Nat) (l : List Nat) (s : State) : Canon s (s.flushLines o p n l) := by
  induction l generalizing s with
  | nil => exact finishOp s o none
  | cons x l ih =>
    unfold State.flushLines
    split
    · exact finishOp s o none
    · split
      · exact after (ih _) (moves.writeBack s _ _ _)
      · exact finishOp s o _
      next obj page _ =>
        have hfault := opFaults s o obj page true
        split
        next s1 heq => exact after (finishOp _ _ _) (of_eq hfault heq)
        next s1 heq => exact of_eq hfault heq
      · exact refl s

theorem filled_wf {p : Position} (h : Memory.wf p.stash = true) (b : Nat) (bs : List Byte) (n : Nat) (f : Window → Window) :
    Memory.wf (({ p with stash := memWrite p.stash b bs } : Position).modWin n f).stash = true := memWrite_wf bs b h

theorem fillLine (s : State) (p : Position) (n line : Nat) : Canon s (s.fillLine p n line) := by
  unfold State.fillLine
  split
  · exact refl s
  next w _ =>
    split
    next _ who eng _ _ =>
      split
      · split
        · refine after (modPos _ p.id fun q hq => filled_wf hq _ _ _ _) ?_
          exact after (moves.repair _ _) (after (moves.repair _ _) (after (moves.settle _ _ _) (moves.snoop s _ _ _ _ _)))
        · exact refl s
      next obj page _ =>
        have hfault := postFault s p.ctx obj page false (s.byCore eng p.core who)
        split
        next s1 heq => exact after (stash _ _ fun _ => rfl) (of_eq hfault heq)
        next x s1 heq => exact of_eq hfault heq
      · exact stash s _ fun _ => rfl
    · exact refl s

theorem tile (s : State) (pos id : Nat) (f : Tile → Tile) : Canon s (s.modPos pos (·.modTile id f)) := stash s pos fun _ => rfl

theorem loft (s : State) (pos l : Nat) (f : LoftSlot → LoftSlot) : Canon s (s.modPos pos (·.modLoft l f)) := stash s pos fun _ => rfl

theorem endChain (s : State) (o : EngOp) (c : ChainOp) (chunks : Nat) (x : Option Cause) : Canon s (s.endChain o c chunks x) := by
  unfold State.endChain
  split
  · exact refl s
  next p _ =>
    refine after (finishOp _ o x) (after (block _ o.pos o.stage _) (after (tile _ p.id c.tid _) ?_))
    exact engReads s o p stashRec _

theorem performAccess (s : State) (id lvl : Nat) : Canon s (s.performAccess id lvl) := by
  unfold State.performAccess
  split
  · exact refl s
  next e _ =>
    dsimp only
    split
    · exact after (retire _ (fun c => c) rfl) (performReds s _)
    · split
      · exact after (kept _ rfl) (performReds s _)
      · exact after (retire _ (fun c => c.expose lvl e) rfl) (performReds s _)

end Canon

namespace Canon

/-- A function of a state that may fail, and keeps memory canonical where it does not. -/
theorem getD {o : Option State} {s : State} (h : ∀ t, o = some t → Canon s t) : Canon s (o.getD s) := Moves.getD h (refl s)

theorem ite {p : Prop} [Decidable p] {s t u : State} (ht : Canon s t) (hu : Canon s u) : Canon s (if p then t else u) := by
  split
  · exact ht
  · exact hu

/-! ### Names -/

theorem sendName {s t : State} {pad node : Nat} {n : BitVec 128} {expiry : Nat} {data : Option (List Byte)} {conflict : Bool}
    (ht : s.sendName pad node n expiry data conflict = some t) : Canon s t := by
  unfold State.sendName at ht
  split at ht
  · exact Option.some.inj ht ▸ stile s _
  · cases ht

theorem makeRoom {s t : State} {pad need : Nat} (fuel : Nat) (ht : s.makeRoom pad need fuel = some t) : Canon s t := by
  induction fuel generalizing s with
  | zero => cases ht
  | succ fuel ih =>
    unfold State.makeRoom at ht
    split at ht
    · exact Option.some.inj ht ▸ refl s
    · split at ht
      · cases ht
      · exact after (ih ht) (stile s _)

theorem stampTile (s : State) (pad : Nat) (n : BitVec 128) : Canon s (s.stampTile pad n) := after (stile _ _) (fresh s)

theorem deliverTile (s : State) (id pad : Nat) (n : BitVec 128) (data : List Byte) : Canon s (s.deliverTile id pad n data) := by
  unfold State.deliverTile
  split
  · exact refl s
  · split
    · exact finishOp s _ _
    · exact after (op _ _ _) (after (stile _ _) (stampTile s _ _))

theorem serve (s : State) (pad : Nat) (n : BitVec 128) (data : List Byte) (r : Requester) : Canon s (s.serve pad n data r) := by
  unfold State.serve
  split
  · split
    · exact deliverTile s _ _ _ _
    · split
      · exact finishOp s _ _
      · exact refl s
  · split
    · refine getD fun t ht => ?_
      obtain ⟨u, hu, rfl⟩ := Option.map_eq_some_iff.1 ht
      exact after (stampTile _ _ _) (sendName hu)
    · exact refl s

theorem dropFaces (s : State) : Canon s s.dropFaces := after (stile _ _) (stile s _)

theorem forward (s : State) (pad : Nat) (n : BitVec 128) (expiry : Nat) : Canon s (s.forward pad n expiry).2 := by
  unfold State.forward
  split
  next t ht =>
    obtain ⟨node, -, hsend⟩ := Option.bind_eq_some_iff.1 ht
    exact sendName hsend
  next => exact refl s

theorem request {s t : State} {pad : Nat} {n : BitVec 128} {r : Requester} (ht : s.request pad n r = some t) : Canon s t := by
  unfold State.request at ht
  split at ht
  · exact Option.some.inj ht ▸ serve s _ _ _ _
  · split at ht
    · rw [← Option.some.inj ht]
      split
      · split
        · exact after (stile _ _) (after (forward _ _ _ _) (stile s _))
        · exact stile s _
      · exact stile s _
    · split at ht
      · cases ht
      · exact Option.some.inj ht ▸ after (stile _ _) (forward s _ _ _)

theorem acceptAsk (s : State) (o : EngOp) (n : BitVec 128) (expiry : Nat) : Canon s (s.acceptAsk o n expiry) := by
  unfold State.acceptAsk
  split
  · exact refl s
  · dsimp only
    split
    next t ht => exact after (request ht) (after (op _ _ _) (dropFaces s))
    next => exact dropFaces s

theorem admitFace (s : State) (h : HeldFace) : Canon s (s.admitFace h) := by
  unfold State.admitFace
  split
  next t ht => exact after (stile _ _) (request ht)
  next => exact refl s

/-- Each ask and face that waits, put in order, is tried. -/
theorem admitAsks (s : State) (pad : Nat) : Canon s (s.admitAsks pad) := by
  have hrun : ∀ (l : List (Nat × (State → State))), (∀ x ∈ l, ∀ s, Canon s (x.2 s)) → ∀ s, Canon s (l.foldl (fun s x => x.2 s) s) := by
    intro l
    induction l with
    | nil => exact fun _ s => refl s
    | cons x l ih =>
      exact fun hl s => after (ih (fun y hy => hl y (List.mem_cons_of_mem _ hy)) _) (hl x List.mem_cons_self s)
  refine hrun _ (fun x hx s => ?_) s
  rcases List.mem_append.1 ((sortBy_perm _).mem_iff.1 hx) with hx | hx
  · obtain ⟨y, -, rfl⟩ := List.mem_map.1 hx
    exact acceptAsk s _ _ _
  · obtain ⟨h, -, rfl⟩ := List.mem_map.1 hx
    exact admitFace s h

theorem admits (s : State) : Canon s s.admits := 
  after (foldl (f := fun s (p : Paddock) => s.admitAsks p.id) (fun s p => admitAsks s p.id) _ _) (dropFaces s)

theorem repairSpan (s : State) (pa n : Nat) : Canon s (s.repairSpan pa n) := foldl (fun s k => moves.repair s (pa + 32 * k)) _ s

theorem storeTile (s : State) (f : FoldTile) : Canon s (s.storeTile f) :=
  after (foldl (fun s k => repairSpan s (s.tileAt f (4096 * k)) 4096) _ _) (stile s _)

theorem announce {s t : State} {pad : Nat} {n : BitVec 128} {data : List Byte} {b : Bool} (ht : s.announce pad n data = some (b, t)) :
    Canon s t := by
  unfold State.announce at ht
  split at ht
  · obtain ⟨-, rfl⟩ := Prod.mk.inj (Option.some.inj ht)
    exact refl s
  · split at ht
    · cases ht
    next u hu =>
      have hstore := fun f => after (storeTile u.fresh.2 f) (after (fresh u) (makeRoom _ hu))
      dsimp only at ht
      split at ht
      · obtain ⟨-, rfl⟩ := Prod.mk.inj (Option.some.inj ht)
        exact after (admitAsks _ _) (hstore _)
      · obtain ⟨-, rfl⟩ := Prod.mk.inj (Option.some.inj ht)
        exact after (admitAsks _ _) (after (foldl (fun s r => serve s _ _ _ r) _ _) (after (stile _ _) (hstore _)))

theorem returnConflict (s : State) (h : HeldTile) : Canon s (s.returnConflict h) := by
  unfold State.returnConflict
  split
  · split
    · exact moves.post s _ _
    · exact refl s
  · exact getD fun t ht => sendName ht

theorem takeTile (s : State) (h : HeldTile) : Canon s (s.takeTile h) := by
  unfold State.takeTile
  split
  · exact refl s
  · split
    next t ht => exact announce ht
    next t ht => exact after (returnConflict _ _) (announce ht)
    next => exact stile s _

theorem admitTiles (s : State) : Canon s s.admitTiles := after (foldl takeTile _ _) (stile s _)

theorem markPens (s : State) : Canon s s.markPens := stile s _

/-! ### Positions placed again, launches, saves and restores -/

theorem clearTlb (s : State) (cl : Nat) : Canon s (s.clearTlb cl) := kept s rfl

theorem reclaim (s : State) (pd : Paddock) (n : Need) (cn : Nat) : Canon s (s.reclaim pd n cn) := by
  unfold State.reclaim State.revoke
  split
  · split
    · split
      · exact refl s
      · exact mgmt s _
    · exact refl s
  · exact refl s

theorem borrowCluster (s : State) (pad : Nat) (x : Nat × Bool) : Canon s (s.borrowCluster pad x) := by
  unfold State.borrowCluster
  split
  · exact after (mgmt _ _) (clearTlb s _)
  · exact refl s

theorem putAgain (s : State) (k : Kernel) (g : Grid) (c : Ctx) {p : Position} (i : Nat) (hp : Memory.wf p.stash = true) :
    Canon s (s.putAgain k g c p i) := by
  unfold State.putAgain
  split
  · exact after (kept _ rfl) (modPos s _ fun _ _ => hp)
  · exact after (moves.putPosition _ _ _ _ _ _ _ _ _) (comp s _ id fun q hq => .inr ⟨q, (List.mem_filter.1 hq).1, rfl⟩)

/-- A position found in the machine has a canonical stash where memory is. -/
theorem stash_wf {s : State} (hs : s.memoryOk = true) {p : Position} (hp : p ∈ s.c.positions) : Memory.wf p.stash = true :=
  (memoryOk_iff.1 hs).2 p hp

theorem posOf_wf {s : State} (hs : s.memoryOk = true) {i : Nat} {p : Position} (hp : s.posOf i = some p) : Memory.wf p.stash = true :=
  stash_wf hs (List.mem_of_find?_eq_some hp)

theorem instPositions_wf {s : State} (hs : s.memoryOk = true) {ctx grid lin : Nat} {p : Position} (hp : p ∈ s.instPositions ctx grid lin) :
    Memory.wf p.stash = true :=
  stash_wf hs (List.mem_filter.1 ((sortBy_perm _).mem_iff.1 hp)).1

/-- Positions with canonical stashes are put again, one after the other. -/
theorem putEach (k : Kernel) (g : Grid) (c : Ctx) (l : List (Position × Nat)) (hl : ∀ x ∈ l, Memory.wf x.1.stash = true) (s : State) :
    Canon s (l.foldl (fun s x => s.putAgain k g c x.1 x.2) s) := by
  induction l generalizing s with
  | nil => exact refl s
  | cons x l ih => exact after (ih (fun y hy => hl y (List.mem_cons_of_mem _ hy)) _) (putAgain s k g c x.2 (hl x List.mem_cons_self))

theorem moveInstance (s : State) (k : Kernel) (g : Grid) (c : Ctx) (lin cluster : Nat) (cores : List Nat) :
    Canon s (s.moveInstance k g c lin cluster cores) := by
  unfold State.moveInstance
  refine after (assuming fun hok => putEach k g c _ (fun x hx => ?_) _) (after (moves.grid _ _ _ _) (after (kept _ rfl)
    (foldl (f := fun s (p : Position) => s.discard p.id) (fun s p => discard s p.id) _ s)))
  exact instPositions_wf hok (List.of_mem_zip hx).1

theorem replace (s : State) (k : Kernel) (g : Grid) (c : Ctx) (pd : Paddock) {p : Position} (hp : Memory.wf p.stash = true) :
    Canon s (s.replace k g c pd p) := by
  have hmove : ∀ x lin cores, Canon s ((s.borrowCluster pd.id x).moveInstance k g c lin x.1 cores) := fun x _ _ =>
    after (moveInstance _ _ _ _ _ _ _) (borrowCluster s _ x)
  unfold State.replace
  dsimp only
  split
  · exact putAgain s k g c _ hp
  · split
    · split
      · exact hmove _ _ _
      · exact refl s
    · split
      · split
        · split
          · exact hmove _ _ _
          · exact refl s
        · exact reclaim s _ _ _
      · exact reclaim s _ _ _

theorem placeDiscarded (s : State) (pd : Paddock) : Canon s (s.placeDiscarded pd) := by
  refine foldl (fun s (p : Position) => ?_) _ s
  split
  next c g k q _ _ _ hq =>
    split
    · exact assuming fun hok => replace s k g c pd (posOf_wf hok hq)
    · exact refl s
  next => exact refl s

theorem droveMembers (s : State) (ctx : Nat) (r : BitVec 1024) : Canon s (s.droveMembers ctx r).2 := by
  unfold State.droveMembers
  split
  · exact refl s
  · split
    · exact refl s
    · exact refl s
    · dsimp only
      split
      · split
        · split
          · exact moves.drawWord s
          · exact moves.drawWord s
        · exact refl s
      · exact refl s

theorem launchReply (s : State) (ctx status cause grid : Nat) : Canon s (s.launchReply ctx status cause grid) := moves.ctx s _ _

theorem acceptLaunch (s : State) (ctx : Nat) (pd : Paddock) (k : Kernel) (r : BitVec 1024) (a : Args) (ms : List (Nat × Nat)) :
    Canon s (s.acceptLaunch ctx pd k r a ms) := by
  unfold State.acceptLaunch
  split
  · dsimp only
    split
    · split
      next t ht =>
        exact after (moves.placeRest _ ht) (after (placeDiscarded _ _) (after (launchReply _ _ _ _ _) (kept s rfl)))
      next => exact launchReply s _ _ _ _
    · exact after (launchReply _ _ _ _ _) (kept s rfl)
  · exact moves.ctx s _ _

theorem awaitRead (s : State) (l : LateRead) (src obj page : Nat) {failed : State → State} (hf : ∀ s, Canon s (failed s)) :
    Canon s (s.awaitRead l src obj page failed) := by
  have hfault := postFault s l.ctx obj page false (s.byUnit src ⟨0, 0, 0⟩)
  unfold State.awaitRead
  split
  next t heq => exact after (hf _) (of_eq hfault heq)
  next t heq => exact after (stile _ _) (of_eq hfault heq)
  next n t heq => exact after (stile _ _) (of_eq hfault heq)

theorem awaitLaunch (s : State) (ctx : Nat) (r : BitVec 1024) (status obj page : Nat) : Canon s (s.awaitLaunch ctx r status obj page) :=
  awaitRead s _ _ _ _ fun s => launchReply s _ _ _ _

theorem checkLaunch (s : State) (ctx : Nat) (pd : Paddock) (r : BitVec 1024) : Canon s (s.checkLaunch ctx pd r) := by
  have hdrove := droveMembers s ctx r
  unfold State.checkLaunch
  split
  · exact launchReply s _ _ _ _
  · split
    · exact launchReply s _ _ _ _
    · split
      · exact launchReply s _ _ _ _
      · exact awaitLaunch s _ _ _ _ _
      · dsimp only
        refine ite (launchReply s _ _ _ _) (ite (after (launchReply _ _ _ _ _) hdrove) ?_)
        split
        · exact after (launchReply _ _ _ _ _) (after (moves.post _ _ _) hdrove)
        · exact after (awaitLaunch _ _ _ _ _ _) hdrove
        · exact after (launchReply _ _ _ _ _) hdrove
        · exact after (acceptLaunch _ _ _ _ _ _ _) hdrove

theorem holdLaunch (s : State) (ctx : Nat) (r : BitVec 1024) : Canon s (s.holdLaunch ctx r) :=
  after (moves.ctx _ _ _) (launchReply s _ _ _ _)

theorem launch (s : State) (ctx : Nat) (r : BitVec 1024) : Canon s (s.launch ctx r) := by
  unfold State.launch
  split
  · split
    · exact launchReply s _ _ _ _
    · exact launchReply s _ _ _ _
    · exact holdLaunch s _ _
    · exact holdLaunch s _ _
    · exact holdLaunch s _ _
    · split
      · exact checkLaunch s _ _ _
      · exact holdLaunch s _ _
  · exact launchReply s _ _ _ _
  · exact stile s _

theorem serveHeld (s : State) (ctx : Nat) : Canon s (s.serveHeld ctx) := by
  unfold State.serveHeld
  split
  · split
    · exact after (foldl (fun s r => launch s ctx r) _ _) (moves.ctx s _ _)
    · exact refl s
  · exact refl s

theorem lateRead (s : State) (l : LateRead) : Canon s (s.lateRead l) := by
  unfold State.lateRead
  split
  · exact launch s _ _
  · exact launchReply s _ _ _ _
  · split
    · split
      · exact moves.faultTask s _ _ _
      · exact refl s
    · exact refl s
  · exact refl s

theorem lateReads (s : State) : Canon s s.lateReads := after (foldl lateRead _ _) (stile s _)

theorem endCtx (s : State) (ctx : Nat) : Canon s (s.endCtx ctx) := by
  unfold State.endCtx
  dsimp only
  refine after (moves.retireCtx _ _) (after (moves.ctx _ _ _) ?_)
  split
  · exact after (launchReply _ _ _ _ _) (stile s _)
  · exact stile s _

theorem beginSave (s : State) (ctx : Nat) : Canon s (s.beginSave ctx) := by
  refine after (foldl (f := fun s (p : Position) => s.modPos p.id fun p => { p with st := .stopping }) (fun s p => ?_) _ _) (moves.ctx s _ _)
  exact stash s _ fun _ => rfl

theorem restored (s : State) (ctx : Nat) : Canon s (s.restored ctx) := by
  have hlive : ∀ e, Canon s ((s.modCtx ctx fun c => { c with st := .live }).post ctx e) := fun _ => after (moves.post _ _ _) (moves.ctx s _ _)
  unfold State.restored
  dsimp only
  split
  · exact hlive _
  · split
    · exact after (endCtx _ _) (after (serveHeld _ _) (hlive _))
    · split
      · exact after (beginSave _ _) (after (serveHeld _ _) (hlive _))
      · exact after (serveHeld _ _) (hlive _)

theorem restores (s : State) : Canon s s.restores := foldl restored _ s

theorem savePos (s : State) (p : Position) : Canon s (s.savePos p) := by
  unfold State.savePos
  split
  · exact discard s _
  · split
    · exact hold s _
    · exact refl s

theorem saves (s : State) : Canon s s.saves := foldl savePos _ s

theorem stops (s : State) : Canon s s.stops := by
  refine foldl (fun s (p : Paddock) => foldl (fun s (p : Position) => ?_) _ s) _ s
  exact discard s _

/-! ### Packets that finish early, and errors of the engines' tables -/

theorem finishEarly (s : State) (i : Nat) (wk : WKey) (e : Early) : Canon s (s.finishEarly i wk e) := by
  have hdrop : Canon s (s.modWarp wk fun w => { w with early := w.early.filter (· != e) }) := warp s _ _
  unfold State.finishEarly
  dsimp only
  split
  · split
    · refine after (foldl (fun s (x : Nat × LaneOut) => ?_) _ _) (after (raiseIn _ _ _) hdrop)
      exact after (resume _ _ _ _ _) (lanes s _ _ _)
    · exact hdrop
  · exact hdrop

theorem finishEarlies (s : State) : Canon s s.finishEarlies :=
  foldl (fun s (p : Position) => foldl (fun s (b : Block) => foldl (fun s (w : Warp) =>
    foldl (fun s e => finishEarly s p.core ⟨p.id, b.stage, w.idx⟩ e) _ s) _ s) _ s) _ s

theorem useTables (s : State) (o : EngOp) : Canon s (s.useTables o) := by
  unfold State.useTables
  split
  · exact refl s
  · dsimp only
    split
    · exact after (moves.tellHost _ _ _) (after (breakOp _ _) (drawBit s))
    · exact drawBit s

theorem tableErrors (s : State) : Canon s s.tableErrors := foldl useTables _ s

/-- What follows every step keeps memory canonical. -/
theorem settled (s : State) : Canon s s.after := by
  unfold State.after
  exact after (tableErrors _) (after (reports _) (after (markPens _) (after (admitTiles _) (after (admits _) (after (stops _)
    (after (lateReads _) (after (restores _) (after (saves _) (after (retries _) (after (killLogs _) (after (wake _) (finishEarlies s))))))))))))

end Canon

/-- An outcome that, if the machine goes on, keeps memory canonical. -/
def GoesCanon (s : State) (o : Host.Outcome State Fault Refusal) : Prop := ∀ t, o = .next t → Canon s t

namespace Canon

theorem goes {s t : State} (h : Canon s t) : GoesCanon s (.next t) := fun _ ht => Host.Outcome.next.inj ht ▸ h

/-! ### Fills, accesses and windows -/

theorem execFillLands (i id : Nat) (s : State) : GoesCanon s (execFillLands i id s) := by
  refine goes ?_
  split
  · exact after (resume _ _ _ _ _) (after (warp _ _ _) (core s _ _))
  · exact refl s

theorem execHandleFillLands (i id : Nat) (s : State) : GoesCanon s (execHandleFillLands i id s) := by
  refine goes ?_
  split
  · exact after (resume _ _ _ _ _) (after (warp _ _ _) (core s _ _))
  · exact refl s

theorem execWindowLineFill (pos win line : Nat) (s : State) : GoesCanon s (execWindowLineFill pos win line s) := by
  refine goes ?_
  split
  · exact fillLine s _ _ _
  · exact refl s

/-! ### Engine operations complete -/

/-- A fault of an engine operation: the operation ends where it is fatal, and waits otherwise. -/
theorem faulted (s : State) (o : EngOp) (obj page : Nat) (wr : Bool) {f : State → State} (hf : ∀ s, Canon s (f s)) {b : Bool} {t : State}
    (heq : s.opFaults o obj page wr = (b, t)) : Canon s t ∧ Canon s (f t) :=
  ⟨of_eq (opFaults s o obj page wr) heq, after (hf t) (of_eq (opFaults s o obj page wr) heq)⟩

theorem execCopyComplete (id : Nat) (s : State) : GoesCanon s (execCopyComplete id s) := by
  refine goes ?_
  split
  · exact refl s
  next o _ =>
    split
    next hd hs q red p f _ _ _ _ =>
      have hmove : ∀ s n c, Canon s ((s.moveCopy o p hd hs q red n).finishOp o c) := fun s n c =>
        after (finishOp _ o c) (moveCopy s o p hd hs q red n)
      split
      · exact refl s
      · split
        · exact hmove s _ _
        · exact hmove s _ _
        next n obj page _ =>
          dsimp only
          split
          next t heq => exact (faulted s o _ _ _ (fun s => hmove s n _) heq).2
          next t heq => exact of_eq (opFaults s o _ _ _) heq
        · exact wantLine s _ _ _ _
        · exact refl s
    · exact refl s

theorem execSflushComplete (id : Nat) (s : State) : GoesCanon s (execSflushComplete id s) := by
  refine goes ?_
  split
  · exact refl s
  · split
    · exact ite (refl s) (flushLines _ _ _ _ s)
    · exact refl s

theorem execLloadComplete (id : Nat) (s : State) : GoesCanon s (execLloadComplete id s) := by
  refine goes ?_
  split
  · exact refl s
  next o _ =>
    split
    next l hs first d k p _ _ =>
      have hfail : ∀ s x, Canon s ((s.modPos p.id (·.modLoft l fun y => { y with st := .void })).finishOp o (some x)) := fun s x =>
        after (finishOp _ o _) (loft s p.id l _)
      refine ite (refl s) ?_
      dsimp only
      split
      · refine after (finishOp _ o none) (after (kept _ rfl) (after (loft _ p.id l _) (foldl_then (fun x c => ?_) _ ([], s))))
        exact engReads x.2 o p hs c
      · exact hfail s _
      next obj page _ =>
        split
        next t heq => exact (faulted s o obj page false (fun s => hfail s .pageFaultFatal) heq).2
        next t heq => exact of_eq (opFaults s o obj page false) heq
      · exact wantLine s _ _ _ _
    · exact refl s

theorem execAldComplete (id : Nat) (s : State) : GoesCanon s (execAldComplete id s) := by
  refine goes ?_
  split
  · exact refl s
  next o _ =>
    split
    next _ tid m k p _ _ =>
      have hland : ∀ s g c, Canon s ((s.modPos p.id (·.modTile tid g)).finishOp o c) := fun s g c => after (finishOp _ o c) (tile s p.id tid g)
      refine ite (refl s) ?_
      dsimp only
      split
      · exact after (hland _ _ _) (engReads s o p stashRec _)
      · exact hland s _ _
      next obj page _ =>
        split
        next t heq => exact (faulted s o obj page false (fun s => hland s _ _) heq).2
        next t heq => exact of_eq (opFaults s o obj page false) heq
      · exact wantLine s _ _ _ _
    · exact refl s

theorem execAstComplete (id : Nat) (s : State) : GoesCanon s (execAstComplete id s) := by
  refine goes ?_
  split
  · exact refl s
  next o _ =>
    split
    next m r k cells p _ _ =>
      refine ite (refl s) ?_
      dsimp only
      split
      · refine after (finishOp _ o none) (after (block _ o.pos o.stage _) (foldl (fun s b => ?_) _ s))
        exact after (engStash _ p.id b _) (drawByte s)
      · exact finishOp s o _
      next obj page _ =>
        split
        next t heq => exact (faulted s o obj page false (fun s => finishOp s o _) heq).2
        next t heq => exact of_eq (opFaults s o obj page false) heq
      · exact wantLine s _ _ _ _
    · exact refl s

theorem execChainComplete (id : Nat) (s : State) : GoesCanon s (execChainComplete id s) := by
  refine goes ?_
  split
  · exact refl s
  next o _ =>
    split
    next c p _ _ =>
      dsimp only
      refine ite (refl s) (ite (endChain s _ _ _ _) (ite (endChain s _ _ _ _) ?_))
      split
      · exact endChain s _ _ _ _
      · exact endChain s _ _ _ _
      next n obj page _ =>
        split
        next t heq => exact (faulted s o obj page false (fun s => endChain s o c n _) heq).2
        next t heq => exact of_eq (opFaults s o obj page false) heq
      · exact wantLine s _ _ _ _
    · exact refl s

/-- The events of engines, fills and windows keep memory canonical. -/
theorem exec_memoryEvent {i : Instr} (hi : memoryEvent i = true) (s : State) : GoesCanon s (exec i s) := by
  unfold memoryEvent at hi
  split at hi
  · exact execFillLands _ _ s
  · exact execHandleFillLands _ _ s
  · exact goes (performAccess s _ _)
  · exact execCopyComplete _ s
  · exact execLloadComplete _ s
  · exact execChainComplete _ s
  · exact execAldComplete _ s
  · exact execAstComplete _ s
  · exact execSflushComplete _ s
  · exact execWindowLineFill _ _ _ s
  · exact goes (moves.snoop s _ _ _ _ _)
  · cases hi

/-- A step that goes on keeps memory canonical where what it runs does. -/
theorem stepEnd {s t : State} {o : Host.Outcome State Fault Refusal} (ho : GoesCanon s o) (ht : stepEnd s o = .next t) : Canon s t := by
  cases o with
  | next u =>
    rw [← Host.Outcome.next.inj ht]
    exact after (settled _) (unlessSpent (ho u rfl))
  | fault f => cases ht
  | refused r => cases ht

end Canon

/-- Settles O58: every function that an engine, a fill, a window or the passing of time runs is a chain of writes of memory, stash writes and
changes of the rest, each of which keeps memory canonical (`Canon`). -/
theorem memoryStaysCanonical : Obligations.MemoryStaysCanonical := by
  unfold Obligations.MemoryStaysCanonical
  intro s t hok hevents hstep
  have hstart : ({ s with agenda := s.agenda.tail, cur := .none } : State).memoryOk = true := hok
  have hrun : Canon { s with agenda := s.agenda.tail, cur := .none } t := by
    unfold step at hstep
    refine Canon.stepEnd ?_ hstep
    split
    next hnil =>
      exact Canon.goes (Canon.after (Canon.passCycles s 1) (Canon.outside (by rw [hnil]; rfl) rfl))
    next i r hcons =>
      obtain ⟨j, hj, hmem⟩ := hevents (.event i) (hcons ▸ List.mem_cons_self)
      cases hj
      rw [show s.agenda.tail = r from hcons ▸ rfl]
      exact Canon.exec_memoryEvent hmem _
    next core slot r hcons =>
      obtain ⟨i, hi, -⟩ := hevents (.issue core slot) (hcons ▸ List.mem_cons_self)
      cases hi
    next eng r hcons =>
      obtain ⟨i, hi, -⟩ := hevents (.relay eng) (hcons ▸ List.mem_cons_self)
      cases hi
  obtain ⟨htok, hagenda⟩ := hrun hstart
  refine ⟨htok, fun a ha => hevents a (List.mem_of_mem_tail ?_)⟩
  rw [hagenda] at ha
  exact ha

end Sys2Proof.Machine
